-- ==== Sys2Proof/Word.lean ====
section
/-! DEFINITION. The word types of the device: bytes, register words and the numbers that address them. -/

namespace Sys2Proof

/-- One byte of a memory or of a frame. -/
abbrev Byte := BitVec 8

/-- One BAR0 register (R10: every register is 32 bits wide). -/
abbrev W32 := BitVec 32

/-- The two worlds of R516: every access is made from one of them. -/
inductive World where
  | nonsecure
  | secure
  deriving DecidableEq, Repr

end Sys2Proof
end

