-- ==== Sys2Proof/Syntax.lean ====
section
/-! DEFINITION. The commands: one constructor for each row of spec/opcode_table.json, with its operands. A command is
something that the host, the secure firmware, the board, the network or time itself does to the block. -/

namespace Sys2Proof

/-- The commands of the device. `w` is the world of the access; a register value is 32 bits. -/
inductive Instr where
  /-- BUNDLE_ISSUE (R79). A Burin core issues its next bundle whole once all issue conditions hold, and every
  executing slot issues in that cycle. `cycles` cycles have passed since the core's last command, `frozen` of them
  with Hatch frozen; `imem` says that the bundle has an uncorrectable error, `corrected` how many errors were
  corrected and `bad` which core-local addresses now hold uncorrectable ones. -/
  | bundleIssue (core : Fin 8) (cycles : Nat) (frozen : Nat) (imem : Bool) (corrected : Nat) (bad : List Nat)
  /-- POISON_SCALAR (R102). A scalar load returns a poisoned beat, its destination is not written, and the core enters
  FAULT. -/
  | poisonScalar (core : Fin 8)
  /-- PASS_START (R125). A pending pass reaches its start cycle and its swap token enters PE (0, 0). `half` is the
  bottom half in tandem mode. -/
  | passStart (core : Fin 8) (half : Bool)
  /-- PASS_RETIRE (R122). A plate pass writes its last ACCM element or output row and retires, recording poison.
  `parity` lists the columns in which a PE parity error fell. -/
  | passRetire (core : Fin 8) (half : Bool) (parity : List Nat)
  /-- TILE_FREE (R132). A releasing ACCM tile becomes FREE once its last output row is drained or its earlier passes
  retire. -/
  | tileFree (core : Fin 8) (tile : Fin 16)
  /-- WASH_COMMAND_START (R174). A queued Wash command starts once the previous one has retired. -/
  | washCommandStart (core : Fin 8)
  /-- WASH_COMMAND_RETIRE (R174). A Wash command writes its last result and retires, recording poison and counts. -/
  | washCommandRetire (core : Fin 8)
  /-- HTB_START (R203). A waiting traceback starts on the traceback engine. -/
  | htbStart (core : Fin 8)
  /-- HTB_RETIRE (R203). A traceback writes its last output byte and retires. -/
  | htbRetire (core : Fin 8)
  /-- BARRIER_RELEASE (R96). The last member arrives, the barrier is released and members issue their LBAR 24 cc
  later. `job` is the scheduler's number of the job, `seq` the SEQ of the barrier. -/
  | barrierRelease (job : Nat) (seq : Nat)
  /-- SEM_GRANT (R409). A released semaphore is granted to the earliest waiting SEMACQ. -/
  | semGrant (sem : Fin 64)
  /-- SEM_BROKEN (R409). A semaphore or Waten-credit hold reaches 10 us, the holder is aborted and the semaphore
  released. Holds 0 to 63 are semaphores, 64 + i the Waten credits of link i. -/
  | semBroken (hold : Fin 128)
  /-- LOGICAL_CORE_SWITCH (R100). A physical core saves the outgoing logical core and restores the next hosted one. -/
  | logicalCoreSwitch (core : Fin 8)
  /-- SWITCH_RESTORE_DONE (R100). The restore of a switched-in logical core completes and it resumes. `cycles` cycles
  of SWITCH have passed. -/
  | switchRestoreDone (core : Fin 8) (cycles : Nat)
  /-- GLEANER_REQUEST (R230). In a NOC_CLK cycle the Gleaner sends up to two read and two write requests by round
  robin. -/
  | gleanerRequest (core : Fin 8)
  /-- UNIT_DELIVERED (R221). An inbound buffer completes and becomes a token of its queue. -/
  | unitDelivered (core : Fin 8) (desc : Fin 32)
  /-- BUFFER_RETURN (R86). A popped buffer passes back to the Gleaner once all accesses to it have finished. -/
  | bufferReturn (core : Fin 8) (queue : Fin 16)
  /-- POOL_BORROW (R219). A ring-mode descriptor borrows a free slot of the shared pool. -/
  | poolBorrow (core : Fin 8)
  /-- OUTBOUND_DRAIN (R221). A ready outbound buffer is drained to its external target. -/
  | outboundDrain (core : Fin 8) (desc : Fin 32)
  /-- END_RECORD (R228). The end record of a run is delivered as one further token once a buffer is free. -/
  | endRecord (core : Fin 8) (desc : Fin 32)
  /-- RUN_DONE (R224). A run delivers its last unit and its descriptor becomes DONE or starts its pending run. -/
  | runDone (core : Fin 8) (desc : Fin 32)
  /-- STOP_COMPLETE (R227). A stopped run finishes its sent requests and its descriptor becomes IDLE or starts its
  pending run. -/
  | stopComplete (core : Fin 8) (desc : Fin 32)
  /-- STILE_COMPLETE (R237). A Stile transfer completes and its slot frees. The transfer took `cycles` cycles. -/
  | stileComplete (core : Fin 8) (cycles : Nat)
  /-- COMMIT (R256). The cache page manager takes an append commit header, checks it and appends the position or
  refuses it. -/
  | commit
  /-- CREATE (R266). Host command that initialises a history's page lists and sets VALID. -/
  | create (w : World) (hist : Fin 16384)
  /-- DELETE (R266). Host command that frees a history's pages and clears VALID. -/
  | delete (w : World) (hist : Fin 16384)
  /-- KVP_ENABLE (R262). Setting KVP_CTRL.ENABLE builds the free list and starts the cache page manager. `v` is the
  value written to KVP_CTRL. -/
  | kvpEnable (w : World) (v : W32)
  /-- FRAME_RECEIVE (R446). A port receives a frame, time-stamps and checks it, and routes it to the ingress buffer,
  slow path or Waten engine. The frame with its FCS; its first bit was captured `age` ticks ago. -/
  | frameReceive (port : Fin 8) (age : Nat) (bytes : List Byte)
  /-- ADMISSION_POINT (R511). At an admission point the entries stamped early enough in free-domain buffers become
  visible to locked-family blocks. -/
  | admissionPoint
  /-- RXC_SWAP (R281). Host write of GO starts a background build of the staged banks of a cell. `v` is the value
  written to RXC_SWAP. -/
  | rxcSwap (w : World) (v : W32)
  /-- BUILD_DONE (R282). A background build completes and makes the swap ready or fails. `tx` names the transmit
  chain. -/
  | buildDone (tx : Bool)
  /-- SWAP_DONE (R283). At a slot boundary a ready swap makes the staged banks active, or the swap is postponed. `tx`
  names the transmit chain. -/
  | swapDone (tx : Bool) (cell : Fin 32)
  /-- CONTRIBUTION (R301). The receive chain takes a soft-bit contribution, checks it and descrambles and combines its
  LLRs. The next contribution of the core's stream. -/
  | contribution (core : Fin 8)
  /-- CODE_BLOCK_QUEUED (R308). A code block whose last position has been combined is queued to the decoder farm. -/
  | codeBlockQueued
  /-- CODE_BLOCK_ASSIGN (R345). The head block of a queue is assigned to an engine with room. -/
  | codeBlockAssign (turbo : Bool)
  /-- SPAN_FETCHED (R346). A block's read span arrives in its engine's staging slot. -/
  | spanFetched
  /-- DECODE_START (R352). An engine starts decoding a staged block. Engines 0 to 7 are LDPC, 8 to 11 turbo. -/
  | decodeStart (engine : Fin 12)
  /-- CODE_BLOCK_RESULT (R356). An engine fixes a block's decoded result and status. `ue` says that the engine's
  memory had an uncorrectable error during the block. -/
  | codeBlockResult (engine : Fin 12) (ue : Bool)
  /-- DEADLINE (R310). At a slot's delivery deadline every open grant gets a DEADLINE record and its blocks are
  withdrawn. -/
  | deadline (cell : Fin 32) (slot : W32)
  /-- DECODE_STOP (R348). A withdrawn running block stops at the end of its current layer or half-iteration. -/
  | decodeStop (engine : Fin 12)
  /-- RECORD_WRITE (R552). A delivery record or event is written to its ring or waits in the device queue, or is lost.
  `delivery` names the uplink delivery ring, else the event ring. -/
  | recordWrite (delivery : Bool)
  /-- TB_COPY_DONE (R326). An intake entry's list and transport blocks have been copied to staging. The list and the
  blocks as they were read from host memory. -/
  | tbCopyDone (list : List Byte) (blocks : List (List Byte))
  /-- ENCODE (R359). An encoder encodes a code block handed to it by the transmit chain. -/
  | encode (turbo : Bool)
  /-- SYMBOL_PRECODED (R332). A stream's symbol is precoded once the weight and overlay status words name the slot. -/
  | symbolPrecoded (cell : Fin 32) (slot : W32) (sym : Fin 14) (row : Nat)
  /-- TX_WINDOW_OPEN (R333). A symbol's transmission window opens and its complete frames may be sent. -/
  | txWindowOpen (cell : Fin 32) (slot : W32) (sym : Fin 14)
  /-- TX_WINDOW_CLOSE (R333). A symbol's window closes: incomplete streams are not sent and unbegun frames are
  dropped. -/
  | txWindowClose (cell : Fin 32) (slot : W32) (sym : Fin 14)
  /-- FRAME_TRANSMIT (R452). A port's transmit arbiter starts the next ready frame by precedence. -/
  | frameTransmit (port : Fin 8)
  /-- CPLANE_SEND (R335). The chain originates the C-plane message of a slot at its send time. `up` names the receive
  cell of that number. -/
  | cplaneSend (cell : Fin 32) (up : Bool) (slot : W32)
  /-- OVERLAY_MARKER (R331). After a slot's last symbol leaves, the overlay buffer is refilled with markers. -/
  | overlayMarker (cell : Fin 32)
  /-- MASK_CHECK (R339). The spectral mask monitor checks a symbol and writes a margin report. -/
  | maskCheck (cell : Fin 32) (slot : W32) (sym : Fin 14) (row : Nat)
  /-- POLAR_REQUEST (R361). A polar request header and its LLRs arrive through the request window. `header` says that
  the next write is taken as a header although a request is incomplete. -/
  | polarRequest (core : Fin 8) (header : Bool)
  /-- POLAR_RESULT (R365). A polar engine finishes a request and writes its 256-byte result. -/
  | polarResult (engine : Fin 2)
  /-- CONFIDENCE_REPORT (R380). A confidence report makes a grant's decision final. The next report of the core's
  stream. -/
  | confidenceReport (core : Fin 8)
  /-- SET_POLICY (R385). Supervisor host command that sets a history's policy and blend weight. -/
  | setPolicy (w : World) (policy : Fin 4) (alpha : Fin 512) (hist : Fin 16384)
  /-- RESET_LOOP (R385). Supervisor host command that clears a history's offset and outcome counts. -/
  | resetLoop (w : World) (hist : Fin 16384)
  /-- JOB_PLACEMENT (R402). An admitted job is placed on its reserved or free cores once they are free. `job` is the
  scheduler's number of the job. -/
  | jobPlacement (job : Nat)
  /-- PREEMPTION (R404). A requested pre-emption takes effect at the victim's next pre-emption point. -/
  | preemption (core : Fin 8)
  /-- SLICE_END (R405). A BULK job's time slice expires and pre-emption is requested. -/
  | sliceEnd (job : Nat)
  /-- JOB_END (R406). Completion, abort or fault of a job is arbitrated and one JOB_END is posted. -/
  | jobEnd (job : Nat)
  /-- DEADLINE_ABORT (R406). A SLOT job reaches its DEADLINE before completing and is aborted. -/
  | deadlineAbort (job : Nat)
  /-- WATCHDOG (R406). A logical core stalls longer than SCH_WDOG and its job is aborted. -/
  | watchdog (core : Fin 8)
  /-- REFRESH (R431). All LPDDR5X channels refresh at a scheduled offset of the frame. -/
  | refresh
  /-- HOTREF (R431). A hot package switches the refresh timing at the next 125 us boundary. `temp` is the temperature
  of package `pkg` as S8 in °C. -/
  | hotref (pkg : Fin 4) (temp : BitVec 8)
  /-- MEMORY_BURST (R239). In a frame slot the owning class starts one 64-byte burst. `errs` lists the
  soft errors that have struck the arrays since: the array, the place in it and whether it is uncorrectable. -/
  | memoryBurst (chan : Fin 16) (errs : List (Fin 6 × Nat × Bool))
  /-- MEM_ENABLE (R437). Setting MEM_CTRL.ENABLE trains the channels and starts the controller. `v` is the value
  written to MEM_CTRL. -/
  | memEnable (w : World) (v : W32)
  /-- MEM_READY (R534). Channel training completes and MEM_STATUS.READY is set. -/
  | memReady
  /-- MEM_SHARE_WRITE (R240). Secure write of the traffic shares, locking them if valid. `v` is the value written. -/
  | memShareWrite (w : World) (v : W32)
  /-- CMN_ENABLE (R423). Setting CMN_CTRL.ENABLE starts the Commons with its window and cache ways. `v` is the value
  written to CMN_CTRL. -/
  | cmnEnable (w : World) (v : W32)
  /-- REGION_WRITE (R425). Write of a region descriptor register, restricted while the page is enabled. `cmn` names
  the CMN page; word 0 is RGN_BASE, 1 RGN_LIMIT, 2 RGN_ATTR. -/
  | regionWrite (w : World) (cmn : Bool) (region : Fin 32) (word : Fin 3) (v : W32)
  /-- CROSSING_ACCESS (R519). A non-secure access to a secure target reads zero, discards writes and is logged. `req`
  is the SEC_XINFO code of the requester. -/
  | crossingAccess (req : Fin 17) (wr : Bool) (bar0 : Bool) (addr : Nat)
  /-- WINDOW_WRITE (R420). A write to a write-only window is taken by the owning block as part of the core's stream.
  Window 0 is the append window, 1 the LLR intake, 2 the polar requests, 3 the confidence reports. -/
  | windowWrite (window : Fin 4) (core : Fin 8)
  /-- ETH_ENABLE (R443). Enabling a port runs auto-negotiation and link training. `v` is the value written to
  ETH_CTRL. -/
  | ethEnable (w : World) (port : Fin 8) (v : W32)
  /-- LINK_DOWN (R473). A port's link goes down. -/
  | linkDown (port : Fin 8)
  /-- SLOW_PATH_TX (R459). The port sends the next host slow-path slot and writes back its header. -/
  | slowPathTx (port : Fin 8)
  /-- TIM_OFFSET_NS (R462). Writing the offset triggers a servo update, a step or a held step. `v` is the value
  written. -/
  | timOffsetNs (w : World) (v : W32)
  /-- SET (R461). TIM_CTRL.SET loads the counter from TIM_SET_NS while the grid is off. `v` is the value written to
  TIM_CTRL. -/
  | setCounter (w : World) (v : W32)
  /-- GRID_EN (R466). Setting or clearing GRID_EN starts or stops the slot grid, subject to its checks. `v` is the
  value written to TIM_CTRL. -/
  | gridEn (w : World) (v : W32)
  /-- TIM_NOW_FRAC_READ (R461). A read of TIM_NOW_FRAC returns the fraction and latches the nanoseconds. -/
  | timNowFracRead (w : World)
  /-- GRID_EVENT (R465). A slot-grid time is reached and its boundary, window or deadline event takes place. -/
  | gridEvent
  /-- PPS_OUT (R468). PPS_OUT rises at TIM_PPS_NEXT and the next pulse time advances. -/
  | ppsOut
  /-- PPS_OUT_FALL (R468). PPS_OUT falls after TIM_PPS_WIDTH. -/
  | ppsOutFall
  /-- PPS_IN (R469). A PPS_IN rising edge is captured. -/
  | ppsIn
  /-- SYNCE_CHANGE (R470). A change of SyncE port or divider holds the output low then restarts it. `v` is the value
  written to ETH_SYNCE. -/
  | synceChange (w : World) (v : W32)
  /-- ALIGN_GO (R508). Request of the alignment reset, accepted only with the grid on and blocks disabled. `v` is the
  value written to DET_CTRL. -/
  | alignGo (w : World) (v : W32)
  /-- ALIGNMENT_STROBE (R467). The time unit gives the strobe at the next 125 us boundary and queues stop accepting.
  -/
  | alignmentStrobe
  /-- QUEUE_RESTART (R508). At a pattern start an empty dual-clock queue restarts at its fixed offset. `empty` says
  that every queue still to restart is empty. -/
  | queueRestart (empty : Bool)
  /-- ALIGN_LOST (R509). A locked-family PLL relocks and alignment is lost. -/
  | alignLost
  /-- SIG_CLR (R513). Both determinism signatures are reset at the next admission point. `v` is the value written to
  DET_CTRL. -/
  | sigClr (w : World) (v : W32)
  /-- BEACON (R480). Every 100 ms the Waten engine sends a beacon on each usable port. -/
  | beacon
  /-- MESSAGE_RECEIVE (R479). A Waten message is checked, stored and acts at its admission point. -/
  | messageReceive
  /-- ADDR_HELD (R481). After 300 ms without a conflicting beacon the device holds its claimed address. -/
  | addrHeld
  /-- CREDIT (R487). A CREDIT message is sent when 8 credits or a 2 us old credit are owed. -/
  | credit (link : Fin 64)
  /-- SEND_REQUEST (R491). A Stile write of the ready line requests the send of a gather slice. -/
  | sendRequest (core : Fin 8)
  /-- GATHER_OPEN (R489). A layer's gather opens and accepted sends begin transmission. -/
  | gatherOpen (cell : Fin 32) (slot : W32) (layer : Fin 8)
  /-- GATHER_CLOSE (R492). A gather closes, the status word is written and missing slices are zeroed. -/
  | gatherClose (cell : Fin 32) (slot : W32) (layer : Fin 8)
  /-- BIND (R494). Waten command binding a mirror partner and starting the copy. -/
  | bind (w : World) (peer : Fin 16384)
  /-- UNBIND (R498). Waten command unbinding the mirror pair. -/
  | unbind (w : World)
  /-- TAKEOVER (R497). Waten command by which the survivor takes over from its partner. -/
  | takeover (w : World)
  /-- MIRROR_SYNCED (R494). The mirror copy completes and the pair becomes SYNCED. -/
  | mirrorSynced
  /-- MIRROR_RESYNC (R496). A mirrored beat finds the queue full and the copy restarts. -/
  | mirrorResync
  /-- LINK_WRITE (R486). Write of a Waten link entry, setting or clearing VALID. Word 0 holds VALID and PEER, word 1
  the credits. -/
  | linkWrite (w : World) (link : Fin 64) (word : Fin 2) (v : W32)
  /-- BOOT (R534). The ROM reads the flash, derives the identity, verifies records and boots firmware. `flash` is what
  the boot flash holds from offset 0 on. -/
  | boot (flash : List Byte)
  /-- RECOVER_BOOT (R536). SEC command that verifies and boots an image placed in BAR2. -/
  | recoverBoot (w : World) (len : Nat)
  /-- UPDATE_FW (R537). SEC command that verifies and writes firmware to the slot not booted. -/
  | updateFw (w : World) (len : Nat)
  /-- RAISE_FLOOR (R537). SEC command that verifies and writes a floor amendment. -/
  | raiseFloor (w : World) (len : Nat)
  /-- UPDATE_CFG (R537). SEC command that verifies and writes the configuration record. -/
  | updateCfg (w : World) (len : Nat)
  /-- GET_VERSION (R538). SPDM request answered over DOE. `req` is the SPDM message, without its data object header.
  -/
  | getVersion (req : List Byte)
  /-- GET_CAPABILITIES (R538). SPDM request answered over DOE. `req` is the SPDM message, without its data object
  header. -/
  | getCapabilities (req : List Byte)
  /-- NEGOTIATE_ALGORITHMS (R538). SPDM request answered over DOE. `req` is the SPDM message, without its data object
  header. -/
  | negotiateAlgorithms (req : List Byte)
  /-- GET_DIGESTS (R538). SPDM request answered over DOE. `req` is the SPDM message, without its data object header.
  -/
  | getDigests (req : List Byte)
  /-- GET_CERTIFICATE (R538). SPDM request returning the device certificate chain. `req` is the SPDM message, without
  its data object header. -/
  | getCertificate (req : List Byte)
  /-- CHALLENGE (R538). SPDM request answered with an identity-key signature. `req` is the SPDM message, without its
  data object header. -/
  | challenge (req : List Byte)
  /-- GET_MEASUREMENTS (R539). SPDM request returning signed measurement blocks. `req` is the SPDM message, without
  its data object header. -/
  | getMeasurements (req : List Byte)
  /-- JOB_RING_DOORBELL (R555). Host doorbell advancing the job ring WR. `v` is the value written. -/
  | jobRingDoorbell (v : W32)
  /-- INTAKE_RING_DOORBELL (R555). Host doorbell advancing the downlink intake ring WR. `v` is the value written. -/
  | intakeRingDoorbell (v : W32)
  /-- PAYLOAD_RING_DOORBELL (R555). Host doorbell offering payload buffers. `v` is the value written. -/
  | payloadRingDoorbell (v : W32)
  /-- DELIVERY_RING_DOORBELL (R555). Host doorbell advancing the delivery ring RD. `v` is the value written. -/
  | deliveryRingDoorbell (v : W32)
  /-- EVENT_RING_DOORBELL (R555). Host doorbell advancing the event ring RD. `v` is the value written. -/
  | eventRingDoorbell (v : W32)
  /-- ENTRY_FETCH (R549). The PCIe controller fetches ring entries after a doorbell and stamps them for admission.
  `bytes` is the entry as it was read from host memory. -/
  | entryFetch (ring : Fin 3) (bytes : List Byte)
  /-- ENTRY_ERR (R543). A host read completes poisoned or times out after 50 ms and the entry is discarded. `copy`
  says that the read was one of the list or a block of the intake entry being copied. -/
  | entryErr (ring : Fin 3) (copy : Bool)
  /-- BAR2_ACCESS (R545). A host access through BAR2 to the device map. A write of `bytes`, or a read of `len` bytes.
  -/
  | bar2Access (wr : Bool) (addr : Nat) (len : Nat) (bytes : List Byte) (poison : Bool)
  /-- MSIX_MESSAGE (R557). A ring vector sends its message on THRESH entries or HOLDOFF expiry. -/
  | msixMessage (ring : Fin 5)
  /-- BLOCK_INTERRUPT (R592). A page signals its vector while an unmasked IRQ_STATUS bit is set. `page` is the BAR0
  offset of the page shifted right by 12. -/
  | blockInterrupt (page : Nat)
  /-- IRQ_FORCE (R592). Writing IRQ_FORCE sets IRQ_STATUS bits. `page` is the BAR0 offset of the page shifted right by
  12. -/
  | irqForce (w : World) (page : Nat) (v : W32)
  /-- BLK_RESET (R593). Writing GO resets a block at its admission point. `page` is the BAR0 offset of the page
  shifted right by 12. -/
  | blkReset (w : World) (page : Nat) (v : W32)
  /-- BLK_RESET_DONE (R593). A block reset completes and RST_BUSY clears. `page` is the BAR0 offset of the page
  shifted right by 12. -/
  | blkResetDone (page : Nat)
  /-- CLR (R49). Writing NUM_CTRL.CLR clears the numeric counters and flags. `page` is the BAR0 offset of the page
  shifted right by 12, `v` the value written to NUM_CTRL. -/
  | clr (w : World) (page : Nat) (v : W32)
  /-- RC_READ (R12). A full-word read of an RC register returns and clears it. A read of `len` bytes of BAR0, or of
  BAR4 with `bar4`. -/
  | rcRead (w : World) (bar4 : Bool) (addr : Nat) (len : Nat)
  /-- CORE_CYC_LO_READ (R105). Reading CORE_CYC_LO latches CORE_CYC_HI. -/
  | coreCycLoRead (w : World) (core : Fin 8)
  /-- REGISTER_WRITE (R10). A write to a register that has no row of its own, subject to partial-write, access-code
  and world rules. A write of `bytes` to BAR0, or to BAR4 with `bar4`. -/
  | registerWrite (w : World) (bar4 : Bool) (addr : Nat) (bytes : List Byte)
  /-- PWR_DVFS (R565). Write of the operating point, relocking the core PLL when the clock changes. `v` is the value
  written. -/
  | pwrDvfs (w : World) (v : W32)
  /-- RELOCK_DONE (R565). The core PLL relock completes and BUSY clears. -/
  | relockDone
  /-- PWR_GOV (R573). Write of the slew-governor cap. `v` is the value written. -/
  | pwrGov (w : World) (v : W32)
  /-- GOVERNOR_QUANTUM (R568). At a 50 ns boundary the governor updates its level and places ballast. -/
  | governorQuantum
  /-- SENSOR_READ (R579). The thermal sensors are read every 100 us and WARN and THROTTLE thresholds are applied. The
  24 readings in 0.25 °C. -/
  | sensorRead (temps : List Int)
  /-- VCORE_SAMPLE (R566). VDD_CORE is sampled every 1 us and undervoltage is flagged. VDD_CORE in mV. -/
  | vcoreSample (mv : Nat)
  /-- THERMTRIP (R580). A sensor reaches 110 C and the device enters thermal reset. -/
  | thermtrip
  /-- POR (R577). Rails become good after VDD_AUX was off and the device resets. -/
  | por
  /-- BROWNOUT (R562). A rail falls below 85 % for 1 us and the device resets. `aux` says that VDD_AUX has stayed up.
  -/
  | brownout (aux : Bool)
  /-- RST_PIN (R577). RST_N held low for 1 us resets the device. RST_N has been low for `ns` nanoseconds. -/
  | rstPin (ns : Nat)
  /-- PERST (R578). PERST_N resets the device or the PCIe controller alone. -/
  | perst
  /-- REFCLK_LOSS (R576). REFCLK is absent for 2 us and the device is held in reset. -/
  | refclkLoss
  /-- SWRST (R577). A secure write of the key to PWR_SWRST resets the device. `v` is the value written. -/
  | swrst (w : World) (v : W32)
  /-- RESET_RELEASE (R562). All rails have been good for 2 ms with REFCLK present and internal reset is released. -/
  | resetRelease
  /-- PLL_LOCK (R575). A PLL locks after reset release or relocks after losing lock. `pll` is the bit of CRU_PLL_LOCK.
  -/
  | pllLock (pll : Fin 9)
  /-- I3C_WRITE (R582). A 2-byte I3C private write sets the PWR page offset. -/
  | i3cWrite (bytes : List Byte)
  /-- I3C_READ (R582). An I3C private read returns the addressed PWR register. -/
  | i3cRead
  /-- ALERT_N (R583). ALERT_N asserts while an unmasked PWR IRQ_STATUS bit is set, raising an in-band interrupt. -/
  | alertN
  /-- LINK_UP (R443). Auto-negotiation and link training of a port complete and its link comes up, setting TRAINED,
  FEC_LOCK and LINK. -/
  | linkUp (port : Fin 8)
  /-- LOSES_LOCK (R576). A locked-family PLL loses lock for a reason other than a DVFS change or REFCLK loss. `pll` is
  the bit of CRU_PLL_LOCK. -/
  | losesLock (pll : Fin 4)
  /-- PERST_RELEASE (R578). PERST_N is released and, with PERST_SCOPE 1, the PCIe link trains again while the other
  blocks keep running. -/
  | perstRelease
  /-- CMD_DONE (R537). A SEC field-update or recovery command finishes its flash write and read-back, clearing BUSY,
  setting RESULT and CMD_DONE. `readOk` says that the item read back as it was written. -/
  | cmdDone (readOk : Bool)
  /-- IMAGE_LOAD (R395). The job scheduler completes loading a job image into a placed core, checks its header and
  entries, and the core leaves LOAD for RUN or the job aborts with reason IMAGE. -/
  | imageLoad (job : Nat)
  /-- BOUNDARY_SCAN (R584). A JTAG TAP operation runs one of the IEEE 1149.1 instructions BYPASS, IDCODE,
  SAMPLE/PRELOAD, EXTEST, CLAMP or HIGHZ. 0 BYPASS, 1 IDCODE, 2 SAMPLE/PRELOAD, 3 EXTEST, 4 CLAMP, 5 HIGHZ, with the
  bits shifted in. -/
  | boundaryScan (inst : Fin 6) (bits : List Bool)
  deriving DecidableEq, Repr

end Sys2Proof
end

