-- ==== Sys2Proof/Machine/Bits.lean ====
section
/-! DEFINITION. Bit fields, two's complement, byte order and small list helpers that every unit uses. -/

namespace Sys2Proof.Machine

/-- Bits `hi` down to `lo` of `n`, as the register tables write a field. -/
def bits (n hi lo : Nat) : Nat := (n >>> lo) % 2 ^ (hi + 1 - lo)

/-- Bit `i` of `n`. -/
def bit (n i : Nat) : Bool := n.testBit i

/-- `n` with bits `hi` down to `lo` replaced by `v`. -/
def putBits (n hi lo v : Nat) : Nat :=
  n - bits n hi lo * 2 ^ lo + (v % 2 ^ (hi + 1 - lo)) * 2 ^ lo

/-- A Bool as 0 or 1. -/
def b2n (b : Bool) : Nat := if b then 1 else 0

/-- The two's-complement value of the low `w` bits of `n`. -/
def toS (w n : Nat) : Int :=
  let m := n % 2 ^ w
  if m < 2 ^ (w - 1) then (m : Int) else (m : Int) - (2 ^ w : Nat)

/-- The low `w` bits of the two's-complement form of `i`. -/
def ofS (w : Nat) (i : Int) : Nat := (i % (2 ^ w : Nat)).toNat

/-- `x` clamped to `lo … hi`. -/
def clampI (lo hi x : Int) : Int := if x < lo then lo else if hi < x then hi else x

/-- Largest value of a `w`-bit two's-complement number. -/
def maxS (w : Nat) : Int := (2 ^ (w - 1) : Nat) - 1

/-- Smallest value of a `w`-bit two's-complement number. -/
def minS (w : Nat) : Int := -(2 ^ (w - 1) : Nat)

/-- `x` saturated to `w` bits, and whether it saturated (R47). -/
def satS (w : Nat) (x : Int) : Int × Bool :=
  let y := clampI (minS w) (maxS w) x
  (y, y != x)

/-- Little-endian number of a byte list (R9). -/
def leNat : List Byte → Nat
  | [] => 0
  | b :: bs => b.toNat + 256 * leNat bs

/-- The `n` low bytes of `v`, little-endian (R9). -/
def leBytes : Nat → Nat → List Byte
  | 0, _ => []
  | n + 1, v => BitVec.ofNat 8 v :: leBytes n (v / 256)

/-- Big-endian number of a byte list, the wire order of frame headers. -/
def beNat (bs : List Byte) : Nat := leNat bs.reverse

/-- The `n` low bytes of `v`, most significant byte first. -/
def beBytes (n v : Nat) : List Byte := (leBytes n v).reverse

/-- `n` bytes of `bs` from offset `off`, zero past its end. -/
def slice (bs : List Byte) (off n : Nat) : List Byte :=
  (List.range n).map fun i => bs.getD (off + i) 0

/-- Little-endian field of `n` bytes at offset `off` of a record. -/
def leAt (bs : List Byte) (off n : Nat) : Nat := leNat (slice bs off n)

/-- Bits of a byte list, most significant bit of each byte first (R40). -/
def bitsMsb (bs : List Byte) : List Bool :=
  bs.flatMap fun b => (List.range 8).map fun i => b.getLsbD (7 - i)

/-- Number whose most significant bit comes first in `l`. -/
def ofBitsMsb (l : List Bool) : Nat := l.foldl (fun n b => 2 * n + b2n b) 0

/-- The `w` low bits of `n`, most significant first. -/
def toBitsMsb (w n : Nat) : List Bool := (List.range w).map fun i => n.testBit (w - 1 - i)

/-- Bits packed eight to a byte, most significant first, the last byte padded with zeros. -/
def packMsb (l : List Bool) : List Byte :=
  (List.range ((l.length + 7) / 8)).map fun i =>
    BitVec.ofNat 8 (ofBitsMsb ((List.range 8).map fun j => l.getD (8 * i + j) false))

/-- Integer square root by setting bits from the top; `k` bounds the bits tried. -/
def isqrtFrom : Nat → Nat → Nat → Nat
  | 0, _, r => r
  | k + 1, n, r =>
    let r' := r + 2 ^ k
    if r' * r' ≤ n then isqrtFrom k n r' else isqrtFrom k n r

/-- ⌊√n⌋. -/
def isqrt (n : Nat) : Nat := isqrtFrom (n.log2 / 2 + 1) n 0

/-- Quotient rounded up. -/
def ceilDiv (a b : Nat) : Nat := (a + b - 1) / b

/-- `a` insert into a strictly rising list. -/
def insertSorted (a : Nat) : List Nat → List Nat
  | [] => [a]
  | b :: l => if a < b then a :: b :: l else if a = b then b :: l else b :: insertSorted a l

/-- `a` taken out of a list. -/
def removeAll (a : Nat) (l : List Nat) : List Nat := l.filter (· != a)

/-- The list with position `i` changed by `f`. -/
def modAt {α : Type} (l : List α) (i : Nat) (f : α → α) : List α := l.modify i f

/-- The value at which every 32-bit count stops. -/
def count32Max : Nat := 0xFFFFFFFF

/-- A count that stops at `2 ^ 32 - 1`. -/
def satAdd (a b : Nat) : Nat := if count32Max < a + b then count32Max else a + b

/-- Insert into a list sorted by `le`, after equal elements. -/
def insertBy {α : Type} (le : α → α → Bool) (a : α) : List α → List α
  | [] => [a]
  | b :: l => if le b a then b :: insertBy le a l else a :: b :: l

/-- Stable insertion sort. -/
def sortBy {α : Type} (le : α → α → Bool) (l : List α) : List α := l.foldl (fun acc a => insertBy le a acc) []

/-- The ascending list `lo, lo + 1, …` of `n` numbers. -/
def rangeFrom (lo n : Nat) : List Nat := (List.range n).map (lo + ·)

end Sys2Proof.Machine
end

