-- ==== Sys2Proof/Machine/Num.lean ====
section
/-! DEFINITION. The thirteen number formats, exact values, the one rounding rule and the conversion matrix
(02_number_formats_and_quantisation.md, R25 to R62). -/

namespace Sys2Proof.Machine

/-- The thirteen format codes of R25. -/
inductive Fmt where
  | s4 | s8 | s16 | s32 | e4m3 | e5m2 | f16 | bf16 | f32 | cs16 | cf16 | bfp | llr6
  deriving DecidableEq, Repr

/-- The format of a 4-bit code; `none` for the reserved codes 0xD to 0xF (R25). -/
def Fmt.ofCode : Nat → Option Fmt
  | 0 => some .s4 | 1 => some .s8 | 2 => some .s16 | 3 => some .s32 | 4 => some .e4m3 | 5 => some .e5m2
  | 6 => some .f16 | 7 => some .bf16 | 8 => some .f32 | 9 => some .cs16 | 10 => some .cf16 | 11 => some .bfp
  | 12 => some .llr6 | _ => none

/-- The 4-bit code of a format (R25). -/
def Fmt.code : Fmt → Nat
  | .s4 => 0 | .s8 => 1 | .s16 => 2 | .s32 => 3 | .e4m3 => 4 | .e5m2 => 5 | .f16 => 6 | .bf16 => 7 | .f32 => 8
  | .cs16 => 9 | .cf16 => 10 | .bfp => 11 | .llr6 => 12

/-- Container width in bits (R25); a BFP block has no fixed container and answers 0. -/
def Fmt.width : Fmt → Nat
  | .s4 => 4 | .s8 | .e4m3 | .e5m2 | .llr6 => 8 | .s16 | .f16 | .bf16 => 16 | .s32 | .f32 | .cs16 | .cf16 => 32
  | .bfp => 0

/-- The integer formats of R28. -/
def Fmt.isInt : Fmt → Bool
  | .s4 | .s8 | .s16 | .s32 => true
  | _ => false

/-- The floating-point formats of R32. -/
def Fmt.isFloat : Fmt → Bool
  | .e4m3 | .e5m2 | .f16 | .bf16 | .f32 => true
  | _ => false

/-- The complex formats of R38. -/
def Fmt.isComplex : Fmt → Bool
  | .cs16 | .cf16 => true
  | _ => false

/-- Numeric events of one operation, counted by the block that caused them (R49). -/
structure NumEv where
  sat : Nat := 0
  nan : Nat := 0
  clamp : Nat := 0
  inf : Bool := false
  accSat : Bool := false
  bfpSat : Bool := false
  deriving DecidableEq, Repr

/-- Events of two operations together. -/
def NumEv.add (a b : NumEv) : NumEv :=
  { sat := a.sat + b.sat, nan := a.nan + b.nan, clamp := a.clamp + b.clamp, inf := a.inf || b.inf,
    accSat := a.accSat || b.accSat, bfpSat := a.bfpSat || b.bfpSat }

/-- No event. -/
def NumEv.none : NumEv := {}

/-- One counted saturation, when `b`. -/
def NumEv.ofSat (b : Bool) : NumEv := { sat := b2n b }

/-- Events of a list of results, and the results. -/
def collectEv {α : Type} (l : List (α × NumEv)) : List α × NumEv :=
  (l.map (·.1), l.foldl (fun e x => e.add x.2) {})

/-- An exact finite number, `± num / den`; the sign also tells `+0` from `−0`. -/
structure Ex where
  neg : Bool
  num : Nat
  den : Nat := 1
  deriving DecidableEq, Repr

/-- A value before it is rounded. -/
inductive Val where
  | fin (x : Ex)
  | inf (neg : Bool)
  | nan
  deriving DecidableEq, Repr

/-- Exact value of an integer. -/
def Ex.ofInt (i : Int) : Ex := { neg := decide (i < 0), num := i.natAbs }

/-- Numerator with its sign. -/
def Ex.snum (x : Ex) : Int := if x.neg then -(x.num : Int) else x.num

/-- `x + y`; an exact zero sum is `+0` (R35). -/
def Ex.add (x y : Ex) : Ex :=
  let n : Int := x.snum * y.den + y.snum * x.den
  { neg := decide (n < 0), num := n.natAbs, den := x.den * y.den }

/-- `x · y`; the sign of a zero product is that of the operands' signs (R35). -/
def Ex.mul (x y : Ex) : Ex := { neg := x.neg != y.neg, num := x.num * y.num, den := x.den * y.den }

/-- `−x`; the sign of a zero changes (R35). -/
def Ex.negate (x : Ex) : Ex := { x with neg := !x.neg }

/-- `x / y` for a nonzero `y`. -/
def Ex.div (x y : Ex) : Ex := { neg := x.neg != y.neg, num := x.num * y.den, den := x.den * y.num }

/-- `x · 2^k`. -/
def Ex.scale (x : Ex) (k : Int) : Ex :=
  if 0 ≤ k then { x with num := x.num * 2 ^ k.toNat } else { x with den := x.den * 2 ^ (-k).toNat }

/-- `x ≤ y` as numbers. -/
def Ex.le (x y : Ex) : Bool := decide (x.snum * y.den ≤ y.snum * x.den)

/-- `x < y` as numbers. -/
def Ex.lt (x y : Ex) : Bool := decide (x.snum * y.den < y.snum * x.den)

/-- `x = y` as numbers. -/
def Ex.eqv (x y : Ex) : Bool := decide (x.snum * y.den = y.snum * x.den)

/-- `|x|` rounded to the nearest integer, ties away from zero (R43). -/
def Ex.roundNat (x : Ex) : Nat := (2 * x.num + x.den) / (2 * x.den)

/-- `x` rounded to the nearest integer, ties away from zero (R43). -/
def Ex.roundInt (x : Ex) : Int := if x.neg then -(x.roundNat : Int) else x.roundNat

/-- ⌊log₂ |x|⌋ of a nonzero number. -/
def Ex.log2 (x : Ex) : Int :=
  let l : Int := (x.num.log2 : Int) - x.den.log2
  let below := if 0 ≤ l then decide (x.num < x.den * 2 ^ l.toNat) else decide (x.num * 2 ^ (-l).toNat < x.den)
  if below then l - 1 else l

/-- Layout of a floating-point format (R32). -/
structure FloatFmt where
  ebits : Nat
  fbits : Nat
  bias : Nat
  maxCode : Nat
  infCode : Option Nat
  nanCode : Nat
  deriving DecidableEq, Repr

/-- The rows of R32 and R33. -/
def floatFmt : Fmt → FloatFmt
  | .e4m3 => ⟨4, 3, 7, 0x7E, none, 0x7F⟩
  | .e5m2 => ⟨5, 2, 15, 0x7B, some 0x7C, 0x7E⟩
  | .f16 | .cf16 => ⟨5, 10, 15, 0x7BFF, some 0x7C00, 0x7E00⟩
  | .bf16 => ⟨8, 7, 127, 0x7F7F, some 0x7F80, 0x7FC0⟩
  | _ => ⟨8, 23, 127, 0x7F7FFFFF, some 0x7F800000, 0x7FC00000⟩

/-- Weight of the sign bit. -/
def FloatFmt.signBit (f : FloatFmt) : Nat := 2 ^ (f.ebits + f.fbits)

/-- The value a floating-point code stands for (R32 to R34). -/
def FloatFmt.decode (f : FloatFmt) (c : Nat) : Val :=
  let neg := c.testBit (f.ebits + f.fbits)
  let mag := c % f.signBit
  let e := mag / 2 ^ f.fbits
  let m := mag % 2 ^ f.fbits
  if f.maxCode < mag then
    match f.infCode with
    | some i => if mag = i then .inf neg else .nan
    | none => .nan
  else
    let sig := if e = 0 then m else m + 2 ^ f.fbits
    let p : Int := (if e = 0 then 1 else (e : Int)) - f.bias - f.fbits
    .fin (({ neg := neg, num := sig } : Ex).scale p)

/-- Magnitude code nearest to `|x|` on the format's grid continued without bound (R43, R48); subnormals on the
grid of the smallest exponent (R34). -/
def FloatFmt.roundMag (f : FloatFmt) (x : Ex) : Nat :=
  if x.num = 0 then 0
  else
    let e0 := x.log2
    let emin : Int := 1 - f.bias
    let e := if e0 < emin then emin else e0
    let k := (x.scale ((f.fbits : Int) - e)).roundNat
    ((e + f.bias).toNat - 1) * 2 ^ f.fbits + k

/-- Code with a sign in front of a magnitude code. -/
def FloatFmt.withSign (f : FloatFmt) (neg : Bool) (mag : Nat) : Nat := if neg then f.signBit + mag else mag

/-- A finite value rounded once to the format; beyond the largest finite value it saturates and is counted
(R36, R43, R47, R48). -/
def FloatFmt.round (f : FloatFmt) (x : Ex) : Nat × NumEv :=
  let k := f.roundMag x
  if f.maxCode < k then (f.withSign x.neg f.maxCode, { sat := 1 }) else (f.withSign x.neg k, {})

/-- Any value rounded to the format: a NaN gives the canonical NaN, an infinity stays one or becomes the largest
finite value in E4M3 (R33, R53 case D). -/
def FloatFmt.encode (f : FloatFmt) : Val → Nat × NumEv
  | .fin x => f.round x
  | .inf neg => (f.withSign neg (f.infCode.getD f.maxCode), {})
  | .nan => (f.nanCode, {})

/-- Result in an integer format of `w` bits, rounded once and saturated (R44, R47; R53 case C). -/
def encodeInt (w : Nat) : Val → Int × NumEv
  | .fin x =>
    let r := satS w x.roundInt
    (r.1, .ofSat r.2)
  | .inf neg => (if neg then minS w else maxS w, {})
  | .nan => (0, {})

/-- `x + y` with the NaN rules of R37. -/
def Val.add : Val → Val → Val
  | .nan, _ | _, .nan => .nan
  | .inf a, .inf b => if a = b then .inf a else .nan
  | .inf a, _ => .inf a
  | _, .inf b => .inf b
  | .fin x, .fin y => .fin (x.add y)

/-- `−x`. -/
def Val.negate : Val → Val
  | .nan => .nan
  | .inf a => .inf (!a)
  | .fin x => .fin x.negate

/-- `x · y` with the NaN rules of R37. -/
def Val.mul : Val → Val → Val
  | .nan, _ | _, .nan => .nan
  | .inf a, .inf b => .inf (a != b)
  | .inf a, .fin y => if y.num = 0 then .nan else .inf (a != y.neg)
  | .fin x, .inf b => if x.num = 0 then .nan else .inf (x.neg != b)
  | .fin x, .fin y => .fin (x.mul y)

/-- `x < y` for two values that are not NaN, −0 equal to +0. -/
def Val.lt : Val → Val → Bool
  | .nan, _ | _, .nan => false
  | .inf a, .inf b => a && !b
  | .inf a, _ => a
  | _, .inf b => !b
  | .fin x, .fin y => x.lt y

/-- Is the value a NaN? -/
def Val.isNan : Val → Bool
  | .nan => true
  | _ => false

/-- Is the value infinite? -/
def Val.isInf : Val → Bool
  | .inf _ => true
  | _ => false

/-- Sign of a value. -/
def Val.neg? : Val → Bool
  | .fin x => x.neg
  | .inf n => n
  | .nan => false

/-- Reading an LLR6 container: the S8 value clamped to −31 … 31, each clamped container counted (R31). -/
def readLlr6 (c : Nat) : Int × NumEv :=
  let v := toS 8 c
  let k := clampI (-31) 31 v
  (k, { clamp := b2n (k != v) })

/-- The value of a real component and the events its reading causes: NaN operands are counted, infinite ones
flagged, LLR6 containers clamped (R31, R37, R49). CS16 components read as Q1.15 (R38). -/
def readVal (f : Fmt) (c : Nat) : Val × NumEv :=
  match f with
  | .s4 => (.fin (.ofInt (toS 4 c)), {})
  | .s8 => (.fin (.ofInt (toS 8 c)), {})
  | .s16 => (.fin (.ofInt (toS 16 c)), {})
  | .s32 => (.fin (.ofInt (toS 32 c)), {})
  | .cs16 => (.fin ((Ex.ofInt (toS 16 c)).scale (-15)), {})
  | .llr6 => let r := readLlr6 c; (.fin (.ofInt r.1), r.2)
  | .bfp => (.fin (.ofInt 0), {})
  | _ =>
    let v := (floatFmt f).decode c
    (v, { nan := b2n v.isNan, inf := v.isInf })

/-- Code of a result in a real format, with the saturations counted. For CS16 the Q1.15 code of one component
(R53 case E3); for LLR6 the clamp to −31 … 31 (R47). -/
def writeVal (f : Fmt) (v : Val) : Nat × NumEv :=
  match f with
  | .s4 => let r := encodeInt 4 v; (ofS 4 r.1, r.2)
  | .s8 => let r := encodeInt 8 v; (ofS 8 r.1, r.2)
  | .s16 => let r := encodeInt 16 v; (ofS 16 r.1, r.2)
  | .s32 => let r := encodeInt 32 v; (ofS 32 r.1, r.2)
  | .cs16 =>
    let r := encodeInt 16 (match v with | .fin x => .fin (x.scale 15) | w => w)
    (ofS 16 r.1, r.2)
  | .llr6 =>
    match v with
    | .fin x =>
      let i := x.roundInt
      let k := clampI (-31) 31 i
      (ofS 8 k, .ofSat (k != i))
    | .inf neg => (ofS 8 (if neg then -31 else 31), {})
    | .nan => (0, {})
  | .bfp => (0, {})
  | _ => (floatFmt f).encode v

/-- Conversion of one real value between integer, float and LLR6 classes, the operand already read (R52, R53
cases A to D, E3, L1, L2). -/
def convReal (dst : Fmt) (v : Val) : Nat × NumEv := writeVal dst v

/-- I and Q codes of a complex container (R38). -/
def cparts (c : Nat) : Nat × Nat := (c % 65536, c / 65536 % 65536)

/-- Complex container of I and Q codes (R38). -/
def cjoin (i q : Nat) : Nat := i % 65536 + 65536 * (q % 65536)

/-- Events of reading one container of a format: a NaN component counts although its bits are only moved (R37). -/
def readEv (f : Fmt) (c : Nat) : NumEv :=
  match f with
  | .cf16 => let p := cparts c; (readVal .f16 p.1).2.add (readVal .f16 p.2).2
  | .cs16 | .bfp => {}
  | g => (readVal g c).2

/-- Conversion of one element between formats other than BFP, under the matrix of R52 and R53. A copy to the
same format moves the bits (R55), except LLR6 (case L3); so does the F16 of a CF16 component (cases E2 and F with D).
Whatever is moved has been read, so its NaN and infinite components are events all the same (R37, R49). -/
def convert (src dst : Fmt) (c : Nat) : Nat × NumEv :=
  if src = dst ∧ src ≠ .llr6 then (c, readEv src c)
  else
    match src, dst with
    | .cs16, .cf16 =>
      let (i, q) := cparts c
      let a := writeVal .f16 (readVal .cs16 i).1
      let b := writeVal .f16 (readVal .cs16 q).1
      (cjoin a.1 b.1, a.2.add b.2)
    | .cf16, .cs16 =>
      let (i, q) := cparts c
      let vi := readVal .f16 i
      let vq := readVal .f16 q
      let a := writeVal .cs16 vi.1
      let b := writeVal .cs16 vq.1
      (cjoin a.1 b.1, ((vi.2.add vq.2).add a.2).add b.2)
    | .cs16, d =>
      let i := (cparts c).1
      if d.isFloat then writeVal d (readVal .cs16 i).1 else writeVal d (.fin (.ofInt (toS 16 i)))
    | .cf16, d =>
      if d = .f16 then ((cparts c).1, readEv .f16 (cparts c).1)
      else
        let v := readVal .f16 (cparts c).1
        let r := writeVal d v.1
        (r.1, v.2.add r.2)
    | s, .cs16 =>
      let v := readVal s c
      let r := if s.isFloat then writeVal .cs16 v.1 else writeVal .s16 v.1
      (cjoin r.1 0, v.2.add r.2)
    | s, .cf16 =>
      if s = .f16 then (cjoin c 0, readEv .f16 c)
      else
        let v := readVal s c
        let r := writeVal .f16 v.1
        (cjoin r.1 0, v.2.add r.2)
    | s, d =>
      let v := readVal s c
      let r := writeVal d v.1
      (r.1, v.2.add r.2)

/-- Bytes of one BFP block at mantissa width `m` (R40). -/
def bfpBytes (m : Nat) : Nat := 1 + 3 * m

/-- Decompression of a BFP block to 24 S16 codes, in the order I0, Q0, I1, … (R40, R41). -/
def bfpDecompress (m : Nat) (block : List Byte) : List Int × NumEv :=
  let e := (block.getD 0 0).toNat % 16
  let bs := bitsMsb (block.drop 1)
  collectEv <| (List.range 24).map fun k =>
    let raw := ofBitsMsb ((List.range m).map fun j => bs.getD (m * k + j) false)
    let r := satS 16 (toS m raw * (2 ^ e : Nat))
    (r.1, { sat := b2n r.2, bfpSat := r.2 })

/-- Division by a power of two rounded to nearest, ties away from zero (R43). -/
def divPow2Round (x : Int) (e : Nat) : Int := ({ Ex.ofInt x with den := 2 ^ e }).roundInt

/-- Does every component fit `m` bits at exponent `e`? (R42) -/
def bfpFits (m : Nat) (xs : List Int) (e : Nat) : Bool :=
  xs.all fun x => let r := divPow2Round x e; decide (minS m ≤ r) && decide (r ≤ maxS m)

/-- Compression of 24 components at width `m`: the smallest exponent at which all fit (R42). -/
def bfpCompress (m : Nat) (xs : List Int) : List Byte :=
  let e := ((List.range 16).find? (bfpFits m xs)).getD 15
  BitVec.ofNat 8 e :: packMsb (xs.flatMap fun x => toBitsMsb m (ofS m (divPow2Round x e)))

/-- Codes of `n` elements of `w` bits packed from the lowest address up (R27). -/
def unpackElems (w n : Nat) (bs : List Byte) : List Nat :=
  if w = 4 then
    (List.range n).map fun k => let b := (bs.getD (k / 2) 0).toNat; if k % 2 = 0 then b % 16 else b / 16
  else (List.range n).map fun k => leAt bs (k * (w / 8)) (w / 8)

/-- Bytes of packed elements; an odd S4 count keeps bits [7:4] of the last byte as `old` holds them (R27). -/
def packElems (w : Nat) (old : List Byte) (cs : List Nat) : List Byte :=
  if w = 4 then
    (List.range ((cs.length + 1) / 2)).map fun k =>
      let lo := cs.getD (2 * k) 0 % 16
      let hi := if 2 * k + 1 < cs.length then cs.getD (2 * k + 1) 0 % 16 else (old.getD k 0).toNat / 16
      BitVec.ofNat 8 (lo + 16 * hi)
  else cs.flatMap fun c => leBytes (w / 8) c

/-- Bytes that `n` elements of `w` bits take. -/
def elemBytes (w n : Nat) : Nat := (w * n + 7) / 8

/-- √x rounded once to a float format, for `x ≥ 0` finite: k = ⌊√v + ½⌋ on the destination's grid (R43, R170). -/
def FloatFmt.sqrt (f : FloatFmt) (x : Ex) : Nat × NumEv :=
  if x.num = 0 then (0, {})
  else
    let e0 := x.log2 / 2
    let emin : Int := 1 - f.bias
    let e := if e0 < emin then emin else e0
    let y := x.scale (2 * ((f.fbits : Int) - e))
    let k0 := isqrt (y.num / y.den)
    let k := if (2 * k0 + 1) * (2 * k0 + 1) * y.den ≤ 4 * y.num then k0 + 1 else k0
    let mag := ((e + f.bias).toNat - 1) * 2 ^ f.fbits + k
    if f.maxCode < mag then (f.maxCode, { sat := 1 }) else (mag, {})

/-- Target magnitude Q of a quantise destination (R58). -/
def quantQ : Fmt → Nat
  | .s4 => 7
  | .s8 => 127
  | .e4m3 => 448
  | .e5m2 => 57344
  | .llr6 => 31
  | _ => 0

/-- The reciprocal r = Q / m rounded to F32, +0 when m is +0 (R58, R59). -/
def quantRecip (q : Nat) (m : Ex) : Nat × NumEv :=
  if m.num = 0 then (0, {}) else (floatFmt .f32).round ((Ex.ofInt q).div m)

/-- The scale s = m / Q rounded to format `f`, +0 when m is +0 (R58, R62). -/
def quantScale (f : Fmt) (q : Nat) (m : Ex) : Nat × NumEv :=
  if m.num = 0 then (0, {}) else (floatFmt f).round (m.div (Ex.ofInt q))

/-- One code of the quantise pass with an infinite `m`, whose reciprocal is a zero of m's sign: an infinite element still
gives ±Q (R59), a finite one the product with that zero. -/
def quantInf (dst : Fmt) (q : Nat) (mneg : Bool) (v : Val) : Nat × NumEv :=
  match v with
  | .nan => (0, {})
  | .inf neg => writeVal dst (.fin { neg := neg != mneg, num := q })
  | .fin x => writeVal dst (.fin (x.mul { neg := mneg, num := 0 }))

/-- One code of the quantise pass: round(x × r) rounded once from the exact product and saturated to ±Q; NaN gives
0, an infinity gives ±Q, with the opposite sign for a negative reciprocal, a zero reciprocal gives 0 (R58 to R60,
R603). -/
def quantCode (dst : Fmt) (q : Nat) (r : Ex) (v : Val) : Nat × NumEv :=
  match v with
  | .nan => (0, {})
  | .inf neg => if r.num = 0 then (0, {}) else writeVal dst (.fin { neg := neg != r.neg, num := q })
  | .fin x =>
    if r.num = 0 then (0, {})
    else
      let p := x.mul r
      match dst with
      | .e4m3 | .e5m2 => writeVal dst (.fin p)
      | _ =>
        let i := p.roundInt
        let k := clampI (-(q : Int)) q i
        (ofS dst.width k, .ofSat (k != i))

end Sys2Proof.Machine
end

