-- ==== Sys2Proof/Machine/Fix.lean ====
section
/-! DEFINITION. Exponential, logarithm and circular functions of exact numbers to about 300 bits, and the test of an
F32 value against an error bound in units in the last place. The error bounds of R170 and R171, the twiddle factors of
R336 and the tap tables of R337 are stated against these. -/

namespace Sys2Proof.Machine

/-- Number of fraction bits of the fixed-point evaluation. -/
def fixBits : Nat := 320

/-- Fixed-point form of an exact number, rounded toward zero. -/
def toFix (x : Ex) : Int :=
  let m : Int := (x.num * 2 ^ fixBits / x.den : Nat)
  if x.neg then -m else m

/-- Exact number of a fixed-point form. -/
def ofFix (i : Int) : Ex := { neg := decide (i < 0), num := i.natAbs, den := 2 ^ fixBits }

/-- Product of two fixed-point numbers. -/
def mulFix (a b : Int) : Int := (a * b) / (2 ^ fixBits : Nat)

/-- Quotient of two fixed-point numbers. -/
def divFix (a b : Int) : Int := if b = 0 then 0 else (a * (2 ^ fixBits : Nat)) / b

/-- Terms `t + t·z·(1/c) + …` of a series in which term `i + 1` is term `i` times `z / d i`. -/
def seriesFrom (z : Int) (d : Nat → Nat) : Nat → Nat → Int → Int
  | 0, _, _ => 0
  | n + 1, i, t => t + seriesFrom z d n (i + 1) (mulFix t z / (d i : Int))

/-- 2 · (y + y³/3 + y⁵/5 + …): the logarithm of (1 + y) / (1 − y). -/
def atanhSeries (y2 : Int) : Nat → Nat → Int → Int
  | 0, _, _ => 0
  | n + 1, k, p => 2 * p / (k : Int) + atanhSeries y2 n (k + 2) (mulFix p y2)

/-- ln of (1 + y) / (1 − y). -/
def lnRatio (y : Int) : Int := atanhSeries (mulFix y y) 110 1 y

/-- ln 2. -/
def ln2Fix : Int := lnRatio (divFix (2 ^ fixBits : Nat) (3 * 2 ^ fixBits : Nat))

/-- e^r for a small fixed-point r. -/
def expSmall (r : Int) : Int := seriesFrom r (fun i => i + 1) 90 0 (2 ^ fixBits : Nat)

/-- e^x. -/
def expReal (x : Ex) : Ex :=
  let f := toFix x
  let k := (2 * f + ln2Fix) / (2 * ln2Fix)
  (ofFix (expSmall (f - k * ln2Fix))).scale k

/-- 2^x. -/
def exp2Real (x : Ex) : Ex :=
  let k := x.roundInt
  let r := x.add (Ex.ofInt (-k))
  (ofFix (expSmall (mulFix (toFix r) ln2Fix))).scale k

/-- log₂ x of a positive number. -/
def log2Real (x : Ex) : Ex :=
  let e := x.log2
  let m := toFix (x.scale (-e))
  let one : Int := (2 ^ fixBits : Nat)
  let l := lnRatio (divFix (m - one) (m + one))
  ofFix (e * one + divFix l ln2Fix)

/-- tanh x. -/
def tanhReal (x : Ex) : Ex :=
  let e := expReal (x.scale 1)
  let one := Ex.ofInt 1
  (e.add one.negate).div (e.add one)

/-- 1 / (1 + e^−x). -/
def sigmReal (x : Ex) : Ex := (Ex.ofInt 1).div ((expReal x.negate).add (Ex.ofInt 1))

/-- 1 / √x of a positive number, from √(2^640 / x). -/
def rsqReal (x : Ex) : Ex :=
  let e := x.log2
  let h := e / 2
  let y := x.scale (-2 * h)
  ({ neg := false, num := isqrt (y.den * 2 ^ (2 * fixBits) / y.num), den := 2 ^ fixBits } : Ex).scale (-h)

/-- arctan (1 / n) by its series. -/
def atanInv (n : Nat) : Int :=
  (List.range 160).foldl (fun s i =>
    let t : Int := (2 ^ fixBits / ((2 * i + 1) * n ^ (2 * i + 1)) : Nat)
    if i % 2 = 0 then s + t else s - t) 0

/-- π, by Machin's formula. -/
def piFix : Int := 4 * (4 * atanInv 5 - atanInv 239)

/-- cos and sin of 2πx for |x| ≤ ½. -/
def cisReal (x : Ex) : Ex × Ex :=
  let t := mulFix (2 * piFix) (toFix x)
  let t2 := -(mulFix t t)
  (ofFix (seriesFrom t2 (fun i => (2 * i + 1) * (2 * i + 2)) 70 0 (2 ^ fixBits : Nat)),
   ofFix (seriesFrom t2 (fun i => (2 * i + 2) * (2 * i + 3)) 70 0 t))

/-- |x − y|. -/
def Ex.dist (x y : Ex) : Ex := { (x.add y.negate) with neg := false }

/-- Weight of one unit in the last place of F32 at `x`. -/
def ulp32 (x : Ex) : Ex :=
  if x.num = 0 then (Ex.ofInt 1).scale (-149)
  else
    let e := x.log2
    (Ex.ofInt 1).scale ((if e < -126 then -126 else e) - 23)

/-- Is the F32 code a finite value within `b` of `exact`? -/
def within (c : Nat) (exact bound : Ex) : Bool :=
  match (floatFmt .f32).decode c with
  | .fin v => (v.dist exact).le bound
  | _ => false

/-- An F32 value near `exact`: the free code if it lies within the bound, else the nearest code. Every choice inside
the bound is reached by some free code, and no other. -/
def boundedApprox (free : Nat) (exact bound : Ex) : Nat :=
  if within free exact bound then free else ((floatFmt .f32).round exact).1

end Sys2Proof.Machine
end

