-- ==== Sys2Proof/Config.lean ====
section
/-! DEFINITION. The values the spec leaves open, each an opaque constant: nothing can be proved of one but what
holds of every function of its type. The functions whose tables the spec names but does not print stand here too. -/

namespace Sys2Proof.Config

/-- Content of a byte of an array whose content the spec leaves undefined: `e` tells one undefined
content from another (R407, R593). Log 3. -/
opaque freeByte (e addr : Nat) : Byte

/-- A fresh open value: number `k` of the free values drawn in a run. Log 4. -/
opaque freeNat (k : Nat) : Nat

/-- Does unit `u` (core c: Wash c, Hatch 8 + c) wait for a memory port at tick `t`? Port waits are timing that the model
leaves out, so the status bits that show them are free (R123, R179, R193, R207). Log 17. -/
opaque portWait (u t : Nat) : Bool

/-- F32 code that a Wash approximation gives for an F32 operand code, one function per opcode; the spec bounds
its error and leaves its bits open (R170, R171). Log 5. -/
opaque washApprox (op x : Nat) : Nat

/-- Entry of the base graph tables of TS 38.212 clause 5.3.2, which the spec names and does not print: the shift of
(row, col) in base graph `bg` for lifting-set index `set`, none for an entry of zero. Log 6. -/
opaque ldpcShift (bg set row col : Nat) : Option Nat

/-- Coefficient f1 of the QPP interleaver for block size `k`, of TS 36.212 table 5.1.3-3, which the spec names and does not
print. Log 6. -/
opaque qppF1 (k : Nat) : Nat

/-- Coefficient f2 of the QPP interleaver for block size `k`. Log 6. -/
opaque qppF2 (k : Nat) : Nat

/-- Polar reliability sequence of TS 38.212 table 5.3.1.2-1: entry `i`, least reliable first. Log 6. -/
opaque polarOrder (i : Nat) : Nat

/-- SEC_XINFO.REQ code of a port's slow-path access, for which the list of R540 has no entry. Log 7. -/
opaque ethReqCode (port : Nat) : BitVec 5

/-- Identity public key that Imond reconstructs from the helper data: x then y, 96 bytes. The spec gives the method and no
value of the PUF (R527). Log 8. -/
opaque identityKey (helper : List Byte) : List Byte

/-- SHA-384 digest, held in the ROM, of the ECDSA (0) or LMS (1) public key of a vendor key set; the spec prints none
(R526). Log 8. -/
opaque vendorDigest (set which : Nat) : List Byte

/-- SHA-384 digest of the mask ROM, measurement 1 (R539). Log 8. -/
opaque romDigest : List Byte

/-- Signature of the identity key `pub` over a message, 96 bytes; `k` tells one signature from another (R538). Log 8. -/
opaque identitySign (pub msg : List Byte) (k : Nat) : List Byte

end Sys2Proof.Config
end

