-- ==== Sys2Proof/Machine/Mem.lean ====
section
/-! DEFINITION. Byte memories in one canonical form, with the poison and the uncorrectable marks of each 64-byte
beat (14_memory_system.md, R422, R433). -/

namespace Sys2Proof.Machine

/-- A byte memory. `cells` lists, by strictly rising address, the bytes that differ from what an unlisted address
reads as; `poison` lists the 64-byte beats that hold the poison code, `ue` the 8-byte words that hold an
uncorrectable error, `ce` those that hold one that each read corrects; `undef` names the undefined content that unlisted bytes have after R407 or R593, `none` for zeros. -/
structure Mem where
  cells : List Host.Cell := []
  poison : List Nat := []
  ue : List Nat := []
  ce : List Nat := []
  undef : Option Nat := none
  deriving DecidableEq, Repr

/-- What an unlisted address reads as. -/
def Mem.unlisted (m : Mem) (a : Nat) : Byte :=
  match m.undef with
  | none => 0
  | some e => Config.freeByte e a

/-- The listed value at `a`. -/
def amGet {α : Type} : List (Nat × α) → Nat → Option α
  | [], _ => none
  | (b, v) :: l, a => if b = a then some v else amGet l a

/-- Insert or replace the value at `a`, in the order of rising keys. -/
def amPut {α : Type} : List (Nat × α) → Nat → α → List (Nat × α)
  | [], a, v => [(a, v)]
  | (b, w) :: l, a, v =>
    if b = a then (a, v) :: l else if a < b then (a, v) :: (b, w) :: l else (b, w) :: amPut l a v

/-- Take what stands at `a` out. -/
def amDel {α : Type} : List (Nat × α) → Nat → List (Nat × α)
  | [], _ => []
  | (b, w) :: l, a => if b = a then amDel l a else (b, w) :: amDel l a

/-- The byte at address `a`. -/
def Mem.byte (m : Mem) (a : Nat) : Byte := (amGet m.cells a).getD (m.unlisted a)

/-- Write one byte; the value an unlisted address reads as removes the entry. -/
def Mem.setByte (m : Mem) (a : Nat) (v : Byte) : Mem :=
  { m with cells := if v = m.unlisted a then amDel m.cells a else amPut m.cells a v }

/-- The canonical form: addresses strictly rise and no entry equals what an unlisted address reads as. -/
abbrev Mem.wf (m : Mem) : Prop :=
  m.cells.Pairwise (fun x y => x.1 < y.1) ∧ (∀ c ∈ m.cells, c.2 ≠ m.unlisted c.1) ∧
    m.poison.Pairwise (· < ·) ∧ m.ue.Pairwise (· < ·) ∧ m.ce.Pairwise (· < ·)

/-- `n` bytes from `a` up. -/
def Mem.read (m : Mem) (a n : Nat) : List Byte := (List.range n).map fun i => m.byte (a + i)

/-- Little-endian number of `n` bytes at `a`. -/
def Mem.readNat (m : Mem) (a n : Nat) : Nat := leNat (m.read a n)

/-- Write bytes from `a` up. -/
def Mem.write (m : Mem) (a : Nat) : List Byte → Mem
  | [] => m
  | b :: bs => (m.setByte a b).write (a + 1) bs

/-- The 64-byte beats that `n` bytes at `a` touch. -/
def beatsOf (a n : Nat) : List Nat :=
  if n = 0 then [] else rangeFrom (a / 64) ((a + n - 1) / 64 + 1 - a / 64)

/-- Does one of the `n` bytes from `a` lie in a word with an uncorrectable error? `a` and `n` are multiples of 8. -/
def Mem.hit (m : Mem) (a n : Nat) : Bool := m.ue.any fun w => decide (a ≤ 8 * w) && decide (8 * w < a + n)

/-- Does beat `k` read with a corrected error and no uncorrectable one (R422, R433)? -/
def Mem.fixes (m : Mem) (k : Nat) : Bool := m.ce.any (fun w => w / 8 == k) && !m.hit (64 * k) 64

/-- Does beat `k` read poisoned: the poison code or an uncorrectable error? -/
def Mem.bad (m : Mem) (k : Nat) : Bool := m.poison.contains k || m.hit (64 * k) 64

/-- Does any beat of the range read poisoned? -/
def Mem.badRange (m : Mem) (a n : Nat) : Bool := (beatsOf a n).any m.bad

/-- Beats of the range that read uncorrectable. -/
def Mem.ueBeats (m : Mem) (a n : Nat) : List Nat := (beatsOf a n).filter fun k => m.hit (64 * k) 64

/-- A soft error strikes the 8-byte words from `w` on, `n` of them: one that reads correct, or an uncorrectable one (R422,
R433). -/
def Mem.strike (m : Mem) (w n : Nat) (bad : Bool) : Mem :=
  let add (l : List Nat) : List Nat := (rangeFrom w n).foldl (fun l w => insertSorted w l) l
  if bad then { m with ue := add m.ue } else { m with ce := add m.ce }

/-- Mark a beat poisoned, which replaces an uncorrectable content. -/
def Mem.setPoison (m : Mem) (k : Nat) : Mem :=
  { m with
    poison := insertSorted k m.poison
    ue := m.ue.filter fun w => w / 8 != k
    ce := m.ce.filter fun w => w / 8 != k }

/-- Clear every mark of a beat. -/
def Mem.clearBeat (m : Mem) (k : Nat) : Mem :=
  { m with
    poison := removeAll k m.poison
    ue := m.ue.filter fun w => w / 8 != k
    ce := m.ce.filter fun w => w / 8 != k }

/-- Is byte `i` among those that a write at `a` enables? -/
def wrote (a : Nat) (en : List Bool) (i : Nat) : Bool := decide (a ≤ i) && en.getD (i - a) false

/-- Units of `g` bytes that a write covers in part while one of their words reads uncorrectable: what it merges with is
an uncorrectable read (R422 with units of 8 bytes, R433 with 64). -/
def Mem.merges (g : Nat) (m : Mem) (a : Nat) (en : List Bool) : List Nat :=
  if m.ue.isEmpty then []
  else (rangeFrom (a / g) ((a + en.length - 1) / g + 1 - a / g)).filter fun u =>
    m.hit (g * u) g && (rangeFrom (g * u) g).any (wrote a en) && !(rangeFrom (g * u) g).all (wrote a en)

/-- Units of `g` bytes that a write covers in part while one of their words reads corrected and none uncorrectable. -/
def Mem.mends (g : Nat) (m : Mem) (a : Nat) (en : List Bool) : List Nat :=
  if m.ce.isEmpty then []
  else (rangeFrom (a / g) ((a + en.length - 1) / g + 1 - a / g)).filter fun u =>
    !m.hit (g * u) g && (m.ce.any fun w => decide (8 * w / g = u)) &&
      (rangeFrom (g * u) g).any (wrote a en) && !(rangeFrom (g * u) g).all (wrote a en)

/-- Write the enabled bytes. -/
def Mem.writeSome (m : Mem) (a : Nat) : List (Option Byte) → Mem
  | [] => m
  | b :: bs => (match b with | some v => m.setByte a v | none => m).writeSome (a + 1) bs

/-- A store of the bytes that are there, to an array whose code covers `g` bytes. A touched beat takes the poison of the
store, and of a merge with an uncorrectable unit; a clean store of a whole beat clears it. Every touched unit has a
good code afterwards (R422, R433). -/
def Mem.put (g : Nat) (m : Mem) (a : Nat) (bs : List (Option Byte)) (pois : Bool) : Mem :=
  let en := bs.map (·.isSome)
  let ms := m.merges g a en
  let mark (m : Mem) (k : Nat) : Mem :=
    if !(rangeFrom (64 * k) 64).any (wrote a en) then m
    else if pois || ms.any fun u => g * u / 64 == k then { m with poison := insertSorted k m.poison }
    else if (rangeFrom (64 * k) 64).all (wrote a en) then { m with poison := removeAll k m.poison }
    else m
  let rest (l : List Nat) : List Nat := l.filter fun w => !(rangeFrom (8 * w / g * g) g).any (wrote a en)
  ((beatsOf a bs.length).foldl mark { m with ue := rest m.ue, ce := rest m.ce }).writeSome a bs

/-- Store bytes to an on-chip array, whose code covers 8 bytes (R422). -/
def Mem.store (m : Mem) (a : Nat) (bs : List Byte) (pois : Bool) : Mem := m.put 8 a (bs.map some) pois

/-- Store bytes to LPDDR5X, whose code covers a beat (R433). -/
def Mem.storeBeat (m : Mem) (a : Nat) (bs : List Byte) (pois : Bool) : Mem := m.put 64 a (bs.map some) pois

/-- Units that a store of `n` bytes merges with. -/
def Mem.mergeUe (g : Nat) (m : Mem) (a n : Nat) : List Nat := m.merges g a (List.replicate n true)

/-- Units that a store of `n` bytes reads corrected to merge with. -/
def Mem.mergeCe (g : Nat) (m : Mem) (a n : Nat) : List Nat := m.mends g a (List.replicate n true)

/-- A memory that reads as zero throughout. -/
def Mem.empty : Mem := {}

/-- A memory of undefined content number `e`. -/
def Mem.undefined (e : Nat) : Mem := { undef := some e }

end Sys2Proof.Machine
end

