-- ==== Sys2Proof/Machine/Plate.lean ====
section
/-! DEFINITION. The plate: format pairs, one pass from its captured operands to ACCM and through the proof chain, the
ACCM tiles and the proof-chain descriptor (04_plate_matrix_array.md, R106 to R147). -/

namespace Sys2Proof.Machine

/-- Fields of PASS (R115). -/
structure PassCmd where
  fmov : Fmt
  fsta : Fmt
  tb : Nat
  am : Nat
  as : Nat
  shp : Nat
  ceil : Nat
  acc : Bool
  drain : Bool
  pcs : Nat
  rel : Bool
  tand : Bool
  half : Bool
  wide : Bool
  mq : Bool
  sq : Bool
  ao : Nat
  deriving DecidableEq, Repr

/-- A proof-chain slot: its 64 bytes and the bad mark of R146. -/
structure PcSlot where
  desc : List Byte
  bad : Bool
  deriving DecidableEq, Repr

/-- An all-zero descriptor, marked bad: the slot after reset (R146). -/
def PcSlot.reset : PcSlot := { desc := List.replicate 64 0, bad := true }

/-- Where an issued pass stands (R124). -/
inductive PassPhase where
  | pending
  | array
  | draining
  deriving DecidableEq, Repr

/-- One issued pass: its number, fields, clamped shape, addresses, captured slot, and, from its start, the operand
bytes it read with the poison of each 64-byte beat. -/
structure PassRec where
  id : Nat
  lc : Nat
  pc : Nat
  cmd : PassCmd
  n : Nat
  k : Nat
  m : Nat
  stride : Nat
  baseM : Nat
  baseS : Nat
  ao : Nat
  slot : PcSlot
  /-- Number among the WIDE operations of the barrier phase (R502). -/
  seq : Nat := 0
  /-- Number of the bundle it issued in (R86). -/
  stamp : Nat := 0
  phase : PassPhase := .pending
  mov : List (List Byte × Bool) := []
  sta : List (List Byte × List Bool) := []
  scale : List Byte × List Bool := ([], [])
  bias : List Byte × List Bool := ([], [])
  deriving DecidableEq, Repr

/-- One ACCM tile (R130): claimed by pass number `owner`; `rel` holds, while it is releasing, the number of the
releasing pass, or for PREL the number every earlier pass lies below. -/
structure Tile where
  claimed : Bool := false
  owner : Nat := 0
  rel : Option Nat := none
  byPrel : Bool := false
  deriving DecidableEq, Repr

/-- The plate of one core. `nextId` numbers passes and PRELs in issue order; `tandem` and `group` give the mode of
R127; `ballast` is the activity the governor places (R148). -/
structure PlateSt where
  tiles : Vector Tile 16 := Vector.replicate 16 {}
  slots : Vector PcSlot 4 := Vector.replicate 4 .reset
  passes : List PassRec := []
  nextId : Nat := 0
  tandem : Bool := false
  group : Bool := false
  ballast : Bool := false
  deriving DecidableEq, Repr

/-- Is a pair of formats in the table of R107? -/
def pairOk : Fmt → Fmt → Bool
  | .s8, .s8 | .s8, .s4 | .s4, .s8 | .s4, .s4 => true
  | .e4m3, .e4m3 | .e4m3, .e5m2 | .e5m2, .e4m3 | .e5m2, .e5m2 => true
  | .f16, .f16 | .bf16, .bf16 => true
  | _, _ => false

/-- A pair that uses 2 × 2 PE groups (R107). -/
def pairGroup : Fmt → Bool
  | .f16 | .bf16 => true
  | _ => false

/-- Largest K of a pair, in full mode or in a tandem half (R107, R136). -/
def kMax (mov sta : Fmt) (tand : Bool) : Nat :=
  if tand then (if mov = .s4 ∧ sta = .s4 then 128 else 64)
  else if mov = .s4 ∧ sta = .s4 then 256
  else if pairGroup mov then 64 else 128

/-- Largest M of a pair (R107, R136). -/
def mMax (mov : Fmt) (tand : Bool) : Nat := if !tand && pairGroup mov then 64 else 128

/-- Pitch of a stationary row in bytes (R111). -/
def staPitch (sta : Fmt) : Nat := if sta = .s4 then 64 else 128

/-- Tiles of the footprint of a pass with `n` rows from tile `tb` (R120). -/
def footprint (tb n : Nat) : List Nat := rangeFrom tb (ceilDiv n 128)

/-- CTRL fields of a proof-chain descriptor and its further words (R143, R144). -/
structure PcDesc where
  ctrl : Nat
  sMov : Nat
  staScale : Nat
  bias : Nat
  actA : Nat
  actB : Nat
  resBase : Nat
  resStride : Nat
  outStride : Nat
  outBase : Nat
  sOut : Nat
  deriving DecidableEq, Repr

/-- The descriptor of 64 bytes (R143). -/
def PcDesc.ofBytes (b : List Byte) : PcDesc :=
  { ctrl := leAt b 0 4, sMov := leAt b 4 4, staScale := leAt b 8 4, bias := leAt b 12 4, actA := leAt b 16 4,
    actB := leAt b 20 4, resBase := leAt b 24 4, resStride := leAt b 28 2, outStride := leAt b 30 2,
    outBase := leAt b 32 4, sOut := leAt b 36 4 }

/-- DEQ_EN (R144). -/
def PcDesc.deq (d : PcDesc) : Bool := bit d.ctrl 1
/-- BIAS_EN (R144). -/
def PcDesc.biasEn (d : PcDesc) : Bool := bit d.ctrl 2
/-- RES_EN (R144). -/
def PcDesc.resEn (d : PcDesc) : Bool := bit d.ctrl 3
/-- SCL_EN (R144). -/
def PcDesc.sclEn (d : PcDesc) : Bool := bit d.ctrl 4
/-- ACT code (R144). -/
def PcDesc.act (d : PcDesc) : Nat := bits d.ctrl 15 12

/-- The format of an OUT_FMT or RES_FMT code; only F16, BF16 and F32 are in R144. -/
def pcFmt : Nat → Option Fmt
  | 6 => some .f16 | 7 => some .bf16 | 8 => some .f32 | _ => none

/-- Output format of a descriptor, F32 for a code outside R144 (a bad slot writes nothing). -/
def PcDesc.outFmt (d : PcDesc) : Fmt := (pcFmt (bits d.ctrl 19 16)).getD .f32
/-- Residual format of a descriptor. -/
def PcDesc.resFmt (d : PcDesc) : Fmt := (pcFmt (bits d.ctrl 23 20)).getD .f32

/-- Does the descriptor mark its slot bad? A reserved bit set, a code outside R144, or an address or stride, among
those its enabled stages use, that is not a multiple of 64 (R146). -/
def pcBad (b : List Byte) : Bool :=
  let d := PcDesc.ofBytes b
  let mis (x : Nat) := decide (x % 64 ≠ 0)
  decide (bits d.ctrl 31 24 ≠ 0) || decide (bits d.ctrl 11 5 ≠ 0) || bit d.ctrl 0 ||
    (b.drop 40).any (fun x => decide (x ≠ 0)) ||
    decide (3 < d.act) || (pcFmt (bits d.ctrl 19 16)).isNone ||
    (d.resEn && ((pcFmt (bits d.ctrl 23 20)).isNone || mis d.resBase || mis d.resStride)) ||
    (d.deq && mis d.staScale) || (d.biasEn && mis d.bias) || mis d.outBase || mis d.outStride

/-- The byte spans of SPAD a pass reads or writes: start and length, in the order in which they are checked (R112). A base
that comes from a queue without a head buffer is not known, and its rows are left out. -/
def passSpans (c : PassCmd) (n k m d3 : Nat) (baseM baseS : Option Nat) (ao : Nat) (slot : PcSlot) : List (Nat × Nat) :=
  let rows (b st w : Nat) := (List.range n).map fun i => (b + i * st, w)
  let kb := elemBytes c.fmov.width k
  let mb := elemBytes c.fsta.width m
  let d := PcDesc.ofBytes slot.desc
  (baseM.toList.flatMap fun b => rows b d3 kb) ++
    (baseS.toList.flatMap fun b => (List.range k).map fun r => (b + r * staPitch c.fsta, mb)) ++
    if c.drain && !slot.bad then
      (if d.deq then [(d.staScale, 4 * m)] else []) ++ (if d.biasEn then [(d.bias, 4 * m)] else []) ++
      (if d.resEn then rows (d.resBase + ao) d.resStride (elemBytes d.resFmt.width m) else []) ++
      rows (d.outBase + ao) d.outStride (elemBytes d.outFmt.width m)
    else []

/-- The addresses of a pass that shall be multiples of 64 (R112). DESIGN CHOICE: a stride stands in the list as it is, so
the INFO of a misaligned D3, residual stride or output stride is the stride itself (log entry 102). -/
def passAligned (c : PassCmd) (d3 : Nat) (baseM baseS : Option Nat) (ao : Nat) (slot : PcSlot) : List Nat :=
  let d := PcDesc.ofBytes slot.desc
  baseM.toList ++ baseS.toList ++ [d3] ++
    if c.drain && !slot.bad then
      (if d.deq then [d.staScale] else []) ++ (if d.biasEn then [d.bias] else []) ++
      (if d.resEn then [d.resBase + ao, d.resStride] else []) ++ [d.outBase + ao, d.outStride]
    else []

/-- Size of SPAD in bytes (R65). -/
def spadSize : Nat := 0xC00000
/-- First core-local address of ACCM (R65). -/
def accmBase : Nat := 0x1000000
/-- Size of ACCM in bytes (R65). -/
def accmSize : Nat := 0x100000

/-- First address at or beyond `a` that lies outside the memory that holds `a`; `a` itself where no memory does (R65, R112,
R161; DEDUCED, log 14). -/
def firstOutside (a : Nat) : Nat :=
  if a < spadSize then spadSize
  else if accmBase ≤ a ∧ a < accmBase + accmSize then accmBase + accmSize
  else a

/-- Fault of a pass with a nonzero shape at issue, with the first offending address: MISALIGNED 0x06 or ADDR_RANGE
0x05, the lower code when both occur (R103, R112). -/
def passAddrFault (c : PassCmd) (n k m d3 : Nat) (baseM baseS : Option Nat) (ao : Nat) (slot : PcSlot) :
    Option (Nat × Nat) :=
  match (passSpans c n k m d3 baseM baseS ao slot).find? (fun s => decide (spadSize < s.1 + s.2)) with
  | some s => some (0x05, max s.1 spadSize)
  | none =>
    match (passAligned c d3 baseM baseS ao slot).find? (fun a => decide (a % 64 ≠ 0)) with
    | some a => some (0x06, a)
    | none => none

/-- Offset in ACCM of element (n, j) of a pass from tile `tb` (R113). -/
def accmOff (tb n j : Nat) : Nat := (tb + n / 128) * 0x10000 + (n % 128) * 512 + j * 4

/-- Poison of each beat of a span that starts 64-byte aligned. -/
def beatPoison (m : Mem) (a n : Nat) : List Bool := (beatsOf a n).map m.bad

/-- The operands of a pass as it reads them from SPAD: moving rows, stationary rows, and for a draining pass the
column scales and biases (R110, R111, R121). -/
def PassRec.capture (p : PassRec) (spad : Mem) : PassRec :=
  let kb := elemBytes p.cmd.fmov.width p.k
  let mb := elemBytes p.cmd.fsta.width p.m
  let d := PcDesc.ofBytes p.slot.desc
  let use := p.cmd.drain && !p.slot.bad
  { p with
    phase := .array
    mov := (List.range p.n).map fun i => (spad.read (p.baseM + i * p.stride) kb, spad.badRange (p.baseM + i * p.stride) kb)
    sta := (List.range p.k).map fun r =>
      (spad.read (p.baseS + r * staPitch p.cmd.fsta) mb, beatPoison spad (p.baseS + r * staPitch p.cmd.fsta) mb)
    scale := if use && d.deq then (spad.read d.staScale (4 * p.m), beatPoison spad d.staScale (4 * p.m)) else ([], [])
    bias := if use && d.biasEn then (spad.read d.bias (4 * p.m), beatPoison spad d.bias (4 * p.m)) else ([], []) }

/-- F32 rounding of an exact value: the F32 code as a value again, and the events (R43, R36). -/
def roundF32 (v : Val) : Val × NumEv :=
  let r := (floatFmt .f32).encode v
  ((floatFmt .f32).decode r.1, r.2)

/-- One output sum of the array: exact for integer pairs; for float pairs the exact products added in ascending row
order, each addition rounded once to F32 (R106, R109). -/
def arraySum (float : Bool) (row col : List Val) : Val × NumEv :=
  (row.zip col).foldl (fun (acc : Val × NumEv) (p : Val × Val) =>
    let s := acc.1.add (p.1.mul p.2)
    if float then
      let r := roundF32 s
      (r.1, acc.2.add r.2)
    else (s, acc.2)) (.fin { neg := false, num := 0 }, {})

/-- Codes of one operand row as values, and the events its reading causes, each element read once (R37). -/
def readRow (f : Fmt) (n : Nat) (bs : List Byte) : List Val × NumEv :=
  collectEv ((unpackElems f.width n bs).map (readVal f))

/-- The sums of a pass, row by row, with the numeric events of operand reads and additions (R106, R109, R129). -/
def PassRec.sums (p : PassRec) : List (List Val) × NumEv :=
  let float := !(p.cmd.fmov.isInt)
  let mov := p.mov.map fun r => readRow p.cmd.fmov p.k r.1
  let sta := p.sta.map fun r => readRow p.cmd.fsta p.m r.1
  let cols := (List.range p.m).map fun j => sta.map fun r => r.1.getD j .nan
  let out := mov.map fun r => cols.map fun c => arraySum float r.1 c
  let ev0 := (mov.map (·.2) ++ sta.map (·.2)).foldl NumEv.add {}
  (out.map fun r => r.map (·.1), (out.flatMap fun r => r.map (·.2)).foldl NumEv.add ev0)

/-- 32-bit code of an accumulated value in the accumulation type of the pass. -/
def accCode (float : Bool) (v : Val) : Nat :=
  if float then ((floatFmt .f32).encode v).1 else ofS 32 (encodeInt 32 v).1

/-- Value of an ACCM word in the accumulation type of the pass. -/
def accVal (float : Bool) (c : Nat) : Val × NumEv := if float then readVal .f32 c else readVal .s32 c

/-- An accumulated element: NEW takes the sum; ADD adds it to the stored word, saturating in S32 with SAT and ACC_SAT
counted, rounding in F32 (R29, R109). -/
def accElement (float acc : Bool) (old : Nat) (sum : Val) : Nat × NumEv :=
  if acc then
    let o := accVal float old
    let t := o.1.add sum
    if float then
      let r := (floatFmt .f32).encode t
      (r.1, o.2.add r.2)
    else
      let r := encodeInt 32 t
      (ofS 32 r.1, { r.2 with accSat := decide (0 < r.2.sat) })
  else (accCode float sum, {})

/-- Sources of poison of one pass, by SOURCE code 1 to 6 (R151). -/
abbrev Sources := List Nat

/-- Poison that the array gives each 16-column beat of row `n`: moving beats, stationary beats over their columns,
parity errors over their columns (R139). -/
def PassRec.arrayPoison (p : PassRec) (parity : List Nat) (n b : Nat) : Sources :=
  let cols := (rangeFrom (16 * b) 16).filter (· < p.m)
  let w := p.cmd.fsta.width
  let mv := (p.mov.getD n ([], false)).2
  let st := p.sta.any fun r => cols.any fun j => r.2.getD (j * w / 8 / 64) false
  let pe := cols.any fun j => parity.contains j
  (if mv then [1] else []) ++ (if st then [2] else []) ++ (if pe then [3] else [])

/-- What one pass did: the memories after it, its numeric events, the poison sources met, whether any output beat is
poisoned, and the uncorrectable beats read. -/
structure PassOut where
  spad : Mem
  accm : Mem
  ev : NumEv
  src : Sources
  poisoned : Bool
  /-- Core-local beat addresses of the uncorrectable reads (R422). -/
  ue : List Nat
  deriving DecidableEq, Repr

/-- Core-local beat addresses of the uncorrectable reads that a read and a store of a range of an array make; `base` is
where the array begins (R422). -/
def Mem.ueAddrs (m : Mem) (base a n : Nat) : List Nat := (m.ueBeats a n).map fun k => base + 64 * k
/-- The merges of a store, as core-local beat addresses (R422). -/
def Mem.mergeAddrs (m : Mem) (base a n : Nat) : List Nat := (m.mergeUe 8 a n).map fun u => base + u / 8 * 64

/-- The uncorrectable beats that a pass meets in the operands it captures (R110, R111, R121, R422). -/
def PassRec.captureUe (p : PassRec) (spad : Mem) : List Nat :=
  let d := PcDesc.ofBytes p.slot.desc
  let use := p.cmd.drain && !p.slot.bad
  if spad.ue.isEmpty then []
  else
    ((List.range p.n).flatMap fun i => spad.ueAddrs 0 (p.baseM + i * p.stride) (elemBytes p.cmd.fmov.width p.k)) ++
    ((List.range p.k).flatMap fun r =>
      spad.ueAddrs 0 (p.baseS + r * staPitch p.cmd.fsta) (elemBytes p.cmd.fsta.width p.m)) ++
    (if use && d.deq then spad.ueAddrs 0 d.staScale (4 * p.m) else []) ++
    (if use && d.biasEn then spad.ueAddrs 0 d.bias (4 * p.m) else [])

/-- Row `n` of a pass written to ACCM, beat by beat of 16 columns. -/
def PassRec.accmRow (p : PassRec) (parity : List Nat) (sums : List Val) (n : Nat) (o : PassOut) : PassOut :=
  let float := !(p.cmd.fmov.isInt)
  (List.range (ceilDiv p.m 16)).foldl (fun o b =>
    let cols := (rangeFrom (16 * b) 16).filter (· < p.m)
    let a := accmOff p.cmd.tb n (16 * b)
    let old := o.accm.bad (a / 64)
    let src := p.arrayPoison parity n b ++ (if p.cmd.acc && old then [4] else []) ++
      (if p.cmd.drain && p.slot.bad then [5] else [])
    let es := cols.map fun j => accElement float p.cmd.acc (o.accm.readNat (accmOff p.cmd.tb n j) 4) (sums.getD j .nan)
    let bytes := es.flatMap fun e => leBytes 4 e.1
    { o with
      accm := o.accm.store a bytes (!src.isEmpty)
      ev := es.foldl (fun e x => e.add x.2) o.ev
      src := o.src ++ src
      ue := o.ue ++ (if p.cmd.acc then o.accm.ueAddrs accmBase a bytes.length else []) ++
        o.accm.mergeAddrs accmBase a bytes.length }) o

/-- The ACCM phase of a pass: every sum written or added (R109, R113, R139). -/
def PassRec.runAccm (p : PassRec) (parity : List Nat) (o : PassOut) : PassOut :=
  let s := p.sums
  (List.range p.n).foldl (fun o n => p.accmRow parity (s.1.getD n []) n o) { o with ev := o.ev.add s.2 }

/-- F32 value of a code, reading it as an operand (R37). -/
def rd32 (c : Nat) : Val × NumEv := readVal .f32 c

/-- A two-operand F32 operation rounded once. -/
def op32 (f : Val → Val → Val) (x y : Val) : Val × NumEv := roundF32 (f x y)

/-- `+0 > −0` maximum and minimum of two values that are not NaN (R157). -/
def vmax (x y : Val) : Val :=
  if x.lt y then y else if y.lt x then x else if x.neg? then y else x
/-- Minimum, −0 ranked below +0 (R157). -/
def vmin (x y : Val) : Val :=
  if x.lt y then x else if y.lt x then y else if x.neg? then x else y

/-- The ACT stage (R145). -/
def actStage (act : Nat) (a b y : Val) : Val × NumEv :=
  if act = 0 then (y, {})
  else if act = 3 then
    if y.isNan || a.isNan || b.isNan then (.nan, {})
    else if b.lt a then (b, {})
    else (vmin (vmax y a) b, {})
  else if y.isNan then (.nan, {})
  else if act = 1 then
    (if y.neg? then .fin { neg := false, num := 0 } else y, {})
  else if y.lt (.fin { neg := false, num := 0 }) then op32 Val.mul y a else (y, {})

/-- Column constants of the proof chain: c[j] = S_MOV × s_sta[j] in F32 and b[j] (R57, R145). -/
def PassRec.chainCols (p : PassRec) : List (Val × Val) × NumEv :=
  let d := PcDesc.ofBytes p.slot.desc
  let sm := rd32 d.sMov
  collectEv ((List.range p.m).map fun j =>
    let s := rd32 (leAt p.scale.1 (4 * j) 4)
    let c := if d.deq then op32 Val.mul sm.1 s.1 else (.fin (.ofInt 1), {})
    let b := if d.biasEn then rd32 (leAt p.bias.1 (4 * j) 4) else (.fin (.ofInt 0), {})
    ((c.1, b.1), ((if d.deq then s.2.add c.2 else {}).add b.2)))

/-- Events of the descriptor operands, each read once for the pass (R37). -/
def PcDesc.readEv (d : PcDesc) : NumEv :=
  let r (b : Bool) (c : Nat) : NumEv := if b then (rd32 c).2 else {}
  (((r d.deq d.sMov).add (r (decide (2 ≤ d.act)) d.actA)).add (r (decide (d.act = 3)) d.actB)).add (r d.sclEn d.sOut)

/-- One element through DEQ, BIAS, ACT, RES, SCL and CVT, each rounded to F32 (R142, R145). -/
def chainElement (d : PcDesc) (c b : Val) (res : Val × NumEv) (y0 : Val × NumEv) : Nat × NumEv :=
  let y1 := if d.deq then op32 Val.mul y0.1 c else (y0.1, {})
  let y2 := if d.biasEn then op32 Val.add y1.1 b else (y1.1, {})
  let y3 := actStage d.act (rd32 d.actA).1 (rd32 d.actB).1 y2.1
  let y4 := if d.resEn then op32 Val.add y3.1 res.1 else (y3.1, {})
  let y5 := if d.sclEn then op32 Val.mul y4.1 (rd32 d.sOut).1 else (y4.1, {})
  let y6 := (floatFmt d.outFmt).encode y5.1
  (y6.1, [y0.2, y1.2, y2.2, y3.2, (if d.resEn then res.2 else {}), y4.2, y5.2, y6.2].foldl NumEv.add {})

/-- Row `n` of a draining pass through the proof chain into SPAD; poison follows each ACCM beat and each poisoned
scale, bias or residual beat (R139, R142, R147). `words` are the accumulated words of the row, `pois` the poison of
its 16-column beats. -/
def PassRec.chainRow (p : PassRec) (cols : List (Val × Val)) (words : List Nat) (pois : List Bool) (n : Nat)
    (o : PassOut) : PassOut :=
  let d := PcDesc.ofBytes p.slot.desc
  let float := !(p.cmd.fmov.isInt)
  let osz := d.outFmt.width / 8
  let rsz := d.resFmt.width / 8
  let oa := d.outBase + p.ao + n * d.outStride
  let ra := d.resBase + p.ao + n * d.resStride
  let es := (List.range p.m).map fun j =>
    let w := words.getD j 0
    let y0 : Val × NumEv := if float then ((floatFmt .f32).decode w, {}) else roundF32 (.fin (.ofInt (toS 32 w)))
    let res := readVal d.resFmt (o.spad.readNat (ra + j * rsz) rsz)
    let cb := cols.getD j (.nan, .nan)
    let bad := pois.getD (j / 16) false
    let rp := (d.deq && p.scale.2.getD (j * 4 / 64) false) || (d.biasEn && p.bias.2.getD (j * 4 / 64) false) ||
      (d.resEn && o.spad.bad ((ra + j * rsz) / 64))
    (chainElement d cb.1 cb.2 res y0, bad, rp)
  let perBeat := 64 / osz
  let o1 := (List.range (ceilDiv p.m perBeat)).foldl (fun o b =>
    let part := (es.drop (b * perBeat)).take perBeat
    let bp := part.any fun e => e.2.1 || e.2.2
    let bytes := part.flatMap fun e => leBytes osz e.1.1
    { o with
      spad := o.spad.store (oa + b * 64) bytes bp
      ue := o.ue ++ o.spad.mergeAddrs 0 (oa + b * 64) bytes.length
      poisoned := o.poisoned || bp }) o
  { o1 with
    ev := es.foldl (fun e x => e.add x.1.2) o1.ev
    src := o1.src ++ (if es.any (·.2.2) then [6] else [])
    ue := o1.ue ++ (if d.resEn then o.spad.ueAddrs 0 ra (p.m * rsz) else []) }

/-- Words and beat poison of the rows that a pass left in ACCM. -/
def PassRec.accmRows (p : PassRec) (accm : Mem) : List (List Nat × List Bool) :=
  (List.range p.n).map fun n =>
    ((List.range p.m).map fun j => accm.readNat (accmOff p.cmd.tb n j) 4,
     (List.range (ceilDiv p.m 16)).map fun b => accm.bad (accmOff p.cmd.tb n (16 * b) / 64))

/-- The proof-chain phase of a draining pass over given rows (R142). -/
def PassRec.runChain (p : PassRec) (rows : List (List Nat × List Bool)) (o : PassOut) : PassOut :=
  let d := PcDesc.ofBytes p.slot.desc
  let c := p.chainCols
  rows.zipIdx.foldl (fun o r => p.chainRow c.1 r.1.1 r.1.2 r.2 o) { o with ev := (o.ev.add d.readEv).add c.2 }

/-- One whole pass over SPAD and ACCM: the sums into ACCM, then, when it drains through a good slot and is not WIDE,
the proof chain into SPAD (R109, R142, R146, R150). -/
def PassRec.run (p : PassRec) (parity : List Nat) (spad accm : Mem) : PassOut :=
  let o := p.runAccm parity { spad := spad, accm := accm, ev := {}, src := [], poisoned := false, ue := [] }
  if p.cmd.drain && !p.slot.bad && !p.cmd.wide then p.runChain (p.accmRows o.accm) o
  else o

/-- Encoding faults of the P slot's PASS, beyond those of the header and formats (R108, R116). `pop` is the POP mask
of a TOK in the same bundle. -/
def passEncBad (c : PassCmd) (bit4 : Bool) (pop : Nat) : Bool :=
  !(pairOk c.fmov c.fsta) || decide (16 < c.tb + ceilDiv (c.ceil + 1) 128) ||
    ((c.rel || c.wide) && !c.drain) || (decide (c.pcs ≠ 0 ∨ c.ao ≠ 0) && !c.drain) || (c.half && !c.tand) ||
    (c.tand && pairGroup c.fmov) || (c.mq && c.sq && decide (c.am = c.as)) ||
    (c.mq && pop.testBit c.am) || (c.sq && pop.testBit c.as) || bit4

/-- Fields of a PASS slot word (R115); the formats are given, their codes being checked first. -/
def PassCmd.ofSlot (w : Nat) (fmov fsta : Fmt) : PassCmd :=
  { fmov := fmov, fsta := fsta, tb := bits w 41 38, am := bits w 37 34, as := bits w 33 30, shp := bits w 29 26,
    ceil := bits w 25 15, acc := bit w 14, drain := bit w 13, pcs := bits w 12 11, rel := bit w 10, tand := bit w 9,
    half := bit w 8, wide := bit w 7, mq := bit w 6, sq := bit w 5, ao := bits w 3 0 }

/-- Passes of one half that hold a command place: pending or in the array (R82, R124). In full mode every pass
counts. -/
def PlateSt.places (s : PlateSt) (c : PassCmd) : Nat :=
  (s.passes.filter fun p => decide (p.phase ≠ .draining) && (!c.tand || !p.cmd.tand || p.cmd.half == c.half)).length

/-- Tiles of a footprint that are neither FREE nor releasing (R131, R133). -/
def PlateSt.conflict (s : PlateSt) (fp : List Nat) : List Nat :=
  fp.filter fun t => let x := s.tiles.getD t {}; x.claimed && x.rel.isNone

/-- Claim the footprint at issue; with REL the tiles are releasing from then on. A tile already releasing keeps its first
release, which frees it no later than a further one would (R118, R130 to R132). -/
def PlateSt.claim (s : PlateSt) (fp : List Nat) (acc rel : Bool) (id : Nat) : PlateSt :=
  { s with tiles := fp.foldl (fun ts t =>
      let x := ts.getD t {}
      let y : Tile :=
        if acc && x.claimed then x else { claimed := true, owner := id, rel := none, byPrel := false }
      ts.setIfInBounds t (if rel && y.rel.isNone then { y with rel := some id, byPrel := false } else y)) s.tiles }

/-- Does an unretired pass numbered below `id` write tile `t`? (R118) -/
def PlateSt.writing (s : PlateSt) (t id : Nat) : Bool :=
  s.passes.any fun p => decide (p.id < id) && (footprint p.cmd.tb p.n).contains t

/-- PREL: mark claimed tiles as releasing; a tile that no earlier pass in flight writes becomes FREE at once (R118). -/
def PlateSt.prel (s : PlateSt) (mask : Nat) : PlateSt :=
  { s with
    nextId := s.nextId + 1
    tiles := (List.range 16).foldl (fun ts t =>
      let x := ts.getD t {}
      if mask.testBit t && x.claimed then
        ts.setIfInBounds t
          (if !s.writing t s.nextId then {}
           else if x.rel.isSome then x
           else { x with rel := some s.nextId, byPrel := true })
      else ts) s.tiles }

/-- May tile `t` be freed: the releasing pass has written its last output row, which the model does as the pass retires, or
no pass before the PREL still writes the tile (R118, R132; DESIGN CHOICE, log 103). -/
def PlateSt.canFree (s : PlateSt) (t : Nat) : Bool :=
  let x := s.tiles.getD t {}
  match x.rel with
  | none => false
  | some id =>
    if x.byPrel then !s.writing t id
    else !(s.passes.any fun p => decide (p.id = id))

/-- TILE_FREE (R132). -/
def PlateSt.free (s : PlateSt) (t : Nat) : PlateSt :=
  if s.canFree t then { s with tiles := s.tiles.setIfInBounds t {} } else s

/-- Do two passes work in different halves of a tandem array, each at its own pace (R138)? -/
def PassRec.apart (p q : PassRec) : Bool := p.cmd.tand && q.cmd.tand && p.cmd.half != q.cmd.half

/-- The pass of a half that starts next: its oldest pending one, once every earlier pass that it is not apart from has
started. A full-mode pass so waits for both halves, and a half for a full-mode pass (R125, R127, R138). -/
def PlateSt.startable (s : PlateSt) (half : Bool) : Option PassRec :=
  (s.passes.find? fun p => decide (p.phase = .pending) && (!p.cmd.tand || p.cmd.half == half)).bind fun q =>
    if s.passes.any fun p => decide (p.id < q.id) && decide (p.phase = .pending) && !p.apart q then none else some q

/-- Start of the pass of a half that is next: it enters the array with its operands read; the pass before it in the
same array or half drains (R124, R125, R127). -/
def PlateSt.start (s : PlateSt) (half : Bool) (spad : Mem) : PlateSt :=
  match s.startable half with
  | none => s
  | some q =>
    let same (p : PassRec) := !q.cmd.tand || !p.cmd.tand || p.cmd.half == q.cmd.half
    { s with
      tandem := q.cmd.tand
      group := pairGroup q.cmd.fmov
      passes := s.passes.map fun p =>
        if p.id = q.id then p.capture spad
        else if decide (p.phase = .array) && same p then { p with phase := .draining } else p }

/-- Do the footprints of two passes share a tile? -/
def PassRec.meets (p q : PassRec) : Bool :=
  (footprint p.cmd.tb p.n).any (footprint q.cmd.tb q.n).contains

/-- The pass of a half that retires next: its oldest started one, unless an earlier pass is still in flight that it is
not apart from or that writes a tile of its own, as such passes combine in issue order (R109, R122, R128). -/
def PlateSt.oldest (s : PlateSt) (half : Bool) : Option PassRec :=
  (s.passes.find? fun p => decide (p.phase ≠ .pending) && (!p.cmd.tand || p.cmd.half == half)).bind fun q =>
    if s.passes.any fun p => decide (p.id < q.id) && (!p.apart q || p.meets q) then none else some q

/-- The SPAD spans that a pass has still to read or write: all of them while it is pending, those of the proof chain once
its operands are captured (R86, R121, R135). -/
def PassRec.spansLeft (p : PassRec) : List (Nat × Nat) :=
  let ops := decide (p.phase = .pending)
  passSpans p.cmd p.n p.k p.m p.stride (if ops then some p.baseM else none) (if ops then some p.baseS else none) p.ao
    p.slot

end Sys2Proof.Machine
end

