-- ==== Sys2Proof/Machine/Wash.lean ====
section
/-! DEFINITION. The Wash engine: checks, element semantics, masks, compares, reductions, quantise passes, function
approximations, softmax and permutation of one command (05_wash_vector_engine.md, R153 to R178, R603). -/

namespace Sys2Proof.Machine

/-- The two memories of one core that a command reads and writes (R65). -/
structure CoreMem where
  spad : Mem := {}
  accm : Mem := {}
  /-- Core-local beats of the uncorrectable words that stores have merged with and that are not counted yet (R422). -/
  merged : List Nat := []
  deriving DecidableEq, Repr

/-- Is a core-local span wholly in SPAD or wholly in ACCM? (R65) -/
def localOk (a n : Nat) : Bool :=
  decide (a + n ≤ spadSize) || (decide (accmBase ≤ a) && decide (a + n ≤ accmBase + accmSize))

/-- Bytes of a core-local span. -/
def CoreMem.read (m : CoreMem) (a n : Nat) : List Byte :=
  if accmBase ≤ a then m.accm.read (a - accmBase) n else m.spad.read a n

/-- Does any beat of a core-local span read poisoned? -/
def CoreMem.bad (m : CoreMem) (a n : Nat) : Bool :=
  if accmBase ≤ a then m.accm.badRange (a - accmBase) n else m.spad.badRange a n

/-- Uncorrectable beats of a core-local span, as core-local addresses. -/
def CoreMem.ueAddrs (m : CoreMem) (a n : Nat) : List Nat :=
  if accmBase ≤ a then m.accm.ueAddrs accmBase (a - accmBase) n else m.spad.ueAddrs 0 a n

/-- Store the bytes that are there to a core-local span, keeping the merges with uncorrectable words (R422, R433). -/
def CoreMem.put (m : CoreMem) (a : Nat) (bs : List (Option Byte)) (p : Bool) : CoreMem :=
  let en := bs.map (·.isSome)
  if accmBase ≤ a then
    { m with accm := m.accm.put 8 (a - accmBase) bs p
             merged := m.merged ++ (m.accm.merges 8 (a - accmBase) en).map fun u => accmBase + u / 8 * 64 }
  else
    { m with spad := m.spad.put 8 a bs p, merged := m.merged ++ (m.spad.merges 8 a en).map fun u => u / 8 * 64 }

/-- Store bytes to a core-local span. -/
def CoreMem.store (m : CoreMem) (a : Nat) (bs : List Byte) (p : Bool) : CoreMem := m.put a (bs.map some) p

/-- Mark the beat at a core-local address poisoned, its bytes unchanged. -/
def CoreMem.taint (m : CoreMem) (a : Nat) : CoreMem :=
  if accmBase ≤ a then { m with accm := { m.accm with poison := insertSorted ((a - accmBase) / 64) m.accm.poison } }
  else { m with spad := { m.spad with poison := insertSorted (a / 64) m.spad.poison } }

/-- Little-endian number at a core-local address. -/
def CoreMem.nat (m : CoreMem) (a n : Nat) : Nat := leNat (m.read a n)

/-- One W-slot command as it issued: its fields (R76, R77, R153), the captured count, rows and pitch (R159) and the
addresses of its operands. -/
structure WashCmd where
  opc : Nat
  fa : Fmt
  fb : Fmt
  fd : Fmt
  wide : Bool
  msk : Bool
  zm : Bool
  bw : Nat
  n : Nat
  r : Nat
  pitch : Nat
  pa : Nat
  pb : Nat
  pd : Nat
  pm : Nat
  lc : Nat
  pc : Nat
  /-- Number among the WIDE operations of the barrier phase (R502). -/
  seq : Nat := 0
  /-- Number of the bundle it issued in (R86). -/
  stamp : Nat := 0
  deriving DecidableEq, Repr

/-- The Wash engine of one core: the executing command and the commands that wait (R82, R174). -/
structure WashSt where
  exec : Option WashCmd := none
  queue : List WashCmd := []
  deriving DecidableEq, Repr

/-- The opcodes of R154. -/
def washOpcode (o : Nat) : Bool :=
  (decide (1 ≤ o) && decide (o ≤ 0x0B)) || (decide (0x12 ≤ o) && decide (o ≤ 0x17)) ||
  (decide (0x20 ≤ o) && decide (o ≤ 0x29)) || (decide (0x30 ≤ o) && decide (o ≤ 0x3B)) ||
  (decide (0x40 ≤ o) && decide (o ≤ 0x46)) || o == 0x50 || o == 0x51 ||
  (decide (0x60 ≤ o) && decide (o ≤ 0x68)) || o == 0x70 || o == 0x78

/-- "real" of R155. -/
def Fmt.isReal (f : Fmt) : Bool := f.isInt || f.isFloat || f == .llr6

/-- F16, BF16 or F32. -/
def Fmt.isWideFloat : Fmt → Bool
  | .f16 | .bf16 | .f32 => true
  | _ => false

/-- Is a broadcast B used by this opcode? (R154) -/
def washBroadcast (o : Nat) : Bool :=
  (decide (0x12 ≤ o) && decide (o ≤ 0x17)) || o == 0x28 || o == 0x29 || (decide (0x34 ≤ o) && decide (o ≤ 0x37))

/-- Mask-logic opcodes. -/
def washMaskLogic (o : Nat) : Bool := decide (0x38 ≤ o) && decide (o ≤ 0x3B)
/-- Compare opcodes. -/
def washCompare (o : Nat) : Bool := decide (0x30 ≤ o) && decide (o ≤ 0x37)
/-- Reduction opcodes. -/
def washReduce (o : Nat) : Bool := decide (0x40 ≤ o) && decide (o ≤ 0x46)

/-- Does the opcode use operand B? -/
def washUsesB (o : Nat) : Bool :=
  (decide (2 ≤ o) && decide (o ≤ 7)) || o == 0x0A || (decide (0x12 ≤ o) && decide (o ≤ 0x17)) ||
  (decide (0x20 ≤ o) && decide (o ≤ 0x24)) || (decide (0x27 ≤ o) && decide (o ≤ 0x29)) ||
  (decide (0x30 ≤ o) && decide (o ≤ 0x3A)) || o == 0x46 || o == 0x50 || o == 0x51 || o == 0x78

/-- The format table of R155. -/
def washFormats (o : Nat) (a b d : Fmt) : Bool :=
  let zero (f : Fmt) := f == .s4
  let sameClass (x y : Fmt) := (x.isReal && y.isReal) || (x.isComplex && y.isComplex)
  if o = 0x01 then zero b && !(a == .bfp && d == .bfp)
  else if o = 0x0B then zero b && !(a == .bfp) && !(d == .bfp)
  else if (2 ≤ o ∧ o ≤ 7) ∨ (0x12 ≤ o ∧ o ≤ 0x17) then a.isReal && b.isReal && d.isReal
  else if o = 8 ∨ o = 9 then a.isReal && zero b && d.isReal
  else if o = 0x0A then (a.isReal || a.isComplex) && b == a && sameClass a d
  else if (0x20 ≤ o ∧ o ≤ 0x24) ∨ o = 0x28 then a.isComplex && b.isComplex && d.isComplex
  else if o = 0x25 then a.isComplex && zero b && d.isComplex
  else if o = 0x26 then a.isComplex && zero b && d.isWideFloat
  else if o = 0x27 ∨ o = 0x29 then a.isComplex && b.isReal && d.isComplex
  else if 0x30 ≤ o ∧ o ≤ 0x37 then a.isReal && b.isReal && zero d
  else if 0x38 ≤ o ∧ o ≤ 0x3B then zero a && zero b && zero d
  else if o = 0x40 then (a.isReal || a.isComplex) && zero b && sameClass a d
  else if o = 0x46 then a.isReal && b.isReal && d.isReal
  else if o = 0x41 ∨ o = 0x42 then a.isReal && zero b && d.isReal
  else if o = 0x43 ∨ o = 0x44 then a.isReal && zero b && d == .s32
  else if o = 0x45 then (a.isReal || a.isComplex) && zero b && d == .f32
  else if o = 0x50 ∨ o = 0x51 then (a.isReal || a.isComplex) && b == .f32 && decide (quantQ d ≠ 0)
  else if 0x60 ≤ o ∧ o ≤ 0x67 then a.isFloat && zero b && d.isFloat
  else if o = 0x68 then a == .f32 && zero b && d.isComplex
  else if o = 0x70 then a.isWideFloat && zero b && d.isWideFloat
  else if o = 0x78 then !(a == .bfp) && (b == .s16 || b == .s32) && d == a
  else false

/-- The further encoding faults of R156. -/
def washEncBad (o : Nat) (a d : Fmt) (wide msk zm : Bool) (bw : Nat) : Bool :=
  let bfp := o == 1 && (a == .bfp || d == .bfp)
  (wide && !washReduce o) || (o == 0x0A && (!msk || zm)) || (msk && (washMaskLogic o || o == 0x0B || bfp)) ||
    (zm && !msk) || (bfp && decide (8 < bw))

/-- Pitch of bit-vector rows: ⌈n / 512⌉ × 64 bytes (R160). -/
def maskPitch (n : Nat) : Nat := ceilDiv n 512 * 64

/-- Bytes of one row of an operand of format `f` in a command, `n` elements or BFP blocks (R158, R160). -/
def WashCmd.rowBytes (c : WashCmd) (f : Fmt) (perN : Nat) : Nat :=
  if f = .bfp then c.n * bfpBytes (c.bw + 8) else elemBytes f.width (perN * c.n)

/-- Is BFP on one side of a WCVT? -/
def WashCmd.hasBfp (c : WashCmd) : Bool := c.opc == 1 && (c.fa == .bfp || c.fd == .bfp)

/-- A span of an operand over all its rows: start, row pitch, row bytes, rows, container width. -/
structure Span where
  base : Nat
  pitch : Nat
  row : Nat
  rows : Nat
  width : Nat
  deriving DecidableEq, Repr

/-- First address beyond a span. -/
def Span.end' (s : Span) : Nat := s.base + (s.rows - 1) * s.pitch + s.row

/-- Elements per unit of count: twelve per BFP block on the other side of a BFP conversion (R158). -/
def WashCmd.unit (c : WashCmd) (f : Fmt) : Nat := if c.hasBfp && f != .bfp then 12 else 1

/-- Operand A as a span. -/
def WashCmd.spanA (c : WashCmd) : Span :=
  if washMaskLogic c.opc then ⟨c.pa, maskPitch c.n, elemBytes 1 c.n, c.r, 1⟩
  else if c.opc = 0x0B then ⟨c.pa, c.pitch, elemBytes c.fa.width 1, c.r, c.fa.width⟩
  else ⟨c.pa, c.pitch, c.rowBytes c.fa (c.unit c.fa), c.r, c.fa.width⟩

/-- Operand B as a span, when it is used. -/
def WashCmd.spanB (c : WashCmd) : Option Span :=
  if !washUsesB c.opc then none
  else if washMaskLogic c.opc then some ⟨c.pb, maskPitch c.n, elemBytes 1 c.n, c.r, 1⟩
  else if washBroadcast c.opc then some ⟨c.pb, 0, elemBytes c.fb.width 1, 1, c.fb.width⟩
  else if c.opc = 0x50 then some ⟨c.pb, 0, 8, 1, 32⟩
  else if c.opc = 0x51 then some ⟨c.pb, 0, 6, 1, 32⟩
  else some ⟨c.pb, c.pitch, elemBytes c.fb.width c.n, c.r, c.fb.width⟩

/-- The destination as a span. -/
def WashCmd.spanD (c : WashCmd) : Span :=
  if washMaskLogic c.opc || washCompare c.opc then ⟨c.pd, maskPitch c.n, elemBytes 1 c.n, c.r, 1⟩
  else if washReduce c.opc then ⟨c.pd, 0, elemBytes c.fd.width c.r, 1, c.fd.width⟩
  else if (c.opc = 0x50 ∨ c.opc = 0x51) ∧ c.fa.isComplex then
    ⟨c.pd, c.pitch, elemBytes c.fd.width (2 * c.n), c.r, c.fd.width⟩
  else ⟨c.pd, c.pitch, c.rowBytes c.fd (c.unit c.fd), c.r, c.fd.width⟩

/-- The mask as a span, when it is used. -/
def WashCmd.spanM (c : WashCmd) : Option Span :=
  if c.msk then some ⟨c.pm, maskPitch c.n, elemBytes 1 c.n, c.r, 1⟩ else none

/-- Does a row of the span take one of the `n` bytes at `a`? The row asked is the first that ends beyond `a`. -/
def Span.hits (y : Span) (a n : Nat) : Bool :=
  let j := if a < y.base + y.row then 0 else (a - y.base - y.row) / y.pitch + 1
  decide (j < y.rows) && decide (y.base + j * y.pitch < a + n) && decide (a < y.base + j * y.pitch + y.row)

/-- Do two spans share a byte? Their rows are compared, so rows that interleave without a common byte do not
overlap (R161). -/
def Span.overlaps (x y : Span) : Bool :=
  decide (x.base < y.end') && decide (y.base < x.end') &&
    (List.range x.rows).any fun i => y.hits (x.base + i * x.pitch) x.row

/-- Opcodes for which D may equal A or B exactly (R161). -/
def washMayAlias (o : Nat) : Bool :=
  decide (o ≤ 0x29) || washMaskLogic o || (decide (0x60 ≤ o) && decide (o ≤ 0x68)) || o == 0x70

/-- Is an overlap of D with an operand allowed? Same base, container size and row pitch (R161). -/
def WashCmd.aliasOk (c : WashCmd) (d x : Span) : Bool :=
  washMayAlias c.opc && decide (d.base = x.base) && decide (d.width = x.width) && decide (d.pitch = x.pitch) &&
    decide (d.row = x.row)

/-- The longest row of the row operands (R161). -/
def WashCmd.longestRow (c : WashCmd) : Nat :=
  let bitv := washMaskLogic c.opc
  let a := if bitv || c.opc == 0x0B then 0 else c.spanA.row
  let b := match c.spanB with
    | some s => if bitv || s.rows != c.r || washBroadcast c.opc || c.opc == 0x50 || c.opc == 0x51 then 0 else s.row
    | none => 0
  let d := if bitv || washCompare c.opc || washReduce c.opc then 0 else c.spanD.row
  max a (max b d)

/-- The issue checks of R161 for a command with a nonzero count: the fault code with the lowest number first, and its
INFO (R103). -/
def WashCmd.check (c : WashCmd) : Option (Nat × Nat) :=
  let d := c.spanD
  let ops := [c.spanA] ++ c.spanB.toList ++ [d] ++ c.spanM.toList
  let bad (x : Span) := d.overlaps x && !c.aliasOk d x
  if 1 < c.r ∧ c.pitch < c.longestRow then some (0x05, c.pitch)
  else
    match ops.find? fun s => !localOk s.base (s.end' - s.base) with
    | some s => some (0x05, firstOutside s.base)
    | none =>
      if bad c.spanA || (match c.spanB with | some s => bad s | none => false) ||
          (match c.spanM with | some s => d.overlaps s | none => false) then some (0x05, d.base)
      else
        match ops.find? fun s => decide (s.base % 64 ≠ 0) with
        | some s => some (0x06, s.base)
        | none => if 1 < c.r ∧ c.pitch % 64 ≠ 0 then some (0x06, c.pitch) else none

/-- Output of one element: the code to write, `none` to leave it unchanged, and its poison. -/
structure ElOut where
  code : Option Nat
  pois : Bool
  deriving DecidableEq, Repr

/-- What one command did. -/
structure WashOut where
  mem : CoreMem
  ev : NumEv := {}
  empty : Nat := 0
  oor : Nat := 0
  dom : Nat := 0
  poisoned : Bool := false
  ue : List Nat := []
  deriving DecidableEq, Repr

/-- Does the core-local word of 8 bytes at `a` hold an uncorrectable error? -/
def CoreMem.hit (m : CoreMem) (a : Nat) : Bool :=
  if accmBase ≤ a then m.accm.hit (a - accmBase) 8 else m.spad.hit a 8

/-- Does the beat at a core-local address hold the poison code? -/
def CoreMem.tainted (m : CoreMem) (a : Nat) : Bool :=
  if accmBase ≤ a then m.accm.poison.contains ((a - accmBase) / 64) else m.spad.poison.contains (a / 64)

/-- Write the elements of one 64-byte beat: a beat written in full, to its last bit, takes the poison of its new elements; a
partial write ORs into the beat's bit. A byte of which only some bits are written is merged with the word that held it,
which may read uncorrectable (R422). The poison of an element that is left unchanged, which a mask beat gives it, counts
as well (R177). -/
def writeBeat (m : CoreMem) (a w : Nat) (els : List ElOut) : CoreMem :=
  let put (v : Nat) (c : ElOut → Nat) : Nat := els.zipIdx.foldl (fun v e =>
    if e.1.code.isSome then putBits v (e.2 * w + w - 1) (e.2 * w) (c e.1) else v) v
  let new := put (m.nat a 64) fun e => e.code.getD 0
  let mask := put 0 fun _ => 2 ^ w - 1
  let byteMask (b : Nat) : Nat := bits mask (8 * b + 7) (8 * b)
  let frag (b : Nat) : Bool := byteMask b != 0 && byteMask b != 255
  let fragWords := (List.range 8).filter fun j =>
    (rangeFrom (8 * j) 8).any frag && (rangeFrom (8 * j) 8).all (fun b => byteMask b != 0) && m.hit (a + 8 * j)
  let pois := els.any (·.pois)
  if mask = 0 then (if pois then m.taint a else m)
  else
    let keep := (List.range 64).any frag && m.tainted a
    let m := m.put a ((leBytes 64 new).zipIdx.map fun b => if byteMask b.2 = 0 then none else some b.1)
      (pois || keep || !fragWords.isEmpty)
    if fragWords.isEmpty then m else { m with merged := m.merged ++ fragWords.map fun _ => a / 64 * 64 }

/-- Write a row of elements of width `w` from a 64-byte aligned base. -/
def writeRow (m : CoreMem) (a w : Nat) (els : List ElOut) : CoreMem :=
  let per := 512 / w
  (List.range (ceilDiv els.length per)).foldl (fun m b =>
    writeBeat m (a + 64 * b) w ((els.drop (b * per)).take per)) m

/-- Code of element `e` of a row of width `w` at `a`. -/
def CoreMem.elem (m : CoreMem) (a w e : Nat) : Nat :=
  if w = 1 then bits (m.nat (a + e / 8) 1) (e % 8) (e % 8)
  else if w = 4 then (if e % 2 = 0 then m.nat (a + e / 2) 1 % 16 else m.nat (a + e / 2) 1 / 16)
  else m.nat (a + e * (w / 8)) (w / 8)

/-- Poison of the beat that holds element `e`. -/
def CoreMem.elemBad (m : CoreMem) (a w e : Nat) : Bool := m.bad (a + e * w / 8) 1

/-- Exact zero. -/
def Val.zero : Val := .fin { neg := false, num := 0 }

/-- Absolute value; of a zero, +0 (R35). -/
def Val.abs : Val → Val
  | .fin x => .fin { x with neg := false }
  | .inf _ => .inf false
  | .nan => .nan

/-- A real element-wise result before rounding; `d` is the old destination of WMAC (R154, R157). DESIGN CHOICE: R28
gives integer arithmetic S32 results before narrowing, R44 and R157 round the exact result once to FMT_D; where the two
differ the exact result is taken (log entry 100). -/
def realOp (o : Nat) (a b d : Val) : Val :=
  match o % 16 with
  | 2 => a.add b
  | 3 => a.add b.negate
  | 4 => a.mul b
  | 5 => d.add (a.mul b)
  | 6 => if a.isNan || b.isNan then .nan else vmin a b
  | 7 => if a.isNan || b.isNan then .nan else vmax a b
  | 8 => a.abs
  | 9 => a.negate
  | _ => a

/-- A complex result before rounding, as I and Q (R154, R157). -/
def complexOp (o : Nat) (a b d : Val × Val) : Val × Val :=
  let mulc (x y : Val × Val) : Val × Val :=
    ((x.1.mul y.1).add (x.2.mul y.2).negate, (x.1.mul y.2).add (x.2.mul y.1))
  match o with
  | 0x20 => (a.1.add b.1, a.2.add b.2)
  | 0x21 => (a.1.add b.1.negate, a.2.add b.2.negate)
  | 0x22 | 0x28 => mulc a b
  | 0x23 => mulc a (b.1, b.2.negate)
  | 0x24 => let p := mulc a b; (d.1.add p.1, d.2.add p.2)
  | 0x25 => (a.1, a.2.negate)
  | 0x27 | 0x29 => (a.1.mul b.1, a.2.mul b.1)
  | _ => a

/-- Reading a complex operand: each component under its own rule (R38, R39). -/
def readComplex (f : Fmt) (c : Nat) : (Val × Val) × NumEv :=
  let (i, q) := cparts c
  let g : Fmt := if f = .cf16 then .f16 else .cs16
  let a := readVal g i
  let b := readVal g q
  ((a.1, b.1), a.2.add b.2)

/-- Writing a complex result: each component rounded once (R39). -/
def writeComplex (f : Fmt) (v : Val × Val) : Nat × NumEv :=
  let g : Fmt := if f = .cf16 then .f16 else .cs16
  let a := writeVal g v.1
  let b := writeVal g v.2
  (cjoin a.1 b.1, a.2.add b.2)

/-- Largest finite F32 value with a sign, as its code. -/
def maxF32 (neg : Bool) : Nat := (floatFmt .f32).withSign neg 0x7F7FFFFF

/-- F32 code of the approximation for an argument, the events, and whether it is a domain result: the special cases
of R170 exactly, every other argument a free value inside the error bound. -/
def washFn (o : Nat) (v : Val) : Nat × NumEv × Bool :=
  let f := floatFmt .f32
  let dom : Nat × NumEv × Bool := (f.nanCode, {}, true)
  let one := 0x3F800000
  let approx (x e : Ex) (k : Nat) : Nat × NumEv × Bool :=
    (boundedApprox (Config.washApprox o (f.round x).1) e ((ulp32 e).mul (Ex.ofInt k)), {}, false)
  let near (e : Ex) : Nat × NumEv × Bool := let r := f.round e; (r.1, r.2, false)
  let gt (x : Ex) (n d : Nat) := ({ neg := false, num := n, den := d } : Ex).le x
  match v with
  | .nan => (f.nanCode, {}, false)
  | .inf neg =>
    match o with
    | 0x60 | 0x61 => (if neg then 0 else 0x7F800000, {}, false)
    | 0x62 | 0x65 => if neg then dom else (0x7F800000, {}, false)
    | 0x63 => (f.withSign neg 0, {}, false)
    | 0x64 => if neg then dom else (0, {}, false)
    | 0x66 => (f.withSign neg one, {}, false)
    | _ => (if neg then 0 else one, {}, false)
  | .fin x =>
    let z := decide (x.num = 0)
    match o with
    | 0x60 =>
      if z then (one, {}, false)
      else if gt x 887228394 10000000 then (maxF32 false, { sat := 1 }, false)
      else if x.lt { neg := true, num := 103972084, den := 1000000 } then (0, {}, false)
      else approx x (expReal x) 2
    | 0x61 =>
      if gt x 128 1 then (maxF32 false, { sat := 1 }, false)
      else if x.num % x.den = 0 ∧ (Ex.ofInt (-149)).le x then near ((Ex.ofInt 1).scale x.roundInt)
      -- below 2⁻⁴⁰⁰ the bound of one unit in the last place admits the same codes for every argument
      else approx x (if x.lt (Ex.ofInt (-400)) then (Ex.ofInt 1).scale (-400) else exp2Real x) 1
    | 0x62 =>
      if z then (maxF32 true, { sat := 1 }, false)
      else if x.neg then dom
      else if x.eqv ((Ex.ofInt 1).scale x.log2) then
        near (Ex.ofInt x.log2)
      else approx x (log2Real x) 2
    | 0x63 => if z then (maxF32 x.neg, { sat := 1 }, false)
      else
        let e := (Ex.ofInt 1).div x
        let r := f.round e
        if 0 < r.2.sat then (r.1, r.2, false) else approx x e 1
    | 0x64 => if z then (maxF32 x.neg, { sat := 1 }, false) else if x.neg then dom else approx x (rsqReal x) 2
    | 0x65 => if z then (f.withSign x.neg 0, {}, false) else if x.neg then dom
      else let r := f.sqrt x; (r.1, r.2, false)
    | 0x66 =>
      if z then (f.withSign x.neg 0, {}, false)
      else if gt { x with neg := false } 901 100 then (f.withSign x.neg one, {}, false)
      else approx x (tanhReal x) 2
    | _ =>
      if z then (0x3F000000, {}, false)
      else if gt x 167 10 then (one, {}, false)
      else if x.le { neg := true, num := 10328, den := 100 } then (0, {}, false)
      else
        (boundedApprox (Config.washApprox o (f.round x).1) (sigmReal x) ((Ex.ofInt 1).scale (-24)), {}, false)

/-- One component of WCIS: a free value within 2⁻²⁰ of cos or sin of 2πy for y = x − round(x), reduced exactly, so that it
depends on the reduced argument alone; the values at the quarter turns stay inside the bound (R171). -/
def washCis (part : Nat) (x : Ex) : Ex :=
  let y := x.add (Ex.ofInt (-x.roundInt))
  let e := if part = 0 then (cisReal y).1 else (cisReal y).2
  let c := boundedApprox (Config.washApprox (0x6800 + part) ((floatFmt .f32).round y).1) e ((Ex.ofInt 1).scale (-20))
  match (floatFmt .f32).decode c with
  | .fin v => v
  | _ => e

/-- A WCIS component written to FMT_D; exactly +1.0 in CS16 gives 32,767 uncounted (R171). -/
def writeCis (f : Fmt) (v : Ex) : Nat × NumEv :=
  let r := writeVal (if f = .cf16 then .f16 else .cs16) (.fin v)
  if f = .cs16 ∧ v.eqv (Ex.ofInt 1) then (r.1, {}) else r

/-- Result of an element-wise opcode: code, events, poison of the inputs read, domain and out-of-range counts. -/
structure ElRes where
  code : Nat
  ev : NumEv := {}
  pois : Bool := false
  dom : Nat := 0
  oor : Nat := 0
  deriving DecidableEq, Repr

/-- Address of row `k` of an operand. -/
def WashCmd.row (c : WashCmd) (base k : Nat) : Nat := base + k * c.pitch

/-- Operand B of an element as one real or complex value, with the events of reading it; those of a broadcast B count once
for the whole command (R37, R154). -/
def WashCmd.readB (c : WashCmd) (code : Nat) : (Val × Val) × NumEv :=
  if c.opc ≤ 0x29 && decide (0x20 ≤ c.opc) && c.fb.isComplex then readComplex c.fb code
  else let r := readVal c.fb code; ((r.1, Val.zero), r.2)

/-- Element `e` of row `k` of a command, not masked off (R154, R157, R158, R163, R170, R171, R173). `sel` is its mask
bit. -/
def WashCmd.element (c : WashCmd) (m : CoreMem) (k e : Nat) (sel : Bool) : ElRes :=
  let wa := c.fa.width
  let wb := c.fb.width
  let wd := c.fd.width
  let ra := c.row c.pa k
  let eb := if washBroadcast c.opc then 0 else e
  let rb := if washBroadcast c.opc then c.pb else c.row c.pb k
  let rd := c.row c.pd k
  let ca := m.elem ra wa e
  let pa := m.elemBad ra wa e
  let cb := m.elem rb wb eb
  let pb := m.elemBad rb wb eb
  let o := c.opc
  let fb : (Val × Val) × NumEv := let r := c.readB cb; (r.1, if washBroadcast o then {} else r.2)
  if o = 1 then
    let r := convert c.fa c.fd ca
    { code := r.1, ev := r.2, pois := pa }
  else if o = 0x0A then
    let r := if sel then convert c.fa c.fd ca else convert c.fa c.fd cb
    { code := r.1, ev := r.2, pois := if sel then pa else pb }
  else if 0x30 ≤ o ∧ o ≤ 0x37 then
    let a := readVal c.fa ca
    let b := fb.1.1
    let eq := !(a.1.lt b) && !(b.lt a.1)
    let t := match o % 4 with
      | 0 => a.1.lt b
      | 1 => a.1.lt b || eq
      | 2 => eq
      | _ => !eq
    { code := b2n (t && !a.1.isNan && !b.isNan), ev := a.2.add fb.2, pois := pa || pb }
  else if o = 0x78 then
    let i := cb
    if c.n ≤ i then { code := 0, pois := pb, oor := 1 }
    else
      let r := convert c.fa c.fa (m.elem ra wa i)
      { code := r.1, ev := r.2, pois := pb || m.elemBad ra wa i }
  else if 0x60 ≤ o ∧ o ≤ 0x67 then
    let a := readVal c.fa ca
    let r := washFn o a.1
    let w := writeVal c.fd ((floatFmt .f32).decode r.1)
    { code := w.1, ev := (a.2.add r.2.1).add w.2, pois := pa, dom := b2n r.2.2 }
  else if o = 0x68 then
    let a := readVal c.fa ca
    let nan : Nat := if c.fd = .cf16 then cjoin 0x7E00 0x7E00 else 0
    match a.1 with
    | .nan => { code := nan, ev := a.2, pois := pa }
    | .inf _ => { code := nan, ev := a.2, pois := pa, dom := 1 }
    | .fin x =>
      let i := writeCis c.fd (washCis 0 x)
      let q := writeCis c.fd (washCis 1 x)
      { code := cjoin i.1 q.1, ev := (a.2.add i.2).add q.2, pois := pa }
  else if 0x20 ≤ o ∧ o ≤ 0x29 then
    let a := readComplex c.fa ca
    let useB := washUsesB o
    let b : (Val × Val) × NumEv := if useB then fb else ((Val.zero, Val.zero), {})
    let d : (Val × Val) × NumEv :=
      if o = 0x24 then readComplex c.fd (m.elem rd wd e) else ((Val.zero, Val.zero), {})
    let ev := (a.2.add b.2).add d.2
    let pois := pa || (useB && pb) || (o == 0x24 && m.elemBad rd wd e)
    if o = 0x26 then
      let r := writeVal c.fd ((a.1.1.mul a.1.1).add (a.1.2.mul a.1.2))
      { code := r.1, ev := ev.add r.2, pois := pois }
    else
      let r := writeComplex c.fd (complexOp o a.1 b.1 d.1)
      { code := r.1, ev := ev.add r.2, pois := pois }
  else
    let a := readVal c.fa ca
    let useB := washUsesB o
    let b := if useB then (fb.1.1, fb.2) else (Val.zero, {})
    let mac := o % 16 == 5
    let d := if mac then readVal c.fd (m.elem rd wd e) else (Val.zero, {})
    let r := writeVal c.fd (realOp o a.1 b.1 d.1)
    { code := r.1, ev := ((a.2.add b.2).add d.2).add r.2,
      pois := pa || (useB && pb) || (mac && m.elemBad rd wd e) }

/-- Mask bit of element `e` of row `k`; every element is active without a mask (R162). -/
def WashCmd.active (c : WashCmd) (m : CoreMem) (k e : Nat) : Bool :=
  !c.msk || decide (m.elem (c.pm + k * maskPitch c.n) 1 e = 1)

/-- Poison of the mask beat that governs element `e` (R177). -/
def WashCmd.maskBad (c : WashCmd) (m : CoreMem) (k e : Nat) : Bool :=
  c.msk && m.elemBad (c.pm + k * maskPitch c.n) 1 e

/-- Uncorrectable beats that a command reads. A masked-off element is not read, WSEL reads the chosen one, WPERM the
element that its index selects, and WMAC its destination (R154, R162, R163, R173, R422). -/
def WashCmd.ue (c : WashCmd) (m : CoreMem) : List Nat :=
  if m.spad.ue.isEmpty && m.accm.ue.isEmpty then []
  else
    let span (s : Span) : List Nat :=
      (List.range s.rows).flatMap fun k => m.ueAddrs (s.base + k * s.pitch) s.row
    let at' (base : Nat) (f : Fmt) (es : List Nat) : List Nat :=
      (es.map fun e => (base + e * f.width / 8) / 64).eraseDups.flatMap fun b => m.ueAddrs (64 * b) 64
    if washMaskLogic c.opc || c.opc == 0x0B || c.hasBfp then ([c.spanA] ++ c.spanB.toList).flatMap span
    else
      let act (k : Nat) : List Nat := (List.range c.n).filter fun e => c.active m k e
      let any := (List.range c.r).any fun k => !(act k).isEmpty
      let rows (f : Nat → List Nat) : List Nat := (List.range c.r).flatMap f
      c.spanM.toList.flatMap span ++
      rows (fun k =>
        let es := if c.opc = 0x78 then
            ((act k).map fun e => m.elem (c.row c.pb k) c.fb.width e).filter fun i => decide (i < c.n)
          else act k
        at' (c.row c.pa k) c.fa es) ++
      (if !washUsesB c.opc then []
        else if c.opc = 0x50 ∨ c.opc = 0x51 then m.ueAddrs c.pb 4
        else if washBroadcast c.opc then (if any then at' c.pb c.fb [0] else [])
        else if c.opc = 0x0A then
          rows fun k => at' (c.row c.pb k) c.fb ((List.range c.n).filter fun e => !c.active m k e)
        else rows fun k => at' (c.row c.pb k) c.fb (act k)) ++
      (if c.opc = 0x05 ∨ c.opc = 0x15 ∨ c.opc = 0x24 then rows fun k => at' (c.row c.pd k) c.fd (act k) else [])

/-- One row of an element-wise command. -/
def WashCmd.rowElements (c : WashCmd) (k : Nat) (o : WashOut) : WashOut :=
  let m := o.mem
  let wd := if washCompare c.opc then 1 else c.fd.width
  let rd := if washCompare c.opc then c.pd + k * maskPitch c.n else c.row c.pd k
  let els : List (ElOut × ElRes) := (List.range c.n).map fun e =>
    let act := c.active m k e
    let mb := c.maskBad m k e
    if act || c.opc == 0x0A then
      let r := c.element m k e act
      ({ code := some r.code, pois := r.pois || mb }, r)
    else if c.zm then ({ code := some 0, pois := mb }, { code := 0 })
    else ({ code := none, pois := mb }, { code := 0 })
  { o with
    mem := writeRow m rd wd (els.map (·.1))
    ev := els.foldl (fun v x => v.add x.2.ev) o.ev
    dom := els.foldl (fun v x => v + x.2.dom) o.dom
    oor := els.foldl (fun v x => v + x.2.oor) o.oor
    poisoned := o.poisoned || els.any fun x => x.1.pois }

/-- WFILL: A[0] of the row converted once and written to every element (R154). -/
def WashCmd.rowFill (c : WashCmd) (k : Nat) (o : WashOut) : WashOut :=
  let ra := c.row c.pa k
  let r := convert c.fa c.fd (o.mem.elem ra c.fa.width 0)
  let p := o.mem.elemBad ra c.fa.width 0
  { o with
    mem := writeRow o.mem (c.row c.pd k) c.fd.width (List.replicate c.n { code := some r.1, pois := p })
    ev := o.ev.add r.2
    poisoned := o.poisoned || (p && decide (0 < c.n)) }

/-- Mask logic over one row of bits (R154, R159). -/
def WashCmd.rowLogic (c : WashCmd) (k : Nat) (o : WashOut) : WashOut :=
  let m := o.mem
  let off := k * maskPitch c.n
  let els : List ElOut := (List.range c.n).map fun e =>
    let a := m.elem (c.pa + off) 1 e
    let b := m.elem (c.pb + off) 1 e
    let v := match c.opc with
      | 0x38 => a * b
      | 0x39 => if a + b = 0 then 0 else 1
      | 0x3A => (a + b) % 2
      | _ => 1 - a
    { code := some v
      pois := m.elemBad (c.pa + off) 1 e || (c.opc != 0x3B && m.elemBad (c.pb + off) 1 e) }
  { o with
    mem := writeRow m (c.pd + off) 1 els
    poisoned := o.poisoned || els.any (·.pois) }

/-- A conversion with BFP on one side, one block of twelve complex elements at a time (R52 case H and K, R158); the row
is then stored beat by beat, with the poison of each block on what came from it (R177). -/
def WashCmd.rowBfp (c : WashCmd) (k : Nat) (o : WashOut) : WashOut :=
  let m := o.mem
  let bb := bfpBytes (c.bw + 8)
  let ra := c.row c.pa k
  let block (b : Nat) : List ElOut × NumEv :=
    if c.fa = .bfp then
      let s := ra + b * bb
      let d := bfpDecompress (c.bw + 8) (m.read s bb)
      let cs := (List.range 12).map fun i => cjoin (ofS 16 (d.1.getD (2 * i) 0)) (ofS 16 (d.1.getD (2 * i + 1) 0))
      let rs := cs.map (convert .cs16 c.fd)
      let p := m.bad s bb
      (rs.map fun r => { code := some r.1, pois := p }, rs.foldl (fun v x => v.add x.2) d.2)
    else
      let w := c.fa.width
      let s := ra + b * 12 * w / 8
      let rs := (unpackElems w 12 (m.read s (elemBytes w 12))).map (convert c.fa .cs16)
      let xs := rs.flatMap fun x => [toS 16 (cparts x.1).1, toS 16 (cparts x.1).2]
      let p := m.bad s (elemBytes w 12)
      ((bfpCompress (c.bw + 8) xs).map fun y => { code := some y.toNat, pois := p },
        rs.foldl (fun v x => v.add x.2) {})
  let bs := (List.range c.n).map block
  let els := bs.flatMap (·.1)
  { o with
    mem := writeRow m (c.row c.pd k) (if c.fa = .bfp then c.fd.width else 8) els
    ev := bs.foldl (fun v x => v.add x.2) o.ev
    poisoned := o.poisoned || els.any (·.pois) }

/-- The order of R164 over one row: element `e` goes to lane e mod 64, then six levels of pairs. `step` takes a value into
its lane, `join` combines two lanes, `ident` stands in every lane at first. -/
def laneTree {α β : Type} (ident : β) (step : β → α → β) (join : β → β → β) (vals : List (Nat × α)) : β :=
  let lanes := (List.range 64).map fun l => (vals.filter fun v => v.1 % 64 = l).foldl (fun x v => step x v.2) ident
  let pairs (l : List β) : List β :=
    (List.range (l.length / 2)).map fun i => join (l.getD (2 * i) ident) (l.getD (2 * i + 1) ident)
  (pairs (pairs (pairs (pairs (pairs (pairs lanes)))))).getD 0 ident

/-- The order of R164 for a combination without an identity of its own. -/
def laneFold {α : Type} (f : α → α → α) (vals : List (Nat × α)) : Option α :=
  let join (x y : Option α) : Option α :=
    match x, y with
    | none, b => b
    | a, none => a
    | some a, some b => some (f a b)
  laneTree none (fun x v => join x (some v)) join vals

/-- Addition of partial sums: exact, or rounded to F32 (R164). Partials carry the events of their roundings. -/
def addPartial (exact : Bool) (x y : Val × NumEv) : Val × NumEv :=
  if exact then (x.1.add y.1, x.2.add y.2)
  else
    let r := roundF32 (x.1.add y.1)
    (r.1, (x.2.add y.2).add r.2)

/-- Is a format one of those whose sums are exact? (R164) -/
def exactSum (f : Fmt) : Bool := f.isInt || f == .cs16 || f == .llr6

/-- Sum of a row, from +0 in every lane. A product enters its lane exactly and only the sum is rounded (R157, R164). -/
def sumTree (exact : Bool) (vals : List (Nat × Val)) : Val × NumEv :=
  laneTree (Val.zero, {}) (fun x v => addPartial exact x (v, {})) (addPartial exact) vals

/-- Identity written for a row with no active element (R166). -/
def reduceIdentity (o : Nat) (d : Fmt) : Nat :=
  let extreme (neg : Bool) : Nat :=
    if d.isInt then ofS d.width (if neg then minS d.width else maxS d.width)
    else if d = .llr6 then ofS 8 (if neg then -31 else 31)
    else (floatFmt d).withSign neg ((floatFmt d).infCode.getD (floatFmt d).maxCode)
  match o with
  | 0x41 => extreme true
  | 0x42 => extreme false
  | 0x43 | 0x44 => 0xFFFFFFFF
  | _ => 0

/-- Largest finite value of a source format (R59). -/
def maxFinite (f : Fmt) : Val :=
  match (floatFmt (if f = .cf16 then .f16 else f)).decode (floatFmt (if f = .cf16 then .f16 else f)).maxCode with
  | .fin x => .fin x
  | v => v

/-- Result of a reduction over the active elements of a row, before any combining across cores: code, events
(R164, R165). -/
def reduceVals (o : Nat) (fa fb fd : Fmt) (es : List (Nat × Nat × Nat)) : Nat × NumEv :=
  let best (gt : Val → Val → Bool) (vs : List (Nat × Val)) : Nat :=
    match vs with
    | [] => 0xFFFFFFFF
    | v :: l => (l.foldl (fun (b : Nat × Val) x => if gt x.2 b.2 then x else b) v).1
  let above (x y : Val) : Bool := y.lt x || (!x.lt y && !x.neg? && y.neg?)
  if fa.isComplex then
    let rs := es.map fun e => (e.1, readComplex fa e.2.1)
    let ev := rs.foldl (fun v x => v.add x.2.2) ({} : NumEv)
    if o = 0x45 then
      let vs := rs.flatMap fun x => [x.2.1.1, x.2.1.2]
      let m := (vs.filter fun v => !v.isNan).foldl (fun a v => vmax a (if v.isInf then maxFinite fa else v.abs)) Val.zero
      let w := writeVal .f32 m
      (w.1, ev.add w.2)
    else
      let i := sumTree (exactSum fa) (rs.map fun x => (x.1, x.2.1.1))
      let q := sumTree (exactSum fa) (rs.map fun x => (x.1, x.2.1.2))
      let w := writeComplex fd (i.1, q.1)
      (w.1, ((ev.add i.2).add q.2).add w.2)
  else
    let rs := es.map fun e => (e.1, readVal fa e.2.1)
    let ev := rs.foldl (fun v x => v.add x.2.2) ({} : NumEv)
    let vs := rs.map fun x => (x.1, x.2.1)
    let nn := vs.filter fun v => !v.2.isNan
    let anyNan := vs.any fun v => v.2.isNan
    match o with
    | 0x40 =>
      let s := sumTree (exactSum fa) vs
      let w := writeVal fd s.1
      (w.1, (ev.add s.2).add w.2)
    | 0x46 =>
      let bs := es.map fun e => (e.1, readVal fb e.2.2)
      let evb := bs.foldl (fun v x => v.add x.2.2) ev
      let ps := (vs.zip bs).map fun x => (x.1.1, x.1.2.mul x.2.2.1)
      let s := sumTree (exactSum fa && exactSum fb) ps
      let w := writeVal fd s.1
      (w.1, (evb.add s.2).add w.2)
    | 0x41 | 0x42 =>
      let m := if anyNan then Val.nan else ((laneFold (if o = 0x41 then vmax else vmin) vs).getD Val.zero)
      let w := writeVal fd m
      (w.1, ev.add w.2)
    | 0x43 => (best above nn, ev)
    | 0x44 => (best (fun x y => above y x) nn, ev)
    | _ =>
      let m := nn.foldl (fun a v => vmax a (if v.2.isInf then maxFinite fa else v.2.abs)) Val.zero
      let w := writeVal .f32 m
      (w.1, ev.add w.2)

/-- The active elements of a row: index, A code, B code. -/
def WashCmd.activeEls (c : WashCmd) (m : CoreMem) (k : Nat) : List (Nat × Nat × Nat) :=
  ((List.range c.n).filter fun e => c.active m k e).map fun e =>
    (e, m.elem (c.row c.pa k) c.fa.width e, m.elem (c.row c.pb k) c.fb.width e)

/-- Poison of a reduction's inputs in a row. -/
def WashCmd.inputBad (c : WashCmd) (m : CoreMem) (k : Nat) (es : List (Nat × Nat × Nat)) : Bool :=
  es.any (fun e => m.elemBad (c.row c.pa k) c.fa.width e.1 ||
    (c.opc == 0x46 && m.elemBad (c.row c.pb k) c.fb.width e.1)) ||
  (List.range c.n).any fun e => c.maskBad m k e

/-- One row of a reduction: its result at a[AD] + k × the size of FMT_D (R160, R164 to R166). -/
def WashCmd.rowReduce (c : WashCmd) (k : Nat) (o : WashOut) : WashOut :=
  let m := o.mem
  let es := c.activeEls m k
  let p := c.inputBad m k es
  let w := c.fd.width
  let r : Nat × NumEv := if es.isEmpty then (reduceIdentity c.opc c.fd, {}) else reduceVals c.opc c.fa c.fb c.fd es
  let m' :=
    if w = 4 then
      let a := c.pd + k / 2
      let old := m.nat a 1
      m.store a [BitVec.ofNat 8 (if k % 2 = 0 then old / 16 * 16 + r.1 % 16 else old % 16 + 16 * (r.1 % 16))] p
    else m.store (c.pd + k * (w / 8)) (leBytes (w / 8) r.1) p
  { o with mem := m', ev := o.ev.add r.2, empty := o.empty + b2n es.isEmpty, poisoned := o.poisoned || p }

/-- The reciprocal and the scale of a quantise pass from the F32 code of m: r as a value, s as its code (R167 to R169,
R603). An infinite r stands for an infinite m, whose reciprocal is zero but leaves ±Q for infinite elements (R59). An
s that rounds to zero keeps the sign of m (R35, R169). -/
def quantScales (o : Nat) (d : Fmt) (mc : Nat) : Val × Nat × NumEv :=
  let q := quantQ d
  let m := readVal .f32 mc
  let f := floatFmt .f32
  match m.1 with
  | .nan => (.nan, if o = 0x51 then 0x7E00 else 0x7FC00000, m.2)
  | .inf neg => (.inf neg, (floatFmt (if o = 0x51 then .f16 else .f32)).withSign neg (if o = 0x51 then 0x7C00 else 0x7F800000), m.2)
  | .fin x =>
    if o = 0x50 then
      let r := quantRecip q x
      let s := quantScale .f32 q x
      (f.decode r.1, s.1, (m.2.add r.2).add s.2)
    else
      let s := quantScale .f16 q x
      match (floatFmt .f16).decode s.1 with
      | .fin sv =>
        if sv.num = 0 then (Val.zero, s.1, m.2)
        else
          let r := f.round ((Ex.ofInt 1).div sv)
          (f.decode r.1, s.1, (m.2.add s.2).add r.2)
      | v => (v, s.1, m.2)

/-- One row of a quantise pass (R58, R59, R167). -/
def WashCmd.rowQuant (c : WashCmd) (r : Val) (mPois : Bool) (k : Nat) (o : WashOut) : WashOut :=
  let m := o.mem
  let ra := c.row c.pa k
  let q := quantQ c.fd
  let one (v : Val) : Nat × NumEv :=
    match r with
    | .fin rv => quantCode c.fd q rv v
    | .inf mneg => quantInf c.fd q mneg v
    | .nan => (0, {})
  let els : List (List ElOut × NumEv) := (List.range c.n).map fun e =>
    let cnt := if c.fa.isComplex then 2 else 1
    let mb := c.maskBad m k e
    if c.active m k e then
      let ca := m.elem ra c.fa.width e
      let p := m.elemBad ra c.fa.width e || mPois || mb
      if c.fa.isComplex then
        let v := readComplex c.fa ca
        let i := one v.1.1
        let j := one v.1.2
        ([{ code := some i.1, pois := p }, { code := some j.1, pois := p }], (v.2.add i.2).add j.2)
      else
        let v := readVal c.fa ca
        let i := one v.1
        ([{ code := some i.1, pois := p }], v.2.add i.2)
    else (List.replicate cnt { code := if c.zm then some 0 else none, pois := mb }, {})
  let flat := els.flatMap (·.1)
  { o with
    mem := writeRow m (c.row c.pd k) c.fd.width flat
    ev := els.foldl (fun v x => v.add x.2) o.ev
    poisoned := o.poisoned || flat.any (·.pois) }

/-- A whole quantise pass: m read, s written at a[AB] + 4, then the codes (R167, R168). -/
def WashCmd.runQuant (c : WashCmd) (m : CoreMem) : WashOut :=
  let qs := quantScales c.opc c.fd (m.nat c.pb 4)
  let mp := m.bad c.pb 4
  let inBad := (List.range c.r).any fun k => (c.activeEls m k).any fun e => m.elemBad (c.row c.pa k) c.fa.width e.1
  let sz := if c.opc = 0x51 then 2 else 4
  let m' := m.store (c.pb + 4) (leBytes sz qs.2.1) (mp || inBad)
  (List.range c.r).foldl (fun o k => c.rowQuant qs.1 mp k o)
    { mem := m', ev := qs.2.2, poisoned := mp || inBad }

/-- One row of softmax (R172). DESIGN CHOICE: R172 and R176 pass over the row more than once; an active NaN of it is
counted once by R37, as one operand of one command (log entry 101). -/
def WashCmd.rowSoftmax (c : WashCmd) (k : Nat) (o : WashOut) : WashOut :=
  let m := o.mem
  let es := c.activeEls m k
  let p := c.inputBad m k es
  let vs := es.map fun e => (e.1, readVal c.fa e.2.1)
  let ev := vs.foldl (fun v x => v.add x.2.2) o.ev
  let anyNan := vs.any fun v => v.2.1.isNan
  let mx := if anyNan then Val.nan else (laneFold vmax (vs.map fun v => (v.1, v.2.1))).getD Val.zero
  let ex := vs.map fun v =>
    let dlt := roundF32 (v.2.1.add mx.negate)
    let f := washFn 0x60 dlt.1
    (v.1, (floatFmt .f32).decode f.1, dlt.2.add f.2.1)
  let s := sumTree false (ex.map fun x => (x.1, x.2.1))
  let r : Val × NumEv := match s.1 with
    | .fin x => if x.num = 0 then (.nan, {}) else roundF32 (.fin ((Ex.ofInt 1).div x))
    | .inf n => (.fin { neg := n, num := 0 }, {})
    | .nan => (.nan, {})
  let outs := ex.map fun x => (x.1, writeVal c.fd (x.2.1.mul r.1))
  let ev2 := outs.foldl (fun v x => v.add x.2.2) (ex.foldl (fun v x => v.add x.2.2) ((ev.add s.2).add r.2))
  let els : List ElOut := (List.range c.n).map fun e =>
    match outs.find? (fun x => x.1 = e) with
    | some x => { code := some x.2.1, pois := p }
    | none => { code := if c.zm then some 0 else none, pois := c.maskBad m k e }
  { o with
    mem := writeRow m (c.row c.pd k) c.fd.width els
    ev := ev2
    empty := o.empty + b2n es.isEmpty
    poisoned := o.poisoned || els.any (·.pois) }

/-- One whole command with WIDE = 0, row after row (R154, R174). -/
def WashCmd.run (c : WashCmd) (m : CoreMem) : WashOut :=
  let rows (f : Nat → WashOut → WashOut) : WashOut := (List.range c.r).foldl (fun o k => f k o) { mem := m }
  let o :=
    if c.opc = 0x50 ∨ c.opc = 0x51 then c.runQuant m
    else if c.opc = 0x0B then rows c.rowFill
    else if washMaskLogic c.opc then rows c.rowLogic
    else if c.hasBfp then rows c.rowBfp
    else if washReduce c.opc then rows c.rowReduce
    else if c.opc = 0x70 then rows c.rowSoftmax
    else
      let o := rows c.rowElements
      if washBroadcast c.opc && (List.range c.r).any (fun k => (List.range c.n).any fun e => c.active m k e) then
        { o with ev := o.ev.add (c.readB (m.elem c.pb c.fb.width 0)).2 }
      else o
  { o with ue := c.ue m }

/-- The row partial of a WIDE reduction before conversion: its value, Q component and index, none for a row with no
active element, with its events and poison (R164, R165, R503). -/
def WashCmd.widePart (c : WashCmd) (m : CoreMem) (k : Nat) : Option (Val × Val × Nat) × NumEv × Bool :=
  let es := c.activeEls m k
  let p := c.inputBad m k es
  let above (x y : Val) : Bool := y.lt x || (!x.lt y && !x.neg? && y.neg?)
  if es.isEmpty then (none, {}, p)
  else if c.fa.isComplex then
    let rs := es.map fun e => (e.1, readComplex c.fa e.2.1)
    let ev := rs.foldl (fun v x => v.add x.2.2) ({} : NumEv)
    if c.opc = 0x45 then
      let vs := rs.flatMap fun x => [x.2.1.1, x.2.1.2]
      (some ((vs.filter fun v => !v.isNan).foldl (fun a v => vmax a (if v.isInf then maxFinite c.fa else v.abs)) Val.zero,
        Val.zero, 0), ev, p)
    else
      let i := sumTree (exactSum c.fa) (rs.map fun x => (x.1, x.2.1.1))
      let q := sumTree (exactSum c.fa) (rs.map fun x => (x.1, x.2.1.2))
      (some (i.1, q.1, 0), (ev.add i.2).add q.2, p)
  else
    let rs := es.map fun e => (e.1, readVal c.fa e.2.1)
    let ev := rs.foldl (fun v x => v.add x.2.2) ({} : NumEv)
    let vs := rs.map fun x => (x.1, x.2.1)
    let nn := vs.filter fun v => !v.2.isNan
    let pick (gt : Val → Val → Bool) : Val × Val × Nat :=
      match nn with
      | [] => (.nan, .zero, 0xFFFFFFFF)
      | v :: l => let b := l.foldl (fun (b : Nat × Val) x => if gt x.2 b.2 then x else b) v; (b.2, .zero, b.1)
    match c.opc with
    | 0x40 => let s := sumTree (exactSum c.fa) vs; (some (s.1, .zero, 0), ev.add s.2, p)
    | 0x46 =>
      let bs := es.map fun e => (e.1, readVal c.fb e.2.2)
      let evb := bs.foldl (fun v x => v.add x.2.2) ev
      let ps := (vs.zip bs).map fun x => (x.1.1, x.1.2.mul x.2.2.1)
      let s := sumTree (exactSum c.fa && exactSum c.fb) ps
      (some (s.1, .zero, 0), evb.add s.2, p)
    | 0x41 | 0x42 =>
      (some (if vs.any fun v => v.2.isNan then Val.nan
        else (laneFold (if c.opc = 0x41 then vmax else vmin) vs).getD Val.zero, .zero, 0), ev, p)
    | 0x43 => (some (pick above), ev, p)
    | 0x44 => (some (pick fun x y => above y x), ev, p)
    | _ => (some (nn.foldl (fun a v => vmax a (if v.2.isInf then maxFinite c.fa else v.2.abs)) Val.zero, .zero, 0), ev, p)

/-- Two row partials of a WIDE reduction combined, left operand first (R504); an index reduction takes the lowest index of
equal values (R165). -/
def WashCmd.wideComb (c : WashCmd) (x y : Val × Val × Nat) : (Val × Val × Nat) × NumEv :=
  let above (x y : Val) : Bool := y.lt x || (!x.lt y && !x.neg? && y.neg?)
  let exact := exactSum c.fa && (c.opc != 0x46 || exactSum c.fb)
  let first (gt : Val → Val → Bool) : Val × Val × Nat :=
    if x.1.isNan then y
    else if y.1.isNan || gt x.1 y.1 then x
    else if gt y.1 x.1 || decide (y.2.2 < x.2.2) then y
    else x
  match c.opc with
  | 0x40 | 0x46 =>
    let i := addPartial exact (x.1, {}) (y.1, {})
    let q := addPartial exact (x.2.1, {}) (y.2.1, {})
    ((i.1, q.1, 0), if c.fa.isComplex then i.2.add q.2 else i.2)
  | 0x41 => (if x.1.isNan || y.1.isNan then (.nan, .zero, 0) else (vmax x.1 y.1, .zero, 0), {})
  | 0x42 => (if x.1.isNan || y.1.isNan then (.nan, .zero, 0) else (vmin x.1 y.1, .zero, 0), {})
  | 0x43 => (first above, {})
  | 0x44 => (first fun x y => above y x, {})
  | _ => ((vmax x.1 y.1, .zero, 0), {})

/-- The total of a row converted to FMT_D; the identity for a row whose partials were all empty (R166, R505). -/
def WashCmd.wideCode (c : WashCmd) (t : Option (Val × Val × Nat)) : Nat × NumEv :=
  match t with
  | none => (reduceIdentity c.opc c.fd, {})
  | some (v, q, i) =>
    if c.opc = 0x43 ∨ c.opc = 0x44 then (i, {})
    else if c.fa.isComplex && c.opc != 0x45 then writeComplex c.fd (v, q)
    else writeVal (if c.opc = 0x45 then .f32 else c.fd) v

/-- A row total written at a[AD] + k × the size of FMT_D (R160, R505). -/
def WashCmd.wideStore (c : WashCmd) (m : CoreMem) (k code : Nat) (p : Bool) : CoreMem :=
  let w := c.fd.width
  if w = 4 then
    let a := c.pd + k / 2
    let old := m.nat a 1
    m.store a [BitVec.ofNat 8 (if k % 2 = 0 then old / 16 * 16 + code % 16 else old % 16 + 16 * (code % 16))] p
  else m.store (c.pd + k * (w / 8)) (leBytes (w / 8) code) p

end Sys2Proof.Machine
end

