-- ==== Sys2Proof/Machine/Hatch.lean ====
section
/-! DEFINITION. The Hatch signal unit of one logical core: registers, accumulators, address generators, the delayed
writes of R190, add-compare-select and traceback (06_hatch_signal_unit.md, R181 to R205). -/

namespace Sys2Proof.Machine

/-- One lane: I and Q codes and a poison bit (R181, R183). -/
structure HLane where
  i : Int := 0
  q : Int := 0
  p : Bool := false
  deriving DecidableEq, Repr

/-- A Hatch vector register or accumulator: 64 lanes. -/
abbrev HVec := Vector HLane 64

/-- A vector of zero lanes. -/
def HVec.zero : HVec := Vector.replicate 64 {}

/-- An address generator (R194). -/
structure AddrGen where
  base : Nat := 0
  mode : Nat := 0
  bits : Nat := 0
  len : Nat := 0
  step : Nat := 0
  pos : Nat := 0
  deriving DecidableEq, Repr

/-- A result on its way: what it will write (R190, R192). -/
inductive HWrite where
  /-- A vector register, by physical number. -/
  | reg (n : Nat) (v : HVec)
  /-- The value of an accumulator that HMOVA and HSTA see. -/
  | accView (n : Nat) (v : HVec)
  /-- The label table and its poison. -/
  | table (bs : List Byte) (p : Bool)
  /-- Stored elements: address, bytes, poison. -/
  | mem (cells : List (Nat × List Byte × Bool))
  deriving DecidableEq, Repr

/-- A delayed write: Hatch cycles left until it is visible, and the number of the bundle it issued in (R86, R190). -/
structure HPend where
  due : Nat
  w : HWrite
  stamp : Nat := 0
  deriving DecidableEq, Repr

/-- Hatch state of one logical core. `acc` is what an accumulating operation reads, `accView` what HMOVA and HSTA
read. `tb` holds the nonzero traceback entries by index: decision bits and poison. -/
structure HatchSt where
  h : Vector HVec 64 := Vector.replicate 64 .zero
  acc : Vector HVec 8 := Vector.replicate 8 .zero
  accView : Vector HVec 8 := Vector.replicate 8 .zero
  ag : Vector AddrGen 4 := Vector.replicate 4 {}
  rbase : Nat := 0
  table : List Byte := List.replicate 64 0
  tablePois : Bool := false
  tb : List (Nat × Nat × Bool) := []
  tbw : Nat := 0
  pend : List HPend := []
  deriving DecidableEq, Repr

/-- An HTB that has issued: what it captured then, and once started the bytes it will write (R202, R203). -/
structure Htb where
  lc : Nat
  pc : Nat
  nu : Nat
  start : Nat
  startPois : Bool
  tbw : Nat
  len : Nat
  drop : Nat
  addrs : List Nat
  /-- Number of the bundle it issued in (R86). -/
  stamp : Nat := 0
  started : Bool := false
  out : List Byte := []
  pois : Bool := false
  deriving DecidableEq, Repr

/-- Physical register of a name (R182). -/
def hReg (rbase n : Nat) : Nat := if n < 32 then n else 32 + ((n - 32 + rbase) % 32)

/-- Lane of a vector. -/
def HVec.lane (v : HVec) (l : Nat) : HLane := v.toList.getD l {}

/-- Vector of 64 computed lanes. -/
def HVec.ofFn (f : Nat → HLane) : HVec := Vector.ofFn fun i => f i.val

/-- Apply one write. -/
def HatchSt.apply (s : HatchSt) (w : HWrite) : HatchSt :=
  match w with
  | .reg n v => { s with h := s.h.setIfInBounds n v }
  | .accView n v => { s with accView := s.accView.setIfInBounds n v }
  | .table bs p => { s with table := bs, tablePois := p }
  | .mem _ => s

/-- Elements that one access writes: address, bytes, poison. They go to memory beat by beat, so that a beat written in
full takes the poison of its new elements; of two elements at one address the later stands (R139, R205). -/
def CoreMem.putCells (m : CoreMem) (cells : List (Nat × List Byte × Bool)) : CoreMem :=
  ((cells.map fun c => c.1 / 64).eraseDups).foldl (fun m k =>
    let own := cells.filter fun c => c.1 / 64 == k
    let bytes := own.flatMap fun c => c.2.1.zipIdx.map fun b => (c.1 + b.2, b.1)
    m.put (64 * k) ((List.range 64).map fun i => ((bytes.filter fun b => b.1 == 64 * k + i).getLast?).map (·.2))
      (own.any (·.2.2))) m

/-- Stores among the writes, into memory. -/
def HWrite.toMem (w : HWrite) (m : CoreMem) : CoreMem :=
  match w with
  | .mem cells => m.putCells cells
  | _ => m

/-- Delayed writes that fall due within `n` Hatch cycles, earliest first and in issue order among equals (R192). -/
def duePend (n : Nat) (l : List HPend) : List HPend :=
  (rangeFrom 1 n).flatMap fun d => l.filter fun p => p.due = d

/-- `n` Hatch cycles pass: writes that fall due take place, the rest come nearer (R190, R192). -/
def HatchSt.advance (s : HatchSt) (m : CoreMem) (n : Nat) : HatchSt × CoreMem :=
  let k := if n ≤ 4 then n else 4
  let d := duePend k s.pend
  (d.foldl (fun s p => s.apply p.w) { s with pend := (s.pend.filter fun p => k < p.due).map fun p => { p with due := p.due - k } },
   d.foldl (fun m p => p.w.toMem m) m)

/-- A result that is visible in the next cycle is written in this one: it stands against earlier-issued writes of the
same register that fall into this cycle too (R192). -/
def HatchSt.writeNow (s : HatchSt) (n : Nat) (v : HVec) : HatchSt :=
  { s.apply (.reg n v) with
    pend := s.pend.filter fun p => match p.w with | .reg k _ => !(k == n && p.due == 1) | _ => true }

/-- Memory as a Hatch load sees it: with the stores of earlier bundles that are still on their way, as Hatch's own accesses
are ordered in issue order (R83, R206). -/
def HatchSt.memSeen (s : HatchSt) (m : CoreMem) : CoreMem := s.pend.foldl (fun m p => p.w.toMem m) m

/-- Reverse the low `n` bits of `x` (R195). -/
def bitrev (n x : Nat) : Nat := (List.range n).foldl (fun r i => r * 2 + b2n (x.testBit i)) 0

/-- Address of element `i` of an access with element size `z`; addresses run modulo 2³² (R195). -/
def AddrGen.addr (g : AddrGen) (z i : Nat) : Nat :=
  match g.mode with
  | 0 => (g.base + (g.pos + i) * z) % 2 ^ 32
  | 1 => ofS 32 ((g.base : Int) + ((g.pos + i : Nat) : Int) * toS 24 g.step)
  | 2 => (g.base + (((g.pos : Int) + (i : Int) * toS 24 g.step) % (g.len : Int)).toNat) % 2 ^ 32
  | _ => (g.base + bitrev g.bits ((g.pos + i) % 2 ^ g.bits) * z) % 2 ^ 32

/-- The generator after an access of `n` elements (R195). -/
def AddrGen.adv (g : AddrGen) (n : Nat) : AddrGen :=
  if g.mode = 2 then { g with pos := (((g.pos : Int) + (n : Int) * toS 24 g.step) % (g.len : Int)).toNat }
  else { g with pos := (g.pos + n) % 2 ^ 24 }

/-- The checks of R196 over an access of `n` elements of size `z`: ADDR_RANGE before MISALIGNED (R103). -/
def AddrGen.check (g : AddrGen) (z n : Nat) : Option (Nat × Nat) :=
  if g.mode = 2 ∧ (g.len = 0 ∨ g.len % z ≠ 0) then some (0x05, g.len)
  else
    let as := (List.range n).map (g.addr z)
    match as.find? fun a => !localOk a z with
    | some a => some (0x05, a)
    | none =>
      match as.find? fun a => decide (a % z ≠ 0) with
      | some a => some (0x06, a)
      | none => none

/-- Write one field of a generator (R194). -/
def AddrGen.setField (g : AddrGen) (fld v : Nat) : AddrGen :=
  match fld with
  | 0 => { g with base := v % 2 ^ 32 }
  | 1 => { g with mode := v % 4, bits := min (v / 256 % 16) 12 }
  | 2 => { g with len := v % 2 ^ 24 }
  | 3 => { g with step := v % 2 ^ 24 }
  | _ => { g with pos := v % 2 ^ 24 }

/-- Fields of an H slot (R184). -/
structure HCmd where
  opc : Nat
  fmt : Nat
  hd : Nat
  ha : Nat
  hb : Nat
  acc : Nat
  ag : Nat
  sh : Nat
  nl : Nat
  rot : Bool
  x : Nat
  drop : Nat
  deriving DecidableEq, Repr

/-- The fields of a slot word. -/
def HCmd.ofSlot (w : Nat) : HCmd :=
  { opc := bits w 63 56, fmt := bits w 49 46, hd := bits w 45 40, ha := bits w 39 34, hb := bits w 33 28,
    acc := bits w 27 25, ag := bits w 24 23, sh := bits w 22 18, nl := bits w 17 12, rot := bit w 11, x := bits w 10 0,
    drop := bits w 22 12 }

/-- Lanes accessed: 0 means 64 (R184). -/
def HCmd.lanes (c : HCmd) : Nat := if c.nl = 0 then 64 else c.nl

/-- Bits of [49:0] that an opcode uses; the others shall be zero (R184, R185). -/
def hUsed (opc : Nat) : Nat :=
  let fmt := 0xF * 2 ^ 46
  let hd := 0x3F * 2 ^ 40
  let ha := 0x3F * 2 ^ 34
  let hb := 0x3F * 2 ^ 28
  let acc := 7 * 2 ^ 25
  let ag := 3 * 2 ^ 23
  let sh := 0x1F * 2 ^ 18
  let nl := 0x3F * 2 ^ 12
  let rot := 2 ^ 11
  match opc with
  | 0x01 => fmt + hd + ag + nl + rot
  | 0x02 => fmt + ha + ag + nl + rot
  | 0x03 => fmt + acc + ag + nl + sh + rot
  | 0x04 => ag + rot + 0x71F
  | 0x05 => ag + rot
  | 0x08 | 0x0D => hd + ha + rot
  | 0x09 | 0x0A => hd + ha + hb + rot
  | 0x0B | 0x0C => hd + ha + sh + rot
  | 0x10 | 0x11 | 0x12 | 0x13 => ha + hb + acc + rot + 0x400
  | 0x14 => acc + rot
  | 0x15 => hd + acc + sh + rot
  | 0x20 => fmt + hd + ag + rot + 0x600
  | 0x21 => hd + ha + hb + rot + 0x780
  | 0x22 => hd + ha + 0xF * 2 ^ 30 + ag + sh + nl + rot + 0x7FF
  | _ => 0

/-- The opcodes of R185. -/
def hOpcode (o : Nat) : Bool := decide (hUsed o ≠ 0)

/-- NU of HACS (R185). -/
def HCmd.acsNu (c : HCmd) : Nat := bits c.x 9 7
/-- NU of HTB (R184). -/
def HCmd.tbNu (c : HCmd) : Nat := bits c.hb 4 2
/-- BEST of HTB (R184). -/
def HCmd.best (c : HCmd) : Bool := bit c.hb 5

/-- Encoding faults of one H slot beyond opcode and reserved format codes (R184, R186). -/
def HCmd.encBad (c : HCmd) (w : Nat) : Bool :=
  decide ((w % 2 ^ 50) &&& (2 ^ 50 - 1 - hUsed c.opc) ≠ 0) ||
  (match c.opc with
   | 0x01 | 0x02 | 0x03 => !(c.fmt == 9 || c.fmt == 2 || c.fmt == 1 || c.fmt == 12)
   | 0x20 => c.fmt != 12
   | 0x04 => decide (4 < bits c.x 10 8)
   | 0x21 => c.acsNu == 0 || c.acsNu == 7
   | 0x22 => c.tbNu == 0 || c.tbNu == 7 || (!c.best && decide (2 ^ c.tbNu ≤ c.hd)) || (c.best && c.hd != 0)
   | _ => false)

/-- A collision between the two H slots of a bundle (R186). -/
def hCollide (a b : HCmd) : Bool :=
  (a.opc == b.opc && (a.opc == 0x21 || a.opc == 0x22 || a.opc == 0x05)) ||
  (a.opc == 0x04 && b.opc == 0x04 && a.ag == b.ag && bits a.x 10 8 == bits b.x 10 8)

/-- Register an operation writes: h registers by name, accumulators as 64 + number (R80). -/
def HCmd.writes (c : HCmd) : Option Nat :=
  match c.opc with
  | 0x01 | 0x08 | 0x09 | 0x0A | 0x0B | 0x0C | 0x0D | 0x15 | 0x20 | 0x21 => some c.hd
  | 0x10 | 0x11 | 0x12 | 0x13 | 0x14 => some (64 + c.acc)
  | _ => none

/-- Memory-side format of a code. -/
def hFmt (c : Nat) : Fmt := (Fmt.ofCode c).getD .cs16

/-- Elements and element size of the access an operation makes, `none` when it makes none (R185, R196). -/
def HCmd.access (c : HCmd) : Option (Nat × Nat) :=
  match c.opc with
  | 0x01 | 0x02 | 0x03 => some (c.lanes, (hFmt c.fmt).width / 8)
  | 0x05 => some (64, 1)
  | 0x20 => some (bits c.x 10 9 + 1, 1)
  | 0x22 =>
    let len := c.x + 1
    some (if c.drop < len then ceilDiv (len - c.drop) 8 else 0, 1)
  | _ => none

/-- Cycles that an access with the given byte addresses takes: the most 128-byte lines it touches in one SPAD bank, or the
ACCM rows of 512 bytes it touches (R113, R197, R421). -/
def accessCycles (as : List Nat) : Nat :=
  let (accm, spad) := as.partition fun a => decide (accmBase ≤ a)
  let lines := (spad.map (· / 128)).eraseDups
  let inBank (b : Nat) : Nat := (lines.filter fun l => l % 16 == b).length
  max ((accm.map (· / 512)).eraseDups.length) ((List.range 16).foldl (fun m b => max m (inBank b)) 0)

/-- How far the generator advances (R195, R196, R202). -/
def HCmd.advance (c : HCmd) : Nat :=
  match c.opc with
  | 0x05 => 0
  | _ => (c.access.map (·.1)).getD 0

/-- The generator a slot sees: H1 takes the positions after H0's access to the same one (R195). HLDT reads 64
consecutive bytes from the current address. -/
def HCmd.genCheck (c : HCmd) (g : AddrGen) : Option (Nat × Nat) :=
  match c.access with
  | none => none
  | some (n, z) =>
    if c.opc = 0x05 then
      if g.mode = 2 ∧ g.len = 0 then some (0x05, g.len)
      else if localOk (g.addr 1 0) 64 then none else some (0x05, firstOutside (g.addr 1 0))
    else if n = 0 then none
    else g.check z n

/-- What the H slots of a bundle did to the core, beside the Hatch state. -/
structure HOut where
  st : HatchSt
  ev : NumEv := {}
  norm : Nat := 0
  poisoned : Option Nat := none
  htb : Option Htb := none
  deriving DecidableEq, Repr

/-- Saturation of a component to `w` bits, counted (R183, R188). -/
def hSat (w : Nat) (x : Int) : Int × NumEv := let r := satS w x; (r.1, .ofSat r.2)

/-- A lane from two saturated components. -/
def hLane (w : Nat) (i q : Int) (p : Bool) : HLane × NumEv :=
  let a := hSat w i
  let b := hSat w q
  ({ i := a.1, q := b.1, p := p }, a.2.add b.2)

/-- Arithmetic shift right, toward −∞ (R46). -/
def sar (x : Int) (n : Nat) : Int := x / (2 ^ n : Nat)

/-- Sixty-four lanes computed with their events. -/
def hLanes (f : Nat → HLane × NumEv) : HVec × NumEv :=
  (HVec.ofFn fun l => (f l).1, (List.range 64).foldl (fun e l => e.add (f l).2) {})

/-- Narrowing of a component pair to the memory-side format: code, bytes wide, events (R188). -/
def hNarrow (f : Fmt) (i q : Int) : Nat × NumEv :=
  match f with
  | .cs16 =>
    let a := hSat 16 i
    let b := hSat 16 q
    (cjoin (ofS 16 a.1) (ofS 16 b.1), a.2.add b.2)
  | .s16 => let a := hSat 16 i; (ofS 16 a.1, a.2)
  | .s8 => let a := hSat 8 i; (ofS 8 a.1, a.2)
  | _ =>
    let k := clampI (-31) 31 i
    (ofS 8 k, .ofSat (k != i))

/-- Complex product of codes, exact (R187). -/
def cmul (a b : HLane) : Int × Int := (a.i * b.i - a.q * b.q, a.i * b.q + a.q * b.i)

/-- One accumulating operation on a lane before saturation (R187). -/
def hMac (opc : Nat) (z a b : HLane) : Int × Int :=
  match opc with
  | 0x10 => let p := cmul a b; (z.i + p.1, z.q + p.2)
  | 0x11 => let p := cmul a { b with q := -b.q }; (z.i + p.1, z.q + p.2)
  | 0x12 => let p := cmul a b; (z.i - p.1, z.q - p.2)
  | 0x13 => cmul a b
  | _ => (0, 0)

/-- Predecessor p0 of state `s` (R198). -/
def pred0 (nu s : Nat) : Nat := (2 * s) % 2 ^ nu

/-- HACS over all states: metrics before saturation, decisions and lane poison (R200, R205). -/
def acsStates (nu : Nat) (a b : HVec) (tbl : List Byte) (tp : Bool) : List (Int × Bool × Bool) :=
  (List.range (2 ^ nu)).map fun s =>
    let p0 := pred0 nu s
    let lb := (tbl.getD s 0).toNat
    let m0 := (a.lane p0).i + (b.lane (lb % 16)).i
    let m1 := (b.lane (lb / 16)).i + (a.lane (p0 + 1)).i
    let p := (a.lane p0).p || (a.lane (p0 + 1)).p || (b.lane (lb % 16)).p || (b.lane (lb / 16)).p || tp
    if m0 < m1 then (m1, true, p) else (m0, false, p)

/-- Byte addresses of the SPAD or ACCM access that an operation makes as it issues, none for HTB, whose bytes are written as
it runs (R185, R203). -/
def HCmd.touched (c : HCmd) (g : AddrGen) : List Nat :=
  match c.access with
  | none => []
  | some (n, z) =>
    if c.opc = 0x22 then []
    else if c.opc = 0x05 then (List.range 64).map (g.addr 1 0 + ·)
    else (List.range n).flatMap fun i => (List.range z).map (g.addr z i + ·)

/-- One H operation. `s0` is the state at the start of the bundle, from which every operand is read; `g` the generator
as this slot sees it; `rg` the g register of HAGSET. The result is added to `o`; `stamp` is the number of the bundle. A load sees memory with the stores that earlier bundles have on
their way (R83). -/
def HCmd.run (c : HCmd) (s0 : HatchSt) (m0 : CoreMem) (g : AddrGen) (rg lc pc stamp : Nat) (o : HOut) : HOut :=
  let m := s0.memSeen m0
  let rb := s0.rbase
  let reg (n : Nat) : HVec := s0.h.toList.getD (hReg rb n) .zero
  let a := reg c.ha
  let b := reg c.hb
  let z := s0.acc.toList.getD c.acc .zero
  let zv := s0.accView.toList.getD c.acc .zero
  let f := hFmt c.fmt
  let sz := f.width / 8
  let later (d : Nat) (w : HWrite) (o : HOut) : HOut :=
    { o with st := { o.st with pend := o.st.pend ++ [⟨d, w, stamp⟩] } }
  let putAg (g : AddrGen) (o : HOut) : HOut := { o with st := { o.st with ag := o.st.ag.setIfInBounds c.ag g } }
  let setAg (g : AddrGen) (o : HOut) : HOut := putAg { o.st.ag.toList.getD c.ag {} with pos := g.pos } o
  let wr (v : HVec × NumEv) (o : HOut) : HOut := { o with st := o.st.writeNow (hReg rb c.hd) v.1, ev := o.ev.add v.2 }
  let store (lane : Nat → HLane) (sh : Nat) (o : HOut) : HOut :=
    let els := (List.range c.lanes).map fun l =>
      let x := lane l
      let r := hNarrow f (sar x.i sh) (sar x.q sh)
      (g.addr sz l, leBytes sz r.1, x.p, r.2)
    let bad := els.any fun e => e.2.2.1
    later 3 (.mem (els.map fun e => (e.1, e.2.1, e.2.2.1))) (setAg (g.adv c.advance)
      { o with
        ev := els.foldl (fun v e => v.add e.2.2.2) o.ev
        poisoned := if bad && o.poisoned.isNone then some c.opc else o.poisoned })
  match c.opc with
  | 0x01 =>
    let v := hLanes fun l =>
      if l < c.lanes then
        let ad := g.addr sz l
        let code := m.nat ad sz
        let p := m.bad ad sz
        match f with
        | .cs16 => ({ i := toS 16 code, q := toS 16 (code / 65536), p := p }, {})
        | .s16 => ({ i := toS 16 code, p := p }, {})
        | .s8 => ({ i := toS 8 code, p := p }, {})
        | _ => let r := readLlr6 code; ({ i := r.1, p := p }, r.2)
      else ({}, {})
    later 4 (.reg (hReg rb c.hd) v.1) (setAg (g.adv c.advance) { o with ev := o.ev.add v.2 })
  | 0x02 => store a.lane 0 o
  | 0x03 => store zv.lane c.sh o
  | 0x04 => putAg ((o.st.ag.toList.getD c.ag {}).setField (bits c.x 10 8) rg) o
  | 0x05 =>
    let ad := g.addr 1 0
    later 4 (.table (m.read ad 64) (m.bad ad 64)) o
  | 0x08 => wr (a, {}) o
  | 0x09 => wr (hLanes fun l => hLane 16 ((a.lane l).i + (b.lane l).i) ((a.lane l).q + (b.lane l).q) ((a.lane l).p || (b.lane l).p)) o
  | 0x0A => wr (hLanes fun l => hLane 16 ((a.lane l).i - (b.lane l).i) ((a.lane l).q - (b.lane l).q) ((a.lane l).p || (b.lane l).p)) o
  | 0x0B => wr (hLanes fun l => hLane 16 (sar (a.lane l).i c.sh) (sar (a.lane l).q c.sh) (a.lane l).p) o
  | 0x0C => wr (hLanes fun l => hLane 16 ((a.lane l).i * (2 ^ c.sh : Nat)) ((a.lane l).q * (2 ^ c.sh : Nat)) (a.lane l).p) o
  | 0x0D => wr (hLanes fun l => hLane 16 (a.lane l).i (-(a.lane l).q) (a.lane l).p) o
  | 0x15 =>
    let v := hLanes fun l => hLane 16 (sar (zv.lane l).i c.sh) (sar (zv.lane l).q c.sh) (zv.lane l).p
    later 2 (.reg (hReg rb c.hd) v.1) { o with ev := o.ev.add v.2 }
  | 0x10 | 0x11 | 0x12 | 0x13 | 0x14 =>
    let v := hLanes fun l =>
      let bl := if bit c.x 10 then b.lane 0 else b.lane l
      let r := hMac c.opc (z.lane l) (a.lane l) bl
      let p := if c.opc = 0x14 then false
        else if c.opc = 0x13 then (a.lane l).p || bl.p
        else (z.lane l).p || (a.lane l).p || bl.p
      hLane 40 r.1 r.2 p
    later 3 (.accView c.acc v.1)
      { o with st := { o.st with acc := o.st.acc.setIfInBounds c.acc v.1 }, ev := o.ev.add v.2 }
  | 0x20 =>
    let r := bits c.x 10 9 + 1
    let ls := (List.range r).map fun k => readLlr6 (m.nat (g.addr 1 k) 1)
    let p := (List.range r).any fun k => m.bad (g.addr 1 k) 1
    let v := HVec.ofFn fun cc =>
      if cc < 2 ^ r then
        { i := ls.zipIdx.foldl (fun s x => if cc.testBit x.2 then s - x.1.1 else s + x.1.1) 0, p := p }
      else { p := p }
    later 2 (.reg (hReg rb c.hd) v)
      (setAg (g.adv c.advance) { o with ev := ls.foldl (fun e x => e.add x.2) o.ev })
  | 0x21 =>
    let nu := c.acsNu
    let st := acsStates nu a b s0.table s0.tablePois
    let mx := st.foldl (fun (x : Int) y => if x < y.1 then y.1 else x) (-(2 ^ 40 : Nat))
    let nm := bit c.x 10 && decide (16384 ≤ mx)
    let v := hLanes fun l =>
      match st[l]? with
      | some x =>
        let r := hSat 16 (if nm then x.1 - 8192 else x.1)
        ({ i := r.1, p := x.2.2 }, r.2)
      | none => ({}, {})
    let d := st.zipIdx.foldl (fun n x => n + b2n x.1.2.1 * 2 ^ x.2) 0
    let dp := st.any fun x => x.2.2
    let o := wr v o
    { o with
      norm := o.norm + b2n nm
      st := { o.st with
        tb := if d = 0 ∧ !dp then amDel o.st.tb s0.tbw else amPut o.st.tb s0.tbw (d, dp)
        tbw := (s0.tbw + 1) % 2048 } }
  | 0x22 =>
    let nu := c.tbNu
    let lanes := (List.range (2 ^ nu)).map a.lane
    let bestState := (lanes.zipIdx.foldl (fun (b : Int × Nat) x => if b.1 < x.1.i then (x.1.i, x.2) else b)
      ((a.lane 0).i, 0)).2
    let n := c.advance
    setAg (g.adv n)
      { o with
        htb := some
          { lc := lc, pc := pc, nu := nu, start := if c.best then bestState else c.hd,
            startPois := c.best && lanes.any (·.p), tbw := s0.tbw, len := c.x + 1, drop := c.drop,
            addrs := (List.range n).map (g.addr 1), stamp := stamp } }
  | _ => o

/-- Entry of the traceback buffer. -/
def HatchSt.entry (s : HatchSt) (i : Nat) : Nat × Bool := (amGet s.tb (i % 2048)).getD (0, false)

/-- One walk step: the decoded bit of the present state, then its predecessor (R202). -/
def tbWalk (s : HatchSt) (nu : Nat) : Nat → Nat → Nat → List Bool × Bool
  | 0, _, _ => ([], false)
  | n + 1, idx, st =>
    let e := s.entry idx
    let nxt := ((2 * st) % 2 ^ nu) + b2n (e.1.testBit st)
    let r := tbWalk s nu n ((idx + 2047) % 2048) nxt
    (st.testBit (nu - 1) :: r.1, e.2 || r.2)

/-- The walk of an HTB: the decoded bytes and their poison (R202, R205). -/
def Htb.walk (t : Htb) (s : HatchSt) : Htb :=
  let w := tbWalk s t.nu t.len ((t.tbw + 2047) % 2048) t.start
  let old := (w.1.reverse).take (t.len - t.drop)
  let bytes := (List.range t.addrs.length).map fun b =>
    BitVec.ofNat 8 ((List.range 8).foldl (fun n j => n + b2n (old.getD (8 * b + j) false) * 2 ^ j) 0)
  { t with started := true, out := bytes, pois := w.2 || t.startPois }

/-- Does an accepted HTB that has not yet walked still read entry `i`? (R204) -/
def Htb.needs (t : Htb) (i : Nat) : Bool :=
  !t.started && decide ((t.tbw + 2048 - 1 - i % 2048) % 2048 < t.len)

/-- The release of a layer barrier clears the traceback buffer (R201). -/
def HatchSt.clearTb (s : HatchSt) : HatchSt := { s with tb := [], tbw := 0 }

end Sys2Proof.Machine
end

