-- ==== Sys2Proof/Machine/Gleaner.lean ====
section
/-! DEFINITION. The Gleaner of one logical core: descriptors, their checks and states, rings of buffers, queue tokens,
the shared pool and the Stile slots (07_gleaner_streaming.md, R209 to R237; 03_burin_core_programming.md, R84 to R86).
The transfers themselves, which need the device map, stand in Stream.lean. -/

namespace Sys2Proof.Machine

/-- Where a ring buffer stands (R219, R221). -/
inductive BufSt where
  | free
  | filling
  | token
  | popped
  | ready
  | draining
  deriving DecidableEq, Repr

/-- A buffer of a ring: reserved, or borrowed pool slot number `slot`. `old` marks a popped buffer of a ring that is no
longer laid out; `popQ` and `stamp` tell the queue and the bundle that took its token (R86). -/
structure GBuf where
  id : Nat
  addr : Nat
  size : Nat := 0
  slot : Option Nat := none
  st : BufSt := .free
  old : Bool := false
  popQ : Nat := 0
  stamp : Nat := 0
  deriving DecidableEq, Repr

/-- A descriptor: programmer, working and pending copies, STATUS fields, its ring and the progress of its run. -/
structure DescSt where
  prog : Vector Nat 16 := Vector.replicate 16 0
  work : Vector Nat 16 := Vector.replicate 16 0
  pend : Option (Vector Nat 16) := none
  state : Nat := 0
  bound : Option Nat := none
  deliv : Nat := 0
  range : Bool := false
  pois : Bool := false
  stopped : Bool := false
  short : Bool := false
  ring : Bool := false
  bufs : List GBuf := []
  nextId : Nat := 0
  /-- The reserved buffer the next unit or end record takes: the ring is used in order (R221, R228). -/
  rptr : Nat := 0
  order : List Nat := []
  /-- The ring fields have changed since the buffers in `bufs` were laid out (R223). -/
  stale : Bool := false
  /-- The page list has been requested (R216). -/
  listSent : Bool := false
  list : Option (List (Nat × Bool)) := none
  unit : Nat := 0
  sent : Nat := 0
  real : Nat := 0
  pbeats : Nat := 0
  endDone : Bool := false
  deriving DecidableEq, Repr

/-- A Stile transfer in flight (R235). -/
structure Stile where
  ext : Nat
  loc : Nat
  len : Nat
  out : Bool
  /-- Requests of 64-byte beats sent (R230). -/
  sent : Nat := 0
  /-- Number of the bundle of its STL (R86). -/
  stamp : Nat := 0
  /-- A write to a window that the owning block has taken and not yet acknowledged (R257, R420). -/
  given : Bool := false
  deriving DecidableEq, Repr

/-- Beats of a Stile transfer: those its external span touches (R230, R235). -/
def Stile.beats (t : Stile) : Nat := (beatsOf t.ext t.len).length

/-- Have all requests of a Stile transfer been sent? -/
def Stile.done (t : Stile) : Bool := decide (t.beats ≤ t.sent)

/-- Gleaner state of one logical core. `queues` gives the descriptor each queue is bound to; `pool` the armed pool
descriptor; `lent` the pool slots lent. -/
structure GlnSt where
  descs : Vector DescSt 32 := Vector.replicate 32 {}
  queues : Vector (Option Nat) 16 := Vector.replicate 16 none
  pool : Option Nat := none
  lent : List Nat := []
  stile : List Stile := []
  lastRead : Nat := 31
  lastWrite : Nat := 31
  deriving DecidableEq, Repr

/-- A descriptor by number. -/
def GlnSt.desc (s : GlnSt) (d : Nat) : DescSt := s.descs.toList.getD d {}

/-- Change one descriptor. -/
def GlnSt.modDesc (s : GlnSt) (d : Nat) (f : DescSt → DescSt) : GlnSt :=
  { s with descs := s.descs.setIfInBounds d (f (s.desc d)) }

/-- A descriptor word set: the sixteen words of R209. -/
abbrev DWords := Vector Nat 16

/-- Word `i`. -/
def dw (w : DWords) (i : Nat) : Nat := w.toList.getD i 0

/-- CTRL.MODE (R210). -/
def dMode (w : DWords) : Nat := bits (dw w 0) 1 0
/-- CTRL.DIR: outbound (R210). -/
def dOut (w : DWords) : Bool := bit (dw w 0) 8
/-- CTRL.CVT (R210). -/
def dCvt (w : DWords) : Bool := bit (dw w 0) 19
/-- CTRL.SCL (R210). -/
def dScl (w : DWords) : Bool := bit (dw w 0) 18
/-- CTRL.EOS (R210). -/
def dEos (w : DWords) : Bool := bit (dw w 0) 17
/-- CTRL.NDIM (R210). -/
def dNdim (w : DWords) : Nat := bits (dw w 0) 11 10
/-- CTRL.UDIM (R210). -/
def dUdim (w : DWords) : Nat := bits (dw w 0) 13 12
/-- FMT_S as a format, S8 when bytes are copied (R210, R214). -/
def dFmtS (w : DWords) : Fmt := if dCvt w then (Fmt.ofCode (bits (dw w 0) 23 20)).getD .s8 else .s8
/-- FMT_D as a format (R210, R214). -/
def dFmtD (w : DWords) : Fmt := if dCvt w then (Fmt.ofCode (bits (dw w 0) 27 24)).getD .s8 else .s8
/-- z_S (R212). -/
def dZs (w : DWords) : Nat := (dFmtS w).width / 8
/-- z_D (R213). -/
def dZd (w : DWords) : Nat := (dFmtD w).width / 8
/-- EXT or PAGE (R209). -/
def dExt (w : DWords) : Nat := dw w 1 + 2 ^ 32 * bits (dw w 2) 7 0
/-- LIST (R209). -/
def dList (w : DWords) : Nat := dw w 6 + 2 ^ 32 * bits (dw w 2) 15 8
/-- SCALE (R209). -/
def dScale (w : DWords) : Nat := dw w 7 + 2 ^ 32 * bits (dw w 2) 23 16
/-- BUFSZ in bytes (R209). -/
def dBuf (w : DWords) : Nat := bits (dw w 4) 15 0 * 64
/-- RES (R209). -/
def dRes (w : DWords) : Nat := bits (dw w 4) 19 16
/-- XMAX (R209). -/
def dXmax (w : DWords) : Nat := bits (dw w 4) 27 20
/-- Count of dimension `k`, 1 above NDIM (R212). -/
def dDim (w : DWords) (k : Nat) : Nat :=
  if dNdim w < k then 1
  else match k with
    | 0 => bits (dw w 5) 15 0
    | 1 => bits (dw w 5) 31 16
    | 2 => bits (dw w 6) 15 0
    | _ => bits (dw w 6) 31 16
/-- Stride of dimension `k` in bytes (R212). -/
def dStride (w : DWords) (k : Nat) : Int :=
  match k with
  | 0 => (dZs w : Int)
  | 1 => toS 32 (dw w 7)
  | 2 => toS 32 (dw w 8)
  | _ => toS 32 (dw w 9)

/-- Units of a run (R213, R216). -/
def dUnits (w : DWords) : Nat :=
  match dMode w with
  | 0 =>
    if (List.range (dNdim w + 1)).any fun k => dDim w k = 0 then 0
    else ((List.range 4).filter (fun k => dUdim w < k)).foldl (fun n k => n * dDim w k) 1
  | 1 => bits (dw w 5) 23 16
  | _ => 0

/-- Elements of a unit (R213). -/
def dUnitElems (w : DWords) : Nat :=
  ((List.range 4).filter (fun k => k ≤ dUdim w)).foldl (fun n k => n * dDim w k) 1

/-- SPAD bytes of a unit (R213, R216). -/
def dUnitBytes (w : DWords) : Nat :=
  match dMode w with
  | 0 => dUnitElems w * dZd w
  | 1 => if dScl w then 8256 else 8192
  | _ => 0

/-- External start of each row of D0 elements of unit `u`, rows in ascending order of i1, i2, i3 (R212, R213). -/
def dUnitRows (w : DWords) (u : Nat) : List Int :=
  let cnt (k : Nat) := if k ≤ dUdim w then dDim w k else 1
  -- indices of the outer dimensions from the unit number, lowest first
  let outer := (List.range 4).foldl (fun (acc : Nat × List Nat) k =>
    if dUdim w < k then (acc.1 / max 1 (dDim w k), acc.2 ++ [acc.1 % max 1 (dDim w k)]) else (acc.1, acc.2 ++ [0])) (u, [])
  let base : Int := (dExt w : Int) + ((List.range 4).map fun k => ((outer.2.getD k 0 : Nat) : Int) * dStride w k).sum
  (List.range (cnt 3)).flatMap fun (i3 : Nat) => (List.range (cnt 2)).flatMap fun (i2 : Nat) => (List.range (cnt 1)).map fun (i1 : Nat) =>
    base + ((i1 : Nat) : Int) * dStride w 1 + ((i2 : Nat) : Int) * dStride w 2 + ((i3 : Nat) : Int) * dStride w 3

/-- The entries of the page list that a WALK visits for unit `u` (R216). -/
def dEntryIx (w : DWords) (u : Nat) : Nat := (bits (dw w 5) 15 8 + u) % max 1 (bits (dw w 5) 7 0)

/-- Reserved bits of each word of a descriptor, by mode (R209, R210). -/
def dReserved (w : DWords) (i : Nat) : Nat :=
  match i, dMode w with
  | 0, _ => 0xF001C2FC
  | 1, 2 => 0xFFFFFFFF
  | 1, _ => 0
  | 2, 0 => 0xFFFFFF00
  | 2, 1 => 0xFF000000
  | 2, _ => 0xFFFFFFFF
  | 3, _ => 0
  | 4, 2 => 0xFFFF0000
  | 4, _ => 0xF0000000
  | 5, 0 => 0
  | 5, 1 => 0xFF000000
  | 5, _ => 0xFFFF0000
  | 6, 2 | 7, 2 => 0xFFFFFFFF
  | 6, _ | 7, _ => 0
  | 8, 0 | 9, 0 => 0
  | 15, _ => 0
  | _, _ => 0xFFFFFFFF

/-- The formats a Gleaner conversion takes (R214). -/
def cvtCode (c : Nat) : Bool := (decide (1 ≤ c) && decide (c ≤ 10)) || c == 12

/-- Words whose check fails with FIELD_RESERVED (R226). `poolArmed`: the logical core already has a pool. -/
def dFieldBad (w : DWords) (ring poolArmed : Bool) : List Nat :=
  let m := dMode w
  let fS := bits (dw w 0) 23 20
  let fD := bits (dw w 0) 27 24
  ((List.range 15).filter fun i => (dw w i &&& dReserved w i) ≠ 0) ++
  (if m = 3 || (dOut w && m == 1) || (dCvt w && m == 1) || (dCvt w && !(cvtCode fS && cvtCode fD)) ||
      (!dCvt w && (fS ≠ 0 || fD ≠ 0)) || (dEos w && (dOut w || !ring)) || (dScl w && m ≠ 1) ||
      decide (dNdim w < dUdim w) || (m == 2 && poolArmed) then [0] else []) ++
  (if (ring && m ≠ 2 && (dRes w < 2)) || (dBuf w = 0 && m ≠ 3) || (m ≠ 2 && m ≠ 3 && dBuf w < dUnitBytes w) then [4] else []) ++
  (if m = 1 && (bits (dw w 5) 7 0 = 0 || 64 < bits (dw w 5) 7 0 || bits (dw w 5) 7 0 ≤ bits (dw w 5) 15 8 ||
      bits (dw w 5) 7 0 < bits (dw w 5) 23 16) then [5] else [])

/-- Words whose check fails with MISALIGNED, with the value (R226). -/
def dAlignBad (w : DWords) : List (Nat × Nat) :=
  let t (i v a : Nat) : List (Nat × Nat) := if v % a = 0 then [] else [(i, v)]
  match dMode w with
  | 0 => t 1 (dw w 1) 64 ++ t 3 (dw w 3) 64 ++ t 5 (dDim w 0 * dZs w) 64 ++ t 5 (dUnitBytes w) 64 ++
      t 7 (dw w 7) 64 ++ t 8 (dw w 8) 64 ++ t 9 (dw w 9) 64
  | 1 => t 1 (dw w 1) 8192 ++ t 3 (dw w 3) 64 ++ t 6 (dw w 6) 64 ++ t 7 (dw w 7) 64
  | _ => t 3 (dw w 3) 64

/-- Core-local span of a run's buffers: reserved ring buffers, the direct-mode units, or the pool (R217, R218). -/
def dSpan (w : DWords) (ring : Bool) : Nat :=
  if dMode w = 2 then bits (dw w 5) 15 0 * dBuf w
  else if ring then dRes w * dBuf w
  else if dUnits w = 0 then 0 else (dUnits w - 1) * dBuf w + dUnitBytes w

/-- The checks of DARM: fault code, word, and INFO (R104, R226). The lowest code that fails is recorded (R103). -/
def dArmCheck (w : DWords) (ring poolArmed : Bool) (slotBits : Nat) : Option (Nat × Nat × Nat) :=
  match (dFieldBad w ring poolArmed).mergeSort with
  | i :: _ => some (0x03, i, slotBits)
  | [] =>
    if dSpan w ring ≠ 0 ∧ !localOk (dw w 3) (dSpan w ring) then some (0x05, 3, dw w 3)
    else
      match dAlignBad w with
      | (i, v) :: _ => some (0x06, i, v)
      | [] => none

/-- STATUS, word 15 (R211). -/
def DescSt.status (d : DescSt) : Nat :=
  d.deliv % 65536 * 65536 + b2n d.range * 128 + b2n d.pois * 64 + b2n d.stopped * 32 + b2n d.short * 16 +
    b2n d.pend.isSome * 8 + b2n d.bound.isSome * 4 + d.state

/-- DRD of one word (R75, R211). -/
def DescSt.read (d : DescSt) (i : Nat) : Nat := if i = 15 then d.status else dw d.prog i

/-- DWR of one word; word 15 is ignored (R211). -/
def DescSt.write (d : DescSt) (i v : Nat) : DescSt :=
  if i = 15 then d else { d with prog := d.prog.setIfInBounds i v }

/-- Is the descriptor an armed pool? -/
def DescSt.isPool (d : DescSt) : Bool := d.state == 1 && dMode d.work == 2

/-- Is the descriptor idle for FENCE, LBAR and END? A pool descriptor is never counted busy (R218, R229). -/
def DescSt.idle (d : DescSt) : Bool := d.isPool || ((d.state == 0 || d.state == 3) && d.pend.isNone)

/-- Ring fields that two runs of one binding share or not (R223). -/
def ringSame (a b : DWords) : Bool :=
  dw a 3 == dw b 3 && dBuf a == dBuf b && dRes a == dRes b && dOut a == dOut b

/-- The reserved buffers of a ring (R217). -/
def freshRing (w : DWords) : List GBuf :=
  (List.range (dRes w)).map fun r => { id := r, addr := dw w 3 + r * dBuf w, size := dBuf w }

/-- Is no buffer of the ring held by a token, filled, ready or drained? (R223) -/
def DescSt.quiet (d : DescSt) : Bool := d.bufs.all fun b => b.st == .free || b.st == .popped

/-- The popped buffers of a ring that is laid out anew: they wait for their last accesses under numbers of their own. -/
def DescSt.oldPopped (d : DescSt) : List GBuf :=
  (d.bufs.filter fun b => b.st == .popped).map fun b => { b with id := b.id + 1000, old := true }

/-- Lay the new ring out once the old one is quiet (R223). -/
def DescSt.relay (d : DescSt) : DescSt :=
  if d.ring && d.stale && d.quiet then
    { d with bufs := freshRing d.work ++ d.oldPopped, order := [], rptr := 0, stale := false }
  else d

/-- Start of a run: the working copy is taken, the status bits of the run clear, and a ring whose fields differ from those of
the binding's previous run is laid out anew, at once or when no buffer of the old one is in use (R211, R217, R223, R224). -/
def DescSt.startRun (d : DescSt) (w : DWords) : DescSt :=
  let ring := d.bound.isSome
  let same := ringSame w d.work && d.bufs.any fun b => b.slot.isNone && !b.old
  DescSt.relay
    { d with
      work := w, state := 1, pend := none, deliv := 0, range := false, pois := false, stopped := false, short := false,
      ring := ring
      stale := ring && (d.stale || !same)
      bufs := if ring then d.bufs else d.oldPopped
      nextId := if dRes w < d.nextId then d.nextId else 16
      listSent := false, list := none, unit := 0, sent := 0, real := 0, pbeats := 0, endDone := false }

/-- May a run transfer yet? With changed ring fields it waits until the old ring is quiet (R223). -/
def DescSt.ringReady (d : DescSt) : Bool := !d.ring || !d.stale

/-- A buffer of a ring by number. -/
def DescSt.buf? (d : DescSt) (id : Nat) : Option GBuf := d.bufs.find? fun b => b.id = id

/-- Change one buffer. -/
def DescSt.modBuf (d : DescSt) (id : Nat) (f : GBuf → GBuf) : DescSt :=
  { d with bufs := d.bufs.map fun b => if b.id = id then f b else b }

/-- The free buffer used next: a borrowed one lent for this unit, else the first free reserved one in ring order from
`rptr` (R219, R221, R228). -/
def DescSt.nextFree (d : DescSt) : Option GBuf :=
  match d.bufs.find? fun b => b.st == .free && b.slot.isSome with
  | some b => some b
  | none =>
    ((List.range 16).map fun k => (d.rptr + k) % max 1 (dRes d.work)).findSome? fun i =>
      d.bufs.find? fun b => b.id == i && b.st == .free && b.slot.isNone

/-- Buffer `b` is taken: the ring goes on after it. -/
def DescSt.advance (d : DescSt) (b : GBuf) : DescSt :=
  if b.slot.isSome then d else { d with rptr := (b.id + 1) % max 1 (dRes d.work) }

/-- Tokens of the ring, oldest first. -/
def DescSt.tokens (d : DescSt) : List GBuf :=
  d.order.filterMap fun i => (d.buf? i).bind fun b => if b.st = .token then some b else none

/-- Token count of a queue (R74, R84). DESIGN CHOICE: an unbound queue, of which the spec says nothing here, reads 0 (log
entry 106). -/
def GlnSt.tokenCount (s : GlnSt) (q : Nat) : Nat :=
  match s.queues.toList.getD q none with
  | none => 0
  | some d => (s.desc d).tokens.length

/-- Address of the head buffer of a queue; 0 when it holds none. -/
def GlnSt.head (s : GlnSt) (q : Nat) : Nat :=
  match s.queues.toList.getD q none with
  | none => 0
  | some d => (((s.desc d).tokens.head?).map (·.addr)).getD 0

/-- Take one token of a queue in bundle number `stamp`: its buffer waits for its last accesses (R85, R86). -/
def GlnSt.pop (s : GlnSt) (q stamp : Nat) : GlnSt :=
  match s.queues.toList.getD q none with
  | none => s
  | some d =>
    match (s.desc d).tokens.head? with
    | none => s
    | some b => s.modDesc d fun x => x.modBuf b.id fun b => { b with st := .popped, popQ := q, stamp := stamp }

/-- The popped buffers whose tokens queue `q` gave, the oldest pop first, with their descriptors. -/
def GlnSt.popped (s : GlnSt) (q : Nat) : List (Nat × GBuf) :=
  sortBy (fun a b => decide (a.2.stamp ≤ b.2.stamp))
    (s.descs.toList.zipIdx.flatMap fun x => (x.1.bufs.filter fun b => b.st == .popped && b.popQ == q).map fun b => (x.2, b))

/-- A popped buffer passes back: an input buffer becomes free, a borrowed one returns to the pool; an output buffer becomes
ready for draining; one of a ring that is no longer laid out is gone (R86, R219, R221). -/
def GlnSt.giveBack (s : GlnSt) (d : Nat) (b : GBuf) : GlnSt :=
  let gone (y : DescSt) : DescSt := { y with bufs := y.bufs.filter (fun z => z.id ≠ b.id), order := removeAll b.id y.order }
  if dOut (s.desc d).work && !b.old then s.modDesc d fun y => y.modBuf b.id fun b => { b with st := .ready }
  else
    match b.slot with
    | some n => { (s.modDesc d gone) with lent := removeAll n s.lent }
    | none =>
      if b.old then s.modDesc d gone
      else s.modDesc d fun y => ({ (y.modBuf b.id fun b => { b with st := .free }) with order := removeAll b.id y.order }).relay

/-- The oldest popped buffer of queue `q` on which `busy` finds no access of its POP bundle or an earlier one passes back
(R86). -/
def GlnSt.bufferReturn (s : GlnSt) (q : Nat) (busy : GBuf → Bool) : GlnSt :=
  match (s.popped q).find? fun x => !busy x.2 with
  | none => s
  | some x => s.giveBack x.1 x.2

/-- Tokens dropped when a queue loses its binding: their buffers are freed (R222). -/
def GlnSt.dropTokens (s : GlnSt) (d : Nat) : GlnSt × Nat :=
  let x := s.desc d
  let toks := x.tokens
  let slots := toks.filterMap (·.slot)
  ({ (s.modDesc d fun y =>
      { y with
        bufs := (y.bufs.filter fun b => !(b.st == .token && b.slot.isSome)).map fun b =>
          if b.st = .token then { b with st := .free } else b
        order := y.order.filter fun i => !(toks.any fun t => t.id == i) }) with
     lent := s.lent.filter fun n => !slots.contains n }, toks.length)

/-- QBIND: queue `q` to descriptor `d`; earlier bindings of both are removed and their tokens dropped. Answers the
tokens dropped (R222). -/
def GlnSt.qbind (s : GlnSt) (q d : Nat) : GlnSt × Nat :=
  let r1 : GlnSt × Nat :=
    match s.queues.toList.getD q none with
    | none => (s, 0)
    | some e =>
      let t := s.dropTokens e
      ({ (t.1.modDesc e fun y => { y with bound := none }) with queues := t.1.queues.setIfInBounds q none }, t.2)
  let r2 : GlnSt × Nat :=
    match (r1.1.desc d).bound with
    | none => (r1.1, 0)
    | some p =>
      let t := r1.1.dropTokens d
      ({ t.1 with queues := t.1.queues.setIfInBounds p none }, t.2)
  ({ (r2.1.modDesc d fun y => { y with
        bound := some q, bufs := y.oldPopped, order := [], stale := false }) with
     queues := r2.1.queues.setIfInBounds q (some d) }, r1.2 + r2.2)

/-- DARM of a checked descriptor: the new state, and whether a pending copy was replaced (R224). -/
def DescSt.arm (d : DescSt) : DescSt × Bool :=
  if d.state = 0 ∨ d.state = 3 then (d.startRun d.prog, false)
  else ({ d with pend := some d.prog }, d.pend.isSome)

/-- End of a run with its pending copy, if any (R224, R225). -/
def DescSt.finish (d : DescSt) (idleState : Nat) : DescSt :=
  match d.pend with
  | some w => d.startRun w
  | none => { d with state := idleState }

/-- The effect of DSTOP: pending copy dropped, an active run stopping; buffers being filled that are not complete are
freed, ready buffers freed (R224, R227). -/
def DescSt.stop (d : DescSt) : DescSt :=
  if d.state = 1 then { d with pend := none, state := 2 } else { d with pend := none }

/-- Buffers offered as tokens of an outbound ring: each free buffer, while fewer are offered and not yet drained than
units are left (R221). -/
def DescSt.offer (d : DescSt) : DescSt :=
  if d.ring && dOut d.work && d.state == 1 && d.ringReady then
    d.bufs.foldl (fun y _ =>
      let outstanding := (y.bufs.filter fun x => x.st != .free && !x.old).length
      match y.nextFree with
      | some b =>
        if outstanding < dUnits y.work - y.deliv then
          { (y.modBuf b.id fun x => { x with st := .token }).advance b with order := y.order ++ [b.id] }
        else y
      | none => y) d
  else d

/-- A POOL copy that has become the working copy makes its descriptor the pool (R218, R224, R225). -/
def GlnSt.takePool (s : GlnSt) (ds : Nat) : GlnSt := if (s.desc ds).isPool then { s with pool := some ds } else s

/-- Does the logical core have a pool, armed or held as a pending copy (R218, R226)? -/
def GlnSt.hasPool (s : GlnSt) : Bool :=
  s.pool.isSome || s.descs.toList.any fun x => match x.pend with | some w => dMode w == 2 | none => false

/-- 64-byte read requests of a unit: its external beats, with the sidecar first in WALK (R212, R216). -/
def dUnitBeats (w : DWords) : Nat :=
  if dMode w = 1 then (if dScl w then 129 else 128) else dUnitElems w * dZs w / 64

/-- Does a run wait for its page list (R216)? -/
def DescSt.needsList (d : DescSt) : Bool := dMode d.work == 1 && d.list.isNone

/-- Is a read request of the descriptor ready? A WALK reads its list first, in one request; then the buffer of its next
unit must be being filled (R216, R230). -/
def DescSt.readReady (d : DescSt) : Bool :=
  d.state == 1 && !dOut d.work && dMode d.work != 2 && d.ringReady &&
    (if d.needsList then !d.listSent
     else d.unit < dUnits d.work && (!d.ring || d.bufs.any fun b => b.st == .free || (b.st == .filling && d.sent != 0)))

/-- Is a write request ready? The buffer of the next unit is ready or draining; in direct mode at once (R230). -/
def DescSt.writeReady (d : DescSt) : Bool :=
  (d.state == 1 || d.state == 2) && dOut d.work && dMode d.work == 0 && d.unit < dUnits d.work &&
    (if d.ring then d.bufs.any fun b => (d.state == 1 && b.st == .ready) || (b.st == .draining && d.sent != 0)
     else d.state == 1 || d.sent != 0)

/-- One request of a descriptor: for its page list, or for a beat of a unit. A unit's first beat assigns its buffer, its
last goes on to the next unit (R216, R230). -/
def DescSt.request (d : DescSt) : DescSt :=
  if d.needsList then { d with listSent := true } else
  let out := dOut d.work
  let d1 :=
    if d.ring && d.sent == 0 then
      let want : BufSt := if out then .ready else .free
      let cand := if out then
          d.order.filterMap (fun i => (d.buf? i).bind fun b => if b.st = want then some b else none)
        else d.nextFree.toList
      match cand with
      | [] => d
      | b :: _ =>
        let y := d.modBuf b.id fun x => { x with st := if out then .draining else .filling }
        if out then y else { y.advance b with order := y.order ++ [b.id] }
    else d
  if d1.sent + 1 < dUnitBeats d1.work then { d1 with sent := d1.sent + 1 }
  else { d1 with sent := 0, unit := d1.unit + 1 }

/-- The descriptor served next in a direction: the first ready one after the last served, wrapping (R230). -/
def GlnSt.nextFor (s : GlnSt) (ready : DescSt → Bool) (last : Nat) : Option Nat :=
  ((rangeFrom 1 32).map fun i => (last + i) % 32).find? fun d => ready (s.desc d)

/-- Beats of a descriptor that are read and not yet delivered, those of its page list included (R216, R230). -/
def DescSt.inFlight (d : DescSt) : Nat :=
  if dOut d.work || !(d.state == 1 || d.state == 2) then 0
  else (if d.listSent && d.list.isNone then ceilDiv (bits (dw d.work 5) 7 0) 16 else 0) +
    (d.unit - d.deliv) * dUnitBeats d.work + d.sent

/-- Beats read by descriptors and Stile and not yet delivered (R230). -/
def GlnSt.outstanding (s : GlnSt) : Nat :=
  (s.descs.toList.map DescSt.inFlight).sum + (s.stile.map fun t => if t.out then 0 else t.sent).sum

/-- Send the next 64-byte request of the oldest Stile transfer of a direction that has one (R230, R236). -/
def GlnSt.stileSlot (s : GlnSt) (out : Bool) : Option GlnSt :=
  (s.stile.findIdx? fun t => t.out == out && !t.done).map fun i =>
    { s with stile := s.stile.modify i fun t => { t with sent := t.sent + 1 } }

/-- One read request slot of a NOC_CLK cycle (R230). -/
def GlnSt.readSlot (s : GlnSt) : GlnSt :=
  if 512 ≤ s.outstanding then s
  else
    match s.stileSlot false, s.nextFor DescSt.readReady s.lastRead with
    | some t, _ => t
    | none, none => s
    | none, some d => { (s.modDesc d DescSt.request) with lastRead := d }

/-- One write request slot of a NOC_CLK cycle (R230). -/
def GlnSt.writeSlot (s : GlnSt) : GlnSt :=
  match s.stileSlot true, s.nextFor DescSt.writeReady s.lastWrite with
  | some t, _ => t
  | none, none => s
  | none, some d => { (s.modDesc d DescSt.request) with lastWrite := d }

/-- A NOC_CLK cycle: at most two read and two write requests (R230). -/
def GlnSt.cycle (s : GlnSt) : GlnSt := s.readSlot.readSlot.writeSlot.writeSlot

/-- Has a run a use for one more buffer: for a unit, or for its end record (R221, R228)? -/
def DescSt.wantsBuf (x : DescSt) : Bool :=
  let free := (x.bufs.filter fun b => b.st == .free).length
  let record := b2n (dEos x.work && !x.endDone)
  if dOut x.work then
    x.state == 1 && decide ((x.bufs.filter fun b => b.st != .free && !b.old).length < dUnits x.work - x.deliv)
  else if x.state = 1 then decide (x.unit + (if x.sent = 0 then 0 else 1) + free < dUnits x.work + record)
  else x.state == 2 && decide (free < record)

/-- May descriptor `d` borrow a pool slot now? (R219) -/
def GlnSt.mayBorrow (s : GlnSt) (d : Nat) : Option Nat :=
  let x := s.desc d
  match s.pool with
  | none => none
  | some p =>
    let pw := (s.desc p).work
    if x.wantsBuf && x.ring && x.ringReady && decide (0 < dXmax x.work) &&
        (x.bufs.all fun b => b.old || b.slot.isSome || b.st == .token || b.st == .filling || b.st == .draining) &&
        decide ((x.bufs.filter fun b => b.slot.isSome).length < dXmax x.work) &&
        decide (dBuf x.work ≤ dBuf pw) then
      (List.range (bits (dw pw 5) 15 0)).find? fun n => !s.lent.contains n
    else none

/-- The lowest-numbered descriptor that may borrow takes a free pool slot (R219). -/
def GlnSt.borrow (s : GlnSt) : GlnSt :=
  match (List.range 32).findSome? fun d => (s.mayBorrow d).map fun n => (d, n) with
  | none => s
  | some (d, n) =>
    match s.pool with
    | none => s
    | some p =>
      let pw := (s.desc p).work
      { (s.modDesc d fun x =>
          DescSt.offer
            { x with
              bufs := x.bufs ++ [{ id := x.nextId, addr := dw pw 3 + n * dBuf pw, size := dBuf x.work, slot := some n }]
              nextId := x.nextId + 1 }) with
        lent := insertSorted n s.lent }

/-- Stop processing of R227 for buffers: incomplete and ready buffers are freed; borrowed ones return to the pool; the
ring goes on at the first reserved buffer whose filling was given up (R227, R228). -/
def GlnSt.stopBuffers (s : GlnSt) (d : Nat) : GlnSt :=
  let x := s.desc d
  let gone (b : GBuf) := b.st == .filling || b.st == .ready || (b.st == .free && b.slot.isSome)
  let back := if dOut x.work then none else
    x.order.findSome? fun i => (x.buf? i).bind fun b => if b.st = .filling ∧ b.slot = none then some b.id else none
  let slots := (x.bufs.filter gone).filterMap (·.slot)
  { (s.modDesc d fun y =>
      { y with
        bufs := (y.bufs.filter fun b => !(gone b && b.slot.isSome)).map fun b => if gone b then { b with st := .free } else b
        order := y.order.filter (fun i => !(x.bufs.any fun b => b.id == i && gone b))
        rptr := back.getD y.rptr }) with
    lent := s.lent.filter fun n => !slots.contains n }

/-- The Stile snapshot check of STL: fault code and INFO (R235). -/
def stlCheck (w : DWords) (slotBits : Nat) : Option (Nat × Nat) :=
  if dMode w ≠ 0 ∨ dNdim w ≠ 0 ∨ dCvt w ∨ dEos w ∨ dDim w 0 = 0 ∨ 256 < dDim w 0 ∨ dw w 5 ≠ dDim w 0 ∨ dw w 6 ≠ 0 ∨
      dw w 7 ≠ 0 ∨ dw w 8 ≠ 0 ∨ dw w 9 ≠ 0 then some (0x03, slotBits)
  else if localOk (dw w 3) (dDim w 0) then none
  else some (0x05, dw w 3)

/-- Every descriptor idle: the Gleaner part of FENCE, LBAR and END (R229). -/
def GlnSt.allIdle (s : GlnSt) : Bool := s.descs.toList.all DescSt.idle && s.stile.isEmpty

end Sys2Proof.Machine
end

