-- ==== Sys2Proof/Machine/RegTable.lean ====
section
/-! DEFINITION. The BAR0 page map and the register table: for every block-specific register its offset, the bits of
each access code of R12 and its reset value, as the register section of its chapter gives them (21_register_map.md,
R590, R591). A bit in no mask is reserved, or a field that only acts when written (WO). -/

namespace Sys2Proof.Machine

/-- The kinds of page of R590. -/
inductive Page where
  | dev | cru | pwr | sec | tim | irq | sch | sem | det | eth | fhc | rxc | txc | fec | hq | mem | mch | cmn | kvp | wtn | rsv | pci | core | gln | plt | wsh | hch | spd | dbg | stl
  deriving DecidableEq, Repr

/-- BLK_ID.TYPE of a page (R590). -/
def Page.type : Page → Nat
  | .dev => 0x01
  | .cru => 0x02
  | .pwr => 0x03
  | .sec => 0x04
  | .tim => 0x05
  | .irq => 0x06
  | .sch => 0x07
  | .sem => 0x08
  | .det => 0x09
  | .eth => 0x10
  | .fhc => 0x11
  | .rxc => 0x12
  | .txc => 0x13
  | .fec => 0x14
  | .hq => 0x15
  | .mem => 0x16
  | .mch => 0x17
  | .cmn => 0x18
  | .kvp => 0x19
  | .wtn => 0x1A
  | .rsv => 0x1B
  | .pci => 0x1C
  | .core => 0x20
  | .gln => 0x21
  | .plt => 0x22
  | .wsh => 0x23
  | .hch => 0x24
  | .spd => 0x25
  | .dbg => 0x26
  | .stl => 0x27

/-- One register, or a run of like registers: `count` of them, `stride` bytes apart. The masks give the bits of each
access code; `reset` is the reset value. -/
structure RegRow where
  off : Nat
  count : Nat := 1
  stride : Nat := 4
  rw : Nat := 0
  rws : Nat := 0
  w1c : Nat := 0
  rc : Nat := 0
  ro : Nat := 0
  reset : Nat := 0
  deriving DecidableEq, Repr

/-- The stored registers of the common header (R591). -/
def headerRows : List RegRow := [
    { off := 0x008, rws := 1, reset := 1 }, -- BLK_WORLD
    { off := 0x010, rw := 1, reset := 1 }, -- BLK_CTRL
    { off := 0x014, ro := 3, reset := 1 }, -- BLK_STATUS
    { off := 0x01C, rw := 0xFFFFFFFF, reset := 0xFFFFFFFF }, -- IRQ_MASK
    { off := 0x020, w1c := 0xFFFFFFFF }, -- IRQ_STATUS
    { off := 0x028, w1c := 0x80000000, ro := 0x0FFFFFFF }, -- ERR_FIRST
    { off := 0x02C, rc := 0xFFFFFFFF } -- ERR_COUNT
  ]

/-- Registers of the DEV page (R599). -/
def devRows : List RegRow := [
    { off := 0x100, ro := 0xFF, reset := 0x10 }, -- DEV_STEPPING
    { off := 0x104, rw := 0xFFFFFFFF } -- DEV_SCRATCH
  ]

/-- Registers of the CRU page (R600). -/
def cruRows : List RegRow := [
    { off := 0x100, ro := 0x1FF }, -- CRU_PLL_LOCK
    { off := 0x104, rc := 0xFFFFFFFF } -- CRU_RELOCK_COUNT
  ]

/-- Registers of the PWR page (R588). -/
def pwrRows : List RegRow := [
    { off := 0x100, rws := 0x1FF, reset := 0x78 }, -- PWR_GOV
    { off := 0x104, rws := 0x7, ro := 0x80000F00 }, -- PWR_DVFS
    { off := 0x108, ro := 0x1 }, -- PWR_STATUS
    { off := 0x10C, ro := 0x1FFF1FFF }, -- PWR_IEST
    { off := 0x110, ro := 0xFFF }, -- PWR_VCORE
    { off := 0x114, count := 2, rc := 0xFFFFFFFF }, -- PWR_BALLAST_Q, PWR_STALL_CYC
    { off := 0x120, w1c := 0x7F, reset := 0x1 }, -- PWR_RST_CAUSE
    { off := 0x124, rws := 0x1 }, -- PWR_RSTCFG
    { off := 0x128 }, -- PWR_SWRST
    { off := 0x140, rws := 0xFFFFFF, reset := 0x78675F }, -- THM_CTRL
    { off := 0x144, ro := 0x1FFFFF }, -- THM_MAX
    { off := 0x148, w1c := 0x7 }, -- PWR_STICKY
    { off := 0x180, count := 24, ro := 0xFFFF } -- THM_TS0 to THM_TS23
  ]

/-- Registers of the SEC page (R540). -/
def secRows : List RegRow := [
    { off := 0x100, ro := 0xFF1F }, -- SEC_BOOT
    { off := 0x104, count := 3, ro := 0xFFFFFFFF }, -- SEC_FWVER, SEC_FLOOR, SEC_GRADE
    { off := 0x110, count := 12, ro := 0xFFFFFFFF }, -- SEC_IDDIG
    { off := 0x140, rw := 0xFFFFFFC0 }, -- SEC_MBOX_LO
    { off := 0x144, rw := 0xFF }, -- SEC_MBOX_HI
    { off := 0x148 }, -- SEC_HCMD
    { off := 0x14C, ro := 0x8000000F }, -- SEC_HCMD_STATUS
    { off := 0x150, rc := 0xFFFFFFFF }, -- SEC_XCOUNT
    { off := 0x154, w1c := 0x80000000, ro := 0x11F }, -- SEC_XINFO
    { off := 0x158, ro := 0xFFFFFFFF }, -- SEC_XADDR_LO
    { off := 0x15C, ro := 0x800000FF }, -- SEC_XADDR_HI
    { off := 0x160, w1c := 0x7 } -- SEC_STICKY
  ]

/-- Registers of the TIM page (R474). -/
def timRows : List RegRow := [
    { off := 0x100, count := 2, ro := 0xFFFFFFFF }, -- TIM_NOW_FRAC, TIM_NOW_NS
    { off := 0x108, count := 2, ro := 0xFFFFFFFF }, -- TIM_PPSIN
    { off := 0x110, rw := 0x7 }, -- TIM_CTRL
    { off := 0x114, rw := 0xFFFFFFFF }, -- TIM_SET_NS
    { off := 0x118, rw := 0xFFFFFFFF, reset := 0x47AE147B }, -- TIM_INCR_FRAC
    { off := 0x11C, rw := 0xFF, reset := 0x1 }, -- TIM_INCR_INT
    { off := 0x120, count := 2, rw := 0xFFFFFFFF }, -- TIM_ANCHOR_NS, TIM_PPS_NEXT
    { off := 0x128, rw := 0xFFFFFFFF, reset := 0x5F5E100 }, -- TIM_PPS_WIDTH
    { off := 0x12C, rw := 0xFFFFFFFF, reset := 0x3E8 }, -- TIM_STEP_THR
    { off := 0x130, count := 2, rw := 0xFFFFFFFF }, -- TIM_KP, TIM_KI
    { off := 0x138, rw := 0xFFFFFFFF, reset := 0x29F16B }, -- TIM_SERVO_LIM
    { off := 0x13C }, -- TIM_OFFSET_SUB
    { off := 0x140 }, -- TIM_OFFSET_NS
    { off := 0x144, count := 2, ro := 0xFFFFFFFF }, -- TIM_CORR, TIM_INTEG
    { off := 0x14C, rw := 0x3FF }, -- TIM_ANCHOR_SFN
    { off := 0x150, ro := 0x7FFF }, -- TIM_GRID
    { off := 0x154, count := 2, rc := 0xFFFFFFFF }, -- TIM_STEP_COUNT, TIM_PPSIN_OVR
    { off := 0x15C, w1c := 0x7 } -- TIM_STICKY
  ]

/-- Registers of the IRQ page (R560). -/
def irqRows : List RegRow := [
    { off := 0x400, count := 96, rw := 0xFFFFFFFF } -- route table of R560
  ]

/-- Registers of the SCH page (R414). -/
def schRows : List RegRow := [
    { off := 0x100, rw := 0x1 }, -- SCH_CTRL
    { off := 0x104, rw := 0xFFFFFFFF, reset := 0x186A0 }, -- SCH_WDOG
    { off := 0x108 }, -- SCH_ABORT
    { off := 0x10C, ro := 0xFFF, reset := 0x78 }, -- SCH_OPPOINT
    { off := 0x110, count := 4, rw := 0xF, reset := 0x8 }, -- SCH_PART
    { off := 0x120, ro := 0xFFFFFFFF }, -- SCH_CORE_STATE
    { off := 0x124, ro := 0xFFFFFFFF }, -- SCH_RAMP_END
    { off := 0x130, count := 8, rc := 0xFFFFFFFF }, -- SCH counts
    { off := 0x150, w1c := 0x1F } -- SCH_STICKY
  ]

/-- Registers of the SEM page (R416). -/
def semRows : List RegRow := [
    { off := 0x100, count := 2, ro := 0xFFFFFFFF }, -- SEM_HELD
    { off := 0x108, count := 2, w1c := 0xFFFFFFFF }, -- SEM_BROKEN
    { off := 0x110, rc := 0xFFFFFFFF }, -- SEM_BREAK_COUNT
    { off := 0x200, count := 64, ro := 0x80000F3F } -- SEM_OWNER
  ]

/-- Registers of the DET page (R514). -/
def detRows : List RegRow := [
    { off := 0x100, rw := 0x2 }, -- DET_CTRL
    { off := 0x104, ro := 0x3 }, -- DET_STATUS
    { off := 0x108, rw := 0x3FF }, -- DET_ADM
    { off := 0x10C, count := 3, rc := 0xFFFFFFFF }, -- DET counts
    { off := 0x118, ro := 0xFFFFFFFF }, -- DET_DSIG
    { off := 0x11C, ro := 0xFFFFFFFF, reset := 0xFFFFFFFF }, -- DET_TSIG
    { off := 0x120, w1c := 0x7 } -- DET_STICKY
  ]

/-- Registers of the ETH page (R471). -/
def ethRows : List RegRow := [
    { off := 0x100, rw := 0x7 }, -- ETH_CTRL
    { off := 0x104, ro := 0xF, reset := 0x8 }, -- ETH_STATUS
    { off := 0x108, rw := 0xFFFFFFFF }, -- ETH_MAC_LO
    { off := 0x10C, rw := 0xFFFF }, -- ETH_MAC_HI
    { off := 0x110, rw := 0xFFFFFFFF }, -- ETH_TS_ADJ
    { off := 0x120, count := 7, rc := 0xFFFFFFFF }, -- ETH counts
    { off := 0x13C, w1c := 0x1F }, -- ETH_STICKY
    { off := 0x150, rw := 0xFFF00000 }, -- ETH_SP_BASE_LO
    { off := 0x154, rw := 0xFF }, -- ETH_SP_BASE_HI
    { off := 0x158, ro := 0xFFFFFFFF }, -- ETH_SP_RX_WR
    { off := 0x15C, count := 2, rw := 0xFFFFFFFF }, -- ETH_SP_RX_RD, ETH_SP_TX_WR
    { off := 0x164, ro := 0xFFFFFFFF } -- ETH_SP_TX_RD
  ]

/-- Registers of the FHC page (R314). -/
def fhcRows : List RegRow := [
    { off := 0x100, rw := 0x1 }, -- FHC_CTRL
    { off := 0x104, count := 6, rc := 0xFFFFFFFF }, -- FHC counts
    { off := 0x11C, w1c := 0x1F }, -- FHC_STICKY
    { off := 0x120, w1c := 0x80000000, ro := 0xFF1F0F } -- FHC_LATE_INFO
  ]

/-- Registers of the RXC page (R316, R49). -/
def rxcRows : List RegRow := [
    { off := 0x100, rw := 0x1 }, -- CTRL
    { off := 0x104 }, -- SWAP
    { off := 0x108, rw := 0xFFFFFFFF }, -- SWAP_TARGET
    { off := 0x10C, ro := 0x8F00001F }, -- BUILD
    { off := 0x110, ro := 0xFFFFFFFF }, -- ACTIVE
    { off := 0x114, ro := 0xFFFFFFFF, reset := 0xFFFFFFFF }, -- WRITABLE
    { off := 0x118, ro := 0xFFFFFFFF }, -- PENDING
    { off := 0x120, count := 10, rc := 0xFFFFFFFF }, -- RXC counts
    { off := 0x148, w1c := 0xFF }, -- RXC_STICKY
    { off := 0x1C0, rw := 0x1, reset := 0x1 }, -- NUM_CTRL
    { off := 0x1C4, count := 2, rc := 0xFFFFFFFF }, -- NUM_SAT, NUM_NAN
    { off := 0x1CC, w1c := 0x3F }, -- NUM_FLAGS
    { off := 0x1D0, rc := 0xFFFFFFFF } -- NUM_CLAMP
  ]

/-- Registers of the TXC page (R341, R49). -/
def txcRows : List RegRow := [
    { off := 0x100, rw := 0x1 }, -- CTRL
    { off := 0x104 }, -- SWAP
    { off := 0x108, rw := 0xFFFFFFFF }, -- SWAP_TARGET
    { off := 0x10C, ro := 0x8F00001F }, -- BUILD
    { off := 0x110, ro := 0xFFFFFFFF }, -- ACTIVE
    { off := 0x114, ro := 0xFFFFFFFF, reset := 0xFFFFFFFF }, -- WRITABLE
    { off := 0x118, ro := 0xFFFFFFFF }, -- PENDING
    { off := 0x120, count := 8, rc := 0xFFFFFFFF }, -- TXC counts
    { off := 0x140, w1c := 0x3F }, -- TXC_STICKY
    { off := 0x144, ro := 0xFFFFFFFF }, -- TXC_MASK_WR
    { off := 0x1C0, rw := 0x1, reset := 0x1 }, -- NUM_CTRL
    { off := 0x1C4, count := 2, rc := 0xFFFFFFFF }, -- NUM_SAT, NUM_NAN
    { off := 0x1CC, w1c := 0x3F }, -- NUM_FLAGS
    { off := 0x1D0, rc := 0xFFFFFFFF } -- NUM_CLAMP
  ]

/-- Registers of the FEC page (R368). -/
def fecRows : List RegRow := [
    { off := 0x100, rw := 0xF3 }, -- FEC_CTRL
    { off := 0x104, rw := 0x7, reset := 0x1 }, -- FEC_LDPC_OFS
    { off := 0x108, rw := 0x1F, reset := 0xC }, -- FEC_TURBO_SCALE
    { off := 0x10C, ro := 0x1FFFF }, -- FEC_STATUS
    { off := 0x110, rw := 0xFFFFFFC0 }, -- FEC_TRACE_BASE_LO
    { off := 0x114, rw := 0xFF }, -- FEC_TRACE_BASE_HI
    { off := 0x118, ro := 0xFFFFFFFF }, -- FEC_TRACE_WR
    { off := 0x120, count := 8, rc := 0xFFFFFFFF }, -- FEC counts
    { off := 0x140, w1c := 0x7 } -- FEC_STICKY
  ]

/-- Registers of the HQ page (R318). -/
def hqRows : List RegRow := [
    { off := 0x100, count := 4, rc := 0xFFFFFFFF }, -- HQ counts
    { off := 0x110, w1c := 0x7 } -- HQ_STICKY
  ]

/-- Registers of the MEM page (R437, R240, R425). -/
def memRows : List RegRow := [
    { off := 0x100, rws := 0x7 }, -- MEM_CTRL
    { off := 0x104, ro := 0x3 }, -- MEM_STATUS
    { off := 0x108, rws := 0xFFFF, reset := 0xFFFF }, -- MEM_PART
    { off := 0x110, count := 3, rc := 0xFFFFFFFF }, -- MEM counts
    { off := 0x11C, w1c := 0x7 }, -- MEM_STICKY
    { off := 0x180, rws := 0x801F1F1F, reset := 0x4050B }, -- MEM_SHARE
    { off := 0x400, count := 32, stride := 16, rws := 0xFFFFFFF }, -- RGN_BASE
    { off := 0x404, count := 32, stride := 16, rws := 0xFFFFFFF }, -- RGN_LIMIT
    { off := 0x408, count := 32, stride := 16, rws := 0x80000003 } -- RGN_ATTR
  ]

/-- Registers of the MCH page (R438). -/
def mchRows : List RegRow := [
    { off := 0x100, count := 2, rc := 0xFFFFFFFF }, -- CH_CE_COUNT, CH_UE_COUNT
    { off := 0x108, ro := 0xFFFFFFFF }, -- CH_UE_ADDR_LO
    { off := 0x10C, w1c := 0x80000000, ro := 0xFF }, -- CH_UE_ADDR_HI
    { off := 0x110, ro := 0xFF } -- CH_TEMP
  ]

/-- Registers of the CMN page (R439, R425). -/
def cmnRows : List RegRow := [
    { off := 0x100, rws := 0x1 }, -- CMN_CTRL
    { off := 0x104, rws := 0xFFFFFFFF }, -- CMN_WAYPART
    { off := 0x108, rws := 0xFFFF }, -- CMN_WINDOW
    { off := 0x10C, rws := 0x3 }, -- CMN_CHAINPART
    { off := 0x110, count := 4, rc := 0xFFFFFFFF }, -- CMN counts
    { off := 0x120, w1c := 0x3 }, -- CMN_STICKY
    { off := 0x400, count := 8, stride := 16, rws := 0xFFFFFFF }, -- RGN_BASE
    { off := 0x404, count := 8, stride := 16, rws := 0xFFFFFFF }, -- RGN_LIMIT
    { off := 0x408, count := 8, stride := 16, rws := 0x80000003 } -- RGN_ATTR
  ]

/-- Registers of the KVP page (R276). -/
def kvpRows : List RegRow := [
    { off := 0x100, rw := 0x1 }, -- KVP_CTRL
    { off := 0x104, rw := 0xFFFFE000 }, -- KVP_PAGE_BASE_LO
    { off := 0x108, rw := 0xFF }, -- KVP_PAGE_BASE_HI
    { off := 0x10C, rw := 0xFFFFFFC0 }, -- KVP_SCALE_BASE_LO
    { off := 0x110, rw := 0xFF }, -- KVP_SCALE_BASE_HI
    { off := 0x114, rw := 0xFFFFFF00 }, -- KVP_LIST_BASE_LO
    { off := 0x118, rw := 0xFF }, -- KVP_LIST_BASE_HI
    { off := 0x11C, rw := 0xFFFFFF80 }, -- KVP_HIST_BASE_LO
    { off := 0x120, rw := 0xFF }, -- KVP_HIST_BASE_HI
    { off := 0x124, rw := 0xFFFFFFC0 }, -- KVP_FREE_BASE_LO
    { off := 0x128, rw := 0xFF }, -- KVP_FREE_BASE_HI
    { off := 0x12C, rw := 0x1FFFFFF }, -- KVP_NPAGES
    { off := 0x130, ro := 0x1FFFFFF }, -- KVP_FREE_COUNT
    { off := 0x134, rw := 0x1FFFFFF }, -- KVP_FREE_LOW
    { off := 0x138 }, -- KVP_HCMD
    { off := 0x13C, ro := 0x8000000F }, -- KVP_HCMD_STATUS
    { off := 0x140, count := 7, rc := 0xFFFFFFFF }, -- KVP counts
    { off := 0x15C, w1c := 0xF }, -- KVP_STICKY
    { off := 0x160, w1c := 0x80000000, ro := 0xF0E3FFF } -- KVP_ERR_INFO
  ]

/-- Registers of the WTN page (R498). -/
def wtnRows : List RegRow := [
    { off := 0x100, rw := 0xF }, -- WTN_CTRL
    { off := 0x104, rw := 0x3FFF, ro := 0x30000 }, -- WTN_ADDR
    { off := 0x108, rw := 0xFFFF }, -- WTN_POOLID
    { off := 0x10C, rw := 0xFFFFFF3F, reset := 0x100 }, -- WTN_UDP
    { off := 0x110, rw := 0xFF }, -- WTN_PORTS
    { off := 0x114, count := 8, rw := 0xFFFFFFFF }, -- WTN_IP, WTN_MCAST
    { off := 0x134, rw := 0xFFFFF000 }, -- WTN_ROUTE_BASE_LO
    { off := 0x138, rw := 0xFF }, -- WTN_ROUTE_BASE_HI
    { off := 0x13C, rw := 0xFFFFFFC0 }, -- WTN_RX_BASE_LO
    { off := 0x140, rw := 0xFF }, -- WTN_RX_BASE_HI
    { off := 0x144 }, -- WTN_HCMD
    { off := 0x148, ro := 0x8003000F }, -- WTN_HCMD_STATUS
    { off := 0x14C, ro := 0xFFFFFFFF }, -- WTN_TKO_SEQ
    { off := 0x150, count := 9, rc := 0xFFFFFFFF }, -- WTN counts
    { off := 0x174, w1c := 0x1F }, -- WTN_STICKY
    { off := 0x200, count := 4, stride := 8, rw := 0x8FFFFFFF }, -- mirror range first page
    { off := 0x204, count := 4, stride := 8, rw := 0xFFFFFFF }, -- mirror range last page
    { off := 0x220, count := 2, rw := 0xFFFFFFF }, -- receive window
    { off := 0x228, rw := 0xFFFFF000 }, -- MRX_OFF_LO
    { off := 0x22C, rw := 0xFF }, -- MRX_OFF_HI
    { off := 0x400, count := 64, stride := 16, rw := 0x80003FFF }, -- link VALID, PEER
    { off := 0x404, count := 64, stride := 16, rw := 0xFFFFFFFF }, -- link credits of R486
    { off := 0x408, count := 64, stride := 16, ro := 0xFFFF }, -- link AVG, AVM
    { off := 0x800, count := 32, stride := 32, rw := 0xF700FFFF }, -- split EN, D4, K, NLM1, GROUP
    { off := 0x804, count := 32, stride := 32, rw := 0x3F3F3F3F }, -- split LINK3 to LINK0
    { off := 0x808, count := 32, stride := 32, rw := 0xFFFFFFFF }, -- GOPEN
    { off := 0x80C, count := 32, stride := 32, rw := 0xFFFFFFFF }, -- GPITCH
    { off := 0x810, count := 32, stride := 32, rw := 0x3FFF }, -- GLEN
    { off := 0x814, count := 32, stride := 32, rw := 0xFFFFFFC0 }, -- GBUF_LO
    { off := 0x818, count := 32, stride := 32, rw := 0xFF }, -- GBUF_HI
    { off := 0x81C, count := 32, stride := 32, rw := 0xFFFFFFFF } -- GSIZE
  ]

/-- Registers of the RSV page (R390). -/
def rsvRows : List RegRow := [
    { off := 0x100, rw := 0x1 }, -- RSV_CTRL
    { off := 0x104, rw := 0xFFFFFFFF, reset := 0xC0008000 }, -- RSV_THRESH
    { off := 0x108, rw := 0xFFFFFFFF, reset := 0x4090010 }, -- RSV_STEP
    { off := 0x10C, rw := 0x7FFF, reset := 0x4000 }, -- RSV_OFSMAX
    { off := 0x110, rw := 0xFFFFFFC0 }, -- RSV_STATE_BASE_LO
    { off := 0x114, rw := 0xFF }, -- RSV_STATE_BASE_HI
    { off := 0x118 }, -- RSV_HCMD
    { off := 0x11C, ro := 0x8000000F }, -- RSV_HCMD_STATUS
    { off := 0x120, count := 10, rc := 0xFFFFFFFF }, -- RSV counts
    { off := 0x148, w1c := 0x1F }, -- RSV_STICKY
    { off := 0x200, count := 32, stride := 32, rw := 0xFE, reset := 0x20 }, -- D_LAG, SPLIT, FORCE
    { off := 0x204, count := 32, stride := 32, rw := 0xFFFFFFFF, reset := 0xC350 }, -- MARGIN
    { off := 0x208, count := 32, stride := 32, rw := 0xFFFFFFC0 }, -- DEC_BASE_LO
    { off := 0x20C, count := 32, stride := 32, rw := 0xFF }, -- DEC_BASE_HI
    { off := 0x210, count := 32, stride := 32, rw := 0xFFFFFFC0 }, -- FB_LO
    { off := 0x214, count := 32, stride := 32, rw := 0xFF } -- FB_HI
  ]

/-- Registers of the PCI page (R559). -/
def pciRows : List RegRow := [
    { off := 0x100, rw := 0x1 }, -- PCI_CTRL
    { off := 0x180, count := 5, rc := 0xFFFFFFFF }, -- PCI counts
    { off := 0x194, w1c := 0x1F }, -- PCI_STICKY
    { off := 0x1A0, rw := 0xFFFFFFC0 }, -- IDX_BASE_LO
    { off := 0x1A4, rw := 0xFFFFFFFF }, -- IDX_BASE_HI
    { off := 0x1A8, rw := 0x1F, reset := 0x12 }, -- PL_BUFSZ
    { off := 0x200, count := 5, stride := 32, rw := 0xFFFFF000 }, -- ring BASE_LO
    { off := 0x204, count := 5, stride := 32, rw := 0xFFFFFFFF }, -- ring BASE_HI
    { off := 0x208, count := 5, stride := 32, rw := 0x1F, reset := 0x6 }, -- ring LOG2
    { off := 0x20C, count := 5, stride := 32, ro := 0xFFFFFFFF }, -- ring WR
    { off := 0x210, count := 5, stride := 32, ro := 0xFFFFFFFF }, -- ring RD
    { off := 0x214, count := 5, stride := 32, rw := 0xFFFFFFFF, reset := 0x1 } -- HOLDOFF, THRESH
  ]

/-- Registers of the CORE page (R105). -/
def coreRows : List RegRow := [
    { off := 0x100, ro := 0x7FFFF0F }, -- CORE_STATUS
    { off := 0x104, ro := 0x1FFF }, -- CORE_PC
    { off := 0x108, ro := 0xF07FF }, -- CORE_FAULT
    { off := 0x10C, ro := 0xFFFFFFFF }, -- CORE_FAULT_INFO
    { off := 0x110, w1c := 0x1 }, -- CORE_STICKY
    { off := 0x118, count := 2, ro := 0xFFFFFFFF }, -- CORE_CYC
    { off := 0x120, rc := 0xFFFFFFFF } -- CORE_SWITCHES
  ]

/-- Registers of the GLN page (R241). -/
def glnRows : List RegRow := [
    { off := 0x100, count := 2, ro := 0xFFFFFFFF }, -- GLN_ACTIVE, GLN_PEND
    { off := 0x108, count := 4, rc := 0xFFFFFFFF }, -- GLN counts
    { off := 0x118, w1c := 0x80000000, ro := 0x7FF81FFF }, -- GLN_ARM_ERR
    { off := 0x11C, w1c := 0x1F } -- GLN_STICKY
  ]

/-- Registers of the PLT page (R151, R49). -/
def pltRows : List RegRow := [
    { off := 0x100, ro := 0xF3F }, -- PLT_STATUS
    { off := 0x104, ro := 0xFFFFFFFF }, -- PLT_ACCM
    { off := 0x108, rc := 0xFFFFFFFF }, -- PLT_OVC_COUNT
    { off := 0x10C, ro := 0xFFFFFFFF }, -- PLT_OVC_INFO
    { off := 0x110, count := 3, rc := 0xFFFFFFFF }, -- PLT counts
    { off := 0x11C, w1c := 0x80000000, ro := 0xFF01FFF }, -- PLT_POISON_INFO
    { off := 0x120, w1c := 0xF }, -- PLT_STICKY
    { off := 0x124, rc := 0xFFFFFFFF }, -- PLT_ROW_CYC
    { off := 0x1C0, rw := 0x1, reset := 0x1 }, -- NUM_CTRL
    { off := 0x1C4, count := 2, rc := 0xFFFFFFFF }, -- NUM_SAT, NUM_NAN
    { off := 0x1CC, w1c := 0x3F }, -- NUM_FLAGS
    { off := 0x1D0, rc := 0xFFFFFFFF } -- NUM_CLAMP
  ]

/-- Registers of the WSH page (R179, R49). -/
def wshRows : List RegRow := [
    { off := 0x100, ro := 0xFFFF }, -- WSH_STATUS
    { off := 0x104, count := 5, rc := 0xFFFFFFFF }, -- WSH counts
    { off := 0x118, w1c := 0xF }, -- WSH_STICKY
    { off := 0x11C, w1c := 0x80000000, ro := 0xFFFFFF }, -- WSH_POISON_INFO
    { off := 0x1C0, rw := 0x1, reset := 0x1 }, -- NUM_CTRL
    { off := 0x1C4, count := 2, rc := 0xFFFFFFFF }, -- NUM_SAT, NUM_NAN
    { off := 0x1CC, w1c := 0x3F }, -- NUM_FLAGS
    { off := 0x1D0, rc := 0xFFFFFFFF } -- NUM_CLAMP
  ]

/-- Registers of the HCH page (R207, R49). -/
def hchRows : List RegRow := [
    { off := 0x100, ro := 0xFF87FF }, -- HCH_STATUS
    { off := 0x104, count := 4, rc := 0xFFFFFFFF }, -- HCH counts
    { off := 0x114, w1c := 0x7 }, -- HCH_STICKY
    { off := 0x118, w1c := 0x80000000, ro := 0xFFFFFF }, -- HCH_POISON_INFO
    { off := 0x1C0, rw := 0x1, reset := 0x1 }, -- NUM_CTRL
    { off := 0x1C4, count := 2, rc := 0xFFFFFFFF }, -- NUM_SAT, NUM_NAN
    { off := 0x1CC, w1c := 0x3F }, -- NUM_FLAGS
    { off := 0x1D0, rc := 0xFFFFFFFF } -- NUM_CLAMP
  ]

/-- Registers of the SPD page (R440). -/
def spdRows : List RegRow := [
    { off := 0x100, count := 2, rc := 0xFFFFFFFF }, -- SPD_CE_COUNT, SPD_UE_COUNT
    { off := 0x108, ro := 0xFFFFFFFF }, -- SPD_UE_ADDR
    { off := 0x10C, w1c := 0x3 } -- SPD_STICKY
  ]

/-- Registers of the DBG page (R601). -/
def dbgRows : List RegRow := []

/-- Registers of the STL page (R243). -/
def stlRows : List RegRow := [
    { off := 0x100, ro := 0x7 }, -- STL_STATUS
    { off := 0x104, rc := 0xFFFFFFFF }, -- STL_COUNT
    { off := 0x108, rc := 0xFFFF } -- STL_LAT_MAX
  ]

/-- Registers of the ETH0 page (R472). -/
def eth0Rows : List RegRow := [
    { off := 0x180, rws := 0x80000033 }, -- ETH_MODE
    { off := 0x184, rw := 0x37 }, -- ETH_SYNCE
    { off := 0x400, count := 64, stride := 16, rw := 0xFFFFFFFF }, -- DMAC_LO
    { off := 0x404, count := 64, stride := 16, rw := 0xFFFFFFFF }, -- TCI, DMAC_HI
    { off := 0x408, count := 64, stride := 16, rw := 0xF } -- PORT, VLAN
  ]

/-- Block-specific registers of a page; the second part of the table of port 0 is in no other port's page (R472). -/
def Page.rows : Page → Nat → List RegRow
  | .dev, _ => devRows
  | .cru, _ => cruRows
  | .pwr, _ => pwrRows
  | .sec, _ => secRows
  | .tim, _ => timRows
  | .irq, _ => irqRows
  | .sch, _ => schRows
  | .sem, _ => semRows
  | .det, _ => detRows
  | .eth, n => if n = 0 then ethRows ++ eth0Rows else ethRows
  | .fhc, _ => fhcRows
  | .rxc, _ => rxcRows
  | .txc, _ => txcRows
  | .fec, _ => fecRows
  | .hq, _ => hqRows
  | .mem, _ => memRows
  | .mch, _ => mchRows
  | .cmn, _ => cmnRows
  | .kvp, _ => kvpRows
  | .wtn, _ => wtnRows
  | .rsv, _ => rsvRows
  | .pci, _ => pciRows
  | .core, _ => coreRows
  | .gln, _ => glnRows
  | .plt, _ => pltRows
  | .wsh, _ => wshRows
  | .hch, _ => hchRows
  | .spd, _ => spdRows
  | .dbg, _ => dbgRows
  | .stl, _ => stlRows

/-- Does the row hold the register at page offset `o`? -/
def RegRow.holds (r : RegRow) (o : Nat) : Bool :=
  decide (r.off ≤ o) && decide ((o - r.off) % r.stride = 0) && decide ((o - r.off) / r.stride < r.count)

/-- The header row as the DEV and SEC pages hold it: BLK_WORLD is fixed at the non-secure world there (R591). -/
def headerRow (p : Page) (o : Nat) : Option RegRow :=
  if o = 0x008 ∧ (p = .dev ∨ p = .sec) then some { off := 0x008, ro := 1 }
  else headerRows.find? (·.holds o)

/-- The row of the register at offset `o` of a page, header or block. -/
def Page.row (p : Page) (inst o : Nat) : Option RegRow :=
  if o < 0x100 then headerRow p o else (p.rows inst).find? (·.holds o)

/-- The page that lies at BAR0 page index `i`, with its instance number, before the grade record takes pages out
(R590). -/
def pageAtIndex (i : Nat) : Option (Page × Nat) :=
  if 0x100 ≤ i ∧ i < 0x180 then
    let c := (i - 0x100) / 16
    match (i - 0x100) % 16 with
    | 0 => some (.core, c) | 1 => some (.gln, c) | 2 => some (.plt, c) | 3 => some (.wsh, c) | 4 => some (.hch, c)
    | 5 => some (.spd, c) | 6 => some (.dbg, c) | 7 => some (.stl, c) | _ => none
  else if 0x10 ≤ i ∧ i < 0x18 then some (.eth, i - 0x10)
  else if 0x71 ≤ i ∧ i < 0x81 then some (.mch, i - 0x71)
  else
    match i with
    | 0 => some (.dev, 0) | 1 => some (.cru, 0) | 2 => some (.pwr, 0) | 3 => some (.sec, 0) | 4 => some (.tim, 0)
    | 5 => some (.irq, 0) | 6 => some (.sch, 0) | 7 => some (.sem, 0) | 8 => some (.det, 0) | 0x20 => some (.fhc, 0)
    | 0x30 => some (.rxc, 0) | 0x40 => some (.txc, 0) | 0x50 => some (.fec, 0) | 0x60 => some (.hq, 0)
    | 0x70 => some (.mem, 0) | 0x81 => some (.cmn, 0) | 0x90 => some (.kvp, 0) | 0xA0 => some (.wtn, 0)
    | 0xB0 => some (.rsv, 0) | 0xC0 => some (.pci, 0) | _ => none

/-- BAR0 offset of a page (R590). -/
def Page.base (p : Page) (inst : Nat) : Nat :=
  match p with
  | .dev => 0 | .cru => 0x1000 | .pwr => 0x2000 | .sec => 0x3000 | .tim => 0x4000 | .irq => 0x5000 | .sch => 0x6000
  | .sem => 0x7000 | .det => 0x8000 | .eth => 0x10000 + inst * 0x1000 | .fhc => 0x20000 | .rxc => 0x30000
  | .txc => 0x40000 | .fec => 0x50000 | .hq => 0x60000 | .mem => 0x70000 | .mch => 0x71000 + inst * 0x1000
  | .cmn => 0x81000 | .kvp => 0x90000 | .wtn => 0xA0000 | .rsv => 0xB0000 | .pci => 0xC0000
  | .core => 0x100000 + inst * 0x10000 | .gln => 0x101000 + inst * 0x10000 | .plt => 0x102000 + inst * 0x10000
  | .wsh => 0x103000 + inst * 0x10000 | .hch => 0x104000 + inst * 0x10000 | .spd => 0x105000 + inst * 0x10000
  | .dbg => 0x106000 + inst * 0x10000 | .stl => 0x107000 + inst * 0x10000

/-- Reset value of the register at absolute BAR0 offset `a`; 0 where no register stands. -/
def regReset (a : Nat) : W32 :=
  match pageAtIndex (a / 0x1000) with
  | none => 0
  | some (p, n) =>
    match p.row n (a % 0x1000) with
    | none => 0
    | some r => BitVec.ofNat 32 r.reset

/-- The registers that differ from their reset values, by rising BAR0 offset. -/
abbrev RegMap := List (Nat × W32)

/-- Value of the register at BAR0 offset `a`. -/
def RegMap.get (m : RegMap) (a : Nat) : W32 := (amGet m a).getD (regReset a)

/-- Set a register; its reset value takes the entry out. -/
def RegMap.set (m : RegMap) (a : Nat) (v : W32) : RegMap :=
  if v = regReset a then amDel m a else amPut m a v

/-- The canonical form of the map. -/
abbrev RegMap.wf (m : RegMap) : Prop :=
  m.Pairwise (fun x y => x.1 < y.1) ∧ ∀ c ∈ m, c.2 ≠ regReset c.1

/-- The sticky register of a page whose bits IRQ_RAW follows, and for each IRQ_RAW bit the sticky bit behind it. A
page named with an empty list has IRQ_RAW reserved (R591, R592). -/
def Page.sticky : Page → Nat × List Nat
  | .pwr => (0x148, [0, 1, 2]) | .sec => (0x160, [0, 1, 2]) | .tim => (0x15C, [0, 1, 2])
  | .sch => (0x150, [0, 1, 2, 3, 4]) | .det => (0x120, [0, 1, 2]) | .eth => (0x13C, [0, 1, 2, 3, 4])
  | .fhc => (0x11C, [0, 1, 2, 3, 4]) | .rxc => (0x148, [0, 1, 2, 3, 4, 5, 6, 7]) | .txc => (0x140, [0, 1, 2, 3, 4, 5])
  | .fec => (0x140, [0, 1, 2]) | .hq => (0x110, [0, 1]) | .mem => (0x11C, [0, 1, 2]) | .cmn => (0x120, [0, 1])
  | .kvp => (0x15C, [0, 1, 2, 3]) | .wtn => (0x174, [0, 1, 2, 3, 4]) | .rsv => (0x148, [0, 1, 2, 3, 4])
  | .pci => (0x194, [0, 1, 2, 3, 4]) | .plt => (0x120, [1, 2, 3, 0]) | .wsh => (0x118, [3, 2, 1, 0])
  | .hch => (0x114, [0, 2]) | .gln => (0x11C, [1, 2, 0, 3, 4]) | .spd => (0x10C, [0, 1])
  | .core => (0x110, []) | _ => (0, [])

end Sys2Proof.Machine
end

