-- ==== Sys2Proof/Machine/StateCore.lean ====
section
/-! DEFINITION. State of one Burin core: its logical cores, its memories and its units, and the semaphores and layer
barriers the cores share (03_burin_core_programming.md, R63 to R105). -/

namespace Sys2Proof.Machine

/-- One level of the loop stack (R63, R90). -/
structure LoopLevel where
  count : Nat
  start : Nat
  stop : Nat
  deriving DecidableEq, Repr

/-- A contribution to WIDE operation number `seq` of its barrier phase, kept until the barrier: for a plate pass the
words of its rows and the poison of their 16-column beats, for a reduction the partial and the poison of each row, no
partial for a row with no active element. `lost` marks one that the WIDE buffer had no room for (R502, R503, R506). -/
structure WideEntry where
  seq : Nat
  pass : Option PassRec := none
  words : List (List Nat × List Bool) := []
  wash : Option WashCmd := none
  parts : List (Option (Val × Val × Nat) × Bool) := []
  /-- SOURCE codes of the poison that the pass itself met (R141). -/
  src : List Nat := []
  lost : Bool := false
  deriving DecidableEq, Repr

/-- The total of a WIDE operation on its way to one contributor: rows for the proof chain, or one result code, its
emptiness and its poison for each row of a reduction (R505). -/
structure WideTotal where
  pass : Option PassRec := none
  src : List Nat := []
  rows : List (List Nat × List Bool) := []
  wash : Option WashCmd := none
  codes : List (Nat × Bool × Bool) := []
  deriving DecidableEq, Repr

/-- Architectural state of one logical core (R63, R74). Loop levels and return addresses stand innermost first. -/
structure LcSt where
  started : Bool := false
  ended : Bool := false
  g : Vector W32 32 := Vector.replicate 32 0
  a : Vector W32 16 := Vector.replicate 16 0
  shp : Vector (BitVec 16) 64 := Vector.replicate 64 0
  pc : Nat := 0
  loops : List LoopLevel := []
  rstack : List Nat := []
  clipped : Bool := false
  cyc : Nat := 0
  hatch : HatchSt := {}
  gln : GlnSt := {}
  /-- The barrier instance this logical core has arrived at and not yet left (R96). -/
  barrier : Option Nat := none
  /-- The barrier it waits at has been released; its LBAR bundle may issue (R96). -/
  released : Bool := false
  /-- The semaphore its SEMACQ bundle waits for (R94). -/
  semWait : Option Nat := none
  /-- The semaphore granted to its waiting SEMACQ bundle (R94, R409). -/
  semGot : Option Nat := none
  /-- The refusal of its bundle's NEW pass has been recorded; the bundle has not issued since (R133). -/
  ovcWait : Bool := false
  /-- WIDE operations issued in this barrier phase, their contributions, and totals to deliver (R502 to R505). -/
  wideOps : Nat := 0
  wide : List WideEntry := []
  deliver : List WideTotal := []
  deriving DecidableEq, Repr

/-- An entry of a core's event queue: CORE event subtype and the payload bytes from record byte 12 (R95, R602). -/
structure CoreEvt where
  subtype : Nat
  payload : List Byte
  deriving DecidableEq, Repr

/-- What a switch out of a logical core saved: its SPAD and ACCM ranges live at the barrier, as core-local start, bytes and
the device address they went to in the spill region, the ACCM tile states and the proof-chain slots (R100, R134). The
registers of a logical core stay in its LcSt as well (log 104). -/
structure Spill where
  lc : Nat
  ranges : List (Nat × Nat × Nat)
  tiles : Vector Tile 16
  slots : Vector PcSlot 4
  deriving DecidableEq, Repr

/-- What the job image gives one logical core: its program, its initial contents, and the ranges live at each barrier as
SEQ, core-local start and bytes (R66, R100, R395). Program and contents are device addresses. -/
structure LcImage where
  prog : Nat := 0
  len : Nat := 0
  initAddr : Nat := 0
  initLen : Nat := 0
  initDst : Nat := 0
  live : List (Nat × Nat × Nat) := []
  deriving DecidableEq, Repr

/-- One physical core. `state` and `stall` are the codes of R105; `job` the scheduler's number of the placed job. -/
structure CoreSt where
  state : Nat := 0
  stall : Nat := 0
  /-- Tick at which the present stall began (R406 WATCHDOG). -/
  stallSince : Option Nat := none
  runLc : Nat := 0
  hosted : Nat := 0
  job : Option Nat := none
  jobid : Nat := 0
  /-- Partition and spill region of the placed job (R392). -/
  part : Nat := 0
  spillBase : Nat := 0
  lmask : Nat := 0
  lcs : Vector LcSt 8 := Vector.replicate 8 {}
  image : Vector LcImage 8 := Vector.replicate 8 {}
  imem : Mem := {}
  /-- Device address and length of the program that IMEM holds. -/
  loaded : Option (Nat × Nat) := none
  mem : CoreMem := {}
  plate : PlateSt := {}
  wash : WashSt := {}
  htb : List Htb := []
  evq : List CoreEvt := []
  ovc : Option CoreEvt := none
  cyc : Nat := 0
  switchTo : Option Nat := none
  spill : List Spill := []
  /-- Bundles that have issued: operations and popped buffers carry the number of theirs (R86). -/
  issued : Nat := 0
  /-- Cycles for which Hatch accesses that have issued still freeze the core (R193, R197). -/
  freeze : Nat := 0
  /-- The core saves the logical core of a pre-empted job and becomes free when the save has left SPAD (R404). -/
  leaving : Bool := false
  govWait : Option Nat := none
  stileCount : Nat := 0
  /-- Its job has ended; the core is free once what it still has in flight has completed (R102, R407). -/
  ending : Bool := false
  /-- The contents that the ended job leaves in SPAD and ACCM are undefined (R407). -/
  wipe : Bool := false
  /-- Loads whose poisoned beat has not yet returned: bundle address, slot, load address and destination (R102). -/
  poisonLoads : List (Nat × Nat × Nat × Nat) := []
  deriving DecidableEq, Repr

/-- A semaphore: its holder as job number, logical core and physical core, and the waiting SEMACQ bundles with the ticks of
their requests, first come first, lowest physical core on ties (R94, R409). -/
structure SemSt where
  holder : Option (Nat × Nat × Nat) := none
  since : Nat := 0
  waiters : List (Nat × Nat × Nat × Nat) := []
  deriving DecidableEq, Repr

/-- A barrier instance of a job that is not yet released: its members and the logical cores that have arrived (R98). -/
structure BarSt where
  job : Nat
  seq : Nat
  members : Nat
  arrived : Nat
  deriving DecidableEq, Repr

end Sys2Proof.Machine
end

