-- ==== Sys2Proof/Machine/StateSys.lean ====
section
/-! DEFINITION. State of the memory system, the job scheduler, the PCIe controller, the time unit, the determinism unit
and the power unit (13, 14, 15, 17, 19 and 20 of the spec). -/

namespace Sys2Proof.Machine

/-- A requester of the device map and its SEC_XINFO code (R517, R520). -/
inductive Req where
  | host
  | core (c : Nat)
  | fhc | rxc | txc | fec | hq | kvp | rsv | wtn
  | imond
  | eth (n : Nat)
  deriving DecidableEq, Repr

/-- What the device puts out to the world, in order: writes to host memory, MSI-X messages, frames, flash writes, bytes
of the DOE and I3C answers, and changes of its output pins. -/
inductive Out where
  | hostWrite (addr : Nat) (bytes : List Byte)
  | msix (vector addr data : Nat)
  | frame (port : Nat) (bytes : List Byte) (stamp : Nat)
  | readData (bytes : List Byte) (poison : Bool)
  | flashWrite (off : Nat) (bytes : List Byte)
  | doe (bytes : List Byte)
  | pin (name : String) (level : Bool)
  | scan (bits : List Bool)
  deriving DecidableEq, Repr

/-- A line of a Commons cache way: LPDDR5X address shifted right by 7, the way, and whether it differs from memory
(R424). -/
structure CLine where
  line : Nat
  way : Nat
  dirty : Bool
  deriving DecidableEq, Repr

/-- A burst that a channel owes: its channel, its class (0 read, 1 write, 2 remote) and its beat (R238, R429). -/
structure Burst where
  chan : Nat
  cls : Nat
  beat : Nat
  wr : Bool
  deriving DecidableEq, Repr

/-- Commons and LPDDR5X. `lp` holds the 64 GiB, `win` the window ways by offset from 0x18_0000_0000, `cm` the content of
the cached lines by LPDDR5X address; `lines` runs from the most to the least recently used line. -/
structure MemSys where
  lp : Mem := {}
  win : Mem := {}
  cm : Mem := {}
  lines : List CLine := []
  bursts : List Burst := []
  /-- Position in the 20-slot frame of each channel (R238). -/
  pos : Vector Nat 16 := Vector.replicate 16 0
  /-- Tick at which the free-running refresh frame starts; the frame of the last refresh, whether of the grid and its
  number; and the refreshes made in that frame (R431). -/
  refStart : Nat := 0
  /-- Tick at which a further free-running frame starts, after a grid that was switched off before it began. -/
  refNext : Option Nat := none
  refFrame : Bool × Nat := (false, 0)
  refDone : Nat := 0
  deriving DecidableEq, Repr

/-- Where an admitted job stands: waiting for its reserved cores, waiting in its FIFO, or placed (R402, R403). -/
inductive JobPhase where
  | reserved
  | queued
  | placed
  deriving DecidableEq, Repr

/-- A logical core that a pre-emption took off its physical core, with what the save holds (R100, R404). -/
structure SavedLc where
  st : LcSt
  spill : Spill
  deriving DecidableEq, Repr

/-- A request to end a job that waits for the arbitration point: completion, a fault code, or an abort reason (R406,
R408). -/
inductive JobEnd where
  | completed
  | faulted (code : Nat)
  | aborted (reason : Nat)
  deriving DecidableEq, Repr

/-- An admitted job (R392, R399 to R408). Times are time-unit nanoseconds modulo 2³²; `since`, `overFrom` are ticks. -/
structure Job where
  num : Nat
  desc : List Byte
  /-- 0 estimation template of the receive chain, 4 another of its templates, 1 transmit chain, 2 supervisor, 3 job
  ring (R397). -/
  src : Nat
  phase : JobPhase
  cores : List Nat := []
  sTime : Nat := 0
  pTime : Nat := 0
  admitTick : Nat := 0
  /-- Order of placement, and the tick at which the present slice began (R401, R405). -/
  order : Nat := 0
  since : Nat := 0
  debit : Nat := 0
  /-- SEMNEED and WNEED of each pre-emptor that has requested pre-emption; whether the slice end asked (R404, R405). -/
  asks : List (Nat × Bool) := []
  sliceAsk : Bool := false
  /-- Tick of the slice end whose overrun is being measured (R405). -/
  overFrom : Option Nat := none
  loaded : Bool := false
  image : Vector LcImage 8 := Vector.replicate 8 {}
  /-- Logical cores that have retired END, and those a pre-emption saved. -/
  endMask : Nat := 0
  saved : List SavedLc := []
  ends : List JobEnd := []
  deriving DecidableEq, Repr

/-- A submission that waits for an admission point: its source, its cell and its descriptor (R397). -/
structure Submission where
  src : Nat
  cell : Nat
  desc : List Byte
  deriving DecidableEq, Repr

/-- The job scheduler (R392 to R413). -/
structure SchSt where
  jobs : List Job := []
  subs : List Submission := []
  aborts : List Nat := []
  /-- Projected finishes F_S(c) and F_N(c), none before the first reservation (R399). -/
  fS : Vector (Option Nat) 8 := Vector.replicate 8 none
  fN : Vector (Option Nat) 8 := Vector.replicate 8 none
  nextNum : Nat := 0
  nextOrder : Nat := 0
  /-- Intervals [S, P) of admitted SLOT and NEAR jobs, ended or not: partition, S and P (R413). -/
  intervals : List (Nat × Nat × Nat) := []
  /-- Waten credits that jobs hold: peer address, job and the tick of the hold (R409, R487). -/
  credits : List (Nat × Nat × Nat) := []
  /-- Ends of receive-chain jobs that the receiver supervisor has to hear of: cell, SLOTSEQ and whether the job completed
  (R386, R408). -/
  notices : List (Nat × Nat × Bool) := []
  deriving DecidableEq, Repr

/-- A ring entry fetched from host memory, waiting for an admission point: ring, index, stamp and bytes; `bad` marks one
that is discarded when its turn comes (R511, R543, R549, R550). -/
structure InEntry where
  ring : Nat
  idx : Nat
  stamp : Nat
  bytes : List Byte
  bad : Bool := false
  deriving DecidableEq, Repr

/-- A delivery record of R312 with its payload, waiting to be written (R309, R552). -/
structure UlRec where
  bytes : List Byte
  payload : List Byte
  beats : Nat
  deriving DecidableEq, Repr

/-- A host access through BAR2 that waits for LPDDR5X (R419, R545). -/
structure Bar2Req where
  wr : Bool
  addr : Nat
  len : Nat
  bytes : List Byte
  poison : Bool
  deriving DecidableEq, Repr

/-- The PCIe controller: what it has fetched, the payload buffers the host offers, the events and delivery records that
wait for their rings, the entries each ring has seen since its last message, and the MSI-X table (R546 to R557). -/
structure PciSt where
  fetched : List InEntry := []
  intake : List InEntry := []
  buffers : List Nat := []
  events : List (List Byte) := []
  records : List UlRec := []
  evSeq : Nat := 0
  ulSeq : Nat := 0
  since : Vector Nat 5 := Vector.replicate 5 0
  firstTick : Vector Nat 5 := Vector.replicate 5 0
  /-- Next entry of rings 0 to 2 that the controller fetches (R549). -/
  fetchIdx : Vector Nat 5 := Vector.replicate 5 0
  msix : Mem := {}
  pba : List Nat := []
  bar2 : List Bar2Req := []
  linkUp : Bool := true
  deriving DecidableEq, Repr

/-- The time unit (R460 to R470). `tick` counts TIME_CLK ticks since the last reset of the device. -/
structure TimSt where
  tick : Nat := 0
  ns : Nat := 0
  frac : Nat := 0
  /-- The nanosecond part before the last tick (R465, R510). -/
  prev : Nat := 0
  corr : Int := 0
  integ : Int := 0
  latch : Nat := 0
  /-- A step of R463 that the next tick applies, in 2⁻³² ns. -/
  step : Option Int := none
  ppsHigh : Option Nat := none
  /-- Tick since which SYNCE_OUT is held low after a change (R470). -/
  syncHeld : Option Nat := none
  /-- Subframes of the slot grid that have started since GRID_EN was set (R464). -/
  sub : Nat := 0
  deriving DecidableEq, Repr

/-- The alignment reset and the signatures (R508, R513). -/
structure DetSt where
  /-- Time of the 125 µs boundary at which an accepted request gets its strobe (R467, R508). -/
  asked : Option Nat := none
  strobe : Option Nat := none
  sigClr : Bool := false
  /-- Tick and counter of the last admission point (R18, R286, R510). -/
  lastAdm : Option (Nat × Nat) := none
  deriving DecidableEq, Repr

/-- The rails, clocks, reset inputs and sensors outside the registers (R562, R575 to R584). -/
structure PwrSt where
  /-- The device is held in reset. -/
  held : Bool := false
  /-- VDD_AUX has been off and no POR has followed; RST_N, PERST_N low; REFCLK present. -/
  auxLost : Bool := false
  rstLow : Bool := false
  perstLow : Bool := false
  refclk : Bool := true
  /-- PERST_N has reset the PCIe controller alone and is still low (R578). -/
  pcieHeld : Bool := false
  /-- THERMTRIP_N is low; the hottest reading of the last sensor read in 0.25 °C, which goes on in reset (R579, R580). -/
  tripped : Bool := false
  hottest : Int := 0
  /-- WARN is in force with its hysteresis; consecutive low samples of VDD_CORE (R566, R579). -/
  warned : Bool := false
  uvRun : Nat := 0
  /-- Tick at which a relock of the core PLL for PWR_DVFS began; locked-family PLLs that have lost lock (R565, R576). -/
  relock : Option Nat := none
  lost : List Nat := []
  /-- PWR page offset of the I3C port; ALERT_N low (R582, R583). -/
  i3c : Option Nat := none
  alertLow : Bool := false
  /-- JTAG instruction in force, IDCODE after a TAP reset, and the boundary register's preloaded bits (R584). -/
  jtag : Nat := 1
  bsr : List Bool := []
  deriving DecidableEq, Repr

/-- A command of R537 or a recovery boot that Imond is carrying out: its OP, the RESULT it will give, the flash offset it
writes, the item, and the floor that RAISE_FLOOR puts in force. -/
structure SecCmd where
  op : Nat
  result : Nat
  off : Nat
  item : List Byte
  floor : Nat
  deriving DecidableEq, Repr

/-- An SPDM connection (R538): how far it is negotiated (0 nothing, 1 version, 2 capabilities, 3 algorithms), the messages
of the negotiation, of the certificate requests and of the measurement requests not yet signed. -/
structure SpdmSt where
  phase : Nat := 0
  vca : List Byte := []
  certs : List Byte := []
  meas : List Byte := []
  deriving DecidableEq, Repr

/-- Imond (R522 to R539): the directory as read (type, offset, length), the identity public key, the owner's keys, FLOOR0
and FLAGS of the owner binding, the configuration and certificate items, the five measurements, the command in progress
and the SPDM connection. -/
structure SecSt where
  dir : List (Nat × Nat × Nat) := []
  pub : List Byte := []
  ownerKeys : List Byte := []
  flags : Nat := 0
  binding : List Byte := []
  grade : List Byte := []
  cfg : List Byte := []
  cert : List Byte := []
  meas : List (List Byte) := []
  cmd : Option SecCmd := none
  spdm : SpdmSt := {}
  deriving DecidableEq, Repr

end Sys2Proof.Machine
end

