-- ==== Sys2Proof/Machine/StateChain.lean ====
section
/-! DEFINITION. State of the cache page manager, the receive and transmit chains, the decoder farm, the receiver
supervisor, the ports and the Waten engine (08 to 12, 15 and 16 of the spec). -/

namespace Sys2Proof.Machine

/-- A command that waits in the queue of the cache page manager: a commit of a physical core with its header bytes and
the header's poison, or a host command (R256). -/
inductive KvpCmd where
  | commit (core : Nat) (hdr : List Byte) (poison : Bool)
  | create (hist : Nat)
  | delete (hist : Nat)
  deriving DecidableEq, Repr

/-- The cache page manager: the staging area of each physical core, the command queue, and the ring position of the
head of the free list (R254, R256, R262). -/
structure KvpSt where
  staging : Vector Mem 8 := Vector.replicate 8 {}
  queue : List KvpCmd := []
  head : Nat := 0
  deriving DecidableEq, Repr

/-- Bank swaps of one chain: the active bank of each stream (bit set for bank 1), the build in progress with its target,
the swaps that are ready with the slot at whose boundary each takes place, the boundaries of the swaps made (cell, the
slot in the numbering before and in the one after, and the streams that changed), the latest last, and the last slot
boundary at which a postponement was counted (R281 to R284). -/
structure SwapSt where
  streamBank : Nat := 0
  build : Option (Nat × Nat) := none
  ready : List (Nat × Nat) := []
  since : List (Nat × Nat × Nat × List Nat) := []
  passed : List (Nat × Nat) := []
  deriving DecidableEq, Repr

/-- A received eCPRI frame in the ingress buffer: the port, the tick at which it was complete, its time-stamp in ns, its
bytes from the eCPRI common header on, and its 64-byte beats that read uncorrectable (R434, R448, R449). -/
structure Ingress where
  port : Nat
  tick : Nat
  ts : Nat
  bytes : List Byte
  bad : List Nat := []
  deriving DecidableEq, Repr

/-- A grant of an accepted list (R297 to R310): `phase` 0 open, 1 every LLR taken and decoding, 2 closed, its record
fixed. `results` lists each block's outcome once decoded. -/
structure GrantSt where
  num : Nat
  bytes : List Byte
  bad : Bool := false
  phase : Nat := 0
  total : Nat := 0
  lastSym : Option Nat := none
  contributed : Bool := false
  evm : Nat := 0x8000
  sinr : Nat := 0x8000
  /-- Blocks handed to the queue of R308, and the STATUS that waits for decoding to finish after a failed check. -/
  queued : Nat := 0
  closing : Option Nat := none
  erased : Nat := 0
  satN : Nat := 0
  clamp : Bool := false
  /-- Block number, status, poison, iterations and decoded bits. -/
  results : List (Nat × Nat × Bool × Nat × List Bool) := []
  deriving DecidableEq, Repr

/-- A slot of a receive cell in progress. `seq` is its slot number counted without wrap. `wrote` gives, per symbol and
row, the mask of PRBs written; `held` the bytes of accepted sections of symbols that are not yet published, as symbol,
device address, bytes and poison (R287); `list` is 0 not yet matched, 1 accepted, 2 late, 3 lost. -/
structure RxSlot where
  cell : Nat
  seq : Nat
  opened : Bool := false
  published : Nat := 0
  wrote : List (Nat × Nat × Nat) := []
  gaps : Nat := 0
  held : List (Nat × Nat × List Byte × List Bool) := []
  prach : List Nat := []
  list : Nat := 0
  listBeat : Nat := 0
  grants : List GrantSt := []
  deadline : Bool := false
  deriving DecidableEq, Repr

/-- The receive chain and the fronthaul classifier. `nextPub` and `nextList` give each running cell its next symbol to
publish and its next slot whose list falls due. -/
structure RxcSt where
  sw : SwapSt := {}
  ingress : List Ingress := []
  slots : List RxSlot := []
  nextPub : List (Nat × Nat × Nat) := []
  nextList : List (Nat × Nat) := []
  /-- Slots whose list has not matched yet: cell and slot, in order (R296). -/
  waiting : List (Nat × Nat) := []
  /-- Code blocks whose last position has been combined and that are not yet queued: cell, slot, grant and block, in
  order of completion (R308, R344). -/
  complete : List (Nat × Nat × Nat × Nat) := []
  deriving DecidableEq, Repr

/-- A decision entry as the supervisor holds it, with what it read of the history at the projection point (R372 to
R380). `plan` is the PATH of the plan, `eligible` whether it waits for a report, `recorded` whether its record has been
written. -/
structure DecEntry where
  grant : Nat
  hist : Nat
  final : Bool
  path : Nat
  reason : Nat
  conf : Nat := 0
  alpha : Nat := 0
  ofs : Int := 0
  policy : Nat := 0
  alphaLock : Nat := 0
  plan : Nat := 1
  eligible : Bool := false
  recorded : Bool := false
  deriving DecidableEq, Repr

/-- An outcome that the receive chain has handed over: SEQ of the record, HIST, STATUS, PATH and REASON (R383). -/
structure Outcome where
  seq : Nat
  hist : Nat
  status : Nat
  path : Nat
  reason : Nat
  deriving DecidableEq, Repr

/-- The plan of a slot of a cell, the grants of which a contribution has been accepted, and whether its outcomes have been
applied (R370, R376, R383, R386). -/
structure Plan where
  cell : Nat
  slot : Nat
  entries : List DecEntry
  outcomes : List Outcome := []
  touched : List Nat := []
  applied : Bool := false
  deriving DecidableEq, Repr

/-- The receiver supervisor: its plans, the host command that waits, the gather misses by cell and slot, and for each cell
the configuration words in force since its last projection point (R370 to R388, R390). -/
structure RsvSt where
  cells : List (Nat × List Nat) := []
  plans : List Plan := []
  cmd : Option (Nat × Nat × Nat × Nat) := none
  misses : List (Nat × Nat) := []
  deriving DecidableEq, Repr

/-- A code block on its way through the farm (R344 to R348): where it belongs, its grant entry, its read span once
fetched with the poison of each beat, and whether it runs or has to stop. `asg` numbers the assignments. -/
structure Blk where
  cell : Nat
  slot : Nat
  grant : Nat
  cb : Nat
  entry : List Byte
  asg : Nat := 0
  span : Option (List Byte × List Bool) := none
  running : Bool := false
  stop : Bool := false
  deriving DecidableEq, Repr

/-- A polar request: its header, LLR bytes and poison, and whether it is already INVALID (R361). -/
structure PolarReq where
  hdr : List Byte
  llr : List Byte := []
  poison : Bool := false
  cut : Bool := false
  deriving DecidableEq, Repr

/-- A code block handed over for encoding: slot, grant, block number and systematic bits (R327, R359). -/
structure EncBlk where
  cell : Nat
  slot : Nat
  grant : Nat
  cb : Nat
  code : Nat
  sys : List Bool
  deriving DecidableEq, Repr

/-- The decoder farm: the LDPC and turbo queues, the 8 LDPC and 4 turbo engines with up to three blocks each, the polar
requests that arrive from each core, wait and run, and the blocks that the encoders hold, in order of assignment: encoder
0 and 1 LDPC, 2 turbo (R343, R359). -/
structure FecSt where
  qL : List Blk := []
  qT : List Blk := []
  eng : Vector (List Blk) 12 := Vector.replicate 12 []
  asg : Nat := 0
  polIn : Vector (Option PolarReq) 8 := Vector.replicate 8 none
  polQ : List PolarReq := []
  polRun : Vector (Option PolarReq) 2 := Vector.replicate 2 none
  enc : List (Nat × EncBlk) := []
  deriving DecidableEq, Repr

/-- A downlink grant of an accepted list: the grant entry, and the rate-matched bits of each block once encoded. -/
structure TxGrant where
  num : Nat
  bytes : List Byte
  coded : List (Nat × List Bool) := []
  deriving DecidableEq, Repr

/-- A downlink slot: `state` 0 copied to staging, 1 accepted, 2 late; `tick` of the end of the copy and `adm` of the
admission point that settled it; the list; the staging buffer it went to, and the offset of each transport block in it
(R22, R324, R326). -/
structure TxSlot where
  cell : Nat
  slot : Nat
  state : Nat := 0
  tick : Nat := 0
  adm : Nat := 0
  list : List Byte := []
  base : Nat := 0
  tbs : List Nat := []
  grants : List TxGrant := []
  deriving DecidableEq, Repr

/-- A precoded symbol of a stream row: its grid bytes, its time-domain samples, and the tick at which it is complete. -/
structure TxSym where
  cell : Nat
  slot : Nat
  sym : Nat
  row : Nat
  grid : List Byte
  samples : List (Int × Int) := []
  tick : Nat
  deriving DecidableEq, Repr

/-- Time-domain history of a stream row: the symbol it ends with (counted over all slots), the first WLEN samples of its
body, and the last samples that entered the FIR (R336). -/
structure TdHist where
  cell : Nat
  row : Nat
  last : Nat
  head : List (Int × Int)
  fir : List (Int × Int)
  deriving DecidableEq, Repr

/-- A frame that waits for its port: precedence 0 C-plane, 1 U-plane; the symbol it carries; the first tick at which it
may begin; for U-plane the close of its window, from which on it may not (R333, R452). -/
structure TxFrame where
  port : Nat
  prec : Nat
  cell : Nat
  slot : Nat
  sym : Nat
  row : Nat
  ready : Nat
  close : Option Nat := none
  bytes : List Byte
  deriving DecidableEq, Repr

/-- The transmit chain. `nextIntake` gives each running cell the next slot whose intake deadline falls due; `seqIds` counts
eCPRI sequence IDs by kind (0 downlink U-plane, 1 downlink C-plane, 2 uplink C-plane) and stream; `started` gives the slot
with which a cell started, from which the mask monitor counts (R339). -/
structure TxcSt where
  sw : SwapSt := {}
  started : List (Nat × Nat) := []
  slots : List TxSlot := []
  nextIntake : List (Nat × Nat) := []
  enc : List EncBlk := []
  syms : List TxSym := []
  td : List TdHist := []
  frames : List TxFrame := []
  opened : List (Nat × Nat × Nat) := []
  closed : List (Nat × Nat × Nat) := []
  markers : List (Nat × Nat) := []
  cplane : List (Nat × Bool × Nat) := []
  seqIds : List (Nat × Nat × Nat) := []
  monTicks : List Nat := []
  deriving DecidableEq, Repr

/-- A datagram that a port has handed to the Waten engine and that the engine has not yet checked: its port, its stamp
tick, its time-stamp in ns and fraction as one 64-bit number, and the frame without its FCS (R446, R449). -/
structure WtnFrame where
  port : Nat
  tick : Nat
  ts : Nat
  bytes : List Byte
  deriving DecidableEq, Repr

/-- A stored Waten message that waits for an admission point: where it came from, its header and payload, and the slot of
the receive area it holds, as link, M and index (R479, R486). -/
structure WtnRx where
  port : Nat
  tick : Nat
  ts : Nat
  smac : List Byte
  sip : List Byte
  tci : Option Nat
  msg : List Byte
  slot : Option (Nat × Bool × Nat) := none
  deriving DecidableEq, Repr

/-- An unsent CREDIT, GATHER or TAKEOVER message: its link and class, MIDX, bytes 16 to 31 of its header, its payload and
the send request it belongs to (R477, R484). -/
structure WtnTx where
  link : Nat
  cls : Nat
  midx : Nat := 0
  body : List Byte := []
  payload : List Byte := []
  req : Option Nat := none
  deriving DecidableEq, Repr

/-- What the engine holds for a link beyond its registers: the copy of the peer's route entry, the next SEQ to send of
each class, the next MIRROR SEQ expected and the last applied, the credits owed of each kind with the tick of the oldest,
and the slots in use (R477, R483, R486, R487, R495). -/
structure WtnLink where
  route : List Byte := []
  txSeq : Vector Nat 5 := Vector.replicate 5 0
  rxSeq : Nat := 0
  applied : Option Nat := none
  owedG : Nat := 0
  owedM : Nat := 0
  sinceG : Nat := 0
  sinceM : Nat := 0
  used : List (Bool × Nat) := []
  deriving DecidableEq, Repr

/-- A gather of a split cell: the own ready line as NUE, T and LH, and what has acted of each slice as member, MIDX and
TOTAL (R489 to R492). -/
structure Gather where
  cell : Nat
  slot : Nat
  layer : Nat
  opened : Bool := false
  ready : Option (Nat × Nat × Nat) := none
  got : List (Nat × Nat × Nat) := []
  deriving DecidableEq, Repr

/-- An accepted send request: its core and job, its gather, NUE, T and LH of its ready line, the tick from which it holds
credits, the messages that have not begun transmission, and the peers whose credits it holds (R488, R491). -/
structure SendReq where
  num : Nat
  core : Nat
  job : Nat
  cell : Nat
  slot : Nat
  layer : Nat
  shape : Nat × Nat × Nat
  hold : Option Nat := none
  left : Nat := 0
  peers : List Nat := []
  deriving DecidableEq, Repr

/-- A mirrored beat that waits for an M credit, with the number of the write it came with (R494 to R496). -/
structure MirBeat where
  beat : Nat
  bytes : List Byte
  pois : Bool
  wid : Nat
  deriving DecidableEq, Repr

/-- The Waten engine (R476 to R499). `cand` and `since` are the candidate of R481 and the tick at which its wait began;
`learned` the addresses whose entries learning made; `pair` the link and the address of the bound partner; `copy` the
next beat of the copy; `full` that a beat found the queue full; `cut` the links whose MIRROR messages a take-over
discards; `wid` numbers the writes; `beat` is the tick from which the present beacon period counts (R480). -/
structure WtnSt where
  frames : List WtnFrame := []
  wait : List WtnRx := []
  tx : List WtnTx := []
  beacons : List Nat := []
  links : Vector WtnLink 64 := Vector.replicate 64 {}
  cand : Nat := 0
  since : Nat := 0
  learned : List Nat := []
  pair : Option (Nat × Nat) := none
  copy : Option Nat := none
  mirq : List MirBeat := []
  full : Bool := false
  cut : List Nat := []
  gathers : List Gather := []
  reqs : List SendReq := []
  nextReq : Nat := 0
  wid : Nat := 0
  beat : Nat := 0
  deriving DecidableEq, Repr

end Sys2Proof.Machine
end

