-- ==== Sys2Proof/Machine/Dev.lean ====
section
/-! DEFINITION. The device: every unit of the spec with its registers, memories and queues, but for the two fields that
State keeps apart because nothing but a device reset and a boot may change them (MEM_SHARE and the grade). -/

namespace Sys2Proof.Machine

/-- The parts of the device that lock until device reset: MEM_SHARE of R240 and CORE_EN of the grade record (R530). -/
structure Locked where
  share : W32 := 0x0004050B
  coreEn : Nat := 0
  deriving DecidableEq, Repr

/-- The device. `rg` holds every BAR0 register that is stored as such; the registers whose value a unit computes are
read through Machine/RegRead.lean. `fresh` numbers the free values drawn so far (the model's own field). -/
structure Dev where
  rg : RegMap := []
  cores : Vector CoreSt 8 := Vector.replicate 8 {}
  sems : Vector SemSt 64 := Vector.replicate 64 {}
  bars : List BarSt := []
  ms : MemSys := {}
  /-- The four chain tables by offset from 0x18_0100_0000 (R278, R320, R418). -/
  tbl : Mem := {}
  /-- Writes that the four windows have taken from each core and not yet used, entry 8·window + core: offset, bytes and
  poison. Windows: 0 append, 1 LLR intake, 2 polar request, 3 confidence report (R420). -/
  streams : Vector (List (Nat × List Byte × List Bool)) 32 := Vector.replicate 32 []
  sch : SchSt := {}
  kvp : KvpSt := {}
  rxc : RxcSt := {}
  txc : TxcSt := {}
  rsv : RsvSt := {}
  fec : FecSt := {}
  wtn : WtnSt := {}
  pci : PciSt := {}
  tim : TimSt := {}
  det : DetSt := {}
  pwr : PwrSt := {}
  sec : SecSt := {}
  fresh : Nat := 0
  out : List Out := []
  deriving DecidableEq, Repr

/-- The device as a reset leaves it. What its arrays hold is undefined: LPDDR5X is undefined content number `e`, SPAD and
ACCM of core c numbers e + 1 + 2c and e + 2 + 2c (log 3). -/
def Dev.fresh0 (e : Nat) : Dev :=
  { ms := { lp := Mem.undefined e }
    cores := Vector.ofFn fun c : Fin 8 =>
      { mem := { spad := Mem.undefined (e + 1 + 2 * c.val), accm := Mem.undefined (e + 2 + 2 * c.val) } }
    fresh := e + 17 }

end Sys2Proof.Machine
end

