-- ==== Sys2Proof/Machine/Flags.lean ====
section
/-! DEFINITION. Registers, their fields, and the flags and counters of a page: the saturating counts, the sticky bits with
IRQ_STATUS behind them, and the errors of R594. -/

namespace Sys2Proof.Machine

/-- Value of register `off` of page `p`, instance `n`. -/
def Dev.reg (d : Dev) (p : Page) (n off : Nat) : Nat := (d.rg.get (p.base n + off)).toNat

/-- Set register `off` of page `p`, instance `n`. -/
def Dev.setReg (d : Dev) (p : Page) (n off v : Nat) : Dev :=
  { d with rg := d.rg.set (p.base n + off) (BitVec.ofNat 32 v) }

/-- Field `hi:lo` of a register. -/
def Dev.fld (d : Dev) (p : Page) (n off hi lo : Nat) : Nat := bits (d.reg p n off) hi lo

/-- One bit of a register. -/
def Dev.flag (d : Dev) (p : Page) (n off i : Nat) : Bool := bit (d.reg p n off) i

/-- Set field `hi:lo` of a register. -/
def Dev.setFld (d : Dev) (p : Page) (n off hi lo v : Nat) : Dev :=
  d.setReg p n off (putBits (d.reg p n off) hi lo v)

/-- Add `k` to a counter register, which stops at its top (R11). -/
def Dev.bump (d : Dev) (p : Page) (n off k : Nat) : Dev :=
  if k = 0 then d else d.setReg p n off (satAdd (d.reg p n off) k)

/-- Is the page in the secure world (R516)? -/
def Dev.secure (d : Dev) (p : Page) (n : Nat) : Bool := d.flag p n 0x008 0

/-- An event sets sticky bit `b` of a page: the bit itself, and the IRQ_STATUS bit whose IRQ_RAW bit follows it
(R592). -/
def Dev.sticky (d : Dev) (p : Page) (n b : Nat) : Dev :=
  let (off, raw) := p.sticky
  let d := d.setReg p n off (d.reg p n off ||| 2 ^ b)
  match raw.findIdx? (· == b) with
  | none => d
  | some i => d.setReg p n 0x020 (d.reg p n 0x020 ||| 2 ^ i)

/-- A page counts an error in ERR_COUNT and captures the first in ERR_FIRST; `off` is the offset within the page of the
access that caused it (R594). -/
def Dev.err (d : Dev) (p : Page) (n code off : Nat) : Dev :=
  let d := d.bump p n 0x02C 1
  if d.flag p n 0x028 31 then d
  else d.setReg p n 0x028
    (2 ^ 31 + code % 16 * 2 ^ 24 + (if code = 5 || code = 6 then 0 else (p.base n + off) % 2 ^ 24))

/-- Error codes of R594. -/
def errState : Nat := 1
/-- VALUE of R594. -/
def errValue : Nat := 2
/-- PARTIAL of R594. -/
def errPartial : Nat := 3
/-- UNMAPPED of R594. -/
def errUnmapped : Nat := 4
/-- WINDOW of R594. -/
def errWindow : Nat := 5
/-- ECC of R594. -/
def errEcc : Nat := 6
/-- BLOCK of R594. -/
def errBlock : Nat := 7

end Sys2Proof.Machine
end

