-- ==== Sys2Proof/Machine/Ops.lean ====
section
/-! DEFINITION. The operations every unit shares: crossing accesses, events, time, free values, and accesses through the
device map. -/

namespace Sys2Proof.Machine

/-- A record of `n` bytes with little-endian fields (offset, width, value); every other byte is zero (R9, R553). -/
def layout (n : Nat) (fs : List (Nat × Nat × Nat)) : List Byte :=
  (List.range n).map fun i =>
    match fs.find? fun f => decide (f.1 ≤ i) && decide (i < f.1 + f.2.1) with
    | none => 0
    | some f => BitVec.ofNat 8 (f.2.2 / 256 ^ (i - f.1))

/-- The earlier of two 32-bit times by the signed difference of R286: is `a` later than `b`? -/
def laterThan (a b : Nat) : Bool :=
  let x := (a + 2 ^ 32 - b % 2 ^ 32) % 2 ^ 32
  decide (0 < x) && decide (x < 2 ^ 31)

/-- Has time `t` been reached at `now`, modulo 2³² (R286, R465)? -/
def reached (now t : Nat) : Bool := !laterThan t now

/-- The nanosecond part of the counter of the time unit. -/
def Dev.ns (d : Dev) : Nat := d.tim.ns

/-- Have `n` nanoseconds passed since tick `t0`, at 1.28 ns a tick? -/
def Dev.elapsed (d : Dev) (t0 n : Nat) : Bool := decide (100 * n ≤ 128 * (d.tim.tick - t0))

/-- Free entries of the ring of R547. -/
def Dev.ringFree (d : Dev) (r : Nat) : Nat :=
  let b := 0x200 + 32 * r
  2 ^ d.fld .pci 0 (b + 0x08) 4 0 - (d.reg .pci 0 (b + 0x0C) + 2 ^ 32 - d.reg .pci 0 (b + 0x10)) % 2 ^ 32

/-- The rings run (R559). -/
def Dev.ringsOn (d : Dev) : Bool := d.flag .pci 0 0x100 0 && d.pci.linkUp

/-- Post an event of `src` with the payload bytes from record byte 12. A secure page posts nothing, a page with EVT_EN
0 discards; an event that finds the ring and the queue of 256 full is lost with its SEQ consumed (R521, R552, R553,
R591). -/
def Dev.post (d : Dev) (p : Page) (n src sub inst : Nat) (payload : List Byte) : Dev :=
  if d.secure p n || !d.flag p n 0x010 0 then d
  else
    let rec' := leBytes 4 d.pci.evSeq ++ leBytes 1 src ++ leBytes 1 sub ++ leBytes 2 inst ++ leBytes 4 d.ns ++
      slice payload 0 20
    let room := (if d.ringsOn then d.ringFree 4 else 0) + 256
    let d := { d with pci := { d.pci with evSeq := (d.pci.evSeq + 1) % 2 ^ 32 } }
    if room ≤ d.pci.events.length then (d.bump .pci 0 0x184 1).sticky .pci 0 1
    else { d with pci := { d.pci with events := d.pci.events ++ [rec'] } }

/-- SEC_XINFO.REQ code of a requester (R540). -/
def Req.code : Req → Nat
  | .host => 0 | .core c => c + 1 | .fhc => 9 | .rxc => 10 | .txc => 11 | .fec => 12 | .hq => 13 | .kvp => 14
  | .rsv => 15 | .wtn => 16 | .imond => 0
  | .eth n => (Config.ethReqCode n).toNat

/-- World of a requester (R517). -/
def Dev.worldOf (d : Dev) (q : Req) : World :=
  let w (p : Page) (n : Nat) : World := if d.secure p n then .secure else .nonsecure
  match q with
  | .imond => .secure
  | .host => .nonsecure
  | .core c => w .core c
  | .fhc => w .fhc 0 | .rxc => w .rxc 0 | .txc => w .txc 0 | .fec => w .fec 0 | .hq => w .hq 0 | .kvp => w .kvp 0
  | .rsv => w .rsv 0 | .wtn => w .wtn 0 | .eth n => w .eth n

/-- A crossing access is counted, captured when no capture is held, and posted with the capture (R520, R541). -/
def Dev.cross (d : Dev) (q : Req) (wr : Bool) (bar0 : Bool) (addr : Nat) : Dev :=
  let d := (d.bump .sec 0 0x150 1).sticky .sec 0 0
  if d.flag .sec 0 0x154 31 then d
  else
    let lo := addr % 2 ^ 32
    let hi := (if bar0 then 2 ^ 31 else 0) + addr / 2 ^ 32 % 256
    let d := d.setReg .sec 0 0x154 (2 ^ 31 + 256 * b2n wr + q.code)
    let d := (d.setReg .sec 0 0x158 lo).setReg .sec 0 0x15C hi
    d.post .sec 0 0x0A 1 0 (layout 20 [(0, 1, q.code), (1, 1, b2n wr), (8, 4, lo), (12, 4, hi)])

/-- Record the numeric events of a block in its NUM_ registers, while CNT_EN is set (R49). -/
def Dev.num (d : Dev) (p : Page) (n : Nat) (e : NumEv) : Dev :=
  if !d.flag p n 0x1C0 0 then d
  else
    let d := ((d.bump p n 0x1C4 e.sat).bump p n 0x1C8 e.nan).bump p n 0x1D0 e.clamp
    let f := b2n (decide (0 < e.sat)) + 2 * b2n (decide (0 < e.nan)) + 4 * b2n (decide (0 < e.clamp)) +
      8 * b2n e.bfpSat + 16 * b2n e.accSat + 32 * b2n e.inf
    if f = 0 then d else d.setReg p n 0x1CC (d.reg p n 0x1CC ||| f)

/-- Draw a fresh free value. -/
def Dev.draw (d : Dev) : Nat × Dev := (Config.freeNat d.fresh, { d with fresh := d.fresh + 1 })

/-- An error with no BAR0 access behind it: the spec states no OFFSET for it, so the field takes a free value (R594). -/
def Dev.errFree (d : Dev) (p : Page) (n code : Nat) : Dev :=
  let (v, d) := d.draw
  d.err p n code v

/-- A block-level error of code BLOCK without an access of its own (R594). -/
def Dev.errBlk (d : Dev) (p : Page) (n : Nat) : Dev := d.errFree p n errBlock

/-- Core `c`, an empty one past the last. -/
def Dev.core (d : Dev) (c : Nat) : CoreSt := if h : c < 8 then d.cores[c] else {}

/-- Replace core `c`. -/
def Dev.setCore (d : Dev) (c : Nat) (x : CoreSt) : Dev :=
  { d with cores := d.cores.setIfInBounds c x }

/-- Change core `c` by `f`. -/
def Dev.modCore (d : Dev) (c : Nat) (f : CoreSt → CoreSt) : Dev := d.setCore c (f (d.core c))

/-- Put something out (the wire log). -/
def Dev.emit (d : Dev) (o : Out) : Dev := { d with out := d.out ++ [o] }

/-! ## The device map -/

/-- Where a device address leads (R418). -/
inductive Target where
  | lp (a : Nat)
  | win (o : Nat)
  | cellTbl (o : Nat)
  | streamTbl (o : Nat)
  | txCellTbl (o : Nat)
  | txStreamTbl (o : Nat)
  | append (o : Nat)
  | llr (o : Nat)
  | polar (o : Nat)
  | conf (o : Nat)
  | spad (c o : Nat)
  | accm (c o : Nat)
  | outside
  deriving DecidableEq, Repr

/-- May the requester reach the core windows (R419)? -/
def Req.isHost : Req → Bool
  | .host => true | .imond => true | _ => false

/-- The device map for one requester (R418, R419, R423). -/
def Dev.target (lk : Locked) (d : Dev) (q : Req) (a : Nat) : Target :=
  if a < 0x1000000000 then (if d.flag .mem 0 0x100 0 then .lp a else .outside)
  else if 0x1800000000 ≤ a && a < 0x1801000000 then
    let o := a - 0x1800000000
    if d.flag .cmn 0 0x100 0 && bit (d.reg .cmn 0 0x108) (o / 0x100000) then .win o else .outside
  else if 0x1801000000 ≤ a && a < 0x1801002000 then .cellTbl (a - 0x1801000000)
  else if 0x1801002000 ≤ a && a < 0x1801004000 then .streamTbl (a - 0x1801002000)
  else if 0x1801004000 ≤ a && a < 0x1801006000 then .txCellTbl (a - 0x1801004000)
  else if 0x1801006000 ≤ a && a < 0x1801008000 then .txStreamTbl (a - 0x1801006000)
  else if 0x1802000000 ≤ a && a < 0x1802000240 then .append (a - 0x1802000000)
  else if 0x1802010000 ≤ a && a < 0x1802020000 then .llr (a - 0x1802010000)
  else if 0x1802020000 ≤ a && a < 0x1802030000 then .polar (a - 0x1802020000)
  else if 0x1802030000 ≤ a && a < 0x1802030010 then .conf (a - 0x1802030000)
  else if 0x1810000000 ≤ a && a < 0x1820000000 then
    let c := (a - 0x1810000000) / 0x2000000
    let o := (a - 0x1810000000) % 0x2000000
    if !bit lk.coreEn c || !q.isHost then .outside
    else if o < 0xC00000 then .spad c o
    else if 0x1000000 ≤ o && o < 0x1100000 then .accm c (o - 0x1000000)
    else .outside
  else .outside

/-- Attributes of the lowest-numbered valid region descriptor of a page that covers device address `a`, if any (R425).
-/
def Dev.region (d : Dev) (p : Page) (count a : Nat) : Option Nat :=
  ((List.range count).find? fun r =>
      let b := 0x400 + 16 * r
      d.flag p 0 (b + 8) 31 && decide (d.fld p 0 b 27 0 ≤ a / 4096) && decide (a / 4096 ≤ d.fld p 0 (b + 4) 27 0)).map
    fun r => d.reg p 0 (0x400 + 16 * r + 8)

/-- Is the device address in the secure world (R425, R516)? -/
def Dev.secureAddr (d : Dev) (t : Target) : Bool :=
  match t with
  | .lp a => (d.region .mem 32 a).elim false (bit · 0)
  | .win o => (d.region .cmn 8 (0x1800000000 + o)).elim false (bit · 0)
  | .cellTbl _ | .streamTbl _ | .llr _ => d.secure .rxc 0
  | .txCellTbl _ | .txStreamTbl _ => d.secure .txc 0
  | .append _ => d.secure .kvp 0
  | .polar _ => d.secure .fec 0
  | .conf _ => d.secure .rsv 0
  | .spad c _ | .accm c _ => d.secure .core c
  | .outside => false

/-- Channel of an LPDDR5X address (R426). -/
def Dev.channel (d : Dev) (a : Nat) : Nat :=
  if d.flag .mem 0 0x100 1 then 4 * bits a 35 34 + bits a 9 8 else bits a 11 8

/-- Is the LPDDR5X address direct (R428)? -/
def Dev.isDirect (d : Dev) (a : Nat) : Bool := (d.region .mem 32 a).elim false (bit · 1)

/-- Owe a burst to the channel of beat `k` in class `cls`, `wr` for a write (R14, R238). -/
def Dev.owe (d : Dev) (wr : Bool) (cls k : Nat) : Dev :=
  let b : Burst := { chan := d.channel (64 * k), cls := cls, beat := k, wr := wr }
  { d with ms := { d.ms with bursts := d.ms.bursts ++ [b] } }

/-- One uncorrectable LPDDR5X read: counted, and captured per channel (R433, R438, R441). -/
def Dev.memUe (d : Dev) (k : Nat) : Dev :=
  let ch := d.channel (64 * k)
  let d := ((d.bump .mem 0 0x114 1).sticky .mem 0 1).bump .mch ch 0x104 1
  if d.flag .mch ch 0x10C 31 then d
  else
    let d := d.setReg .mch ch 0x108 (64 * k % 2 ^ 32)
    let d := d.setReg .mch ch 0x10C (2 ^ 31 + 64 * k / 2 ^ 32 % 256)
    d.post .mem 0 0x07 2 0 (layout 20 [(0, 1, ch), (8, 8, 64 * k)])

/-- One corrected LPDDR5X read of beat `k` (R433, R441). -/
def Dev.memCe (d : Dev) (k : Nat) : Dev :=
  ((d.bump .mem 0 0x110 1).sticky .mem 0 0).bump .mch (d.channel (64 * k)) 0x100 1

/-- Count what a read of LPDDR5X beat `k` finds (R433). -/
def Dev.memEcc (d : Dev) (k : Nat) : Dev :=
  if d.ms.lp.hit (64 * k) 64 then d.memUe k else if d.ms.lp.fixes k then d.memCe k else d

/-- Read one beat of the LPDDR5X array itself: its 64 bytes and its poison (R433). -/
def Dev.arrRead (d : Dev) (cls k : Nat) : List Byte × Bool × Dev :=
  let d := (d.owe false cls k).memEcc k
  (d.ms.lp.read (64 * k) 64, d.ms.lp.bad k, d)

/-- Does beat `k` lie in a mirror range (R494, R498)? -/
def Dev.mirrored (d : Dev) (k : Nat) : Bool :=
  (List.range 4).any fun r => d.flag .wtn 0 (0x200 + 8 * r) 31 &&
    decide (d.fld .wtn 0 (0x200 + 8 * r) 27 0 ≤ k / 64) && decide (k / 64 ≤ d.fld .wtn 0 (0x204 + 8 * r) 27 0)

/-- A write that has reached the memory controller goes to the mirror partner too; a beat that finds the queue of 1,024
full is not queued (R494, R496). -/
def Dev.mirror (d : Dev) (k : Nat) : Dev :=
  if d.wtn.pair.isNone || !d.mirrored k then d
  else if 1024 ≤ d.wtn.mirq.length then { d with wtn := { d.wtn with full := true } }
  else
    let b : MirBeat := { beat := k, bytes := d.ms.lp.read (64 * k) 64, pois := d.ms.lp.bad k, wid := d.wtn.wid }
    { d with wtn := { d.wtn with mirq := d.wtn.mirq ++ [b] } }

/-- The next write: what reaches the controller from here on is of another write (R495). -/
def Dev.newWrite (d : Dev) : Dev := { d with wtn := { d.wtn with wid := d.wtn.wid + 1 } }

/-- Write bytes inside one beat of the LPDDR5X array itself (R433). -/
def Dev.arrWrite (d : Dev) (cls a : Nat) (bs : List Byte) (pois : Bool) : Dev :=
  let k := a / 64
  let d := d.owe true cls k
  let d := if (d.ms.lp.mergeUe 64 a bs.length).contains k || (d.ms.lp.mergeCe 64 a bs.length).contains k then d.memEcc k
    else d
  let d := if pois then d.bump .mem 0 0x118 1 else d
  { d with ms := { d.ms with lp := d.ms.lp.storeBeat a bs pois } }.mirror k

/-- Partition in whose ways a requester's miss allocates, none for one that does not allocate (R424); `part` is the
partition of a core's job. -/
def Dev.allocPart (d : Dev) (q : Req) (part : Nat) : Option Nat :=
  match q with
  | .host | .imond | .wtn | .eth _ => none
  | .core _ => some part
  | _ => some (d.fld .cmn 0 0x10C 1 0)

/-- Cache ways of partition `n` (R423). -/
def Dev.partWays (d : Dev) (n : Nat) : List Nat :=
  (List.range 16).filter fun w =>
    !bit (d.reg .cmn 0 0x108) w && d.fld .cmn 0 0x104 (2 * w + 1) (2 * w) == n

/-- Count `ue` uncorrectable and, with none, `ce` corrected Commons reads (R422, R433, R439). -/
def Dev.cmnErr (d : Dev) (ue ce : Nat) : Dev :=
  if ue ≠ 0 then (d.bump .cmn 0 0x11C ue).sticky .cmn 0 1
  else if ce ≠ 0 then (d.bump .cmn 0 0x118 ce).sticky .cmn 0 0
  else d

/-- Count what a Commons read of beat `k` finds. -/
def Dev.cmnRead (d : Dev) (m : Mem) (k : Nat) : Dev := d.cmnErr (b2n (m.hit (64 * k) 64)) (b2n (m.fixes k))

/-- Count what a Commons write of `n` bytes at `a` finds in the words that it merges with. -/
def Dev.cmnMerge (d : Dev) (m : Mem) (a n : Nat) : Dev :=
  d.cmnErr (b2n !(m.mergeUe 8 a n).isEmpty) (b2n !(m.mergeCe 8 a n).isEmpty)

/-- Write a dirty line back and drop it (R424). -/
def Dev.evict (d : Dev) (l : CLine) : Dev :=
  let d := { d with ms := { d.ms with lines := d.ms.lines.filter (·.line != l.line) } }
  let d :=
    if !l.dirty then d
    else [2 * l.line, 2 * l.line + 1].foldl (fun d k =>
      (d.cmnRead d.ms.cm k).arrWrite 1 (64 * k) (d.ms.cm.read (64 * k) 64) (d.ms.cm.bad k)) d.newWrite
  let cm := [2 * l.line, 2 * l.line + 1].foldl (fun m k =>
    (m.clearBeat k).write (64 * k) (List.replicate 64 0)) d.ms.cm
  { d with ms := { d.ms with cm := cm } }

/-- Make room for line `ln` in the partition's ways: a free way of its set, else the least recently used line's. -/
def Dev.makeRoom (d : Dev) (n ln : Nat) : Option (Nat × Dev) :=
  let ways := d.partWays n
  let inSet := d.ms.lines.filter fun l => l.line % 8192 == ln % 8192 && ways.contains l.way
  match ways.find? fun w => !(inSet.any (·.way == w)) with
  | some w => some (w, d)
  | none => (inSet.getLast?).map fun l => (l.way, d.evict l)

/-- Bring line `ln` to the front of the recency order. -/
def Dev.touch (d : Dev) (ln : Nat) (dirty : Bool) : Dev :=
  match d.ms.lines.find? (·.line == ln) with
  | none => d
  | some l =>
    { d with ms := { d.ms with
        lines := { l with dirty := l.dirty || dirty } :: d.ms.lines.filter (·.line != ln) } }

/-- Look beat `k` up in the Commons and allocate its line on a miss where the requester and the region allow it; the
answer says whether the line is now resident. `whole` is a write of the whole line, which fetches nothing (R424,
R425). -/
def Dev.lookup (d : Dev) (q : Req) (part cls k : Nat) (whole : Bool) : Bool × Dev :=
  let ln := k / 2
  if !d.flag .cmn 0 0x100 0 then (false, d)
  else if d.ms.lines.any (·.line == ln) then (true, (d.bump .cmn 0 0x110 1).touch ln false)
  else
    let d := d.bump .cmn 0 0x114 1
    let noalloc := (d.region .cmn 8 (64 * k)).elim false (bit · 1)
    match (if noalloc then none else d.allocPart q part).bind (d.makeRoom · ln) with
    | none => (false, d)
    | some (w, d) =>
      let d := { d with ms := { d.ms with lines := { line := ln, way := w, dirty := false } :: d.ms.lines } }
      if whole then (true, d)
      else
        (true, [2 * ln, 2 * ln + 1].foldl (fun d b =>
          let (bs, bad, d) := d.arrRead cls b
          let cm := (d.ms.cm.write (64 * b) bs)
          { d with ms := { d.ms with cm := if bad then cm.setPoison b else cm.clearBeat b } }) d)

/-- Count the uncorrectable SPAD and ACCM reads of core `c` at these core-local beat addresses (R422, R440). -/
def Dev.spdUe (d : Dev) (c : Nat) (as : List Nat) : Dev :=
  match as with
  | [] => d
  | a :: _ =>
    let d := d.bump .spd c 0x104 as.length
    let d := if d.flag .spd c 0x10C 1 then d else d.setReg .spd c 0x108 a
    d.sticky .spd c 1

/-- Count the uncorrectable words that the stores of core `c` have merged with (R422). -/
def Dev.takeMerged (d : Dev) (c : Nat) : Dev :=
  let x := d.core c
  if x.mem.merged.isEmpty then d
  else (d.setCore c { x with mem := { x.mem with merged := [] } }).spdUe c x.mem.merged

/-- LPDDR5X class of a requester's access; `wr` for a write. R14 names the classes of what the cores, the host, the ports
and the chains move; for what it does not name the model puts the receiver supervisor's reads and writes into the read
and the write class, Imond's accesses into the remote class, and the other reads and writes of the receive and the
transmit chain into the read and the remote class (DESIGN CHOICE, log 47). -/
def Req.cls (q : Req) (wr : Bool) : Nat :=
  match q with
  | .host | .imond | .wtn | .eth _ => 2
  | .rxc | .fhc | .txc => if wr then 2 else 0
  | .kvp | .hq => 1
  | _ => if wr then 1 else 0

/-- Do requests to LPDDR5X wait: the controller is enabled and not yet trained (R419, R437)? Log 119 says which wait. -/
def Dev.memWaits (d : Dev) : Bool := d.flag .mem 0 0x100 0 && !d.flag .mem 0 0x104 0

/-- Does a request to device address `a` have to wait? -/
def Dev.lpWaits (d : Dev) (a : Nat) : Bool := d.memWaits && decide (a < 0x1000000000)

/-- Core-local address of the ACCM in the core windows. -/
def accmLocal : Nat := 0x1000000

/-- Read bytes of one beat through the device map. `direct` marks accesses that R13 sends to the controller. The answer
is the bytes, their poison and whether the address lies outside the map (R419, R424, R519). -/
def Dev.beatRead (lk : Locked) (d : Dev) (q : Req) (part a n : Nat) (direct : Bool) :
    List Byte × Bool × Bool × Dev :=
  let t := d.target lk q a
  let zeros := List.replicate n (0 : Byte)
  if d.secureAddr t && d.worldOf q == .nonsecure then (zeros, false, false, d.cross q false false a)
  else
    match t with
    | .outside => (zeros, true, true, d)
    | .lp a =>
      let (hit, d) := if direct || d.isDirect a then (false, d) else d.lookup q part (q.cls false) (a / 64) false
      if hit then
        let d := d.cmnRead d.ms.cm (a / 64)
        (d.ms.cm.read a n, d.ms.cm.bad (a / 64), false, d)
      else
        let (_, bad, d) := d.arrRead (q.cls false) (a / 64)
        (d.ms.lp.read a n, bad, false, d)
    | .win o => (d.ms.win.read o n, d.ms.win.bad (o / 64), false, d.cmnRead d.ms.win (o / 64))
    | .cellTbl _ | .streamTbl _ | .txCellTbl _ | .txStreamTbl _ =>
      let o := a - 0x1801000000
      let pg : Page := if o < 0x4000 then .rxc else .txc
      (d.tbl.read o n, d.tbl.bad (o / 64), false, if d.tbl.hit (o / 64 * 64) 64 then d.err pg 0 errEcc 0 else d)
    | .append _ | .llr _ | .polar _ | .conf _ => (zeros, false, false, d)
    | .spad c o =>
      let m := (d.core c).mem.spad
      (m.read o n, m.bad (o / 64), false, d.spdUe c ((m.ueBeats o n).map (64 * ·)))
    | .accm c o =>
      let m := (d.core c).mem.accm
      (m.read o n, m.bad (o / 64), false, d.spdUe c ((m.ueBeats o n).map fun k => accmLocal + 64 * k))

/-- Number, offset and owning page of a write-only window (R420, R425). -/
def Target.window : Target → Option (Nat × Nat × Page)
  | .append o => some (0, o, .kvp)
  | .llr o => some (1, o, .rxc)
  | .polar o => some (2, o, .fec)
  | .conf o => some (3, o, .rsv)
  | _ => none

/-- Swap state of the receive or the transmit chain. -/
def Dev.sw (d : Dev) (tx : Bool) : SwapSt := if tx then d.txc.sw else d.rxc.sw

/-- Is the enabled stream entry one of cell `c` (R280, R321)? -/
def streamOf (e : List Byte) (c : Nat) : Bool := bit (leAt e 0 2) 15 && bits (leAt e 0 2) 12 8 == c

/-- May the 16 bytes at offset `o` of the chain tables be written: they lie in a staged bank that is not in use (R284)?
-/
def Dev.tblWritable (d : Dev) (o : Nat) : Bool :=
  let tx := decide (0x4000 ≤ o)
  let pg : Page := if tx then .txc else .rxc
  let o' := o % 0x4000
  if o' < 0x2000 then
    let c := o' / 256
    let k := o' / 128 % 2
    d.flag pg 0 0x114 c && (k == 1) != d.flag pg 0 0x110 c
  else
    let s := (o' - 0x2000) / 32
    let k := o' / 16 % 2
    let base := (if tx then 0x6000 else 0x2000) + 32 * s
    let act := bit (d.sw tx).streamBank s
    (k == 1) != act && (List.range 32).all fun c =>
      d.flag pg 0 0x114 c || !(streamOf (d.tbl.read base 16) c || streamOf (d.tbl.read (base + 16) 16) c)

/-- A write to the chain tables at offset `o`; what R284 forbids is ignored, counted and flagged. -/
def Dev.tblWrite (d : Dev) (o : Nat) (bs : List Byte) (pois : Bool) : Dev :=
  let parts := (rangeFrom (o / 16) ((o + bs.length + 15) / 16 - o / 16)).map fun k =>
    (max o (16 * k), min (o + bs.length) (16 * k + 16) - max o (16 * k))
  let ok := parts.filter fun p => d.tblWritable (p.1 / 16 * 16)
  let tbl := if ok.length = parts.length then d.tbl.store o bs pois
    else ok.foldl (fun m p => m.store p.1 (slice bs (p.1 - o) p.2) pois) d.tbl
  let d' := { d with tbl := tbl }
  if ok.length = parts.length then d'
  else
    let tx := decide (0x4000 ≤ o)
    let pg : Page := if tx then .txc else .rxc
    (d'.sticky pg 0 (if tx then 5 else 7)).errFree pg 0 errState

/-- A window takes a write of a core into that core's stream; from any other agent it is discarded and counted as WINDOW
(R420). -/
def Dev.windowWrite (d : Dev) (q : Req) (w o : Nat) (p : Page) (bs : List Byte) (pois : List Bool) : Dev :=
  match q with
  | .core c =>
    let i := 8 * w + c
    { d with streams := d.streams.setIfInBounds i (d.streams.toList.getD i [] ++ [(o, bs, pois)]) }
  | _ => d.err p 0 errWindow 0

/-- Write bytes inside one beat through the device map; `true` says that the address lies outside it; `whole`
that the write covers the whole Commons line (R424). -/
def Dev.beatWrite (lk : Locked) (d : Dev) (q : Req) (part a : Nat) (bs : List Byte) (pois direct : Bool)
    (whole : Bool) : Bool × Dev :=
  let t := d.target lk q a
  if d.secureAddr t && d.worldOf q == .nonsecure then (false, d.cross q true false a)
  else
    match t with
    | .outside => (true, d)
    | .lp a =>
      let (hit, d) := if direct || d.isDirect a then (false, d) else d.lookup q part (q.cls true) (a / 64) whole
      if hit then
        let d := d.cmnMerge d.ms.cm a bs.length
        (false, { d with ms := { d.ms with cm := d.ms.cm.store a bs pois } }.touch (a / 128) true)
      else (false, d.arrWrite (q.cls true) a bs pois)
    | .win o =>
      let d := d.cmnMerge d.ms.win o bs.length
      (false, { d with ms := { d.ms with win := d.ms.win.store o bs pois } })
    | .cellTbl _ | .streamTbl _ | .txCellTbl _ | .txStreamTbl _ =>
      (false, d.tblWrite (a - 0x1801000000) bs pois)
    | .append _ | .llr _ | .polar _ | .conf _ =>
      match t.window with
      | some (w, o, p) => (false, d.windowWrite q w o p bs [pois])
      | none => (false, d)
    | .spad c o =>
      let d := d.spdUe c (((d.core c).mem.spad.mergeUe 8 o bs.length).map fun u => u / 8 * 64)
      (false, d.modCore c fun x => { x with mem := { x.mem with spad := x.mem.spad.store o bs pois } })
    | .accm c o =>
      let d := d.spdUe c (((d.core c).mem.accm.mergeUe 8 o bs.length).map fun u => accmLocal + u / 8 * 64)
      (false, d.modCore c fun x => { x with mem := { x.mem with accm := x.mem.accm.store o bs pois } })

/-- Cut `n` bytes at `a` into the parts that lie in one 64-byte beat each: address and length. -/
def beatParts (a n : Nat) : List (Nat × Nat) :=
  (beatsOf a n).map fun k => (max a (64 * k), min (a + n) (64 * k + 64) - max a (64 * k))

/-- Read `n` bytes at device address `a`: the bytes, the poison of each beat part and how many beats lay outside. -/
def Dev.busRead (lk : Locked) (d : Dev) (q : Req) (part a n : Nat) (direct : Bool := false) :
    List Byte × List Bool × Nat × Dev :=
  (beatParts a n).foldl (fun (bs, ps, oor, d) (b, m) =>
    let (x, bad, out, d) := d.beatRead lk q part b m direct
    (bs ++ x, ps ++ [bad], oor + b2n out, d)) ([], [], 0, d)

/-- Write bytes at device address `a`, each beat part with its poison; the number is the beats outside the map. -/
def Dev.busWrite (lk : Locked) (d : Dev) (q : Req) (part a : Nat) (bs : List Byte) (pois : List Bool)
    (direct : Bool := false) : Nat × Dev :=
  ((beatParts a bs.length).zipIdx).foldl (fun (oor, d) ((b, m), i) =>
    let ln := b / 128 * 128
    let (out, d) := d.beatWrite lk q part b (slice bs (b - a) m) (pois.getD i false) direct
      (decide (a ≤ ln) && decide (ln + 128 ≤ a + bs.length))
    (oor + b2n out, d)) (0, d.newWrite)

/-- Read plain bytes with the OR of their poison. -/
def Dev.busBytes (lk : Locked) (d : Dev) (q : Req) (a n : Nat) (direct : Bool := false) : List Byte × Bool × Dev :=
  let (bs, ps, _, d) := d.busRead lk q 0 a n direct
  (bs, ps.any id, d)

/-- Write clean bytes. -/
def Dev.busStore (lk : Locked) (d : Dev) (q : Req) (a : Nat) (bs : List Byte) (pois : Bool := false)
    (direct : Bool := false) : Dev :=
  (d.busWrite lk q 0 a bs (List.replicate (bs.length / 64 + 2) pois) direct).2

end Sys2Proof.Machine
end

