-- ==== Sys2Proof/Machine/Decode8.lean ====
section
/-! DEFINITION. The 512-bit bundle of a Burin core: its eight slots, their fields, and the faults detected at decode
(R67 to R78, R104, R114 to R118, R153 to R156, R184 to R186). -/

namespace Sys2Proof.Machine

/-- Fault codes of R104. -/
def fFmt : Nat := 0x01
/-- OPC_ILLEGAL (R104). -/
def fOpc : Nat := 0x02
/-- FIELD_RESERVED (R104). -/
def fField : Nat := 0x03
/-- DUAL_WRITE (R104). -/
def fDual : Nat := 0x04
/-- ADDR_RANGE (R104). -/
def fRange : Nat := 0x05
/-- MISALIGNED (R104). -/
def fAlign : Nat := 0x06

/-- A fault of one slot: slot number, code and INFO (R103, R104). -/
structure SlotFault where
  slot : Nat
  code : Nat
  info : Nat
  deriving DecidableEq, Repr

/-- Opcode of a slot (R68). -/
def opcOf (w : Nat) : Nat := bits w 63 56
/-- PREG of a slot (R68). -/
def pregOf (w : Nat) : Nat := bits w 54 50
/-- PINV of a slot (R68). -/
def pinvOf (w : Nat) : Bool := bit w 55

/-- The eight slots of bundle `pc`, S0 first (R66, R67). -/
def slotsOf (im : Mem) (pc : Nat) : List Nat := (List.range 8).map fun i => im.readNat (64 * pc + 8 * i) 8

/-- A field `hi:lo` as a mask. -/
def fmask (hi lo : Nat) : Nat := (2 ^ (hi + 1 - lo) - 1) * 2 ^ lo

/-- Fields that a scalar opcode uses, as a mask of bits [49:0]; `none` for an undefined opcode (R71, R72). -/
def scalarUsed (opc : Nat) : Option Nat :=
  let rd := fmask 49 45
  let ra := fmask 44 40
  let an := fmask 49 46
  let rg := fmask 45 41
  let sh := fmask 49 44
  if 0x01 ≤ opc ∧ opc ≤ 0x0F then some (rd + ra + fmask 39 35)
  else if 0x11 ≤ opc ∧ opc ≤ 0x1F then some (rd + ra + fmask 31 0)
  else if opc = 0x20 then some (rd + fmask 31 0)
  else if opc = 0x21 ∨ opc = 0x22 then some (rd + fmask 39 32)
  else if 0x28 ≤ opc ∧ opc ≤ 0x2F then some (rd + fmask 44 41 + fmask 23 0)
  else if opc = 0x30 ∨ opc = 0x31 ∨ opc = 0x33 then some (an + rg)
  else if opc = 0x32 then some (an + fmask 23 0)
  else if opc = 0x38 ∨ opc = 0x3A then some (sh + fmask 43 39)
  else if opc = 0x39 then some (sh + fmask 15 0)
  else if opc = 0x40 ∨ opc = 0x41 then some (fmask 49 37)
  else if opc = 0x42 then some 0
  else if opc = 0x43 then some (fmask 49 37 + fmask 36 32)
  else if opc = 0x44 then some (fmask 49 37 + fmask 15 0)
  else none

/-- A control opcode of S1: BR, CALL, RET, LOOP, LOOPI (R72, R92). -/
def isControl (opc : Nat) : Bool := decide (0x40 ≤ opc) && decide (opc ≤ 0x44)

/-- SPR numbers that MFS may read (R74). -/
def sprOk (n : Nat) : Bool :=
  decide (n ≤ 3) || n == 8 || n == 9 || (decide (0x10 ≤ n) && decide (n ≤ 0x14)) || n == 0x18 || n == 0x20 ||
    n == 0x30 || (decide (0x40 ≤ n) && decide (n ≤ 0x5F))

/-- Header faults of a slot: PINV without predicate, a NOP with other bits set (R69, R70). -/
def headerBad (w : Nat) : Bool := (pregOf w == 0 && pinvOf w) || (opcOf w == 0 && w != 0)

/-- Bits of [49:0] outside a mask. -/
def unusedSet (w used : Nat) : Bool := decide ((w % 2 ^ 50) &&& (2 ^ 50 - 1 - used) ≠ 0)

/-- A FIELD_RESERVED fault of a slot, if `b` (R104). -/
def fieldFault (slot w : Nat) (b : Bool) : List SlotFault := if b then [⟨slot, fField, w % 2 ^ 32⟩] else []

/-- Decode faults of a scalar slot at bundle `pc` (R70 to R74, R90). -/
def scalarEnc (slot pc w : Nat) : List SlotFault :=
  let opc := opcOf w
  if opc = 0 then fieldFault slot w (headerBad w)
  else
    match scalarUsed opc with
    | none => [⟨slot, fOpc, opc⟩] ++ fieldFault slot w (headerBad w)
    | some u =>
      (if isControl opc && slot == 0 then [⟨slot, fOpc, opc⟩] else []) ++
      fieldFault slot w (headerBad w || unusedSet w u ||
        ((opc == 0x43 || opc == 0x44) && decide (bits w 49 37 ≤ pc))) ++
      (if (opc == 0x21 && !sprOk (bits w 39 32)) || (opc == 0x22 && bits w 39 32 != 0x30) then
        [⟨slot, 0x0B, bits w 39 32⟩] else [])

/-- Fields that a G opcode uses (R75). -/
def gUsed (opc : Nat) : Option Nat :=
  let desc := fmask 49 45
  match opc with
  | 0x01 | 0x02 => some (desc + fmask 44 40 + fmask 39 36)
  | 0x03 | 0x04 | 0x06 => some desc
  | 0x05 => some (desc + fmask 35 32)
  | _ => none

/-- Fields that a Y opcode uses (R78). -/
def yUsed (opc : Nat) : Option Nat :=
  match opc with
  | 0x01 => some (fmask 49 18)
  | 0x02 => some (fmask 49 45)
  | 0x03 => some (fmask 49 34)
  | 0x04 | 0x05 => some (fmask 49 44)
  | 0x06 => some (fmask 49 39)
  | 0x07 => some (fmask 49 34)
  | 0x08 => some 0
  | _ => none

/-- Decode faults of a slot whose opcodes and fields are given by a table. -/
def tableEnc (slot w : Nat) (used : Nat → Option Nat) : List SlotFault :=
  let opc := opcOf w
  if opc = 0 then fieldFault slot w (headerBad w)
  else
    match used opc with
    | none => [⟨slot, fOpc, opc⟩] ++ fieldFault slot w (headerBad w)
    | some u => fieldFault slot w (headerBad w || unusedSet w u)

/-- Reserved format codes among fields at the given offsets, highest field first (R26, R104). -/
def fmtFaults (slot w : Nat) (offs : List Nat) : List SlotFault :=
  match offs.find? fun o => decide (0xD ≤ bits w (o + 3) o) with
  | some o => [⟨slot, fFmt, o⟩]
  | none => []

/-- The format at bit offset `o`; only used once the codes are known not to be reserved. -/
def fmtAt (w o : Nat) : Fmt := (Fmt.ofCode (bits w (o + 3) o)).getD .s4

/-- Decode faults of the P slot. DESIGN CHOICE: only PASS has format fields; codes 0xD to 0xF at their place in another
opcode give FIELD_RESERVED or OPC_ILLEGAL, here and in `wEnc` and `hEnc` (log entry 107). `pop` is the POP mask of a TOK in the bundle (R114 to R118). -/
def pEnc (w pop : Nat) : List SlotFault :=
  match opcOf w with
  | 0 => fieldFault 3 w (headerBad w)
  | 0x01 =>
    let f := fmtFaults 3 w [46, 42]
    f ++ fieldFault 3 w (headerBad w ||
      (f.isEmpty && passEncBad (PassCmd.ofSlot w (fmtAt w 46) (fmtAt w 42)) (bit w 4) pop))
  | 0x02 => fieldFault 3 w (headerBad w || unusedSet w (fmask 37 32))
  | 0x03 => fieldFault 3 w (headerBad w || unusedSet w (fmask 37 22))
  | o => [⟨3, fOpc, o⟩] ++ fieldFault 3 w (headerBad w)

/-- Decode faults of the W slot (R76, R77, R153 to R156). DESIGN CHOICE: an undefined opcode has no format fields (log
entry 107). -/
def wEnc (w : Nat) : List SlotFault :=
  let o := opcOf w
  if o = 0 then fieldFault 4 w (headerBad w)
  else if !washOpcode o then [⟨4, fOpc, o⟩] ++ fieldFault 4 w (headerBad w)
  else
    let f := fmtFaults 4 w [46, 42, 38]
    let a := fmtAt w 46
    let b := fmtAt w 42
    let d := fmtAt w 38
    f ++ fieldFault 4 w (headerBad w ||
      (f.isEmpty && (!washFormats o a b d || washEncBad o a d (bit w 6) (bit w 5) (bit w 4) (bits w 3 0))))

/-- Decode faults of an H slot by itself (R184 to R186). DESIGN CHOICE: an undefined opcode has no format fields (log
entry 107). -/
def hEnc (slot w : Nat) : List SlotFault :=
  let o := opcOf w
  if o = 0 then fieldFault slot w (headerBad w)
  else if !hOpcode o then [⟨slot, fOpc, o⟩] ++ fieldFault slot w (headerBad w)
  else
    let f := fmtFaults slot w [46]
    f ++ fieldFault slot w (headerBad w || (f.isEmpty && (HCmd.ofSlot w).encBad w))

/-- POP mask of a TOK in the Y slot. -/
def popMask (y : Nat) : Nat := if opcOf y = 0x01 then bits y 33 18 else 0

/-- All decode faults of a bundle (R102). -/
def encFaults (pc : Nat) (ws : List Nat) : List SlotFault :=
  let w (i : Nat) := ws.getD i 0
  scalarEnc 0 pc (w 0) ++ scalarEnc 1 pc (w 1) ++ tableEnc 2 (w 2) gUsed ++ pEnc (w 3) (popMask (w 7)) ++
  wEnc (w 4) ++ hEnc 5 (w 5) ++ hEnc 6 (w 6) ++
  fieldFault 6 (w 6) (hCollide (HCmd.ofSlot (w 5)) (HCmd.ofSlot (w 6))) ++ tableEnc 7 (w 7) yUsed

/-- The recorded fault: bundle-level before slots, then the lowest slot, then the lowest code (R103). -/
def pickFault (fs : List SlotFault) : Option SlotFault :=
  let rank (f : SlotFault) : Nat := (if f.slot = 15 then 0 else 1 + f.slot) * 256 + f.code
  fs.foldl (fun b f =>
    match b with
    | none => some f
    | some x => if rank f < rank x then some f else b) none

/-- g register by number; g0 reads zero (R63). -/
def LcSt.greg (l : LcSt) (n : Nat) : Nat := if n = 0 then 0 else (l.g.toList.getD n 0).toNat

/-- Address register. -/
def LcSt.areg (l : LcSt) (n : Nat) : Nat := (l.a.toList.getD n 0).toNat

/-- Dimension `d` of shape register `n`. -/
def LcSt.dim (l : LcSt) (n d : Nat) : Nat := (l.shp.toList.getD (4 * n + d) 0).toNat

/-- Does a slot execute: an opcode, and a true predicate read at issue (R69)? -/
def LcSt.executes (l : LcSt) (w : Nat) : Bool :=
  opcOf w != 0 && (pregOf w == 0 || ((l.greg (pregOf w) != 0) != pinvOf w))

end Sys2Proof.Machine
end

