-- ==== Sys2Proof/Machine/Issue.lean ====
section
/-! DEFINITION. What the slots of a bundle compute: scalar results, control flow, and the faults that depend on operand
values (R64 to R96, R112 to R120, R159, R161, R182, R226, R235). -/

namespace Sys2Proof.Machine

/-- Scalar arithmetic by the low four bits of the opcode, modulo 2³² (R64, R72). -/
def alu (op a b : Nat) : Nat :=
  let m := 2 ^ 32
  let sa := toS 32 a
  let sb := toS 32 b
  match op with
  | 0x1 => (a + b) % m
  | 0x2 => (a + m - b % m) % m
  | 0x3 => a &&& b
  | 0x4 => a ||| b
  | 0x5 => a ^^^ b
  | 0x6 => (a * 2 ^ (b % 32)) % m
  | 0x7 => a / 2 ^ (b % 32)
  | 0x8 => ofS 32 (sar sa (b % 32))
  | 0x9 => (a * b) % m
  | 0xA => ofS 32 ((sa * sb) / (m : Nat))
  | 0xB => if sb < sa then b else a
  | 0xC => if sa < sb then b else a
  | 0xD => b2n (decide (sa < sb))
  | 0xE => b2n (decide (a < b))
  | _ => b2n (a == b)

/-- Address and size of a scalar load or store (R72, R73). -/
def scalarAccess (l : LcSt) (w : Nat) : Option (Nat × Nat) :=
  let ad := ofS 32 ((l.areg (bits w 44 41) : Int) + toS 24 (bits w 23 0))
  match opcOf w with
  | 0x28 | 0x29 | 0x2D => some (ad, 1)
  | 0x2A | 0x2B | 0x2E => some (ad, 2)
  | 0x2C | 0x2F => some (ad, 4)
  | _ => none

/-- Value of a special register (R74). DESIGN CHOICE: LC0 to LC3 of a loop level that is not active, of which the spec says
nothing, read 0 (log entry 106). -/
def sprRead (c : CoreSt) (pcid : Nat) (l : LcSt) (n : Nat) : Nat :=
  if n = 0 then c.runLc
  else if n = 1 then pcid
  else if n = 2 then c.jobid
  else if n = 3 then c.lmask
  else if n = 8 then l.cyc % 2 ^ 32
  else if n = 9 then l.cyc / 2 ^ 32 % 2 ^ 32
  else if 0x10 ≤ n ∧ n ≤ 0x13 then ((l.loops.reverse[n - 0x10]?).map (·.count)).getD 0
  else if n = 0x14 then l.loops.length
  else if n = 0x18 then l.rstack.length
  else if n = 0x20 then b2n l.clipped
  else if n = 0x30 then l.hatch.rbase
  else if 0x40 ≤ n ∧ n ≤ 0x4F then l.gln.head (n - 0x40)
  else l.gln.tokenCount (n - 0x50)

/-- A register a slot writes: bank (0 g, 1 a, 2 shape dimension, 3 special, 4 Hatch) and number (R80). -/
structure RegName where
  bank : Nat
  num : Nat
  deriving DecidableEq, Repr

/-- Registers that a scalar slot writes. -/
def scalarWrites (w : Nat) : List RegName :=
  let o := opcOf w
  if (1 ≤ o ∧ o ≤ 0x0F) ∨ (0x11 ≤ o ∧ o ≤ 0x21) ∨ (0x28 ≤ o ∧ o ≤ 0x2C) then [⟨0, bits w 49 45⟩]
  else if o = 0x22 then [⟨3, 0x30⟩]
  else if 0x30 ≤ o ∧ o ≤ 0x32 then [⟨1, bits w 49 46⟩]
  else if o = 0x33 then [⟨0, bits w 45 41⟩]
  else if o = 0x38 ∨ o = 0x39 then [⟨2, bits w 49 44⟩]
  else if o = 0x3A then [⟨0, bits w 43 39⟩]
  else []

/-- Registers that slot `i` writes, g0 left out (R80, R182). -/
def slotWrites (i w : Nat) : List RegName :=
  let rs :=
    match i with
    | 0 | 1 => scalarWrites w
    | 2 => if opcOf w = 0x02 then [⟨0, bits w 44 40⟩] else []
    | 5 | 6 =>
      let c := HCmd.ofSlot w
      (match c.writes with | some n => [(⟨4, n⟩ : RegName)] | none => []) ++ (if c.rot then [(⟨3, 0x30⟩ : RegName)] else [])
    | 7 => if opcOf w = 0x06 then [⟨0, bits w 43 39⟩] else []
    | _ => []
  rs.filter fun r => !(r == (⟨0, 0⟩ : RegName))

/-- Numbers of the g registers that slot `i` reads, its predicate included (R70, R72, R75, R79, R185). -/
def slotReads (l : LcSt) (i w : Nat) : List Nat :=
  let o := opcOf w
  let rs :=
    if !l.executes w then []
    else match i with
      | 0 | 1 =>
        if 0x01 ≤ o ∧ o ≤ 0x0F then [bits w 44 40, bits w 39 35]
        else if 0x11 ≤ o ∧ o ≤ 0x1F then [bits w 44 40]
        else if o = 0x22 ∨ o = 0x2D ∨ o = 0x2E ∨ o = 0x2F then [bits w 49 45]
        else if o = 0x30 ∨ o = 0x31 then [bits w 45 41]
        else if o = 0x38 then [bits w 43 39]
        else if o = 0x43 then [bits w 36 32]
        else []
      | 2 => if o = 0x01 then [bits w 44 40] else []
      | 5 | 6 => if o = 0x04 then [bits w 4 0] else []
      | _ => []
  (pregOf w :: rs).filter (· ≠ 0)

/-- INFO of a DUAL_WRITE: the register number; a shape register, not its dimension; an accumulator by its number. -/
def RegName.info (r : RegName) : Nat :=
  if r.bank = 2 then r.num / 4 else if r.bank = 4 && decide (64 ≤ r.num) then r.num - 64 else r.num

/-- DUAL_WRITE faults among the executing slots, against the higher-numbered slot (R80, R103). DESIGN CHOICE: of several
collisions of one slot INFO names the first register in the order of `slotWrites` (log entry 108). -/
def dualFaults (l : LcSt) (ws : List Nat) : List SlotFault :=
  let wr (i : Nat) : List RegName := let w := ws.getD i 0; if l.executes w then slotWrites i w else []
  (List.range 8).flatMap fun j =>
    ((wr j).filter fun r => (List.range j).any fun i => (wr i).contains r).map fun r => (⟨j, fDual, r.info⟩ : SlotFault)

/-- The clamped plate pass of a PASS slot: dimensions, stride, and whether a dimension was clamped (R119, R120). -/
structure PassShape where
  n : Nat
  k : Nat
  m : Nat
  stride : Nat
  clipped : Bool
  deriving DecidableEq, Repr

/-- PASS fields of a slot. -/
def passOf (w : Nat) : PassCmd := PassCmd.ofSlot w (fmtAt w 46) (fmtAt w 42)

/-- Shape of a PASS; `n = 0` marks a no-op (R119). -/
def passShape (l : LcSt) (c : PassCmd) : PassShape :=
  let n := l.dim c.shp 0
  let k := l.dim c.shp 1
  let m := l.dim c.shp 2
  let kx := kMax c.fmov c.fsta c.tand
  let mx := mMax c.fmov c.tand
  if n = 0 ∨ k = 0 ∨ m = 0 then ⟨0, 0, 0, l.dim c.shp 3, false⟩
  else
    ⟨min n (c.ceil + 1), min k kx, min m mx, l.dim c.shp 3,
      decide (c.ceil + 1 < n) || decide (kx < k) || decide (mx < m)⟩

/-- Moving and stationary base address: the queue's head buffer or the address register (R115, R135). -/
def passBases (l : LcSt) (c : PassCmd) : Nat × Nat :=
  (if c.mq then l.gln.head c.am else l.areg c.am, if c.sq then l.gln.head c.as else l.areg c.as)

/-- Queues that a PASS takes a token from (R135). -/
def passQueues (c : PassCmd) : List Nat := (if c.mq then [c.am] else []) ++ (if c.sq then [c.as] else [])

/-- Bound queue? -/
def GlnSt.isBound (g : GlnSt) (q : Nat) : Bool := (g.queues.toList.getD q none).isSome

/-- A W command as its slot and the registers give it, and whether its count was clamped; `n = 0` or `r = 0` marks a
no-op (R77, R153, R159). -/
def washOf (c : CoreSt) (l : LcSt) (w : Nat) : WashCmd × Bool :=
  let shp := bits w 10 7
  let csrc := bit w 11
  let n0 := if csrc then l.dim shp 0 else bits w 25 12
  let r0 := if csrc then l.dim shp 1 else 1
  ({ opc := opcOf w, fa := fmtAt w 46, fb := fmtAt w 42, fd := fmtAt w 38, wide := bit w 6, msk := bit w 5,
     zm := bit w 4, bw := bits w 3 0, n := min n0 16383, r := min r0 2048, pitch := if csrc then l.dim shp 3 else 0,
     pa := l.areg (bits w 37 34), pb := l.areg (bits w 33 30), pd := l.areg (bits w 29 26), pm := l.areg (bits w 3 0),
     lc := c.runLc, pc := l.pc },
   csrc && decide (0 < n0) && decide (0 < r0) && (decide (16383 < n0) || decide (2048 < r0)))

/-- Is the W command a no-op? -/
def WashCmd.noop (c : WashCmd) : Bool := c.n == 0 || c.r == 0

/-- The generator that slot H0 (`second` false) or H1 sees (R195). -/
def hGen (l : LcSt) (ws : List Nat) (second : Bool) : AddrGen :=
  let h0 := HCmd.ofSlot (ws.getD 5 0)
  let h1 := HCmd.ofSlot (ws.getD 6 0)
  let g (n : Nat) := l.hatch.ag.toList.getD n {}
  if !second then g h0.ag
  else if l.executes (ws.getD 5 0) && h0.ag == h1.ag && h0.access.isSome then (g h1.ag).adv h0.advance
  else g h1.ag

/-- Bits set in a mask below `n`. -/
def bitList (n m : Nat) : List Nat := (List.range n).filter fun i => bit m i

/-- Semaphores that logical core `lc` of job `j` holds (R94). -/
def heldSems (sems : List SemSt) (j lc : Nat) : List Nat :=
  (List.range 64).filter fun k =>
    match (sems.getD k {}).holder with
    | some h => h.1 == j && h.2.1 == lc
    | none => false

/-- Faults of the executing S0 and S1 slots that depend on values (R73, R91 to R93). -/
def scalarFaults (l : LcSt) (slot w : Nat) : List SlotFault :=
  let o := opcOf w
  let mem :=
    match scalarAccess l w with
    | none => []
    | some (a, n) =>
      if !localOk a n then [(⟨slot, fRange, a⟩ : SlotFault)]
      else if a % n ≠ 0 then [⟨slot, fAlign, a⟩] else []
  let cnt := if o = 0x43 then l.greg (bits w 36 32) else bits w 15 0
  mem ++
  (if (o == 0x43 || o == 0x44) && cnt != 0 && decide (4 ≤ l.loops.length) then [⟨slot, 0x08, bits w 49 37⟩] else []) ++
  (if o == 0x41 && decide (8 ≤ l.rstack.length) then [⟨slot, 0x0A, l.rstack.length⟩] else []) ++
  (if o == 0x42 && l.rstack.isEmpty then [⟨slot, 0x0A, 0⟩] else [])

/-- Faults of the executing G slot (R226, R235). -/
def gFaults (l : LcSt) (w : Nat) : List SlotFault :=
  let x := l.gln.desc (bits w 49 45)
  match opcOf w with
  | 0x03 =>
    match dArmCheck x.prog x.bound.isSome l.gln.hasPool (w % 2 ^ 32) with
    | some (code, _, info) => [⟨2, code, info⟩]
    | none => []
  | 0x06 =>
    match stlCheck x.prog (w % 2 ^ 32) with
    | some (code, info) => [⟨2, code, info⟩]
    | none => []
  | _ => []

/-- A base address that a PASS takes from queue `q`, none while the queue has no head buffer, or from a register. -/
def GlnSt.base? (g : GlnSt) (fromQueue : Bool) (q : Nat) (reg : Nat) : Option Nat :=
  if !fromQueue then some reg else if g.tokenCount q = 0 then none else some (g.head q)

/-- Faults of the executing P slot (R112, R117, R135). A PASS that names an unbound queue faults for it, or for the lower
code of an operand whose address is known (R103). DESIGN CHOICE: of two unbound queues INFO names that of the moving
operand (log entry 108). -/
def pFaults (l : LcSt) (plate : PlateSt) (w : Nat) : List SlotFault :=
  match opcOf w with
  | 0x01 =>
    let c := passOf w
    let s := passShape l c
    if s.n = 0 then []
    else
      let addr := passAddrFault c s.n s.k s.m s.stride (l.gln.base? c.mq c.am (l.areg c.am))
        (l.gln.base? c.sq c.as (l.areg c.as)) (l.areg c.ao) (plate.slots.toList.getD c.pcs .reset)
      (((passQueues c).find? fun q => !l.gln.isBound q).toList.map fun q => (⟨3, 0x0C, q⟩ : SlotFault)) ++
        addr.toList.map fun f => (⟨3, f.1, f.2⟩ : SlotFault)
  | 0x02 =>
    let a := l.areg (bits w 37 34)
    if spadSize < a + 64 then [⟨3, fRange, max a spadSize⟩] else if a % 64 ≠ 0 then [⟨3, fAlign, a⟩] else []
  | _ => []

/-- Faults of the executing W slot (R161). -/
def wFaults (c : CoreSt) (l : LcSt) (w : Nat) : List SlotFault :=
  let x := (washOf c l w).1
  if x.noop then []
  else
    match x.check with
    | some (code, info) => [⟨4, code, info⟩]
    | none => []

/-- Faults of an executing H slot (R196). -/
def hFaults (l : LcSt) (ws : List Nat) (slot : Nat) : List SlotFault :=
  match (HCmd.ofSlot (ws.getD slot 0)).genCheck (hGen l ws (slot == 6)) with
  | some (code, info) => [⟨slot, code, info⟩]
  | none => []

/-- Queues that a TOK names. -/
def tokQueues (w : Nat) : List Nat := bitList 16 (bits w 49 34 ||| bits w 33 18)

/-- Faults of the executing Y slot, but for BAR_MISMATCH, which is judged at arrival (R84, R94, R96, R502). DESIGN CHOICE:
of several unbound queues that a TOK names INFO gives the lowest (log entry 108). -/
def yFaults (c : CoreSt) (l : LcSt) (sems : List SemSt) (w : Nat) : List SlotFault :=
  let j := c.job.getD 0
  let held := heldSems sems j c.runLc
  let k := bits w 49 44
  let atBar : List SlotFault := match held with | [] => [] | h :: _ => [⟨7, 0x0F, h⟩]
  match opcOf w with
  | 0x01 =>
    match (tokQueues w).find? fun q => !l.gln.isBound q with
    | some q => [⟨7, 0x0C, q⟩]
    | none => []
  | 0x03 =>
    let m := bits w 49 42
    atBar ++ (if !bit m c.runLc || (m &&& (0xFF - c.lmask % 256)) != 0 ||
      (l.wideOps != 0 && m != c.lmask) then [⟨7, 0x11, m⟩] else [])
  | 0x04 => if held.contains k && l.semGot != some k then [⟨7, 0x0E, k⟩] else []
  | 0x05 => if held.contains k then [] else [⟨7, 0x0D, k⟩]
  | 0x06 => if held.contains k then [⟨7, 0x0E, k⟩] else []
  | 0x08 => atBar
  | _ => []

/-- Value faults of every executing slot but DUAL_WRITE, of slots that decode (R69, R102). -/
def valueFaults (c : CoreSt) (l : LcSt) (sems : List SemSt) (ws : List Nat) : List SlotFault :=
  let w (i : Nat) := ws.getD i 0
  let on (i : Nat) (f : List SlotFault) : List SlotFault := if l.executes (w i) then f else []
  on 0 (scalarFaults l 0 (w 0)) ++ on 1 (scalarFaults l 1 (w 1)) ++
  (if isControl (opcOf (w 1)) && l.loops.any (fun v => v.stop == l.pc) then [(⟨1, 0x09, l.pc⟩ : SlotFault)] else []) ++
  on 2 (gFaults l (w 2)) ++ on 3 (pFaults l c.plate (w 3)) ++ on 4 (wFaults c l (w 4)) ++
  on 5 (hFaults l ws 5) ++ on 6 (hFaults l ws 6) ++ on 7 (yFaults c l sems (w 7))

/-- Is it a fault that makes the bundle's wait pointless, so that it is judged before the issue conditions hold: a queue that
is not bound, a semaphore or barrier that cannot be had (R84, R94, R96, R135)? -/
def SlotFault.atOnce (f : SlotFault) : Bool := decide (0x0C ≤ f.code) && decide (f.code ≤ 0x11)

/-! ## Control flow -/

/-- The loop stack at the end of bundle `pc` and the bundle it leads to: levels that end here are evaluated innermost
first (R90, R91). The list holds the innermost level first. -/
def loopBack (pc : Nat) : List LoopLevel → List LoopLevel × Nat
  | [] => ([], pc + 1)
  | v :: vs =>
    if v.stop = pc then
      if 1 < v.count then ({ v with count := v.count - 1 } :: vs, v.start) else loopBack pc vs
    else
      let r := loopBack pc vs
      (v :: r.1, r.2)

/-- A taken BR ends the levels whose body does not hold its target, innermost first (R92). -/
def loopBranch (t : Nat) : List LoopLevel → List LoopLevel
  | [] => []
  | v :: vs => if v.start ≤ t ∧ t ≤ v.stop then v :: vs else loopBranch t vs

/-- Where a bundle leads: the new pc, loop stack and return stack, and the addresses the check of R89 covers. -/
structure Flow where
  pc : Nat
  loops : List LoopLevel
  rstack : List Nat
  checks : List Nat
  deriving DecidableEq, Repr

/-- Control flow of a bundle. DESIGN CHOICE: a CALL whose target and return address both fail the check of R89 records the
target (log entry 108). The bundle has S1 word `w1`; `ends` says that its Y slot executes END (R72, R89 to R93). -/
def flowOf (l : LcSt) (w1 : Nat) (ends : Bool) : Flow :=
  let pc := l.pc
  let o := if l.executes w1 then opcOf w1 else 0
  let t := bits w1 49 37
  let cnt := if o = 0x43 then l.greg (bits w1 36 32) else bits w1 15 0
  let f : Flow :=
    match o with
    | 0x40 => ⟨t, loopBranch t l.loops, l.rstack, [t]⟩
    | 0x41 => ⟨t, l.loops, (pc + 1) :: l.rstack, [t, pc + 1]⟩
    | 0x42 =>
      let p := l.rstack.headD 0
      ⟨p, l.loops, l.rstack.tail, if l.rstack.isEmpty then [] else [p]⟩
    | 0x43 | 0x44 =>
      if cnt = 0 then ⟨t + 1, l.loops, l.rstack, [t + 1]⟩
      else ⟨pc + 1, { count := cnt, start := pc + 1, stop := t } :: l.loops, l.rstack, [pc + 1]⟩
    | _ =>
      let r := loopBack pc l.loops
      ⟨r.2, r.1, l.rstack, [r.2]⟩
  if ends then { f with checks := [] } else f

/-! ## Scalar results -/

/-- What the scalar slots have done so far: registers written, stores to make, and poisoned loads by slot, address and
destination (R80, R81, R102). -/
structure ScalarOut where
  l : LcSt
  stores : List (Nat × List Byte) := []
  poison : List (Nat × Nat × Nat) := []
  ue : List Nat := []
  deriving DecidableEq, Repr

/-- Write a g register; g0 discards (R63). -/
def LcSt.setG (l : LcSt) (n v : Nat) : LcSt :=
  if n = 0 then l else { l with g := l.g.setIfInBounds n (BitVec.ofNat 32 v) }

/-- Write an address register. -/
def LcSt.setA (l : LcSt) (n v : Nat) : LcSt := { l with a := l.a.setIfInBounds n (BitVec.ofNat 32 v) }

/-- Write a shape dimension, by 4 × register + dimension. -/
def LcSt.setDim (l : LcSt) (n v : Nat) : LcSt := { l with shp := l.shp.setIfInBounds n (BitVec.ofNat 16 v) }

/-- An executing scalar slot: operands from `l`, results into `o` (R64, R72 to R74, R80). -/
def scalarRun (c : CoreSt) (pcid slot : Nat) (l : LcSt) (w : Nat) (o : ScalarOut) : ScalarOut :=
  let op := opcOf w
  let rd := bits w 49 45
  let ra := l.greg (bits w 44 40)
  let an := bits w 49 46
  let rg := l.greg (bits w 45 41)
  let setG (v : Nat) : ScalarOut := { o with l := o.l.setG rd v }
  let load (n : Nat) (f : Nat → Nat) : ScalarOut :=
    match scalarAccess l w with
    | none => o
    | some (a, _) =>
      if c.mem.bad a n then { o with poison := o.poison ++ [(slot, a, rd)], ue := o.ue ++ c.mem.ueAddrs a n }
      else setG (f (c.mem.nat a n))
  let store (n : Nat) : ScalarOut :=
    match scalarAccess l w with
    | none => o
    | some (a, _) => { o with stores := o.stores ++ [(a, leBytes n (l.greg rd))] }
  if 1 ≤ op ∧ op ≤ 0x0F then setG (alu op ra (l.greg (bits w 39 35)))
  else if 0x11 ≤ op ∧ op ≤ 0x1F then setG (alu (op - 0x10) ra (bits w 31 0))
  else
    match op with
    | 0x20 => setG (bits w 31 0)
    | 0x21 => setG (sprRead c pcid l (bits w 39 32))
    | 0x22 => { o with l := { o.l with hatch := { o.l.hatch with rbase := l.greg rd % 32 } } }
    | 0x28 => load 1 fun v => ofS 32 (toS 8 v)
    | 0x29 => load 1 id
    | 0x2A => load 2 fun v => ofS 32 (toS 16 v)
    | 0x2B => load 2 id
    | 0x2C => load 4 id
    | 0x2D => store 1
    | 0x2E => store 2
    | 0x2F => store 4
    | 0x30 => { o with l := o.l.setA an rg }
    | 0x31 => { o with l := o.l.setA an ((l.areg an + rg) % 2 ^ 32) }
    | 0x32 => { o with l := o.l.setA an (ofS 32 ((l.areg an : Int) + toS 24 (bits w 23 0))) }
    | 0x33 => { o with l := o.l.setG (bits w 45 41) (l.areg an) }
    | 0x38 => { o with l := o.l.setDim (bits w 49 44) (l.greg (bits w 43 39) % 65536) }
    | 0x39 => { o with l := o.l.setDim (bits w 49 44) (bits w 15 0) }
    | 0x3A => { o with l := o.l.setG (bits w 43 39) (l.dim an (bits w 45 44)) }
    | _ => o

end Sys2Proof.Machine
end

