-- ==== Sys2Proof/Machine/Bundle.lean ====
section
/-! DEFINITION. BUNDLE_ISSUE, POISON_SCALAR and what a core fault does (R79 to R104, R130 to R135, R222 to R229,
R569). -/

namespace Sys2Proof.Machine

/-! ## Small device operations that core commands share -/

/-- A job by the scheduler's number. -/
def Dev.job? (d : Dev) (j : Nat) : Option Job := d.sch.jobs.find? fun x => x.num == j

/-- Change a job. -/
def Dev.modJob (d : Dev) (j : Nat) (f : Job → Job) : Dev :=
  { d with sch := { d.sch with jobs := d.sch.jobs.map fun x => if x.num = j then f x else x } }

/-- Ask the arbitration point to end a job (R408). -/
def Dev.askEnd (d : Dev) (j : Nat) (e : JobEnd) : Dev :=
  d.modJob j fun x => { x with ends := x.ends ++ [e] }

/-- The running logical core of core `c`. -/
def CoreSt.run (c : CoreSt) : LcSt := c.lcs.toList.getD c.runLc {}

/-- Replace the running logical core. -/
def CoreSt.setRun (c : CoreSt) (l : LcSt) : CoreSt := { c with lcs := c.lcs.setIfInBounds c.runLc l }

/-- The oldest entry of the event queue of core `c` is delivered; an ACCM_OVERCOMMIT that waits for a free entry takes
one (R95, R133). -/
def Dev.deliverEvt (d : Dev) (c : Nat) : Dev :=
  let x := d.core c
  match x.evq ++ x.ovc.toList with
  | [] => d
  | e :: l => (d.setCore c { x with evq := l, ovc := none }).post .core c 0x01 e.subtype c e.payload

/-- A fault of core `c`: CORE_FAULT and CORE_FAULT_INFO, the FAULT state with CORE_PC at the bundle, the event behind
those in the core's queue, and the request to end the job. Hatch results on their way, at most four cycles off, still
arrive; other operations that issued retire by their own commands (R102, R105, R190, R406). -/
def Dev.coreFault (d : Dev) (c slot code info pc : Nat) : Dev :=
  let x := d.core c
  let d := d.setReg .core c 0x108 (slot * 65536 + x.runLc * 256 + code)
  let d := d.setReg .core c 0x10C info
  let (h, m) := x.run.hatch.advance x.mem 4
  let d := (d.setCore c { (x.setRun { x.run with pc := pc, hatch := h }) with
    mem := m, state := 6, stall := 0, stallSince := none, govWait := none }).takeMerged c
  let d := ((x.evq ++ x.ovc.toList).foldl (fun d _ => d.deliverEvt c) d).post .core c 0x01 3 c
    (layout 20 [(0, 4, x.jobid), (4, 1, x.runLc), (5, 1, code), (6, 1, slot), (8, 4, info)])
  match x.job with
  | none => d
  | some j => d.askEnd j (.faulted code)

/-! ## The slew governor's charges (R567, R569) -/

/-- P and W of an operating point in units of 0.25 A (R567). -/
def pwrPW (point : Nat) : Nat × Nat :=
  match point with
  | 1 => (84, 13) | 2 => (66, 11) | 3 => (111, 18) | 4 => (118, 19) | _ => (104, 16)

/-- An open value below `n`, or 0, for a count that timing decides. -/
def Dev.drawBelow (d : Dev) (n : Nat) : Nat × Dev := let (v, d) := d.draw; (v % max 1 n, d)

/-- Charge of a pass in units of 0.05 A (R567). -/
def passCharge (point : Nat) (c : PassCmd) (k m : Nat) : Nat :=
  let e := if pairGroup c.fmov then 4 * k * m
    else if c.fmov = .s4 ∧ c.fsta = .s4 then ceilDiv k 2 * m else k * m
  5 * ceilDiv ((pwrPW point).1 * e) 16384

/-- Charge of a Wash command in units of 0.05 A (R567). -/
def washCharge (point : Nat) : Nat := 5 * (pwrPW point).2

/-- Operating point in force (R564). -/
def Dev.point (d : Dev) : Nat := d.fld .pwr 0 0x104 2 0

/-- Charges of the commands of core `c` that have issued and not retired; aborts and faults end charges at once
(R567, R570). -/
def Dev.running (d : Dev) (c : Nat) : Nat :=
  let x := d.core c
  if x.state = 6 ∨ x.state = 7 then 0
  else
    let p := d.point
    x.plate.passes.foldl (fun s r => s + passCharge p r.cmd r.k r.m) 0 +
      (x.wash.queue.length + b2n x.wash.exec.isSome) * washCharge p

/-- Charges of all cores. -/
def Dev.runningAll (d : Dev) : Nat := (List.range 8).foldl (fun s c => s + d.running c) 0

/-- Order of placement of the job on core `c` (R569). -/
def Dev.orderOf (d : Dev) (c : Nat) : Nat :=
  (((d.core c).job.bind d.job?).map (·.order)).getD 0

/-- Charge of the bundle's P and W slots (R567). -/
def bundleCharge (point : Nat) (c : CoreSt) (l : LcSt) (ws : List Nat) : Nat :=
  let p := ws.getD 3 0
  let w := ws.getD 4 0
  let cp := passOf p
  let s := passShape l cp
  (if l.executes p && opcOf p == 1 && s.n != 0 then passCharge point cp s.k s.m else 0) +
  (if l.executes w && !(washOf c l w).1.noop then washCharge point else 0)

/-- The governor condition of R79: the charge fits below the level, and no bundle served earlier is stalled. -/
def Dev.govOk (d : Dev) (c charge : Nat) : Bool :=
  charge == 0 ||
  (decide (d.runningAll + charge ≤ d.fld .pwr 0 0x10C 12 0) &&
    !((List.range 8).any fun e => e != c && (d.core e).govWait.isSome &&
      (decide (d.orderOf e < d.orderOf c) || (d.orderOf e == d.orderOf c && decide (e < c)))))

/-! ## Issue conditions (R79, R82, R84, R95, R203, R204, R218, R222) -/

/-- Has every operation of the running logical core retired (R96, END)? -/
def CoreSt.retired (c : CoreSt) (l : LcSt) : Bool :=
  c.plate.passes.isEmpty && c.wash.exec.isNone && c.wash.queue.isEmpty && c.htb.isEmpty && l.hatch.pend.isEmpty &&
    l.gln.allIdle && c.poisonLoads.isEmpty

/-- Does the FENCE of a Y word hold (R78, R229)? -/
def fenceOk (c : CoreSt) (l : LcSt) (y : Nat) : Bool :=
  (!bit y 49 || l.gln.allIdle) && (!bit y 48 || c.plate.passes.isEmpty) &&
  (!bit y 47 || (c.wash.exec.isNone && c.wash.queue.isEmpty)) &&
  (!bit y 46 || (c.htb.isEmpty && l.hatch.pend.isEmpty)) && (!bit y 45 || c.poisonLoads.isEmpty)

/-- Footprint tiles on which a NEW pass is refused (R131, R133). -/
def ovcConflict (c : CoreSt) (l : LcSt) (p : Nat) : List Nat :=
  let cp := passOf p
  let s := passShape l cp
  if l.executes p && opcOf p == 1 && s.n != 0 && !cp.acc then c.plate.conflict (footprint cp.tb s.n) else []

/-- Does an HACS of the bundle wait for an HTB (R204)? -/
def hacsWaits (c : CoreSt) (l : LcSt) (ws : List Nat) : Bool :=
  ([5, 6].any fun i => l.executes (ws.getD i 0) && opcOf (ws.getD i 0) == 0x21) &&
    c.htb.any fun t => t.lc == c.runLc && t.needs l.hatch.tbw

/-- Stall codes of the conditions that do not hold, but for the register interlock and a frozen Hatch (R79, R105). `free k` says that
semaphore `k` may be taken, `asked` that pre-emption of the job is requested: its LBAR then waits to be pre-empted (R404). -/
def stallCodes (c : CoreSt) (l : LcSt) (ws : List Nat) (free : Nat → Bool) (asked govOk : Bool) : List Nat :=
  let w (i : Nat) := ws.getD i 0
  let on (i o : Nat) : Bool := l.executes (w i) && opcOf (w i) == o
  let cp := passOf (w 3)
  let pass := on 3 1 && (passShape l cp).n != 0
  let x := l.gln.desc (bits (w 2) 49 45)
  let y := w 7
  (if pass && decide (2 ≤ c.plate.places cp) then [2] else []) ++
  (if l.executes (w 4) && !(washOf c l (w 4)).1.noop && decide (4 ≤ c.wash.queue.length) then [3] else []) ++
  (if ((on 5 0x22 || on 6 0x22) && decide (2 ≤ c.htb.length)) || hacsWaits c l ws then [4] else []) ++
  (if (on 2 0x04 && l.gln.pool == some (bits (w 2) 49 45) && !l.gln.lent.isEmpty) ||
      (on 2 0x05 && !((x.state == 0 || x.state == 3) && x.pend.isNone)) ||
      (on 2 0x06 && decide (4 ≤ l.gln.stile.length)) then [5] else []) ++
  (if (on 7 1 && (tokQueues y).any fun q => l.gln.tokenCount q == 0) ||
      (pass && (passQueues cp).any fun q => l.gln.tokenCount q == 0) then [6] else []) ++
  (if on 7 4 && l.semGot != some (bits y 49 44) && !free (bits y 49 44) then [7] else []) ++
  (if on 7 3 && (!l.released || asked) then [8] else []) ++
  (if (on 7 2 && !fenceOk c l y) || (on 7 8 && !c.retired l) then [9] else []) ++
  (if (ovcConflict c l (w 3)).isEmpty then [] else [0xA]) ++
  (if govOk then [] else [0xB]) ++
  (if on 7 7 && decide (4 ≤ c.evq.length) then [0xC] else [])

/-! ## Effects of an issuing bundle -/

/-- Rings relaid and outbound buffers offered after a change of the Gleaner (R217, R221, R223). -/
def GlnSt.settle (g : GlnSt) : GlnSt := { g with descs := g.descs.map fun x => x.relay.offer }

/-- Executing G slot: operands from `l`, results into `t` (R75, R222 to R227, R235). -/
def gRun (d : Dev) (c : Nat) (l : LcSt) (w : Nat) (t : LcSt) : LcSt × Dev :=
  let ds := bits w 49 45
  let g := t.gln
  match opcOf w with
  | 0x01 => ({ t with gln := g.modDesc ds fun x => x.write (bits w 39 36) (l.greg (bits w 44 40)) }, d)
  | 0x02 => (t.setG (bits w 44 40) ((l.gln.desc ds).read (bits w 39 36)), d)
  | 0x03 =>
    let (x, ovr) := (g.desc ds).arm
    let g := g.modDesc ds fun _ => x
    ({ t with gln := (g.takePool ds).settle }, if ovr then (d.bump .gln c 0x108 1).sticky .gln c 0 else d)
  | 0x04 =>
    if g.pool = some ds then
      ({ t with gln := { (g.modDesc ds fun x => { x with state := 0, pend := none }) with pool := none } }, d)
    else ({ t with gln := (g.modDesc ds DescSt.stop).settle }, d)
  | 0x05 =>
    let (g, n) := g.qbind (bits w 35 32) ds
    ({ t with gln := g.settle }, if n = 0 then d else (d.bump .gln c 0x114 n).sticky .gln c 3)
  | 0x06 =>
    let p := (l.gln.desc ds).prog
    ({ t with gln := { g with stile := g.stile ++ [{ ext := dExt p, loc := dw p 3, len := dDim p 0, out := dOut p,
                                                     stamp := (d.core c).issued }] } },
      d)
  | _ => (t, d)

/-- Executing P slot (R114 to R120, R130, R131, R135). -/
def pRun (d : Dev) (c : Nat) (l : LcSt) (w : Nat) (x : CoreSt) (t : LcSt) : CoreSt × LcSt × Dev :=
  match opcOf w with
  | 0x01 =>
    let cp := passOf w
    let s := passShape l cp
    if s.n = 0 then (x, t, d.bump .plt c 0x114 1)
    else
      let b := passBases l cp
      let id := x.plate.nextId
      let r : PassRec :=
        { id := id, lc := x.runLc, pc := l.pc, cmd := cp, n := s.n, k := s.k, m := s.m, stride := s.stride,
          baseM := b.1, baseS := b.2, ao := l.areg cp.ao, slot := x.plate.slots.toList.getD cp.pcs .reset,
          seq := t.wideOps, stamp := x.issued }
      let pl := x.plate.claim (footprint cp.tb s.n) cp.acc cp.rel id
      let g := (passQueues cp).foldl (fun g q => g.pop q x.issued) t.gln
      ({ x with plate := { pl with passes := pl.passes ++ [r], nextId := id + 1 } },
       { t with gln := g, clipped := t.clipped || s.clipped, wideOps := t.wideOps + b2n cp.wide },
       if s.clipped then d.sticky .core c 0 else d)
  | 0x02 =>
    let bs := x.mem.spad.read (l.areg (bits w 37 34)) 64
    let bad := x.mem.spad.badRange (l.areg (bits w 37 34)) 64 || pcBad bs
    let d := d.spdUe c (x.mem.spad.ueAddrs 0 (l.areg (bits w 37 34)) 64)
    ({ x with plate := { x.plate with slots := x.plate.slots.setIfInBounds (bits w 33 32) { desc := bs, bad := bad } } },
     t, if bad then d.sticky .plt c 3 else d)
  | 0x03 => ({ x with plate := x.plate.prel (bits w 37 22) }, t, d)
  | _ => (x, t, d)

/-- Executing W slot (R77, R87, R88, R159, R174). -/
def wRun (d : Dev) (c : Nat) (l : LcSt) (w : Nat) (x : CoreSt) (t : LcSt) : CoreSt × LcSt × Dev :=
  let (cmd, clip) := washOf x l w
  if cmd.noop then (x, t, d.bump .wsh c 0x108 1)
  else
    ({ x with wash := { x.wash with queue := x.wash.queue ++ [{ cmd with seq := t.wideOps, stamp := x.issued }] } },
     { t with clipped := t.clipped || clip, wideOps := t.wideOps + b2n cmd.wide },
     if clip then d.sticky .core c 0 else d)

/-- The executing H slots, H0 then H1; an access of more than one cycle freezes the core for the others (R184 to R205). -/
def hRun (d : Dev) (c : Nat) (l : LcSt) (ws : List Nat) (x : CoreSt) (t : LcSt) : CoreSt × LcSt × Dev :=
  let act := [5, 6].filter fun i => l.executes (ws.getD i 0)
  let cmd (i : Nat) := HCmd.ofSlot (ws.getD i 0)
  let seen := l.hatch.memSeen x.mem
  let cycles := act.foldl (fun n i => max n (accessCycles ((cmd i).touched (hGen l ws (i == 6))))) 1
  let ue := act.foldl (fun n i =>
    match (cmd i).opc, (cmd i).access with
    | 0x01, some (k, z) | 0x20, some (k, z) =>
      n ++ ((List.range k).flatMap fun j => beatsOf ((hGen l ws (i == 6)).addr z j) z).eraseDups.flatMap fun b =>
        seen.ueAddrs (64 * b) 64
    | 0x05, _ => n ++ seen.ueAddrs ((hGen l ws (i == 6)).addr 1 0) 64
    | _, _ => n) []
  let o := act.foldl (fun (o : HOut) i =>
    (cmd i).run l.hatch x.mem (hGen l ws (i == 6)) (l.greg (bits (cmd i).x 4 0)) x.runLc l.pc x.issued o)
    { st := { t.hatch with rbase := l.hatch.rbase } }
  let rot := act.any fun i => (cmd i).rot
  let st := { o.st with rbase := if rot then (l.hatch.rbase + 31) % 32 else t.hatch.rbase }
  let d := (d.bump .hch c 0x104 act.length).bump .hch c 0x10C o.norm
  let d := if 0 < o.norm then d.sticky .hch c 1 else d
  let d := (d.num .hch c o.ev).spdUe c ue
  let d := match o.poisoned with
    | none => d
    | some opc =>
      let d := d.sticky .hch c 0
      if d.flag .hch c 0x118 31 then d
      else d.setReg .hch c 0x118 (2 ^ 31 + opc * 65536 + x.runLc * 8192 + l.pc)
  ({ x with htb := x.htb ++ o.htb.toList, freeze := cycles - 1 }, { t with hatch := st }, d)

/-- Is it the barrier instance `seq` of job `j` that still waits for members, or with `full` one that every member has
reached? Such a one is released and its SEQ free for use again, though BARRIER_RELEASE is still to come (R96, R98). -/
def BarSt.at (b : BarSt) (j seq : Nat) (full : Bool) : Bool :=
  b.job == j && b.seq == seq && ((b.arrived == b.members) == full)

/-- A barrier instance of a job. -/
def Dev.bar? (d : Dev) (j seq : Nat) (full : Bool) : Option BarSt := d.bars.find? (·.at j seq full)

/-- Hosted logical cores that have not ended, but for `lc`. -/
def CoreSt.others (x : CoreSt) (lc : Nat) : List Nat :=
  (bitList 8 x.hosted).filter fun k => k != lc && !(x.lcs.toList.getD k {}).ended

/-- The next hosted logical core in ascending order, wrapping, that has not ended (R99). -/
def CoreSt.nextLc (x : CoreSt) (lc : Nat) : Option Nat :=
  ((rangeFrom 1 7).map fun i => (lc + i) % 8).find? fun k => (x.others lc).contains k

/-- Arrival of the running logical core at a barrier instance, once its operations have retired (R96, R98, R99). -/
def Dev.arrive (d : Dev) (c members seq : Nat) : Dev :=
  let x := d.core c
  let l := x.run
  let j := x.job.getD 0
  let me := 2 ^ x.runLc
  let bad := match d.bar? j seq false with
    | none => false
    | some b => b.members != members || bit b.arrived x.runLc
  if bad then d.coreFault c 7 0x10 seq l.pc
  else
    let bars := match d.bar? j seq false with
      | none => d.bars ++ [{ job := j, seq := seq, members := members, arrived := me }]
      | some _ => d.bars.map fun b => if b.at j seq false then { b with arrived := b.arrived ||| me } else b
    { d with bars := bars }.setCore c
      { (x.setRun { l with barrier := some seq }) with switchTo := x.nextLc x.runLc }

/-- Effect of the Y slot of an issuing bundle (R78, R85, R94, R95, R99). -/
def yRun (d : Dev) (c : Nat) (l : LcSt) (y : Nat) (x : CoreSt) (t : LcSt) : CoreSt × LcSt × Dev :=
  let j := x.job.getD 0
  let k := bits y 49 44
  let s := d.sems.toList.getD k {}
  let take (d : Dev) : Dev :=
    { d with sems := d.sems.setIfInBounds k { s with holder := some (j, x.runLc, c), since := d.tim.tick } }
  match opcOf y with
  | 0x01 => (x, { t with gln := (bitList 16 (bits y 33 18)).foldl (fun g q => g.pop q x.issued) t.gln }, d)
  | 0x03 => (x, { t with barrier := none, released := false }, d)
  | 0x04 => if l.semGot = some k then (x, { t with semGot := none, semWait := none }, d) else (x, t, take d)
  | 0x05 => (x, t, { d with sems := d.sems.setIfInBounds k { s with holder := none } })
  | 0x06 =>
    if s.holder.isNone && s.waiters.isEmpty then (x, t.setG (bits y 43 39) 1, take d)
    else (x, t.setG (bits y 43 39) 0, d)
  | 0x07 =>
    ({ x with evq := x.evq ++ [{ subtype := 1, payload := layout 20 [(0, 4, x.jobid), (4, 1, x.runLc), (6, 2, bits y 49 34)] }] },
     t, d)
  | 0x08 => (x, { t with ended := true }, d)
  | _ => (x, t, d)

/-- After END: the job's mask of ended logical cores, its completion, and the next hosted logical core (R99, R406). -/
def Dev.afterEnd (d : Dev) (c : Nat) : Dev :=
  let x := d.core c
  let d := match x.nextLc x.runLc with
    | some k => d.setCore c { x with switchTo := some k, state := 3, stall := 8, stallSince := some d.tim.tick }
    | none => d.setCore c { x with state := 5, stall := 0 }
  match x.job with
  | none => d
  | some j =>
    let d := d.modJob j fun b => { b with endMask := b.endMask ||| 2 ^ x.runLc }
    match d.job? j with
    | none => d
    | some b => if b.endMask &&& x.lmask = x.lmask then d.askEnd j .completed else d

/-- Every executing slot of the bundle issues (R79, R80). -/
def Dev.issueAll (d : Dev) (c : Nat) (ws : List Nat) : Dev :=
  let x := d.core c
  let l := x.run
  let w (i : Nat) := ws.getD i 0
  let ends := l.executes (w 7) && opcOf (w 7) == 8
  let f := flowOf l (w 1) ends
  let so := [0, 1].foldl (fun (o : ScalarOut) i =>
    if l.executes (w i) then scalarRun x c i l (w i) o else o) { l := l }
  let mem := so.stores.foldl (fun m s => m.store s.1 s.2 false) x.mem
  let d := d.spdUe c so.ue
  let t := { so.l with pc := if ends then l.pc else f.pc, loops := f.loops, rstack := f.rstack, ovcWait := false }
  let (t, d) := if l.executes (w 2) then gRun d c l (w 2) t else (t, d)
  let (x1, t, d) := if l.executes (w 3) then pRun d c l (w 3) x t else (x, t, d)
  let (x1, t, d) := if l.executes (w 4) then wRun d c l (w 4) x1 t else (x1, t, d)
  let (x1, t, d) := hRun d c l ws x1 t
  let (x1, t, d) := if l.executes (w 7) then yRun d c l (w 7) x1 t else (x1, t, d)
  let x1 := { x1 with
    mem := mem, state := 2, stall := 0, stallSince := none, govWait := none, issued := x.issued + 1
    poisonLoads := x1.poisonLoads ++ so.poison.map fun (p : Nat × Nat × Nat) => (l.pc, p) }
  let d := (d.setCore c (x1.setRun { t with gln := t.gln.settle })).takeMerged c
  if ends then d.afterEnd c else d

/-- The bundle holds with STALL `code`, and nothing of it is looked at: while Hatch is frozen, or while a register it reads
waits for its load (R79, R105, R193). -/
def Dev.holdBlind (d : Dev) (c code : Nat) : Dev :=
  d.modCore c fun x => { x with
    state := 3, stall := code, stallSince := some (x.stallSince.getD d.tim.tick), govWait := none }

/-- A SEMACQ request in the order of R409: by its tick, then by its physical core. -/
def joinWaiters (w : Nat × Nat × Nat × Nat) (l : List (Nat × Nat × Nat × Nat)) : List (Nat × Nat × Nat × Nat) :=
  let (a, b) := l.span fun v => decide (v.2.2.2 < w.2.2.2) || (v.2.2.2 == w.2.2.2 && decide (v.2.2.1 < w.2.2.1))
  a ++ w :: b

/-- The bundle holds: STALL shows the lowest condition, a refusal of R133 and a waiting HACS are recorded, a SEMACQ
joins the waiters, and a bundle stalled on the governor waits there (R79, R94, R105, R133, R204, R569). -/
def Dev.hold (d : Dev) (c : Nat) (ws : List Nat) (codes : List Nat) (charge cc : Nat) : Dev :=
  let x := d.core c
  let l := x.run
  let y := ws.getD 7 0
  let k := bits y 49 44
  let gov := codes == [0xB]
  let d := if gov then d.bump .pwr 0 0x118 cc else d
  let x := { x with
    state := 3, stall := codes.headD 0
    stallSince := some (x.stallSince.getD d.tim.tick)
    govWait := if gov then some charge else none }
  let conf := ovcConflict x l (ws.getD 3 0)
  let d := if hacsWaits x l ws then d.sticky .hch c 2 else d
  let (x, d) :=
    if conf.isEmpty || l.ovcWait then (x, d)
    else
      let m := conf.foldl (fun n t => n + 2 ^ t) 0
      let d := ((d.bump .plt c 0x108 1).setReg .plt c 0x10C (x.runLc * 2 ^ 29 + l.pc * 65536 + m)).sticky .plt c 1
      let e : CoreEvt :=
        { subtype := 2, payload := layout 20 [(0, 4, x.jobid), (4, 1, x.runLc), (6, 2, l.pc), (8, 2, m)] }
      let x := x.setRun { l with ovcWait := true }
      (if x.evq.length < 4 then { x with evq := x.evq ++ [e] } else { x with ovc := some e }, d)
  let acq := l.executes y && opcOf y == 4 && l.semGot != some k
  if acq && codes.contains 7 && l.semWait.isNone then
    let s := d.sems.toList.getD k {}
    { d with sems := d.sems.setIfInBounds k { s with
        waiters := joinWaiters (x.job.getD 0, x.runLc, c, d.tim.tick) s.waiters } }.setCore c
      (x.setRun { x.run with semWait := some k })
  else d.setCore c x

/-- Soft errors that the environment reports with a bundle: an uncorrectable IMEM word in it, corrected SPAD or ACCM
reads, and core-local addresses whose beat has become uncorrectable (R66, R422). -/
structure SoftErr where
  imem : Bool := false
  corrected : Nat := 0
  bad : List Nat := []
  deriving DecidableEq, Repr

/-- Mark a core-local beat uncorrectable. -/
def CoreMem.markUe (m : CoreMem) (a : Nat) : CoreMem :=
  if accmBase ≤ a then { m with accm := { m.accm with ue := insertSorted ((a - accmBase) / 8) m.accm.ue } }
  else { m with spad := { m.spad with ue := insertSorted (a / 8) m.spad.ue } }

/-- Soft errors of the arrays of core `c`, whatever the core does (R422). -/
def Dev.softErrors (d : Dev) (c : Nat) (e : SoftErr) : Dev :=
  let d := if e.bad.isEmpty then d
    else d.modCore c fun x => { x with mem := e.bad.foldl (fun m a => m.markUe a) x.mem }
  if e.corrected = 0 then d else (d.bump .spd c 0x100 e.corrected).sticky .spd c 0

/-- Of `cc` cycles, those with Hatch frozen: the `frozen` that the environment reports, and at least what the accesses that
have issued take beyond their first cycle (R193, R197). -/
def CoreSt.frozenOf (x : CoreSt) (cc frozen : Nat) : Nat := min cc (max frozen x.freeze)

/-- Is Hatch frozen in the present cycle, the last of the `cc`? The frozen cycles come first, so it is when all of them are
(R193). -/
def CoreSt.frozenNow (x : CoreSt) (cc frozen : Nat) : Bool :=
  if cc = 0 then decide (0 < x.freeze) else decide (x.frozenOf cc frozen = cc)

/-- `cc` cycles pass on a core in RUN or STALL (R74, R105, R190, R193). -/
def Dev.passCycles (d : Dev) (c cc frozen : Nat) : Dev :=
  let x := d.core c
  let fz := x.frozenOf cc frozen
  let (h, m) := x.run.hatch.advance x.mem (cc - fz)
  let x := { (x.setRun { x.run with hatch := h, cyc := (x.run.cyc + cc) % 2 ^ 64 }) with
    mem := m, cyc := (x.cyc + cc) % 2 ^ 64, freeze := x.freeze - cc }
  ((d.setCore c x).takeMerged c).bump .hch c 0x108 fz

/-- Capture of a failed DARM check (R226, R241). -/
def Dev.armErr (d : Dev) (c : Nat) (w : Nat) : Dev :=
  let x := d.core c
  let l := x.run
  let ds := bits w 49 45
  let y := l.gln.desc ds
  match dArmCheck y.prog y.bound.isSome l.gln.hasPool (w % 2 ^ 32) with
  | none => d
  | some (_, word, _) =>
    if d.flag .gln c 0x118 31 then d
    else d.setReg .gln c 0x118 (2 ^ 31 + x.runLc * 2 ^ 28 + ds * 2 ^ 23 + word * 2 ^ 19 + l.pc)

/-- PC_RANGE: a next pc of the bundle at or beyond L (R89). -/
def rangeFaults (l : LcSt) (ws : List Nat) (len : Nat) : List SlotFault :=
  let y := ws.getD 7 0
  match (flowOf l (ws.getD 1 0) (l.executes y && opcOf y == 8)).checks.find? fun a => decide (len ≤ a) with
  | some a => [⟨15, 0x07, a⟩]
  | none => []

/-- Does the bundle read a register whose load will return poisoned (R79)? -/
def CoreSt.interlocked (x : CoreSt) (l : LcSt) (ws : List Nat) : Bool :=
  let reads := ws.zipIdx.flatMap fun p => slotReads l p.2 p.1
  x.poisonLoads.any fun p => reads.contains p.2.2.2

/-- Bundle `ws` of core `c` faults with `f`; a failed DARM check is captured (R102, R226). -/
def Dev.bundleFault (d : Dev) (c : Nat) (ws : List Nat) (enc : List SlotFault) (f : SlotFault) : Dev :=
  let arm := f.slot = 2 && opcOf (ws.getD 2 0) == 0x03 && !(enc.any fun e => e.slot == 2)
  (if arm then d.armErr c (ws.getD 2 0) else d).coreFault c f.slot f.code f.info (d.core c).run.pc

/-- The bundle at the pc of core `c` is tried: it faults, holds, arrives at its barrier, or issues whole (R79, R96,
R102). Encoding, colliding writes and a pointless wait fault at once; what R73, R89, R112 and R161 check as the bundle would
issue faults when it would. Operand values have a meaning only in slots that decode. DESIGN CHOICE: a bundle with a slot
fault is checked for PC_RANGE as well, with the S1 and Y words as they stand, and PC_RANGE then goes before (log entry 23). -/
def Dev.tryBundle (d : Dev) (c cc : Nat) (imemBad : Bool) : Dev :=
  let x := d.core c
  let l := x.run
  let ws := slotsOf x.imem l.pc
  if imemBad then d.coreFault c 15 0x12 l.pc l.pc
  else
    let enc := encFaults l.pc ws
    if x.interlocked l ws then
      match pickFault enc with
      | some f => d.bundleFault c ws enc f
      | none => d.holdBlind c 1
    else
      let vs := ws.zipIdx.map fun p => if enc.any fun f => f.slot == p.2 then 0 else p.1
      let value := valueFaults x l d.sems.toList vs
      let all := enc ++ value ++ dualFaults l ws ++ rangeFaults l ws (x.image.toList.getD x.runLc {}).len
      let now := !enc.isEmpty || !(dualFaults l ws).isEmpty || value.any (·.atOnce)
      let y := ws.getD 7 0
      let free (k : Nat) : Bool := let s := d.sems.toList.getD k {}; s.holder.isNone && s.waiters.isEmpty
      let charge := bundleCharge d.point x l vs
      let asked := ((x.job.bind d.job?).map fun j => !j.asks.isEmpty).getD false
      let codes := stallCodes x l vs free asked (d.govOk c charge)
      match if now || codes.isEmpty then pickFault all else none with
      | some f => d.bundleFault c ws enc f
      | none =>
        if l.executes y && opcOf y == 3 && l.barrier.isNone && x.retired l then
          (d.hold c ws codes charge cc).arrive c (bits y 49 42) (bits y 41 34)
        else if codes.isEmpty then d.issueAll c ws
        else d.hold c ws codes charge cc

/-- BUNDLE_ISSUE: core `c` tries its bundle `cc` cycles after its last command, with Hatch frozen in `frozen` of them
(R79). A core that runs nothing, or whose logical core waits to be switched out, tries none, and none issues while Hatch is
frozen (R99, R193). Soft errors fall in whatever the core does. -/
def effBundleIssue (c cc frozen : Nat) (e : SoftErr) (d : Dev) : Dev :=
  let x := d.core c
  let d := d.softErrors c e
  if x.state ≠ 2 ∧ x.state ≠ 3 then d
  else
    let d := d.passCycles c cc frozen
    if x.switchTo.isSome then d
    else if x.frozenNow cc frozen then d.holdBlind c 4
    else d.tryBundle c cc e.imem

/-- POISON_SCALAR: the poisoned beat of the oldest such load of core `c` returns (R73, R102). -/
def effPoisonScalar (c : Nat) (d : Dev) : Dev :=
  let x := d.core c
  match x.poisonLoads with
  | [] => d
  | (pc, slot, a, _) :: _ =>
    if x.state = 6 ∨ x.state = 7 then d
    else (d.setCore c { x with poisonLoads := [] }).coreFault c slot 0x13 a pc

end Sys2Proof.Machine
end

