-- ==== Sys2Proof/Machine/CoreEv.lean ====
section
/-! DEFINITION. What the units of a core do after issue: plate passes, Wash commands and tracebacks start and retire,
tiles become free, barriers are released, semaphores granted, logical cores switched, WIDE totals delivered (R94 to
R100, R118, R121 to R139, R174, R203, R409, R502 to R506). -/

namespace Sys2Proof.Machine

/-- Capacity of the WIDE buffer of a physical core in 64-bit elements (R503). -/
def wideRoom : Nat := 8192

/-- Elements of a contribution (R503). -/
def WideEntry.size (e : WideEntry) : Nat :=
  match e.pass, e.wash with
  | some p, _ => p.n * p.m
  | none, some w => w.r * (if w.fa.isComplex && w.opc != 0x45 then 2 else 1)
  | none, none => 0

/-- Keep a contribution of logical core `lc`, or mark it lost where the buffer of the core is full (R503, R506). -/
def CoreSt.deposit (x : CoreSt) (lc : Nat) (e : WideEntry) : CoreSt × Bool :=
  let used := x.lcs.toList.foldl (fun n l => n + ((l.wide.filter fun w => !w.lost).map WideEntry.size).foldl (· + ·) 0) 0
  let full := decide (wideRoom < used + e.size)
  let l := x.lcs.toList.getD lc {}
  ({ x with lcs := x.lcs.setIfInBounds lc { l with wide := l.wide ++ [if full then { e with lost := true, words := [], parts := [] } else e] } },
   full)

/-- PASS_START: the pass of a half that is next reaches its start cycle (R121, R125, R127). PLT_ROW_CYC counts the cycles
of its moving rows; with a pass in the other tandem half, how many of them a row of that half shares is timing and open
(R151; log 109). -/
def effPassStart (c : Nat) (half : Bool) (d : Dev) : Dev :=
  let x := d.core c
  match x.plate.startable half with
  | none => d
  | some p =>
    let (shared, d) := if x.plate.passes.any fun q => decide (q.phase = .array) && q.apart p then d.drawBelow (p.n + 1)
      else (0, d)
    ((d.setCore c { x with plate := x.plate.start half x.mem.spad }).bump .plt c 0x124 (p.n - shared)).spdUe c
      (p.captureUe x.mem.spad)

/-- Record a poisoned pass; where the poison came by no source of R139 that the pass itself met, SOURCE is a free value
(R139, R141, R151; log 15). -/
def Dev.passPoison (d : Dev) (c : Nat) (p : PassRec) (src : List Nat) : Dev :=
  let d := (d.bump .plt c 0x118 1).sticky .plt c 2
  let d := if src.contains 3 then d.sticky .plt c 0 else d
  if d.flag .plt c 0x11C 31 then d
  else
    let (s, d) := match src.mergeSort with
      | [] => d.draw
      | s :: _ => (s, d)
    d.setReg .plt c 0x11C
      (2 ^ 31 + s % 16 * 2 ^ 24 + b2n (p.cmd.tand && p.cmd.half) * 2 ^ 23 + p.lc * 2 ^ 20 + p.pc)

/-- Is nothing in flight on a core: no operation, no Gleaner run and no Stile transfer (R102, R407)? -/
def CoreSt.still (x : CoreSt) : Bool :=
  x.plate.passes.isEmpty && x.wash.exec.isNone && x.wash.queue.isEmpty && x.htb.isEmpty &&
    x.lcs.toList.all fun l => l.hatch.pend.isEmpty && l.gln.allIdle

/-- A core whose job has ended becomes free once what it has in flight has completed; what an abort or a fault leaves in
SPAD and ACCM is undefined (R407). IMEM and the event queue stay; a core in FAULT shows FAULT and the faulting bundle until
the next job is placed (R102, R105; DEDUCED, log 12). -/
def Dev.freeCore (d : Dev) (c : Nat) : Dev :=
  let x := d.core c
  if x.ending && x.still then
    let lcs : Vector LcSt 8 := Vector.replicate 8 {}
    { d.setCore c { state := if x.state = 6 then 6 else 0, runLc := if x.state = 6 then x.runLc else 0,
                    lcs := if x.state = 6 then lcs.setIfInBounds x.runLc { pc := x.run.pc } else lcs,
                    imem := x.imem, loaded := x.loaded, evq := x.evq, ovc := x.ovc, cyc := x.cyc,
                    mem := if x.wipe then { spad := Mem.undefined d.fresh, accm := Mem.undefined (d.fresh + 1) } else x.mem,
                    plate := { ballast := x.plate.ballast } } with
      fresh := d.fresh + 2 * b2n x.wipe }
  else d

/-- PASS_RETIRE: the oldest started pass of a half writes its sums and, draining, its output rows; `parity` lists the
columns in which a PE stationary parity error fell (R109, R122, R139, R142, R503). -/
def effPassRetire (c : Nat) (half : Bool) (parity : List Nat) (d : Dev) : Dev :=
  let x := d.core c
  match x.plate.oldest half with
  | none => d
  | some p =>
    let o := p.run parity x.mem.spad x.mem.accm
    let x1 := { x with
      mem := { x.mem with spad := o.spad, accm := o.accm }
      plate := { x.plate with passes := x.plate.passes.filter fun q => q.id ≠ p.id } }
    let (x1, lost) :=
      if p.cmd.wide then x1.deposit p.lc { seq := p.seq, pass := some p, words := p.accmRows o.accm, src := o.src } else (x1, false)
    let d := (((d.setCore c x1).bump .plt c 0x110 1).num .plt c o.ev).spdUe c o.ue
    let d := if lost then d.sticky .det 0 2 else d
    (if o.poisoned || (p.cmd.drain && p.slot.bad) then d.passPoison c p o.src else d).freeCore c

/-- TILE_FREE: a releasing tile becomes FREE (R118, R132). -/
def effTileFree (c t : Nat) (d : Dev) : Dev := d.modCore c fun x => { x with plate := x.plate.free t }

/-- WASH_COMMAND_START: the next queued command starts once none executes (R174). -/
def effWashStart (c : Nat) (d : Dev) : Dev :=
  let x := d.core c
  match x.wash.exec, x.wash.queue with
  | none, w :: q => d.setCore c { x with wash := { x.wash with exec := some w, queue := q } }
  | _, _ => d

/-- WASH_COMMAND_RETIRE: the executing command has written its last result; a WIDE one leaves its partials (R174, R177,
R179, R503). -/
def effWashRetire (c : Nat) (d : Dev) : Dev :=
  let x := d.core c
  match x.wash.exec with
  | none => d
  | some w =>
    let x1 := { x with wash := { x.wash with exec := none } }
    if w.wide then
      let ps := (List.range w.r).map fun k => w.widePart x.mem k
      let ev := ps.foldl (fun e p => e.add p.2.1) ({} : NumEv)
      let (x1, lost) := x1.deposit w.lc { seq := w.seq, wash := some w, parts := ps.map fun p => (p.1, p.2.2) }
      let d := (((d.setCore c x1).bump .wsh c 0x104 1).num .wsh c ev).spdUe c (w.ue x.mem)
      (if lost then d.sticky .det 0 2 else d).freeCore c
    else
      let o := w.run x.mem
      let d := ((d.setCore c { x1 with mem := o.mem }).bump .wsh c 0x104 1).num .wsh c o.ev
      let d := ((d.bump .wsh c 0x10C o.empty).bump .wsh c 0x110 o.oor).bump .wsh c 0x114 o.dom
      let d := if 0 < o.empty then d.sticky .wsh c 0 else d
      let d := if 0 < o.oor then d.sticky .wsh c 1 else d
      let d := if 0 < o.dom then d.sticky .wsh c 2 else d
      let d := ((d.spdUe c o.ue).takeMerged c).freeCore c
      if !o.poisoned then d
      else
        let d := d.sticky .wsh c 3
        if d.flag .wsh c 0x11C 31 then d
        else d.setReg .wsh c 0x11C (2 ^ 31 + w.opc * 65536 + w.lc * 8192 + w.pc)

/-- HTB_START: the waiting traceback starts and walks (R202, R203). -/
def effHtbStart (c : Nat) (d : Dev) : Dev :=
  let x := d.core c
  match x.htb with
  | t :: ts =>
    if t.started then d
    else d.setCore c { x with htb := { t.walk (x.lcs.toList.getD t.lc {}).hatch with started := true } :: ts }
  | [] => d

/-- HTB_RETIRE: the running traceback has written its last byte (R202, R203, R205). -/
def effHtbRetire (c : Nat) (d : Dev) : Dev :=
  let x := d.core c
  match x.htb with
  | t :: ts =>
    if !t.started then d
    else
      let m := x.mem.putCells ((t.addrs.zip t.out).map fun a => (a.1, [a.2], t.pois))
      let d := (((d.setCore c { x with mem := m, htb := ts }).bump .hch c 0x110 1).takeMerged c).freeCore c
      if t.pois && !t.addrs.isEmpty then
        let d := d.sticky .hch c 0
        if d.flag .hch c 0x118 31 then d
        else d.setReg .hch c 0x118 (2 ^ 31 + 0x22 * 65536 + t.lc * 8192 + t.pc)
      else d
  | [] => d

/-! ## WIDE totals (R504 to R506) -/

/-- Combination across slots: neighbours level by level, an unpaired last value passing up (R504). -/
def levels {α : Type} (f : α → α → α) : Nat → List α → Option α
  | 0, l => l.head?
  | n + 1, l =>
    if l.length ≤ 1 then l.head?
    else
      levels f n ((List.range (ceilDiv l.length 2)).filterMap fun i =>
        match l[2 * i]?, l[2 * i + 1]? with
        | some a, some b => some (f a b)
        | some a, none => some a
        | none, _ => none)

/-- The order of R504 over the contributions of the job's logical cores in ascending order, `q` slots. -/
def wideOrder {α : Type} (f : α → α → α) (q : Nat) (vs : List α) : Option α :=
  let slots := (List.range q).filterMap fun j =>
    match (vs.zipIdx.filter fun p => p.2 % q = j).map (·.1) with
    | [] => none
    | a :: l => some (l.foldl f a)
  levels f 8 slots

/-- One accumulation word combined: S32 saturating or F32 rounded (R29, R504). -/
def wideWord (float : Bool) (x y : Nat × NumEv) : Nat × NumEv :=
  let r := accElement float true x.1 (accVal float y.1).1
  (r.1, (x.2.add y.2).add r.2)

/-- The total of plate contributions: rows of words with the OR of the poison, and the events. -/
def widePlate (q : Nat) (es : List WideEntry) (p : PassRec) : List (List Nat × List Bool) × NumEv :=
  let float := !p.cmd.fmov.isInt
  let rows := (List.range p.n).map fun n =>
    let ws := (List.range p.m).map fun j =>
      (wideOrder (wideWord float) q (es.map fun e => (((e.words.getD n ([], [])).1).getD j 0, ({} : NumEv)))).getD (0, {})
    let po := (List.range (ceilDiv p.m 16)).map fun b => es.any fun e => ((e.words.getD n ([], [])).2).getD b false
    (ws, po)
  (rows.map fun r => (r.1.map (·.1), r.2), rows.foldl (fun v r => r.1.foldl (fun v w => v.add w.2) v) {})

/-- The total of reduction contributions: a partial and poison for each row, and the events. -/
def wideWash (q : Nat) (es : List WideEntry) (w : WashCmd) : List (Option (Val × Val × Nat) × Bool) × NumEv :=
  let comb (x y : Option (Val × Val × Nat) × NumEv) : Option (Val × Val × Nat) × NumEv :=
    match x.1, y.1 with
    | none, _ => (y.1, x.2.add y.2)
    | _, none => (x.1, x.2.add y.2)
    | some a, some b => let r := w.wideComb a b; (some r.1, (x.2.add y.2).add r.2)
  let rows := (List.range w.r).map fun k =>
    ((wideOrder comb q (es.map fun e => ((e.parts.getD k (none, false)).1, ({} : NumEv)))).getD (none, {}),
     es.any fun e => (e.parts.getD k (none, false)).2)
  (rows.map fun r => (r.1.1, r.2), rows.foldl (fun v r => v.add r.1.2) {})

/-- Do two contributions agree in opcode, formats, N, M and R (R506)? -/
def WideEntry.alike (a b : WideEntry) : Bool :=
  match a.pass, b.pass, a.wash, b.wash with
  | some p, some q, _, _ => p.cmd.fmov == q.cmd.fmov && p.cmd.fsta == q.cmd.fsta && p.n == q.n && p.m == q.m
  | none, none, some v, some w => v.opc == w.opc && v.fa == w.fa && v.fb == w.fb && v.fd == w.fd && v.r == w.r
  | _, _, _, _ => false

/-- Deliver a total to the logical core that contributed it, on physical core `c` (R505). A poisoned output counts as
the pass's poison (R141). -/
def Dev.deliverTotal (d : Dev) (c : Nat) (t : WideTotal) : Dev :=
  let x := d.core c
  match t.pass, t.wash with
  | some p, _ =>
    if p.slot.bad then d
    else
      let o := p.runChain t.rows { spad := x.mem.spad, accm := x.mem.accm, ev := {}, src := [], poisoned := false, ue := [] }
      let d := ((d.setCore c { x with mem := { x.mem with spad := o.spad } }).num .plt c o.ev).spdUe c o.ue
      if o.poisoned then d.passPoison c p (t.src ++ o.src) else d
  | none, some w =>
    let m := t.codes.zipIdx.foldl (fun m r => w.wideStore m r.2 r.1.1 r.1.2.2) x.mem
    let n := (t.codes.filter fun r => r.2.1).length
    let d := (d.setCore c { x with mem := m }).bump .wsh c 0x10C n
    let d := if 0 < n then d.sticky .wsh c 0 else d
    if t.codes.any fun r => r.2.2 then
      let d := d.sticky .wsh c 3
      if d.flag .wsh c 0x11C 31 then d
      else d.setReg .wsh c 0x11C (2 ^ 31 + w.opc * 65536 + w.lc * 8192 + w.pc)
    else d
  | none, none => d

/-- Deliver everything the logical core `lc` of core `c` is owed. -/
def Dev.deliverAll (d : Dev) (c lc : Nat) : Dev :=
  let l := (d.core c).lcs.toList.getD lc {}
  let d := l.deliver.foldl (fun d t => d.deliverTotal c t) d
  d.modCore c fun x => { x with lcs := x.lcs.setIfInBounds lc { x.lcs.toList.getD lc {} with deliver := [] } }

/-- Where the logical cores of a job are: on physical core `some c`, or saved by a pre-emption. -/
def Dev.lcState (d : Dev) (j lc : Nat) : LcSt :=
  match (List.range 8).find? fun c => (d.core c).job == some j && bit (d.core c).hosted lc with
  | some c => (d.core c).lcs.toList.getD lc {}
  | none =>
    match (d.job? j).bind fun b => b.saved.find? fun s => s.spill.lc == lc with
    | some s => s.st
    | none => {}

/-- Change the state of a logical core of a job wherever it is. -/
def Dev.modLc (d : Dev) (j lc : Nat) (f : LcSt → LcSt) : Dev :=
  match (List.range 8).find? fun c => (d.core c).job == some j && bit (d.core c).hosted lc with
  | some c => d.modCore c fun x => { x with lcs := x.lcs.setIfInBounds lc (f (x.lcs.toList.getD lc {})) }
  | none => d.modJob j fun b => { b with saved := b.saved.map fun s => if s.spill.lc = lc then { s with st := f s.st } else s }

/-- The totals of WIDE operation `k` of a phase for each contributor, none where no logical core issued one. A mismatch
or a lost contribution leaves the value open and poisons every element (R504 to R506). -/
def Dev.wideTotal (d : Dev) (lk : Locked) (j k : Nat) (lcs : List Nat) : Dev :=
  let es := lcs.filterMap fun lc => (d.lcState j lc).wide.find? fun e => e.seq == k
  match es with
  | [] => d
  | e0 :: rest =>
    let q := min lcs.length (bitList 8 lk.coreEn).length
    let lost := es.any (·.lost)
    let mismatch := es.length != lcs.length || !rest.all e0.alike
    let d := if mismatch then d.sticky .det 0 1 else d
    let open' := lost || mismatch
    let rv : List (List Nat × List Bool) × NumEv := match e0.pass with
      | some p => if open' then ([], {}) else widePlate q es p
      | none => ([], {})
    let pv : List (Option (Val × Val × Nat) × Bool) × NumEv := match e0.pass, e0.wash with
      | none, some w => if open' then ([], {}) else wideWash q es w
      | _, _ => ([], {})
    let d := d.bump .det 0 0x114 1
    lcs.foldl (fun d lc =>
      match (d.lcState j lc).wide.find? fun e => e.seq == k with
      | none => d
      | some e =>
        let base := d.fresh
        let fr (i : Nat) := Config.freeNat (base + i) % 2 ^ 32
        let used := match open', e.pass, e.wash with
          | true, some p, _ => p.n * p.m
          | true, none, some w => w.r
          | _, _, _ => 0
        let d := { d with fresh := base + used }
        let t : WideTotal :=
          match e.pass, e.wash with
          | some p, _ =>
            { pass := some p, src := e.src
              rows := if open' then (List.range p.n).map fun n =>
                  ((List.range p.m).map fun i => fr (n * p.m + i), List.replicate (ceilDiv p.m 16) true)
                else rv.1 }
          | none, some w =>
            { wash := some w
              codes := if open' then (List.range w.r).map fun i => (fr i, false, true)
                else pv.1.map fun r => ((w.wideCode r.1).1, r.1.isNone, r.2) }
          | none, none => {}
        let home := (List.range 8).find? fun c => (d.core c).job == some j && bit (d.core c).hosted lc
        let d := match home, e.pass, e.wash with
          | some c, some _, _ => if some lc == lcs.head? then d.num .plt c rv.2 else d
          | some c, none, some w =>
            (if some lc == lcs.head? then d.num .wsh c pv.2 else d).num .wsh c
              (pv.1.foldl (fun (v : NumEv) (r : Option (Val × Val × Nat) × Bool) => v.add (w.wideCode r.1).2) {})
          | _, _, _ => d
        d.modLc j lc fun l => { l with deliver := l.deliver ++ [t] }) d

/-- BARRIER_RELEASE: every member has arrived, so the instance is released; the traceback buffers clear, the WIDE totals
of the phase go to their contributors, and members may issue their LBAR bundles (R96, R98, R201, R505). -/
def effBarrierRelease (j seq : Nat) (lk : Locked) (d : Dev) : Dev :=
  match d.bar? j seq true with
  | none => d
  | some b =>
    let lcs := bitList 8 b.members
    let top := lcs.foldl (fun n lc => max n (d.lcState j lc).wideOps) 0
    let d := { d with bars := d.bars.erase b }
    let d := (List.range top).foldl (fun d k => d.wideTotal lk j k lcs) d
    let d := lcs.foldl (fun d lc => d.modLc j lc fun l =>
      { l with released := true, wide := [], wideOps := 0, hatch := l.hatch.clearTb }) d
    (List.range 8).foldl (fun d c =>
      let x := d.core c
      if x.job = some j && bit b.members x.runLc && x.state == 3 && x.switchTo.isNone then d.deliverAll c x.runLc else d) d

/-! ## Semaphores (R94, R409) -/

/-- SEM_GRANT: a released semaphore goes to the SEMACQ whose request came first, lowest physical core on ties (R409). -/
def effSemGrant (k : Nat) (d : Dev) : Dev :=
  let s := d.sems.toList.getD k {}
  match s.holder, s.waiters with
  | none, h :: t =>
    let s : SemSt := { holder := some (h.1, h.2.1, h.2.2.1), since := d.tim.tick, waiters := t }
    { d with sems := d.sems.setIfInBounds k s }.modCore h.2.2.1 fun x =>
      { x with lcs := x.lcs.setIfInBounds h.2.1 { x.lcs.toList.getD h.2.1 {} with semGot := some k } }
  | _, _ => d

/-- A semaphore is force-released: its BROKEN bit, SEM_BREAK_COUNT and the event (R409, R417, R602). -/
def Dev.breakSem (d : Dev) (k : Nat) : Dev :=
  let s := d.sems.toList.getD k {}
  match s.holder with
  | none => d
  | some h =>
    let off := 0x108 + 4 * (k / 32)
    let jid := ((d.job? h.1).map fun b => leAt b.desc 0 4).getD 0
    let d := { d with sems := d.sems.setIfInBounds k { s with holder := none } }
    let d := d.setReg .sem 0 off (d.reg .sem 0 off ||| 2 ^ (k % 32))
    let d := (d.setReg .sem 0 0x020 (d.reg .sem 0 0x020 ||| 1)).bump .sem 0 0x110 1
    d.post .sch 0 0x02 2 0 (layout 20 [(0, 2, k), (4, 4, jid)])

/-- SEM_BROKEN of a semaphore: its hold has reached 10 µs, so it is released and the holding job aborted (R409). -/
def effSemBroken (k : Nat) (d : Dev) : Dev :=
  let s := d.sems.toList.getD k {}
  match s.holder with
  | none => d
  | some h =>
    if !d.elapsed s.since 10000 then d
    else (d.breakSem k).askEnd h.1 (.aborted 4)

/-! ## Switches of logical cores (R99, R100) -/

/-- Partition of the job on a core (R392). -/
def Dev.partOf (d : Dev) (c : Nat) : Nat := (d.core c).part

/-- Bytes of the register state block of a save (R100). -/
def regBlock : Nat := 24576

/-- Bytes of the live set at a barrier (R395). -/
def LcImage.liveBytes (im : LcImage) (seq : Nat) : Nat := ((im.live.filter fun r => r.1 = seq).map fun r => r.2.2).sum

/-- Bytes of the largest live set of a logical core. -/
def LcImage.largest (im : LcImage) : Nat := (im.live.map fun r => im.liveBytes r.1).foldl max 0

/-- Start of the spill region of logical core `lc`. DESIGN CHOICE: the regions stand one after another from SPILL, in
ascending logical core, each with room for the register block and the largest live set (R100, R392; log 104). -/
def CoreSt.spillAddr (x : CoreSt) (lc : Nat) : Nat :=
  x.spillBase + (((bitList 8 x.lmask).filter fun k => decide (k < lc)).map fun k =>
    regBlock + (x.image.toList.getD k {}).largest).sum

/-- What a save keeps of a core's memories and plate for logical core `lc` at barrier `seq` (R100, R134, R395). The live
ranges follow the register block, in the order of the live-set table. -/
def CoreSt.save (x : CoreSt) (lc seq : Nat) : Spill :=
  let live := ((x.image.toList.getD lc {}).live.filter fun r => r.1 = seq).map (·.2)
  { lc := lc
    ranges := (live.foldl (fun (s : List (Nat × Nat × Nat) × Nat) r => (s.1 ++ [(r.1, r.2, s.2)], s.2 + r.2))
      ([], x.spillAddr lc + regBlock)).1
    tiles := x.plate.tiles
    slots := x.plate.slots }

/-- Counts and sticky bits of moved beats (R211, R233, R234, R241). -/
def Dev.countBeats (d : Dev) (c bad oor : Nat) : Dev :=
  let d := if bad = 0 then d else (d.bump .gln c 0x10C bad).sticky .gln c 1
  if oor = 0 then d else (d.bump .gln c 0x110 oor).sticky .gln c 2

/-- The writes of a save: the register block, whose layout the spec does not give and whose bytes are open values, and the
live ranges with their poison (R100, R233; log 104). -/
def Dev.writeSave (lk : Locked) (d : Dev) (c : Nat) (s : Spill) : Dev :=
  let x := d.core c
  let d := { d with fresh := d.fresh + 1 }
  let regs := (List.range regBlock).map (Config.freeByte (d.fresh - 1))
  let (oor, d) := d.busWrite lk (.core c) (d.partOf c) (x.spillAddr s.lc) regs (List.replicate (regBlock / 64) false)
  let d := d.countBeats c 0 oor
  s.ranges.foldl (fun d r =>
    let ps := (List.range (r.2.1 / 64)).map fun i => x.mem.bad (r.1 + 64 * i) 64
    let d := d.spdUe c (x.mem.ueAddrs r.1 r.2.1)
    let (oor, d) := d.busWrite lk (.core c) (d.partOf c) r.2.2 (x.mem.read r.1 r.2.1) ps
    d.countBeats c (ps.filter id).length oor) d

/-- A save read back: the register block, and the live ranges to where they came from, with their poison; the tiles and the
proof-chain slots as they were (R100, R134, R233). -/
def Dev.readSave (lk : Locked) (d : Dev) (c : Nat) (s : Spill) : Dev :=
  let (_, ps, oor, d) := d.busRead lk (.core c) (d.partOf c) ((d.core c).spillAddr s.lc) regBlock
  let d := d.countBeats c (ps.filter id).length oor
  let d := s.ranges.foldl (fun d r =>
    let (bs, ps, oor, d) := d.busRead lk (.core c) (d.partOf c) r.2.2 r.2.1
    let d := d.countBeats c (ps.filter id).length oor
    (d.modCore c fun x => { x with mem := (List.range (r.2.1 / 64)).foldl (fun m i =>
      m.store (r.1 + 64 * i) (slice bs (64 * i) 64) (ps.getD i false)) x.mem }).takeMerged c) d
  d.modCore c fun x => { x with plate := { x.plate with tiles := s.tiles, slots := s.slots } }

/-- Load the program of logical core `lc` into IMEM unless IMEM holds it already for this job (R66, R100). -/
def Dev.loadImem (lk : Locked) (d : Dev) (c lc : Nat) : Dev :=
  let x := d.core c
  let im := x.image.toList.getD lc {}
  if x.loaded = some (im.prog, im.len) then d
  else
    let (bs, _, _, d) := d.busRead lk (.core c) (d.partOf c) im.prog (64 * im.len)
    d.modCore c fun x => { x with imem := ({} : Mem).write 0 bs, loaded := some (im.prog, im.len) }

/-- Load the initial contents of logical core `lc` into SPAD or ACCM (R99, R395). -/
def Dev.loadInit (lk : Locked) (d : Dev) (c lc : Nat) : Dev :=
  let im := (d.core c).image.toList.getD lc {}
  let (bs, ps, _, d) := d.busRead lk (.core c) (d.partOf c) im.initAddr im.initLen
  d.modCore c fun x => { x with
    mem := (List.range (im.initLen / 64)).foldl (fun m i =>
      m.store (im.initDst + 64 * i) (slice bs (64 * i) 64) (ps.getD i false)) x.mem
    plate := { x.plate with tiles := Vector.replicate 16 {}, slots := Vector.replicate 4 .reset } }

/-- LOGICAL_CORE_SWITCH: the core saves the logical core that has arrived to its spill region, or leaves one that has ended,
and takes up the next one, whose barrier has been released; a requested pre-emption comes first (R99, R100, R105, R404). -/
def effSwitch (c : Nat) (lk : Locked) (d : Dev) : Dev :=
  let x := d.core c
  match x.switchTo with
  | none => d
  | some n =>
    let nl := x.lcs.toList.getD n {}
    let asked := ((x.job.bind d.job?).map fun j => !j.asks.isEmpty).getD false
    if x.state = 6 ∨ x.state = 7 ∨ asked ∨ (nl.started && !nl.released) ∨
      (!x.run.ended && n != x.runLc && d.memWaits) then d
    else
      let l := x.run
      let s := x.save x.runLc (l.barrier.getD 0)
      let others := x.spill.filter fun s => s.lc ≠ x.runLc
      let d := if l.ended || n == x.runLc then d else d.writeSave lk c s
      let spill := if n == x.runLc then x.spill else if l.ended then others else others ++ [s]
      (d.modCore c fun x => { x with
        spill := spill, runLc := n, switchTo := none, state := 4, stall := 0, stallSince := none, govWait := none }).bump
        .core c 0x120 1

/-- SWITCH_RESTORE_DONE: the restore of the logical core being switched in has completed, `cc` cycles of SWITCH after
the switch began; it resumes, or starts from its initial contents (R99, R100, R505). -/
def effRestoreDone (c cc : Nat) (lk : Locked) (d : Dev) : Dev :=
  let x := d.core c
  if x.state ≠ 4 ∨ x.leaving ∨ d.memWaits then d
  else
    let d := d.setCore c { x with cyc := (x.cyc + cc) % 2 ^ 64 }
    let d := d.loadImem lk c x.runLc
    let d := match x.spill.find? fun s => s.lc == x.runLc with
      | some s => (d.readSave lk c s).modCore c fun x => { x with spill := x.spill.filter fun s => s.lc ≠ x.runLc }
      | none => d.loadInit lk c x.runLc
    let d := d.modCore c fun x => { (x.setRun { x.run with started := true }) with state := 2 }
    d.deliverAll c x.runLc

end Sys2Proof.Machine
end

