-- ==== Sys2Proof/Machine/Grid.lean ====
section
/-! DEFINITION. The slot grid and the time unit, and the alignment reset (R442 to R475 in part, R507 to R515;
15_fronthaul_and_time.md, 17_determinism_and_grades.md). -/

namespace Sys2Proof.Machine

/-! ## The slot grid (R464) -/

/-- Time in ns, rounded with ties away from zero, of `tc` units of Tc = 1 / (480,000 · 4,096) s. -/
def tcNs (tc : Nat) : Nat := (2 * tc * 15625 + 30720) / (2 * 30720)

/-- Is time `t` reached in this tick, the first at or after it (R465)? -/
def Dev.inTick (d : Dev) (t : Nat) : Bool := reached d.ns t && !reached d.tim.prev t

/-- Start of symbol `l` of a subframe at numerology `mu`, in Tc: 2,192κ·2^−μ a symbol and 16κ more for symbols 0 and
7·2^μ, with κ = 64 (TS 38.211 clause 5.3.1). -/
def symTc (mu l : Nat) : Nat :=
  l * (140288 / 2 ^ mu) + (if 0 < l then 1024 else 0) + (if 7 * 2 ^ mu < l then 1024 else 0)

/-- Start of symbol `n` of slot `s` (counted without wrap), in ns of the counter modulo 2³²; symbol 14 is the start of
the next slot. -/
def Dev.symStart (d : Dev) (mu s n : Nat) : Nat :=
  let l := s % 2 ^ mu * 14 + n
  let sub := s / 2 ^ mu
  let off := if l < 14 * 2 ^ mu then tcNs (symTc mu l) else 1000000
  (d.reg .tim 0 0x120 + 1000000 * sub + off) % 2 ^ 32

/-- End of symbol `n` of slot `s`. -/
def Dev.symEnd (d : Dev) (mu s n : Nat) : Nat := d.symStart mu s (n + 1)

/-- Is the slot grid running with frame 0 begun? -/
def Dev.gridOn (d : Dev) : Bool := d.flag .tim 0 0x110 0

/-- The slot that is on air at numerology `mu`, counted without wrap; none before slot 0. -/
def Dev.slotNow (d : Dev) (mu : Nat) : Option Nat :=
  if !d.gridOn || d.tim.sub = 0 then none
  else
    let base := (d.tim.sub - 1) * 2 ^ mu
    some (base + ((List.range (2 ^ mu)).filter fun j => decide (0 < j) &&
      reached d.ns (d.symStart mu (base + j) 0)).length)

/-- The slot counted without wrap that SLOTSEQ `s` names, the one nearest the present slot. -/
def Dev.absSlot (d : Dev) (mu s : Nat) : Nat :=
  let cur := (d.slotNow mu).getD 0
  let x := (s + 2 ^ 32 - cur % 2 ^ 32) % 2 ^ 32
  if x < 2 ^ 31 then cur + x else cur + x - 2 ^ 32

/-- SFN of a slot counted without wrap. -/
def Dev.sfnOf (d : Dev) (mu s : Nat) : Nat := (d.fld .tim 0 0x14C 9 0 + s / (10 * 2 ^ mu)) % 1024

/-- Frame, subframe and slot identifiers of O-RAN (R464). -/
def Dev.oranIds (d : Dev) (mu s : Nat) : Nat × Nat × Nat :=
  (d.sfnOf mu s % 256, s / 2 ^ mu % 10, s % 2 ^ mu)

/-- GRID_EVENT: the next subframe boundary is reached (R464, R465). -/
def effGridEvent (d : Dev) : Dev :=
  if d.gridOn && reached d.ns ((d.reg .tim 0 0x120 + 1000000 * d.tim.sub) % 2 ^ 32) then
    { d with tim := { d.tim with sub := d.tim.sub + 1 } }
  else d

/-- TIM_GRID as it reads (R474). -/
def Dev.timGrid (d : Dev) : Nat :=
  if !d.gridOn then 0
  else if d.tim.sub = 0 then 2 ^ 14 + 16 * d.fld .tim 0 0x14C 9 0
  else 16 * d.sfnOf 0 (d.tim.sub - 1) + (d.tim.sub - 1) % 10

/-- Time since the start of the present subframe of the grid, in ns; none before frame 0. -/
def Dev.sinceSub (d : Dev) : Option Nat :=
  let x := (d.ns + 2 ^ 32 - (d.reg .tim 0 0x120 + 1000000 * (d.tim.sub - 1)) % 2 ^ 32) % 2 ^ 32
  if !d.gridOn || d.tim.sub = 0 || decide (2 ^ 31 ≤ x) then none else some x

/-- First 125 µs boundary of the grid after the present time; the start of frame 0 before it (R465). -/
def Dev.next125 (d : Dev) : Nat :=
  match d.sinceSub with
  | none => (d.reg .tim 0 0x120 + 1000000 * (d.tim.sub - 1)) % 2 ^ 32
  | some x => (d.ns + 125000 - x % 125000) % 2 ^ 32

/-! ## The counter (R460 to R463) -/

/-- INCR in 2⁻³² ns. -/
def Dev.incr (d : Dev) : Nat := d.fld .tim 0 0x11C 7 0 * 2 ^ 32 + d.reg .tim 0 0x118

/-- CORR in force: 0 while the servo is off (R462). -/
def Dev.corr (d : Dev) : Int := if d.flag .tim 0 0x110 1 then d.tim.corr else 0

/-- Is SYNCE_OUT running: enabled, with a link on its port, and not held (R470)? -/
def Dev.syncRuns (d : Dev) : Bool :=
  d.flag .eth 0 0x184 4 && d.flag .eth (d.fld .eth 0 0x184 2 0) 0x104 0 && d.tim.syncHeld.isNone

/-- 1 µs after a change of PORT or DIV the SyncE output starts again (R470). -/
def Dev.syncResume (d : Dev) : Dev :=
  match d.tim.syncHeld with
  | none => d
  | some t =>
    if !d.elapsed t 1000 then d
    else
      let d := { d with tim := { d.tim with syncHeld := none } }
      if d.syncRuns then d.emit (.pin "SYNCE_OUT" true) else d

/-- One TIME_CLK tick: the counter adds INCR + CORR, and a step that waits is applied in addition (R460, R463). While the
device is held in reset the counter stands. -/
def tickOnce (d : Dev) : Dev :=
  if d.pwr.held then { d with tim := { d.tim with tick := d.tim.tick + 1 } }
  else
  let c : Int := (d.tim.ns * 2 ^ 32 + d.tim.frac : Nat)
  let n := ofS 64 (c + d.incr + d.corr - d.tim.step.getD 0)
  let tim := { d.tim with tick := d.tim.tick + 1, ns := n / 2 ^ 32, frac := n % 2 ^ 32, prev := d.tim.ns, step := none }
  { d with tim := tim }.syncResume

/-- A write of TIM_OFFSET_NS with the value `v`: a servo update, a step, or a held step (R462, R463). -/
def effTimOffsetNs (v : Nat) (d : Dev) : Dev :=
  let sub := d.reg .tim 0 0x13C % 65536
  let e : Int := toS 32 v * 65536 + sub
  let thr := d.reg .tim 0 0x12C
  let payload := layout 20 [(0, 4, v), (4, 2, sub)]
  if e.natAbs < thr * 65536 then
    if d.flag .tim 0 0x110 1 then
      let lim : Int := d.reg .tim 0 0x138
      let p := divPow2Round ((d.reg .tim 0 0x130 : Int) * e) 32
      let integ := clampI (-lim) lim (d.tim.integ + divPow2Round ((d.reg .tim 0 0x134 : Int) * e) 32)
      { d with tim := { d.tim with integ := integ, corr := clampI (-lim) lim (-(p + integ)) } }
    else d
  else if d.gridOn then (d.sticky .tim 0 2).post .tim 0 0x08 2 0 payload
  else
    let d := { d with tim := { d.tim with step := some (d.tim.step.getD 0 + e * 65536) } }
    ((d.bump .tim 0 0x154 1).sticky .tim 0 1).post .tim 0 0x08 1 0 payload

/-- SET: the counter loads TIM_SET_NS and the fraction clears, while the grid is off (R461). -/
def effSet (d : Dev) : Dev :=
  if d.gridOn then d.err .tim 0 errState 0x110
  else { d with tim := { d.tim with ns := d.reg .tim 0 0x114, frac := 0 } }

/-- Base of a chain's cell table, by offset in `tbl`. -/
def cellTbl (tx : Bool) : Nat := if tx then 0x4000 else 0

/-- Page of a chain. -/
def chainPage (tx : Bool) : Page := if tx then .txc else .rxc

/-- Entry of bank `k` of cell `c` (R278, R320). -/
def Dev.cellBank (d : Dev) (tx : Bool) (c k : Nat) : List Byte := d.tbl.read (cellTbl tx + (2 * c + k) * 128) 128

/-- Active bank of cell `c`. -/
def Dev.activeBank (d : Dev) (tx : Bool) (c : Nat) : Nat := b2n (d.flag (chainPage tx) 0 0x110 c)

/-- ENABLE of a cell entry. -/
def ceEnable (e : List Byte) : Bool := bit (leAt e 0 4) 31
/-- MU of a cell entry. -/
def ceMu (e : List Byte) : Nat := bits (leAt e 0 4) 30 29
/-- NPRB of a cell entry. -/
def ceNprb (e : List Byte) : Nat := bits (leAt e 0 4) 28 20
/-- NSTREAM of a cell entry. -/
def ceNstream (e : List Byte) : Nat := bits (leAt e 0 4) 19 11

/-- Is a cell enabled in an active bank of either chain (R466)? -/
def Dev.anyCell (d : Dev) : Bool :=
  [false, true].any fun tx => (List.range 32).any fun c => ceEnable (d.cellBank tx c (d.activeBank tx c))

/-- With the grid go the slots under earlier banks: the staged banks of every cell may be written (R284, R466). -/
def Dev.endSlots (d : Dev) (tx : Bool) : Dev :=
  let s : SwapSt := { d.sw tx with since := [], passed := [] }
  let d := if tx then { d with txc := { d.txc with sw := s } } else { d with rxc := { d.rxc with sw := s } }
  d.setReg (chainPage tx) 0 0x114 0xFFFFFFFF

/-- GRID_EN: a write that sets or clears GRID_EN, under its checks (R466); clearing it before the strobe cancels an
alignment request (R508). With the grid go the fronthaul frames that wait for their ports. -/
def effGridEn (on : Bool) (d : Dev) : Dev :=
  if on == d.gridOn then d
  else if on then
    let x := (d.reg .tim 0 0x120 + 2 ^ 32 - d.ns) % 2 ^ 32
    if 1000000 ≤ x && x ≤ 1000000000 then
      { d.setFld .tim 0 0x110 0 0 1 with tim := { d.tim with sub := 0 } }
    else d.err .tim 0 errState 0x110
  else if d.anyCell then d.err .tim 0 errState 0x110
  else
    let wait := ((d.next125 + 2 ^ 32 - d.ns) % 2 ^ 32 * 100 + 127) / 128
    let ms := if d.tim.sub = 0 then { d.ms with refNext := some (d.tim.tick + wait) }
      else { d.ms with refStart := d.tim.tick + wait, refNext := none }
    let d := { d with tim := { d.tim with sub := 0 }, ms := ms, txc := { d.txc with frames := [] } }
    let d := [false, true].foldl (fun d tx => d.endSlots tx) d
    let d := d.setFld .tim 0 0x110 0 0 0
    if d.det.asked.isSome && d.det.strobe.isNone then
      let d := { d with det := { d.det with asked := none } }
      (d.setFld .det 0 0x104 1 1 0).err .det 0 errState 0x100
    else d

/-- A write of TIM_CTRL: SET, the change of GRID_EN under R466, and the other fields. -/
def Dev.timCtrl (d : Dev) (v : Nat) : Dev :=
  let d := if bit v 3 then effSet d else d
  let d := effGridEn (bit v 0) d
  let d := d.setFld .tim 0 0x110 2 1 (v / 2)
  if bit v 1 then d else { d with tim := { d.tim with corr := 0 } }

/-! ## 1PPS and SyncE (R468 to R470) -/

/-- PPS_OUT: the ball rises at TIM_PPS_NEXT and the next pulse time advances (R468). -/
def effPpsOut (d : Dev) : Dev :=
  let t := d.reg .tim 0 0x124
  if d.flag .tim 0 0x110 2 && d.tim.ppsHigh.isNone && reached d.ns t then
    let d := d.setReg .tim 0 0x124 ((t + 1000000000) % 2 ^ 32)
    { d with tim := { d.tim with ppsHigh := some t } }.emit (.pin "PPS_OUT" true)
  else d

/-- PPS_OUT_FALL: the ball falls TIM_PPS_WIDTH ns later (R468). -/
def effPpsOutFall (d : Dev) : Dev :=
  match d.tim.ppsHigh with
  | none => d
  | some t =>
    if reached d.ns ((t + d.reg .tim 0 0x128) % 2 ^ 32) then
      { d with tim := { d.tim with ppsHigh := none } }.emit (.pin "PPS_OUT" false)
    else d

/-- PPS_IN: a rising edge is captured after 2.4 ns of input delay is removed (R469). -/
def effPpsIn (d : Dev) : Dev :=
  if d.pwr.held then d else
  let n := (d.tim.ns * 2 ^ 32 + d.tim.frac + 2 ^ 64 - 10307921510) % 2 ^ 64
  let d := if d.flag .tim 0 0x15C 0 then d.bump .tim 0 0x158 1 else d
  let d := (d.setReg .tim 0 0x108 (n % 2 ^ 32)).setReg .tim 0 0x10C (n / 2 ^ 32)
  (d.sticky .tim 0 0).post .tim 0 0x08 3 0 (layout 20 [(0, 4, n / 2 ^ 32), (4, 4, n % 2 ^ 32)])

/-- SYNCE_CHANGE: a write of ETH_SYNCE; a change of PORT or DIV holds the output low (R470). -/
def effSynceChange (v : Nat) (d : Dev) : Dev :=
  let was := d.syncRuns
  let old := d.reg .eth 0 0x184
  let new := v &&& 0x37
  let d := d.setReg .eth 0 0x184 new
  let d :=
    if old &&& 0x27 != new &&& 0x27 then { d with tim := { d.tim with syncHeld := some d.tim.tick } } else d
  if was == d.syncRuns then d else d.emit (.pin "SYNCE_OUT" d.syncRuns)

/-! ## The alignment reset (R508, R509) and the signatures (R513) -/

/-- May an alignment reset start: the grid is on and the blocks of R508 are disabled? -/
def Dev.alignReady (d : Dev) : Bool :=
  let off (p : Page) : Bool := !d.flag p 0 0x100 0
  d.gridOn && off .sch && off .rxc && off .txc && off .fec && off .kvp && off .rsv && off .wtn

/-- ALIGN_GO: accepted only when an alignment reset may start (R508). -/
def effAlignGo (d : Dev) : Dev :=
  if d.alignReady then
    { d.setFld .det 0 0x104 1 1 1 with det := { d.det with asked := some (d.det.asked.getD d.next125) } }
  else d.err .det 0 errState 0x100

/-- ALIGNMENT_STROBE: the strobe in the tick of the boundary (R467). -/
def effAlignmentStrobe (d : Dev) : Dev :=
  match d.det.asked, d.det.strobe with
  | some t, none =>
    if d.gridOn && reached d.ns t then { d with det := { d.det with strobe := some d.tim.tick } } else d
  | _, _ => d

/-- QUEUE_RESTART at a pattern start, from the fourth after the strobe on; `empty` says that every queue still to
restart is empty (R508). -/
def effQueueRestart (empty : Bool) (d : Dev) : Dev :=
  match d.det.strobe with
  | none => d
  | some t =>
    if d.tim.tick % 125 = 0 && 4 ≤ d.tim.tick / 125 - t / 125 && empty then
      let d := { d with det := { d.det with asked := none, strobe := none } }
      (d.setReg .det 0 0x104 1).bump .det 0 0x10C 1
    else d

/-- ALIGN_LOST: a locked-family PLL has relocked (R509). -/
def effAlignLost (d : Dev) : Dev := (d.setFld .det 0 0x104 0 0 0).sticky .det 0 0

/-- SIG_CLR: both signatures are reset at the next admission point (R513). -/
def effSigClr (d : Dev) : Dev := { d with det := { d.det with sigClr := true } }

end Sys2Proof.Machine
end

