-- ==== Sys2Proof/Machine/Access.lean ====
section
/-! DEFINITION. What every access to a BAR0 page passes before it reaches a register: the stage, the grade record, the
worlds and the block reset (R12, R516 to R521, R530, R536, R590, R593). -/

namespace Sys2Proof.Machine

/-- SEC_BOOT.STAGE (R540). -/
def Dev.stage (d : Dev) : Nat := d.fld .sec 0 0x100 2 0

/-- Does a page exist: every page but those in the window of a core that the grade record disables (R530, R590)? -/
def pageThere (lk : Locked) (p : Page) (n : Nat) : Bool :=
  match p with
  | .core | .gln | .plt | .wsh | .hch | .spd | .dbg | .stl => bit lk.coreEn n
  | _ => true

/-- Can an access from world `w` reach a page in this stage: in ROM and FIRMWARE the endpoint retries every request of
the host, in RECOVERY it reaches the DEV and SEC pages alone; while the device is held in reset nothing arrives (R534,
R536, R562, R578)? -/
def Dev.openTo (d : Dev) (w : World) (p : Page) : Bool :=
  !d.pwr.held && (w == .secure || (!d.pwr.pcieHeld && d.pci.linkUp &&
    (d.stage == 2 || (d.stage == 3 && (p == .dev || p == .sec)))))

/-- A write from world `w` to offset `off` of a page, carried out by `f` unless the stage, the grade, the world of the
page or a block reset in progress keeps it off (R519, R530, R593). DESIGN CHOICE (log 115): a non-secure write of an RWS
register while RST_BUSY = 1, which R12 calls a crossing access and R593 an ignored and counted write, is counted as STATE in
the page and logged as no crossing. -/
def Dev.pageWrite (lk : Locked) (w : World) (p : Page) (n off : Nat) (f : Dev → Locked × Dev) (d : Dev) :
    Locked × Dev :=
  if !d.openTo w p then (lk, d)
  else if !pageThere lk p n then (lk, d.err .dev 0 errUnmapped (p.base n + off))
  else if w == .nonsecure && d.secure p n then (lk, d.cross .host true true (p.base n + off))
  else if d.flag p n 0x014 1 then (lk, d.err p n errState off)
  else f d

end Sys2Proof.Machine
end

