-- ==== Sys2Proof/Machine/Crc.lean ====
section
/-! DEFINITION. Cyclic redundancy checks: CRC-32C of the determinism signatures (R513), CRC-32 of Ethernet frames, and
the CRCs of the 3GPP channel codes. -/

namespace Sys2Proof.Machine

/-- One bit into a reflected CRC register. -/
def crcRefBit (poly : Nat) (c : Nat) (b : Bool) : Nat := (c / 2) ^^^ (if (c.testBit 0 != b) then poly else 0)

/-- Bytes into a reflected CRC register, bit 0 of each byte first. -/
def crcRef (poly : Nat) (c : Nat) (bs : List Byte) : Nat :=
  bs.foldl (fun c b => (List.range 8).foldl (fun c i => crcRefBit poly c (b.getLsbD i)) c) c

/-- The reflected polynomial of CRC-32C, 0x1EDC_6F41 (R513). -/
def polyC : Nat := 0x82F63B78

/-- CRC-32C of a fresh message, initial value all ones, without final inversion (R513). -/
def crc32c (bs : List Byte) : Nat := crcRef polyC 0xFFFFFFFF bs

/-- CRC-32 of IEEE 802.3, the frame check sequence. -/
def crc32 (bs : List Byte) : Nat := (crcRef 0xEDB88320 0xFFFFFFFF bs) ^^^ 0xFFFFFFFF

/-- Remainder of a bit list by a polynomial of degree `w` given without its top bit, register from `init`, most
significant bit first: the CRCs of TS 38.212 clause 5.1 and TS 36.212 clause 5.1.1. -/
def crcMsb (w poly init : Nat) (l : List Bool) : Nat :=
  l.foldl (fun c b =>
    let top := c.testBit (w - 1) != b
    ((c * 2) % 2 ^ w) ^^^ (if top then poly else 0)) init

/-- Number as a list of `n` flags, bit 0 first. -/
def bitsOf (n v : Nat) : List Bool := (List.range n).map v.testBit

end Sys2Proof.Machine
end

