-- ==== Sys2Proof/Machine/Codes.lean ====
section
/-! DEFINITION. The 3GPP channel-coding functions that the chains and the decoder farm name: scrambling sequence,
segmentation, rate matching, LDPC, turbo and polar codes (R302 to R304, R327, R349 to R354, R359, R362, R363). -/

namespace Sys2Proof.Machine

/-- `f` applied `n` times. -/
def iterN {α : Type} (f : α → α) : Nat → α → α
  | 0, x => x
  | n + 1, x => iterN f n (f x)

/-! ## Scrambling (TS 38.211 clause 5.2.1) -/

/-- One step of the two shift registers, bit 0 of each the present output. -/
def goldStep (s : Nat × Nat) : Nat × Nat :=
  (s.1 / 2 + (if bit s.1 3 != bit s.1 0 then 2 ^ 30 else 0),
   s.2 / 2 + (if ((bit s.2 3 != bit s.2 2) != (bit s.2 1 != bit s.2 0)) then 2 ^ 30 else 0))

/-- `n` bits of the sequence. -/
def goldTake : Nat → Nat × Nat → List Bool
  | 0, _ => []
  | n + 1, s => (bit s.1 0 != bit s.2 0) :: goldTake n (goldStep s)

/-- Bits `off … off + n − 1` of the sequence started from `cinit`. -/
def gold (cinit off n : Nat) : List Bool := goldTake n (iterN goldStep (1600 + off) (1, cinit % 2 ^ 31))

/-! ## CRC attachment -/

/-- CRC of `w` bits by its polynomial, as bits, most significant first. -/
def crcBits (w poly : Nat) (l : List Bool) : List Bool := toBitsMsb w (crcMsb w poly 0 l)

/-- Polynomial of CRC24A. -/
def crc24a : Nat := 0x864CFB
/-- Polynomial of CRC24B. -/
def crc24b : Nat := 0x800063
/-- Polynomial of CRC16. -/
def crc16p : Nat := 0x1021

/-- Width and polynomial of the transport-block CRC (R303). -/
def tbCrc (turbo : Bool) (tbs : Nat) : Nat × Nat := if turbo || decide (3824 < tbs) then (24, crc24a) else (16, crc16p)

/-- Does a bit list that ends with its CRC check? -/
def crcOk (w poly : Nat) (l : List Bool) : Bool := decide (crcMsb w poly 0 l = 0)

/-! ## Segmentation -/

/-- The 51 lifting sizes in ascending order. -/
def liftSizes : List Nat :=
  (List.range 385).filter fun z => (List.range 8).any fun j => [2, 3, 5, 7, 9, 11, 13, 15].any fun a => a * 2 ^ j == z

/-- Index of the set of shift coefficients of a lifting size. -/
def liftSet (z : Nat) : Nat :=
  ([2, 3, 5, 7, 9, 11, 13, 15].findIdx? fun a => (List.range 8).any fun j => a * 2 ^ j == z).getD 0

/-- The 188 turbo block sizes in ascending order. -/
def turboSizes : List Nat :=
  (List.range 60).map (fun i => 40 + 8 * i) ++ (List.range 32).map (fun i => 528 + 16 * i) ++
  (List.range 32).map (fun i => 1056 + 32 * i) ++ (List.range 64).map (fun i => 2112 + 64 * i)

/-- How a transport block is cut into code blocks. `code` is 0 BG1, 1 BG2, 2 turbo. `kr` is the size K of block r, `kp`
its bits before the filler of LDPC, `fill` the filler bits of block 0 of turbo. -/
structure Seg where
  code : Nat
  c : Nat
  zc : Nat := 0
  kp : Nat := 0
  kMinus : Nat := 0
  cMinus : Nat := 0
  kPlus : Nat := 0
  fill : Nat := 0
  deriving DecidableEq, Repr

/-- Segmentation of R303. -/
def segment (code tbs : Nat) : Seg :=
  if code = 2 then
    let b := tbs + 24
    let c := if b ≤ 6144 then 1 else ceilDiv b 6120
    let b' := if c = 1 then b else b + 24 * c
    let kp := (turboSizes.find? fun k => decide (b' ≤ c * k)).getD 6144
    let km := if c = 1 then 0 else (turboSizes.reverse.find? fun k => decide (k < kp)).getD 0
    let cm := if c = 1 ∨ kp = km then 0 else (c * kp - b') / (kp - km)
    { code := code, c := c, kMinus := km, cMinus := cm, kPlus := kp, fill := (c - cm) * kp + cm * km - b' }
  else
    let b := tbs + (tbCrc false tbs).1
    let kcb := if code = 0 then 8448 else 3840
    let c := if b ≤ kcb then 1 else ceilDiv b (kcb - 24)
    let b' := if c = 1 then b else b + 24 * c
    let kp := ceilDiv b' c
    let kb := if code = 0 then 22 else if 640 < b then 10 else if 560 < b then 9 else if 192 < b then 8 else 6
    { code := code, c := c, zc := (liftSizes.find? fun z => decide (kp ≤ kb * z)).getD 384, kp := kp }

/-- Size K of code block r. -/
def Seg.k (s : Seg) (r : Nat) : Nat :=
  if s.code = 2 then (if r < s.cMinus then s.kMinus else s.kPlus) else (if s.code = 0 then 22 else 10) * s.zc

/-- Rows R of the turbo sub-block interleaver and its size Kπ. -/
def turboRows (k : Nat) : Nat := ceilDiv (k + 4) 32

/-- Circular-buffer length before the cap of LBRM: N, or Kw (R304). -/
def Seg.n (s : Seg) (r : Nat) : Nat :=
  if s.code = 2 then 96 * turboRows (s.k r) else (if s.code = 0 then 66 else 50) * s.zc

/-- Ncb (R304). -/
def Seg.ncb (s : Seg) (r : Nat) (lbrm : Bool) (nref : Nat) : Nat := if lbrm then min (s.n r) nref else s.n r

/-- Soft-buffer pitch CBP of R305, from the largest block. -/
def Seg.cbp (s : Seg) (lbrm : Bool) (nref : Nat) : Nat := ceilDiv (s.ncb (s.c - 1) lbrm nref) 64 * 64

/-- Column permutation of the turbo sub-block interleaver: the bit reversal of five bits. -/
def turboCol (i : Nat) : Nat :=
  (i % 2) * 16 + (i / 2 % 2) * 8 + (i / 4 % 2) * 4 + (i / 8 % 2) * 2 + i / 16 % 2

/-- Stream and index of turbo buffer position `j`, none for a <NULL> (TS 36.212 clause 5.1.4.1). -/
def turboSrc (k j : Nat) : Option (Nat × Nat) :=
  let r := turboRows k
  let kpi := 32 * r
  let nd := kpi - (k + 4)
  let y (v : Nat) : Nat := turboCol (v / r) + 32 * (v % r)
  let (st, i) : Nat × Nat :=
    if j < kpi then (0, y j)
    else if (j - kpi) % 2 = 0 then (1, y ((j - kpi) / 2))
    else (2, (y ((j - kpi) / 2) + 1) % kpi)
  if i < nd then none else some (st, i - nd)

/-- Is position `j` of block r a filler bit, known to be 0? -/
def Seg.isFill (s : Seg) (r j : Nat) : Bool :=
  if s.code = 2 then
    match turboSrc (s.k r) j with
    | none => false
    | some (st, i) => decide (r = 0) && decide (st < 2) && decide (i < s.fill)
  else decide (s.kp ≤ j + 2 * s.zc) && decide (j + 2 * s.zc < s.k r)

/-- Is position `j` passed over by bit selection? -/
def Seg.skips (s : Seg) (r j : Nat) : Bool :=
  s.isFill r j || (decide (s.code = 2) && (turboSrc (s.k r) j).isNone)

/-- k0 of the redundancy version (R304). -/
def Seg.k0 (s : Seg) (r rv ncb : Nat) : Nat :=
  if s.code = 2 then
    let rr := turboRows (s.k r)
    if rr = 0 then 0 else rr * (2 * ceilDiv ncb (8 * rr) * rv + 2)
  else
    let den := (if s.code = 0 then 66 else 50) * s.zc
    let num := if s.code = 0 then [0, 17, 33, 56].getD rv 0 else [0, 13, 25, 43].getD rv 0
    if den = 0 then 0 else num * ncb / den * s.zc

/-- Buffer positions in the order of bit selection, one lap (R304). -/
def Seg.lap (s : Seg) (r rv ncb : Nat) : List Nat :=
  ((List.range ncb).map fun i => (s.k0 r rv ncb + i) % ncb).filter fun j => !s.skips r j

/-- Rate-matched length E_r (R303). -/
def Seg.e (s : Seg) (r g nl qm : Nat) : Nat :=
  let u := nl * qm
  if u = 0 then 0
  else if g / u % s.c + r + 1 ≤ s.c then u * (g / u / s.c) else u * ceilDiv (g / u) s.c

/-- First codeword bit of block r. -/
def Seg.start (s : Seg) (r g nl qm : Nat) : Nat := ((List.range r).map fun i => s.e i g nl qm).foldl (· + ·) 0

/-- Rate-matched bit index e of received bit t: the bit interleaving of LDPC (R304). -/
def deinter (code e qm t : Nat) : Nat := if code = 2 then t else t / qm + (t % qm) * (e / qm)

/-- Received bit t of rate-matched bit index e. -/
def reinter (code e qm i : Nat) : Nat :=
  if code = 2 then i else i / (e / qm) + qm * (i % (e / qm))

/-- Is received bit t of a block of E bits the first of the transmission at its buffer position, of `m` positions in a
lap (R306)? -/
def firstAt (code e qm m t : Nat) : Bool :=
  let i := deinter code e qm t
  (List.range (e / m + 1)).all fun q =>
    let i2 := i % m + q * m
    decide (e ≤ i2) || decide (t ≤ reinter code e qm i2)

/-! ## LDPC decoding (R349 to R351) -/

/-- Variables of check `z` of a lifted row. -/
def ldpcVars (bg zc cols row z : Nat) : List Nat :=
  (List.range cols).filterMap fun c =>
    (Config.ldpcShift bg (liftSet zc) row c).map fun v => c * zc + (z + v) % zc

/-- Saturation to −b … b. -/
def satB (x b : Int) : Int := clampI (-b) b x

/-- One check: new app values and messages, with the fixed filler variables left as they are (R350). -/
def ldpcCheck (ofs : Int) (fixed : Nat → Bool) (vars : List Nat) (rs : List Int) (app : Array Int) :
    List Int × Array Int :=
  let qs := vars.zip rs |>.map fun p => satB (app.getD p.1 0 - p.2) 511
  let new := (List.range vars.length).map fun i =>
    let others := qs.eraseIdx i
    let mag := match others.map fun x : Int => (x.natAbs : Int) with
      | [] => 63
      | x :: xs => min (max ((xs.foldl min x) - ofs) 0) 63
    if (others.filter (· < 0)).length % 2 = 1 then -mag else mag
  let app := ((vars.zip qs).zip new).foldl (fun (a : Array Int) p =>
    if fixed p.1.1 then a else a.setIfInBounds p.1.1 (satB (p.1.2 + p.2) 511)) app
  (new, app)

/-- One iteration over the checks in order. -/
def ldpcIter (ofs : Int) (fixed : Nat → Bool) (checks : List (List Nat)) (rs : List (List Int)) (app : Array Int) :
    List (List Int) × Array Int :=
  (checks.zip rs).foldl (fun (out, a) p =>
    let (n, a) := ldpcCheck ofs fixed p.1 p.2 a
    (out ++ [n], a)) ([], app)

/-- Is every check satisfied by the hard decisions? -/
def ldpcOk (checks : List (List Nat)) (app : Array Int) : Bool :=
  checks.all fun vs => decide ((vs.filter fun v => decide (app.getD v 0 < 0)).length % 2 = 0)

/-- Iterations until the checks hold, with early termination, or until the limit: the count run and the app values. -/
def ldpcRun (ofs : Int) (fixed : Nat → Bool) (checks : List (List Nat)) (et : Bool) :
    Nat → Nat → List (List Int) → Array Int → Nat × Array Int
  | 0, n, _, app => (n, app)
  | k + 1, n, rs, app =>
    let (rs, app) := ldpcIter ofs fixed checks rs app
    if et && ldpcOk checks app then (n + 1, app) else ldpcRun ofs fixed checks et k (n + 1) rs app

/-- The outcome of a block: bits, status (0 PASS, 1 CRC_FAIL, 2 NOCONV), iterations, rows and flips (R356). -/
structure Decoded where
  bits : List Bool := []
  status : Nat := 0
  iter : Nat := 0
  rows : Nat := 0
  flips : Nat := 0
  deriving DecidableEq, Repr

/-- Rows in use L of a block whose read span has `span` positions (R349). -/
def ldpcRows (code zc span : Nat) : Nat :=
  min (if code = 0 then 46 else 42) (max 4 (2 + (span - 1) / max zc 1 + 1 - (if code = 0 then 22 else 10)))

/-- Decode an LDPC block from its LLRs by buffer position; `span` positions were read (R349 to R351). -/
def ldpcDecode (s : Seg) (r : Nat) (llr : Nat → Int) (span maxit : Nat) (et : Bool) (ofs : Nat) : Decoded :=
  let zc := s.zc
  let kc := if s.code = 0 then 22 else 10
  let l := ldpcRows s.code zc span
  let cols := kc + l
  let filler (v : Nat) : Bool := decide (s.kp ≤ v) && decide (v < kc * zc)
  let app0 : Array Int := ((List.range (cols * zc)).map fun v =>
    if filler v then 511 else if v < 2 * zc then 0 else if v - 2 * zc < span then llr (v - 2 * zc) else 0).toArray
  let checks := (List.range l).flatMap fun row => (List.range zc).map fun z => ldpcVars s.code zc cols row z
  let (it, app) := ldpcRun ofs filler checks et maxit 0 (checks.map fun vs => vs.map fun _ => 0) app0
  let hard (v : Nat) : Bool := decide (app.getD v 0 < 0)
  let bits := (List.range s.kp).map hard
  let flips := ((List.range (min span ((cols - 2) * zc))).filter fun k =>
    llr k != 0 && !filler (k + 2 * zc) && hard (k + 2 * zc) != decide (llr k < 0)).length
  let st := if !ldpcOk checks app then 2
    else if s.c = 1 || crcOk 24 crc24b bits then 0 else 1
  let _ := r
  { bits := bits, status := st, iter := it, rows := l, flips := min flips 0xFFFF }

/-- Sum of the first `cols` columns in check `z` of a row. -/
def ldpcSum (bg zc cols row z : Nat) (cw : Array Bool) : Bool :=
  (ldpcVars bg zc cols row z).foldl (fun s v => s != cw.getD v false) false

/-- Append the column whose bits, shifted by `sh`, are those of `f`. -/
def pushCol (zc sh : Nat) (cw : Array Bool) (f : Nat → Bool) : Array Bool :=
  cw ++ ((List.range zc).map fun x => f ((x + zc - sh % zc) % zc)).toArray

/-- Append column `col`, which row `row` fixes from the columns before it. -/
def ldpcSolve (bg zc : Nat) (cw : Array Bool) (row col : Nat) : Array Bool :=
  pushCol zc ((Config.ldpcShift bg (liftSet zc) row col).getD 0) cw fun z => ldpcSum bg zc col row z cw

/-- Codeword of an LDPC block in buffer order: columns 2 onward (R359). In the sum of rows 0 to 3 only the first parity
column stays, under the one of its shifts that occurs an odd number of times; rows 0 to 2 then give the next three and
every later row its own (the form that the base graphs of TS 38.212 have: log 6). -/
def ldpcEncode (code zc : Nat) (sys : List Bool) : List Bool :=
  let kb := if code = 0 then 22 else 10
  let shifts := (List.range 4).filterMap fun row => Config.ldpcShift code (liftSet zc) row kb
  let odd := (shifts.find? fun v => (shifts.filter (· == v)).length % 2 == 1).getD 0
  let cw := sys.toArray
  let cw := pushCol zc odd cw fun z => (List.range 4).foldl (fun s row => s != ldpcSum code zc kb row z cw) false
  let cw := (List.range 3).foldl (fun cw row => ldpcSolve code zc cw row (kb + 1 + row)) cw
  let cw := (rangeFrom 4 ((if code = 0 then 46 else 42) - 4)).foldl (fun cw row => ldpcSolve code zc cw row (kb + row)) cw
  cw.toList.drop (2 * zc)

/-! ## Turbo (R353, R354, R359) -/

/-- Constituent encoder step from state `s` (bit 0 the newest) on input `u`: parity and next state. -/
def turboStep (s : Nat) (u : Bool) : Bool × Nat :=
  let a := u != (bit s 1 != bit s 2)
  (a != (bit s 0 != bit s 2), b2n a + 2 * (s % 4))

/-- Parity bits and final state of a constituent encoder. -/
def turboPar (us : List Bool) : List Bool × Nat :=
  us.foldl (fun (ps, s) u => let (p, s') := turboStep s u; (ps ++ [p], s')) ([], 0)

/-- The three tail inputs and parities from a state. -/
def turboTail (s : Nat) : List (Bool × Bool) :=
  let go (s : Nat) : (Bool × Bool) × Nat :=
    let u := bit s 1 != bit s 2
    let (p, s') := turboStep s u
    ((u, p), s')
  let (a, s) := go s
  let (b, s) := go s
  let (c, _) := go s
  [a, b, c]

/-- QPP interleaver of block size `k` (TS 36.212 clause 5.1.3.2.3). -/
def qpp (k i : Nat) : Nat := (Config.qppF1 k * i + Config.qppF2 k * i ^ 2) % k

/-- The three streams d⁰, d¹, d² of K + 4 bits (TS 36.212 clause 5.1.3.2). -/
def turboStreams (k : Nat) (us : List Bool) : List (List Bool) :=
  let us' := (List.range k).map fun i => us.getD (qpp k i) false
  let (p1, s1) := turboPar us
  let (p2, s2) := turboPar us'
  let t := turboTail s1
  let t' := turboTail s2
  let x (l : List (Bool × Bool)) (i : Nat) : Bool := (l.getD i (false, false)).1
  let z (l : List (Bool × Bool)) (i : Nat) : Bool := (l.getD i (false, false)).2
  [us ++ [x t 0, z t 1, x t' 0, z t' 1], p1 ++ [z t 0, x t 2, z t' 0, x t' 2], p2 ++ [x t 1, z t 2, x t' 1, z t' 2]]

/-- Codeword of a turbo block in buffer order, 0 at <NULL> positions, which selection passes over. -/
def turboEncode (k : Nat) (us : List Bool) : List Bool :=
  let ds := turboStreams k us
  (List.range (96 * turboRows k)).map fun j =>
    match turboSrc k j with
    | none => false
    | some (st, i) => (ds.getD st []).getD i false

/-- Saturation of a state metric to 12 bits. -/
def sat12 (x : Int) : Int := clampI (-2048) 2047 x

/-- Normalise state metrics to state 0 and saturate them. -/
def normMetrics (m : List Int) : List Int := m.map fun x => sat12 (x - m.headD 0)

/-- Larger of a list of integers. -/
def maxList (l : List Int) : Int :=
  match l with
  | [] => -4096
  | x :: xs => xs.foldl max x

/-- Gain of a branch: a bit of LLR l counts 0 as 0 and −l as 1. -/
def branchGain (l : Int) (b : Bool) : Int := if b then -l else 0

/-- One forward step of the state metrics over LLRs of input and parity. -/
def fwdStep (m : List Int) (li lp : Int) : List Int :=
  normMetrics ((List.range 8).map fun t => maxList ((List.range 8).flatMap fun s =>
    [false, true].filterMap fun u =>
      let (p, s') := turboStep s u
      if s' = t then some (m.getD s 0 + branchGain li u + branchGain lp p) else none))

/-- One backward step. -/
def bwdStep (m : List Int) (li lp : Int) : List Int :=
  normMetrics ((List.range 8).map fun s => maxList ([false, true].map fun u =>
    let (p, s') := turboStep s u
    m.getD s' 0 + branchGain li u + branchGain lp p))

/-- Metrics of a trellis that is in state 0. -/
def zeroState : List Int := [0, -2048, -2048, -2048, -2048, -2048, -2048, -2048]

/-- Equiprobable metrics. -/
def evenState : List Int := [0, 0, 0, 0, 0, 0, 0, 0]

/-- Scan of a list of steps, the metrics before each step and those after the last. -/
def scanSteps (f : List Int → Int → Int → List Int) (m : List Int) (ls : List (Int × Int)) : List (List Int) × List Int :=
  ls.foldl (fun (out, m) x => (out ++ [m], f m x.1 x.2)) ([], m)

/-- Boundary metrics kept between iterations: forward at each window start, backward at each window end. -/
structure SisoMem where
  fwd : List (List Int) := List.replicate 16 evenState
  bwd : List (List Int) := List.replicate 16 evenState

/-- One half-iteration of max-log-MAP over 16 windows: the a-posteriori LLR of each step, and the boundary metrics of the
next iteration (R353). -/
def siso (k : Nat) (ls : List (Int × Int)) (tail : List (Int × Int)) (mem : SisoMem) : List Int × SisoMem :=
  let wl := ceilDiv k 16
  let tailM := (tail.reverse.foldl (fun m x => bwdStep m x.1 x.2) zeroState)
  let ws := (List.range 16).map fun w => (ls.drop (w * wl)).take wl
  let last := (k - 1) / max wl 1
  let outs := (List.range 16).map fun w =>
    let seg := ws.getD w []
    let a0 := if w = 0 then zeroState else mem.fwd.getD w evenState
    let b0 := if w = last then tailM else mem.bwd.getD w evenState
    let (alphas, aEnd) := scanSteps fwdStep a0 seg
    let (betasR, bStart) := scanSteps bwdStep b0 seg.reverse
    let betas := betasR.reverse
    let llrs := (List.range seg.length).map fun i =>
      let al := alphas.getD i evenState
      let be := betas.getD i evenState
      let x := seg.getD i (0, 0)
      let best (u : Bool) : Int := maxList ((List.range 8).map fun s =>
        let (p, s') := turboStep s u
        al.getD s 0 + branchGain x.1 u + branchGain x.2 p + be.getD s' 0)
      best false - best true
    (llrs, aEnd, bStart)
  (outs.flatMap fun o => o.1,
   { fwd := (List.range 16).map fun w => if w = 0 then zeroState else (outs.getD (w - 1) ([], evenState, evenState)).2.1
     bwd := (List.range 16).map fun w => (outs.getD (w + 1) ([], evenState, evenState)).2.2 })

/-- Extrinsic value scaled by SCALE / 16, rounded and saturated to ±127 (R353). -/
def extScale (scale : Nat) (x : Int) : Int :=
  satB (({ Ex.ofInt (x * scale) with den := 16 } : Ex).roundInt) 127

/-- Full iterations of a turbo decoder: count run and the hard decisions. -/
def turboRun (k scale : Nat) (sys p1 p2 : List Int) (t1 t2 : List (Int × Int)) (check : List Bool → Bool) (et : Bool) :
    Nat → Nat → List Int → SisoMem → SisoMem → List Bool → Nat × List Bool
  | 0, n, _, _, _, hard => (n, hard)
  | f + 1, n, la, m1, m2, _ =>
    let in1 := (List.range k).map fun i => sys.getD i 0 + la.getD i 0
    let (o1, m1) := siso k (in1.zip p1) t1 m1
    let e1 := (List.range k).map fun i => extScale scale (o1.getD i 0 - in1.getD i 0)
    let pi (i : Nat) : Nat := qpp k i
    let in2 := (List.range k).map fun i => sys.getD (pi i) 0 + e1.getD (pi i) 0
    let (o2, m2) := siso k (in2.zip p2) t2 m2
    let inv (j : Nat) : Nat := ((List.range k).find? fun i => pi i == j).getD 0
    let hard := (List.range k).map fun j => decide (o2.getD (inv j) 0 < 0)
    let la' := (List.range k).map fun j => extScale scale (o2.getD (inv j) 0 - in2.getD (inv j) 0)
    if et && check hard then (n + 1, hard)
    else turboRun k scale sys p1 p2 t1 t2 check et f (n + 1) la' m1 m2 hard

/-- Decode a turbo block from its LLRs by buffer position (R353, R354). -/
def turboDecode (s : Seg) (r : Nat) (llr : Nat → Int) (maxit : Nat) (et : Bool) (scale : Nat) : Decoded :=
  let k := s.k r
  let n := 96 * turboRows k
  let stream (st : Nat) : List Int := (List.range (k + 4)).map fun i =>
    if decide (r = 0) && decide (st < 2) && decide (i < s.fill) then 31
    else match (List.range n).find? fun j => turboSrc k j == some (st, i) with
      | some j => llr j
      | none => 0
  let d0 := stream 0
  let d1 := stream 1
  let d2 := stream 2
  let g (l : List Int) (i : Nat) : Int := l.getD (k + i) 0
  let t1 := [(g d0 0, g d1 0), (g d2 0, g d0 1), (g d1 1, g d2 1)]
  let t2 := [(g d0 2, g d1 2), (g d2 2, g d0 3), (g d1 3, g d2 3)]
  let drop := if r = 0 then s.fill else 0
  let poly := if s.c = 1 then crc24a else crc24b
  let check (h : List Bool) : Bool := crcOk 24 poly (h.drop drop)
  let (it, hard) := turboRun k scale (d0.take k) (d1.take k) (d2.take k) t1 t2 check et maxit 0 [] {} {} []
  let cw := turboEncode k hard
  let flips := ((List.range n).filter fun j =>
    llr j != 0 && !s.skips r j && cw.getD j false != decide (llr j < 0)).length
  { bits := hard.drop drop, status := if check hard then 0 else 1, iter := it, rows := 0, flips := min flips 0xFFFF }

/-! ## Polar (R362, R363) -/

/-- Sub-block interleaver pattern of TS 38.212 table 5.4.1.1-1. -/
def polarSub : List Nat :=
  [0, 1, 2, 4, 3, 5, 6, 7, 8, 16, 9, 17, 10, 18, 11, 19, 12, 20, 13, 21, 14, 22, 15, 23, 24, 25, 26, 28, 27, 29, 30, 31]

/-- J(n) of the sub-block interleaver. -/
def polarJ (n i : Nat) : Nat := polarSub.getD (32 * i / n) 0 * (n / 32) + i % (n / 32)

/-- ⌈log₂ x⌉. -/
def clog2 (x : Nat) : Nat := if x ≤ 1 then 0 else (x - 1).log2 + 1

/-- log₂ of the mother code length, nmax = 10 (TS 38.212 clause 5.3.1). -/
def polarN (k e : Nat) : Nat :=
  let l := clog2 e
  let n1 := if 8 * e ≤ 9 * 2 ^ (l - 1) && 16 * k < 9 * e then l - 1 else l
  max 5 (min (min n1 (clog2 (8 * k))) 10)

/-- Positions forced frozen by rate matching (TS 38.212 clause 5.4.1.1). -/
def polarForced (n k e : Nat) : List Nat :=
  if n ≤ e then []
  else if 16 * k ≤ 7 * e then
    (List.range (n - e)).map (polarJ n) ++
      List.range (if 3 * n ≤ 4 * e then ceilDiv (3 * n - 2 * e) 4 else ceilDiv (9 * n - 4 * e) 16)
  else (rangeFrom e (n - e)).map (polarJ n)

/-- Information and parity-check positions: `k` + `pc` most reliable free positions, most reliable first. -/
def polarInfo (n k pc e : Nat) : List Nat :=
  let q := ((List.range 1024).map fun i => Config.polarOrder i % 1024).filter (· < n)
  ((q.filter fun i => !(polarForced n k e).contains i).reverse).take (k + pc)

/-- Number of ones of `i`: a row of the generator has weight 2 to this. -/
def popCount (i : Nat) : Nat := ((List.range 10).filter (bit i)).length

/-- Parity-check positions among the information set (TS 38.212 clause 5.3.1.2). -/
def polarPc (n k e : Nat) (info : List Nat) : List Nat :=
  if k < 18 ∨ 25 < k then []
  else
    let wm := if 189 < e - k then 1 else 0
    let least := info.reverse.take (3 - wm)
    let rest := info.take k
    let wmin := (rest.map popCount).foldl min 10
    least ++ (rest.filter fun i => popCount i == wmin).take wm |>.filter (· < n)

/-- Polar transform of a list of length 2^n. -/
def polarEnc : Nat → List Bool → List Bool
  | 0, u => u
  | n + 1, u =>
    let h := 2 ^ n
    let a := polarEnc n (u.take h)
    let b := polarEnc n (u.drop h)
    (List.zipWith (· != ·) a b) ++ b

/-- sign with sign(0) = +1. -/
def sgn (x : Int) : Int := if x < 0 then -1 else 1

/-- f of R363. -/
def polarF (a b : Int) : Int := sgn a * sgn b * min (a.natAbs : Int) (b.natAbs : Int)

/-- g of R363. -/
def polarG (a b : Int) (u : Bool) : Int := satB (b + (if u then -a else a)) 127

/-- LLR of leaf `i` given the bits before it. -/
def polarLeaf : Nat → List Int → List Bool → Nat → Int
  | 0, ls, _, _ => ls.headD 0
  | n + 1, ls, us, i =>
    let h := 2 ^ n
    let a := ls.take h
    let b := ls.drop h
    if i < h then polarLeaf n (List.zipWith polarF a b) us i
    else
      let x := polarEnc n (us.take h)
      polarLeaf n (List.zipWith (fun (p : Int × Int) u => polarG p.1 p.2 u) (a.zip b) x) (us.drop h) (i - h)

/-- A path of the list: bits so far, metric, and the parity-check register. -/
structure PolarPath where
  us : List Bool
  metric : Nat
  reg : List Bool

/-- Keep the `m` candidates with the smallest metrics, ties in the order given. -/
def keepBest (m : Nat) (l : List PolarPath) : List PolarPath :=
  if l.length ≤ m then l
  else
    let idx := l.zipIdx
    let better (a b : PolarPath × Nat) : Bool := decide (a.1.metric < b.1.metric) ||
      (decide (a.1.metric = b.1.metric) && decide (a.2 < b.2))
    (idx.filter fun p => decide ((idx.filter fun q => better q p).length < m)).map (·.1)

/-- Extend a path by a bit, given its leaf LLR. -/
def PolarPath.push (p : PolarPath) (lam : Int) (u info : Bool) : PolarPath :=
  let pen := if u != decide (lam < 0) then lam.natAbs else 0
  let r := p.reg.drop 1 ++ p.reg.take 1
  let r := if info then (r.headD false != u) :: r.drop 1 else r
  { us := p.us ++ [u], metric := p.metric + pen, reg := r }

/-- Successive-cancellation list decoding: the surviving paths (R363). -/
def polarList (n : Nat) (ls : List Int) (info pc : List Nat) (m : Nat) : List PolarPath :=
  (List.range (2 ^ n)).foldl (fun paths i =>
    if pc.contains i then
      paths.map fun p => p.push (polarLeaf n ls p.us i) ((p.reg.drop 1 ++ p.reg.take 1).headD false) false
    else if info.contains i then
      keepBest m (paths.flatMap fun p =>
        let lam := polarLeaf n ls p.us i
        [p.push lam false true, p.push lam true true])
    else paths.map fun p => p.push (polarLeaf n ls p.us i) false false) [⟨[], 0, List.replicate 5 false⟩]

/-- Undo the triangular interleaver of TS 38.212 clause 5.4.1.3. -/
def polarDeIbil (ls : List Int) : List Int :=
  let e := ls.length
  let t := ((List.range (e + 1)).find? fun t => decide (2 * e ≤ t * (t + 1))).getD 0
  let cells := (List.range t).flatMap fun j => (List.range t).filterMap fun i =>
    let k := i * t - i * (i - 1) / 2 + j
    if i + j < t && k < e then some k else none
  (List.range e).map fun k => ls.getD ((cells.findIdx? (· == k)).getD 0) 0

/-- Channel LLRs of the mother code from the rate-matched LLRs (R362). -/
def polarUnmatch (n k : Nat) (ls : List Int) : List Int :=
  let nn := 2 ^ n
  let e := ls.length
  let y (i : Nat) : Int :=
    if nn ≤ e then (List.range (e / nn + 1)).foldl (fun s q => if i + q * nn < e then satB (s + ls.getD (i + q * nn) 0) 127
      else s) 0
    else if 16 * k ≤ 7 * e then (if i < nn - e then 0 else ls.getD (i - (nn - e)) 0)
    else if i < e then ls.getD i 0 else 127
  (List.range nn).map fun j => y (((List.range nn).find? fun i => polarJ nn i == j).getD 0)

/-- Decode one segment: its payload bits, the chosen metric and whether every CRC failed (R363). -/
def polarSegment (ls : List Int) (k crcW : Nat) (ibil : Bool) (list : Nat) : List Bool × Nat × Bool :=
  let e := ls.length
  let n := polarN k e
  let ls := if ibil then polarDeIbil ls else ls
  let pcN := if 18 ≤ k ∧ k ≤ 25 then 3 else 0
  let info := polarInfo (2 ^ n) k pcN e
  let pc := polarPc (2 ^ n) k e info
  let paths := polarList n (polarUnmatch n k ls) info pc list
  let bitsOfP (p : PolarPath) : List Bool :=
    (p.us.zipIdx.filter fun x => info.contains x.2 && !pc.contains x.2).map (·.1)
  let poly := if crcW = 6 then 0x21 else 0x621
  let good := paths.filter fun p => crcOk crcW poly (bitsOfP p)
  let pick (l : List PolarPath) : Option PolarPath :=
    l.find? fun p => l.all fun q => decide (p.metric ≤ q.metric)
  match pick good, pick paths with
  | some p, _ => ((bitsOfP p).take (k - crcW), p.metric, false)
  | none, some p => ((bitsOfP p).take (k - crcW), p.metric, true)
  | none, none => ([], 0, true)

/-- Segments of a request: number, bits of each before CRC, CRC width (TS 38.212 clauses 5.2.1 and 6.3.1.2). -/
def polarSplit (a e : Nat) : Nat × Nat × Nat :=
  let two := (decide (360 ≤ a) && decide (1088 ≤ e)) || decide (1013 ≤ a)
  let c := if two then 2 else 1
  (c, ceilDiv a c, if a < 20 then 6 else 11)

end Sys2Proof.Machine
end

