-- ==== Sys2Proof/Machine/Chain.lean ====
section
/-! DEFINITION. The double-banked tables of the receive and the transmit chain: entries, the background build and the
swap (R278 to R284, R292, R320 to R323). `tx` chooses the chain throughout. -/

namespace Sys2Proof.Machine

/-- Replace a chain's swap state. -/
def Dev.setSw (d : Dev) (tx : Bool) (s : SwapSt) : Dev :=
  if tx then { d with txc := { d.txc with sw := s } } else { d with rxc := { d.rxc with sw := s } }

/-- Entry of bank `k` of stream `s` (R278). -/
def Dev.streamBank (d : Dev) (tx : Bool) (s k : Nat) : List Byte :=
  d.tbl.read (cellTbl tx + 0x2000 + (2 * s + k) * 16) 16

/-- Active bank of stream `s`. -/
def Dev.streamAct (d : Dev) (tx : Bool) (s : Nat) : Nat := b2n (bit (d.sw tx).streamBank s)

/-- The active entry of a stream. -/
def Dev.activeStream (d : Dev) (tx : Bool) (s : Nat) : List Byte := d.streamBank tx s (d.streamAct tx s)

/-- The active entry of a cell. -/
def Dev.activeCell (d : Dev) (tx : Bool) (c : Nat) : List Byte := d.cellBank tx c (d.activeBank tx c)

/-- Does slot `s` lie before a swap at slot `old` of the numbering before it and `new` of the one after? Where a change of
numerology makes a number occur on both sides, it counts to the side it lies nearer (log 112). -/
def beforeSwap (old new s : Nat) : Bool := decide (s < new) || (decide (s < old) && decide (old - s ≤ s - new))

/-- Streams whose staged or active bank names cell `c` (R281, R283). -/
def Dev.cellStreams (d : Dev) (tx : Bool) (c : Nat) : List Nat :=
  (List.range 256).filter fun s => streamOf (d.streamBank tx s 0) c || streamOf (d.streamBank tx s 1) c

/-- Numerology on which cell `c` counts its boundaries: the staged entry's when the active one is off. -/
def Dev.swapMu (d : Dev) (tx : Bool) (c : Nat) : Nat :=
  let a := d.activeCell tx c
  if ceEnable a then ceMu a else ceMu (d.cellBank tx c (1 - d.activeBank tx c))

/-- The slot that begins at the boundary of slot `old`, or next after it, in the numbering of the staged entry. -/
def Dev.newSlot (d : Dev) (tx : Bool) (c old : Nat) : Nat :=
  let e := d.cellBank tx c (1 - d.activeBank tx c)
  if ceEnable e then ceilDiv (old * 2 ^ ceMu e) (2 ^ d.swapMu tx c) else old

/-- The swap of cell `c` that is ready, as the boundary that it will make. -/
def Dev.readySwap (d : Dev) (tx : Bool) (c : Nat) : Option (Nat × Nat) :=
  ((d.sw tx).ready.find? (·.1 == c)).map fun x => (x.2, d.newSlot tx c x.2)

/-- Do the banks of slot `s` (without wrap) of cell `c`, of stream `st` with one given, lie in the bank that is staged now?
Each swap made after the slot has changed them, and a swap that is ready governs the slots from its boundary on (R283).
-/
def Dev.otherBank (d : Dev) (tx : Bool) (c s : Nat) (st : Option Nat) : Bool :=
  let made := (d.sw tx).since.filter fun x => x.1 == c && beforeSwap x.2.1 x.2.2.1 s && st.all fun i => x.2.2.2.contains i
  let due := match d.readySwap tx c with
    | some (old, new) => !beforeSwap old new s && st.all fun i => (d.cellStreams tx c).contains i
    | none => false
  decide (made.length % 2 = 1) != due

/-- The entry that governs slot `s` of cell `c` (R283). -/
def Dev.cellFor (d : Dev) (tx : Bool) (c s : Nat) : List Byte :=
  let k := d.activeBank tx c
  d.cellBank tx c (if d.otherBank tx c s none then 1 - k else k)

/-- The entry of stream `st` that governs slot `s` of cell `c` (R283). -/
def Dev.streamFor (d : Dev) (tx : Bool) (st c s : Nat) : List Byte :=
  let k := d.streamAct tx st
  d.streamBank tx st (if d.otherBank tx c s (some st) then 1 - k else k)

/-- The slot of cell `c` that follows slot `s`, across the change of numbering that a swap with a new numerology makes. -/
def Dev.nextSlot (d : Dev) (tx : Bool) (c s : Nat) : Nat :=
  match (d.sw tx).since.find? fun x => x.1 == c && x.2.1 == s + 1 with
  | some x => x.2.2.1
  | none => match d.readySwap tx c with
    | some (old, new) => if old = s + 1 then new else s + 1
    | none => s + 1

/-- Enabled streams of cell `c` in slot `s`: number and entry, ascending. -/
def Dev.streamsOf (d : Dev) (tx : Bool) (c s : Nat) : List (Nat × List Byte) :=
  (List.range 256).filterMap fun st =>
    let e := d.streamFor tx st c s
    if streamOf e c then some (st, e) else none

/-- KIND of a stream entry. -/
def seKind (e : List Byte) : Nat := bits (leAt e 0 2) 14 13
/-- ROW of a stream entry. -/
def seRow (e : List Byte) : Nat := bits (leAt e 0 2) 7 0
/-- HDR of a stream entry. -/
def seHdr (e : List Byte) : Bool := bit (leAt e 2 1) 4
/-- Mantissa width m = BW + 8 of a stream entry. -/
def seM (e : List Byte) : Nat := bits (leAt e 2 1) 3 0 + 8
/-- EAXC of a stream entry. -/
def seEaxc (e : List Byte) : Nat := leAt e 4 2
/-- PORT of a transmit stream entry. -/
def sePort (e : List Byte) : Nat := bits (leAt e 3 1) 2 0

/-- Is the 8-byte address field at `o` free of reserved bits and a multiple of `al`? -/
def addrOk (e : List Byte) (o al : Nat) : Bool := leAt e (o + 5) 3 == 0 && leAt e o 5 % al == 0

/-- Does an address lie in a window of the Commons? -/
def inCommons (a : Nat) : Bool := decide (0x1800000000 ≤ a) && decide (a < 0x1801000000)

/-- Does an address lie in LPDDR5X? -/
def inLp (a : Nat) : Bool := decide (a < 0x1000000000)

/-- Field check of a receive cell entry (R279). -/
def rxCellOk (e : List Byte) : Bool :=
  let w := leAt e 0 4
  let w1 := leAt e 4 4
  let res := bits w 8 0 == 0 && bits w1 15 14 == 0 && bits w1 31 30 == 0 && leAt e 20 4 == 0 &&
    (slice e 88 40).all (· == 0) && [24, 32, 40, 48, 80].all (addrOk e · 64) && [56, 64, 72].all (addrOk e · 1)
  let n := ceNprb e
  res && decide (1 ≤ n) && decide (n ≤ 273) && decide (1 ≤ ceNstream e) && decide (ceNstream e ≤ 256) &&
    [1, 2].contains (bits w 10 9) && (inCommons (leAt e 24 5) || inLp (leAt e 24 5)) && inCommons (leAt e 32 5)

/-- Field check of a transmit cell entry (R322, R336). -/
def txCellOk (e : List Byte) : Bool :=
  let w := leAt e 0 4
  let eg := bit w 10
  let x := leAt e 64 4
  let y := leAt e 68 4
  let nn := 2 ^ bits x 3 0
  let res := bits w 5 0 == 0 && (slice e 72 56).all (· == 0) && [24, 32, 40].all (addrOk e · 64) && addrOk e 48 1 &&
    leAt e 61 3 == 0 && bits x 31 18 == 0 && bits y 31 30 == 0
  let td := !eg || (addrOk e 56 4096 && inCommons (leAt e 56 5) && decide (9 ≤ bits x 3 0) && decide (bits x 3 0 ≤ 12) &&
    decide (bits x 10 4 ≤ 64) && decide (bits x 10 4 % 8 = 0) && decide (bits x 10 4 ≤ 9 * nn / 128) &&
    decide (bits x 17 11 ≤ 64) && decide (256 ≤ bits y 11 0) && decide (bits y 11 0 ≤ 2048) &&
    decide (bits y 11 0 % 256 = 0) && decide (1 ≤ bits y 29 24) && decide (bits y 29 24 ≤ 32))
  res && decide (1 ≤ ceNprb e) && decide (ceNprb e ≤ 273) && decide (1 ≤ ceNstream e) && decide (ceNstream e ≤ 256) &&
    decide (bits w 9 7 ≤ 4) && inCommons (leAt e 24 5) && inLp (leAt e 40 5) && td

/-- Field check of a stream entry of a cell with `rows` rows (R280, R321). -/
def streamOk (tx : Bool) (rows : Nat) (e : List Byte) : Bool :=
  let b2 := leAt e 2 1
  let b3 := leAt e 3 1
  bits b2 7 5 == 0 && (slice e 6 10).all (· == 0) && (if tx then bits b3 7 3 == 0 && seKind e == 0 else b3 == 0) &&
  (!bit (leAt e 0 2) 15 || (decide (seKind e ≤ 1) && [1, 4, 6].contains (bits b2 3 0) && decide (seRow e < rows)))

/-- Shortest and longest slot, and shortest symbol 0, of a numerology, in Tc (R292). -/
def slotTcs (mu : Nat) : Nat × Nat × Nat :=
  let base := 14 * (140288 / 2 ^ mu)
  match mu with
  | 0 => (base + 2048, base + 2048, 141312)
  | 1 => (base + 1024, base + 1024, 71168)
  | m => (base, base + 1024, 140288 / 2 ^ m)

/-- The grid reuse condition of R292, in units of Tc · 15,625 = ns · 30,720. -/
def gridReuseOk (e : List Byte) : Bool :=
  let (tmin, tmax, smin) := slotTcs (ceMu e)
  let g := 2 * bits (leAt e 0 4) 10 9
  let ns (n : Nat) : Nat := 30720 * n
  decide (tmax * 15625 + ns (leAt e 12 4) + ns (leAt e 16 4) ≤ g * tmin * 15625 + ns (leAt e 8 4) + smin * 15625)

/-- RESULT of the build of cell `c` (R282, R316, R323). -/
def Dev.buildResult (d : Dev) (tx : Bool) (c : Nat) : Nat :=
  let e := d.cellBank tx c (1 - d.activeBank tx c)
  let mine := d.cellStreams tx c
  let staged (s : Nat) : List Byte := d.streamBank tx s (1 - d.streamAct tx s)
  let after := (mine.map staged).filter fun x => bit (leAt x 0 2) 15
  let others := ((List.range 256).filter fun s => !mine.contains s).map (d.activeStream tx ·) |>.filter fun x =>
    bit (leAt x 0 2) 15
  let eaxcs := after.map seEaxc
  if !((if tx then txCellOk e else rxCellOk e) && mine.all fun s => streamOk tx (ceNstream e) (staged s)) then 1
  else if (eaxcs.zipIdx.any fun x => (eaxcs.drop (x.2 + 1)).contains x.1 || (others.map seEaxc).contains x.1) then 2
  else if tx then
    let eg (x : List Byte) : Bool := bit (leAt x 0 4) 10
    let td := (List.range 256).filter fun s => [0, 1].any fun k =>
      let x := d.streamBank tx s k
      bit (leAt x 0 2) 15 && (let cc := bits (leAt x 0 2) 12 8; eg (d.cellBank tx cc 0) || eg (d.cellBank tx cc 1))
    if leAt e 8 4 ≤ leAt e 12 4 then 3
    else if (eg e && (decide (1 < ceMu e) || decide (2 ^ bits (leAt e 64 4) 3 0 < 12 * ceNprb e))) ||
      decide (64 < td.length) then 4
    else 0
  else if leAt e 12 4 ≤ leAt e 8 4 then 3
  else if gridReuseOk e then 0 else 4

/-- Event SOURCE of a chain (R554). -/
def chainSrc (tx : Bool) : Nat := if tx then 5 else 4

/-- A write of GO for cell `c`: the build starts, unless one is in progress (R281). -/
def effSwapGo (tx : Bool) (c : Nat) (d : Dev) : Dev :=
  let pg := chainPage tx
  let s := d.sw tx
  if s.build.isSome then d.err pg 0 errState 0x104
  else
    let d := d.setSw tx { s with build := some (c, d.reg pg 0 0x108) }
    d.setReg pg 0 0x10C (2 ^ 31 + d.fld pg 0 0x10C 27 24 * 2 ^ 24 + c)

/-- The slot at whose boundary a swap that has become ready takes place: the first one from TARGET on that begins now or
later (R283). -/
def Dev.swapSlot (d : Dev) (tx : Bool) (c target : Nat) : Nat :=
  let mu := d.swapMu tx c
  let first := match d.slotNow mu with
    | none => 0
    | some now => if d.inTick (d.symStart mu now 0) then now else now + 1
  max first (d.absSlot mu target)

/-- BUILD_DONE: the build ends; a swap becomes ready, or the request is cancelled. The intake deadlines of a transmit cell
that the swap starts count from its first slot on (R282, R283, R324). -/
def effBuildDone (tx : Bool) (d : Dev) : Dev :=
  let pg := chainPage tx
  let s := d.sw tx
  match s.build with
  | none => d
  | some (c, target) =>
    let r := d.buildResult tx c
    let keep := s.ready.filter (·.1 != c)
    let d := d.setReg pg 0 0x10C (r * 2 ^ 24 + c)
    if r = 0 then
      let first := d.swapSlot tx c target
      let starts := tx && !ceEnable (d.activeCell tx c) && ceEnable (d.cellBank tx c (1 - d.activeBank tx c))
      let d := d.setSw tx { s with build := none, ready := keep ++ [(c, first)] }
      let d := if starts then
          { d with txc := { d.txc with nextIntake := (d.txc.nextIntake.filter (·.1 != c)) ++ [(c, d.newSlot tx c first)] } }
        else d
      d.setFld pg 0 0x118 c c 1
    else
      let d := d.setSw tx { s with build := none, ready := keep }
      (d.setFld pg 0 0x118 c c 0).post pg 0 (chainSrc tx) 3 0 (layout 20 [(0, 1, c), (1, 1, r)])

/-- Cell `c` starts with slot `now`: its slots fall due from there on, and nothing of an earlier run of it stays. -/
def Dev.startCell (tx : Bool) (c now : Nat) (d : Dev) : Dev :=
  let cplane := d.txc.cplane.filter fun x => !(x.1 == c && x.2.1 == !tx) || decide (now ≤ x.2.2)
  if tx then
    { d with txc := { d.txc with
        nextIntake := if d.txc.nextIntake.any (·.1 == c) then d.txc.nextIntake else d.txc.nextIntake ++ [(c, now)]
        slots := d.txc.slots.filter fun y => y.cell != c || decide (now ≤ y.slot)
        started := (d.txc.started.filter (·.1 != c)) ++ [(c, now)]
        syms := d.txc.syms.filter fun y => y.cell != c || decide (now ≤ y.slot)
        td := d.txc.td.filter fun h => h.cell != c || decide (14 * now ≤ h.last)
        opened := d.txc.opened.filter fun x => x.1 != c || decide (now ≤ x.2.1)
        closed := d.txc.closed.filter fun x => x.1 != c || decide (now ≤ x.2.1)
        cplane := cplane } }
  else
    { d with
        rxc := { d.rxc with
          slots := d.rxc.slots.filter fun x => x.cell != c || decide (x.seq < now)
          nextPub := (d.rxc.nextPub.filter (·.1 != c)) ++ [(c, now, 0)]
          nextList := (d.rxc.nextList.filter (·.1 != c)) ++ [(c, now)] }
        rsv := { d.rsv with
          plans := d.rsv.plans.filter fun p => p.cell != c || decide (p.slot < now)
          misses := d.rsv.misses.filter fun m => m.1 != c || decide (m.2 < now) }
        txc := { d.txc with cplane := cplane } }

/-- SWAP_DONE at a slot boundary of cell `c`: a swap that was ready there changes the banks; one that is still being built
is postponed, once a boundary (R283, R284). -/
def effSwapDone (tx : Bool) (c : Nat) (d : Dev) : Dev :=
  let pg := chainPage tx
  let s := d.sw tx
  match d.slotNow (d.swapMu tx c) with
  | none => d
  | some now =>
    match s.ready.find? (·.1 == c), s.build with
    | some (_, t), _ =>
      if now < t then d
      else
        let wasOn := ceEnable (d.activeCell tx c)
        let streams := d.cellStreams tx c
        let act := d.activeBank tx c
        let new := d.newSlot tx c t
        let s' : SwapSt := { s with
          ready := s.ready.filter (·.1 != c)
          streamBank := streams.foldl (fun m i => m ^^^ 2 ^ i) s.streamBank
          since := (s.since.filter fun x => x.1 != c || decide (t < x.2.2.1 + 64)) ++ [(c, t, new, streams)]
          passed := s.passed.filter (·.1 != c) }
        let d := d.setSw tx s'
        let d := (d.setFld pg 0 0x110 c c (1 - act)).setFld pg 0 0x118 c c 0
        let d := if wasOn then d.setFld pg 0 0x114 c c 0 else d
        let d := if ceEnable (d.activeCell tx c) && !wasOn then d.startCell tx c new else d
        d.post pg 0 (chainSrc tx) 1 0 (layout 20 [(0, 1, c), (4, 4, new)])
    | none, some (c', t) =>
      if c' == c && reached now t && !s.passed.contains (c, now) then
        let d := d.setSw tx { s with passed := (s.passed.filter (·.1 != c)) ++ [(c, now)] }
        ((d.bump pg 0 0x120 1).sticky pg 0 0).post pg 0 (chainSrc tx) 2 0 (layout 20 [(0, 1, c), (4, 4, now)])
      else d
    | none, none => d

/-- The last slot under the earlier banks of cell `c` has ended: they may be written again (R284). -/
def Dev.bankFree (d : Dev) (tx : Bool) (c s : Nat) : Dev :=
  if (((d.sw tx).since.filter (·.1 == c)).getLast?).any fun x => decide (s + 1 = x.2.1) then
    d.setFld (chainPage tx) 0 0x114 c c 1
  else d

end Sys2Proof.Machine
end

