-- ==== Sys2Proof/Machine/Stream.lean ====
section
/-! DEFINITION. Data movement of the Gleaner and of Stile, and the events of a descriptor's run (R212 to R236). Every
event is of the logical core that runs on the physical core. -/

namespace Sys2Proof.Machine

/-- Bytes moved with the poison of each 64-byte beat of the place they go to, and the counts of R233 and R234: poisoned
beats and beats outside the map. An inbound beat outside the map is a poisoned beat too (DEDUCED, log 29). -/
structure Moved where
  bytes : List Byte
  pois : List Bool
  bad : Nat
  oor : Nat
  deriving DecidableEq, Repr

/-- A device address from an exact sum; a negative one lies outside the map. -/
def devAddr (i : Int) : Nat := (i % (2 ^ 64 : Nat)).toNat

/-- Read `n` bytes for core `c`, as 64-byte beats of an aligned span. -/
def Dev.coreRead (lk : Locked) (d : Dev) (c a n : Nat) : Moved × Dev :=
  let (bs, ps, oor, d) := d.busRead lk (.core c) (d.partOf c) a n
  ({ bytes := bs, pois := ps, bad := (ps.filter id).length, oor := oor }, d)

/-- Two parts one after the other. -/
def Moved.append (a b : Moved) : Moved := ⟨a.bytes ++ b.bytes, a.pois ++ b.pois, a.bad + b.bad, a.oor + b.oor⟩

/-- Nothing moved. -/
def Moved.none : Moved := ⟨[], [], 0, 0⟩

/-- The first `lim` beats of unit `u` of a BLOCK run from the external side, rows in order (R212). -/
def Dev.blockRead (lk : Locked) (d : Dev) (c : Nat) (w : DWords) (u lim : Nat) : Moved × Dev :=
  (dUnitRows w u).foldl (fun (m, d) e =>
    let (x, d) := d.coreRead lk c (devAddr e) (min (dDim w 0 * dZs w) (64 * lim - m.bytes.length))
    (m.append x, d)) (.none, d)

/-- Elements converted between containers, with the poison of each 64-byte beat of the result: a beat is poisoned when
any source beat of its elements is (R52, R214, R233). -/
def convertBeats (src dst : Fmt) (bs : List Byte) (ps : List Bool) : List Byte × List Bool :=
  let zs := src.width / 8
  let zd := dst.width / 8
  let n := bs.length / zs
  let es := (List.range n).map fun i => leBytes zd (convert src dst (leAt bs (i * zs) zs)).1
  (es.flatten, (List.range (ceilDiv (n * zd) 64)).map fun b =>
    (List.range (64 / zd)).any fun j => let i := b * (64 / zd) + j; decide (i < n) && ps.getD (i * zs / 64) false)

/-- The page list of a WALK run: entries with the poison of their beats (R215, R216). -/
def Dev.readList (lk : Locked) (d : Dev) (c : Nat) (w : DWords) : List (Nat × Bool) × Moved × Dev :=
  let n := bits (dw w 5) 7 0
  let (m, d) := d.coreRead lk c (dList w) (4 * n)
  ((List.range n).map fun i => (leAt m.bytes (4 * i) 4, m.pois.getD (i / 16) false), m, d)

/-- Beats that read zero and poisoned because their page lies beyond LPDDR5X (R234). -/
def beyond (n : Nat) : Moved := ⟨List.replicate n 0, List.replicate (n / 64) true, n / 64, n / 64⟩

/-- The first `lim` beats of the unit that a page named in a WALK makes, its sidecar first with SCL. A page that lies
beyond LPDDR5X reads as outside the map; the sidecar lies wherever SCALE puts it (R215, R216, R233, R234). -/
def Dev.pageRead (lk : Locked) (d : Dev) (c : Nat) (w : DWords) (p lim : Nat) : Moved × Dev :=
  let (s, d) := if dScl w && decide (0 < lim) then d.coreRead lk c (dScale w + p * 64) 64 else (.none, d)
  let a := dExt w + p * 8192
  let n := min 8192 (64 * lim - s.bytes.length)
  let (g, d) := if 0x1000000000 < a + 8192 then (beyond n, d) else d.coreRead lk c a n
  (s.append g, d)

/-- Counts and sticky bits of moved beats (R211, R233, R234, R241). -/
def Dev.countMoved (d : Dev) (c : Nat) (m : Moved) : Dev := d.countBeats c m.bad m.oor

/-- Store a span beat by beat with the poison of each beat (R233). -/
def CoreMem.storeBeats (m : CoreMem) (a : Nat) (bs : List Byte) (ps : List Bool) : CoreMem :=
  (List.range (ceilDiv bs.length 64)).foldl (fun m i =>
    m.store (a + 64 * i) (slice bs (64 * i) (min 64 (bs.length - 64 * i))) (ps.getD i false)) m

/-- Change the Gleaner state of the running logical core and settle its rings. -/
def Dev.modGln (d : Dev) (c : Nat) (f : GlnSt → GlnSt) : Dev :=
  d.modCore c fun x => x.setRun { x.run with gln := (f x.run.gln).settle }

/-- GLEANER_REQUEST: one NOC_CLK cycle of requests (R230). -/
def effGleanerRequest (c : Nat) (d : Dev) : Dev := d.modGln c GlnSt.cycle

/-- The buffer that the next unit of a run uses: `st` buffers in order of their units, or the direct-mode span. -/
def DescSt.unitAddr (x : DescSt) (st : BufSt) : Option (Option Nat × Nat) :=
  if x.ring then
    ((x.order.filterMap fun i => (x.buf? i).bind fun b => if b.st = st then some b else none).head?).map fun b =>
      (some b.id, b.addr)
  else some (none, dw x.work 3 + x.deliv * dBuf x.work)

/-- The page list of a WALK has arrived (R216, R233, R234). -/
def Dev.listArrives (lk : Locked) (d : Dev) (c ds : Nat) : Dev :=
  let w := ((d.core c).run.gln.desc ds).work
  let (l, m, d) := d.readList lk c w
  (d.countMoved c m).modGln c fun g => g.modDesc ds fun y => { y with
    list := some l, range := y.range || decide (0 < m.oor), pois := y.pois || decide (0 < m.bad) }

/-- The first `lim` beats of unit `u` arrive at `addr` in SPAD or ACCM: from the external side, or for a WALK from the page
that the list names, zeros from the first invalid entry on, poisoned zeros for an entry that cannot be trusted. `whole`
marks a unit that is complete: it counts as delivered (R211, R213 to R216, R233, R234). -/
def Dev.beatsArrive (lk : Locked) (d : Dev) (c ds addr lim : Nat) (whole : Bool) : Dev :=
  let x := (d.core c).run.gln.desc ds
  let w := x.work
  let walk := dMode w == 1
  let ent := (x.list.getD []).getD (dEntryIx w x.deliv) (0, false)
  let short := walk && (x.short || (!ent.2 && !bit ent.1 31))
  let (m, d) : Moved × Dev :=
    if !walk then d.blockRead lk c w x.deliv lim
    else if short then (⟨List.replicate (64 * lim) 0, List.replicate lim false, 0, 0⟩, d)
    else if ent.2 then (⟨List.replicate (64 * lim) 0, List.replicate lim true, lim, 0⟩, d)
    else d.pageRead lk c w (ent.1 % 2 ^ 24) lim
  let (bs, ps) := if dCvt w then convertBeats (dFmtS w) (dFmtD w) m.bytes m.pois else (m.bytes, m.pois)
  let d := d.countMoved c m
  let d := if short && !x.short then d.sticky .gln c 4 else d
  let d := (d.modCore c fun y => { y with mem := y.mem.storeBeats addr bs ps }).takeMerged c
  d.modGln c fun g => g.modDesc ds fun y => { y with
    deliv := y.deliv + b2n whole
    short := y.short || short
    real := y.real + b2n (whole && !short && !(walk && ent.2))
    pbeats := y.pbeats + (ps.filter id).length
    range := y.range || decide (0 < m.oor), pois := y.pois || decide (0 < m.bad) || ps.any id }

/-- UNIT_DELIVERED: what descriptor `ds` has requested longest has arrived. That is the page list of a WALK, then the
oldest fully requested inbound unit, which is written to its buffer and becomes a token of the queue; of a run that stops,
at last the beats it had requested of a further unit, whose buffer stays without a token. Nothing arrives from LPDDR5X
before the controller is ready (R213, R216, R221, R227, R419). -/
def effUnitDelivered (c ds : Nat) (lk : Locked) (d : Dev) : Dev :=
  let x := (d.core c).run.gln.desc ds
  let w := x.work
  if !((x.state == 1 || x.state == 2) && !dOut w) || d.lpWaits (if x.needsList then dList w else dExt w) then d
  else if x.needsList then (if x.listSent then d.listArrives lk c ds else d)
  else
    match x.unitAddr .filling with
    | none => d
    | some (bid, addr) =>
      if x.deliv < x.unit then
        (d.beatsArrive lk c ds addr (dUnitBeats w) true).modGln c fun g => g.modDesc ds fun y =>
          match bid with
          | some i => y.modBuf i fun b => { b with st := .token }
          | none => y
      else if x.state = 2 ∧ x.sent ≠ 0 then
        (d.beatsArrive lk c ds addr x.sent false).modGln c fun g => g.modDesc ds fun y => { y with sent := 0 }
      else d

/-- OUTBOUND_DRAIN: the oldest fully sent outbound unit of descriptor `ds` has been acknowledged by its target (R212,
R214, R221, R229, R233, R234). -/
def effOutboundDrain (c ds : Nat) (lk : Locked) (d : Dev) : Dev :=
  let x := (d.core c).run.gln.desc ds
  let w := x.work
  if !((x.state == 1 || x.state == 2) && dOut w && decide (x.deliv < x.unit)) || d.lpWaits (dExt w) then d
  else
    match x.unitAddr .draining with
    | none => d
    | some (bid, addr) =>
      let y := d.core c
      let n := dUnitBytes w
      let bs := y.mem.read addr n
      let ps := (List.range (ceilDiv n 64)).map fun i => y.mem.bad (addr + 64 * i) (min 64 (n - 64 * i))
      let d := d.spdUe c (y.mem.ueAddrs addr n)
      let (bs, qs) := if dCvt w then convertBeats (dFmtD w) (dFmtS w) bs ps else (bs, ps)
      let row := dDim w 0 * dZs w
      let (oor, _, d) := (dUnitRows w x.deliv).foldl (fun (r : Nat × Nat × Dev) e =>
        let (o, d) := r.2.2.busWrite lk (.core c) (r.2.2.partOf c) (devAddr e) (slice bs (r.2.1 * row) row)
          (qs.drop (r.2.1 * row / 64))
        (r.1 + o, r.2.1 + 1, d)) (0, 0, d)
      let bad := (qs.filter id).length
      let d := d.countMoved c ⟨[], [], bad, oor⟩
      d.modGln c fun g =>
        let slot := (bid.bind x.buf?).bind (·.slot)
        let g := g.modDesc ds fun y =>
          let y := { y with
            deliv := y.deliv + 1, real := y.real + 1, pbeats := y.pbeats + bad
            range := y.range || decide (0 < oor), pois := y.pois || decide (0 < bad) }
          match bid with
          | none => y
          | some i =>
            if slot.isSome then { y with bufs := y.bufs.filter (fun b => b.id ≠ i), order := removeAll i y.order }
            else { (y.modBuf i fun b => { b with st := .free }) with order := removeAll i y.order }
        match slot with
        | some s => { g with lent := removeAll s g.lent }
        | none => g

/-- Does an operation that issued in the bundle that popped a buffer, or earlier, still access it? Passes, Wash commands,
tracebacks, Hatch stores on their way, loads whose beat is still to come and Stile transfers can (R86, R135). -/
def CoreSt.bufBusy (x : CoreSt) (b : GBuf) : Bool :=
  let buf : Span := ⟨b.addr, 0, b.size, 1, 8⟩
  let early (stamp : Nat) : Bool := decide (stamp ≤ b.stamp)
  let takes (a n : Nat) : Bool := buf.hits a n
  x.plate.passes.any (fun p => early p.stamp && p.spansLeft.any fun s => takes s.1 s.2) ||
  (x.wash.exec.toList ++ x.wash.queue).any (fun w => early w.stamp &&
    ([w.spanA, w.spanD] ++ w.spanB.toList ++ w.spanM.toList).any fun s => s.overlaps buf) ||
  x.htb.any (fun t => early t.stamp && t.addrs.any fun a => takes a 1) ||
  x.run.hatch.pend.any (fun p => early p.stamp && match p.w with
    | .mem cells => cells.any fun e => takes e.1 e.2.1.length
    | _ => false) ||
  x.poisonLoads.any (fun p => takes p.2.2.1 1) ||
  x.run.gln.stile.any fun t => early t.stamp && takes t.loc t.len

/-- BUFFER_RETURN: every access to a popped buffer of a queue has finished (R86). -/
def effBufferReturn (c q : Nat) (d : Dev) : Dev := d.modGln c fun g => g.bufferReturn q (d.core c).bufBusy

/-- POOL_BORROW: a ring borrows a free slot of the pool (R219). -/
def effPoolBorrow (c : Nat) (d : Dev) : Dev := d.modGln c GlnSt.borrow

/-- Bytes of the end record (R228). -/
def DescSt.endRecord (x : DescSt) : List Byte :=
  layout 64 [(0, 4, x.real), (4, 4, x.deliv), (8, 4, x.pbeats),
    (12, 2, b2n x.short + 2 * b2n (x.state == 2) + 4 * b2n x.range)]

/-- Have all units of the run been delivered, its page list too, or, when it stops, all requests sent been completed and a
drain that has started gone to its end (R216, R224, R227)? -/
def DescSt.drained (x : DescSt) : Bool :=
  if x.state = 1 then x.deliv == dUnits x.work && !x.needsList
  else x.deliv == x.unit && x.sent == 0 && !(x.needsList && x.listSent) &&
    !(dOut x.work && x.bufs.any fun b => b.st == .draining)

/-- END_RECORD: the end record of descriptor `ds` goes to the next buffer of its ring as one further token (R227,
R228). -/
def effEndRecord (c ds : Nat) (d : Dev) : Dev :=
  let x0 := (d.core c).run.gln.desc ds
  if !((x0.state == 1 || x0.state == 2) && dEos x0.work && !x0.endDone && x0.ring && x0.drained) then d
  else
    let g := if x0.state = 2 then (d.core c).run.gln.stopBuffers ds else (d.core c).run.gln
    let x := g.desc ds
    match x.nextFree with
    | none => d
    | some b =>
      let d := (d.modCore c fun y => { y with mem := y.mem.storeBeats b.addr x.endRecord [false] }).takeMerged c
      d.modGln c fun _ => g.modDesc ds fun y =>
        { (y.modBuf b.id fun z => { z with st := .token }).advance b with order := y.order ++ [b.id], endDone := true }

/-- RUN_DONE: the run of descriptor `ds` has delivered its last unit, end record included, or its last write is
acknowledged (R224, R225, R229). -/
def effRunDone (c ds : Nat) (d : Dev) : Dev :=
  let x := (d.core c).run.gln.desc ds
  if x.state = 1 && dMode x.work != 2 && x.drained && (!dEos x.work || x.endDone) then
    (d.modGln c fun g => (g.modDesc ds fun y => y.finish 3).takePool ds).freeCore c
  else d

/-- STOP_COMPLETE: a stopping run has completed what it had sent (R224, R225, R227). On a core whose job has ended no
consumer makes room for an end record any more, and the stop does not wait for one (DEDUCED, log 105). -/
def effStopComplete (c ds : Nat) (d : Dev) : Dev :=
  let y := d.core c
  let x := y.run.gln.desc ds
  if x.state = 2 && x.drained && (!dEos x.work || x.endDone || y.ending) then
    (d.modGln c fun g =>
      ((g.stopBuffers ds).modDesc ds fun y => { y with stopped := true }.finish 0).takePool ds).freeCore c
  else d

end Sys2Proof.Machine
end

