-- ==== Sys2Proof/Machine/Jobs.lean ====
section
/-! DEFINITION. The job scheduler: admission, placement, pre-emption, slices and the end of a job (13 of the spec, R392
to R413). -/

namespace Sys2Proof.Machine

/-! ## The job descriptor (R392) -/

/-- JOBID. -/
def Job.id (j : Job) : Nat := leAt j.desc 0 4
/-- CLASS: 0 SLOT, 1 NEAR, 2 BULK, 3 IDLE. -/
def jobClass (d : List Byte) : Nat := leAt d 4 1 % 4
/-- CLASS of a job. -/
def Job.cls (j : Job) : Nat := jobClass j.desc
/-- WNEED. -/
def jobWneed (d : List Byte) : Bool := bit (leAt d 4 1) 3
/-- LMASK. -/
def jobLmask (d : List Byte) : Nat := leAt d 5 1
/-- CELL. -/
def jobCell (d : List Byte) : Nat := leAt d 6 1 % 32
/-- PART. -/
def jobPart (d : List Byte) : Nat := bits (leAt d 6 1) 6 5
/-- SLOTSEQ. -/
def jobSlot (d : List Byte) : Nat := leAt d 8 4
/-- RELEASE. -/
def jobRelease (d : List Byte) : Nat := leAt d 12 4
/-- DEADLINE. -/
def jobDeadline (d : List Byte) : Nat := leAt d 16 4
/-- PREEMPT_NS. -/
def jobPreempt (d : List Byte) : Nat := leAt d 32 4
/-- ISTEP. -/
def jobIstep (d : List Byte) : Nat := leAt d 36 2
/-- CAP. -/
def jobCap (d : List Byte) : Nat := bits (leAt d 38 2) 8 0
/-- DVFS. -/
def jobDvfs (d : List Byte) : Nat := bits (leAt d 38 2) 11 9
/-- PARTMAX. -/
def jobPartmax (d : List Byte) : Nat := bits (leAt d 38 2) 15 12
/-- IMAGE. -/
def jobImage (d : List Byte) : Nat := leAt d 40 8
/-- SPILL. -/
def jobSpill (d : List Byte) : Nat := leAt d 56 8
/-- SEMNEED. -/
def jobSemneed (d : List Byte) : Nat := leAt d 64 8

/-- BOUND_Cp for `p` enabled cores (R393, R399). -/
def jobBound (d : List Byte) (p : Nat) : Nat :=
  match p with
  | 8 => leAt d 20 4 | 7 => leAt d 24 4 | _ => leAt d 28 4

/-- Sum of a time and a span, modulo 2³². -/
def tAdd (a b : Nat) : Nat := (a + b) % 2 ^ 32

/-- The later of two times (R286). -/
def tMax (a b : Nat) : Nat := if laterThan b a then b else a

/-- Reason FIELD of R398: a reserved bit, an empty LMASK, DREL from the ring, PARTMAX 0, a misaligned address. -/
def jobFieldBad (d : List Byte) (ring : Bool) : Bool :=
  decide (leAt d 4 1 / 16 ≠ 0) || decide (leAt d 6 1 / 128 ≠ 0) || decide (leAt d 7 1 ≠ 0) ||
  ([40, 48, 56].any fun o => decide (2 ^ 40 ≤ leAt d o 8) || decide (leAt d o 8 % 64 ≠ 0)) ||
  ((slice d 72 56).any (· != 0)) || jobLmask d == 0 || (ring && bit (leAt d 4 1) 2) || jobPartmax d == 0

/-- Enabled physical cores (R530). -/
def Locked.cores (lk : Locked) : List Nat := bitList 8 lk.coreEn

/-- Does job `j` hold core `c`? A core that a pre-emption has taken from it no longer counts (R399, R404). -/
def Dev.holds (d : Dev) (j : Job) (c : Nat) : Bool := decide (j.phase = .placed) && (d.core c).job == some j.num

/-- Jobs placed at present. -/
def Dev.placed (d : Dev) : List Job := d.sch.jobs.filter fun j => decide (j.phase = .placed)

/-- MAXJOBS of a partition (R411). -/
def Dev.maxJobs (d : Dev) (n : Nat) : Nat := d.fld .sch 0 (0x110 + 4 * n) 3 0

/-- Does partition `n` hold MAXJOBS placed jobs? -/
def Dev.partFull (d : Dev) (n : Nat) : Bool :=
  decide (d.maxJobs n ≤ (d.placed.filter fun j => jobPart j.desc = n).length)

/-- The most recently placed BULK or IDLE job of a partition (R399, R413). -/
def Dev.newestBulk (d : Dev) (n : Nat) : Option Job :=
  (d.placed.filter fun j => jobPart j.desc = n && decide (2 ≤ j.cls)).foldl (fun (b : Option Job) j =>
    match b with
    | none => some j
    | some x => if x.order < j.order then some j else b) none

/-- The projection of a SLOT or NEAR job at time `t` (R399). -/
structure Projection where
  cores : List Nat
  s : Nat
  rp : Nat
  p : Nat
  deriving DecidableEq, Repr

/-- The projection of R399 for a descriptor. -/
def Dev.project (d : Dev) (lk : Locked) (ds : List Byte) : Projection :=
  let t := d.ns
  let en := lk.cores
  let q := min (bitList 8 (jobLmask ds)).length en.length
  let cls := jobClass ds
  let extra := if d.partFull (jobPart ds) then ((d.newestBulk (jobPart ds)).map fun j => jobPreempt j.desc).getD 0 else 0
  let hold := if jobSemneed ds ≠ 0 ∨ jobWneed ds then 10000 else 0
  let a (c : Nat) : Nat :=
    (d.placed.filter fun j => decide (cls < j.cls) && d.holds j c).foldl (fun m j => max m (jobPreempt j.desc)) extra + hold
  let f (c : Nat) : Nat :=
    match (if cls = 0 then d.sch.fS else d.sch.fN).toList.getD c none with
    | some v => if laterThan v t then v else tAdd t (a c)
    | none => tAdd t (a c)
  let off (x : Nat) : Nat := (x + 2 ^ 32 - t) % 2 ^ 32
  let chosen := ((en.mergeSort fun x y => decide (off (f x) < off (f y)) || (off (f x) == off (f y) && decide (x ≤ y))).take q)
  let cs := chosen.mergeSort
  let s := cs.foldl (fun m c => tMax m (f c)) (if jobRelease ds = 0 then t else tMax t (jobRelease ds))
  let rp := tMax s (d.reg .sch 0 0x124)
  { cores := cs, s := s, rp := rp, p := tAdd rp (jobBound ds en.length) }

/-- The greatest number of intervals of a partition that share an instant of [s, p), none when it holds no instant (R413). -/
def Dev.intervalPeak (d : Dev) (n s p : Nat) : Nat :=
  let off (x : Nat) : Nat := (x + 2 ^ 31 + 2 ^ 32 - d.ns) % 2 ^ 32
  let l := (d.sch.intervals.filter fun i => i.1 = n).map fun i => (off i.2.1, off i.2.2)
  let inst := (off s :: l.map (·.1)).filter fun x => decide (off s ≤ x) && decide (x < off p)
  inst.foldl (fun m x => max m (l.filter fun i => decide (i.1 ≤ x) && decide (x < i.2)).length) 0

/-- Reason of a refusal, none for an admission (R398). -/
def Dev.refuseReason (d : Dev) (lk : Locked) (ds : List Byte) (ring : Bool) : Option Nat :=
  let n := jobPart ds
  if jobFieldBad ds ring then some 0x10
  else if jobCap ds ≠ d.fld .pwr 0 0x100 8 0 ∨ jobDvfs ds ≠ d.point ∨ jobPartmax ds ≠ d.maxJobs n then some 0x11
  else if 256 ≤ d.sch.jobs.length then some 0x12
  else if 2 ≤ jobClass ds then none
  else
    let p := d.project lk ds
    if laterThan p.p (jobDeadline ds) then some 0x13
    else if d.maxJobs n ≤ d.intervalPeak n p.s p.p then some 0x14
    else none

/-- The JOB_END event (R406, R415, R602). -/
def Dev.postJobEnd (d : Dev) (ds : List Byte) (status reason : Nat) (abortLate late : Bool) : Dev :=
  let slack := if 2 ≤ jobClass ds then 0 else (jobDeadline ds + 2 ^ 32 - d.ns) % 2 ^ 32
  d.post .sch 0 0x02 1 0 (layout 20 [(0, 4, leAt ds 0 4), (4, 4, jobSlot ds), (8, 1, status), (9, 1, reason),
    (10, 1, b2n abortLate), (11, 1, b2n late), (12, 4, d.ns), (16, 4, slack)])

/-- DET_TSIG takes a 32-bit count (R513). -/
def Dev.tsig (d : Dev) (v : Nat) : Dev :=
  if d.flag .det 0 0x100 1 then d.setReg .det 0 0x11C (crcRef polyC (d.reg .det 0 0x11C) (leBytes 4 v)) else d

/-- Beats of 20 ns since a tick (R507, R513). -/
def Dev.beatsSince (d : Dev) (t0 : Nat) : Nat := (d.tim.tick - t0) * 128 / 2000

/-- Request pre-emption of a job for a pre-emptor's needs (R402 to R405). -/
def Dev.askPreempt (d : Dev) (j : Nat) (sem : Nat) (w : Bool) : Dev :=
  d.modJob j fun x => if x.asks.contains (sem, w) then x else { x with asks := x.asks ++ [(sem, w)] }

/-- Decide one submission (R398, R399, R402). -/
def Dev.submit (lk : Locked) (d : Dev) (src : Nat) (ds : List Byte) : Dev :=
  match d.refuseReason lk ds (src == 3) with
  | some r =>
    let d := (d.bump .sch 0 0x134 1).sticky .sch 0 0
    let d := d.postJobEnd ds 3 r false false
    let d := d.tsig 0
    if src = 0 then { d with sch := { d.sch with notices := d.sch.notices ++ [(jobCell ds, jobSlot ds, false)] } } else d
  | none =>
    let d := d.bump .sch 0 0x130 1
    let j : Job := { num := d.sch.nextNum, desc := ds, src := src, phase := if jobClass ds < 2 then .reserved else .queued,
                     admitTick := d.tim.tick }
    if 2 ≤ jobClass ds then
      { d with sch := { d.sch with jobs := d.sch.jobs ++ [j], nextNum := d.sch.nextNum + 1 } }
    else
      let p := d.project lk ds
      let ramp := tAdd p.rp (ceilDiv (jobIstep ds * 250) (max 1 (jobCap ds)))
      let set (v : Vector (Option Nat) 8) : Vector (Option Nat) 8 := p.cores.foldl (fun v c => v.setIfInBounds c (some p.p)) v
      let victims := d.placed.filter fun x => decide (jobClass ds < x.cls) && p.cores.any (d.holds x)
      let d := { d with sch := { d.sch with
        jobs := d.sch.jobs ++ [{ j with cores := p.cores, sTime := p.s, pTime := p.p }], nextNum := d.sch.nextNum + 1
        fN := set d.sch.fN, fS := if jobClass ds = 0 then set d.sch.fS else d.sch.fS
        intervals := (d.sch.intervals.filter fun (i : Nat × Nat × Nat) => laterThan i.2.2 d.ns) ++ [(jobPart ds, p.s, p.p)] } }
      let d := d.setReg .sch 0 0x124 ramp
      victims.foldl (fun d v => d.askPreempt v.num (jobSemneed ds) (jobWneed ds)) d

/-! ## Placement (R402, R403) -/

/-- Cores on which a SLOT or NEAR job waits to be placed. -/
def Dev.reservedCores (d : Dev) : List Nat :=
  (d.sch.jobs.filter fun j => decide (j.phase = .reserved)).flatMap (·.cores)

/-- Is a core free: enabled and holding no job? -/
def Dev.coreFree (d : Dev) (lk : Locked) (c : Nat) : Bool :=
  bit lk.coreEn c && (d.core c).job.isNone && !(d.core c).ending

/-- Enabled cores that are free and hold no pending reservation (R403). -/
def Dev.openCores (d : Dev) (lk : Locked) : List Nat :=
  lk.cores.filter fun c => d.coreFree lk c && !d.reservedCores.contains c

/-- Cores a job needs (R399). -/
def jobQ (lk : Locked) (j : Job) : Nat := min (bitList 8 (jobLmask j.desc)).length lk.cores.length

/-- First waiting job of a class: BULK 2, IDLE 3 (R403). -/
def Dev.fifoHead (d : Dev) (cls : Nat) : Option Job :=
  d.sch.jobs.find? fun j => decide (j.phase = .queued) && j.cls == cls

/-- May the head of the BULK or IDLE FIFO be placed on the open cores? -/
def Dev.fits (d : Dev) (lk : Locked) (j : Job) : Bool :=
  decide (jobQ lk j ≤ (d.openCores lk).length) && !d.partFull (jobPart j.desc)

/-- Step 2 of R403: placed IDLE jobs to pre-empt so that the waiting BULK head reaches its q, newest first; none when it
does not wait for lack of cores or could not be served so. -/
def Dev.idleVictims (d : Dev) (lk : Locked) : List Nat :=
  match d.fifoHead 2 with
  | none => []
  | some b =>
    let openN := (d.openCores lk).length
    let idle := (d.placed.filter fun j => j.cls == 3).mergeSort fun x y => decide (y.order ≤ x.order)
    let usable (j : Job) : Nat := (j.cores.filter fun c => d.holds j c && !d.reservedCores.contains c).length
    let total := openN + (idle.map usable).sum
    if d.partFull (jobPart b.desc) || decide (jobQ lk b ≤ openN) || decide (total < jobQ lk b) then []
    else
      (idle.foldl (fun (r : Nat × List Nat) j =>
        if jobQ lk b ≤ r.1 then r else (r.1 + usable j, r.2 ++ [j.num])) (openN, [])).2

/-- The scheduler's standing decisions: pre-emption requests of step 2 of R403. -/
def Dev.schedule (lk : Locked) (d : Dev) : Dev :=
  match d.fifoHead 2 with
  | none => d
  | some b => (d.idleVictims lk).foldl (fun d v => d.askPreempt v (jobSemneed b.desc) (jobWneed b.desc)) d

/-- Do the conditions of R402 hold for a reserved job? -/
def Dev.reservedReady (d : Dev) (lk : Locked) (j : Job) : Bool :=
  let earlier := (d.sch.jobs.takeWhile fun x => x.num != j.num).any fun x =>
    decide (x.phase = .reserved) && x.cls == j.cls && x.cores.any j.cores.contains
  (jobRelease j.desc == 0 || reached d.ns (jobRelease j.desc)) && j.cores.all (d.coreFree lk) && !earlier

/-- The cores on which a waiting job may be placed now, none when it may not. Of jobs that may be placed in the same cycle
a reserved one comes before a queued one, and of two reserved for one core the higher class (R402, R403, R413; DEDUCED,
log 16). -/
def Dev.placeCores (d : Dev) (lk : Locked) (j : Job) : Option (List Nat) :=
  match j.phase with
  | .placed => none
  | .reserved =>
    let above := d.sch.jobs.any fun x =>
      decide (x.phase = .reserved) && decide (x.cls < j.cls) && x.cores.any j.cores.contains && d.reservedReady lk x
    if d.reservedReady lk j && !above then some j.cores else none
  | .queued =>
    let head := (d.fifoHead j.cls).map (·.num) == some j.num
    let bulkFirst := j.cls == 3 && (((d.fifoHead 2).map (d.fits lk)).getD false || !(d.idleVictims lk).isEmpty)
    let reserved := d.sch.jobs.any fun x => decide (x.phase = .reserved) && d.reservedReady lk x
    if head && !bulkFirst && !reserved && d.fits lk j then some ((d.openCores lk).take (jobQ lk j)) else none

/-- Logical cores of a job mapped to its `i`-th core: those whose index in LMASK is `i` modulo q (R402). -/
def hostedBy (lmask q i : Nat) : Nat :=
  ((bitList 8 lmask).zipIdx.filter fun p => p.2 % q = i).foldl (fun m p => m + 2 ^ p.1) 0

/-- Put a job on core `c` as its `i`-th core: a new job loads its image; one that was pre-empted takes up its saved
logical cores again. What IMEM holds is of an earlier placement, so the program is loaded anew (R66, R99, R100, R105, R402,
R403). -/
def Dev.takeCore (d : Dev) (j : Job) (c i : Nat) : Dev :=
  let x := d.core c
  let q := j.cores.length
  let hosted := hostedBy (jobLmask j.desc) q i
  let lcs := bitList 8 hosted
  let d := (d.setReg .core c 0x108 0).setReg .core c 0x10C 0
  let base : CoreSt :=
    { imem := x.imem, mem := x.mem, evq := x.evq, ovc := x.ovc, plate := { ballast := x.plate.ballast },
      job := some j.num, jobid := j.id, lmask := jobLmask j.desc, hosted := hosted, image := j.image
      part := jobPart j.desc, spillBase := jobSpill j.desc }
  if !j.loaded then d.setCore c { base with state := 1, runLc := lcs.headD 0 }
  else
    let st (lc : Nat) : LcSt :=
      match j.saved.find? fun s => s.spill.lc == lc with
      | some s => s.st
      | none => { ended := bit j.endMask lc }
    let live := lcs.filter fun lc => !(st lc).ended
    let first := (live.find? fun lc => !(st lc).started || (st lc).released).getD (live.headD (lcs.headD 0))
    d.setCore c { base with
      lcs := lcs.foldl (fun v lc => v.setIfInBounds lc (st lc)) base.lcs
      spill := (j.saved.filter fun s => lcs.contains s.spill.lc && s.st.started && !s.st.ended).map (·.spill)
      runLc := first
      state := if live.isEmpty then 5 else 3
      stall := if live.isEmpty then 0 else 8
      stallSince := if live.isEmpty then none else some d.tim.tick
      switchTo := if live.isEmpty then none else some first }

/-- JOB_PLACEMENT: a waiting job is placed on its cores once R402 or R403 lets it (R401 to R403, R405, R413). -/
def effJobPlacement (num : Nat) (lk : Locked) (d : Dev) : Dev :=
  match d.job? num with
  | none => d
  | some j =>
    match d.placeCores lk j with
    | none => d
    | some cs =>
      let full := d.partFull (jobPart j.desc) && decide (j.cls < 2)
      let victim := if full then d.newestBulk (jobPart j.desc) else none
      let j' := { j with phase := .placed, cores := cs, order := d.sch.nextOrder, since := d.tim.tick, asks := [],
                         sliceAsk := false, overFrom := none }
      let d := { d with sch := { d.sch with nextOrder := d.sch.nextOrder + 1 } }
      let d := cs.zipIdx.foldl (fun d c => d.takeCore j' c.1 c.2) d
      let d := d.modJob num fun _ => { j' with saved := [] }
      let d := match victim with
        | none => d
        | some v => d.askPreempt v.num (jobSemneed j.desc) (jobWneed j.desc)
      d.schedule lk

/-! ## Loading an image (R395) -/

/-- Entries of a live-set table from device address `a` to the one whose LEN is 0. `n` bounds their number: a table leaves
the device address space, where LEN reads 0, before 2⁴⁰ entries. -/
def Dev.readLive (lk : Locked) (c : Nat) : Nat → Nat → Dev → List (Nat × Nat × Nat) × Dev
  | 0, _, d => ([], d)
  | n + 1, a, d =>
    let (bs, _, _, d) := d.busRead lk (.core c) (d.partOf c) a 8
    let len := leAt bs 2 2
    if len = 0 then ([], d)
    else
      let (l, d) := Dev.readLive lk c n (a + 8) d
      ((leAt bs 0 1, leAt bs 4 4, len * 64) :: l, d)

/-- Does an image entry of a used logical core break R395? -/
def imageEntryBad (e : List Byte) : Bool :=
  decide (leAt e 0 4 % 64 ≠ 0) || leAt e 4 2 == 0 || decide (8192 < leAt e 4 2) || decide (leAt e 6 2 ≠ 0) ||
  decide (leAt e 8 4 % 64 ≠ 0) || decide (leAt e 12 4 % 64 ≠ 0) || decide (leAt e 16 4 % 64 ≠ 0) ||
  decide (leAt e 24 8 ≠ 0)

/-- IMAGE_LOAD: the image of a placed job has been read; its header and entries are checked, its first logical cores
loaded, and its cores run, or the job aborts with reason IMAGE (R66, R99, R395, R406). -/
def effImageLoad (num : Nat) (lk : Locked) (d : Dev) : Dev :=
  match d.job? num with
  | none => d
  | some j =>
    if j.phase ≠ .placed ∨ j.loaded ∨ !j.ends.isEmpty ∨ d.lpWaits (jobImage j.desc) then d
    else
      let c0 := j.cores.headD 0
      let base := jobImage j.desc
      let (h, ps, oor, d) := d.busRead lk (.core c0) (d.partOf c0) base 320
      let entry (k : Nat) : List Byte := slice h (64 + 32 * k) 32
      let used := bitList 8 (jobLmask j.desc)
      let bad := ps.any id || decide (0 < oor) || decide (leAt h 0 4 ≠ 0x00010000) || ((slice h 8 56).any (· != 0)) ||
        used.any fun k => imageEntryBad (entry k)
      if bad then d.askEnd num (.aborted 5)
      else
        let (ims, d) := used.foldl (fun (r : List (Nat × LcImage) × Dev) k =>
          let e := entry k
          let (live, d) := if leAt e 20 4 = 0 then ([], r.2) else r.2.readLive lk c0 (2 ^ 40) (base + leAt e 20 4)
          (r.1 ++ [(k, { prog := base + leAt e 0 4, len := leAt e 4 2, initAddr := base + leAt e 8 4, initLen := leAt e 12 4,
                         initDst := leAt e 16 4, live := live })], d)) ([], d)
        let image : Vector LcImage 8 := ims.foldl (fun v p => v.setIfInBounds p.1 p.2) (Vector.replicate 8 {})
        let d := (List.range 8).foldl (fun d c => d.modCore c fun x =>
          if x.job = some num then { x with image := image } else x) d
        let d := d.modJob num fun x => { x with loaded := true, image := image }
        j.cores.foldl (fun d c =>
          let x := d.core c
          if x.job ≠ some num ∨ x.state ≠ 1 then d
          else
            let d := (d.loadImem lk c x.runLc).loadInit lk c x.runLc
            d.modCore c fun x => { (x.setRun { x.run with started := true }) with state := 2 }) d

/-! ## Pre-emption and slices (R404, R405) -/

/-- Is every request to pre-empt the victim deferred, as it holds what the pre-emptor needs (R404)? -/
def Dev.deferred (d : Dev) (j : Job) : Bool :=
  j.asks.all fun r =>
    (bitList 64 r.1).any (fun k => match (d.sems.toList.getD k {}).holder with | some h => h.1 == j.num | none => false) ||
    (r.2 && d.sch.credits.any fun c => c.2.1 == j.num)

/-- The last core of a pre-empted job has become free: a SLOT or NEAR job keeps its reservation, a BULK or IDLE job its
place, or rejoins the tail after a slice, whose overrun becomes its debit (R402, R403, R405). -/
def Dev.preempted (d : Dev) (lk : Locked) (j : Job) : Dev :=
  let ovr := match j.overFrom with
    | some t => (d.tim.tick - t) * 128 / 100
    | none => 0
  let j1 : Job := { j with
    phase := if j.cls < 2 then .reserved else .queued, asks := [], sliceAsk := false, overFrom := none
    debit := if j.sliceAsk then ovr else j.debit }
  let jobs := if j.sliceAsk then (d.sch.jobs.filter fun y => y.num != j.num) ++ [j1]
    else d.sch.jobs.map fun y => if y.num = j.num then j1 else y
  ({ d with sch := { d.sch with jobs := jobs } }).schedule lk

/-- PREEMPTION on core `c`. At a pre-emption point of its running logical core the pre-emption takes effect: what the job
has on the core is saved, an LBAR's logical core to its spill region. The core shows the save until a further PREEMPTION
says that it has left SPAD; a core with nothing to save is free at once (R100, R403 to R405; DESIGN CHOICE, log 110). -/
def effPreemption (c : Nat) (lk : Locked) (d : Dev) : Dev :=
  let x := d.core c
  match x.job.bind d.job? with
  | none => d
  | some j =>
    let free (d : Dev) : Dev :=
      let x := d.core c
      let d := d.setCore c
        { state := 0, imem := x.imem, loaded := x.loaded, mem := x.mem, evq := x.evq, ovc := x.ovc, cyc := x.cyc,
          plate := { ballast := x.plate.ballast } }
      if (List.range 8).any fun e => (d.core e).job == some j.num then d
      else d.preempted lk ((d.job? j.num).getD j)
    let l := x.run
    let point := (l.barrier.isSome && x.state == 3) || x.state == 5 || (l.ended && x.switchTo.isSome)
    if x.leaving then free d
    else if !point || d.deferred j || !j.ends.isEmpty then d
    else
      let cur := if l.ended || x.spill.any (fun s => s.lc == x.runLc) then [] else [x.save x.runLc (l.barrier.getD 0)]
      if !cur.isEmpty && d.memWaits then d else
      let spills := x.spill ++ cur
      let saved := (bitList 8 x.hosted).map fun lc =>
        ({ st := x.lcs.toList.getD lc {}
           spill := (spills.find? fun s => s.lc == lc).getD
             { lc := lc, ranges := [], tiles := Vector.replicate 16 {}, slots := Vector.replicate 4 .reset } } : SavedLc)
      let d := cur.foldl (fun d s => d.writeSave lk c s) d
      let d := (d.bump .sch 0 0x144 1).modJob j.num fun y => { y with saved := y.saved ++ saved }
      if cur.isEmpty then free d
      else d.modCore c fun x => { x with
        leaving := true, state := 4, stall := 0, stallSince := none, govWait := none, switchTo := none }

/-- SLICE_END: a BULK job's slice has lasted 50 µs less its debit (R405). -/
def effSliceEnd (num : Nat) (d : Dev) : Dev :=
  match d.job? num with
  | none => d
  | some j =>
    if j.phase ≠ .placed ∨ j.cls ≠ 2 ∨ j.sliceAsk ∨ !d.elapsed j.since (50000 - j.debit) then d
    else
      match d.fifoHead 2 with
      | some b =>
        (d.askPreempt num (jobSemneed b.desc) (jobWneed b.desc)).modJob num fun x => { x with
          sliceAsk := true, overFrom := some d.tim.tick }
      | none => d.modJob num fun x => { x with since := d.tim.tick, debit := 0 }

/-! ## Ends (R406 to R408) -/

/-- WATCHDOG: the logical core on core `c` has stalled for longer than SCH_WDOG (R406). -/
def effWatchdog (c : Nat) (d : Dev) : Dev :=
  let x := d.core c
  let lim := d.reg .sch 0 0x104
  match x.job, x.stallSince with
  | some j, some t =>
    if lim ≠ 0 ∧ x.state = 3 ∧ 100 * lim < 128 * (d.tim.tick - t) then d.askEnd j (.aborted 3) else d
  | _, _ => d

/-- Descriptors of a core whose job has ended are stopped as DSTOP stops them; a pool is given up. With `ringOnly` the runs
that need no consumer go on to their ends (R227, R407). -/
def GlnSt.halt (g : GlnSt) (ringOnly : Bool) : GlnSt :=
  { g with
    pool := none
    descs := g.descs.map fun x =>
      if x.isPool then { x with state := 0, pend := none }
      else if ringOnly && !x.ring then { x with pend := none } else x.stop }

/-- Stop core `c` of a job that aborts, or of which another core has faulted: operations in flight are cancelled,
descriptors stopped, launched Stile transfers complete, switched-out logical cores are discarded. The core is free once
its descriptors and Stile transfers are done, and SPAD and ACCM are then undefined (R407). -/
def Dev.stopCore (d : Dev) (c : Nat) : Dev :=
  (d.modCore c fun x => { x with
    ending := true, wipe := true, leaving := false, state := 7, stall := 0, stallSince := none, govWait := none
    switchTo := none, spill := [], htb := [], wash := {}, poisonLoads := []
    lcs := x.lcs.map fun l => { pc := l.pc, gln := l.gln.halt false }
    plate := { ballast := x.plate.ballast } }).freeCore c

/-- End the job on core `c`, which has faulted: operations that issued earlier retire, by their own commands, and the core
is free after the last of them. Ring runs, whose consumer has stopped, are stopped as DSTOP stops them (R102, R407;
DEDUCED, log 105). -/
def Dev.retireCore (d : Dev) (c : Nat) : Dev :=
  (d.modCore c fun x => { x with
    ending := true, wipe := true, leaving := false, switchTo := none, spill := []
    lcs := x.lcs.map fun l => { l with gln := l.gln.halt true } }).freeCore c

/-- Free core `c` of a job that has completed. -/
def Dev.endCore (d : Dev) (c : Nat) : Dev :=
  (d.modCore c fun x => { x with state := 7, ending := true }).freeCore c

/-- JOB_END: the arbitration point ends a job that has completed, faulted or been asked to abort, and posts its one
JOB_END (R406 to R408, R415). -/
def effJobEnd (num : Nat) (lk : Locked) (d : Dev) : Dev :=
  match d.job? num with
  | none => d
  | some j =>
    if j.ends.isEmpty then d
    else
      let done := j.ends.contains .completed
      let abort := j.ends.findSome? fun e => match e with | .aborted r => some r | _ => none
      let fault := j.ends.findSome? fun e => match e with | .faulted f => some f | _ => none
      let late := done && j.cls == 1 && laterThan d.ns (jobDeadline j.desc)
      let (status, reason) := if done then (0, 0)
        else match fault, abort with
          | some f, _ => (2, f)
          | none, some r => (1, r)
          | none, none => (1, 0)
      let abortLate := done && abort.isSome
      let d := match status with
        | 0 => ((d.bump .sch 0 0x138 1).bump .sch 0 0x148 (b2n late)).bump .sch 0 0x14C (b2n abortLate)
        | 1 => d.bump .sch 0 0x13C 1
        | _ => (d.bump .sch 0 0x140 1).sticky .sch 0 1
      let d := if late || (status == 1 && reason == 2) then d.sticky .sch 0 2 else d
      let d := if status == 1 && reason == 3 then d.sticky .sch 0 4 else d
      let d := if status == 1 && reason == 4 then d.sticky .sch 0 3 else d
      -- waiting SEMACQ requests of the job go with it; held semaphores are force-released, credits returned
      let quit (s : SemSt) : SemSt := { s with waiters := s.waiters.filter fun w => w.1 != num }
      let d := { d with sems := d.sems.map quit }
      let d := if status = 0 then d
        else (List.range 64).foldl (fun d k =>
          match (d.sems.toList.getD k {}).holder with
          | some h => if h.1 = num then d.breakSem k else d
          | none => d) d
      let d := { d with sch := { d.sch with credits := d.sch.credits.filter fun (x : Nat × Nat × Nat) => x.2.1 != num } }
      let d := (List.range 8).foldl (fun d c =>
        if (d.core c).job ≠ some num then d
        else if status = 0 then d.endCore c
        else if (d.core c).state = 6 then d.retireCore c
        else d.stopCore c) d
      let d := { d with
        bars := d.bars.filter fun b => b.job != num
        sch := { d.sch with
          jobs := d.sch.jobs.filter fun x => x.num != num
          notices := if j.src = 0 then d.sch.notices ++ [(jobCell j.desc, jobSlot j.desc, done)] else d.sch.notices } }
      let d := d.postJobEnd j.desc status reason abortLate late
      (d.tsig (d.beatsSince j.admitTick)).schedule lk

/-- Abort a job with reason `r`: one that is not placed ends at once, a placed one at the arbitration point (R407, R408).
-/
def Dev.abortJob (lk : Locked) (d : Dev) (j : Job) (r : Nat) : Dev :=
  let d := d.askEnd j.num (.aborted r)
  if j.phase = .placed then d else effJobEnd j.num lk d

/-- DEADLINE_ABORT: a SLOT job has reached its DEADLINE (R406). -/
def effDeadlineAbort (num : Nat) (lk : Locked) (d : Dev) : Dev :=
  match d.job? num with
  | none => d
  | some j =>
    if j.cls = 0 && reached d.ns (jobDeadline j.desc) && j.ends.isEmpty then d.abortJob lk j 2 else d

/-- Host aborts admitted at an admission point. They are carried out here, before the submissions are decided, so each job
meets its arbitration at once (R397, R407, R408, R414). -/
def Dev.takeAborts (lk : Locked) (d : Dev) : Dev :=
  let ids := d.sch.aborts
  let hit := d.sch.jobs.filter fun j => ids.contains j.id
  let d := { d with sch := { d.sch with aborts := [] } }
  hit.foldl (fun d j => effJobEnd j.num lk (d.askEnd j.num (.aborted 1))) d

/-- The scheduler at an admission point: aborts, then, with the grid on, submissions by source and cell, then at most 32
job-ring entries (R397, R466, R549). -/
def Dev.admitJobs (lk : Locked) (d : Dev) (ringDescs : List (List Byte)) : Dev :=
  let d := d.takeAborts lk
  if !d.flag .sch 0 0x100 0 || !d.gridOn then d
  else
    let subs := [0, 1, 2].flatMap fun s =>
      sortBy (fun a b => decide (a.cell ≤ b.cell)) (d.sch.subs.filter fun x => x.src % 4 == s)
    let d := { d with sch := { d.sch with subs := [] } }
    let d := subs.foldl (fun d s => d.submit lk s.src s.desc) d
    let d := ringDescs.foldl (fun d ds => d.submit lk 3 ds) d
    d.schedule lk

end Sys2Proof.Machine
end

