-- ==== Sys2Proof/Machine/Kvp.lean ====
section
/-! DEFINITION. The cache page manager: appends, block scales, allocation, reclaim and the host commands
(08_attention_history_cache.md, R244 to R277). -/

namespace Sys2Proof.Machine

/-- A 40-bit base held in two registers of the KVP page (R276). -/
def Dev.kvpBase (d : Dev) (off : Nat) : Nat := d.reg .kvp 0 off + 2 ^ 32 * d.fld .kvp 0 (off + 4) 7 0

/-- Read for the cache page manager, in the write class: what an append, a page zeroing or a rescale reads is direct; the
region decides of every other access (R13, R14). -/
def Dev.kvpRead (lk : Locked) (d : Dev) (a n : Nat) (direct : Bool := true) : List Byte × Bool × Dev :=
  d.busBytes lk .kvp a n direct

/-- Write for the cache page manager. -/
def Dev.kvpWrite (lk : Locked) (d : Dev) (a : Nat) (bs : List Byte) (pois : Bool := false) (direct : Bool := true) : Dev :=
  d.busStore lk .kvp a bs pois direct

/-- A history record as the cache page manager reads it (R250). -/
structure HistRec where
  bytes : List Byte
  deriving DecidableEq, Repr

/-- VALID of the record. -/
def HistRec.valid (r : HistRec) : Bool := bit (leAt r.bytes 0 4) 31
/-- NL: layers minus 1. -/
def HistRec.nl (r : HistRec) : Nat := bits (leAt r.bytes 0 4) 26 24
/-- H: heads of a layer. -/
def HistRec.heads (r : HistRec) : Nat := bits (leAt r.bytes 0 4) 23 20
/-- FMT: 1 S8, 0 S4. -/
def HistRec.fmt (r : HistRec) : Nat := bits (leAt r.bytes 0 4) 19 16
/-- LIST_LEN. -/
def HistRec.listLen (r : HistRec) : Nat := bits (leAt r.bytes 0 4) 6 0
/-- NEXT of layer `l`. -/
def HistRec.next (r : HistRec) (l : Nat) : Nat := leAt r.bytes (16 + 8 * l) 4
/-- LOW of layer `l`. -/
def HistRec.low (r : HistRec) (l : Nat) : Nat := leAt r.bytes (20 + 8 * l) 4

/-- Positions of a page, for the allowed formats and head counts (R245). -/
def histP (fmt h : Nat) : Option Nat :=
  match fmt, h with
  | 1, 2 => some 64 | 1, 4 => some 32 | 1, 8 => some 16 | 0, 4 => some 64 | 0, 8 => some 32 | _, _ => none

/-- P of the record, 16 where the record is not allowed. -/
def HistRec.perPage (r : HistRec) : Nat := (histP r.fmt r.heads).getD 16

/-- W = LIST_LEN · P (R246). -/
def HistRec.window (r : HistRec) : Nat := r.listLen * r.perPage

/-- Do the shape fields meet R245 and R246? -/
def HistRec.shapeOk (r : HistRec) : Bool :=
  (histP r.fmt r.heads).isSome && [1, 2, 4, 8, 16, 32].contains r.listLen && decide (r.window ≤ 512)

/-- Is a reserved bit of bytes 0 to 15 set (R250, R256)? -/
def HistRec.reservedSet (r : HistRec) : Bool :=
  let w := leAt r.bytes 0 4
  bits w 30 27 != 0 || bits w 15 7 != 0 || bits (leAt r.bytes 4 4) 31 3 != 0 || leAt r.bytes 12 4 != 0

/-- Bytes of K, or of V, of one position (R245). -/
def HistRec.posBytes (r : HistRec) : Nat := if r.fmt = 1 then 32 * r.heads else 16 * r.heads

/-- Address of the record of history `h` (R250). -/
def Dev.histAddr (d : Dev) (h : Nat) : Nat := d.kvpBase 0x11C + 128 * h

/-- Address of the page list of layer `l` of history `h` (R253). -/
def Dev.listAddr (d : Dev) (h l : Nat) : Nat := d.kvpBase 0x114 + 256 * (8 * h + l)

/-- Address of page `pg` (R262). -/
def Dev.pageAddr (d : Dev) (pg : Nat) : Nat := d.kvpBase 0x104 + 8192 * pg

/-- Address of the sidecar of page `pg` (R252). -/
def Dev.sidecarAddr (d : Dev) (pg : Nat) : Nat := d.kvpBase 0x10C + 64 * pg

/-- Read the record of history `h`. -/
def Dev.histRec (lk : Locked) (d : Dev) (h : Nat) (direct : Bool := true) : HistRec × Dev :=
  let (bs, _, d) := d.kvpRead lk (d.histAddr h) 128 direct
  (⟨bs⟩, d)

/-- Read a 32-bit word. -/
def Dev.kvpWord (lk : Locked) (d : Dev) (a : Nat) (direct : Bool := true) : Nat × Dev :=
  let (bs, _, d) := d.kvpRead lk a 4 direct
  (leNat bs, d)

/-- Free pages (KVP_FREE_COUNT). -/
def Dev.freePages (d : Dev) : Nat := d.reg .kvp 0 0x130

/-- Zero the bytes and the sidecar of a page and clear their poison (R263). -/
def Dev.zeroPage (lk : Locked) (d : Dev) (pg : Nat) : Dev :=
  let d := d.kvpWrite lk (d.pageAddr pg) (List.replicate 8192 0)
  d.kvpWrite lk (d.sidecarAddr pg) (List.replicate 64 0)

/-- Post a KVP event with HIST and LAYER (R277, R602). -/
def Dev.kvpPost (d : Dev) (sub h l : Nat) (fs : List (Nat × Nat × Nat)) : Dev :=
  d.post .kvp 0 0x03 sub 0 (layout 20 ([(0, 2, h), (2, 1, l)] ++ fs))

/-- Entries with a valid position of a layer, LOW to NEXT − 1 (R247, R264). -/
def HistRec.validEntries (r : HistRec) (l : Nat) : Nat :=
  let n := (r.next l + 2 ^ 32 - r.low l) % 2 ^ 32
  if n = 0 then 0 else (r.low l % r.perPage + n - 1) / r.perPage + 1

/-- Write NEXT and LOW of a layer. -/
def Dev.setNextLow (lk : Locked) (d : Dev) (h l next low : Nat) (direct : Bool := true) : Dev :=
  d.kvpWrite lk (d.histAddr h + 16 + 8 * l) (leBytes 4 next ++ leBytes 4 low) false direct

/-- Allocate a page for entry `e` of layer `l`; the answer is the page, none for a drop (R263, R264). -/
def Dev.kvpAlloc (lk : Locked) (d : Dev) (r : HistRec) (h l e : Nat) : Option Nat × HistRec × Dev :=
  let np := d.reg .kvp 0 0x12C
  let free := d.freePages
  let lst := d.listAddr h l
  if 0 < free then
    let (pg, d) := d.kvpWord lk (d.kvpBase 0x124 + 4 * d.kvp.head)
    let d := { d with kvp := { d.kvp with head := (d.kvp.head + 1) % np } }
    let d := d.setReg .kvp 0 0x130 (free - 1)
    let d := (d.zeroPage lk pg).kvpWrite lk (lst + 4 * e) (leBytes 4 (2 ^ 31 + pg % 2 ^ 24))
    let d := d.bump .kvp 0 0x158 1
    let lw := d.reg .kvp 0 0x134
    let d := if lw ≤ free && free - 1 < lw then (d.sticky .kvp 0 0).kvpPost 3 h l [(4, 4, free - 1)] else d
    (some pg, r, d)
  else if 2 ≤ r.validEntries l then
    let low := r.low l
    let p := r.perPage
    let old := low % r.window / p
    let (w, d) := d.kvpWord lk (lst + 4 * old)
    let pg := w % 2 ^ 24
    let d := (d.zeroPage lk pg).kvpWrite lk (lst + 4 * e) (leBytes 4 (2 ^ 31 + pg))
    let d := if old = e then d else d.kvpWrite lk (lst + 4 * old) (leBytes 4 0)
    let low' := (low - low % p + p) % 2 ^ 32
    let d := d.setNextLow lk h l (r.next l) low'
    let r' : HistRec := ⟨r.bytes.take (20 + 8 * l) ++ leBytes 4 low' ++ r.bytes.drop (24 + 8 * l)⟩
    let d := ((d.bump .kvp 0 0x14C 1).sticky .kvp 0 1).kvpPost 1 h l [(4, 4, pg), (8, 4, low')]
    (some pg, r', d)
  else
    let d := ((d.bump .kvp 0 0x148 1).sticky .kvp 0 2).kvpPost 2 h l [(4, 4, r.next l)]
    (none, r, d)

/-- Commit header fields (R254). -/
def hdrHist (h : List Byte) : Nat := bits (leAt h 0 2) 13 0
/-- LAYER of a commit header. -/
def hdrLayer (h : List Byte) : Nat := bits (leAt h 2 1) 2 0
/-- EXPECT of a commit header. -/
def hdrExpect (h : List Byte) : Nat := leAt h 4 4
/-- GFLAGS of group `k`. -/
def hdrFlag (h : List Byte) (k : Nat) : Nat := leAt h 8 4 / 4 ^ k % 4
/-- SCALE of group `k`. -/
def hdrScale (h : List Byte) (k : Nat) : Nat := leAt h (12 + 2 * k) 2
/-- Is a reserved bit of the header set (R256)? -/
def hdrReserved (h : List Byte) : Bool :=
  bits (leAt h 0 2) 15 14 != 0 || bits (leAt h 2 1) 7 3 != 0 || leAt h 3 1 != 0 || leAt h 44 20 != 0

/-- Index of the sidecar entry of group k′ = kv·H + h in block `b`: (2b + kv)·H + h = 2bH + k′ (R252). -/
def sidecarIdx (heads b k : Nat) : Nat := 2 * b * heads + k

/-- The scale of an entry: its low 15 bits (R252). -/
def entryScale (w : Nat) : Nat := w % 2 ^ 15

/-- Is the FLAGS check of R256 broken? `side` is the sidecar of the page of the open block. -/
def flagsBad (r : HistRec) (hdr side : List Byte) (p : Nat) : Bool :=
  let n := 2 * r.heads
  let start := decide (p % 16 = 0)
  let b := p % r.perPage / 16
  leAt hdr 8 4 / 4 ^ n != 0 ||
  (List.range n).any fun k =>
    let f := hdrFlag hdr k
    let s := hdrScale hdr k
    (f == 1) != start ||
    (f == 1 && !decide (s < 0x7C00)) ||
    (f == 2 && !(decide (0 < s) && decide (s < 0x7C00) &&
      decide (entryScale (leAt side (2 * sidecarIdx r.heads b k) 2) < s)))

/-- Reason why the commit is refused, the first of R256 (R250, R254, R256). -/
def commitReason (r : HistRec) (hdr side : List Byte) (poison : Bool) : Option Nat :=
  if !r.valid || !r.shapeOk || r.reservedSet then some 1
  else if r.nl < hdrLayer hdr || hdrReserved hdr then some 2
  else if hdrExpect hdr != r.next (hdrLayer hdr) then some 3
  else if poison then some 4
  else if flagsBad r hdr side (hdrExpect hdr) then some 5
  else none

/-- Do the staged K and V beats in use carry poison (R256)? -/
def stagedPoison (m : Mem) (n : Nat) : Bool := m.badRange 64 n || m.badRange 320 n

/-- Where the codes of group k′ at position `q` of a page lie, and how many bytes they take (R251). -/
def groupAt (r : HistRec) (k q : Nat) : Nat × Nat :=
  let kv := k / r.heads
  let h := k % r.heads
  let per := if r.fmt = 1 then 2 else 4
  (4096 * kv + (h / per) * (r.perPage * 64) + q * 64 + (h % per) * (64 / per), 64 / per)

/-- A code of R260: round(c · ρ), ties away from zero, as a two's-complement code of `w` bits. -/
def rescaleCode (w : Nat) (rho : Ex) (c : Nat) : Nat := ofS w (((Ex.ofInt (toS w c)).mul rho).roundInt)

/-- ρ = s_c / s_new in F32 (R260). -/
def rescaleRho (sc snew : Nat) : Ex :=
  match (floatFmt .f16).decode sc, (floatFmt .f16).decode snew with
  | .fin a, .fin b =>
    (match (floatFmt .f32).decode ((floatFmt .f32).round (a.div b)).1 with
     | .fin v => v
     | _ => Ex.ofInt 0)
  | _, _ => Ex.ofInt 0

/-- The rows of a position that hold a group which the header rescales, each once (R251, R435). -/
def rescaleRows (r : HistRec) (hdr : List Byte) (q : Nat) : List Nat :=
  ((List.range (2 * r.heads)).filter fun k => hdrFlag hdr k == 2).foldl (fun l k =>
    insertSorted ((groupAt r k q).1 / 64) l) []

/-- One row with its rescaled groups brought to their new scales (R260); `side` is the sidecar. -/
def rescaleRow (r : HistRec) (hdr side : List Byte) (b q row : Nat) (bs : List Byte) : List Byte :=
  let w := if r.fmt = 1 then 8 else 4
  (List.range (2 * r.heads)).foldl (fun bs k =>
    let (off, n) := groupAt r k q
    if hdrFlag hdr k ≠ 2 ∨ off / 64 ≠ row then bs
    else
      let rho := rescaleRho (entryScale (leAt side (2 * sidecarIdx r.heads b k) 2)) (hdrScale hdr k)
      let old := slice bs (off % 64) n
      bs.take (off % 64) ++ packElems w old ((unpackElems w 32 old).map (rescaleCode w rho)) ++ bs.drop (off % 64 + n)) bs

/-- Rescale block `b` at the positions other than `q`: one read and one write a row (R260, R435). -/
def Dev.rescaleBlock (lk : Locked) (d : Dev) (r : HistRec) (hdr side : List Byte) (pg b q : Nat) : Dev :=
  let d := ((List.range 16).map (16 * b + ·)).foldl (fun d qq =>
    if qq = q then d
    else (rescaleRows r hdr qq).foldl (fun d row =>
      let a := d.pageAddr pg + 64 * row
      let (bs, bad, d) := d.kvpRead lk a 64
      d.kvpWrite lk a (rescaleRow r hdr side b qq row bs) bad) d) d
  d.bump .kvp 0 0x150 ((List.range (2 * r.heads)).filter fun k => hdrFlag hdr k == 2).length

/-- The sidecar after a commit: NEWBLOCK and RESCALE groups take their scales, COARSE groups their bit (R257). -/
def commitSide (r : HistRec) (hdr side : List Byte) (b : Nat) : List Byte :=
  (List.range (2 * r.heads)).foldl (fun s k =>
    let i := 2 * sidecarIdx r.heads b k
    match hdrFlag hdr k with
    | 1 | 2 => s.take i ++ leBytes 2 (hdrScale hdr k % 2 ^ 15) ++ s.drop (i + 2)
    | 3 => s.take i ++ leBytes 2 (2 ^ 15 + entryScale (leAt s i 2)) ++ s.drop (i + 2)
    | _ => s) side

/-- Is a group of the commit not NORMAL, so that it reads and writes the sidecar (R435)? -/
def sideUsed (r : HistRec) (hdr : List Byte) : Bool := (List.range (2 * r.heads)).any fun k => hdrFlag hdr k != 0

/-- Steps 2 to 5 of an accepted commit on page `pg`, whose sidecar beat has been read where the commit uses it (R248, R257,
R260, R261, R435). -/
def Dev.commitOn (lk : Locked) (d : Dev) (r : HistRec) (hdr : List Byte) (stg : Mem) (pg : Nat) (side : List Byte)
    (sbad : Bool) : Dev :=
  let h := hdrHist hdr
  let l := hdrLayer hdr
  let p := hdrExpect hdr
  let q := p % r.perPage
  let b := q / 16
  let d := d.rescaleBlock lk r hdr side pg b q
  let d := (List.range 2).foldl (fun d kv =>
    (List.range (r.posBytes / 64)).foldl (fun d g =>
      d.kvpWrite lk (d.pageAddr pg + 4096 * kv + g * (r.perPage * 64) + q * 64)
        (stg.read (64 + 256 * kv + 64 * g) 64)) d) d
  let d := if sideUsed r hdr then d.kvpWrite lk (d.sidecarAddr pg) (commitSide r hdr side b) sbad else d
  let d := d.bump .kvp 0 0x154 ((List.range (2 * r.heads)).filter fun k => hdrFlag hdr k == 3).length
  let low := r.low l
  let cand := (p + 2 ^ 32 - p % 16 + 16 - r.window) % 2 ^ 32
  let d := d.setNextLow lk h l ((p + 1) % 2 ^ 32) (if laterThan cand low then cand else low)
  d.bump .kvp 0 0x140 1

/-- The cache page manager carries out one commit (R256, R257). -/
def Dev.kvpCommit (lk : Locked) (d : Dev) (core : Nat) (hdr : List Byte) (hpois : Bool) : Dev :=
  let h := hdrHist hdr
  let l := hdrLayer hdr
  let (r, d) := d.histRec lk h
  let stg := d.kvp.staging.toList.getD core {}
  let e := if r.window = 0 then 0 else hdrExpect hdr % r.window / r.perPage
  let (ent, d) := d.kvpWord lk (d.listAddr h l + 4 * e)
  let (side, sbad, d) : List Byte × Bool × Dev :=
    if bit ent 31 && sideUsed r hdr then d.kvpRead lk (d.sidecarAddr (ent % 2 ^ 24)) 64 else ([], false, d)
  match commitReason r hdr side (hpois || stagedPoison stg r.posBytes) with
  | some why =>
    let d := (d.bump .kvp 0 0x144 1).sticky .kvp 0 3
    let d := if d.flag .kvp 0 0x160 31 then d
      else d.setReg .kvp 0 0x160 (2 ^ 31 + why * 2 ^ 24 + l * 2 ^ 17 + h)
    d.kvpPost 4 h l [(3, 1, why), (4, 4, hdrExpect hdr)]
  | none =>
    if bit ent 31 then d.commitOn lk r hdr stg (ent % 2 ^ 24) side sbad
    else
      match d.kvpAlloc lk r h l e with
      | (none, _, d) => d
      | (some pg, r, d) =>
        let (side, sbad, d) : List Byte × Bool × Dev :=
          if sideUsed r hdr then d.kvpRead lk (d.sidecarAddr pg) 64 else ([], false, d)
        d.commitOn lk r hdr stg pg side sbad

/-- Free page `pg`: to the tail of the list, unless the list is full (R262). -/
def Dev.kvpFree (lk : Locked) (d : Dev) (pg : Nat) : Dev :=
  let np := d.reg .kvp 0 0x12C
  let n := d.freePages
  if np ≤ n then d.errBlk .kvp 0
  else
    let d := d.kvpWrite lk (d.kvpBase 0x124 + 4 * ((d.kvp.head + n) % np)) (leBytes 4 pg) false false
    d.setReg .kvp 0 0x130 (n + 1)

/-- Set BUSY 0 and RESULT. -/
def Dev.kvpResult (d : Dev) (v : Nat) : Dev := d.setReg .kvp 0 0x13C v

/-- CREATE of history `h` (R266). -/
def Dev.kvpCreate (lk : Locked) (d : Dev) (h : Nat) : Dev :=
  let (r, d) := d.histRec lk h false
  if r.valid then d.kvpResult 2
  else if !r.shapeOk || r.reservedSet then d.kvpResult 1
  else
    let ls := List.range (r.nl + 1)
    let d := ls.foldl (fun d l => d.kvpWrite lk (d.listAddr h l) (List.replicate (4 * r.listLen) 0) false false) d
    let d := ls.foldl (fun d l => d.setNextLow lk h l 0 0 false) d
    (d.kvpWrite lk (d.histAddr h + 3) [r.bytes.getD 3 0 ||| 0x80] false false).kvpResult 0

/-- DELETE of history `h` (R266). -/
def Dev.kvpDelete (lk : Locked) (d : Dev) (h : Nat) : Dev :=
  let (r, d) := d.histRec lk h false
  if !r.valid then d.kvpResult 3
  else
    let n := min r.listLen 64
    let d := (List.range (r.nl + 1)).foldl (fun d l =>
      let d := (List.range n).foldl (fun d e =>
        let (w, d) := d.kvpWord lk (d.listAddr h l + 4 * e) false
        if !bit w 31 then d
        else if d.reg .kvp 0 0x12C ≤ w % 2 ^ 24 then d.errBlk .kvp 0
        else d.kvpFree lk (w % 2 ^ 24)) d
      d.kvpWrite lk (d.listAddr h l) (List.replicate (4 * n) 0) false false) d
    (d.kvpWrite lk (d.histAddr h + 3) [r.bytes.getD 3 0 &&& 0x7F] false false).kvpResult 0

/-- Carry out the command at the head of the queue, once LPDDR5X answers (R256, R419). -/
def Dev.kvpNext (lk : Locked) (d : Dev) : Dev :=
  match d.kvp.queue with
  | [] => d
  | c :: cs =>
    if d.memWaits then d
    else
    let d := { d with kvp := { d.kvp with queue := cs } }
    match c with
    | .commit core hdr pois => d.kvpCommit lk core hdr pois
    | .create h => d.kvpCreate lk h
    | .delete h => d.kvpDelete lk h

/-- Carry out the first `n` commands of the queue. -/
def Dev.kvpDrain (lk : Locked) : Nat → Dev → Dev
  | 0, d => d
  | n + 1, d => Dev.kvpDrain lk n (d.kvpNext lk)

/-- COMMIT: the cache page manager takes the commit at the head of its queue; with another command there, it is not
the turn of a commit (R256). -/
def effCommit (lk : Locked) (d : Dev) : Dev :=
  match d.kvp.queue with
  | .commit _ _ _ :: _ => d.kvpNext lk
  | _ => d

/-- A write of KVP_HCMD: an undefined operation is counted as VALUE, a write while BUSY or with ENABLE 0 as STATE; else
the command joins the queue and BUSY is set (R266, R276). -/
def Dev.kvpHcmd (d : Dev) (op h : Nat) : Dev :=
  if !d.flag .kvp 0 0x100 0 || d.flag .kvp 0 0x13C 31 then d.err .kvp 0 errState 0x138
  else
    let join (c : KvpCmd) : Dev :=
      { d.setFld .kvp 0 0x13C 31 31 1 with kvp := { d.kvp with queue := d.kvp.queue ++ [c] } }
    match op with
    | 1 => join (.create h)
    | 2 => join (.delete h)
    | _ => d.err .kvp 0 errValue 0x138

/-- KVP_ENABLE: the free list takes pages 0 to NPAGES − 1 in ascending order and the manager starts; a second write
finds it running and changes nothing (R262, R276). -/
def effKvpEnable (lk : Locked) (d : Dev) : Dev :=
  if d.flag .kvp 0 0x100 0 then d
  else
    let n := d.reg .kvp 0 0x12C
    let d := (List.range n).foldl (fun d i => d.kvpWrite lk (d.kvpBase 0x124 + 4 * i) (leBytes 4 i) false false) d
    let d := { d with kvp := { d.kvp with head := 0 } }
    ((d.setReg .kvp 0 0x130 n).setReg .kvp 0 0x100 1)

/-- The append window takes one write of core `c`: staging bytes, or a commit (R254). -/
def Dev.kvpTake (d : Dev) (c o : Nat) (bs : List Byte) (ps : List Bool) : Dev :=
  if 64 ≤ o then
    let st := (beatParts o bs.length).zipIdx.foldl (fun (m : Mem) x =>
      m.store x.1.1 (slice bs (x.1.1 - o) x.1.2) (ps.getD x.2 false)) (d.kvp.staging.toList.getD c {})
    { d with kvp := { d.kvp with staging := d.kvp.staging.setIfInBounds c st } }
  else if o = 0 && bs.length = 64 then
    if d.flag .kvp 0 0x100 0 then
      { d with kvp := { d.kvp with queue := d.kvp.queue ++ [.commit c bs (ps.any id)] } }
    else d.errFree .kvp 0 errState
  else d.errBlk .kvp 0

end Sys2Proof.Machine
end

