-- ==== Sys2Proof/Machine/Rsv.lean ====
section
/-! DEFINITION. Delivery records, and the receiver supervisor (R309 to R313, R370 to R391, R394, R513;
12_receiver_supervisor.md). -/

namespace Sys2Proof.Machine

/-- Fill the slot fields of a template: CELL, SLOTSEQ, RELEASE 0, and DEADLINE counted back from `ref` when DREL = 1
(R394). -/
def fillTemplate (ds : List Byte) (cell slot ref : Nat) : List Byte :=
  let b4 := leAt ds 4 1
  let drel := bit b4 2
  let dl := leAt ds 16 4
  let dl' := if drel then (ref + 2 ^ 32 - dl) % 2 ^ 32 else dl
  slice ds 0 4 ++ leBytes 1 (if drel then b4 - 4 else b4) ++ slice ds 5 1 ++
    leBytes 1 (leAt ds 6 1 / 32 * 32 + cell % 32) ++ slice ds 7 1 ++ leBytes 4 slot ++ leBytes 4 0 ++
    leBytes 4 dl' ++ slice ds 20 108

/-- Read the template at `a` and put it before the scheduler; none at address 0 (R279, R294, R397). -/
def Dev.submitTemplate (lk : Locked) (d : Dev) (q : Req) (src a cell slot ref : Nat) : Dev :=
  if a = 0 then d
  else
    let (ds, _, d) := d.busBytes lk q a 128
    { d with sch := { d.sch with subs := d.sch.subs ++ [{ src := src, cell := cell, desc := fillTemplate ds cell slot ref }] } }

/-- WIN_OPEN of a receive cell entry. -/
def rxOpen (e : List Byte) : Nat := leAt e 8 4
/-- WIN_CLOSE of a receive cell entry. -/
def rxClose (e : List Byte) : Nat := leAt e 12 4

/-- Close of the window of symbol `n` of slot `s` (R286). -/
def Dev.closeOf (d : Dev) (e : List Byte) (s n : Nat) : Nat := (d.symEnd (ceMu e) s n + rxClose e) % 2 ^ 32

/-- Delivery deadline of slot `s` (R310). -/
def Dev.deadlineOf (d : Dev) (e : List Byte) (s : Nat) : Nat := (d.closeOf e s 13 + leAt e 16 4) % 2 ^ 32

/-- Signed 32-bit difference a − b. -/
def sdiff (a b : Nat) : Int := toS 32 (a + 2 ^ 32 - b % 2 ^ 32)

/-! ## Delivery records -/

/-- The plan entry of a grant. -/
def Dev.decEntry (d : Dev) (c s g : Nat) : Option DecEntry :=
  match d.rsv.plans.find? fun p => p.cell == c && p.slot == s with
  | none => none
  | some p => p.entries.find? fun e => e.grant == g

/-- A record is fixed: it takes the next SEQ, enters the signatures, and waits for the ring or is lost (R309, R513, R552).
`rec` is the record from byte 4 on. -/
def Dev.postRecord (d : Dev) (tail payload : List Byte) (beats : Nat) : Dev :=
  let seq := d.pci.ulSeq
  let r := leBytes 4 seq ++ tail
  let d :=
    if d.flag .det 0 0x100 1 then
      let c := crc32c (slice r 4 16 ++ slice r 28 16 ++ slice r 52 12 ++ payload)
      (d.setReg .det 0 0x118 ((d.reg .det 0 0x118 + c) % 2 ^ 32)).tsig beats
    else d
  let room := (if d.ringsOn then d.ringFree 3 else 0) + 512
  let d := { d with pci := { d.pci with ulSeq := (seq + 1) % 2 ^ 32 } }
  if room ≤ d.pci.records.length then
    let first := !d.flag .pci 0 0x194 0
    let a := leAt r 20 8
    let d := if a = 0 then d else { d with pci := { d.pci with buffers := d.pci.buffers ++ [a] } }
    let d := (d.bump .pci 0 0x180 1).sticky .pci 0 0
    if first then d.post .pci 0 0x0B 1 0 (layout 20 [(0, 4, seq)]) else d
  else { d with pci := { d.pci with records := d.pci.records ++ [{ bytes := r, payload := payload, beats := beats }] } }

/-- Fields of a record that the caller gives: tag, RNTI, STATUS, flags, TBS, decoder fields and counts (R312). -/
structure RecIn where
  grant : Nat
  tag : Nat := 0
  rnti : Nat := 0
  status : Nat
  flags : Nat := 0
  tbs : Nat := 0
  evm : Nat := 0x8000
  sinr : Nat := 0x8000
  cbs : Nat := 0
  cbfail : Nat := 0
  itsum : Nat := 0
  itmax : Nat := 0
  erased : Nat := 0
  satN : Nat := 0
  beats : Nat := 0
  deriving DecidableEq, Repr

/-- Counter and sticky bit of RXC for a STATUS (R310, R313, R316). -/
def Dev.countStatus (d : Dev) (st : Nat) : Dev :=
  match st with
  | 0 => d.bump .rxc 0 0x140 1
  | 1 => d.bump .rxc 0 0x13C 1
  | 2 => (d.bump .rxc 0 0x138 1).sticky .rxc 0 5
  | 8 => (d.bump .rxc 0 0x144 1).sticky .rxc 0 6
  | _ => d

/-- Hand the outcome of a record to the supervisor (R383). -/
def Dev.handOutcome (d : Dev) (c s g : Nat) (o : Outcome) : Dev :=
  { d with rsv := { d.rsv with plans := d.rsv.plans.map fun p =>
      if p.cell == c && p.slot == s && p.entries.any (·.grant == g) then
        { p with outcomes := p.outcomes ++ [o],
                 entries := p.entries.map fun e => if e.grant == g then { e with recorded := true } else e }
      else p } }

/-- Fix the record of a grant of slot `s` of cell `c`, with `payload` for STATUS OK (R309 to R313, R389). -/
def Dev.fixRecord (d : Dev) (c s : Nat) (r : RecIn) (payload : List Byte) : Dev :=
  let e := d.cellFor false c s
  let mu := ceMu e
  let (path, reason, conf) : Nat × Nat × Nat := match d.decEntry c s r.grant with
    | none => (3, 0xFF, 0)
    | some x => if x.final then (x.path, x.reason, x.conf) else (3, 0xFE, 0)
  let data := if r.status = 0 then d.pci.buffers.headD 0 else 0
  let seq := d.pci.ulSeq
  let slack := ofS 32 (sdiff (d.deadlineOf e s) d.ns)
  let tail := (layout 64 [(4, 4, r.tag), (8, 4, d.sfnOf mu s * 2 ^ 22 + s % (10 * 2 ^ mu) * 2 ^ 15 + c * 2 ^ 10 + r.grant),
    (12, 2, r.rnti), (14, 1, r.status), (15, 1, r.flags), (16, 4, r.tbs), (20, 8, data), (28, 2, r.evm), (30, 2, r.sinr),
    (32, 2, r.cbs), (34, 2, r.cbfail), (36, 2, r.itsum), (38, 1, r.itmax), (40, 1, path), (41, 1, reason), (42, 2, conf),
    (44, 4, d.ns), (48, 4, slack), (52, 4, r.erased), (56, 4, r.satN), (60, 4, s)]).drop 4
  let hist := match d.decEntry c s r.grant with | none => 0 | some x => x.hist
  let d := if r.status = 0 then { d with pci := { d.pci with buffers := d.pci.buffers.drop 1 } } else d
  let d := d.postRecord tail payload r.beats
  let d := d.countStatus r.status
  d.handOutcome c s r.grant { seq := seq, hist := hist, status := r.status, path := path, reason := reason }

/-! ## The supervisor -/

/-- Per-cell configuration word in force: as it stood at the cell's last projection point (R390). -/
def Dev.rsvCell (d : Dev) (c off : Nat) : Nat :=
  match d.rsv.cells.find? (·.1 == c) with
  | some x => x.2.getD (off / 4) 0
  | none => d.reg .rsv 0 (0x200 + 32 * c + off)

/-- The configuration words of cell `c` take effect (R390). -/
def Dev.rsvLatch (d : Dev) (c : Nat) : Dev :=
  let ws := (List.range 6).map fun i => d.reg .rsv 0 (0x200 + 32 * c + 4 * i)
  { d with rsv := { d.rsv with cells := (d.rsv.cells.filter (·.1 != c)) ++ [(c, ws)] } }

/-- Do the decision entries of cell `c` still hold slot `s`: is it the last planned one of its slot buffer (R372)? -/
def Dev.decHolds (d : Dev) (c s : Nat) : Bool :=
  match (d.rsv.plans.filter fun p => p.cell == c && p.slot % 2 == s % 2).getLast? with
  | some p => p.slot == s
  | none => false

/-- SPLIT of a cell. -/
def Dev.rsvSplit (d : Dev) (c : Nat) : Nat := bits (d.rsvCell c 0) 3 2

/-- Address of the decision entry of a grant (R372). -/
def Dev.decAddr (d : Dev) (c s g : Nat) : Nat :=
  d.rsvCell c 8 + 2 ^ 32 * bits (d.rsvCell c 12) 7 0 + s % 2 * 512 + 8 * g

/-- Bytes of a decision entry (R372). -/
def DecEntry.bytes (e : DecEntry) : List Byte :=
  leBytes 2 (e.hist + (if e.final then 2 ^ 15 else 0)) ++ leBytes 1 e.path ++ leBytes 1 e.reason ++ leBytes 2 e.conf ++
    leBytes 2 e.alpha

/-- Count a final entry by its PATH (R390). -/
def Dev.countFinal (d : Dev) (path : Nat) : Dev :=
  d.bump .rsv 0 (match path with | 0 => 0x120 | 2 => 0x124 | 1 => 0x128 | _ => 0x12C) 1

/-- Write an entry, all 8 bytes at once, unless a later slot has taken its buffer (R372, R373). -/
def Dev.writeDec (lk : Locked) (d : Dev) (c s : Nat) (e : DecEntry) : Dev :=
  let d := if d.decHolds c s then d.busStore lk .rsv (d.decAddr c s e.grant) e.bytes else d
  if e.final then d.countFinal e.path else d

/-- Replace an entry in its plan. -/
def Dev.setDec (d : Dev) (c s : Nat) (e : DecEntry) : Dev :=
  { d with rsv := { d.rsv with plans := d.rsv.plans.map fun p =>
      if p.cell == c && p.slot == s then { p with entries := p.entries.map fun x => if x.grant == e.grant then e else x }
      else p } }

/-- Make an entry final. -/
def Dev.finalise (lk : Locked) (d : Dev) (c s : Nat) (e : DecEntry) (path reason alpha conf : Nat) : Dev :=
  let e' := { e with final := true, path := path, reason := reason, alpha := alpha, conf := conf }
  (d.setDec c s e').writeDec lk c s e'

/-- Address of the state entry of a history (R382). -/
def Dev.stateAddr (d : Dev) (h : Nat) : Nat :=
  d.reg .rsv 0 0x110 + 2 ^ 32 * d.fld .rsv 0 0x114 7 0 + 8 * h

/-- Read a state entry: OFS, POLICY, ALPHA_LOCK, NOUT and NFAIL (R382). -/
def Dev.stateEntry (lk : Locked) (d : Dev) (h : Nat) : (Int × Nat × Nat × Nat × Nat) × Dev :=
  let (bs, _, d) := d.busBytes lk .rsv (d.stateAddr h) 8
  let w := leAt bs 2 2
  ((toS 16 (leAt bs 0 2), bits w 1 0, bits w 10 2, leAt bs 4 2, leAt bs 6 2), d)

/-- Step 1 of R375: the host command that waits takes effect (R385). -/
def Dev.rsvCommand (lk : Locked) (d : Dev) : Dev :=
  match d.rsv.cmd with
  | none => d
  | some (op, policy, alpha, h) =>
    let d := { d with rsv := { d.rsv with cmd := none } }
    let d := if op = 1 then d.busStore lk .rsv (d.stateAddr h + 2) (leBytes 2 (policy + 4 * alpha))
      else (d.busStore lk .rsv (d.stateAddr h) (leBytes 2 0)).busStore lk .rsv (d.stateAddr h + 4) (leBytes 4 0)
    d.setReg .rsv 0 0x11C 0

/-- A write of RSV_HCMD: an undefined operation is counted as VALUE and a write while BUSY as STATE (R385, R390). -/
def Dev.rsvHcmd (d : Dev) (op policy alpha h : Nat) : Dev :=
  if d.flag .rsv 0 0x11C 31 then d.err .rsv 0 errState 0x118
  else if op = 1 || op = 2 then
    if op = 1 && policy = 3 && (alpha = 0 || 255 < alpha) then d.setReg .rsv 0 0x11C 1
    else { d.setReg .rsv 0 0x11C (2 ^ 31) with rsv := { d.rsv with cmd := some (op, policy, alpha, h) } }
  else d.err .rsv 0 errValue 0x118

/-- SET_POLICY: the host command (R385). -/
def effSetPolicy (policy alpha h : Nat) (d : Dev) : Dev := d.rsvHcmd 1 policy alpha h

/-- RESET_LOOP: the host command (R385). -/
def effResetLoop (h : Nat) (d : Dev) : Dev := d.rsvHcmd 2 0 0 h

/-- Apply one outcome to the slow loop (R383). -/
def Dev.applyOutcome (lk : Locked) (d : Dev) (o : Outcome) : Dev :=
  let ((ofs, policy, _, nout, nfail), d) := d.stateEntry lk o.hist
  let up : Int := d.fld .rsv 0 0x108 11 0
  let dn : Int := d.fld .rsv 0 0x108 23 12
  let rec' : Int := d.fld .rsv 0 0x108 31 24
  let mx : Int := d.fld .rsv 0 0x10C 14 0
  let put (d : Dev) (ofs : Int) (nout nfail : Nat) : Dev :=
    (d.busStore lk .rsv (d.stateAddr o.hist) (leBytes 2 (ofS 16 ofs))).busStore lk .rsv (d.stateAddr o.hist + 4)
      (leBytes 2 (min nout 0xFFFF) ++ leBytes 2 (min nfail 0xFFFF))
  if policy ≠ 0 then d
  else if o.path = 0 || o.path = 2 then
    if o.status = 0 then put d (min (ofs + up) mx) (nout + 1) nfail
    else if o.status = 1 then put d (max (ofs - dn) (-mx)) (nout + 1) (nfail + 1)
    else d
  else if o.path = 1 && o.reason = 2 && o.status = 0 then put d (min (ofs + rec') mx) nout nfail
  else d

/-- Step 2 of R375: the outcomes of slot `s` − D_LAG in SEQ order, and those missed (R383, R384). -/
def Dev.applyLag (lk : Locked) (d : Dev) (c s : Nat) : Dev :=
  let lag := bits (d.rsvCell c 0) 7 4
  match d.rsv.plans.find? fun p => p.cell == c && p.slot + lag == s with
  | none => d
  | some p =>
    if p.applied then d else
    let d := { d with rsv := { d.rsv with plans := d.rsv.plans.map fun q =>
      if q.cell == c && q.slot == p.slot then { q with applied := true } else q } }
    let d := (sortBy (fun a b => reached b.seq a.seq) p.outcomes).foldl (fun d o => d.applyOutcome lk o) d
    let missed := (p.entries.filter fun e => !e.recorded).length
    if missed = 0 then d
    else ((d.bump .rsv 0 0x140 missed).sticky .rsv 0 3).post .rsv 0 0x06 4 0
      (layout 20 [(0, 1, c), (4, 4, p.slot), (8, 2, missed)])

/-- The deadline projection of R377: does it fail, and tp + B − D. -/
def Dev.projectionFails (lk : Locked) (d : Dev) (c s : Nat) (e : List Byte) : Bool × Int × Dev :=
  let a := leAt e 56 5
  let (b, d) : Nat × Dev := if a = 0 then (0, d) else
    (let (ds, _, d) := d.busBytes lk .rsv a 128; (jobBound ds lk.cores.length, d))
  let x := sdiff d.ns (d.deadlineOf e s) + b
  (decide (-(d.rsvCell c 4 : Int) < x), x, d)

/-- What the receive chain gives the supervisor of a grant of an accepted list: its number, HIST, whether it is invalid,
whether its record is fixed already, and whether a contribution has been accepted for it (R375, R376, R384, R386). -/
structure GrantInfo where
  num : Nat
  hist : Nat
  bad : Bool
  closed : Bool
  touched : Bool
  deriving DecidableEq, Repr

/-- VALID of the history record of `h`, by the supervisor's own read of the record (R258, R376). -/
def Dev.histValid (lk : Locked) (d : Dev) (h : Nat) : Bool × Dev :=
  let (bs, _, d) := d.busBytes lk .rsv (d.histAddr h) 64
  (bit (leAt bs 0 4) 31, d)

/-- The projection point of slot `s` of cell `c`, over the grants of an accepted list (R375 to R378). A grant whose record
is fixed already hands in no outcome later, so none is missed (R383, R384). -/
def Dev.projectionPoint (lk : Locked) (d : Dev) (c s : Nat) (accepted : Bool) (grants : List GrantInfo) : Dev :=
  let d := ((d.rsvLatch c).rsvCommand lk).applyLag lk c s
  if !accepted then d
  else
    let e := d.cellFor false c s
    let on := d.flag .rsv 0 0x100 0
    let split := d.rsvSplit c
    let (fails, x, d) : Bool × Int × Dev := if on && split = 0 then d.projectionFails lk c s e else (false, 0, d)
    let d := if fails then ((d.bump .rsv 0 0x130 1).sticky .rsv 0 0).post .rsv 0 0x06 1 0
        (layout 20 [(0, 1, c), (4, 4, s), (8, 4, ofS 32 x)]) else d
    let force := bit (d.rsvCell c 0) 1
    let (es, d) := grants.foldl (fun (acc : List DecEntry × Dev) g =>
      let (es, d) := acc
      let (st, d) := d.stateEntry lk g.hist
      let (valid, d) := d.histValid lk g.hist
      let base : DecEntry := { grant := g.num, hist := g.hist, final := true, path := 1, reason := 0, ofs := st.1,
                               policy := st.2.1, alphaLock := st.2.2.1, recorded := g.closed }
      let en : DecEntry :=
        if !on then { base with reason := 0x13 }
        else if g.bad then { base with path := 3, reason := 0xFF, plan := 3 }
        else if !valid then { base with reason := 0x23 }
        else if es.any (·.hist == g.hist) then { base with reason := 0x24 }
        else if force then { base with reason := 0x13 }
        else if st.2.1 = 2 then { base with reason := 0x11 }
        else if fails then { base with reason := 0x20 }
        else if st.2.1 = 3 then { base with final := false, path := 2, plan := 2, reason := 0x30, eligible := true }
        else { base with final := false, path := 0, plan := 0, reason := 0x30, eligible := true }
      (es ++ [en], d)) ([], d)
    let lag := max 2 (bits (d.rsvCell c 0) 7 4)
    let keep := d.rsv.plans.filter fun p => p.cell != c || decide (s < p.slot + lag) ||
      (p.slot % 2 != s % 2 && d.decHolds c p.slot)
    let misses := d.rsv.misses.filter fun m => m.1 != c || decide (s < m.2 + 16)
    let d := { d with rsv := { d.rsv with
      plans := keep ++ [{ cell := c, slot := s, entries := es, touched := (grants.filter (·.touched)).map (·.num) }]
      misses := misses } }
    es.foldl (fun d en => d.writeDec lk c s en) d

/-- A discarded report (R379). -/
def Dev.badReport (d : Dev) : Dev := (d.bump .rsv 0 0x144 1).sticky .rsv 0 4

/-- The final decision of a reported grant (R380). -/
def Dev.finalDecision (lk : Locked) (d : Dev) (c s : Nat) (e : DecEntry) (excl : Bool) (conf : Nat) : Dev :=
  let c' := clampI 0 65535 (conf + e.ofs)
  let hi : Int := d.fld .rsv 0 0x104 31 16
  let lo : Int := d.fld .rsv 0 0x104 15 0
  let fin (path reason alpha : Nat) : Dev := d.finalise lk c s e path reason alpha conf
  if d.rsv.misses.contains (c, s) then fin 1 0x22 0
  else if excl then fin 1 0x25 0
  else if e.plan = 2 then fin 2 0x12 e.alphaLock
  else if e.policy = 1 then fin 0 0x10 256
  else if hi ≤ c' then fin 0 0x00 256
  else if c' < lo then fin 1 0x02 0
  else
    let q : Ex := { Ex.ofInt ((c' - lo) * 256) with den := (hi - lo).toNat }
    fin 2 0x01 (clampI 1 255 q.roundInt).toNat

/-- CONFIDENCE_REPORT: the next report of core `core` (R379 to R381). -/
def effConfidenceReport (core : Nat) (lk : Locked) (d : Dev) : Dev :=
  match d.streams.toList.getD (24 + core) [] with
  | [] => d
  | (o, bs, _) :: rest =>
    let d := { d with streams := d.streams.setIfInBounds (24 + core) rest }
    let c := bits (leAt bs 0 1) 4 0
    let g := bits (leAt bs 1 1) 5 0
    let resBad := bits (leAt bs 0 1) 7 5 != 0 || bits (leAt bs 1 1) 7 6 != 0 || bits (leAt bs 2 1) 7 1 != 0 ||
      leAt bs 3 1 != 0 || leAt bs 10 6 != 0
    if o ≠ 0 || bs.length ≠ 16 || resBad then d.badReport
    else if d.rsvSplit c = 2 then d
    else
      match d.rsv.plans.find? fun p => p.cell == c && d.decHolds c p.slot && p.slot % 2 ^ 32 == leAt bs 4 4 with
      | none => d.badReport
      | some p =>
        match p.entries.find? (·.grant == g) with
        | none => d.badReport
        | some e => if e.final then d.badReport else d.finalDecision lk c p.slot e (bit (leAt bs 2 1) 0) (leAt bs 8 2)

/-- A contribution for a grant of a planned slot is accepted (R301, R386). -/
def Dev.touchPlan (d : Dev) (c s g : Nat) : Dev :=
  { d with rsv := { d.rsv with plans := d.rsv.plans.map fun p =>
      if p.cell == c && p.slot == s && !p.touched.contains g then { p with touched := p.touched ++ [g] } else p } }

/-- The end of an estimation job, completed or not (R386, R387). The entries of a member device stay as planned (R378).
-/
def Dev.jobNotice (lk : Locked) (d : Dev) (n : Nat × Nat × Bool) : Dev :=
  let c := n.1
  match d.rsv.plans.find? fun p => p.cell == c && p.slot % 2 ^ 32 == n.2.1 with
  | none => if n.2.2 then d else ((d.bump .rsv 0 0x134 1).sticky .rsv 0 1).post .rsv 0 0x06 2 0
      (layout 20 [(0, 1, c), (4, 4, n.2.1)])
  | some p =>
    let e := d.cellFor false c p.slot
    let member := d.rsvSplit c = 2
    if n.2.2 then
      let es := p.entries.filter fun x => x.eligible && !x.final && !member
      let d := es.foldl (fun d x => d.finalise lk c p.slot x 3 0x26 0 x.conf) d
      if es.isEmpty then d
      else ((d.bump .rsv 0 0x138 es.length).sticky .rsv 0 2).post .rsv 0 0x06 3 0
        (layout 20 [(0, 1, c), (4, 4, p.slot), (8, 2, es.length)])
    else
      let fb := d.rsvCell c 0x10 + 2 ^ 32 * bits (d.rsvCell c 0x14) 7 0
      let es := p.entries.filter fun x => !p.touched.contains x.grant && !member
      let d := es.foldl (fun d x => d.finalise lk c p.slot x (if fb = 0 then 3 else 1) 0x21 0 x.conf) d
      let d := if fb = 0 || es.isEmpty then d else d.submitTemplate lk .rsv 2 fb c p.slot (d.deadlineOf e p.slot)
      ((d.bump .rsv 0 0x134 1).sticky .rsv 0 1).post .rsv 0 0x06 2 0
        (layout 20 [(0, 1, c), (4, 4, p.slot), (8, 2, if fb = 0 then 0 else es.length)])

/-- The supervisor hears of the estimation jobs that have ended. -/
def Dev.takeNotices (lk : Locked) (d : Dev) : Dev :=
  let ns := d.sch.notices
  ns.foldl (fun d n => d.jobNotice lk n) { d with sch := { d.sch with notices := [] } }

end Sys2Proof.Machine
end

