-- ==== Sys2Proof/Machine/Rxc.lean ====
section
/-! DEFINITION. The fronthaul classifier, the receive chain and the HARQ combiner (R285 to R311;
09_uplink_receive_chain.md). -/

namespace Sys2Proof.Machine

/-! ## Slots in progress -/

/-- A slot of a receive cell in progress, a fresh one when it is not yet begun. -/
def Dev.rxSlot (d : Dev) (c s : Nat) : RxSlot :=
  (d.rxc.slots.find? fun x => x.cell == c && x.seq == s).getD { cell := c, seq := s }

/-- Replace a slot in progress. -/
def Dev.setRxSlot (d : Dev) (x : RxSlot) : Dev :=
  let others := d.rxc.slots.filter fun y => !(y.cell == x.cell && y.seq == x.seq)
  { d with rxc := { d.rxc with slots := others ++ [x] } }

/-- A slot is dropped once its deadline has passed, its list is settled, every symbol is published and no grant is open. -/
def Dev.dropRxSlot (d : Dev) (c s : Nat) : Dev :=
  let x := d.rxSlot c s
  if x.deadline && x.list != 0 && x.published == 2 ^ 14 - 1 && x.grants.all (·.phase == 2) then
    { d with rxc := { d.rxc with slots := d.rxc.slots.filter fun y => !(y.cell == c && y.seq == s) } }
  else d

/-- Slot buffers G of a receive cell entry. -/
def rxG (e : List Byte) : Nat := 2 * bits (leAt e 0 4) 10 9
/-- ROWP, SYMP and SLOTP of a grid (R290). -/
def rowP (nprb : Nat) : Nat := ceilDiv (nprb * 48) 64 * 64
/-- SYMP of R290. -/
def symP (e : List Byte) : Nat := ceNstream e * rowP (ceNprb e)
/-- GRID_BASE. -/
def rxGrid (e : List Byte) : Nat := leAt e 24 5
/-- REF_BASE. -/
def rxRef (e : List Byte) : Nat := leAt e 32 5
/-- REF_MASK. -/
def rxRefMask (e : List Byte) : Nat := bits (leAt e 4 4) 13 0
/-- SRS_MASK. -/
def rxSrsMask (e : List Byte) : Nat := bits (leAt e 4 4) 29 16

/-- Address of the grid row of stream row `a`, symbol `n`, slot `s` (R290). -/
def rxRow (e : List Byte) (s n a : Nat) : Nat :=
  rxGrid e + s % rxG e * (14 * symP e) + n * symP e + a * rowP (ceNprb e)

/-- One 64-byte write of the status line with word 1 of the slot's 16 bytes changed by `f` (R293). -/
def Dev.statusLine (lk : Locked) (d : Dev) (e : List Byte) (s : Nat) (f : Nat → Nat) : Dev :=
  let b := s % rxG e
  let (ln, _, d) := d.busBytes lk .rxc (rxRef e) 64
  d.busStore lk .rxc (rxRef e) (slice ln 0 (16 * b + 4) ++ leBytes 4 (f (leAt ln (16 * b + 4) 4)) ++
    slice ln (16 * b + 8) (64 - (16 * b + 8)))

/-- The chain starts on a slot: SLOTSEQ written and the rest of the buffer's 16 bytes cleared (R293). -/
def Dev.openSlot (lk : Locked) (d : Dev) (c s : Nat) : Dev :=
  let x := d.rxSlot c s
  if x.opened then d
  else
    let e := d.cellFor false c s
    let b := s % rxG e
    let d := d.setRxSlot { x with opened := true }
    let (ln, _, d) := d.busBytes lk .rxc (rxRef e) 64
    d.busStore lk .rxc (rxRef e) (slice ln 0 (16 * b) ++ layout 16 [(0, 4, s)] ++
      slice ln (16 * b + 16) (64 - (16 * b + 16)))

/-! ## Classification (R285 to R289, R295) -/

/-- Enabled stream that an uplink eAxC ID names, in the active banks (R285, R455). -/
def Dev.rxStream (d : Dev) (eaxc : Nat) : Option (Nat × List Byte) :=
  ((List.range 256).map fun s => (s, d.activeStream false s)).find? fun p =>
    bit (leAt p.2 0 2) 15 && seEaxc p.2 == eaxc

/-- O-RAN identifiers of a U-plane message: frameId, subframeId, slotId, symbolId, from byte 8 of the frame. -/
def oranHdr (bs : List Byte) : Nat × Nat × Nat × Nat :=
  let w := beNat (slice bs 10 2)
  (leAt bs 9 1, w / 4096, w / 64 % 64, w % 64)

/-- Distance of time `ts` from the window [o, c). -/
def winDist (ts o c : Nat) : Nat :=
  let x := sdiff ts o
  let y := sdiff ts c
  if x < 0 then x.natAbs else if y < 0 then 0 else y.natAbs + 1

/-- The slot whose identifiers the frame carries and whose window for the symbol lies nearest its time-stamp (R285). -/
def Dev.nearestSlot (d : Dev) (c : Nat) (mu : Nat) (f sf sl sy ts : Nat) : Nat :=
  let kNow := (d.tim.sub - 1) / 10
  let r := (f + 1024 - (d.fld .tim 0 0x14C 9 0 + kNow) % 256) % 256
  let ks := (if 256 ≤ kNow + r then [kNow + r - 256] else []) ++ [kNow + r]
  let slot (k : Nat) : Nat := (10 * k + sf) * 2 ^ mu + sl
  let dist (k : Nat) : Nat :=
    let e := d.cellFor false c (slot k)
    let t := d.symEnd mu (slot k) sy
    winDist ts ((t + rxOpen e) % 2 ^ 32) ((t + rxClose e) % 2 ^ 32)
  slot (ks.foldl (fun b k => if dist k < dist b then k else b) (ks.headD 0))

/-- Mask of PRBs that a symbol and row of a slot has received. -/
def RxSlot.mask (x : RxSlot) (n a : Nat) : Nat :=
  match x.wrote.find? fun w => w.1 == n && w.2.1 == a with
  | none => 0
  | some w => w.2.2

/-- Add PRBs to the mask of a symbol and row. -/
def RxSlot.addMask (x : RxSlot) (n a m : Nat) : RxSlot :=
  { x with wrote := (x.wrote.filter fun w => !(w.1 == n && w.2.1 == a)) ++ [(n, a, x.mask n a ||| m)] }

/-- A section that R288 or R289 discards. -/
def Dev.fhcFmt (d : Dev) : Dev := (d.bump .fhc 0 0x114 1).sticky .fhc 0 3

/-- One section of a stream: first PRB, count, PRB blocks of 1 + 3m bytes, and the poison of each block, whose PRB it
carries. What it writes is seen from the publication of the symbol on (R287 to R290, R295, R434). -/
def Dev.section (lk : Locked) (d : Dev) (c s n : Nat) (se : List Byte) (start num : Nat) (blocks : List Byte)
    (bad : List Bool) : Dev :=
  let e := d.cellFor false c s
  let m := seM se
  let nprb := ceNprb e
  let num := if start = 0 && num = 0 then nprb else num
  let row := seRow se
  let prach := decide (seKind se = 1)
  if num = 0 || nprb < start + num || (prach && 3 < row) then d.fhcFmt
  else
    let d := d.openSlot lk c s
    let x := d.rxSlot c s
    let mask := (2 ^ num - 1) * 2 ^ start
    let key := if prach then row + 256 else row
    if x.mask n key &&& mask != 0 then (d.bump .fhc 0 0x10C 1).sticky .fhc 0 4
    else
      let x := x.addMask n key mask
      let x := if prach && !x.prach.contains n then { x with prach := x.prach ++ [n] } else x
      let (bytes, ev) := collectEv ((List.range num).map fun i =>
        let (cs, ev) := bfpDecompress m (slice blocks (i * bfpBytes m) (bfpBytes m))
        (cs.flatMap fun v => leBytes 2 (ofS 16 v), ev))
      let at' := if prach then leAt e 80 5 + s % rxG e * 0x40000 + row * 0x10000 + start * 48
        else rxRow e s n row + start * 48
      (d.setRxSlot { x with held := x.held ++ [(n, at', bytes.flatten, bad)] }).num .rxc 0 ev

/-- The sections of a frame from byte `o` on: fuel, then each header with its blocks; `bad` lists the beats of the frame
that read uncorrectable (R288, R289). -/
def Dev.sections (lk : Locked) (c s n : Nat) (se bs : List Byte) (bad : List Nat) : Nat → Nat → Dev → Dev
  | 0, _, d => d
  | f + 1, o, d =>
    if bs.length < o + 4 then d
    else
      let h := beNat (slice bs o 4)
      let start := bits h 17 8
      let num := bits h 7 0
      let m := seM se
      let hdr := seHdr se
      let comp := leAt bs (o + 4) 1
      let o' := if hdr then o + 6 else o + 4
      let nprb := ceNprb (d.cellFor false c s)
      let cnt := if start = 0 && num = 0 then nprb else num
      if hdr && comp % 16 != 1 then d.fhcFmt
      else
        let w := if hdr then (if comp / 16 = 0 then 16 else comp / 16) else m
        let len := cnt * bfpBytes w
        let d := if (hdr && w != m) || bs.length < o' + len then d.fhcFmt
          else d.section lk c s n se start num (slice bs o' len)
            ((List.range cnt).map fun i => (beatsOf (o' + i * bfpBytes w) (bfpBytes w)).any bad.contains)
        Dev.sections lk c s n se bs bad f (o' + len) d

/-- Has an admission point before this one served the close `cl` of a window (R286, R510)? -/
def Dev.served (d : Dev) (cl : Nat) : Bool :=
  match d.det.lastAdm with
  | some (_, ns) => reached ns ((cl + d.fld .det 0 0x108 9 0) % 2 ^ 32)
  | none => false

/-- The classifier takes one frame (R285, R286). -/
def Dev.classify (lk : Locked) (d : Dev) (fr : Ingress) : Dev :=
  let d := if fr.bad.isEmpty then d else d.errFree .fhc 0 errEcc
  let bs := fr.bytes
  let typ := leAt bs 1 1
  if !d.flag .fhc 0 0x100 0 then d
  else if typ = 2 then d.bump .fhc 0 0x118 1
  else if typ ≠ 0 then d
  else
    let unknown := (d.bump .fhc 0 0x110 1).sticky .fhc 0 2
    match d.rxStream (beNat (slice bs 4 2)) with
    | none => unknown
    | some (st, se0) =>
      let c := bits (leAt se0 0 2) 12 8
      let mu := ceMu (d.activeCell false c)
      let (f, sf, sl, sy) := oranHdr bs
      if 10 ≤ sf || 2 ^ mu ≤ sl || 14 ≤ sy then d.fhcFmt
      else
        let s := d.nearestSlot c mu f sf sl sy fr.ts
        let e := d.cellFor false c s
        let se := d.streamFor false st c s
        if !ceEnable e || !streamOf se c then unknown
        else
          let t := d.symEnd mu s sy
          let op := (t + rxOpen e) % 2 ^ 32
          let cl := (t + rxClose e) % 2 ^ 32
          if laterThan op fr.ts then (d.bump .fhc 0 0x104 1).sticky .fhc 0 1
          else if reached fr.ts cl || d.served cl || bit (d.rxSlot c s).published sy then
            let d := (d.bump .fhc 0 0x108 1).sticky .fhc 0 0
            if d.flag .fhc 0 0x120 31 then d
            else d.setReg .fhc 0 0x120 (2 ^ 31 + st * 2 ^ 16 + c * 2 ^ 8 + sy)
          else if d.flag .rxc 0 0x100 0 then Dev.sections lk c s sy se bs fr.bad bs.length 12 d
          else d

/-- Frames complete by tick `t` − 8, in order of their time-stamps, ties by port (R285, R448, R511). -/
def Dev.takeIngress (lk : Locked) (d : Dev) : Dev :=
  let ready := d.rxc.ingress.filter fun f => decide (f.tick + 8 ≤ d.tim.tick)
  let rest := d.rxc.ingress.filter fun f => !decide (f.tick + 8 ≤ d.tim.tick)
  let order (a b : Ingress) : Bool := if a.ts = b.ts then decide (a.port ≤ b.port) else laterThan b.ts a.ts
  let d := { d with rxc := { d.rxc with ingress := rest } }
  (sortBy order ready).foldl (fun d f => d.classify lk f) d

/-! ## Publication (R287, R291, R293 to R295, R375) -/

/-- Copy a symbol to the reference area (R294). -/
def Dev.refCopy (lk : Locked) (d : Dev) (e : List Byte) (s n : Nat) : Dev :=
  let both := rxRefMask e ||| rxSrsMask e
  let nref := (bitList 14 both).length
  let idx := ((bitList 14 both).filter (· < n)).length
  let (bs, ps, _, d) := d.busRead lk .rxc 0 (rxRow e s n 0) (symP e)
  (d.busWrite lk .rxc 0 (rxRef e + 64 + (s % rxG e * nref + idx) * symP e) bs ps).2

/-- What the accepted sections of symbol `n` of a slot have written comes to be seen: PRB blocks of 48 bytes, each with its
poison (R287). -/
def Dev.showHeld (lk : Locked) (d : Dev) (c s n : Nat) : Dev :=
  let x := d.rxSlot c s
  let d := d.setRxSlot { x with held := x.held.filter (·.1 != n) }
  (x.held.filter (·.1 == n)).foldl (fun d h =>
    let (_, a, bs, bad) := h
    if !bad.any id then d.busStore lk .rxc a bs
    else (List.range bad.length).foldl (fun d i =>
      d.busStore lk .rxc (a + 48 * i) (slice bs (48 * i) 48) (bad.getD i false)) d) d

/-- Publish symbol `n` of slot `s` of cell `c`. -/
def Dev.publish (lk : Locked) (d : Dev) (c s n : Nat) : Dev :=
  let e := d.cellFor false c s
  let d := (d.openSlot lk c s).showHeld lk c s n
  let x := d.rxSlot c s
  let nprb := ceNprb e
  let rows := ((d.streamsOf false c s).filter fun p => seKind p.2 == 0).map fun p => seRow p.2
  let (gap, d) := rows.foldl (fun (acc : Nat × Dev) a =>
    let miss := (List.range nprb).filter fun r => !bit (x.mask n a) r
    let d := miss.foldl (fun d r => d.busStore lk .rxc (rxRow e s n a + 48 * r) (List.replicate 48 0)) acc.2
    (if miss.isEmpty then acc.1 else acc.1 ||| 2 ^ a, d)) (0, d)
  let d := d.busStore lk .rxc (leAt e 40 5 + s % rxG e * 448 + n * 32) (leBytes 32 gap)
  let d := if gap = 0 then d else (d.bump .rxc 0 0x124 1).sticky .rxc 0 1
  let x := { x with published := x.published ||| 2 ^ n, gaps := if gap = 0 then x.gaps else x.gaps ||| 2 ^ n }
  let d := d.setRxSlot x
  let d := d.statusLine lk e s (· ||| 2 ^ n)
  let ref := rxRefMask e
  let srs := rxSrsMask e
  let d := if bit (ref ||| srs) n then d.refCopy lk e s n else d
  let dl := d.deadlineOf e s
  let d :=
    if bit ref n && x.published &&& ref == ref then
      let d := d.statusLine lk e s (· ||| 2 ^ 16)
      let d := d.projectionPoint lk c s (x.list == 1) (x.grants.map fun g =>
        { num := g.num, hist := bits (leAt g.bytes 6 2) 13 0, bad := g.bad, closed := g.phase == 2,
          touched := g.contributed })
      d.submitTemplate lk .rxc 0 (leAt e 56 5) c s dl
    else d
  let d :=
    if bit srs n && x.published &&& srs == srs then
      let d := d.statusLine lk e s (· ||| 2 ^ 17)
      d.submitTemplate lk .rxc 4 (leAt e 64 5) c s dl
    else d
  if x.prach.contains n then d.submitTemplate lk .rxc 4 (leAt e 72 5) c s dl else d

/-- Publish every symbol of cell `c` whose window has closed by this admission point (R287, R510). -/
def Dev.publishDue (lk : Locked) (c : Nat) : Nat → Dev → Dev
  | 0, d => d
  | f + 1, d =>
    match d.rxc.nextPub.find? (·.1 == c) with
    | none => d
    | some (_, s, n) =>
      let e := d.cellFor false c s
      let drop := d.rxc.nextPub.filter (·.1 != c)
      if !ceEnable e then { d with rxc := { d.rxc with nextPub := drop } }
      else if reached d.ns ((d.closeOf e s n + d.fld .det 0 0x108 9 0) % 2 ^ 32) then
        let d := d.publish lk c s n
        let nxt := if n = 13 then (c, d.nextSlot false c s, 0) else (c, s, n + 1)
        Dev.publishDue lk c f ({ d with rxc := { d.rxc with nextPub := drop ++ [nxt] } }.dropRxSlot c s)
      else d

/-! ## Grant lists (R296 to R298) -/

/-- Fields of a grant entry (R297). -/
def gTag (g : List Byte) : Nat := leAt g 0 4
/-- RNTI. -/
def gRnti (g : List Byte) : Nat := leAt g 4 2
/-- QM. -/
def gQm (g : List Byte) : Nat := bits (leAt g 12 4) 31 28
/-- NL + 1. -/
def gNl (g : List Byte) : Nat := bits (leAt g 12 4) 27 26 + 1
/-- G. -/
def gG (g : List Byte) : Nat := bits (leAt g 12 4) 23 0
/-- CODE. -/
def gCode (g : List Byte) : Nat := bits (leAt g 16 4) 31 30
/-- RV. -/
def gRv (g : List Byte) : Nat := bits (leAt g 16 4) 29 28
/-- NEWTX. -/
def gNew (g : List Byte) : Bool := bit (leAt g 16 4) 27
/-- LBRM. -/
def gLbrm (g : List Byte) : Bool := bit (leAt g 16 4) 26
/-- TBS. -/
def gTbs (g : List Byte) : Nat := bits (leAt g 16 4) 20 0
/-- NREF. -/
def gNref (g : List Byte) : Nat := bits (leAt g 28 4) 23 0
/-- SBUF. -/
def gSbuf (g : List Byte) : Nat := leAt g 32 5
/-- Segmentation of a grant. -/
def gSeg (g : List Byte) : Seg := segment (gCode g) (gTbs g)

/-- Is an uplink grant entry invalid in a cell of `nprb` PRBs (R298)? -/
def grantBad (nprb : Nat) (g : List Byte) : Bool :=
  let w12 := leAt g 12 4
  let w16 := leAt g 16 4
  let w20 := leAt g 20 4
  let w40 := leAt g 40 4
  let reserved := bits (leAt g 6 2) 15 14 != 0 || bit (leAt g 8 4) 31 || bit w12 24 || bits w16 25 21 != 0 ||
    bits w20 31 26 != 0 || bits (leAt g 24 2) 15 14 != 0 || leAt g 26 2 != 0 || bits (leAt g 28 4) 31 24 != 0 ||
    leAt g 37 3 != 0 || bits w40 31 9 != 0 || (slice g 44 20).any (· != 0)
  let maxit := bits w40 7 0
  let range := !([1, 2, 4, 6, 8] : List Nat).contains (gQm g) || gCode g == 3 || maxit == 0 || decide (32 < maxit) ||
    gSbuf g % 64 != 0 || (gLbrm g && gNref g == 0)
  reserved || range || decide (nprb < bits w20 8 0 + bits w20 17 9) || decide (14 < bits w20 21 18 + bits w20 25 22) ||
  gTbs g % 8 != 0 || gG g % (gNl g * gQm g) != 0 ||
  (let s := gSeg g
   decide (255 < s.c) || decide (0x1000000000 < gSbuf g + s.c * s.cbp (gLbrm g) (gNref g)))

/-- Does a symbol of the grant have a gap, by the mask of the slot's symbols with gaps (R312)? -/
def gGap (g : List Byte) (gaps : Nat) : Bool :=
  let w := leAt g 20 4
  (rangeFrom (bits w 21 18) (bits w 25 22)).any (bit gaps)

/-- Record of an entry that is never processed (R312). -/
def recOfEntry (n : Nat) (g : List Byte) (gaps status : Nat) : RecIn :=
  { grant := n, tag := gTag g, rnti := gRnti g, status := status, flags := 2 * b2n (gGap g gaps), tbs := gTbs g
    cbs := (gSeg g).c }

/-- A record that an admission point fixes: its slot and its fields. -/
abbrev DueRec := Nat × RecIn

/-- Fix the records of cell `c` that fall to one admission point, by ascending grant (R311). -/
def Dev.fixAll (d : Dev) (c : Nat) (l : List DueRec) : Dev :=
  (sortBy (fun (a b : DueRec) => decide (a.2.grant ≤ b.2.grant)) l).foldl (fun d r => d.fixRecord c r.1 r.2 []) d

/-- Address of the list of slot `s` (R296). -/
def listAt (e : List Byte) (s : Nat) : Nat := leAt e 48 5 + s % 4 * 4160

/-- Read a list: does its SLOTSEQ match, and its entries. -/
def Dev.readGrants (lk : Locked) (d : Dev) (e : List Byte) (s : Nat) : Option (List (List Byte)) × Dev :=
  let (h, _, d) := d.busBytes lk .rxc (listAt e s) 64
  if leAt h 0 4 ≠ s % 2 ^ 32 then (none, d)
  else
    let n := min (leAt h 4 1) 64
    let (bs, _, d) := d.busBytes lk .rxc (listAt e s + 64) (64 * n)
    (some ((List.range n).map fun i => slice bs (64 * i) 64), d)

/-- Accept the list of slot `s`; the records of its invalid entries are still to be fixed (R296, R298). -/
def Dev.acceptList (lk : Locked) (d : Dev) (c s : Nat) (gs : List (List Byte)) : List DueRec × Dev :=
  let e := d.cellFor false c s
  let d := d.openSlot lk c s
  let d := d.statusLine lk e s (· ||| 2 ^ 18)
  let x := d.rxSlot c s
  let states := gs.zipIdx.map fun p =>
    let bad := grantBad (ceNprb e) p.1
    ({ num := p.2, bytes := p.1, bad := bad, phase := if bad then 2 else 0 } : GrantSt)
  let d := d.setRxSlot { x with list := 1, listBeat := d.tim.tick, grants := states }
  let invalid := states.filter (·.bad)
  (invalid.map fun g => (s, recOfEntry g.num g.bytes x.gaps 4),
   if invalid.isEmpty then d else (d.bump .rxc 0 0x12C invalid.length).sticky .rxc 0 3)

/-- A list first matches at a later admission point (R296). -/
def Dev.lateList (d : Dev) (c s : Nat) (gs : List (List Byte)) : List DueRec × Dev :=
  let x := d.rxSlot c s
  let d := d.setRxSlot { x with list := 2 }
  let d := ((d.bump .rxc 0 0x128 1).sticky .rxc 0 2).post .rxc 0 0x04 4 0
    (layout 20 [(0, 1, c), (4, 4, s), (8, 1, gs.length)])
  (gs.zipIdx.map fun p => (s, recOfEntry p.2 p.1 x.gaps 3), d)

/-- The list of slot `s` has never matched (R296). -/
def Dev.lostList (d : Dev) (c s : Nat) : List DueRec × Dev :=
  let d := d.setRxSlot { d.rxSlot c s with list := 3 }
  let d := ((d.bump .rxc 0 0x128 1).sticky .rxc 0 2).post .rxc 0 0x04 4 0 (layout 20 [(0, 1, c), (4, 4, s), (8, 1, 0)])
  ([(s, { grant := 0, status := 9 })], d)

/-- The lists that fall due at this admission point, for cell `c`: those of the slots that start, on time. A slot whose
list does not match waits for it (R296, R510). -/
def Dev.listsDue (lk : Locked) (c : Nat) : Nat → List DueRec × Dev → List DueRec × Dev
  | 0, x => x
  | f + 1, (rs, d) =>
    match d.rxc.nextList.find? (·.1 == c) with
    | none => (rs, d)
    | some (_, s) =>
      let e := d.cellFor false c s
      let drop := d.rxc.nextList.filter (·.1 != c)
      if !ceEnable e then (rs, { d with rxc := { d.rxc with nextList := drop } })
      else if reached d.ns ((d.symStart (ceMu e) s 0 + d.fld .det 0 0x108 9 0) % 2 ^ 32) then
        let d := { d with rxc := { d.rxc with nextList := drop ++ [(c, d.nextSlot false c s)] } }
        let (gs, d) := d.readGrants lk e s
        match gs with
        | some gs =>
          let (new, d) := d.acceptList lk c s gs
          Dev.listsDue lk c f (rs ++ new, d)
        | none =>
          let d := { d with rxc := { d.rxc with waiting := d.rxc.waiting ++ [(c, s)] } }
          Dev.listsDue lk c f (rs, d.setRxSlot (d.rxSlot c s))
      else (rs, d)

/-- Lists of earlier slots of cell `c` that have not matched: one is lost when the list four slots after it falls due, else
it is read again (R296). -/
def Dev.listsAgain (lk : Locked) (d : Dev) (c : Nat) : List DueRec × Dev :=
  (d.rxc.waiting.filter (·.1 == c)).foldl (fun (rs, d) x =>
    let s := x.2
    let e := d.cellFor false c s
    let settle (d : Dev) : Dev := { d with rxc := { d.rxc with waiting := d.rxc.waiting.filter (· != (c, s)) } }
    if reached d.ns ((d.symStart (ceMu e) (s + 4) 0 + d.fld .det 0 0x108 9 0) % 2 ^ 32) then
      let (new, d) := (settle d).lostList c s
      (rs ++ new, d)
    else
      let (gs, d) := d.readGrants lk e s
      match gs with
      | some gs =>
        let (new, d) := (settle d).lateList c s gs
        (rs ++ new, d)
      | none => (rs, d)) ([], d)

/-- What cell `c` has to do at an admission point: its lists, the records that they fix, and the publications (R22, R287,
R296, R311). -/
def Dev.cellAdmit (lk : Locked) (d : Dev) (c : Nat) : Dev :=
  let (rs, d) := Dev.listsDue lk c 64 (d.listsAgain lk c)
  let d := d.fixAll c rs
  let d := (rs.map (·.1)).foldl (fun d s => d.dropRxSlot c s) d
  Dev.publishDue lk c 1024 d

/-- The classifier and the receive chain at an admission point, cell after cell: a disabled classifier drains the ingress
buffer (R22, R285, R287, R296, R314). -/
def Dev.rxcAdmit (lk : Locked) (d : Dev) : Dev :=
  let d := if d.flag .fhc 0 0x100 0 then d.takeIngress lk else { d with rxc := { d.rxc with ingress := [] } }
  if !d.flag .rxc 0 0x100 0 then d else (List.range 32).foldl (fun d c => d.cellAdmit lk c) d

/-! ## Soft bits (R299 to R308) -/

/-- A stream of window writes as bytes, each with the poison of its beat. -/
def flatStream (l : List (Nat × List Byte × List Bool)) : List (Byte × Bool) :=
  l.flatMap fun w => ((beatParts w.1 w.2.1.length).zipIdx).flatMap fun p =>
    (slice w.2.1 (p.1.1 - w.1) p.1.2).map fun b => (b, w.2.2.getD p.2 false)

/-- A stream remainder, in pieces of 64 bytes. -/
def chunkStream (l : List (Byte × Bool)) : List (Nat × List Byte × List Bool) :=
  (List.range (ceilDiv l.length 64)).map fun i =>
    let p := (l.drop (64 * i)).take 64
    (0, p.map (·.1), [p.any (·.2)])

/-- Change a grant of a slot. -/
def RxSlot.modGrant (x : RxSlot) (g : Nat) (f : GrantSt → GrantSt) : RxSlot :=
  { x with grants := x.grants.map fun y => if y.num == g then f y else y }

/-- Decoder fields and flags of a grant's record (R312, R357). -/
def GrantSt.recIn (x : GrantSt) (gaps beats status : Nat) : RecIn :=
  let w := leAt x.bytes 20 4
  let syms := rangeFrom (bits w 21 18) (bits w 25 22)
  let decoded := !x.results.isEmpty
  { grant := x.num, tag := gTag x.bytes, rnti := gRnti x.bytes, status := status,
    flags := b2n (decide (0 < x.erased)) + 2 * b2n (syms.any (bit gaps)) + 4 * b2n (decide (0 < x.satN)) + 8 * b2n x.clamp
    tbs := gTbs x.bytes, evm := x.evm, sinr := x.sinr, cbs := (gSeg x.bytes).c
    cbfail := (x.results.filter fun r => r.2.1 == 1 || r.2.1 == 2).length
    itsum := if decoded then (x.results.map fun r => r.2.2.2.1).foldl (· + ·) 0 else 0
    itmax := (x.results.map fun r => r.2.2.2.1).foldl max 0
    erased := x.erased, satN := x.satN, beats := beats }

/-- Close a grant with its record (R301, R309 to R311). -/
def Dev.closeGrant (d : Dev) (c s g status : Nat) (payload : List Byte) : Dev :=
  let x := d.rxSlot c s
  match x.grants.find? (·.num == g) with
  | none => d
  | some gr =>
    let d := d.setRxSlot (x.modGrant g fun y => { y with phase := 2 })
    let d := { d with rxc := { d.rxc with complete := d.rxc.complete.filter fun q =>
      !(q.1 == c && q.2.1 == s && q.2.2.1 == g) } }
    (d.fixRecord c s (gr.recIn x.gaps (d.beatsSince x.listBeat) status) payload).dropRxSlot c s

/-- An operation of which no burst is charged to a class (R435). -/
def Dev.uncharged (d : Dev) (f : Dev → Dev) : Dev :=
  let d' := f d
  { d' with ms := { d'.ms with bursts := d.ms.bursts } }

/-- The last received bit of a NEWTX transmission of E bits for beat `k` of a soft buffer, 0 for a beat that takes none:
every position of the beat takes at most one LLR. None for a beat that has a position with a second one (R306, R435). -/
def lastLlr (code e qm : Nat) (lap : List Nat) (k : Nat) : Option Nat :=
  let m := lap.length
  let own := (List.range m).filter fun i => decide (i < e) && lap.getD i 0 / 64 == k
  if own.any fun i => decide (i + m < e) then none
  else some ((own.map (reinter code e qm)).foldl max 0)

/-- Combine the LLRs of one code block (R31, R304 to R307, R435). `ts` gives received bit, descrambled LLR and whether its
beat was poisoned. A beat of a NEWTX transmission in which no position takes a second LLR is written once, when its last
LLR has come, and never read; every other beat is read and written. The answer is the erased positions and the
saturations. -/
def Dev.combine (lk : Locked) (d : Dev) (g : List Byte) (r : Nat) (ts : List (Nat × Int × Bool)) : Nat × Nat × Dev :=
  let s := gSeg g
  let ncb := s.ncb r (gLbrm g) (gNref g)
  let cbp := s.cbp (gLbrm g) (gNref g)
  let e := s.e r (gG g) (gNl g) (gQm g)
  let lap := (s.lap r (gRv g) ncb).toArray
  let m := lap.size
  let base := gSbuf g + r * cbp
  let fresh (k : Nat) : Byte := if s.isFill r k && decide (k < ncb) then 31 else 0
  let newtx := gNew g
  let first := newtx && ts.any (·.1 == 0)
  let d := if first then d.uncharged (·.busStore lk .hq base ((List.range cbp).map fresh) false true) else d
  let once (k : Nat) : Option Nat := if newtx then lastLlr s.code e (gQm g) lap.toList k else none
  if m = 0 then (0, 0, d)
  else
    let posOf (t : Nat) : Nat := lap.getD (deinter s.code e (gQm g) t % m) 0
    let beats := (ts.map fun t => posOf t.1 / 64).foldl (fun l k => insertSorted k l) []
    let (buf, erased, d) := beats.foldl (fun (acc : List (Nat × List Byte) × Nat × Dev) k =>
      let (bs, bad, d') := acc.2.2.busBytes lk .hq (base + 64 * k) 64 true
      let (bad, d) := if (once k).isSome then (false, acc.2.2) else (bad, d')
      if bad then
        let d := (d.bump .hq 0 0x108 1).sticky .hq 0 1
        (acc.1 ++ [(k, (List.range 64).map fun i => fresh (64 * k + i))], acc.2.1 + 64, d)
      else (acc.1 ++ [(k, bs)], acc.2.1, d)) ([], 0, d)
    let (buf, erased, sat, inE) := ts.foldl (fun (acc : List (Nat × List Byte) × Nat × Nat × Nat) t =>
      let (buf, er, sat, ine) := acc
      let p := posOf t.1
      let l : Int := if t.2.2 then 0 else t.2.1
      let old := (readLlr6 (((buf.find? (·.1 == p / 64)).map fun q => (q.2.getD (p % 64) 0).toNat).getD 0)).1
      let v := if newtx && firstAt s.code e (gQm g) m t.1 then l else old + l
      let v' := clampI (-31) 31 v
      let buf := buf.map fun q => if q.1 == p / 64 then (q.1, q.2.set (p % 64) (BitVec.ofNat 8 (ofS 8 v'))) else q
      (buf, er + b2n t.2.2, sat + b2n (v != v'), ine + b2n t.2.2)) (buf, erased, 0, 0)
    let d := buf.foldl (fun d q =>
      let w (d : Dev) : Dev := d.busStore lk .hq (base + 64 * q.1) q.2 false true
      match once q.1 with
      | some t => if ts.any (·.1 == t) then w d else d.uncharged w
      | none => w d) d
    let untouched := if first && inLp base then (List.range (cbp / 64)).filter fun k =>
      (List.range m).all fun i => decide (e ≤ i) || lap.getD i 0 / 64 != k else []
    let d := untouched.foldl (fun d k => d.owe true (Req.hq.cls true) ((base + 64 * k) / 64)) d
    let d := if inE = 0 then d else (d.bump .hq 0 0x104 inE).sticky .hq 0 0
    let d := if sat = 0 then d else (d.bump .hq 0 0x10C sat).sticky .hq 0 2
    (erased, sat, d)

/-- Blocks of a grant whose last codeword bit lies in `lo … hi − 1`. -/
def blocksEnding (g : List Byte) (lo hi : Nat) : List Nat :=
  let s := gSeg g
  (List.range s.c).filter fun r =>
    let e := s.start (r + 1) (gG g) (gNl g) (gQm g)
    decide (lo < e) && decide (e ≤ hi)

/-- Accept the LLRs of a contribution (R300, R302 to R308). -/
def Dev.acceptLlrs (lk : Locked) (d : Dev) (c s g : Nat) (gr : GrantSt) (ls : List (Byte × Bool)) : Dev :=
  let gb := gr.bytes
  let seg := gSeg gb
  let (vals, ev) := collectEv (ls.map fun b => readLlr6 b.1.toNat)
  let d := d.num .rxc 0 ev
  let sc := gold (bits (leAt gb 8 4) 30 0) gr.total ls.length
  let bitsIn := ((vals.zip sc).zip (ls.map (·.2))).zipIdx.map fun x =>
    (gr.total + x.2, if x.1.1.2 then -x.1.1.1 else x.1.1.1, x.1.2)
  let total := gr.total + ls.length
  let (er, sat, d) := (List.range seg.c).foldl (fun (acc : Nat × Nat × Dev) r =>
    let lo := seg.start r (gG gb) (gNl gb) (gQm gb)
    let hi := seg.start (r + 1) (gG gb) (gNl gb) (gQm gb)
    let ts := (bitsIn.filter fun x => decide (lo ≤ x.1) && decide (x.1 < hi)).map fun x => (x.1 - lo, x.2)
    if ts.isEmpty then acc
    else
      let (e, sn, d) := acc.2.2.combine lk gb r ts
      (acc.1 + e, acc.2.1 + sn, d)) (0, 0, d)
  let done := blocksEnding gb gr.total total
  let d := d.setRxSlot ((d.rxSlot c s).modGrant g fun y => { y with
    total := total, erased := y.erased + er, satN := y.satN + sat, clamp := y.clamp || decide (0 < ev.clamp) })
  { d with rxc := { d.rxc with complete := d.rxc.complete ++ done.map fun r => (c, s, g, r) } }

/-- A grant fails a contribution check: counted, and its record waits for the blocks already queued (R301). -/
def Dev.inputError (d : Dev) (c s g : Nat) : Dev :=
  let d := (d.bump .rxc 0 0x130 1).sticky .rxc 0 4
  let x := d.rxSlot c s
  match x.grants.find? (·.num == g) with
  | none => d
  | some gr =>
    if gr.queued = gr.results.length then d.closeGrant c s g 5 []
    else
      let d := { d with rxc := { d.rxc with complete := d.rxc.complete.filter fun q =>
        !(q.1 == c && q.2.1 == s && q.2.2.1 == g) } }
      d.setRxSlot (x.modGrant g fun y => { y with phase := 1, closing := some 5 })

/-- Checks and effect of one contribution (R301). -/
def Dev.contribute (lk : Locked) (d : Dev) (h : List Byte) (ls : List (Byte × Bool)) : Dev :=
  let c := bits (leAt h 0 1) 4 0
  let g := bits (leAt h 1 1) 5 0
  let sym := bits (leAt h 2 1) 3 0
  let last := bit (leAt h 3 1) 0
  let absent := bit (leAt h 3 1) 1
  let count := leAt h 8 3
  let s := d.absSlot (ceMu (d.activeCell false c)) (leAt h 4 4)
  let stale := d.bump .rxc 0 0x134 1
  match d.rxc.slots.find? fun x => x.cell == c && x.seq == s && x.list == 1 with
  | none => stale
  | some x =>
    match x.grants.find? (·.num == g) with
    | none => stale
    | some gr =>
      let reserved := bits (leAt h 0 1) 7 5 != 0 || bits (leAt h 1 1) 7 6 != 0 || bits (leAt h 2 1) 7 4 != 0 ||
        bits (leAt h 3 1) 7 2 != 0 || leAt h 11 1 != 0 || (slice h 16 48).any (· != 0)
      let symBad := match gr.lastSym with | some p => decide (sym ≤ p) | none => false
      let total := gr.total + count
      if gr.phase ≠ 0 then stale
      else if reserved || (absent && count != 0) then d.inputError c s g
      else if absent then d.closeGrant c s g 6 []
      else if symBad || decide (gG gr.bytes < total) || (last && decide (total < gG gr.bytes)) then d.inputError c s g
      else
        let d := (d.touchPlan c s g).setRxSlot (x.modGrant g fun y => { y with
          lastSym := some sym, contributed := true, evm := if last then leAt h 12 2 else y.evm
          sinr := if last then leAt h 14 2 else y.sinr, phase := if last then 1 else 0 })
        d.acceptLlrs lk c s g gr (ls.take count)

/-- Is cell `c` held because its next complete block finds its queue full (R344)? -/
def Dev.cellHeld (d : Dev) (c : Nat) : Bool :=
  d.rxc.complete.any fun q => q.1 == c &&
    (match (d.rxSlot c q.2.1).grants.find? (·.num == q.2.2.1) with
     | none => false
     | some g => decide (4096 ≤ (if gCode g.bytes = 2 then d.fec.qT else d.fec.qL).length))

/-- CONTRIBUTION: the chain takes the next whole contribution of physical core `core` from its stream (R299, R301, R344).
-/
def effContribution (core : Nat) (lk : Locked) (d : Dev) : Dev :=
  let st := flatStream (d.streams.toList.getD (8 + core) [])
  let h := (st.take 64).map (·.1)
  let n := ceilDiv (leAt h 8 3) 64 * 64
  if !d.flag .rxc 0 0x100 0 || st.length < 64 + n || d.cellHeld (bits (leAt h 0 1) 4 0) || d.memWaits then d
  else
    let d := { d with streams := d.streams.setIfInBounds (8 + core) (chunkStream (st.drop (64 + n))) }
    d.contribute lk h ((st.drop 64).take n)

/-- CODE_BLOCK_QUEUED: the next complete block goes to the queue of its code; one that finds it full is held (R308, R344).
-/
def effCodeBlockQueued (d : Dev) : Dev :=
  match d.rxc.complete with
  | [] => d
  | (c, s, g, r) :: rest =>
    let x := d.rxSlot c s
    match x.grants.find? (·.num == g) with
    | none => { d with rxc := { d.rxc with complete := rest } }
    | some gr =>
      let turbo := decide (gCode gr.bytes = 2)
      let q := if turbo then d.fec.qT else d.fec.qL
      if 4096 ≤ q.length then d.sticky .fec 0 2
      else
        let b : Blk := { cell := c, slot := s, grant := g, cb := r, entry := gr.bytes }
        let d := { d with rxc := { d.rxc with complete := rest } }
        let d := d.setRxSlot (x.modGrant g fun y => { y with queued := y.queued + 1 })
        let d := { d with fec := if turbo then { d.fec with qT := q ++ [b] } else { d.fec with qL := q ++ [b] } }
        d.bump .hq 0 0x100 1

end Sys2Proof.Machine
end

