-- ==== Sys2Proof/Machine/Fec.lean ====
section
/-! DEFINITION. The decoder farm, the delivery of transport blocks, and the slot deadline (R309, R310, R343 to R369;
11_channel_decoders.md). -/

namespace Sys2Proof.Machine

/-- Does the farm run? -/
def Dev.fecOn (d : Dev) : Bool := d.flag .fec 0 0x100 0

/-- Blocks of engine `n` (0 to 7 LDPC, 8 to 11 turbo), in order of assignment. -/
def Dev.engine (d : Dev) (n : Nat) : List Blk := d.fec.eng.toList.getD n []

/-- Replace the blocks of an engine. -/
def Dev.setEngine (d : Dev) (n : Nat) (l : List Blk) : Dev :=
  { d with fec := { d.fec with eng := d.fec.eng.setIfInBounds n l } }

/-- CODE_BLOCK_ASSIGN: the head of a queue goes to the lowest-numbered engine of its code among those that hold the fewest
blocks, when one holds fewer than three (R345). -/
def effCodeBlockAssign (turbo : Bool) (d : Dev) : Dev :=
  let es := if turbo then rangeFrom 8 4 else List.range 8
  let least := (es.map fun n => (d.engine n).length).foldl min 3
  match (if turbo then d.fec.qT else d.fec.qL), es.find? fun n => (d.engine n).length == least with
  | b :: rest, some n =>
    if !d.fecOn || 3 ≤ least then d
    else
      let d := { d with fec := { (if turbo then { d.fec with qT := rest } else { d.fec with qL := rest }) with
        asg := d.fec.asg + 1 } }
      d.setEngine n (d.engine n ++ [{ b with asg := d.fec.asg }])
  | _, _ => d

/-- Length of the read span of a block (R346). -/
def readSpan (g : List Byte) (r : Nat) : Nat :=
  let s := gSeg g
  if gNew g then
    let lap := s.lap r (gRv g) (s.ncb r (gLbrm g) (gNref g))
    let top := (lap.take (s.e r (gG g) (gNl g) (gQm g))).foldl max 0
    (top / 64 + 1) * 64
  else s.cbp (gLbrm g) (gNref g)

/-- A block is marked POISON: counted once (R347, R368). -/
def Dev.markPoison (d : Dev) : Dev := (d.bump .fec 0 0x12C 1).sticky .fec 0 0

/-- SPAN_FETCHED: the span of the earliest assigned block that has none arrives in its staging slot; a poisoned beat marks
the block (R346, R347). -/
def effSpanFetched (lk : Locked) (d : Dev) : Dev :=
  let cand := (List.range 12).flatMap fun n => (d.engine n).filterMap fun b =>
    if b.span.isNone then some (b.asg, n, b) else none
  match cand.find? fun x => cand.all fun y => decide (x.1 ≤ y.1) with
  | none => d
  | some (a, n, b) =>
    if !d.fecOn || d.memWaits then d
    else
      let len := readSpan b.entry b.cb
      let (bs, ps, _, d) := d.busRead lk .fec 0 (gSbuf b.entry + b.cb * (gSeg b.entry).cbp (gLbrm b.entry) (gNref b.entry)) len
      let d := if ps.any id then d.markPoison else d
      d.setEngine n ((d.engine n).map fun x => if x.asg == a then { x with span := some (bs, ps) } else x)

/-- DECODE_START: engine `n` starts the first of its blocks once it is staged (R352). -/
def effDecodeStart (n : Nat) (d : Dev) : Dev :=
  match d.engine n with
  | b :: rest => if d.fecOn && b.span.isSome && !b.running then d.setEngine n ({ b with running := true } :: rest) else d
  | [] => d

/-- Decode a block from its staged span (R346, R347, R349 to R354). -/
def decodeBlk (d : Dev) (b : Blk) : Decoded × Bool :=
  let g := b.entry
  let s := gSeg g
  let (bs, ps) := b.span.getD ([], [])
  let poison := ps.any id
  let arr := bs.toArray
  let llr (k : Nat) : Int :=
    if s.isFill b.cb k then 31
    else if ps.getD (k / 64) false then 0 else (readLlr6 (arr.getD k 0).toNat).1
  let w40 := leAt g 40 4
  let maxit := bits w40 7 0
  let et := bit w40 8
  let out := if s.code = 2 then turboDecode s b.cb llr maxit et (d.fld .fec 0 0x108 4 0)
    else ldpcDecode s b.cb llr bs.length maxit et (d.fld .fec 0 0x104 2 0)
  (out, poison)

/-- Write a result to the trace ring (R356, R358). -/
def Dev.trace (lk : Locked) (d : Dev) (n : Nat) (b : Blk) (st : Nat) (poison : Bool) (o : Decoded) : Dev :=
  if !d.flag .fec 0 0x100 1 then d
  else
    let turbo := decide (8 ≤ n)
    let rec' := layout 16 [(0, 4, b.slot), (4, 1, b.cell), (5, 1, b.grant), (6, 1, b.cb),
      (7, 1, st + 8 * b2n poison + 16 * b2n turbo + 32 * (if turbo then n - 8 else n)), (8, 1, o.iter), (9, 1, o.rows),
      (10, 2, o.flips), (12, 4, d.ns)]
    let wr := d.reg .fec 0 0x118
    let a := d.reg .fec 0 0x110 + 2 ^ 32 * d.fld .fec 0 0x114 7 0 + 16 * (wr % 2 ^ (d.fld .fec 0 0x100 7 4 + 8))
    (d.busStore lk .fec a rec').setReg .fec 0 0x118 ((wr + 1) % 2 ^ 32)

/-- Bits of the transport block without code-block CRCs, with its own CRC (R309). -/
def joinBlocks (s : Seg) (results : List (Nat × Nat × Bool × Nat × List Bool)) : List Bool :=
  (List.range s.c).flatMap fun r =>
    let l := ((results.find? (·.1 == r)).map fun x => x.2.2.2.2).getD []
    if 1 < s.c then l.take (l.length - 24) else l

/-- Every block of a grant has its result: check, payload and record (R309, R313, R357). -/
def Dev.deliver (d : Dev) (c s g : Nat) (gr : GrantSt) : Dev :=
  let seg := gSeg gr.bytes
  let tbs := gTbs gr.bytes
  let (w, poly) := tbCrc (decide (seg.code = 2)) tbs
  let l := (joinBlocks seg gr.results).take (tbs + w)
  if gr.results.any (·.2.2.1) then d.closeGrant c s g 7 []
  else if !crcOk w poly l then d.closeGrant c s g 1 []
  else if d.pci.buffers.isEmpty || 2 ^ d.fld .pci 0 0x1A8 4 0 < tbs / 8 then d.closeGrant c s g 8 []
  else d.closeGrant c s g 0 (packMsb (l.take tbs))

/-- CODE_BLOCK_RESULT: engine `n` fixes the result of the block it runs; `ue` says that its internal memory had an
uncorrectable error during the block (R347, R351, R354, R356, R357). -/
def effCodeBlockResult (n : Nat) (ue : Bool) (lk : Locked) (d : Dev) : Dev :=
  match d.engine n with
  | [] => d
  | b :: rest =>
    if !b.running || b.stop then d
    else
      let (o, p) := decodeBlk d b
      let poison := p || ue
      let d := d.setEngine n rest
      let d := d.bump .fec 0 0x120 1
      let d := if o.status = 2 then d.bump .fec 0 0x124 1 else if o.status = 1 then d.bump .fec 0 0x128 1 else d
      let d := if ue && !p then d.markPoison else d
      let d := d.trace lk n b o.status poison o
      let x := d.rxSlot b.cell b.slot
      match x.grants.find? (·.num == b.grant) with
      | none => d
      | some gr =>
        if gr.phase = 2 then d
        else
          let gr' := { gr with results := gr.results ++ [(b.cb, o.status, poison, o.iter, o.bits)] }
          let d := d.setRxSlot (x.modGrant b.grant fun _ => gr')
          match gr'.closing with
          | some st => if gr'.results.length = gr'.queued then d.closeGrant b.cell b.slot b.grant st [] else d
          | none => if gr'.results.length = (gSeg gr'.bytes).c then d.deliver b.cell b.slot b.grant gr' else d

/-- A withdrawn block is counted and traced, with the rows of its span and the mark that staging gave it (R348, R356). -/
def Dev.withdrawn (lk : Locked) (d : Dev) (n : Nat) (b : Blk) : Dev :=
  let s := gSeg b.entry
  let rows := if s.code = 2 then 0 else ldpcRows s.code s.zc (readSpan b.entry b.cb)
  (d.bump .fec 0 0x130 1).trace lk n b 3 (b.span.any fun x => x.2.any id) { rows := rows }

/-- The blocks of the grants `gs` of a slot leave the farm, those of one code after those of the other, each by ascending
engine and those still in the queue first (R348, R358). -/
def Dev.withdraw (lk : Locked) (d : Dev) (c s : Nat) (gs : List Nat) : Dev :=
  let mine (b : Blk) : Bool := b.cell == c && b.slot == s && gs.contains b.grant
  let fromEngines (l : List Nat) (d : Dev) : Dev := l.foldl (fun d n =>
    let staged := (d.engine n).filter fun b => mine b && !b.running
    let left := (d.engine n).filterMap fun b =>
      if !mine b then some b else if b.running then some { b with stop := true } else none
    staged.foldl (fun (d : Dev) b => Dev.withdrawn lk d n b) (d.setEngine n left)) d
  let goneL := d.fec.qL.filter mine
  let goneT := d.fec.qT.filter mine
  let d := { d with fec := { d.fec with qL := d.fec.qL.filter fun b => !mine b, qT := d.fec.qT.filter fun b => !mine b } }
  let d := fromEngines (List.range 8) (goneL.foldl (fun (d : Dev) b => Dev.withdrawn lk d 0 b) d)
  fromEngines (rangeFrom 8 4) (goneT.foldl (fun (d : Dev) b => Dev.withdrawn lk d 8 b) d)

/-- DECODE_STOP: a withdrawn block that was being decoded stops (R348). -/
def effDecodeStop (n : Nat) (lk : Locked) (d : Dev) : Dev :=
  match d.engine n with
  | b :: rest => if b.stop then Dev.withdrawn lk (d.setEngine n rest) n b else d
  | [] => d

/-- DEADLINE: the arbitration of slot `s` (by SLOTSEQ) of cell `c` (R284, R310). -/
def effDeadline (c s : Nat) (lk : Locked) (d : Dev) : Dev :=
  let s := d.absSlot (ceMu (d.activeCell false c)) s
  let e := d.cellFor false c s
  match d.rxc.slots.find? fun x => x.cell == c && x.seq == s with
  | none => d
  | some x =>
    if x.deadline || !d.gridOn || !reached d.ns (d.deadlineOf e s) then d
    else
      let open' := (x.grants.filter fun g => g.phase != 2).map (·.num)
      let d := open'.foldl (fun d g => d.closeGrant c s g 2 []) (d.withdraw lk c s open')
      let d := if open'.isEmpty then d
        else d.post .rxc 0 0x04 5 0 (layout 20 [(0, 1, c), (4, 4, s), (8, 2, open'.length)])
      let d := d.setRxSlot { d.rxSlot c s with deadline := true }
      (d.bankFree false c s).dropRxSlot c s

/-! ## Polar requests (R361 to R365) -/

/-- Padded LLR bytes of a request. -/
def polarNeed (h : List Byte) : Nat := ceilDiv (leAt h 8 2) 64 * 64

/-- Free polar engines take waiting requests, the lower-numbered engine first (R364). -/
def Dev.polarStart (d : Dev) : Dev :=
  (List.range 2).foldl (fun d n =>
    match d.fec.polRun.toList.getD n none, d.fec.polQ with
    | none, q :: rest => { d with fec := { d.fec with polQ := rest, polRun := d.fec.polRun.setIfInBounds n (some q) } }
    | _, _ => d) d

/-- Queue a request. -/
def Dev.polarQueue (d : Dev) (r : PolarReq) : Dev := Dev.polarStart { d with fec := { d.fec with polQ := d.fec.polQ ++ [r] } }

/-- A polar request that is discarded or INVALID (R361, R365). -/
def Dev.polarErr (d : Dev) : Dev := (d.bump .fec 0 0x13C 1).sticky .fec 0 1

/-- Take LLR bytes into the request of a core; the surplus past its padded length comes back. -/
def Dev.polarFill (d : Dev) (c : Nat) (r : PolarReq) (ls : List (Byte × Bool)) : List (Byte × Bool) × Dev :=
  let need := polarNeed r.hdr - r.llr.length
  let now := ls.take need
  let r := { r with llr := r.llr ++ now.map (fun x => if x.2 then 0 else x.1), poison := r.poison || now.any (·.2) }
  let put (o : Option PolarReq) : Dev := { d with fec := { d.fec with polIn := d.fec.polIn.setIfInBounds c o } }
  if polarNeed r.hdr ≤ r.llr.length then (ls.drop need, (put none).polarQueue r) else ([], put (some r))

/-- Take the bytes of one write; `header` says that the farm takes its start as a header. -/
def Dev.polarTake (c : Nat) (header : Bool) : Nat → List (Byte × Bool) → Dev → Dev
  | 0, _, d => d
  | f + 1, ls, d =>
    if ls.isEmpty then d
    else
      match d.fec.polIn.toList.getD c none, header with
      | some r, false =>
        let (rest, d) := d.polarFill c r ls
        Dev.polarTake c false f rest d
      | old, _ =>
        if ls.length < 64 then d.polarErr
        else
          let d := match old with | some r => d.polarQueue { r with cut := true } | none => d
          let h := ls.take 64
          let (rest, d) := d.polarFill c { hdr := h.map (·.1), poison := h.any (·.2) } (ls.drop 64)
          Dev.polarTake c false f rest d

/-- POLAR_REQUEST: the farm takes the next write of physical core `core`'s stream; `header` says that it takes it as a
header although the request before it is not complete (R361). -/
def effPolarRequest (core : Nat) (header : Bool) (d : Dev) : Dev :=
  match d.streams.toList.getD (16 + core) [] with
  | [] => d
  | w :: rest =>
    if !d.fecOn then d
    else
      let d := { d with streams := d.streams.setIfInBounds (16 + core) rest }
      let ls := flatStream [w]
      Dev.polarTake core header ls.length ls d

/-- Is a request INVALID (R361, R362)? -/
def polarInvalid (r : PolarReq) : Bool :=
  let h := r.hdr
  let b4 := leAt h 4 1
  let a := leAt h 6 2
  let e := leAt h 8 2
  let (c, a', crc) := polarSplit a e
  r.cut || bit b4 7 || leAt h 5 1 != 0 || bits a 15 11 != 0 || (slice h 10 6).any (· != 0) || (slice h 21 3).any (· != 0) ||
    (slice h 24 40).any (· != 0) || b4 % 16 != 1 || decide (a < 12) || decide (1706 < a) || decide (16384 < e) ||
    decide (e / c < a' + crc)

/-- Payload bytes with bit i in bit (i mod 8) of byte ⌊i / 8⌋. -/
def packLsb (l : List Bool) : List Byte :=
  (List.range (ceilDiv l.length 8)).map fun i =>
    BitVec.ofNat 8 (((List.range 8).map fun j => if l.getD (8 * i + j) false then 2 ^ j else 0).foldl (· + ·) 0)

/-- The 256-byte result of a request (R363, R365). -/
def polarResult (r : PolarReq) : List Byte :=
  let h := r.hdr
  let a := leAt h 6 2
  let e := leAt h 8 2
  let head (st seg : Nat) (m : Nat) : List Byte :=
    layout 16 [(0, 4, leAt h 0 4), (4, 1, st), (5, 1, seg), (6, 2, a), (8, 4, m), (15, 1, 0x80)]
  if polarInvalid r then slice (head 2 0 0) 0 256
  else
    let (c, a', crc) := polarSplit a e
    let b4 := leAt h 4 1
    let es := e / c
    let segs := (List.range c).map fun i =>
      let ls := (slice r.llr (i * es) es).map fun b => (readLlr6 b.toNat).1
      polarSegment ls (a' + crc) crc (bit b4 4) (2 ^ bits b4 6 5)
    let fails := (segs.zipIdx.map fun x => if x.1.2.2 then 2 ^ x.2 else 0).foldl (· + ·) 0
    let ms := (segs.zipIdx.map fun x => min x.1.2.1 0xFFFF * 65536 ^ x.2).foldl (· + ·) 0
    let payload := (segs.flatMap (·.1)).drop (c * a' - a)
    let st := if r.poison then 3 else if fails = 0 then 0 else 1
    slice (head st fails ms ++ packLsb payload) 0 256

/-- POLAR_RESULT: polar engine `n` finishes its request, writes the result with bytes 0 to 63 last, and takes the next
(R364, R365). -/
def effPolarResult (n : Nat) (lk : Locked) (d : Dev) : Dev :=
  match d.fec.polRun.toList.getD n none with
  | none => d
  | some r =>
    let res := leAt r.hdr 16 5
    let bs := polarResult r
    let d := { d with fec := { d.fec with polRun := d.fec.polRun.setIfInBounds n none } }
    let d := d.bump .fec 0 0x138 1
    let noRes := decide (res % 64 ≠ 0) || decide (d.target lk .fec res = .outside)
    let d := if polarInvalid r || noRes then d.polarErr else d
    let d := if r.poison then d.sticky .fec 0 0 else d
    let d := if noRes then d
      else (d.busStore lk .fec (res + 64) (bs.drop 64)).busStore lk .fec res (bs.take 64)
    d.polarStart

/-- Blocks that wait go to the free encoders of their code, the lower-numbered first and in the order in which they were
handed over (R359). -/
def Dev.encAssign (d : Dev) : Dev :=
  if !d.fecOn then d
  else (List.range 3).foldl (fun d n =>
    match d.fec.enc.find? (·.1 == n), d.txc.enc.find? fun b => (b.code == 2) == (n == 2) with
    | none, some b =>
      { d with fec := { d.fec with enc := d.fec.enc ++ [(n, b)] }, txc := { d.txc with enc := d.txc.enc.erase b } }
    | _, _ => d) d

/-- FEC_STATUS as it reads (R368). -/
def Dev.fecStatus (d : Dev) : Nat :=
  let eng := (List.range 12).foldl (fun m n => if (d.engine n).isEmpty then m else m + 2 ^ n) 0
  let pol := (List.range 2).foldl (fun m n => if (d.fec.polRun.toList.getD n none).isNone then m else m + 2 ^ (12 + n)) 0
  eng + pol + ((d.fec.enc.map fun x => 2 ^ (14 + x.1)).foldl (· + ·) 0)

end Sys2Proof.Machine
end

