-- ==== Sys2Proof/Machine/Txc.lean ====
section
/-! DEFINITION. The transmit chain: intake, encoding, precoding, frames, time-domain egress and the spectral mask monitor
(R320 to R342, R359, R452 to R457; 10_downlink_and_shaping.md). -/

namespace Sys2Proof.Machine

/-- Fields of a transmit cell entry (R322). -/
def txEgress (e : List Byte) : Bool := bit (leAt e 0 4) 10
/-- PGS. -/
def txPgs (e : List Byte) : Nat := bits (leAt e 0 4) 9 7
/-- OVL. -/
def txOvl (e : List Byte) : Bool := bit (leAt e 0 4) 6
/-- WBASE. -/
def txWbase (e : List Byte) : Nat := leAt e 24 5
/-- OVL_BASE. -/
def txOvlBase (e : List Byte) : Nat := leAt e 32 5
/-- TBSTAGE. -/
def txStage (e : List Byte) : Nat := leAt e 40 5
/-- TD_BASE. -/
def txTd (e : List Byte) : Nat := leAt e 56 5
/-- NFFTL. -/
def txNfftl (e : List Byte) : Nat := bits (leAt e 64 4) 3 0
/-- WLEN. -/
def txWlen (e : List Byte) : Nat := bits (leAt e 64 4) 10 4
/-- NTAP. -/
def txNtap (e : List Byte) : Nat := bits (leAt e 64 4) 17 11
/-- TD_SPF. -/
def txSpf (e : List Byte) : Nat := bits (leAt e 68 4) 11 0
/-- MON_DECIM. -/
def txDecim (e : List Byte) : Nat := bits (leAt e 68 4) 23 16
/-- MASK_N. -/
def txMaskN (e : List Byte) : Nat := bits (leAt e 68 4) 29 24

/-- Opening and close of the window of symbol `n` of slot `s` (R333). -/
def Dev.txWindow (d : Dev) (e : List Byte) (s n : Nat) : Nat × Nat :=
  let t := d.symStart (ceMu e) s n
  ((t + 2 ^ 32 - leAt e 8 4) % 2 ^ 32, (t + 2 ^ 32 - leAt e 12 4) % 2 ^ 32)

/-! ## Intake (R324 to R326) -/

/-- Is a downlink grant entry invalid by its own fields (R326)? -/
def txGrantBad (nprb : Nat) (g : List Byte) : Bool :=
  let w12 := leAt g 12 4
  let w16 := leAt g 16 4
  let w20 := leAt g 20 4
  let w28 := leAt g 28 4
  let reserved := bit (leAt g 8 4) 31 || bits w12 25 0 != 0 || bit w16 27 || bits w16 25 21 != 0 || bits w20 31 26 != 0 ||
    bits (leAt g 24 2) 15 14 != 0 || bits w28 31 29 != 0 || (slice g 42 22).any (· != 0)
  let range := !([2, 4, 6, 8] : List Nat).contains (gQm g) || gCode g == 3 || !([1, 2] : List Nat).contains (bits w28 28 27) ||
    (gLbrm g && gNref g == 0)
  reserved || range || decide (nprb < bits w20 8 0 + bits w20 17 9) || decide (14 < bits w20 21 18 + bits w20 25 22) ||
  decide (4 < bits w28 26 25 + gNl g) || gTbs g % 8 != 0 || decide (255 < (gSeg g).c)

/-- Entries of a downlink list. -/
def listEntries (l : List Byte) : List (List Byte) :=
  (List.range (min (leAt l 4 1) 64)).map fun i => slice l (64 + 64 * i) 64

/-- Bytes of the transport block of a downlink grant. -/
def tbBytes (g : List Byte) : Nat := ceilDiv (gTbs g) 8

/-- Staging offset of each grant's transport block, packed in grant order, 64-aligned (R326). -/
def stageOffsets (gs : List (List Byte)) : List Nat :=
  (gs.foldl (fun (acc : List Nat × Nat) g => (acc.1 ++ [acc.2], acc.2 + ceilDiv (tbBytes g) 64 * 64)) ([], 0)).1

/-- Does the block of a grant at staging offset `o` end inside the 2 MiB of its buffer (R326)? -/
def stageFits (g : List Byte) (o : Nat) : Bool := decide (o + tbBytes g ≤ 0x200000)

/-- The index block goes to host memory: RD of rings 0 to 2, WR of rings 3 and 4 (R548). -/
def Dev.writeIdx (d : Dev) : Dev :=
  if !d.ringsOn then d
  else
    let i (r : Nat) : Nat := d.reg .pci 0 (0x200 + 32 * r + (if r < 3 then 0x10 else 0x0C))
    d.emit (.hostWrite (d.reg .pci 0 0x1A0 + 2 ^ 32 * d.reg .pci 0 0x1A4)
      (layout 64 [(0, 4, i 0), (4, 4, i 1), (8, 4, i 2), (12, 4, i 3), (16, 4, i 4)]))

/-- Note one entry produced or consumed for the message of its ring (R557). -/
def Dev.noteEntry (d : Dev) (r : Nat) : Dev :=
  let n := d.pci.since.toList.getD r 0
  { d with pci := { d.pci with
      since := d.pci.since.setIfInBounds r (n + 1)
      firstTick := if n = 0 then d.pci.firstTick.setIfInBounds r d.tim.tick else d.pci.firstTick } }

/-- Advance RD of a host-produced ring (R547 to R549). -/
def Dev.consume (d : Dev) (r : Nat) : Dev :=
  let b := 0x200 + 32 * r + 0x10
  ((d.setReg .pci 0 b ((d.reg .pci 0 b + 1) % 2 ^ 32)).writeIdx).noteEntry r

/-- Discarded intake entries at the head of the ring are consumed without effect (R549, R550). -/
def Dev.dropBad (d : Dev) : Nat → Dev
  | 0 => d
  | n + 1 =>
    match d.pci.intake with
    | x :: l => if x.bad then Dev.dropBad ({ d with pci := { d.pci with intake := l } }.consume 1) n else d
    | [] => d

/-- The copy of a list to the staging area, charged to the remote class. Where in the area it stands the spec does not
say: the beats that it takes are free values (DESIGN CHOICE, log 113). -/
def Dev.copyList (d : Dev) (n : Nat) : Dev :=
  (List.range (ceilDiv n 64)).foldl (fun d _ =>
    let (k, d) := d.draw
    d.owe true 2 (k % 2 ^ 30)) d

/-- TB_COPY_DONE: the list and the transport blocks of the oldest intake entry have been copied: `list` is the list as
host memory held it, `blocks` the block of each grant. Every block that the list names is copied, but for what would end
beyond the staging buffer (R324, R326, R549). -/
def effTbCopyDone (list : List Byte) (blocks : List (List Byte)) (lk : Locked) (d : Dev) : Dev :=
  match d.pci.intake with
  | [] => d
  | it :: rest =>
    if d.memWaits then d else
    let c := bits (leAt it.bytes 0 1) 4 0
    let s := d.absSlot (ceMu (d.activeCell true c)) (leAt it.bytes 4 4)
    let e := d.cellFor true c s
    let gs := listEntries list
    let offs := stageOffsets gs
    let base := txStage e + s % 2 * 0x200000
    let d := { d with pci := { d.pci with intake := rest } }
    let d := d.copyList (64 + 64 * gs.length)
    let d := (gs.zip offs).zipIdx.foldl (fun d p =>
      let (g, o) := p.1
      if stageFits g o then d.busStore lk .txc (base + o) (slice (blocks.getD p.2 []) 0 (tbBytes g)) else d) d
    let x : TxSlot := { cell := c, slot := s, tick := d.tim.tick, list := list, base := base, tbs := offs }
    let d := { d with txc := { d.txc with slots := (d.txc.slots.filter fun (y : TxSlot) =>
      !(y.cell == c && y.slot == s && y.state == 0)) ++ [x] } }
    Dev.dropBad (d.consume 1) d.pci.intake.length

/-- Data and DMRS roles of an RE of a grant: 0 none, 1 data, 2 DMRS, at symbol `n` and subcarrier `k` of the grid
(R328). -/
def reKind (g : List Byte) (n k : Nat) : Nat :=
  let w20 := leAt g 20 4
  let w28 := leAt g 28 4
  let prb := k / 12
  if !(decide (bits w20 8 0 ≤ prb) && decide (prb < bits w20 8 0 + bits w20 17 9) && decide (bits w20 21 18 ≤ n) &&
    decide (n < bits w20 21 18 + bits w20 25 22)) then 0
  else if !bit (leAt g 24 2) n then 1
  else
    let used := (List.range (gNl g)).map fun l => (bits w28 26 25 + l) / 2
    if used.contains (k % 2) then 2 else if bits w28 28 27 = 1 then 1 else 0

/-- Data REs of symbol `n`, ascending. -/
def dataRes (nprb : Nat) (g : List Byte) (n : Nat) : List Nat :=
  (List.range (12 * nprb)).filter fun k => reKind g n k == 1

/-- Data REs of the symbols before `n`. -/
def resBefore (nprb : Nat) (g : List Byte) (n : Nat) : Nat :=
  ((List.range n).map fun m => (dataRes nprb g m).length).foldl (· + ·) 0

/-- G of a downlink grant (R327). -/
def txG (nprb : Nat) (g : List Byte) : Nat := gQm g * gNl g * resBefore nprb g 14

/-- Systematic bits of every code block of a transport block: CRC attachment, segmentation and filler of value 0 (R327,
R359). -/
def txBlocks (g : List Byte) (tb : List Byte) : List (List Bool) :=
  let s := gSeg g
  let (w, poly) := tbCrc (decide (s.code = 2)) (gTbs g)
  let a := (bitsMsb tb).take (gTbs g)
  let b := a ++ crcBits w poly a
  let go := (List.range s.c).foldl (fun (acc : List (List Bool) × Nat) r =>
    let fill := if s.code = 2 ∧ r = 0 then s.fill else 0
    let size := if s.code = 2 then s.k r else s.kp
    let take := size - fill - (if 1 < s.c then 24 else 0)
    let body := List.replicate fill false ++ (List.range take).map fun i => b.getD (acc.2 + i) false
    let body := if 1 < s.c then body ++ crcBits 24 crc24b body else body
    let body := body ++ List.replicate (s.k r - body.length) false
    (acc.1 ++ [body], acc.2 + take)) ([], 0)
  go.1

/-- Accept a list: checks, JOB_BF, and the blocks of its valid grants handed to the encoders (R324, R326, R327, R359, R394).
-/
def Dev.acceptTx (lk : Locked) (d : Dev) (c s : Nat) (x : TxSlot) : Dev :=
  let e := d.cellFor true c s
  let gs := listEntries x.list
  let put (x : TxSlot) (d : Dev) : Dev := { d with txc := { d.txc with slots :=
    (d.txc.slots.filter fun (y : TxSlot) => !(y.cell == c && y.slot == s)) ++ [x] } }
  let (grants, d) := gs.zipIdx.foldl (fun (acc : List TxGrant × Dev) p =>
    let off := x.tbs.getD p.2 0
    if txGrantBad (ceNprb e) p.1 || !stageFits p.1 off then
      let d := (acc.2.bump .txc 0 0x128 1).sticky .txc 0 2
      (acc.1, d.post .txc 0 0x05 5 0 (layout 20 [(0, 1, c), (4, 4, s), (8, 1, p.2), (12, 4, gTag p.1)]))
    else
      let (tb, _, d) := acc.2.busBytes lk .txc (x.base + off) (tbBytes p.1)
      let bl := (txBlocks p.1 tb).zipIdx.map fun q =>
        ({ cell := c, slot := s, grant := p.2, cb := q.2, code := gCode p.1, sys := q.1 } : EncBlk)
      (acc.1 ++ [{ num := p.2, bytes := p.1 }], { d with txc := { d.txc with enc := d.txc.enc ++ bl } })) ([], d)
  let d := (put { x with state := 1, adm := d.tim.tick, grants := grants } d).encAssign
  d.submitTemplate lk .txc 1 (leAt e 48 5) c s (d.txWindow e s 0).2

/-- The intake deadlines that fall due at this admission point, for cell `c` (R324, R510). -/
def Dev.intakeDue (lk : Locked) (c : Nat) : Nat → Dev → Dev
  | 0, d => d
  | f + 1, d =>
    match d.txc.nextIntake.find? (·.1 == c) with
    | none => d
    | some (_, s) =>
      let e := d.cellFor true c s
      let drop := d.txc.nextIntake.filter (·.1 != c)
      let due := (d.symStart (ceMu e) s 0 + 2 ^ 32 - leAt e 16 4 + d.fld .det 0 0x108 9 0) % 2 ^ 32
      if !ceEnable e then { d with txc := { d.txc with nextIntake := drop } }
      else if reached d.ns due then
        let d := { d with txc := { d.txc with nextIntake := drop ++ [(c, d.nextSlot true c s)] } }
        let d := match d.txc.slots.find? fun x => x.cell == c && x.slot == s && x.state == 0 &&
            decide (x.tick + 8 ≤ d.tim.tick) && leAt x.list 0 4 == s % 2 ^ 32 with
          | some x => d.acceptTx lk c s x
          | none =>
            let lateSlot : TxSlot := { cell := c, slot := s, state := 2, adm := d.tim.tick }
            let d := { d with txc := { d.txc with slots :=
              (d.txc.slots.filter fun (y : TxSlot) => !(y.cell == c && y.slot == s)) ++ [lateSlot] } }
            ((d.bump .txc 0 0x124 1).sticky .txc 0 1).post .txc 0 0x05 4 0 (layout 20 [(0, 1, c), (4, 4, s)])
        Dev.intakeDue lk c f d
      else d

/-- The transmit chain at an admission point. -/
def Dev.txcAdmit (lk : Locked) (d : Dev) : Dev :=
  if !d.flag .txc 0 0x100 0 then d else (List.range 32).foldl (fun d c => Dev.intakeDue lk c 64 d) d

/-! ## Encoding (R327, R359) -/

/-- ENCODE: the encoders of a code finish the earliest of the blocks that they hold, which is then rate-matched (R359). -/
def effEncode (turbo : Bool) (d : Dev) : Dev :=
  match d.fec.enc.find? fun x => (x.2.code == 2) == turbo with
  | none => d
  | some (n, b) =>
    if !d.fecOn then d
    else
      let nprb := ceNprb (d.cellFor true b.cell b.slot)
      let code (g : TxGrant) : TxGrant :=
        let s := gSeg g.bytes
        let gg := txG nprb g.bytes
        let e := s.e b.cb gg (gNl g.bytes) (gQm g.bytes)
        let cw := if turbo then turboEncode (s.k b.cb) b.sys else ldpcEncode b.code s.zc b.sys
        let cwA := cw.toArray
        let lap := (s.lap b.cb (gRv g.bytes) (s.ncb b.cb (gLbrm g.bytes) (gNref g.bytes))).toArray
        let out := (List.range e).map fun t =>
          if lap.size = 0 then false else cwA.getD (lap.getD (deinter s.code e (gQm g.bytes) t % lap.size) 0) false
        { g with coded := g.coded ++ [(b.cb, out)] }
      let slots := d.txc.slots.map fun x => if x.cell == b.cell && x.slot == b.slot then
        { x with grants := x.grants.map fun g => if g.num == b.grant then code g else g } else x
      let fec := { d.fec with enc := d.fec.enc.filter (·.1 != n) }
      Dev.encAssign ({ d with fec := fec, txc := { d.txc with slots := slots } }.bump .fec 0 0x134 1)

/-! ## Precoding (R329 to R332) -/

/-- Integer amplitude of one component from its bits, and the QAM norm (TS 38.211 clause 5.1). -/
def qamAmp (bs : List Bool) : Int :=
  let s (b : Bool) : Int := if b then -1 else 1
  match bs with
  | [] => 0
  | [a] => s a
  | [a, b] => s a * (2 - s b)
  | [a, b, c] => s a * (4 - s b * (2 - s c))
  | a :: b :: c :: e :: _ => s a * (8 - s b * (4 - s c * (2 - s e)))

/-- Norm under the root of a modulation order. -/
def qamNorm (qm : Nat) : Nat := match qm with | 2 => 2 | 4 => 10 | 6 => 42 | _ => 170

/-- Constellation point of a symbol's bits: even bits give I, odd bits Q. -/
def qamPoint (bs : List Bool) : Int × Int :=
  let ev := (bs.zipIdx.filter fun x => x.2 % 2 == 0).map (·.1)
  let od := (bs.zipIdx.filter fun x => x.2 % 2 == 1).map (·.1)
  (qamAmp ev, qamAmp od)

/-- DMRS value of a port at subcarrier `k`, in units of 1/√2 (TS 38.211 clause 7.4.1.1). -/
def dmrsPoint (g : List Byte) (slotInFrame n p k : Nat) : Int × Int :=
  if k % 2 ≠ p / 2 then (0, 0)
  else
    let nid := leAt g 26 2
    let nscid := b2n (bit (leAt g 28 4) 24)
    let cinit := (2 ^ 17 * (14 * slotInFrame + n + 1) * (2 * nid + 1) + 2 * nid + nscid) % 2 ^ 31
    let m := k / 2
    let bs := gold cinit (2 * m) 2
    let sg (b : Bool) : Int := if b then -1 else 1
    let f : Int := if p % 2 = 1 && m % 2 = 1 then -1 else 1
    (f * sg (bs.getD 0 false), f * sg (bs.getD 1 false))

/-- All scrambled bits of a grant (R327). -/
def TxGrant.bits (g : TxGrant) : List Bool :=
  let l := (List.range (gSeg g.bytes).c).flatMap fun r => ((g.coded.find? (·.1 == r)).map (·.2)).getD []
  List.zipWith (· != ·) l (gold (Machine.bits (leAt g.bytes 8 4) 30 0) 0 l.length)

/-- Value of each layer of a grant at an RE, with the norm it stands over. -/
def TxGrant.layers (g : TxGrant) (nprb slotInFrame n k : Nat) (bs : Array Bool) (before : Nat) (res : List Nat) :
    Nat × List (Int × Int) :=
  let gb := g.bytes
  let nl := gNl gb
  let qm := gQm gb
  let _ := nprb
  match reKind gb n k with
  | 1 =>
    let i := before + (res.findIdx? (· == k)).getD 0
    (qamNorm qm, (List.range nl).map fun l =>
      qamPoint ((List.range qm).map fun b => bs.getD (((i * nl) + l) * qm + b) false))
  | 2 => (2, (List.range nl).map fun l => dmrsPoint gb slotInFrame n (Machine.bits (leAt gb 28 4) 26 25 + l) k)
  | _ => (2, [])

/-- S / (2¹⁴ √n) summed over the norms and rounded once to CS16 (R330): the code and whether it saturated. -/
def precodeRound (sums : List (Nat × Int)) : Int × Bool :=
  let v := sums.foldl (fun acc x =>
    if x.2 = 0 then acc
    else acc.add (((Ex.ofInt x.2).mul (rsqReal (Ex.ofInt x.1))).scale (-14))) (Ex.ofInt 0)
  satS 16 v.roundInt

/-- Precoded grid row `a` of symbol `n`: CS16 codes and saturations. `w` reads a weight code pair of a grant, group, row
and layer. -/
def precodeRow (nprb pgs slotInFrame n a : Nat) (gs : List TxGrant)
    (w : TxGrant → Nat → Nat → Nat → Int × Int) : List ((Int × Int) × Nat) :=
  let _ := a
  let prep := gs.map fun g => (g, g.bits.toArray, resBefore nprb g.bytes n, dataRes nprb g.bytes n)
  (List.range (12 * nprb)).map fun k =>
    let terms := prep.flatMap fun p =>
      let (g, bs, before, res) := p
      let (nm, ls) := g.layers nprb slotInFrame n k bs before res
      let grp := (k / 12 - Machine.bits (leAt g.bytes 20 4) 8 0) / 2 ^ pgs
      let pow : Int := leAt g.bytes 40 2
      ls.zipIdx.map fun x =>
        let (wi, wq) := w g grp a x.2
        let (di, dq) := x.1
        (nm, pow * (wi * di - wq * dq), pow * (wi * dq + wq * di))
    let norms := [2, 10, 42, 170]
    let sumI := norms.map fun m => (m, ((terms.filter (·.1 == m)).map fun t => t.2.1).foldl (· + ·) 0)
    let sumQ := norms.map fun m => (m, ((terms.filter (·.1 == m)).map fun t => t.2.2).foldl (· + ·) 0)
    let (i, si) := precodeRound sumI
    let (q, sq) := precodeRound sumQ
    ((i, q), b2n si + b2n sq)

/-- CS16 bytes of a sample (R38). -/
def cs16 (x : Int × Int) : List Byte := leBytes 2 (ofS 16 x.1) ++ leBytes 2 (ofS 16 x.2)

/-! ## Time-domain egress (R336, R337) -/

/-- Twiddle code of an angle of `j / m` turns: round(2¹⁵ cos), round(2¹⁵ sin), +1.0 held as 32,767. -/
def twiddle (j m : Nat) : Int × Int :=
  let x : Ex := { Ex.ofInt (if 2 * j ≤ m then (j : Int) else (j : Int) - m) with den := m }
  let (c, s) := cisReal x
  let r (v : Ex) : Int := clampI (-32768) 32767 (v.scale 15).roundInt
  (r c, r s)

/-- Round x / 2^sh with ties away from zero and saturate to `w` bits. -/
def shRound (w : Nat) (x : Int) (sh : Nat) : Int × Bool := satS w (divPow2Round x sh)

/-- One decimation-in-frequency stage over values in units of 2⁻⁴ of a code; the last gives codes. -/
def ifftStage (nf st : Nat) (x : Array (Int × Int)) : Array (Int × Int) × Nat :=
  let m := 2 ^ (nf - st)
  let h := m / 2
  let tw := ((List.range h).map fun j => twiddle j m).toArray
  let half := if st % 2 = 0 then 1 else 0
  let last := st + 1 = nf
  let rnd (v : Int) : Int × Bool := if last then shRound 16 v (15 + half + 4) else shRound 24 v (15 + half)
  let outs := (List.range (2 ^ nf)).map fun i =>
    let j := i % m
    let (ar, ai) := x.getD (i - j + j % h) (0, 0)
    let (br, bi) := x.getD (i - j + j % h + h) (0, 0)
    let (yr, yi) : Int × Int :=
      if j < h then ((ar + br) * 32768, (ai + bi) * 32768)
      else
        let (c, s) := tw.getD (j - h) (0, 0)
        ((ar - br) * c - (ai - bi) * s, (ar - br) * s + (ai - bi) * c)
    let (r1, s1) := rnd yr
    let (r2, s2) := rnd yi
    ((r1, r2), b2n s1 + b2n s2)
  ((outs.map (·.1)).toArray, (outs.map (·.2)).foldl (· + ·) 0)

/-- Index with its low `n` bits reversed. -/
def bitRev : Nat → Nat → Nat
  | 0, _ => 0
  | n + 1, i => (i % 2) * 2 ^ n + bitRev n (i / 2)

/-- The inverse transform of a grid row of 12 · NPRB codes: samples in natural order and saturations. -/
def ifft (nf nprb : Nat) (row : List (Int × Int)) : List (Int × Int) × Nat :=
  let n := 2 ^ nf
  let rowA := row.toArray
  let bins := (List.range n).map fun b =>
    let k := (b + 6 * nprb) % n
    if k < 12 * nprb then (let x := rowA.getD k (0, 0); (x.1 * 16, x.2 * 16)) else (0, 0)
  let (y, sat) := (List.range nf).foldl (fun (acc : Array (Int × Int) × Nat) st =>
    let (z, s) := ifftStage nf st acc.1
    (z, acc.2 + s)) (bins.toArray, 0)
  ((List.range n).map fun i => y.getD (bitRev nf i) (0, 0), sat)

/-- Samples of the cyclic prefix of symbol `l` of a subframe (R336). -/
def cpLen (n mu l : Nat) : Nat := 9 * n / 128 + (if l = 0 ∨ l = 7 * 2 ^ mu then n * 2 ^ mu / 128 else 0)

/-- w[i] = sin²(π (i + ½) / (2 WLEN)) = (1 − cos(2π (i + ½) / (2 WLEN))) / 2. -/
def winCoef (wl i : Nat) : Ex :=
  let (c, _) := cisReal { Ex.ofInt (2 * i + 1) with den := 4 * wl }
  ((Ex.ofInt 1).add c.negate).scale (-1)

/-- Windowing of a symbol with its prefix, given the first samples of the body before it. -/
def windowed (wl : Nat) (head x : List (Int × Int)) : List (Int × Int) × Nat :=
  let outs := x.zipIdx.map fun p =>
    if p.2 < wl then
      let w := winCoef wl p.2
      let w' := (Ex.ofInt 1).add w.negate
      let h := head.getD p.2 (0, 0)
      let (a, sa) := satS 16 (((Ex.ofInt p.1.1).mul w).add ((Ex.ofInt h.1).mul w')).roundInt
      let (b, sb) := satS 16 (((Ex.ofInt p.1.2).mul w).add ((Ex.ofInt h.2).mul w')).roundInt
      ((a, b), b2n sa + b2n sb)
    else (p.1, 0)
  (outs.map (·.1), (outs.map (·.2)).foldl (· + ·) 0)

/-- The shaping FIR over samples preceded by `hist` (R336). -/
def firOut (h : List Int) (hist x : List (Int × Int)) : List (Int × Int) × Nat :=
  if h.isEmpty then (x, 0)
  else
    let all := (hist ++ x).toArray
    let off := hist.length
    let outs := (List.range x.length).map fun n =>
      let acc := h.zipIdx.foldl (fun (a : Int × Int) t =>
        let v := if t.2 ≤ n + off then all.getD (n + off - t.2) (0, 0) else (0, 0)
        (a.1 + t.1 * v.1, a.2 + t.1 * v.2)) (0, 0)
      let (i, si) := shRound 16 acc.1 15
      let (q, sq) := shRound 16 acc.2 15
      ((i, q), b2n si + b2n sq)
    (outs.map (·.1), (outs.map (·.2)).foldl (· + ·) 0)

/-- Time-domain samples of a precoded symbol, the history after it, and saturations (R336, R337). -/
def timeDomain (e : List Byte) (slot n : Nat) (taps : List Int) (old : Option TdHist) (c a : Nat)
    (row : List (Int × Int)) : List (Int × Int) × TdHist × Nat :=
  let nf := txNfftl e
  let mu := ceMu e
  let idx := 14 * slot + n
  let (body, s0) := ifft nf (ceNprb e) row
  let cp := cpLen (2 ^ nf) mu (slot % 2 ^ mu * 14 + n)
  let x := body.drop (2 ^ nf - cp) ++ body
  let (head, hist) : List (Int × Int) × List (Int × Int) := match old with
    | some h => if h.last + 1 = idx then (h.head, h.fir) else ([], [])
    | none => ([], [])
  let (w, s1) := windowed (txWlen e) head x
  let (y, s2) := firOut taps hist w
  (y, { cell := c, row := a, last := idx, head := body.take (txWlen e), fir := w.drop (w.length - 63) }, s0 + s1 + s2)

/-! ## Frames (R334, R335, R337, R453, R454, R457) -/

/-- Octets of the port's address (R471). -/
def Dev.macOf (d : Dev) (p : Nat) : List Byte :=
  beBytes 2 (d.fld .eth p 0x10C 15 0) ++ beBytes 4 (d.reg .eth p 0x108)

/-- An Ethernet frame of a payload to destination entry `t` of R457, padded, with its FCS. -/
def Dev.ethFrame (d : Dev) (t port typ : Nat) (payload : List Byte) : List Byte :=
  let b := 0x400 + 16 * t
  let w1 := d.reg .eth 0 (b + 4)
  let hdr := beBytes 2 (w1 % 65536) ++ beBytes 4 (d.reg .eth 0 b) ++ d.macOf port ++
    (if d.flag .eth 0 (b + 8) 0 then beBytes 2 0x8100 ++ beBytes 2 (w1 / 65536) else []) ++ beBytes 2 typ ++ payload
  let f := hdr ++ List.replicate (60 - hdr.length) 0
  f ++ leBytes 4 (crc32 f)

/-- An eCPRI message of type `typ` for an eAxC ID (R454). -/
def ecpri (typ pcid seq : Nat) (body : List Byte) : List Byte :=
  [0x10] ++ leBytes 1 typ ++ beBytes 2 (body.length + 4) ++ beBytes 2 pcid ++ leBytes 1 seq ++ [0x80] ++ body

/-- Take the next sequence ID of a stream and kind (R454). -/
def Dev.nextSeq (d : Dev) (kind st : Nat) : Nat × Dev :=
  let mine (x : Nat × Nat × Nat) : Bool := x.1 == kind && x.2.1 == st
  let v := ((d.txc.seqIds.find? mine).map fun x => x.2.2).getD 0
  (v, { d with txc := { d.txc with seqIds := (d.txc.seqIds.filter fun x => !mine x) ++ [(kind, st, (v + 1) % 256)] } })

/-- O-RAN application header: direction, version and filter byte, frameId, then subframe, slot and symbol (R454). -/
def oranApp (first f sf sl sy : Nat) : List Byte := leBytes 1 first ++ leBytes 1 f ++ beBytes 2 (sf * 4096 + sl * 64 + sy)

/-- U-plane sections of a symbol: start, count and blocks, as many PRBs as fit in 8,000 bytes (R334). -/
def uSections (nprb m : Nat) (row : List Byte) : List (Nat × Nat × List Byte) :=
  let per := 8000 / bfpBytes m
  (List.range (ceilDiv nprb per)).map fun i =>
    let start := i * per
    let cnt := min per (nprb - start)
    (start, cnt, (List.range cnt).flatMap fun r =>
      bfpCompress m ((List.range 24).map fun j => toS 16 (leAt row ((start + r) * 48 + 2 * j) 2)))

/-- Frames of a precoded symbol, put before their ports for every enabled stream of its row, with the first tick at which
they may begin and the close of their window (R333, R334, R337). -/
def Dev.queueSym (d : Dev) (y : TxSym) : Dev :=
  let e := d.cellFor true y.cell y.slot
  let close := (d.txWindow e y.slot y.sym).2
  ((d.streamsOf true y.cell y.slot).filter fun p => seRow p.2 == y.row).foldl (fun d p =>
    let (st, se) := p
    let port := sePort se
    let nprb := ceNprb e
    let put (d : Dev) (ready : Nat) (payload : List Byte) : Dev :=
      let fr : TxFrame :=
        { port := port, prec := 1, cell := y.cell, slot := y.slot, sym := y.sym, row := y.row, ready := ready
          close := some close, bytes := d.ethFrame y.cell port 0xAEFE payload }
      { d with txc := { d.txc with frames := d.txc.frames ++ [fr] } }
    if txEgress e then
      let spf := max 1 (txSpf e)
      let mu := ceMu e
      let before := ((List.range y.sym).map fun l =>
        cpLen (2 ^ txNfftl e) mu (y.slot % 2 ^ mu * 14 + l) + 2 ^ txNfftl e).foldl (· + ·) 0
      (List.range (ceilDiv y.samples.length spf)).foldl (fun d i =>
        let (q, d) := d.nextSeq 0 st
        put d y.tick (ecpri 0 (seEaxc se) q (leBytes 4 (before + i * spf) ++
          ((y.samples.drop (i * spf)).take spf).flatMap cs16))) d
    else
      let m := seM se
      let (f, sf, sl) := d.oranIds (ceMu e) y.slot
      (uSections nprb m y.grid).foldl (fun d x =>
        let (start, cnt, blocks) := x
        let (q, d) := d.nextSeq 0 st
        let num := if cnt = nprb ∧ 255 < nprb then 0 else cnt
        let body := oranApp 0x90 f sf sl y.sym ++ beBytes 4 (start * 256 + num) ++
          (if seHdr se then [BitVec.ofNat 8 (m % 16 * 16 + 1), 0] else []) ++ blocks
        put d d.tim.tick (ecpri 0 (seEaxc se) q body)) d) d

/-- Can the chain precode symbol `n` of row `a` of the settled slot `x`: the status words name the slot, its grants are
encoded, its window is not closed, and what it builds on is done or given up (R329 to R332, R336)? -/
def Dev.symReady (lk : Locked) (d : Dev) (x : TxSlot) (n a : Nat) : Bool :=
    let c := x.cell
    let s := x.slot
    let e := d.cellFor true c s
    let b := s % 2
    let streamHere := (d.streamsOf true c s).any fun p => seRow p.2 == a
    let word (o : Nat) : Nat := leNat (d.busBytes lk .txc (txWbase e + o + 4 * b) 4).1
    let named := (x.state == 2 || word 0 == s % 2 ^ 32) && (!txOvl e || word 8 == s % 2 ^ 32)
    let isClosed (m : Nat) : Bool := d.txc.closed.contains (c, s, m) || reached d.ns (d.txWindow e s m).2
    let haveIn (t m : Nat) : Bool := d.txc.syms.any fun y => y.cell == c && y.slot == t && y.sym == m && y.row == a
    let have' (m : Nat) : Bool := haveIn s m
    let waits := txEgress e && n == 0 && (d.txc.slots.any fun (y : TxSlot) => y.cell == c && y.slot + 1 == s && y.state != 0) &&
      !haveIn (s - 1) 13 && !d.txc.closed.contains (c, s - 1, 13)
    let coded := x.grants.all fun g => g.coded.length == (gSeg g.bytes).c
    !(!d.flag .txc 0 0x100 0 || !streamHere || !ceEnable e || decide (14 ≤ n) || !named || !coded || isClosed n || have' n ||
      waits || (decide (0 < n) && !have' (n - 1) && !isClosed (n - 1)))

/-- Has the chain work that comes before that of slot `x`: a symbol that can be precoded, of a slot of another cell that an
earlier admission point settled, or the same point with a lower cell number (R22)? -/
def Dev.precodeBefore (lk : Locked) (d : Dev) (x : TxSlot) : Bool :=
  d.txc.slots.any fun y => y.state != 0 && y.cell != x.cell &&
    (decide (y.adm < x.adm) || (y.adm == x.adm && decide (y.cell < x.cell))) &&
    (d.streamsOf true y.cell y.slot).any fun p => (List.range 14).any fun n => d.symReady lk y n (seRow p.2)

/-- SYMBOL_PRECODED: symbol `n` of slot `s` (by SLOTSEQ) of stream row `a` of cell `c` (R22, R329 to R332, R336). -/
def effSymbolPrecoded (c s n a : Nat) (lk : Locked) (d : Dev) : Dev :=
  let s := d.absSlot (ceMu (d.activeCell true c)) s
  let e := d.cellFor true c s
  let b := s % 2
  match d.txc.slots.find? fun x => x.cell == c && x.slot == s && x.state != 0 with
  | none => d
  | some x =>
    if !d.symReady lk x n a || d.precodeBefore lk x then d
    else
      let (_, _, d) := d.busBytes lk .txc (txWbase e + 4 * b) 4
      let (_, _, d) := d.busBytes lk .txc (txWbase e + 8 + 4 * b) 4
      let nprb := ceNprb e
      let nst := ceNstream e
      let inFrame := s % (10 * 2 ^ ceMu e)
      let wset (g : TxGrant) : Nat := txWbase e + 64 + b * 0x100000 + leAt g.bytes 6 2 * 64
      let cover := x.grants.filter fun g => (List.range (12 * nprb)).any fun k => reKind g.bytes n k != 0
      let (ws, d) := cover.foldl (fun (acc : List (Nat × List Byte) × Dev) g =>
        let groups := ceilDiv (bits (leAt g.bytes 20 4) 17 9) (2 ^ txPgs e)
        let (bs, _, d) := acc.2.busBytes lk .txc (wset g) (groups * nst * gNl g.bytes * 4)
        (acc.1 ++ [(g.num, bs)], d)) ([], d)
      let w (g : TxGrant) (grp row l : Nat) : Int × Int :=
        let bs := ((ws.find? (·.1 == g.num)).map (·.2)).getD []
        let o := ((grp * nst + row) * gNl g.bytes + l) * 4
        (toS 16 (leAt bs o 2), toS 16 (leAt bs (o + 2) 2))
      let vals := precodeRow nprb (txPgs e) inFrame n a cover w
      let grid := (vals.map (·.1)).flatMap cs16
      let sat := (vals.map (·.2)).foldl (· + ·) 0
      let (grid, d) : List Byte × Dev :=
        if !txOvl e then (grid, d)
        else
          let rp := rowP nprb
          let at' := txOvlBase e + b * (14 * nst * rp) + n * (nst * rp) + a * rp
          let (ov, _, d) := d.busBytes lk .txc at' (48 * nprb)
          ((List.range (12 * nprb)).flatMap fun k =>
            let o := slice ov (4 * k) 4
            if leNat o = 0x80008000 then slice grid (4 * k) 4 else o, d)
      let y : TxSym := { cell := c, slot := s, sym := n, row := a, grid := grid, tick := d.tim.tick }
      let (y, sat2, d) : TxSym × Nat × Dev :=
        if !txEgress e then (y, 0, d)
        else
          let (tb, _, d) := d.busBytes lk .txc (txTd e) 128
          let taps := (List.range (txNtap e)).map fun i => toS 16 (leAt tb (2 * i) 2)
          let old := d.txc.td.find? fun h => h.cell == c && h.row == a
          let codes := (List.range (12 * nprb)).map fun k => (toS 16 (leAt grid (4 * k) 2), toS 16 (leAt grid (4 * k + 2) 2))
          let (smp, h, st) := timeDomain e s n taps old c a codes
          let inTime := !laterThan ((d.ns + 6000) % 2 ^ 32) (d.txWindow e s n).2
          let d := { d with txc := { d.txc with
            td := (d.txc.td.filter fun h => !(h.cell == c && h.row == a)) ++ (if inTime then [h] else []) } }
          ({ y with samples := smp, tick := d.tim.tick + 4688 }, st, d)
      let d := d.num .txc 0 { sat := sat + sat2 }
      let d := { d with txc := { d.txc with syms := d.txc.syms ++ [y] } }
      if d.txc.opened.contains (c, s, n) then d.queueSym y else d

/-- Has the window of symbol `n` of slot `s` of cell `c` closed? The closes of two slots are kept. -/
def Dev.txClosed (d : Dev) (c s n : Nat) : Bool :=
  d.txc.closed.any fun x => x.1 == c && (decide (s + 1 < x.2.1) || (x.2.1 == s && x.2.2 == n))

/-- TX_WINDOW_OPEN of symbol `n` of slot `s` of cell `c`: its complete streams go to their ports, in ascending row (R333).
-/
def effTxWindowOpen (c s n : Nat) (d : Dev) : Dev :=
  let s := d.absSlot (ceMu (d.activeCell true c)) s
  let e := d.cellFor true c s
  if !d.gridOn || !d.flag .txc 0 0x100 0 || !ceEnable e || 14 ≤ n || !reached d.ns (d.txWindow e s n).1 ||
    d.txc.opened.contains (c, s, n) || d.txClosed c s n then d
  else
    let d := { d with txc := { d.txc with opened := d.txc.opened ++ [(c, s, n)] } }
    let ys := sortBy (fun (a b : TxSym) => decide (a.row ≤ b.row))
      (d.txc.syms.filter fun y => y.cell == c && y.slot == s && y.sym == n)
    ys.foldl (fun d y => d.queueSym y) d

/-- TX_WINDOW_CLOSE: incomplete streams are not sent and unbegun frames are dropped (R21, R333, R337). -/
def effTxWindowClose (c s n : Nat) (d : Dev) : Dev :=
  let s := d.absSlot (ceMu (d.activeCell true c)) s
  let e := d.cellFor true c s
  if !d.gridOn || !d.flag .txc 0 0x100 0 || !ceEnable e || 14 ≤ n || !reached d.ns (d.txWindow e s n).2 ||
    d.txClosed c s n then d
  else
    let rows := (d.streamsOf true c s).map fun p => seRow p.2
    let ok (a : Nat) : Bool := d.txc.syms.any fun y =>
      y.cell == c && y.slot == s && y.sym == n && y.row == a && decide (y.tick ≤ d.tim.tick)
    let late := rows.filter fun a => !ok a
    let mine (f : TxFrame) : Bool := f.prec == 1 && f.cell == c && f.slot == s && f.sym == n
    let dropped := (d.txc.frames.filter fun f => mine f && !late.contains f.row).length
    let lateTd (h : TdHist) : Bool := h.cell == c && h.last == 14 * s + n && late.contains h.row
    let d := { d with txc := { d.txc with
      frames := d.txc.frames.filter fun f => !mine f
      opened := d.txc.opened.filter (· != (c, s, n))
      closed := (d.txc.closed.filter fun (x : Nat × Nat × Nat) => !(x.1 == c && decide (x.2.1 + 1 < s))) ++ [(c, s, n)]
      td := d.txc.td.filter fun h => !lateTd h
      syms := d.txc.syms.filter fun (y : TxSym) => !(y.cell == c && decide (y.slot + 1 < s))
      slots := d.txc.slots.filter fun (y : TxSlot) => !(y.cell == c && decide (y.slot + 1 < s))
      markers := if n = 13 && txOvl e then d.txc.markers ++ [(c, s)] else d.txc.markers } }
    let d := d.bump .txc 0 0x13C (rows.length - late.length)
    let d := if n = 13 then d.bankFree true c s else d
    if late.isEmpty && dropped = 0 then d
    else
      let d := ((d.bump .txc 0 0x12C late.length).bump .txc 0 0x130 dropped).sticky .txc 0 3
      d.post .txc 0 0x05 6 0 (layout 20 [(0, 1, c), (4, 4, s), (8, 1, n), (10, 2, late.length), (12, 4, dropped)])

/-- CPLANE_SEND: the C-plane message of every enabled stream of a cell for slot `s`, at its send time; `up` for the receive
cell of that number (R335, R454, R456). -/
def effCplaneSend (c : Nat) (up : Bool) (s : Nat) (lk : Locked) (d : Dev) : Dev :=
  let tx := !up
  let s := d.absSlot (ceMu (d.activeCell tx c)) s
  let e := d.cellFor tx c s
  let te := if up then d.activeCell true c else e
  let adv := if up then leAt te 20 4 else leAt e 4 4
  let mu := ceMu e
  let due := (d.symStart mu s 0 + 2 ^ 32 - adv) % 2 ^ 32
  let past := d.txc.cplane.any fun x => x.1 == c && x.2.1 == up && decide (s ≤ x.2.2)
  if !d.gridOn || !d.flag .txc 0 0x100 0 || !ceEnable e || (!up && txEgress e) || !reached d.ns due || past then d
  else
    let d := { d with txc := { d.txc with cplane :=
      (d.txc.cplane.filter fun (x : Nat × Bool × Nat) => !(x.1 == c && x.2.1 == up)) ++ [(c, up, s)] } }
    let (f, sf, sl) := d.oranIds mu s
    let nprb := ceNprb e
    let num := if 255 < nprb then 0 else nprb
    (d.streamsOf tx c s).foldl (fun d p =>
      let (st, se) := p
      let (q, d) := d.nextSeq (if up then 2 else 1) st
      let comp := BitVec.ofNat 8 (seM se % 16 * 16 + 1)
      let (body, d) : List Byte × Dev :=
        if up && seKind se = 1 then
          let (t, _, d) := d.busBytes lk .txc (txTd te + 0x800) 256
          let m := slice t 4 (min (leAt t 0 4) 252)
          (oranApp (0x10 + leAt m 0 1 % 16) f sf sl 0 ++ m.drop 4, d)
        else
          (oranApp (if up then 0x10 else 0x90) f sf sl 0 ++ [1, 1, comp, 0] ++ beBytes 4 num ++ beBytes 2 (0xFFF * 16 + 14) ++
            beBytes 2 0, d)
      let t := if up then 32 + c else c
      let port := if up then bits (d.reg .eth 0 (0x408 + 16 * t)) 3 1 else sePort se
      let fr : TxFrame :=
        { port := port, prec := 0, cell := c, slot := s, sym := 0, row := 0, ready := d.tim.tick
          bytes := d.ethFrame t port 0xAEFE (ecpri 2 (seEaxc se) q body) }
      { d with txc := { d.txc with frames := d.txc.frames ++ [fr] } }) d

/-- OVERLAY_MARKER: after the last symbol of a slot of cell `c` has left, its overlay buffer is refilled (R331). -/
def effOverlayMarker (c : Nat) (lk : Locked) (d : Dev) : Dev :=
  match d.txc.markers.find? (·.1 == c) with
  | none => d
  | some (_, s) =>
    let e := d.cellFor true c s
    let rp := rowP (ceNprb e)
    let rows := 14 * ceNstream e
    let base := txOvlBase e + s % 2 * (rows * rp)
    let d := { d with txc := { d.txc with markers := d.txc.markers.filter (· != (c, s)) } }
    (List.range rows).foldl (fun d i => d.busStore lk .txc (base + i * rp)
      ((List.range (12 * ceNprb e)).flatMap fun _ => leBytes 4 0x80008000)) d

/-! ## The spectral mask monitor (R339, R340) -/

/-- |Y[k]|² of the discrete Fourier transform of samples at bin `k`. -/
def binPower (x : List (Int × Int)) (k : Int) : Ex :=
  let n := x.length
  let (re, im) := x.zipIdx.foldl (fun (acc : Ex × Ex) p =>
    let a := (-(k * p.2)) % (n : Int)
    let a' := if 2 * a ≤ n then a else a - n
    let (c, s) := cisReal { Ex.ofInt a' with den := n }
    let i := Ex.ofInt p.1.1
    let q := Ex.ofInt p.1.2
    (acc.1.add ((i.mul c).add (q.mul s).negate), acc.2.add ((i.mul s).add (q.mul c)))) (Ex.ofInt 0, Ex.ofInt 0)
  (re.mul re).add (im.mul im)

/-- 10 log₁₀ x in units of 1/256 dB. -/
def db256 (x : Ex) : Ex := ((Ex.ofInt 2560).mul (log2Real x)).div (log2Real (Ex.ofInt 10))

/-- Smallest margin of the segments, with its segment: LIMIT − 10 log₁₀ (max P / Pref), saturated to S16 (R339). -/
def maskMargins (x : List (Int × Int)) (pref : Ex) (segs : List (Int × Int × Int)) : List Int :=
  segs.map fun s =>
    let ks : List Int := (List.range (s.2.1 - s.1 + 1).toNat).map fun i : Nat => s.1 + (i : Int)
    let mx := (ks.map (binPower x)).foldl (fun a b => if a.lt b then b else a) (Ex.ofInt 0)
    if mx.num = 0 then 32767
    else (satS 16 ((Ex.ofInt s.2.2).add (db256 (mx.div pref)).negate).roundInt).1

/-- MASK_CHECK of symbol `n` of slot `s` (by SLOTSEQ) of row `a` of cell `c` (R339, R340). -/
def effMaskCheck (c s n a : Nat) (lk : Locked) (d : Dev) : Dev :=
  let s := d.absSlot (ceMu (d.activeCell true c)) s
  let e := d.cellFor true c s
  let start := ((d.txc.started.find? (·.1 == c)).map (·.2)).getD 0
  match d.txc.syms.find? fun y => y.cell == c && y.slot == s && y.sym == n && y.row == a with
  | none => d
  | some y =>
    let dec := txDecim e
    if !txEgress e || dec = 0 || (14 * (s - start) + n) % dec ≠ 0 then d
    else
      let recent := d.txc.monTicks.filter fun t => !d.elapsed t 35677
      if 8 ≤ recent.length then { d with txc := { d.txc with monTicks := recent } }.bump .txc 0 0x138 1
      else
        let d := { d with txc := { d.txc with monTicks := recent ++ [d.tim.tick] } }
        let nn := 2 ^ txNfftl e
        let x := y.samples.drop (y.samples.length - nn)
        let nprb := ceNprb e
        let occ := (List.range (12 * nprb)).map fun i : Nat => (i : Int) - 6 * nprb
        let pref := (((occ.map (binPower x)).foldl Ex.add (Ex.ofInt 0)).div (Ex.ofInt (12 * nprb)))
        if pref.num = 0 then d
        else
          let (mb, _, d) := d.busBytes lk .txc (txTd e + 0x400) 256
          let segs := (List.range (txMaskN e)).map fun j =>
            (toS 16 (leAt mb (8 * j) 2), toS 16 (leAt mb (8 * j + 2) 2), toS 16 (leAt mb (8 * j + 4) 2))
          let ms := maskMargins x pref segs
          let best := (ms.zipIdx.foldl (fun (b : Int × Nat) p => if p.1 < b.1 then p else b) (ms.headD 32767, 0))
          let viol := decide (best.1 < 0)
          let full := (Ex.ofInt (nn * 32768)).mul (Ex.ofInt (nn * 32768))
          let pr := (satS 16 (db256 (pref.div full)).roundInt).1
          let rep := layout 16 [(0, 4, s), (4, 1, n), (5, 1, a), (6, 1, best.2), (7, 1, b2n viol), (8, 2, ofS 16 best.1),
            (10, 2, ofS 16 pr)]
          let wr := d.reg .txc 0 0x144
          let d := d.busStore lk .txc (txTd e + 0x1000 + 16 * (wr % 256)) rep
          let d := d.setReg .txc 0 0x144 ((wr + 1) % 2 ^ 32)
          if viol then ((d.bump .txc 0 0x134 1).sticky .txc 0 4).post .txc 0 0x05 7 0
            (layout 20 [(0, 1, c), (4, 4, s), (8, 1, n), (9, 1, a), (10, 2, ofS 16 best.1)])
          else d

end Sys2Proof.Machine
end

