-- ==== Sys2Proof/Machine/Pci.lean ====
section
/-! DEFINITION. The PCIe controller: doorbells, the fetch of ring entries, records and events on their way to host memory,
MSI-X, and accesses through BAR2 (R542 to R557; 19_host_interface.md). -/

namespace Sys2Proof.Machine

/-! ## Rings (R546 to R549) -/

/-- A register of a ring. -/
def Dev.ringReg (d : Dev) (r off : Nat) : Nat := d.reg .pci 0 (0x200 + 32 * r + off)

/-- Bytes of an entry of a ring (R546). -/
def entrySize (r : Nat) : Nat := ([128, 32, 8, 64, 32] : List Nat).getD r 0

/-- Host address of entry `i` of a ring (R547). -/
def Dev.entryAddr (d : Dev) (r i : Nat) : Nat :=
  d.ringReg r 0 + 2 ^ 32 * d.ringReg r 4 + i % 2 ^ bits (d.ringReg r 8) 4 0 * entrySize r

/-- Distance `a − b` of two ring indices modulo 2³² (R547). -/
def idxDiff (a b : Nat) : Nat := (a + 2 ^ 32 - b % 2 ^ 32) % 2 ^ 32

/-- A doorbell of ring `r` with value `v`: the host's index moves forward, at most to the ring's other index or a full
ring; otherwise it is ignored and counted (R547, R555). -/
def Dev.doorbell (d : Dev) (r v : Nat) : Dev :=
  if !d.openTo .nonsecure .pci then d
  else
    let wr := d.ringReg r 0x0C
    let rd := d.ringReg r 0x10
    let prod := decide (r < 3)
    let ok := d.flag .pci 0 0x100 0 &&
      (if prod then decide (idxDiff wr rd ≤ idxDiff v rd) && decide (idxDiff v rd ≤ 2 ^ bits (d.ringReg r 8) 4 0)
       else decide (idxDiff v rd ≤ idxDiff wr rd))
    if ok then d.setReg .pci 0 (0x200 + 32 * r + (if prod then 0x0C else 0x10)) v
    else (d.bump .pci 0 0x188 1).sticky .pci 0 2

/-- An entry is counted and posted as ENTRY_ERR (R543, R550, R602). -/
def Dev.entryErr (d : Dev) (r i : Nat) : Dev :=
  ((d.bump .pci 0 0x18C 1).sticky .pci 0 3).post .pci 0 0x0B 2 0 (layout 20 [(0, 1, r), (4, 4, i)])

/-- Does an intake entry keep the layout of R550? -/
def intakeOk (bs : List Byte) : Bool :=
  decide (leAt bs 0 1 < 32) && leAt bs 1 3 == 0 && leAt bs 8 8 % 64 == 0 && leAt bs 16 16 == 0

/-- May the controller fetch an entry of ring `r`? -/
def Dev.canFetch (d : Dev) (r : Nat) : Bool :=
  d.ringsOn && decide (r < 3) && d.pci.fetchIdx.toList.getD r 0 != d.ringReg r 0x0C

/-- Hold a fetched entry for admission, or mark it for its turn to be discarded. -/
def Dev.holdEntry (d : Dev) (r : Nat) (bs : List Byte) (bad : Bool) : Dev :=
  let i := d.pci.fetchIdx.toList.getD r 0
  let x : InEntry := { ring := r, idx := i, stamp := d.tim.tick, bytes := slice bs 0 (entrySize r), bad := bad }
  { d with pci := { d.pci with
      fetched := d.pci.fetched ++ [x], fetchIdx := d.pci.fetchIdx.setIfInBounds r ((i + 1) % 2 ^ 32) } }

/-- ENTRY_FETCH: the next entry of a host-produced ring has been read from host memory as `bs` and is stamped (R549). -/
def effEntryFetch (r : Nat) (bs : List Byte) (d : Dev) : Dev :=
  if !d.canFetch r then d
  else
    let bad := r == 1 && !intakeOk (slice bs 0 32)
    let i := d.pci.fetchIdx.toList.getD r 0
    let d := d.holdEntry r bs bad
    if bad then d.entryErr r i else d

/-- ENTRY_ERR: a read of host memory completed poisoned or timed out: the next entry of ring `r`, or with `copy` a read
of the list or a block of the intake entry that is being copied (R543). -/
def effEntryErr (r : Nat) (copy : Bool) (d : Dev) : Dev :=
  if copy then
    match d.pci.intake with
    | [] => d
    | x :: l => Dev.dropBad (({ d with pci := { d.pci with intake := l } }.entryErr 1 x.idx).consume 1) l.length
  else if d.canFetch r then
    let i := d.pci.fetchIdx.toList.getD r 0
    (d.holdEntry r [] true).entryErr r i
  else d

/-- Fetched entries stamped early enough for an admission point now, and the rest (R511). -/
def Dev.admitted (d : Dev) (r : Nat) : List InEntry × List InEntry :=
  let f := d.pci.fetched.filter (·.ring == r)
  (f.takeWhile fun e => decide (e.stamp + 8 ≤ d.tim.tick), f.dropWhile fun e => decide (e.stamp + 8 ≤ d.tim.tick))

/-- Intake and payload entries at an admission point (R549, R551). -/
def Dev.admitEntries (d : Dev) : Dev :=
  let (inT, inR) := d.admitted 1
  let (plT, plR) := d.admitted 2
  let d := { d with pci := { d.pci with
      fetched := d.pci.fetched.filter (·.ring == 0) ++ inR ++ plR
      intake := d.pci.intake ++ inT
      buffers := d.pci.buffers ++ (plT.filter fun (e : InEntry) => !e.bad).map fun (e : InEntry) => leNat e.bytes } }
  let d := plT.foldl (fun d _ => d.consume 2) d
  Dev.dropBad d d.pci.intake.length

/-- The job-ring entries that the scheduler takes at this point: the first 32, those in error discarded; none with the grid off
(R397, R466, R549). -/
def Dev.takeJobEntries (d : Dev) : List (List Byte) × Dev :=
  if !d.flag .sch 0 0x100 0 || !d.gridOn then ([], d)
  else
    let (t, r) := d.admitted 0
    let now := t.take 32
    let d := { d with pci := { d.pci with fetched := t.drop 32 ++ r ++ d.pci.fetched.filter (·.ring != 0) } }
    ((now.filter fun e => !e.bad).map (·.bytes), now.foldl (fun d _ => d.consume 0) d)

/-! ## Records and events (R548, R552, R556) -/

/-- One entry goes to a device-produced ring, then the index block (R548, R556). -/
def Dev.produce (d : Dev) (r : Nat) (bs : List Byte) : Dev :=
  let wr := d.ringReg r 0x0C
  let d := d.emit (.hostWrite (d.entryAddr r wr) bs)
  ((d.setReg .pci 0 (0x200 + 32 * r + 0x0C) ((wr + 1) % 2 ^ 32)).writeIdx).noteEntry r

/-- RECORD_WRITE: the oldest waiting delivery record, its payload before it, or the oldest waiting event is written to its
ring, when the ring has room; else it goes on waiting (R552, R556). The events of the core queues come first, one of each
core (R95; DESIGN CHOICE, log 13). -/
def effRecordWrite (delivery : Bool) (d : Dev) : Dev :=
  let d := if delivery then d else (List.range 8).foldl Dev.deliverEvt d
  if !d.ringsOn then d
  else if delivery then
    match d.pci.records with
    | [] => d
    | r :: l =>
      if d.ringFree 3 = 0 then d
      else
        let d := { d with pci := { d.pci with records := l } }
        let d := if r.payload.isEmpty then d else d.emit (.hostWrite (leAt r.bytes 20 8) r.payload)
        d.produce 3 r.bytes
  else
    match d.pci.events with
    | [] => d
    | e :: l => if d.ringFree 4 = 0 then d else { d with pci := { d.pci with events := l } }.produce 4 e

/-! ## MSI-X (R557, R559, R560, R592) -/

/-- A word of the MSI-X table entry of vector `v`: 0 and 1 the address, 2 the data, 3 the vector control, whose mask bit is
set after reset. -/
def Dev.msixWord (d : Dev) (v k : Nat) : Nat :=
  let w := d.pci.msix.readNat (16 * v + 4 * k) 4
  if k = 3 then w ^^^ 1 else w

/-- Send the message of a vector; a masked one becomes pending (R557). -/
def Dev.sendMsix (d : Dev) (v : Nat) : Dev :=
  if !d.pci.linkUp then d
  else if bit (d.msixWord v 3) 0 then { d with pci := { d.pci with pba := insertSorted v d.pci.pba } }
  else d.emit (.msix v (d.msixWord v 0 + 2 ^ 32 * d.msixWord v 1) (d.msixWord v 2))

/-- A write of word `k` of the MSI-X table entry of vector `v`; a pending vector that is unmasked sends (R557). -/
def Dev.msixWrite (d : Dev) (v k x : Nat) : Dev :=
  let x' := if k = 3 then (x % 2) ^^^ 1 else x
  let d := { d with pci := { d.pci with msix := d.pci.msix.write (16 * v + 4 * k) (leBytes 4 x') } }
  if d.pci.pba.contains v && !bit (d.msixWord v 3) 0 then
    { d with pci := { d.pci with pba := removeAll v d.pci.pba } }.sendMsix v
  else d

/-- MSIX_MESSAGE of ring `r`: THRESH entries, or HOLDOFF µs since the first of them (R557). -/
def effMsixMessage (r : Nat) (d : Dev) : Dev :=
  let w := d.ringReg r 0x14
  let n := d.pci.since.toList.getD r 0
  let hold := bits w 31 16
  let due := decide (max 1 (bits w 15 0) ≤ n) ||
    (decide (0 < hold) && decide (0 < n) && d.elapsed (d.pci.firstTick.toList.getD r 0) (1000 * hold))
  if !d.ringsOn || !due then d
  else { d with pci := { d.pci with since := d.pci.since.setIfInBounds r 0 } }.sendMsix (r + 1)

/-- Has a page an unmasked interrupt (R592)? -/
def Dev.irqHigh (d : Dev) (p : Page) (n : Nat) : Bool :=
  d.reg p n 0x020 &&& (0xFFFFFFFF - d.reg p n 0x01C) != 0

/-- Vector of the page at BAR0 page index `k` (R560). -/
def Dev.route (d : Dev) (k : Nat) : Nat := bits (d.reg .irq 0 (0x400 + k / 4 * 4)) (8 * (k % 4) + 7) (8 * (k % 4))

/-- BLOCK_INTERRUPT: the page at BAR0 page index `k` signals its vector (R521, R557, R592); the PWR page signals ALERT_N
instead. -/
def effBlockInterrupt (k : Nat) (lk : Locked) (d : Dev) : Dev :=
  match pageAtIndex k with
  | none => d
  | some (p, n) =>
    if pageThere lk p n && p != .pwr && !d.secure p n && d.irqHigh p n then d.sendMsix (d.route k) else d

/-! ## BAR2 (R543 to R545) -/

/-- May the host reach device address `a` through BAR2 in this stage (R534, R536)? -/
def Dev.bar2Open (d : Dev) (a n : Nat) : Bool :=
  !d.pwr.held && !d.pwr.pcieHeld && d.pci.linkUp &&
    (d.stage == 2 || (d.stage == 3 && decide (a + n ≤ 0x4000000)))

/-- A host access through BAR2 is carried out (R543, R545). -/
def Dev.bar2 (lk : Locked) (d : Dev) (x : Bar2Req) : Dev :=
  let (oor, d) : Nat × Dev :=
    if x.wr then d.busWrite lk .host 0 x.addr x.bytes (List.replicate (x.bytes.length / 64 + 2) x.poison)
    else
      let (bs, ps, oor, d) := d.busRead lk .host 0 x.addr x.len
      (oor, d.emit (.readData bs (decide (oor < (ps.filter id).length))))
  if oor = 0 then d else (d.bump .pci 0 0x190 1).sticky .pci 0 4

/-- BAR2_ACCESS: a host write of `bs`, with or without poison, or a read of `n` bytes at device address `a`; one that meets
LPDDR5X before the controller is ready waits, and those after it behind it (R419, R543, R545). -/
def effBar2Access (wr : Bool) (a n : Nat) (bs : List Byte) (pois : Bool) (lk : Locked) (d : Dev) : Dev :=
  let len := if wr then bs.length else n
  let x : Bar2Req := { wr := wr, addr := a, len := n, bytes := bs, poison := pois }
  if !d.bar2Open a len then
    if wr || d.stage != 3 then d else d.emit (.readData (List.replicate n 0) false)
  else if d.lpWaits a || !d.pci.bar2.isEmpty then { d with pci := { d.pci with bar2 := d.pci.bar2 ++ [x] } }
  else d.bar2 lk x

/-- MEM_READY: training is complete; the firmware, which waits for it, sets STAGE to RUN, and the host accesses that waited
are carried out in order (R419, R437, R534). -/
def effMemReady (lk : Locked) (d : Dev) : Dev :=
  if d.flag .mem 0 0x100 0 then
    let d := d.setFld .mem 0 0x104 0 0 1
    let d := if d.stage == 1 then d.setFld .sec 0 0x100 2 0 2 else d
    d.pci.bar2.foldl (fun d x => d.bar2 lk x) { d with pci := { d.pci with bar2 := [] } }
  else d

end Sys2Proof.Machine
end

