-- ==== Sys2Proof/Machine/Pwr.lean ====
section
/-! DEFINITION. Power, clocks, reset, thermal protection and board management (R561 to R589;
20_power_clocks_and_package.md). -/

namespace Sys2Proof.Machine

/-! ## Operating points (R564 to R566) -/

/-- VDD_CORE of a point in mV (R564). -/
def pointMv (p : Nat) : Nat := ([750, 700, 650, 800, 850] : List Nat).getD p 0

/-- CORE_CLK of a point in MHz (R564). -/
def pointMhz (p : Nat) : Nat := ([2200, 1900, 1600, 2200, 2200] : List Nat).getD p 0

/-- A secure write of PWR_DVFS (R565). -/
def Dev.pwrDvfs (d : Dev) (v : Nat) : Dev :=
  let p := bits v 2 0
  let old := d.point
  let refuse (r code : Nat) : Dev := (d.setFld .pwr 0 0x104 11 8 r).err .pwr 0 code 0x104
  if 5 ≤ p then refuse 3 errValue
  else if d.flag .sch 0 0x100 0 then refuse 2 errState
  else if pointMv old < pointMv p && 100 * d.fld .pwr 0 0x110 11 0 < 97 * pointMv p then refuse 1 errState
  else
    let d := (d.setFld .pwr 0 0x104 11 8 0).setFld .pwr 0 0x104 2 0 p
    if pointMhz old = pointMhz p then d
    else
      let d := { d with pwr := { d.pwr with relock := some d.tim.tick } }
      let d := ((d.setFld .pwr 0 0x104 31 31 1).setFld .cru 0 0x100 0 0 0).bump .cru 0 0x104 1
      effAlignLost d

/-- RELOCK_DONE: 150 µs after the write the relock is complete (R565). -/
def effRelockDone (d : Dev) : Dev :=
  match d.pwr.relock with
  | none => d
  | some t =>
    if d.elapsed t 150000 then
      { (d.setFld .pwr 0 0x104 31 31 0).setFld .cru 0 0x100 0 0 1 with pwr := { d.pwr with relock := none } }
    else d

/-- VCORE_SAMPLE: VDD_CORE at the sense point reads `mv` millivolts (R566). -/
def effVcoreSample (mv : Nat) (d : Dev) : Dev :=
  if d.pwr.held then d
  else
    let d := d.setReg .pwr 0 0x110 (mv % 4096)
    if 100 * (mv % 4096) < 97 * pointMv d.point then
      let n := d.pwr.uvRun + 1
      let d := { d with pwr := { d.pwr with uvRun := n } }
      if n = 10 then d.sticky .pwr 0 2 else d
    else { d with pwr := { d.pwr with uvRun := 0 } }

/-! ## The slew governor (R567 to R573) -/

/-- CAP values that PWR_GOV accepts (R573). -/
def capOk (v : Nat) : Bool := v == 120 || (v % 16 == 0 && decide (16 ≤ v) && decide (v ≤ 480))

/-- A secure write of PWR_GOV (R573). -/
def Dev.pwrGov (d : Dev) (v : Nat) : Dev :=
  let c := v % 512
  if d.flag .sch 0 0x100 0 then d.err .pwr 0 errState 0x100
  else if !capOk c then d.err .pwr 0 errValue 0x100
  else d.setReg .pwr 0 0x100 c

/-- Bmax of a point in 0.05 A (R567). -/
def bmax (point : Nat) : Nat := 5 * ((pwrPW point).1 + (pwrPW point).2)

/-- Enabled cores. -/
def enabledCores (lk : Locked) : List Nat := (List.range 8).filter fun c => bit lk.coreEn c

/-- Fill the enabled cores with ballast in ascending number, each up to Bmax less its own charge (R570). How many ballast rows
enter a plate in the quantum the spec does not say: PLT_ROW_CYC takes an open number of at most its 110 core cycles (R148,
R151, R564; log 109). -/
def placeBallast (bm : Nat) : List Nat → Nat → Dev → Dev
  | [], _, d => d
  | c :: cs, b, d =>
    let x := min b (bm - d.running c)
    let on := decide (0 < x)
    let d := d.modCore c fun y => { y with plate := { y.plate with ballast := on } }
    let (n, d) := if on then d.drawBelow 111 else (0, d)
    placeBallast bm cs (b - x) (d.bump .plt c 0x124 n)

/-- GOVERNOR_QUANTUM: the level at a 50 ns boundary, and the ballast of the quantum (R568, R570). While throttled the level
falls towards THR_LIM by at most the slew of one quantum (R579). -/
def effGovernorQuantum (lk : Locked) (d : Dev) : Dev :=
  if d.pwr.held then d
  else
    let l := d.fld .pwr 0 0x10C 12 0
    let s := d.fld .pwr 0 0x100 8 0
    let run := d.runningAll
    let wait := (List.range 8).foldl (fun a c => a + ((d.core c).govWait.getD 0)) 0
    let bm := bmax d.point
    let cores := enabledCores lk
    let limit := if d.flag .pwr 0 0x108 0 then max (20 * d.fld .pwr 0 0x140 23 16) (l - s) else cores.length * bm
    let lv := min (min (l + s) (max (run + wait) (l - s))) limit
    let d := (d.setFld .pwr 0 0x10C 12 0 lv).setFld .pwr 0 0x10C 28 16 (run + wait)
    let b := lv - run
    let d := placeBallast bm cores b d
    if 0 < b then d.bump .pwr 0 0x114 1 else d

/-! ## Thermal sensors (R579, R580) -/

/-- The hottest reading and the lowest sensor that has it. -/
def hottest (ts : List Int) : Nat × Int :=
  ts.zipIdx.foldl (fun b t => if b.2 < t.1 then (t.2, t.1) else b) (0, ts.headD 0)

/-- SENSOR_READ: the 24 sensors read `ts`, in 0.25 °C (R579). -/
def effSensorRead (ts : List Int) (d : Dev) : Dev :=
  let (i, h) := hottest ts
  let d := { d with pwr := { d.pwr with hottest := h } }
  if d.pwr.held then d
  else
    let d := (List.range 24).foldl (fun d i => d.setReg .pwr 0 (0x180 + 4 * i) (ofS 16 (ts.getD i 0))) d
    let d := d.setReg .pwr 0 0x144 (65536 * i + ofS 16 h)
    let warn : Int := 4 * d.fld .pwr 0 0x140 7 0
    let thr : Int := 4 * d.fld .pwr 0 0x140 15 8
    let d :=
      if warn ≤ h then if d.pwr.warned then d else { d with pwr := { d.pwr with warned := true } }.sticky .pwr 0 0
      else if h < warn - 12 then { d with pwr := { d.pwr with warned := false } } else d
    if thr ≤ h then if d.flag .pwr 0 0x108 0 then d else (d.setReg .pwr 0 0x108 1).sticky .pwr 0 1
    else if h < thr - 12 then d.setReg .pwr 0 0x108 0 else d

/-- A secure write of THM_CTRL (R579, R588). -/
def Dev.thmCtrl (d : Dev) (v : Nat) : Dev :=
  if 105 < bits v 15 8 then d.err .pwr 0 errValue 0x140 else d.setReg .pwr 0 0x140 (v % 2 ^ 24)

/-! ## Reset (R562, R576 to R578, R580) -/

/-- A device reset with cause bit `cause` of PWR_RST_CAUSE: every register returns to its reset value but for
PWR_RST_CAUSE and PWR_RSTCFG, which only POR (bit 0) clears, and the device is held (R562, R577). The log of what went out
and the numbering of free values are the model's own and go on. -/
def deviceReset (cause : Nat) (d : Dev) : Locked × Dev :=
  let old := d.reg .pwr 0 0x120
  let cfg := d.reg .pwr 0 0x124
  let n := Dev.fresh0 d.fresh
  let n := { n with
    out := d.out
    pwr := { held := true, auxLost := d.pwr.auxLost, rstLow := d.pwr.rstLow, perstLow := d.pwr.perstLow
             refclk := d.pwr.refclk, tripped := d.pwr.tripped, hottest := d.pwr.hottest } }
  ({}, if cause = 0 then n else (n.setReg .pwr 0 0x120 (old ||| 2 ^ cause)).setReg .pwr 0 0x124 cfg)

/-- THERMTRIP_N is released once every sensor reads below 100 °C, by a pulse of RST_N or a cycle of the rails (R580). -/
def Dev.untrip (d : Dev) : Dev :=
  if d.pwr.tripped && decide (d.pwr.hottest < 400) then
    { d with pwr := { d.pwr with tripped := false } }.emit (.pin "THERMTRIP_N" true)
  else d

/-- POR: the rails are good after VDD_AUX was off (R562, R577). -/
def effPor (d : Dev) : Locked × Dev := deviceReset 0 { d.untrip with pwr := { d.untrip.pwr with auxLost := false } }

/-- BROWNOUT: a rail has fallen, which cycles the rails; `aux` says that VDD_AUX has stayed up, and without it PWR_RST_CAUSE
is lost (R562, R580). -/
def effBrownout (aux : Bool) (d : Dev) : Locked × Dev :=
  if aux then deviceReset 1 d.untrip
  else
    let (lk, n) := deviceReset 0 { d with pwr := { d.pwr with auxLost := true } }
    (lk, n)

/-- RST_PIN: RST_N has been low for `ns` nanoseconds: a pulse under 100 ns is ignored, 1 µs or more resets, and in between
the spec states neither (R577). -/
def effRstPin (ns : Nat) (lk : Locked) (d : Dev) : Locked × Dev :=
  let go (d : Dev) : Locked × Dev :=
    let d := d.untrip
    deviceReset 2 { d with pwr := { d.pwr with rstLow := true } }
  if ns < 100 then (lk, d)
  else if 1000 ≤ ns then go d
  else
    let (v, d) := d.draw
    if v % 2 = 0 then (lk, d) else go d

/-- The PCIe controller and the PCI page alone are reset; records and events go on waiting (R578). -/
def Dev.pcieReset (d : Dev) : Dev :=
  let world := d.reg .pci 0 0x008
  let ctrl := d.reg .pci 0 0x010
  let mask := d.reg .pci 0 0x01C
  let lo := Page.base .pci 0
  let d := { d with
    rg := d.rg.filter fun (x : Nat × W32) => !(decide (lo ≤ x.1) && decide (x.1 < lo + 0x1000))
    pci := { events := d.pci.events, records := d.pci.records, evSeq := d.pci.evSeq, ulSeq := d.pci.ulSeq, linkUp := false } }
  ((d.setReg .pci 0 0x008 world).setReg .pci 0 0x010 ctrl).setReg .pci 0 0x01C mask

/-- PERST: PERST_N is low (R577, R578). -/
def effPerst (lk : Locked) (d : Dev) : Locked × Dev :=
  let d := { d with pwr := { d.pwr with perstLow := true } }
  if d.flag .pwr 0 0x124 0 then
    if d.pwr.held then (lk, d) else (lk, { d.pcieReset with pwr := { d.pwr with pcieHeld := true } })
  else deviceReset 3 d

/-- PERST_RELEASE: PERST_N is released; with PERST_SCOPE 1 the link trains again (R578). -/
def effPerstRelease (d : Dev) : Dev :=
  { d with
    pwr := { d.pwr with perstLow := false, pcieHeld := false }
    pci := if d.pwr.pcieHeld then { d.pci with linkUp := true } else d.pci }

/-- REFCLK_LOSS: REFCLK has been absent for 2 µs (R576). -/
def effRefclkLoss (d : Dev) : Locked × Dev := deviceReset 4 { d with pwr := { d.pwr with refclk := false } }

/-- THERMTRIP: a sensor reads 110 °C or above (R580). -/
def effThermtrip (lk : Locked) (d : Dev) : Locked × Dev :=
  if d.pwr.hottest < 440 then (lk, d)
  else deviceReset 5 ({ d with pwr := { d.pwr with tripped := true } }.emit (.pin "THERMTRIP_N" false))

/-- A secure write of PWR_SWRST (R577, R588). -/
def pwrSwrst (v : Nat) (lk : Locked) (d : Dev) : Locked × Dev :=
  if v = 0xA55A then deviceReset 6 d else (lk, d.err .pwr 0 errValue 0x128)

/-- RESET_RELEASE: the rails have been good for 2 ms, REFCLK is present, and neither RST_N, a PERST_N of device scope nor
THERMTRIP holds the device (R562, R576, R578, R580). -/
def effResetRelease (d : Dev) : Dev :=
  if !d.pwr.held || d.pwr.auxLost || d.pwr.tripped || (d.pwr.perstLow && !d.flag .pwr 0 0x124 0) then d
  else { d with
    pwr := { d.pwr with held := false, rstLow := false, refclk := true, pcieHeld := d.pwr.perstLow }
    pci := { d.pci with linkUp := !d.pwr.perstLow } }

/-- PLL_LOCK: PLL `i` of CRU_PLL_LOCK locks; a locked-family PLL that had lost lock has relocked, and alignment is lost
(R509, R575, R576, R600). -/
def effPllLock (i : Nat) (d : Dev) : Dev :=
  if d.pwr.held || 9 ≤ i then d
  else
    let d := d.setFld .cru 0 0x100 i i 1
    if d.pwr.lost.contains i then
      effAlignLost ({ d with pwr := { d.pwr with lost := removeAll i d.pwr.lost } }.bump .cru 0 0x104 1)
    else d

/-- LOSES_LOCK: locked-family PLL `i` loses lock and relocks by itself (R576). -/
def effLosesLock (i : Nat) (d : Dev) : Dev :=
  if 4 ≤ i || !d.flag .cru 0 0x100 i then d
  else { d.setFld .cru 0 0x100 i i 0 with pwr := { d.pwr with lost := insertSorted i d.pwr.lost } }

/-! ## Board management (R582 to R584) -/

/-- I3C_WRITE: two bytes set the PWR page offset; any other write is ignored (R582). -/
def effI3cWrite (bs : List Byte) (d : Dev) : Dev :=
  if bs.length = 2 && !d.pwr.held then { d with pwr := { d.pwr with i3c := some (leNat bs) } } else d

/-- ALERT_N: the ball follows the unmasked interrupts of the PWR page, and its assertion raises an in-band interrupt (R582,
R583). -/
def effAlertN (d : Dev) : Dev :=
  let low := d.irqHigh .pwr 0 && !d.pwr.held
  if low == d.pwr.alertLow then d
  else
    let d := { d with pwr := { d.pwr with alertLow := low } }.emit (.pin "ALERT_N" !low)
    if low then d.emit (.pin "I3C_IBI" true) else d

/-- BOUNDARY_SCAN: instruction `i` (0 BYPASS, 1 IDCODE, 2 SAMPLE/PRELOAD, 3 EXTEST, 4 CLAMP, 5 HIGHZ) with the bits
shifted in; EXTEST and CLAMP act only while RST_N holds the device in reset (R584). What SAMPLE captures at the balls is a
free value. -/
def effBoundaryScan (i : Nat) (bs : List Bool) (d : Dev) : Dev :=
  let acts := d.pwr.held && d.pwr.rstLow
  if (i == 3 || i == 4) && !acts then d
  else
    let d := { d with pwr := { d.pwr with jtag := i } }
    match i with
    | 1 => d.emit (.scan (bitsOf 32 0x1483A2C7))
    | 2 | 3 =>
      let (v, d) := d.draw
      let d := { d with pwr := { d.pwr with bsr := bs } }
      let d := d.emit (.scan (bitsOf bs.length v))
      if i = 3 then d.emit (.pin "BOUNDARY" true) else d
    | _ => d.emit (.scan ((false :: bs).take bs.length))

end Sys2Proof.Machine
end

