-- ==== Sys2Proof/Machine/Frame.lean ====
section
/-! DEFINITION. Ports, their frames and their time-stamps: the forms that the ports and the Waten engine share (R442 to
R450, R476). -/

namespace Sys2Proof.Machine

/-! ## Ports (R442, R448, R450) -/

/-- ETH_MODE.MODE (R442). -/
def Dev.ethMode (d : Dev) : Nat := d.fld .eth 0 0x180 1 0

/-- Ports of a mode (R442). -/
def portsOf (mode : Nat) : Nat := if mode = 1 then 4 else if mode = 2 then 2 else 8

/-- Is port `n` present (R442)? -/
def Dev.ethPresent (d : Dev) (n : Nat) : Bool := decide (n < portsOf d.ethMode)

/-- Has port `n` its link up: present, enabled, and ETH_STATUS.LINK set (R443, R471)? -/
def Dev.linkOn (d : Dev) (n : Nat) : Bool := d.ethPresent n && d.flag .eth n 0x100 0 && d.flag .eth n 0x104 0

/-- RX and TX corrections of the ports, in tenths of a nanosecond (R450). -/
def Dev.ethCorr (d : Dev) : Nat × Nat :=
  match d.ethMode with
  | 0 => (1624, 589)
  | 1 => (1217, 446)
  | 2 => (963, 372)
  | _ => if d.fld .eth 0 0x180 5 4 = 1 then (528, 403) else (2385, 710)

/-- Tenths of a nanosecond as 2⁻³² ns, rounded to the nearest. -/
def tenths (t : Nat) : Int := ((t * 2 ^ 32 + 5) / 10 : Nat)

/-- The time-stamp of a received frame, nanoseconds and fraction as one number: the counter `age` ticks ago less the
corrections (R449, R450). -/
def Dev.stampIn (d : Dev) (n age : Nat) : Nat :=
  let c : Int := (d.tim.ns * 2 ^ 32 + d.tim.frac : Nat)
  ofS 64 (c - age * (d.incr + d.corr) - tenths d.ethCorr.1 - toS 16 (d.fld .eth n 0x110 15 0) * 2 ^ 26)

/-- The time-stamp of a frame that begins now (R449, R450). -/
def Dev.stampOut (d : Dev) (n : Nat) : Nat :=
  let c : Int := (d.tim.ns * 2 ^ 32 + d.tim.frac : Nat)
  ofS 64 (c + tenths d.ethCorr.2 + toS 16 (d.fld .eth n 0x110 31 16) * 2 ^ 26)

/-! ## Received frames (R445, R446, R476) -/

/-- An Ethernet frame without its FCS: destination, source, tag, EtherType and payload. -/
structure EthFrame where
  dst : List Byte
  src : List Byte
  tci : Option Nat
  typ : Nat
  body : List Byte
  deriving DecidableEq, Repr

/-- Take a frame apart, with at most one 0x8100 tag (R445). -/
def ethParse (bs : List Byte) : EthFrame :=
  let t := beNat (slice bs 12 2)
  if t = 0x8100 then
    { dst := bs.take 6, src := slice bs 6 6, tci := some (beNat (slice bs 14 2)), typ := beNat (slice bs 16 2), body := bs.drop 18 }
  else { dst := bs.take 6, src := slice bs 6 6, tci := none, typ := t, body := bs.drop 14 }

/-- A UDP datagram over IPv4 or IPv6: source address, destination port, whether it is one that R476 accepts, and its
payload. -/
structure Udp where
  sip : List Byte
  dport : Nat
  ok : Bool
  body : List Byte
  deriving DecidableEq, Repr

/-- One's-complement sum of big-endian 16-bit words, folded to 16 bits: 0xFFFF for data with a right checksum. -/
def ipSum (bs : List Byte) : Nat :=
  let s := ((List.range (ceilDiv bs.length 2)).map fun i => beNat (slice bs (2 * i) 2)).foldl (· + ·) 0
  let s := s % 65536 + s / 65536
  s % 65536 + s / 65536

/-- The datagram of an IPv4 or IPv6 frame, with the checks of R476: no options, no fragments, a right IPv4 header
checksum, a right IPv6 UDP checksum. -/
def udpParse (f : EthFrame) : Option Udp :=
  let b := f.body
  if f.typ = 0x0800 && leAt b 0 1 / 16 == 4 && leAt b 9 1 == 17 then
    let h := 4 * (leAt b 0 1 % 16)
    let n := beNat (slice b (h + 4) 2)
    some { sip := slice b 12 4, dport := beNat (slice b (h + 2) 2)
           ok := h == 20 && beNat (slice b 6 2) % 0x4000 == 0 && ipSum (slice b 0 20) == 0xFFFF && decide (8 ≤ n) &&
             decide (h + n ≤ b.length)
           body := slice b (h + 8) (n - 8) }
  else if f.typ = 0x86DD && leAt b 0 1 / 16 == 6 && leAt b 6 1 == 17 then
    let n := beNat (slice b 44 2)
    some { sip := slice b 8 16, dport := beNat (slice b 42 2)
           ok := decide (8 ≤ n) && decide (40 + n ≤ b.length) &&
             ipSum (slice b 8 32 ++ beBytes 4 n ++ beBytes 4 17 ++ slice b 40 n) == 0xFFFF
           body := slice b 48 (n - 8) }
  else none

/-- A frame out of its parts, padded to 60 bytes, with its FCS. -/
def ethBuild (dst src : List Byte) (tci : Option Nat) (typ : Nat) (body : List Byte) : List Byte :=
  let tag := match tci with | some v => beBytes 2 0x8100 ++ beBytes 2 v | none => []
  let f := dst ++ src ++ tag ++ beBytes 2 typ ++ body
  let f := f ++ List.replicate (60 - f.length) 0
  f ++ leBytes 4 (crc32 f)

end Sys2Proof.Machine
end

