-- ==== Sys2Proof/Machine/Waten.lean ====
section
/-! DEFINITION. The Waten engine: messages, addresses, links and credits, gathers of split cells, and mirror pairs
(R476 to R499; 16_waten_pool.md). -/

namespace Sys2Proof.Machine

/-! ## Registers and links -/

/-- WTN_CTRL.ENABLE. -/
def Dev.wtnOn (d : Dev) : Bool := d.flag .wtn 0 0x100 0
/-- WTN_ADDR.STATE (R498). -/
def Dev.wtnState (d : Dev) : Nat := d.fld .wtn 0 0x104 17 16
/-- The own pool address. -/
def Dev.wtnAddr (d : Dev) : Nat := d.fld .wtn 0 0x104 13 0
/-- VALID of a link entry. -/
def Dev.linkValid (d : Dev) (i : Nat) : Bool := d.flag .wtn 0 (0x400 + 16 * i) 31
/-- PEER of a link entry. -/
def Dev.linkPeer (d : Dev) (i : Nat) : Nat := d.fld .wtn 0 (0x400 + 16 * i) 13 0
/-- The VALID link to a peer. -/
def Dev.linkTo (d : Dev) (a : Nat) : Option Nat := (List.range 64).find? fun i => d.linkValid i && d.linkPeer i == a
/-- The engine's state of a link. -/
def Dev.link (d : Dev) (i : Nat) : WtnLink := d.wtn.links.toList.getD i {}
/-- Change the engine's state of a link. -/
def Dev.modLink (d : Dev) (i : Nat) (f : WtnLink → WtnLink) : Dev :=
  { d with wtn := { d.wtn with links := d.wtn.links.setIfInBounds i (f (d.link i)) } }

/-- DIGEST: the first 64 bits of the identity digest (R480, R529). -/
def Dev.digest (d : Dev) : Nat := d.reg .sec 0 0x110 + 2 ^ 32 * d.reg .sec 0 0x114

/-- Usable ports of a link: PORTMASK ∩ WTN_PORTS ∩ ports with link up (R484). -/
def Dev.usable (d : Dev) (i : Nat) : List Nat :=
  let m := leAt (d.link i).route 0 1
  (List.range 8).filter fun p => bit m p && bit (d.reg .wtn 0 0x110) p && d.linkOn p

/-- First byte of a slot of the receive area: the slots of lower-numbered VALID links come first, G before M (R486). -/
def Dev.slotAddr (d : Dev) (i : Nat) (m : Bool) (k : Nat) : Nat :=
  let g (j : Nat) : Nat := d.fld .wtn 0 (0x404 + 16 * j) 31 24
  let n (j : Nat) : Nat := g j + d.fld .wtn 0 (0x404 + 16 * j) 23 16
  let below := ((List.range i).filter d.linkValid).foldl (fun s j => s + n j) 0
  d.reg .wtn 0 0x13C + 2 ^ 32 * d.reg .wtn 0 0x140 + 8256 * (below + (if m then g i else 0) + k)

/-! ## Sending (R476, R477, R484, R487) -/

/-- Has a link credit for a message class? -/
def Dev.hasCredit (d : Dev) (i cls : Nat) : Bool :=
  if cls = 2 then d.fld .wtn 0 (0x408 + 16 * i) 15 8 != 0
  else if cls = 3 then d.fld .wtn 0 (0x408 + 16 * i) 7 0 != 0
  else true

/-- Consume a credit of a class. -/
def Dev.useCredit (d : Dev) (i cls : Nat) : Dev :=
  let o := 0x408 + 16 * i
  if cls = 2 then d.setFld .wtn 0 o 15 8 (d.fld .wtn 0 o 15 8 - 1)
  else if cls = 3 then d.setFld .wtn 0 o 7 0 (d.fld .wtn 0 o 7 0 - 1)
  else d

/-- A datagram of the engine in its Ethernet frame (R476). The identification, the DF bit and the flow label, which the
spec does not state, come from `free`. -/
def Dev.wtnDatagram (d : Dev) (port free : Nat) (dmac dip : List Byte) (tci : Option Nat) (msg : List Byte) : List Byte :=
  let udp := d.fld .wtn 0 0x10C 31 16
  let hop := d.fld .wtn 0 0x10C 15 8
  let dscp := d.fld .wtn 0 0x10C 5 0
  let own := [0, 1, 2, 3].flatMap fun i => leBytes 4 (d.reg .wtn 0 (0x114 + 4 * i))
  let n := 8 + msg.length
  let u (c : Nat) : List Byte := beBytes 2 udp ++ beBytes 2 udp ++ beBytes 2 n ++ beBytes 2 c ++ msg
  if d.flag .wtn 0 0x100 3 then
    let s := ipSum (own ++ slice dip 0 16 ++ beBytes 4 n ++ beBytes 4 17 ++ u 0)
    let c := if s = 0xFFFF then 0xFFFF else 0xFFFF - s
    let ip := beBytes 4 (6 * 2 ^ 28 + dscp * 2 ^ 22 + free % 2 ^ 20) ++ beBytes 2 n ++ leBytes 1 17 ++ leBytes 1 hop ++ own ++
      slice dip 0 16
    ethBuild dmac (d.macOf port) tci 0x86DD (ip ++ u c)
  else
    let h (c : Nat) : List Byte := leBytes 1 0x45 ++ leBytes 1 (4 * dscp) ++ beBytes 2 (20 + n) ++ beBytes 2 free ++
      beBytes 2 (free / 65536 % 2 * 0x4000) ++ leBytes 1 hop ++ leBytes 1 17 ++ beBytes 2 c ++ own.take 4 ++ slice dip 0 4
    ethBuild dmac (d.macOf port) tci 0x0800 (h (0xFFFF - ipSum (h 0)) ++ u 0)

/-- Send a message of class `cls` to the peer of link `i` from `port`: it takes SEQ, the credits owed and its own credit
when it begins (R477, R487). -/
def Dev.wtnSend (d : Dev) (port i cls : Nat) (p : Bool) (body payload : List Byte) : Dev :=
  let l := d.link i
  let g := min 255 l.owedG
  let m := min 255 l.owedM
  let msg := leBytes 1 (16 + cls) ++ leBytes 1 (b2n p) ++ leBytes 2 d.wtnAddr ++ leBytes 2 (d.linkPeer i) ++
    leBytes 2 (d.reg .wtn 0 0x108) ++ leBytes 4 (l.txSeq.toList.getD cls 0) ++ leBytes 1 g ++ leBytes 1 m ++
    leBytes 2 payload.length ++ slice body 0 16 ++ payload
  let tci := if bit (leAt l.route 0 2) 8 then some (leAt l.route 2 2) else none
  let (free, d) := d.draw
  let f := d.wtnDatagram port free (slice l.route 4 6) (slice l.route 16 16) tci msg
  let d := d.modLink i fun l => { l with
    txSeq := l.txSeq.setIfInBounds cls ((l.txSeq.toList.getD cls 0 + 1) % 2 ^ 32), owedG := l.owedG - g, owedM := l.owedM - m }
  (((d.useCredit i cls).bump .wtn 0 0x150 1).bump .eth port 0x134 1).emit (.frame port f (d.stampOut port))

/-- The port from which a message leaves: the lowest usable one, and for a GATHER the one that MIDX picks (R484). -/
def Dev.wtnPort (d : Dev) (i cls midx : Nat) : Option Nat :=
  let u := d.usable i
  if u.isEmpty then none else if cls = 2 then u[midx % u.length]? else u.head?

/-- The credits that an accepted request holds: peer, job and tick (R488). -/
def SendReq.credits (r : SendReq) : List (Nat × Nat × Nat) := r.peers.map fun p => (p, r.job, r.hold.getD 0)

/-- A request whose messages have all begun is done: the credits that it holds return (R488, R491). -/
def Dev.settleReqs (d : Dev) : Dev :=
  let done := d.wtn.reqs.filter fun r => r.hold.isSome && r.left == 0
  done.foldl (fun d r => { d with
    wtn := { d.wtn with reqs := d.wtn.reqs.filter fun x => x.num != r.num }
    sch := { d.sch with credits := r.credits.foldl (fun l x => l.erase x) d.sch.credits } }) d

/-- One message of a request has begun, or is dropped. -/
def Dev.reqStep (d : Dev) (r : Option Nat) : Dev :=
  match r with
  | none => d
  | some k =>
    let step (x : SendReq) : SendReq := if x.num = k then { x with left := x.left - 1 } else x
    { d with wtn := { d.wtn with reqs := d.wtn.reqs.map step } }.settleReqs

/-- Messages with no usable port are not sent (R484). -/
def Dev.wtnSweep (d : Dev) : Dev :=
  let bad := d.wtn.tx.filter fun m => (d.usable m.link).isEmpty
  let d := { d with wtn := { d.wtn with tx := d.wtn.tx.filter fun m => !(d.usable m.link).isEmpty } }
  let d := bad.foldl (fun d m => d.reqStep m.req) d
  match d.wtn.pair with
  | some (i, _) =>
    if (d.usable i).isEmpty && (!d.wtn.mirq.isEmpty || d.wtn.copy.isSome) then
      { d with wtn := { d.wtn with mirq := [], full := true } }
    else d
  | none => d

/-- Queue a message. -/
def Dev.wtnQueue (d : Dev) (m : WtnTx) : Dev := { d with wtn := { d.wtn with tx := d.wtn.tx ++ [m] } }.wtnSweep

/-! ## Mirroring (R494 to R497) -/

/-- The first beat of the mirror ranges from beat `k` on, in ascending address order (R494). -/
def Dev.nextMirror (d : Dev) (k : Nat) : Option Nat :=
  let starts := (List.range 4).filterMap fun r =>
    let a := d.fld .wtn 0 (0x200 + 8 * r) 27 0 * 64
    let b := (d.fld .wtn 0 (0x204 + 8 * r) 27 0 + 1) * 64
    if d.flag .wtn 0 (0x200 + 8 * r) 31 && decide (max a k < b) then some (max a k) else none
  starts.foldl (fun (m : Option Nat) x => match m with | none => some x | some y => some (min x y)) none

/-- Beats of the next message of the copy: consecutive beats of the ranges, at most 128, a poisoned one alone. -/
def Dev.copyRun (d : Dev) (k : Nat) : Nat → Nat
  | 0 => 0
  | n + 1 => if d.mirrored k && decide (k < 2 ^ 30) && !d.ms.lp.bad k then Dev.copyRun d (k + 1) n + 1 else 0

/-- Beats of the queue that go in its next message: consecutive beats of one write, at most 128, a poisoned one alone
(R495). -/
def mirRun (prev : MirBeat) : List MirBeat → Nat → List MirBeat
  | b :: l, n + 1 =>
    if b.wid = prev.wid && b.beat = prev.beat + 1 && !b.pois then b :: mirRun b l n else []
  | _, _ => []

/-- The MIRROR message that goes next, with what stays of the queue and the copy. -/
def Dev.nextMir (d : Dev) : Option (Nat × Bool × List Byte × Dev) :=
  match d.wtn.mirq with
  | b :: l =>
    let r := if b.pois then [] else mirRun b l 127
    some (b.beat, b.pois, (b :: r).flatMap (·.bytes), { d with wtn := { d.wtn with mirq := l.drop r.length } })
  | [] =>
    match d.wtn.copy.bind d.nextMirror with
    | none => none
    | some k =>
      let n := max 1 (Dev.copyRun d k 128)
      let (bs, bad, d) := (List.range n).foldl (fun (r : List Byte × Bool × Dev) i =>
        let (x, bad, d) := r.2.2.arrRead 2 (k + i)
        (r.1 ++ x, r.2.1 || bad, d)) ([], false, d)
      some (k, bad, bs, { d with wtn := { d.wtn with copy := some (k + n) } })

/-- PAIR of WTN_HCMD_STATUS. -/
def Dev.setPair (d : Dev) (v : Nat) : Dev := d.setFld .wtn 0 0x148 17 16 v

/-- The copy starts from the lowest range (R494, R496). -/
def Dev.startCopy (d : Dev) : Dev := { d with wtn := { d.wtn with copy := some 0, full := false } }.setPair 1

/-- Stop mirroring and unbind. -/
def Dev.unpair (d : Dev) : Dev :=
  { d with wtn := { d.wtn with pair := none, copy := none, mirq := [], full := false } }.setPair 0

/-- RESULT of a host command; BUSY clears with it. -/
def Dev.wtnResult (d : Dev) (v : Nat) : Dev := (d.setFld .wtn 0 0x148 31 31 0).setFld .wtn 0 0x148 3 0 v

/-- BIND of a partner (R494). -/
def effBind (peer : Nat) (d : Dev) : Dev :=
  if d.wtn.pair.isSome then d.wtnResult 3
  else
    match d.linkTo peer with
    | none => d.wtnResult 1
    | some i =>
      ({ d with wtn := { d.wtn with pair := some (i, peer), mirq := [], cut := removeAll i d.wtn.cut } }.startCopy).wtnResult 0

/-- UNBIND (R498). -/
def effUnbind (d : Dev) : Dev := if d.wtn.pair.isNone then d.wtnResult 2 else d.unpair.wtnResult 0

/-- TAKEOVER on the survivor (R497). A partner of which no message was ever applied leaves WTN_TKO_SEQ a free value. -/
def effTakeover (d : Dev) : Dev :=
  match d.wtn.pair with
  | none => d.wtnResult 2
  | some (i, peer) =>
    let mine (m : WtnRx) : Bool := leAt m.msg 0 1 % 16 == 3 && d.linkTo (leAt m.msg 2 2) == some i
    let d := { d with wtn := { d.wtn with wait := d.wtn.wait.filter fun m => !mine m, cut := insertSorted i d.wtn.cut } }
    let (v, d) := match (d.link i).applied with
      | some v => (v, d)
      | none => d.draw
    let d := d.setReg .wtn 0 0x14C v
    let d := (d.wtnQueue { link := i, cls := 4 }).unpair.wtnResult 0
    d.post .wtn 0 0x09 8 0 (layout 20 [(0, 2, peer), (4, 4, v)])

/-- MIRROR_SYNCED: the copy is complete and every beat has been sent (R494). -/
def effMirrorSynced (d : Dev) : Dev :=
  match d.wtn.pair, d.wtn.copy with
  | some (_, peer), some k =>
    if (d.nextMirror k).isNone && !d.wtn.full then
      ({ d with wtn := { d.wtn with copy := none } }.setPair 2).post .wtn 0 0x09 5 0 (layout 20 [(0, 2, peer)])
    else d
  | _, _ => d

/-- MIRROR_RESYNC: a beat has found the queue full, or a message no port, and the copy starts again (R484, R496). -/
def effMirrorResync (d : Dev) : Dev :=
  match d.wtn.pair with
  | some (_, peer) =>
    if d.wtn.full then
      (((d.startCopy).bump .wtn 0 0x168 1).sticky .wtn 0 2).post .wtn 0 0x09 6 0 (layout 20 [(0, 2, peer)])
    else d
  | none => d

/-- WTN_HCMD (R498). -/
def Dev.wtnHcmd (d : Dev) (v : Nat) : Dev :=
  if d.flag .wtn 0 0x148 31 then d.err .wtn 0 errState 0x144
  else match bits v 31 28 with
    | 1 => effBind (bits v 13 0) d
    | 2 => effUnbind d
    | 3 => effTakeover d
    | _ => d.err .wtn 0 errValue 0x144

/-! ## Gathers (R488 to R492) -/

/-- Offset of split entry `c`. -/
def splitOff (c : Nat) : Nat := 0x800 + 32 * c
/-- EN of a split entry. -/
def Dev.splitEn (d : Dev) (c : Nat) : Bool := d.flag .wtn 0 (splitOff c) 31
/-- Members D. -/
def Dev.splitD (d : Dev) (c : Nat) : Nat := if d.flag .wtn 0 (splitOff c) 30 then 4 else 2
/-- Own index K. -/
def Dev.splitK (d : Dev) (c : Nat) : Nat := d.fld .wtn 0 (splitOff c) 29 28
/-- Layers. -/
def Dev.splitNl (d : Dev) (c : Nat) : Nat := d.fld .wtn 0 (splitOff c) 26 24 + 1
/-- Link of member `k`. -/
def Dev.splitLink (d : Dev) (c k : Nat) : Nat := bits (d.reg .wtn 0 (splitOff c + 4)) (8 * k + 5) (8 * k)
/-- GBUF. -/
def Dev.gbuf (d : Dev) (c : Nat) : Nat := d.reg .wtn 0 (splitOff c + 0x14) + 2 ^ 32 * d.fld .wtn 0 (splitOff c + 0x18) 7 0
/-- GSIZE. -/
def Dev.gsize (d : Dev) (c : Nat) : Nat := d.reg .wtn 0 (splitOff c + 0x1C)
/-- Base of the gather buffer (R490). -/
def Dev.gatherBuf (d : Dev) (c s l : Nat) : Nat := d.gbuf c + (2 * l + s % 2) * d.gsize c
/-- The other members. -/
def Dev.others (d : Dev) (c : Nat) : List Nat := (List.range (d.splitD c)).filter (· != d.splitK c)

/-- Open and close of the gather of layer `l` in slot `s` (R489). -/
def Dev.gatherTimes (d : Dev) (c s l : Nat) : Nat × Nat :=
  let mu := ceMu (d.cellFor false c s)
  let o := d.symStart mu s 0 + d.reg .wtn 0 (splitOff c + 8) + l * d.reg .wtn 0 (splitOff c + 12)
  (o % 2 ^ 32, (o + d.fld .wtn 0 (splitOff c + 16) 13 0) % 2 ^ 32)

/-- A gather in progress, a fresh one when nothing of it has happened. -/
def Dev.gather (d : Dev) (c s l : Nat) : Gather :=
  (d.wtn.gathers.find? fun g => g.cell == c && g.slot == s && g.layer == l).getD { cell := c, slot := s, layer := l }

/-- Replace a gather. -/
def Dev.setGather (d : Dev) (g : Gather) : Dev :=
  { d with wtn := { d.wtn with
      gathers := d.wtn.gathers.filter (fun x => !(x.cell == g.cell && x.slot == g.slot && x.layer == g.layer)) ++ [g] } }

/-- Row `r` of the slice of member `k`: address of its first column (R273). -/
def rowAddr (b dd lh k r : Nat) : Nat := b + r * (64 * lh * dd) + k * (64 * lh)

/-- Queue the messages of a request whose gather is open: the slice packed row by row, to each other member in turn
(R491); the credits are held from now on (R488). -/
def Dev.startReq (lk : Locked) (d : Dev) (r : SendReq) : Dev :=
  let c := r.cell
  let (nue, t, lh) := r.shape
  let dd := d.splitD c
  let b := d.gatherBuf c r.slot r.layer
  let (data, d) := (List.range (nue * t)).foldl (fun (x : List Byte × Dev) i =>
    let (bs, _, d) := x.2.busBytes lk .wtn (rowAddr b dd lh (d.splitK c) i) (64 * lh)
    (x.1 ++ bs, d)) ([], d)
  let total := nue * t * 64 * lh
  let n := ceilDiv total 8192
  let dests := d.others c
  let peers := dests.map fun k => d.linkPeer (d.splitLink c k)
  let begin' (x : SendReq) : SendReq :=
    if x.num = r.num then { x with hold := some d.tim.tick, left := n * dests.length, peers := peers } else x
  let d := { d with
    sch := { d.sch with credits := d.sch.credits ++ peers.map fun p => (p, r.job, d.tim.tick) }
    wtn := { d.wtn with reqs := d.wtn.reqs.map begin' } }
  let body (m : Nat) : List Byte := layout 16 [(0, 2, d.fld .wtn 0 (splitOff c) 15 0), (2, 1, r.layer + 16 * d.splitK c),
    (4, 4, r.slot), (8, 2, m), (10, 2, nue), (12, 1, t - 1), (13, 1, lh)]
  let d := dests.foldl (fun d k => (List.range n).foldl (fun d m =>
    d.wtnQueue { link := d.splitLink c k, cls := 2, midx := m, body := body m
                 payload := slice data (8192 * m) (min 8192 (total - 8192 * m)), req := some r.num }) d) d
  d.settleReqs

/-- The cell, buffer index, and offset in the buffer that an address of the split table's gather buffers names. -/
def Dev.gatherAt (d : Dev) (a : Nat) : Option (Nat × Nat × Nat) :=
  (List.range 32).findSome? fun c =>
    let z := d.gsize c
    let o := a - d.gbuf c
    if z = 0 || decide (a < d.gbuf c) || decide (2 * d.splitNl c * z ≤ o) then none else some (c, o / z, o % z)

/-- A send request is refused (R491, R498). -/
def Dev.refuseReq (d : Dev) : Dev := (d.bump .wtn 0 0x164 1).sticky .wtn 0 1

/-- A write to address `a` that stands where R490 puts the ready line of the buffer that its own SLOTSEQ and LAYER name,
though it may not fit there: its cell, its buffer and the local heads that its place gives with NUE and T. A line with NUE
or T zero gives no local heads, and counts as one only for a gather whose close is still to come, since a row of zeros may
stand at the same place. -/
def Dev.namedLine (d : Dev) (a : Nat) (bs : List Byte) : Option (Nat × Nat × Nat) :=
  let l := leAt bs 4 1
  let i := 2 * l + leAt bs 0 4 % 2
  (List.range 32).findSome? fun c =>
    let b := d.gbuf c + i * d.gsize c
    let u := 64 * leAt bs 6 2 * leAt bs 8 2 * d.splitD c
    if bs.length ≠ 64 || d.gsize c = 0 || decide (a < b + 64) then none
    else if u = 0 then
      let s := d.absSlot (ceMu (d.activeCell false c)) (leAt bs 0 4)
      if a = b + 64 && d.splitEn c && decide (l < d.splitNl c) && !reached d.ns (d.gatherTimes c s l).2 then some (c, i, 0)
      else none
    else if (a - b - 64) % u = 0 && decide (u ≤ a - b - 64) && decide (a - b - 64 ≤ 4 * u) then some (c, i, (a - b - 64) / u)
    else none

/-- A Stile write of core `core` to address `a` that is a ready line: its cell, its buffer and the local heads that its
place gives with NUE and T, by its own words or by the buffer in which it lies (R490, R491). -/
def Dev.readyLine (d : Dev) (a : Nat) (bs : List Byte) : Option (Nat × Nat × Nat) :=
  (d.namedLine a bs).orElse fun _ => match d.gatherAt a with
  | none => none
  | some (c, i, o) =>
    let u := 64 * leAt bs 6 2 * leAt bs 8 2 * d.splitD c
    if bs.length ≠ 64 || a % 64 ≠ 0 || o < 64 || u = 0 || (o - 64) % u ≠ 0 || o = 64 then none
    else some (c, i, (o - 64) / u)

/-- The engine takes a ready line of core `core` as the send request it is (R488, R491). -/
def Dev.takeReady (lk : Locked) (d : Dev) (core : Nat) (c i lh : Nat) (bs : List Byte) : Dev :=
  let s := d.absSlot (ceMu (d.activeCell false c)) (leAt bs 0 4)
  let l := leAt bs 4 1
  let nue := leAt bs 6 2
  let t := leAt bs 8 2
  let need := nue * t * 64 * lh * d.splitD c + 128
  let job := (d.core core).job.bind d.job?
  let close := (d.gatherTimes c s l).2
  let bad := !d.wtnOn || !d.splitEn c || decide (d.splitNl c ≤ l) || i != 2 * l + s % 2 || reached d.ns close ||
    decide (128 < t) || lh = 0 || decide (4 < lh) || leAt bs 5 1 != 0 || (bs.drop 10).any (· != 0) || decide (d.gsize c < need)
  match job with
  | none => d.refuseReq
  | some j =>
    if bad || !jobWneed j.desc then d.refuseReq
    else
      let r : SendReq := { num := d.wtn.nextReq, core := core, job := j.num, cell := c, slot := s, layer := l, shape := (nue, t, lh) }
      let g := d.gather c s l
      let d := d.setGather { g with ready := some (nue, t, lh) }
      let d := { d with wtn := { d.wtn with reqs := d.wtn.reqs ++ [r], nextReq := d.wtn.nextReq + 1 } }
      if g.opened then d.startReq lk r else d

/-- GATHER_OPEN: the gather of layer `l`, slot SLOTSEQ `s`, of split cell `c` opens, and a request accepted for it begins
transmission (R489, R491). -/
def effGatherOpen (c s l : Nat) (lk : Locked) (d : Dev) : Dev :=
  let s := d.absSlot (ceMu (d.activeCell false c)) s
  let g := d.gather c s l
  let ts := d.gatherTimes c s l
  if !d.gridOn || !d.wtnOn || !d.splitEn c || d.splitNl c ≤ l || g.opened || !reached d.ns ts.1 || reached d.ns ts.2 then d
  else
    let d := d.setGather { g with opened := true }
    if g.ready.isNone then d
    else
      (d.wtn.reqs.filter fun r => r.cell == c && r.slot == s && r.layer == l && r.hold.isNone).foldl
        (fun d r => d.startReq lk r) d

/-- Is the slice of member `k` complete (R492)? -/
def Gather.complete (g : Gather) (k : Nat) : Bool :=
  g.got.any fun x => x.1 == k && (List.range (ceilDiv x.2.2 8192)).all fun m =>
    g.got.any fun y => y.1 == k && y.2.1 == m && y.2.2 == x.2.2

/-- GATHER_CLOSE: missing slices are zeroed, the status word written, misses counted, posted and, on the home device,
passed to the receiver supervisor (R274, R388, R492). -/
def effGatherClose (c s l : Nat) (lk : Locked) (d : Dev) : Dev :=
  let s := d.absSlot (ceMu (d.activeCell false c)) s
  let g := d.gather c s l
  if !d.gridOn || !d.wtnOn || !d.splitEn c || d.splitNl c ≤ l || !g.opened || !reached d.ns (d.gatherTimes c s l).2 then d
  else
    let dd := d.splitD c
    let b := d.gatherBuf c s l
    let (nue, t, lh) := g.ready.getD (0, 0, 0)
    let missing := (d.others c).filter fun k => !g.complete k
    let d := missing.foldl (fun d k => (List.range (nue * t)).foldl (fun d r =>
      d.busStore lk .wtn (rowAddr b dd lh k r) (List.replicate (64 * lh) 0)) d) d
    let mask := ((List.range dd).filter fun k => !missing.contains k).foldl (fun m k => m + 2 ^ k) 0
    let d := d.busStore lk .wtn (b + nue * t * 64 * lh * dd) (leBytes 4 mask)
    let d := { d with wtn := { d.wtn with
      gathers := d.wtn.gathers.filter fun x => !(x.cell == c && x.slot == s && x.layer == l) } }
    if missing.isEmpty then d
    else
      let d := (d.bump .wtn 0 0x160 missing.length).sticky .wtn 0 0
      let lost := missing.foldl (fun m k => m + 2 ^ k) 0
      let d := d.post .wtn 0 0x09 4 0 (layout 20 [(0, 1, c), (4, 4, s), (8, 1, l), (9, 1, lost)])
      if d.splitK c ≠ 0 then d
      else
        let late := d.rsv.plans.any fun p => p.cell == c && p.slot == s && p.entries.any (·.final)
        let d := if late then d.bump .rsv 0 0x13C 1 else d
        { d with rsv := { d.rsv with misses := d.rsv.misses ++ [(c, s)] } }

/-! ## Receiving (R479, R481, R482, R485, R487, R492, R495) -/

/-- MESSAGE_RECEIVE: the engine checks the next datagram of the ports and stores its message (R476, R479, R486). -/
def effMessageReceive (lk : Locked) (d : Dev) : Dev :=
  match d.wtn.frames with
  | [] => d
  | f :: rest =>
    let d := { d with wtn := { d.wtn with frames := rest } }
    let e := ethParse f.bytes
    match udpParse e with
    | none => d
    | some u =>
      let m := u.body
      let cls := leAt m 0 1 % 16
      let disc := d.bump .wtn 0 0x158 1
      let lnk := d.linkTo (leAt m 2 2)
      if !u.ok || !d.wtnOn then d
      else if m.length < 32 || leAt m 0 1 / 16 != 1 || leAt m 6 2 != d.reg .wtn 0 0x108 || m.length != 32 + leAt m 14 2 ||
          decide (8192 < leAt m 14 2) || (cls != 0 && (d.wtnState == 0 || leAt m 4 2 != d.wtnAddr || lnk.isNone)) then disc
      else if 4 < cls then d
      else
        let x : WtnRx := { port := f.port, tick := f.tick, ts := f.ts, smac := e.src, sip := u.sip, tci := e.tci, msg := m }
        if cls = 2 || cls = 3 then
          let i := lnk.getD 0
          let isM := cls == 3
          if isM && d.wtn.cut.contains i then d
          else
            let n := if isM then d.fld .wtn 0 (0x404 + 16 * i) 23 16 else d.fld .wtn 0 (0x404 + 16 * i) 31 24
            match (List.range n).find? fun k => !(d.link i).used.contains (isM, k) with
            | none => disc
            | some k =>
              let d := d.busStore lk .wtn (d.slotAddr i isM k) m
              let d := d.modLink i fun l => { l with used := l.used ++ [(isM, k)] }
              { d with wtn := { d.wtn with wait := d.wtn.wait ++ [{ x with slot := some (i, isM, k) }] } }
        else if 16 ≤ (d.wtn.wait.filter fun y => y.slot.isNone).length then disc
        else { d with wtn := { d.wtn with wait := d.wtn.wait ++ [x] } }

/-- The device takes the next candidate and waits again (R481, R482). -/
def Dev.nextCand (d : Dev) (a : Nat) : Dev :=
  { d with wtn := { d.wtn with cand := (a + 1) % 16384, since := d.tim.tick } }

/-- Learn a route from a beacon (R485). -/
def Dev.learn (lk : Locked) (d : Dev) (m : WtnRx) (a : Nat) : Dev :=
  let at' := d.reg .wtn 0 0x134 + 2 ^ 32 * d.reg .wtn 0 0x138 + 32 * a
  let (e, _, d) := d.busBytes lk .wtn at' 32
  let w := leAt e 0 2
  if !bit w 15 then
    let w' := 2 ^ 15 + (if m.sip.length = 16 then 2 ^ 14 else 0) + (if m.tci.isSome then 2 ^ 8 else 0) + 2 ^ m.port
    let d := { d with wtn := { d.wtn with learned := insertSorted a d.wtn.learned } }
    d.busStore lk .wtn at' (leBytes 2 w' ++ leBytes 2 (m.tci.getD 0) ++ slice m.smac 0 6 ++ List.replicate 6 0 ++
      slice m.sip 0 16)
  else if d.wtn.learned.contains a && !bit w m.port then
    d.busStore lk .wtn at' (leBytes 2 (w + 2 ^ m.port) ++ e.drop 2)
  else d

/-- A beacon acts (R481, R482, R485). -/
def Dev.hearBeacon (lk : Locked) (d : Dev) (m : WtnRx) : Dev :=
  let a := leAt m.msg 2 2
  let st := leAt m.msg 32 1 % 4
  let dg := leAt m.msg 36 8
  let d := if d.flag .wtn 0 0x100 2 then d.learn lk m a else d
  if d.wtnState = 0 then
    if d.flag .wtn 0 0x100 1 && a == d.wtn.cand && (st == 1 || st == 2 || (st == 0 && decide (dg < d.digest))) then d.nextCand a
    else d
  else if a != d.wtnAddr then d
  else if d.wtnState = 1 then
    if st == 2 || (st == 1 && decide (dg ≤ d.digest)) then
      let d := ((d.setFld .wtn 0 0x104 17 16 0).nextCand a).sticky .wtn 0 4
      d.post .wtn 0 0x09 2 0 (layout 20 [(0, 2, a), (8, 8, dg)])
    else d
  else if st == 2 then (d.sticky .wtn 0 4).post .wtn 0 0x09 3 0 (layout 20 [(0, 2, a)])
  else d

/-- A GATHER message acts (R492). -/
def Dev.hearGather (lk : Locked) (d : Dev) (i : Nat) (m : List Byte) : Dev :=
  let late := d.bump .wtn 0 0x15C 1
  let l := leAt m 18 1 % 8
  let k := bits (leAt m 18 1) 5 4
  match (List.range 32).find? fun c => d.splitEn c && d.fld .wtn 0 (splitOff c) 15 0 == leAt m 16 2 with
  | none => late
  | some c =>
    let s := d.absSlot (ceMu (d.activeCell false c)) (leAt m 20 4)
    if decide (d.splitNl c ≤ l) || !(d.others c).contains k || d.splitLink c k != i || reached d.ns (d.gatherTimes c s l).2 ||
        (decide (2 ≤ s) && !reached d.ns (d.gatherTimes c (s - 2) l).2) then late
    else
      let lh := leAt m 29 1 % 8
      let o := 8192 * leAt m 24 2
      let data := m.drop 32
      let total := leAt m 26 2 * (leAt m 28 1 % 128 + 1) * 64 * lh
      let g := d.gather c s l
      let d := d.setGather { g with got := g.got ++ [(k, leAt m 24 2, total)] }
      let w := 64 * lh
      let b := d.gatherBuf c s l
      if w = 0 then d
      else (List.range (ceilDiv data.length w + 1)).foldl (fun d r =>
        -- the part of the payload that lies in row r of those it touches
        let row := o / w + r
        let lo := max o (row * w)
        let hi := min (o + data.length) (row * w + w)
        if hi ≤ lo then d
        else d.busStore lk .wtn (rowAddr b (d.splitD c) lh k row + (lo - row * w)) (slice data (lo - o) (hi - lo))) d

/-- A MIRROR message acts (R495). -/
def Dev.hearMirror (lk : Locked) (d : Dev) (i : Nat) (m : List Byte) : Dev :=
  let l := d.link i
  let q := leAt m 8 4
  let d := if q = l.rxSeq then d
    else ((d.bump .wtn 0 0x16C 1).sticky .wtn 0 3).post .wtn 0 0x09 7 0
      (layout 20 [(0, 2, d.linkPeer i), (4, 4, l.rxSeq), (8, 4, q)])
  let d := d.modLink i fun l => { l with rxSeq := (q + 1) % 2 ^ 32, applied := some q }
  let off := d.reg .wtn 0 0x228 + 2 ^ 32 * d.reg .wtn 0 0x22C
  (List.range (leAt m 22 2)).foldl (fun d j =>
    let a := (leAt m 16 5 + 64 * j + off) % 2 ^ 40
    if decide (d.fld .wtn 0 0x220 27 0 ≤ a / 4096) && decide (a / 4096 ≤ d.fld .wtn 0 0x224 27 0) then
      d.busStore lk .wtn a (slice m (32 + 64 * j) 64) (bit (leAt m 1 1) 0)
    else d.bump .wtn 0 0x170 1) d

/-- Credits that a message returns become available (R487). -/
def Dev.takeCredits (d : Dev) (i : Nat) (m : List Byte) : Dev :=
  let o := 0x408 + 16 * i
  let d := d.setFld .wtn 0 o 15 8 (min 255 (d.fld .wtn 0 o 15 8 + leAt m 12 1))
  d.setFld .wtn 0 o 7 0 (min 255 (d.fld .wtn 0 o 7 0 + leAt m 13 1))

/-- An admitted message acts and its slot is freed (R479, R487). -/
def Dev.wtnAct (lk : Locked) (d : Dev) (x : WtnRx) : Dev :=
  let m := x.msg
  let cls := leAt m 0 1 % 16
  let d := d.bump .wtn 0 0x154 1
  if cls = 0 then d.hearBeacon lk x
  else
    match d.linkTo (leAt m 2 2) with
    | none => d
    | some i =>
      let d := d.takeCredits i m
      let d := match cls with
        | 2 => d.hearGather lk i m
        | 3 => d.hearMirror lk i m
        | 4 =>
          if d.wtn.pair.any fun p => p.1 == i then
            d.unpair.post .wtn 0 0x09 9 0 (layout 20 [(0, 2, d.linkPeer i)])
          else d
        | _ => d
      match x.slot with
      | none => d
      | some (i, isM, k) => d.modLink i fun l =>
        let l := { l with used := l.used.filter (· != (isM, k)) }
        if isM then { l with owedM := l.owedM + 1, sinceM := if l.owedM = 0 then d.tim.tick else l.sinceM }
        else { l with owedG := l.owedG + 1, sinceG := if l.owedG = 0 then d.tim.tick else l.sinceG }

/-- The engine at an admission point: the messages stamped early enough act in the order of their time-stamps, ties by
port (R479, R511). -/
def Dev.wtnAdmit (lk : Locked) (d : Dev) : Dev :=
  let ready := d.wtn.wait.filter fun f => decide (f.tick + 8 ≤ d.tim.tick)
  let rest := d.wtn.wait.filter fun f => !decide (f.tick + 8 ≤ d.tim.tick)
  let order (a b : WtnRx) : Bool :=
    if a.ts = b.ts then decide (a.port ≤ b.port)
    else if a.ts / 2 ^ 32 = b.ts / 2 ^ 32 then decide (a.ts < b.ts) else laterThan (b.ts / 2 ^ 32) (a.ts / 2 ^ 32)
  (sortBy order ready).foldl (fun d m => d.wtnAct lk m) { d with wtn := { d.wtn with wait := rest } }

/-! ## Beacons, addresses, credits -/

/-- BEACON: at the end of each 100 ms from ENABLE a beacon waits on each usable port of WTN_PORTS (R480). -/
def effBeacon (d : Dev) : Dev :=
  if !d.wtnOn || !d.elapsed d.wtn.beat 100000000 then d
  else
    let beat := d.wtn.beat + (d.tim.tick - d.wtn.beat) / 78125000 * 78125000
    let ps := (List.range 8).filter fun p => bit (d.reg .wtn 0 0x110) p && d.linkOn p && !d.wtn.beacons.contains p
    { d with wtn := { d.wtn with beacons := d.wtn.beacons ++ ps, beat := beat } }

/-- Ethernet address of the beacon group (RFC 1112, RFC 2464). -/
def Dev.wtnMcast (d : Dev) : List Byte :=
  let ip := [0, 1, 2, 3].flatMap fun i => leBytes 4 (d.reg .wtn 0 (0x124 + 4 * i))
  if d.flag .wtn 0 0x100 3 then beBytes 2 0x3333 ++ slice ip 12 4
  else beBytes 3 0x01005E ++ beBytes 3 (beNat (slice ip 1 3) % 2 ^ 23)

/-- Send the beacon of a port (R480). -/
def Dev.sendBeacon (d : Dev) (port : Nat) : Dev :=
  let src := if d.wtnState = 0 then d.wtn.cand else d.wtnAddr
  let mp := match d.wtn.pair with | some (_, p) => 2 ^ 15 + p | none => 0
  let msg := layout 48 [(0, 1, 16), (2, 2, src), (6, 2, d.reg .wtn 0 0x108), (14, 2, 16), (32, 1, d.wtnState), (34, 2, mp),
    (36, 8, d.digest)]
  let ip := [0, 1, 2, 3].flatMap fun i => leBytes 4 (d.reg .wtn 0 (0x124 + 4 * i))
  let (free, d) := d.draw
  let f := d.wtnDatagram port free d.wtnMcast ip none msg
  let d := { d with wtn := { d.wtn with beacons := removeAll port d.wtn.beacons } }
  ((d.bump .wtn 0 0x150 1).bump .eth port 0x134 1).emit (.frame port f (d.stampOut port))

/-- ADDR_HELD: 300 ms without a conflicting beacon (R481). -/
def effAddrHeld (d : Dev) : Dev :=
  if d.wtnOn && d.flag .wtn 0 0x100 1 && d.wtnState == 0 && d.elapsed d.wtn.since 300000000 then
    let d := d.setReg .wtn 0 0x104 (2 ^ 16 + d.wtn.cand)
    d.post .wtn 0 0x09 1 0 (layout 20 [(0, 2, d.wtn.cand)])
  else d

/-- CREDIT on link `i`: 8 credits of one kind, or a credit of 2 µs, are owed (R487). -/
def effCredit (i : Nat) (d : Dev) : Dev :=
  let l := d.link i
  let due := decide (8 ≤ l.owedG) || decide (8 ≤ l.owedM) || (decide (0 < l.owedG) && d.elapsed l.sinceG 2000) ||
    (decide (0 < l.owedM) && d.elapsed l.sinceM 2000)
  if d.wtnOn && d.linkValid i && due && !(d.wtn.tx.any fun m => m.link == i && m.cls == 1) then
    d.wtnQueue { link := i, cls := 1 }
  else d

/-- The Waten frame that port `port` sends next, if any is ready: CREDIT, TAKEOVER, GATHER, MIRROR, BEACON; beacons alone
while the device holds no address (R481, R482, R484). -/
def Dev.wtnTransmit (port : Nat) (d : Dev) : Option Dev :=
  let d := d.wtnSweep
  let held := d.wtnState != 0
  let mine (cls : Nat) (m : WtnTx) : Bool := held && m.cls == cls && d.hasCredit m.link cls && d.wtnPort m.link cls m.midx == some port
  let same (a b : WtnTx) : Bool := a.link == b.link && a.cls == b.cls && a.midx == b.midx && a.req == b.req
  match [1, 4, 2].findSome? fun cls => d.wtn.tx.find? (mine cls) with
  | some m =>
    let d := { d with wtn := { d.wtn with tx := d.wtn.tx.eraseIdx ((d.wtn.tx.findIdx? (same m)).getD 0) } }
    some ((d.wtnSend port m.link m.cls false m.body m.payload).reqStep m.req)
  | none =>
    let mir := match d.wtn.pair with
      | some (i, _) => if held && d.hasCredit i 3 && d.wtnPort i 3 0 == some port then (d.nextMir).map fun x => (i, x) else none
      | none => none
    match mir with
    | some (i, k, p, bs, d) =>
      some (d.wtnSend port i 3 p (layout 16 [(0, 5, 64 * k), (6, 2, bs.length / 64)]) bs)
    | none => if d.wtn.beacons.contains port then some (d.sendBeacon port) else none

/-! ## Registers that act (R486, R498) -/

/-- A write of WTN_CTRL (R498); ENABLE starts the engine with its address or its candidate (R481). -/
def Dev.wtnCtrl (d : Dev) (v : Nat) : Dev :=
  let on := d.wtnOn
  let d := d.setFld .wtn 0 0x100 3 2 (v / 4)
  if on then if bit v 1 == d.flag .wtn 0 0x100 1 then d else d.err .wtn 0 errState 0x100
  else
    let d := d.setFld .wtn 0 0x100 1 1 (v / 2)
    if !bit v 0 then d
    else
      let d := d.setFld .wtn 0 0x100 0 0 1
      let d := { d with wtn := { d.wtn with beat := d.tim.tick } }
      if bit v 1 then { d with wtn := { d.wtn with cand := d.digest % 16384, since := d.tim.tick } }
      else d.setFld .wtn 0 0x104 17 16 2

/-- LINK_WRITE: word `k` (0 VALID and PEER, 1 credits) of link entry `i` (R483, R486, R498). -/
def effLinkWrite (i k v : Nat) (lk : Locked) (d : Dev) : Dev :=
  let o := 0x400 + 16 * i
  if k = 0 then
    if d.linkValid i then
      if bit v 31 then d.err .wtn 0 errState o
      else
        let reqs := (d.wtn.tx.filter fun m => m.link == i).map (·.req)
        let d := { d with wtn := { d.wtn with
          tx := d.wtn.tx.filter fun m => m.link != i
          mirq := if d.wtn.pair.any (fun (p : Nat × Nat) => p.1 == i) then [] else d.wtn.mirq
          wait := d.wtn.wait.filter fun (m : WtnRx) => !(m.slot.any fun (s : Nat × Bool × Nat) => s.1 == i) } }
        let d := (d.modLink i fun _ => {}).setReg .wtn 0 o (v &&& 0x3FFF)
        reqs.foldl (fun d r => d.reqStep r) (d.setReg .wtn 0 (o + 8) 0)
    else
      let d := d.setReg .wtn 0 o (v &&& 0x80003FFF)
      if !bit v 31 then d
      else
        let (e, _, d) := d.busBytes lk .wtn (d.reg .wtn 0 0x134 + 2 ^ 32 * d.reg .wtn 0 0x138 + 32 * (v % 16384)) 32
        let d := d.modLink i fun _ => { route := e }
        let d := { d with wtn := { d.wtn with cut := removeAll i d.wtn.cut } }
        d.setReg .wtn 0 (o + 8) (d.reg .wtn 0 (o + 4) % 65536)
  else if d.linkValid i then d.err .wtn 0 errState (o + 4)
  else d.setReg .wtn 0 (o + 4) v

/-- A credit hold of 10 µs: the job that holds credits of the peer of link `i` is aborted, its credits return, each named
by an event, and its unsent messages are dropped (R409, R488). -/
def effCreditBroken (i : Nat) (d : Dev) : Dev :=
  let peer := d.linkPeer i
  match d.sch.credits.find? fun x => x.1 == peer && d.elapsed x.2.2 10000 with
  | none => d
  | some (_, j, _) =>
    let reqs := (d.wtn.reqs.filter fun r => r.job == j).map (·.num)
    let jid := ((d.job? j).map fun b => leAt b.desc 0 4).getD 0
    let peers := ((d.sch.credits.filter fun x => x.2.1 == j).map (·.1)).eraseDups
    let d := { d with
      wtn := { d.wtn with
        tx := d.wtn.tx.filter fun m => !(m.req.any reqs.contains)
        reqs := d.wtn.reqs.filter fun r => r.job != j }
      sch := { d.sch with credits := d.sch.credits.filter fun (x : Nat × Nat × Nat) => x.2.1 != j } }
    let d := peers.foldl (fun d p =>
      (d.bump .sem 0 0x110 1).post .sch 0 0x02 2 0 (layout 20 [(0, 2, 0x8000 + p), (4, 4, jid)])) d
    d.askEnd j (.aborted 4)

end Sys2Proof.Machine
end

