-- ==== Sys2Proof/Machine/Eth.lean ====
section
/-! DEFINITION. The Ethernet ports: links, received frames and where they go, the slow path, and the transmit arbiter
(R442 to R459, R471 to R473; 15_fronthaul_and_time.md). -/

namespace Sys2Proof.Machine

/-! ## Links -/

/-- The port's link goes down: its status and the sticky bit (R471). A SyncE output that it drives stops (R470),
and Waten messages that are left without a port are not sent (R484). -/
def effLinkDown (n : Nat) (d : Dev) : Dev :=
  if !d.flag .eth n 0x104 0 then d
  else
    let was := d.syncRuns
    let d := (d.setFld .eth n 0x104 2 0 0).sticky .eth n 0
    let d := if d.wtnOn then d.wtnSweep else d
    if was == d.syncRuns then d else d.emit (.pin "SYNCE_OUT" d.syncRuns)

/-- LINK_UP: auto-negotiation and training of a present, enabled port are complete (R443, R471). -/
def effLinkUp (n : Nat) (d : Dev) : Dev :=
  if d.ethPresent n && d.flag .eth n 0x100 0 then
    let was := d.syncRuns
    let d := d.setFld .eth n 0x104 2 0 7
    if was == d.syncRuns then d else d.emit (.pin "SYNCE_OUT" d.syncRuns)
  else d

/-- A write of ETH_CTRL: ENABLE only once ETH_MODE is locked (R444, R471); clearing it takes the link down. -/
def Dev.ethCtrl (d : Dev) (n v : Nat) : Dev :=
  if !d.ethPresent n then d
  else
    let d := d.setFld .eth n 0x100 2 1 (v / 2)
    if !bit v 0 then (effLinkDown n d).setFld .eth n 0x100 0 0 0
    else if d.flag .eth 0 0x180 31 then d.setFld .eth n 0x100 0 0 1
    else d.err .eth n errState 0x100

/-- A secure write of ETH_MODE (R444, R472). -/
def Dev.ethModeWrite (d : Dev) (v : Nat) : Dev :=
  if d.flag .eth 0 0x180 31 then d.err .eth 0 errState 0x180 else d.setReg .eth 0 0x180 (v &&& 0x80000033)

/-! ## Reception (R445 to R448) -/

/-- A count and a sticky bit of a port. -/
def Dev.ethCount (d : Dev) (n off st : Nat) : Dev := (d.bump .eth n off 1).sticky .eth n st

/-- Does the destination belong to the port (R445)? -/
def Dev.ethMine (d : Dev) (n : Nat) (dst : List Byte) : Bool :=
  dst == d.macOf n || dst == List.replicate 6 0xFF || dst == beBytes 6 0x011B19000000 || dst == beBytes 6 0x0180C200000E ||
    (d.wtnOn && dst == d.wtnMcast)

/-- The U-plane sections from byte `o` on: rb and symInc 0 and each section inside the payload, for a stream of NPRB
`nprb`, width `m` and compression header `hdr` (R289, R447). -/
def uSectionsOk (nprb m : Nat) (hdr : Bool) (bs : List Byte) : Nat → Nat → Bool
  | 0, _ => true
  | f + 1, o =>
    if bs.length = o then true
    else if bs.length < o + 4 then false
    else
      let h := beNat (slice bs o 4)
      let cnt := if bits h 17 8 = 0 && bits h 7 0 = 0 then nprb else bits h 7 0
      let c := leAt bs (o + 4) 1
      let w := if hdr then (if c / 16 = 0 then 16 else c / 16) else m
      let o' := o + (if hdr then 6 else 4) + cnt * bfpBytes w
      !bit h 19 && !bit h 18 && decide (o' ≤ bs.length) && uSectionsOk nprb m hdr bs f o'

/-- The checks of the common header and, for type 0, of the U-plane headers; the answer is the message without padding
(R447). `min` says that the frame has the minimum length. DESIGN CHOICE: where the eAxC is that of no enabled stream, the
length of its sections is not known, and the first section header alone is checked (log 114). -/
def Dev.ecpriCheck (d : Dev) (b : List Byte) (min : Bool) : Option (List Byte) :=
  let n := beNat (slice b 2 2) + 4
  let typ := leAt b 1 1
  let m := b.take n
  let sizeOk := n == b.length || (min && decide (n ≤ b.length))
  let seqOk := !(typ == 0 || typ == 2) || leAt b 7 1 == 0x80
  let secOk :=
    if typ ≠ 0 then true
    else
      let first := leAt b 8 1
      !bit first 7 && bits first 6 4 == 1 && decide (16 ≤ n) &&
        (match d.rxStream (beNat (slice b 4 2)) with
         | some (_, se) =>
           uSectionsOk (ceNprb (d.activeCell false (bits (leAt se 0 2) 12 8))) (seM se) (seHdr se) m m.length 12
         | none => !bit (beNat (slice b 12 4)) 19 && !bit (beNat (slice b 12 4)) 18)
  if 4 ≤ b.length && leAt b 0 1 / 16 == 1 && !bit (leAt b 0 1) 0 && sizeOk && seqOk && secOk then some m else none

/-- The ingress buffer of a port: its part of 1.5 MiB (R448). -/
def Dev.ingressRoom (d : Dev) (n : Nat) : Nat :=
  1572864 / portsOf d.ethMode - ((d.rxc.ingress.filter fun f => f.port == n).map (·.bytes.length)).foldl (· + ·) 0

/-- Base of the slow-path region of a port (R458). -/
def Dev.spBase (d : Dev) (n : Nat) : Nat := d.reg .eth n 0x150 + 2 ^ 32 * d.fld .eth n 0x154 7 0

/-- A frame bound for the slow path (R446, R458, R459). -/
def Dev.slowPath (lk : Locked) (d : Dev) (n ts : Nat) (bs : List Byte) : Dev :=
  if !d.flag .eth n 0x100 1 then d.bump .eth n 0x130 1
  else
    let wr := d.reg .eth n 0x158
    if 2016 < bs.length || (wr + 2 ^ 32 - d.reg .eth n 0x15C) % 2 ^ 32 = 256 then d.ethCount n 0x138 4
    else
      let a := d.spBase n + wr % 256 * 2048
      let d := d.busStore lk (.eth n) (a + 32) bs
      let d := d.busStore lk (.eth n) a (layout 32 [(0, 2, bs.length), (4, 4, ts % 2 ^ 32), (8, 4, ts / 2 ^ 32)])
      d.setReg .eth n 0x158 ((wr + 1) % 2 ^ 32)

/-- FRAME_RECEIVE: a frame with its FCS has arrived at port `n`; its first bit after the delimiter was captured `age`
ticks ago (R445 to R449). With the classifier or the Waten engine disabled, what goes to it goes no further (R314, R498).
-/
def effFrameReceive (n age : Nat) (bs : List Byte) (lk : Locked) (d : Dev) : Dev :=
  if !d.linkOn n then d
  else if bs.length < 64 || 9216 < bs.length || leAt bs (bs.length - 4) 4 != crc32 (bs.take (bs.length - 4)) then
    d.ethCount n 0x124 1
  else
    let fr := bs.take (bs.length - 4)
    let f := ethParse fr
    let other := d.bump .eth n 0x130 1
    if !d.ethMine n f.dst || (f.tci.isSome && f.typ == 0x8100) then other
    else
      let d := d.bump .eth n 0x120 1
      let other := d.bump .eth n 0x130 1
      let ts := d.stampIn n age
      let udp := udpParse f
      let ports (l : List Nat) : Bool := udp.any fun u => l.contains u.dport
      if f.typ = 0xAEFE then
        if leAt f.body 1 1 = 5 then d.slowPath lk n ts fr
        else match d.ecpriCheck f.body (bs.length == 64) with
          | none => d.ethCount n 0x12C 3
          | some m =>
            if !d.flag .fhc 0 0x100 0 then d
            else if d.ingressRoom n < m.length then d.ethCount n 0x128 2
            else
              let x : Ingress := { port := n, tick := d.tim.tick, ts := ts / 2 ^ 32, bytes := m }
              { d with rxc := { d.rxc with ingress := d.rxc.ingress ++ [x] } }
      else if f.typ = 0x8808 && leAt f.body 0 1 = 0 && leAt f.body 1 1 = 1 then other
      else if f.typ = 0x88F7 || ports [319, 320] then d.slowPath lk n ts fr
      else if ports [d.fld .wtn 0 0x10C 31 16] then
        if !d.wtnOn then d
        else
        let x : WtnFrame := { port := n, tick := d.tim.tick, ts := ts, bytes := fr }
        { d with wtn := { d.wtn with frames := d.wtn.frames ++ [x] } }
      else if d.flag .eth n 0x100 2 then d.slowPath lk n ts fr
      else other

/-! ## Transmission (R452, R459) -/

/-- Does a frame start before another: C-plane before U-plane, the lower cell first, then by symbol and stream row (R22, R333,
R452)? -/
def TxFrame.before (a b : TxFrame) : Bool :=
  let key (x : TxFrame) : List Nat := [x.prec, x.cell, x.slot, x.sym, x.row]
  ((key a).zip (key b)).foldr (fun x r => decide (x.1 < x.2) || (x.1 == x.2 && r)) false

/-- The fronthaul frame that port `n` sends next, of those that are ready and whose window has not closed; none while the
grid stands (R333, R452, R466). -/
def Dev.nextFrame (d : Dev) (n : Nat) : Option Nat :=
  let ready := d.txc.frames.zipIdx.filter fun p => d.gridOn && p.1.port == n && decide (p.1.ready ≤ d.tim.tick) &&
    p.1.close.all fun t => !reached d.ns t
  (ready.foldl (fun (b : Option (TxFrame × Nat)) p =>
    match b with
    | none => some p
    | some q => if p.1.before q.1 then some p else b) none).map (·.2)

/-- The frame of higher precedence than the slow path that port `n` would send, with the state after it (R452). -/
def Dev.arbiter (d : Dev) (n : Nat) : Option Dev :=
  match d.nextFrame n with
  | some i =>
    let bs := ((d.txc.frames[i]?).map (·.bytes)).getD []
    let d := { d with txc := { d.txc with frames := d.txc.frames.eraseIdx i } }
    some ((d.bump .eth n 0x134 1).emit (.frame n bs (d.stampOut n)))
  | none => if d.wtnOn then d.wtnTransmit n else none

/-- FRAME_TRANSMIT: the arbiter of port `n` starts its next frame of the chains or of the Waten engine; messages without a
usable port go (R452, R484). -/
def effFrameTransmit (n : Nat) (d : Dev) : Dev :=
  if d.linkOn n then (d.arbiter n).getD (if d.wtnOn then d.wtnSweep else d) else d

/-- SLOW_PATH_TX: port `n` sends the next slot of its transmit ring, when nothing of higher precedence is ready (R452,
R458, R459). -/
def effSlowPathTx (n : Nat) (lk : Locked) (d : Dev) : Dev :=
  let rd := d.reg .eth n 0x164
  if !d.linkOn n || !d.flag .eth n 0x100 1 || rd = d.reg .eth n 0x160 || (d.arbiter n).isSome || d.lpWaits (d.spBase n) then d
  else
    let a := d.spBase n + 0x80000 + rd % 256 * 2048
    let (h, _, d) := d.busBytes lk (.eth n) a 32
    let len := leAt h 0 2
    let req := bit (leAt h 2 1) 0
    let bad := decide (len < 60) || decide (2016 < len)
    let ts := d.stampOut n
    let d :=
      if bad then d
      else
        let (bs, _, d) := d.busBytes lk (.eth n) (a + 32) len
        (d.bump .eth n 0x134 1).emit (.frame n (bs ++ leBytes 4 (crc32 bs)) ts)
    let d :=
      if bad then d.busStore lk (.eth n) a (layout 32 [(0, 2, len), (2, 1, b2n req + 4)])
      else if req then
        d.busStore lk (.eth n) a (layout 32 [(0, 2, len), (2, 1, 3), (4, 4, ts % 2 ^ 32), (8, 4, ts / 2 ^ 32)])
      else d
    d.setReg .eth n 0x164 ((rd + 1) % 2 ^ 32)

end Sys2Proof.Machine
end

