-- ==== Sys2Proof/Machine/MemCmd.lean ====
section
/-! DEFINITION. What the memory controller and the Commons do of themselves and the writes of their registers that act
(R238 to R240, R418 to R441, R518 to R520). -/

namespace Sys2Proof.Machine

/-! ## The frame of the traffic classes (R238 to R240) -/

/-- The class with the largest credit, the lowest of them on ties (R238). -/
def topClass (c : List Int) : Nat :=
  (List.range 3).foldl (fun b i => if c.getD b 0 < c.getD i 0 then i else b) 0

/-- The owners of the next `k` positions of a frame with the shares `sh`, from the credits `c` (R238). -/
def frameFrom (sh : List Int) : Nat → List Int → List Nat
  | 0, _ => []
  | k + 1, c =>
    let c := c.zipWith (· + ·) sh
    let t := topClass c
    t :: frameFrom sh k (c.modify t (· - 20))

/-- Owners of the 20 positions of a frame (R238). -/
def frameOf (rd wr rm : Nat) : List Nat := frameFrom [(rd : Int), wr, rm] 20 [0, 0, 0]

/-- Is MEM_SHARE locked (R240)? -/
def Locked.isLocked (lk : Locked) : Bool := bit lk.share.toNat 31

/-- READ, WRITE and REMOTE of a value of MEM_SHARE (R240). -/
def shareOf (v : Nat) : Nat × Nat × Nat := (bits v 4 0, bits v 12 8, bits v 20 16)

/-- The shares in force: the reset values until MEM_SHARE is locked (R240). -/
def Locked.shares (lk : Locked) : Nat × Nat × Nat := if lk.isLocked then shareOf lk.share.toNat else (11, 5, 4)

/-- Each class has at least one slot and the three sum to 20 (R240). -/
def sharesValid (s : Nat × Nat × Nat) : Bool :=
  decide (1 ≤ s.1) && decide (1 ≤ s.2.1) && decide (1 ≤ s.2.2) && decide (s.1 + s.2.1 + s.2.2 = 20)

/-- The class that owns the present slot of a channel (R238). -/
def Dev.owner (d : Dev) (lk : Locked) (ch : Nat) : Nat :=
  let s := lk.shares
  (frameOf s.1 s.2.1 s.2.2).getD (d.ms.pos.toList.getD ch 0) 0

/-- The earliest burst that the owner may start: of its class on its channel, with no earlier burst to the same beat
(R239, R429). -/
def nextBurst (ch cls : Nat) : List Burst → List Burst → Option (Burst × List Burst)
  | _, [] => none
  | before, b :: l =>
    if b.chan == ch && b.cls == cls && !(before.any fun e => e.beat == b.beat) then some (b, before ++ l)
    else nextBurst ch cls (before ++ [b]) l

/-- A soft error strikes what is stored, and every read from then on finds it until the unit is written (R422, R433,
R434): array 0 LPDDR5X, whose code covers the beat, 1 the lines and 2 the windows of the Commons, 3 the chain tables, all
by 8-byte word; 4 the ingress buffer of the classifier, by frame and its 64-byte beat as 64·frame + beat; 5 the staging
slots of the decoder engines, by engine, place and beat of the span as 4,096·engine + 1,024·place + beat, which marks the
block (DESIGN CHOICE, log 111). -/
def Dev.softError (d : Dev) (e : Nat × Nat × Bool) : Dev :=
  let (arr, w, bad) := e
  match arr with
  | 0 => { d with ms := { d.ms with lp := d.ms.lp.strike (w / 8 * 8) 8 bad } }
  | 1 => { d with ms := { d.ms with cm := d.ms.cm.strike w 1 bad } }
  | 2 => { d with ms := { d.ms with win := d.ms.win.strike w 1 bad } }
  | 3 => { d with tbl := d.tbl.strike w 1 bad }
  | 4 =>
    if !bad then d
    else { d with rxc := { d.rxc with ingress := d.rxc.ingress.modify (w / 64) fun f => { f with bad := f.bad ++ [w % 64] } } }
  | _ =>
    if !bad then d
    else
      let hit (b : Blk) : Blk := { b with span := b.span.map fun s => (s.1, s.2.set (w % 1024) true) }
      let l := d.fec.eng.toList.getD (w / 4096) []
      if (l[w / 1024 % 4]?).all (·.span.isNone) then d
      else
        let d := { d with fec := { d.fec with eng := d.fec.eng.setIfInBounds (w / 4096) (l.modify (w / 1024 % 4) hit) } }
        let fresh := (l[w / 1024 % 4]?).all fun b => b.span.all fun s => !s.2.any id
        let d := if fresh then (d.bump .fec 0 0x12C 1).sticky .fec 0 0 else d
        d.errFree .fec 0 errEcc

/-- MEMORY_BURST: soft errors strike as `errs` says; then the present slot of channel `ch` passes to its owner, whose
earliest burst starts (R239). -/
def effMemoryBurst (ch : Nat) (errs : List (Nat × Nat × Bool)) (lk : Locked) (d : Dev) : Dev :=
  let d := errs.foldl (fun d e => d.softError e) d
  if !(d.flag .mem 0 0x100 0 && d.flag .mem 0 0x104 0) then d
  else
    let own := d.owner lk ch
    let d := { d with ms := { d.ms with pos := d.ms.pos.setIfInBounds ch ((d.ms.pos.toList.getD ch 0 + 1) % 20) } }
    match nextBurst ch own [] d.ms.bursts with
    | none => d
    | some (_, rest) => { d with ms := { d.ms with bursts := rest } }

/-! ## Refresh (R431) -/

/-- Refresh at the RATE 1 timing: by RATE or because of temperature (R431). -/
def Dev.fastRefresh (d : Dev) : Bool := d.flag .mem 0 0x100 2 || d.flag .mem 0 0x104 1

/-- Refreshes of a frame (R431). -/
def Dev.refreshes (d : Dev) : Nat := if d.fastRefresh then 64 else 32

/-- Offset of refresh `k` from the frame boundary in MEM_CLK, ⌊4,687.5k⌋ or ⌊2,343.75k⌋ (R431). -/
def Dev.refreshAt (d : Dev) (k : Nat) : Nat := if d.fastRefresh then 9375 * k / 4 else 9375 * k / 2

/-- Tick at which the free-running frame in force began (R431). -/
def Dev.freeStart (d : Dev) : Nat :=
  match d.ms.refNext with
  | some t => if t ≤ d.tim.tick then t else d.ms.refStart
  | none => d.ms.refStart

/-- The refresh frame in force: its number and its age in ns. The grid gives it once the grid has begun, numbered by
subframe and 125 µs boundary; else it is the free-running frame. Between the end of the grid and the start of the
free-running frame the last frame of the grid goes on (R431). -/
def Dev.refreshFrame (d : Dev) : (Bool × Nat) × Nat :=
  match d.sinceSub with
  | some x => ((true, 8 * d.tim.sub + x / 125000), x % 125000)
  | none =>
    let start := d.freeStart
    if d.tim.tick < start then (d.ms.refFrame, 125000 - min 125000 ((start - d.tim.tick) * 128 / 100))
    else
      let t := (d.tim.tick - start) * 128 / 100
      ((false, start + 2 ^ 64 * (t / 125000)), t % 125000)

/-- REFRESH: every channel refreshes at the next scheduled offset of the frame (R431). -/
def effRefresh (d : Dev) : Dev :=
  if !d.flag .mem 0 0x100 0 then d
  else
    let f := d.refreshFrame
    let k := if f.1 = d.ms.refFrame then d.ms.refDone else 0
    if k < d.refreshes && decide (5 * d.refreshAt k ≤ 6 * f.2) then
      { d with ms := { d.ms with refFrame := f.1, refDone := k + 1 } }
    else d

/-- Does a refresh frame start in this tick: has its boundary come since the last one (R431, R465)? -/
def Dev.frameStarts (d : Dev) : Bool :=
  match d.sinceSub with
  | some x => decide (x % 125000 < (d.tim.ns + 2 ^ 32 - d.tim.prev % 2 ^ 32) % 2 ^ 32)
  | none => decide (d.freeStart ≤ d.tim.tick) && decide ((d.tim.tick - d.freeStart) * 128 % 12500000 < 128)

/-- HOTREF: the controller has read temperature `t` (S8 °C) of package `k`; at a 125 µs boundary and above 85 °C at RATE 0
it takes up the RATE 1 timing (R431, R437, R438, R441). -/
def effHotref (k t : Nat) (d : Dev) : Dev :=
  if d.pwr.held then d else
  let d := (List.range 4).foldl (fun d i => d.setReg .mch (4 * k + i) 0x110 (t % 256)) d
  if d.flag .mem 0 0x100 0 && !d.fastRefresh && decide (85 < toS 8 t) && d.frameStarts then
    ((d.setFld .mem 0 0x104 1 1 1).sticky .mem 0 2).post .mem 0 0x07 1 0 (layout 20 [(0, 1, k), (1, 1, t)])
  else d

/-! ## Registers that act -/

/-- A secure write of MEM_CTRL: while ENABLE is set its writes of RATE and MAP are ignored and counted, whatever they
write (R437). -/
def Dev.memCtrl (d : Dev) (lk : Locked) (v : Nat) : Dev :=
  if d.flag .mem 0 0x100 0 then d.err .mem 0 errState 0x100
  else
    let d := d.setFld .mem 0 0x100 2 1 (bits v 2 1)
    if !bit v 0 then d
    else if !lk.isLocked then d.err .mem 0 errState 0x100
    else
      { d.setFld .mem 0 0x100 0 0 1 with
        ms := { d.ms with refStart := d.tim.tick, refNext := none, refFrame := (false, 0), refDone := 0 } }

/-- A secure write of MEM_SHARE (R240). -/
def memShare (v : Nat) (lk : Locked) (d : Dev) : Locked × Dev :=
  if lk.isLocked then (lk, d.err .mem 0 errState 0x180)
  else if bit v 31 && !sharesValid (shareOf v) then (lk, d.err .mem 0 errValue 0x180)
  else ({ lk with share := BitVec.ofNat 32 (v &&& 0x801F1F1F) }, d)

/-- A secure write of CMN_CTRL: at ENABLE window ways read as zero and cache ways are empty (R423, R439). -/
def Dev.cmnCtrl (d : Dev) (v : Nat) : Dev :=
  if bit v 0 && !d.flag .cmn 0 0x100 0 then
    { d.setReg .cmn 0 0x100 1 with ms := { d.ms with win := {}, cm := {}, lines := [] } }
  else d

/-- A secure write of word `k` (0 RGN_BASE, 1 RGN_LIMIT, 2 RGN_ATTR) of region descriptor `r` (R425). -/
def Dev.rgnWrite (d : Dev) (p : Page) (r k v : Nat) : Dev :=
  let o := 0x400 + 16 * r + 4 * k
  let en := d.flag p 0 0x100 0
  if k = 2 then
    if !en then d.setReg p 0 o (v &&& 0x80000003)
    else
      let d := d.setFld p 0 o 0 0 v
      if d.reg p 0 o = v &&& 0x80000003 then d else d.err p 0 errState o
  else if !en then d.setReg p 0 o (v % 2 ^ 28)
  else if d.reg p 0 o = v % 2 ^ 28 then d else d.err p 0 errState o

/-- The page whose header or registers lie at a BAR0 offset and is one of those whose header reads normally in either
world (R519). -/
def headerReads (off : Nat) : Bool := off < 0x00C || (decide (0x040 ≤ off) && decide (off < 0x100))

/-- CROSSING_ACCESS: an access of requester `q` to address `a` of the device map or, from the host, of BAR0; where it is a
non-secure access to a secure target it is answered as R519 says and logged as R520 says. -/
def effCrossingAccess (q : Req) (wr bar0 : Bool) (a : Nat) (lk : Locked) (d : Dev) : Dev :=
  let answer (d : Dev) : Dev := if wr || q != .host then d else d.emit (.readData [0, 0, 0, 0] false)
  if bar0 then
    match pageAtIndex (a / 4096) with
    | none => d
    | some (p, n) =>
      if q == .host && pageThere lk p n && d.openTo .nonsecure p && d.secure p n && (wr || !headerReads (a % 4096)) then
        answer (d.cross q wr true a)
      else d
  else if d.worldOf q == .nonsecure && d.secureAddr (d.target lk q a) then answer (d.cross q wr false a)
  else d

end Sys2Proof.Machine
end

