-- ==== Sys2Proof/Machine/RegRead.lean ====
section
/-! DEFINITION. Reads of BAR0: the capability entries, the registers that a unit computes, and the reads that clear or
latch (R10 to R12, R461, R590 to R601; 21_register_map.md). -/

namespace Sys2Proof.Machine

/-! ## The header and the capability entries (R591, R595 to R598) -/

/-- First word of a capability entry. -/
def capWord (next ver id : Nat) : Nat := next * 2 ^ 24 + ver * 2 ^ 16 + id

/-- Word `w` of the PAGES entry (R597). -/
def pagesWord (lk : Locked) (w : Nat) : Nat :=
  (List.range 32).foldl (fun m i =>
    match pageAtIndex (32 * w + i) with
    | some (p, n) => if pageThere lk p n then m + 2 ^ i else m
    | none => m) 0

/-- Does the page carry a NUMERIC entry (R598)? -/
def Page.numeric : Page → Bool
  | .plt | .wsh | .hch | .rxc | .txc => true
  | _ => false

/-- SOURCE code of a page that carries an EVENTS entry (R554, R598). -/
def Page.source : Page → Option Nat
  | .core => some 1 | .sch => some 2 | .kvp => some 3 | .rxc => some 4 | .txc => some 5 | .rsv => some 6 | .mem => some 7
  | .tim => some 8 | .wtn => some 9 | .sec => some 0x0A | .pci => some 0x0B
  | _ => none

/-- The device list of the DEV page (R597). -/
def devCap (lk : Locked) (d : Dev) (o : Nat) : Nat :=
  let en := lk.coreEn
  match o with
  | 0x040 => capWord 0x13 1 1
  | 0x044 => 0x6A570048
  | 0x048 => 0x10
  | 0x04C => capWord 0x15 1 2
  | 0x050 => 8 * 2 ^ 16 + ((List.range 8).filter (bit en ·)).length * 2 ^ 8 + en
  | 0x054 => capWord 0x17 1 3
  | 0x058 => 0x1F * 2 ^ 16 + ([2200, 1900, 1600, 2200, 2200] : List Nat).getD d.point 0
  | 0x05C => capWord 0x1A 1 4
  | 0x060 => 16 * 2 ^ 16 + 64
  | 0x064 => 16 * 2 ^ 16 + 9600
  | 0x068 => capWord 0x1D 1 5
  | 0x06C => 256 * 2 ^ 16 + 32
  | 0x070 => 16384 * 2 ^ 16 + 16384
  | 0x074 => capWord 0x1F 1 6
  | 0x078 => 0x1FFF
  | 0x07C => capWord 0x21 1 7
  | 0x080 => 0x12248
  | 0x084 => capWord 0 1 8
  | _ => if 0x088 ≤ o ∧ o ≤ 0x0B4 then pagesWord lk ((o - 0x088) / 4) else 0

/-- A word of a page's capability entries (R598). -/
def capRead (lk : Locked) (d : Dev) (p : Page) (o : Nat) : Nat :=
  if p = .dev then devCap lk d o
  else
    match p.numeric, p.source with
    | true, none => if o = 0x040 then capWord 0 1 0x0101 else if o = 0x044 then 0x1C0 else 0
    | true, some s =>
      if o = 0x040 then capWord 0x12 1 0x0101 else if o = 0x044 then 0x1C0
      else if o = 0x048 then capWord 0 1 0x0102 else if o = 0x04C then s else 0
    | false, some s => if o = 0x040 then capWord 0 1 0x0102 else if o = 0x044 then s else 0
    | false, none => 0

/-- BLK_CAP.HEAD (R591, R598). -/
def Page.head (p : Page) : Nat := if p = .dev || p.numeric || p.source.isSome then 0x10 else 0

/-- IRQ_RAW: each bit follows its sticky bit; in the SEM page bit 0 follows every bit of SEM_BROKEN (R417, R592). -/
def Dev.irqRaw (d : Dev) (p : Page) (n : Nat) : Nat :=
  if p = .sem then b2n (d.reg .sem 0 0x108 != 0 || d.reg .sem 0 0x10C != 0)
  else
    let (off, raw) := p.sticky
    raw.zipIdx.foldl (fun m x => if d.flag p n off x.1 then m + 2 ^ x.2 else m) 0

/-- Bits of IRQ_RAW that are not reserved. -/
def Page.rawBits (p : Page) : Nat := if p = .sem then 1 else 2 ^ p.sticky.2.length - 1

/-! ## Registers that a unit computes -/

/-- State of core `c` as SCH_CORE_STATE shows it. Before a grade record is applied, which enables six to eight cores, no core
is disabled by one (R414, R530). -/
def Dev.coreState (d : Dev) (lk : Locked) (c : Nat) : Nat :=
  let x := d.core c
  if lk.coreEn ≠ 0 && !bit lk.coreEn c then 7
  else if x.ending then 6
  else
    match x.job.bind d.job? with
    | none => 0
    | some j => if x.state = 4 then 5 else j.cls + 1

/-- CORE_STATUS (R105). -/
def CoreSt.status (x : CoreSt) : Nat := x.runLc * 2 ^ 24 + x.stall * 2 ^ 16 + x.hosted * 2 ^ 8 + x.state

/-- A mask of the descriptors of the running logical core. -/
def CoreSt.descMask (x : CoreSt) (f : DescSt → Bool) : Nat :=
  if x.job.isNone then 0
  else x.run.gln.descs.toList.zipIdx.foldl (fun m y => if f y.1 then m + 2 ^ y.2 else m) 0

/-- PLT_STATUS; `ovc` says that the running logical core's bundle waits refused (R151). -/
def PlateSt.status (s : PlateSt) (ovc : Bool) : Nat :=
  let pend (half : Bool) : Bool := s.passes.any fun p => decide (p.phase = .pending) && (p.cmd.tand && p.cmd.half) == half
  s.passes.length * 2 ^ 8 + 32 * b2n s.ballast + 16 * b2n s.tandem + 8 * b2n (pend true) + 4 * b2n (pend false) +
    2 * b2n ovc + b2n (!s.passes.isEmpty)

/-- PLT_ACCM (R151). -/
def PlateSt.accm (s : PlateSt) : Nat :=
  s.tiles.toList.zipIdx.foldl (fun m t => m + b2n t.1.rel.isSome * 2 ^ (16 + t.2) + b2n t.1.claimed * 2 ^ t.2) 0

/-- WSH_STATUS (R179); `wait` is its WAIT bit while a command executes. -/
def WashSt.status (s : WashSt) (wait : Bool) : Nat :=
  (match s.exec with | some c => c.opc * 2 ^ 8 + c.lc * 2 ^ 5 + 1 | none => 0) + s.queue.length * 4 + 2 * b2n (s.exec.isSome && wait)

/-- HCH_STATUS (R207); `wait` is its FROZEN bit while an operation that accesses memory is in flight. -/
def CoreSt.hchStatus (x : CoreSt) (wait : Bool) : Nat :=
  let h := if x.job.isNone then {} else x.run.hatch
  h.rbase % 32 * 2 ^ 19 + x.htb.length * 2 ^ 17 + b2n (x.htb.any (·.started)) * 2 ^ 16 + b2n ((!h.pend.isEmpty || !x.htb.isEmpty) && wait) * 2 ^ 15 +
    h.tbw % 2048

/-- SEM_OWNER of semaphore `k` (R416). -/
def SemSt.owner (s : SemSt) : Nat :=
  (match s.holder with | some h => 2 ^ 31 + h.2.1 * 8 + h.2.2 | none => 0) + s.waiters.length * 2 ^ 8

/-- Word `k` of the mask of held semaphores. -/
def Dev.semHeld (d : Dev) (k : Nat) : Nat :=
  (List.range 32).foldl (fun m i => if ((d.sems.toList.getD (32 * k + i) {}).holder).isSome then m + 2 ^ i else m) 0

/-- Value of a stored register, without the fields that read as zero (R11, R12). -/
def Dev.stored (d : Dev) (p : Page) (n o : Nat) : Nat :=
  match p.row n o with
  | none => 0
  | some r => d.reg p n o &&& (r.rw ||| r.rws ||| r.w1c ||| r.rc ||| r.ro)

/-- Value of the register at page offset `o`, as a read of the whole word returns it. -/
def Dev.regValue (d : Dev) (lk : Locked) (p : Page) (n o : Nat) : Nat :=
  if o = 0 then p.type * 2 ^ 16 + n * 2 ^ 8 + 1
  else if o = 4 then p.head
  else if o = 0x018 then d.irqRaw p n
  else if 0x040 ≤ o ∧ o < 0x100 then capRead lk d p o
  else if o < 0x100 then d.stored p n o
  else
    match p, o with
    | .tim, 0x100 => d.tim.frac
    | .tim, 0x104 => d.tim.latch
    | .tim, 0x144 => ofS 32 d.corr
    | .tim, 0x148 => ofS 32 d.tim.integ
    | .tim, 0x150 => d.timGrid
    | .mem, 0x180 => lk.share.toNat
    | .sec, 0x10C => lk.coreEn
    | .fec, 0x10C => d.fecStatus
    | .sch, 0x10C => d.point * 2 ^ 9 + d.fld .pwr 0 0x100 8 0
    | .sch, 0x120 => (List.range 8).foldl (fun m c => m + d.coreState lk c * 16 ^ c) 0
    | .sem, 0x100 => d.semHeld 0
    | .sem, 0x104 => d.semHeld 1
    | .core, 0x100 => (d.core n).status
    | .core, 0x104 => (d.core n).run.pc
    | .core, 0x118 => (d.core n).cyc % 2 ^ 32
    | .gln, 0x100 => (d.core n).descMask fun x => !x.idle
    | .gln, 0x104 => (d.core n).descMask fun x => x.pend.isSome
    | .plt, 0x100 => (d.core n).plate.status ((d.core n).run.ovcWait)
    | .plt, 0x104 => (d.core n).plate.accm
    | .wsh, 0x100 => (d.core n).wash.status (Config.portWait n d.tim.tick)
    | .hch, 0x100 => (d.core n).hchStatus (Config.portWait (8 + n) d.tim.tick)
    | .stl, 0x100 => (d.core n).run.gln.stile.length
    | .eth, _ =>
      if !d.ethPresent n then 0 else d.stored .eth n o
    | .sem, _ => if 0x200 ≤ o ∧ o < 0x300 then (d.sems.toList.getD ((o - 0x200) / 4) {}).owner else d.stored .sem n o
    | _, _ => d.stored p n o

/-- What reading a word does to the machine: RC fields clear when the whole word is read, and the reads of R105 and R461
latch (R10, R12). -/
def Dev.readEffect (d : Dev) (p : Page) (n o : Nat) (full : Bool) : Dev :=
  match p, o with
  | .tim, 0x100 => { d with tim := { d.tim with latch := d.tim.ns } }
  | .core, 0x118 => d.setReg .core n 0x11C ((d.core n).cyc / 2 ^ 32 % 2 ^ 32)
  | _, _ =>
    match p.row n o with
    | none => d
    | some r =>
      if !full || r.rc = 0 || (p == .eth && decide (0x100 ≤ o) && !d.ethPresent n) then d
      else d.setReg p n o (d.reg p n o &&& (0xFFFFFFFF - r.rc))

/-- A read from world `w` of the aligned word at BAR0 offset `a`: its value, and the state after it (R519, R530, R536,
R590). -/
def Dev.wordRead (d : Dev) (lk : Locked) (w : World) (a : Nat) (full : Bool) : Nat × Dev :=
  let here := (pageAtIndex (a / 4096)).filter fun (x : Page × Nat) => pageThere lk x.1 x.2
  match here with
  | none => (0, if d.stage == 3 && w == .nonsecure then d else d.err .dev 0 errUnmapped a)
  | some (p, n) =>
    let o := a % 4096
    if !d.openTo w p then (0, d)
    else if w == .nonsecure && d.secure p n && !headerReads o then (0, d.cross .host false true a)
    else (d.regValue lk p n o, d.readEffect p n o full)

/-- Does the endpoint answer an access from world `w` at all (R534, R562, R578)? -/
def Dev.answers (d : Dev) (w : World) : Bool :=
  !d.pwr.held && (w == .secure || (!d.pwr.pcieHeld && d.pci.linkUp && (d.stage == 2 || d.stage == 3)))

/-- The aligned words that `n` bytes at `a` touch, each with whether all four of its bytes are covered (R10). -/
def wordsOf (a n : Nat) : List (Nat × Bool) :=
  (rangeFrom (a / 4) ((a + n + 3) / 4 - a / 4)).map fun k => (4 * k, decide (a ≤ 4 * k) && decide (4 * k + 4 ≤ a + n))

/-- A read of `n` bytes of BAR0 at offset `a` from world `w` (R10). -/
def Dev.barRead (d : Dev) (lk : Locked) (w : World) (a n : Nat) : Dev :=
  if !d.answers w then d
  else
    let r := (wordsOf a n).foldl (fun (s : List Byte × Dev) x =>
      let (v, d) := s.2.wordRead lk w x.1 x.2
      (s.1 ++ leBytes 4 v, d)) ([], d)
    r.2.emit (.readData (slice r.1 (a % 4) n) false)

/-- A read of `n` bytes of BAR4 at offset `a`: the MSI-X table and the PBA; every other offset reads zero (R555, R557). -/
def Dev.bar4Read (d : Dev) (a n : Nat) : Dev :=
  if !d.answers .nonsecure then d
  else
    let byte (i : Nat) : Byte :=
      if d.stage == 3 then 0
      else if 0xF0000 ≤ i ∧ i < 0xF1000 then
        BitVec.ofNat 8 (d.msixWord ((i - 0xF0000) / 16) ((i - 0xF0000) / 4 % 4) / 256 ^ (i % 4))
      else if 0xF1000 ≤ i ∧ i < 0xF1020 then
        BitVec.ofNat 8 ((List.range 8).foldl (fun m k => if d.pci.pba.contains (8 * (i - 0xF1000) + k) then m + 2 ^ k else m) 0)
      else 0
    d.emit (.readData ((rangeFrom a n).map byte) false)

/-- TIM_NOW_FRAC_READ: a read of TIM_NOW_FRAC returns the fraction and latches the nanoseconds of the same tick (R461). -/
def effTimNowFracRead (w : World) (lk : Locked) (d : Dev) : Dev := d.barRead lk w (Page.base .tim 0 + 0x100) 4

/-- CORE_CYC_LO_READ: a read of CORE_CYC_LO of core `c` returns the low word and latches the high one (R105). -/
def effCoreCycLoRead (w : World) (c : Nat) (lk : Locked) (d : Dev) : Dev :=
  d.barRead lk w (Page.base .core c + 0x118) 4

/-- RC_READ: a read of `n` bytes at offset `a` of BAR0, or of BAR4 with `bar4` (R10, R12). -/
def effRcRead (w : World) (bar4 : Bool) (a n : Nat) (lk : Locked) (d : Dev) : Dev :=
  if bar4 then d.bar4Read a n else d.barRead lk w a n

/-- I3C_READ: the four bytes of the PWR register at the offset that the last two-byte write set, low byte first; a read
through I3C clears nothing, and reads zero where no register stands (R582). -/
def effI3cRead (lk : Locked) (d : Dev) : Dev :=
  if d.pwr.held then d
  else
    let v : Nat := match d.pwr.i3c with
      | some o => if o % 4 = 0 ∧ o < 4096 then d.regValue lk .pwr 0 o else 0
      | none => 0
    d.emit (.readData (leBytes 4 v) false)

end Sys2Proof.Machine
end

