-- ==== Sys2Proof/Machine/Crypto.lean ====
section
/-! DEFINITION. The published functions that Imond computes: SHA-384 and SHA-256 (FIPS 180-4), ECDSA P-384 verification
(FIPS 186-5), and LMS verification (RFC 8554 under NIST SP 800-208), as R525 names them. Log 8. -/

namespace Sys2Proof.Machine

/-! ## SHA-2 -/

/-- Round constants of SHA-384. -/
def sha512K : List Nat :=
  [0x428A2F98D728AE22, 0x7137449123EF65CD, 0xB5C0FBCFEC4D3B2F, 0xE9B5DBA58189DBBC,
    0x3956C25BF348B538, 0x59F111F1B605D019, 0x923F82A4AF194F9B, 0xAB1C5ED5DA6D8118,
    0xD807AA98A3030242, 0x12835B0145706FBE, 0x243185BE4EE4B28C, 0x550C7DC3D5FFB4E2,
    0x72BE5D74F27B896F, 0x80DEB1FE3B1696B1, 0x9BDC06A725C71235, 0xC19BF174CF692694] ++
  [0xE49B69C19EF14AD2, 0xEFBE4786384F25E3, 0x0FC19DC68B8CD5B5, 0x240CA1CC77AC9C65,
    0x2DE92C6F592B0275, 0x4A7484AA6EA6E483, 0x5CB0A9DCBD41FBD4, 0x76F988DA831153B5,
    0x983E5152EE66DFAB, 0xA831C66D2DB43210, 0xB00327C898FB213F, 0xBF597FC7BEEF0EE4,
    0xC6E00BF33DA88FC2, 0xD5A79147930AA725, 0x06CA6351E003826F, 0x142929670A0E6E70] ++
  [0x27B70A8546D22FFC, 0x2E1B21385C26C926, 0x4D2C6DFC5AC42AED, 0x53380D139D95B3DF,
    0x650A73548BAF63DE, 0x766A0ABB3C77B2A8, 0x81C2C92E47EDAEE6, 0x92722C851482353B,
    0xA2BFE8A14CF10364, 0xA81A664BBC423001, 0xC24B8B70D0F89791, 0xC76C51A30654BE30,
    0xD192E819D6EF5218, 0xD69906245565A910, 0xF40E35855771202A, 0x106AA07032BBD1B8] ++
  [0x19A4C116B8D2D0C8, 0x1E376C085141AB53, 0x2748774CDF8EEB99, 0x34B0BCB5E19B48A8,
    0x391C0CB3C5C95A63, 0x4ED8AA4AE3418ACB, 0x5B9CCA4F7763E373, 0x682E6FF3D6B2B8A3,
    0x748F82EE5DEFB2FC, 0x78A5636F43172F60, 0x84C87814A1F0AB72, 0x8CC702081A6439EC,
    0x90BEFFFA23631E28, 0xA4506CEBDE82BDE9, 0xBEF9A3F7B2C67915, 0xC67178F2E372532B] ++
  [0xCA273ECEEA26619C, 0xD186B8C721C0C207, 0xEADA7DD6CDE0EB1E, 0xF57D4F7FEE6ED178,
    0x06F067AA72176FBA, 0x0A637DC5A2C898A6, 0x113F9804BEF90DAE, 0x1B710B35131C471B,
    0x28DB77F523047D84, 0x32CAAB7B40C72493, 0x3C9EBE0A15C9BEBC, 0x431D67C49C100D4C,
    0x4CC5D4BECB3E42B6, 0x597F299CFC657E2A, 0x5FCB6FAB3AD6FAEC, 0x6C44198C4A475817]

/-- Initial value of SHA-384. -/
def sha384H : List Nat :=
  [0xCBBB9D5DC1059ED8, 0x629A292A367CD507, 0x9159015A3070DD17, 0x152FECD8F70E5939,
    0x67332667FFC00B31, 0x8EB44A8768581511, 0xDB0C2E0D64F98FA7, 0x47B5481DBEFA4FA4]

/-- Round constants of SHA-256. -/
def sha256K : List Nat :=
  [0x428A2F98, 0x71374491, 0xB5C0FBCF, 0xE9B5DBA5, 0x3956C25B, 0x59F111F1, 0x923F82A4, 0xAB1C5ED5,
    0xD807AA98, 0x12835B01, 0x243185BE, 0x550C7DC3, 0x72BE5D74, 0x80DEB1FE, 0x9BDC06A7, 0xC19BF174] ++
  [0xE49B69C1, 0xEFBE4786, 0x0FC19DC6, 0x240CA1CC, 0x2DE92C6F, 0x4A7484AA, 0x5CB0A9DC, 0x76F988DA,
    0x983E5152, 0xA831C66D, 0xB00327C8, 0xBF597FC7, 0xC6E00BF3, 0xD5A79147, 0x06CA6351, 0x14292967] ++
  [0x27B70A85, 0x2E1B2138, 0x4D2C6DFC, 0x53380D13, 0x650A7354, 0x766A0ABB, 0x81C2C92E, 0x92722C85,
    0xA2BFE8A1, 0xA81A664B, 0xC24B8B70, 0xC76C51A3, 0xD192E819, 0xD6990624, 0xF40E3585, 0x106AA070] ++
  [0x19A4C116, 0x1E376C08, 0x2748774C, 0x34B0BCB5, 0x391C0CB3, 0x4ED8AA4A, 0x5B9CCA4F, 0x682E6FF3,
    0x748F82EE, 0x78A5636F, 0x84C87814, 0x8CC70208, 0x90BEFFFA, 0xA4506CEB, 0xBEF9A3F7, 0xC67178F2]

/-- Initial value of SHA-256. -/
def sha256H : List Nat :=
  [0x6A09E667, 0xBB67AE85, 0x3C6EF372, 0xA54FF53A, 0x510E527F, 0x9B05688C, 0x1F83D9AB, 0x5BE0CD19]

/-- `x` rotated right by `r` in `w` bits. -/
def rotr (w r x : Nat) : Nat := (x >>> r) ||| ((x <<< (w - r)) % 2 ^ w)

/-- The parameters of one function of the family: word bits, rounds' constants, the rotations of Σ0, Σ1, σ0 and σ1. -/
structure Sha where
  w : Nat
  k : List Nat
  big0 : List Nat
  big1 : List Nat
  small0 : List Nat
  small1 : List Nat
  deriving DecidableEq, Repr

/-- SHA-384. -/
def sha384P : Sha := ⟨64, sha512K, [28, 34, 39], [14, 18, 41], [1, 8, 7], [19, 61, 6]⟩

/-- SHA-256. -/
def sha256P : Sha := ⟨32, sha256K, [2, 13, 22], [6, 11, 25], [7, 18, 3], [17, 19, 10]⟩

/-- Σ: the XOR of three rotations. -/
def Sha.rot3 (p : Sha) (r : List Nat) (x : Nat) : Nat := r.foldl (fun a n => a ^^^ rotr p.w n x) 0

/-- σ: the XOR of two rotations and a shift. -/
def Sha.rot2s (p : Sha) (r : List Nat) (x : Nat) : Nat :=
  rotr p.w (r.getD 0 0) x ^^^ rotr p.w (r.getD 1 0) x ^^^ (x >>> r.getD 2 0)

/-- The message schedule, last word first, after `n` more words. -/
def Sha.extend (p : Sha) : Nat → List Nat → List Nat
  | 0, ws => ws
  | n + 1, ws =>
    let x := (p.rot2s p.small1 (ws.getD 1 0) + ws.getD 6 0 + p.rot2s p.small0 (ws.getD 14 0) + ws.getD 15 0) % 2 ^ p.w
    p.extend n (x :: ws)

/-- One round on the eight working words. -/
def Sha.round (p : Sha) (v : List Nat) (kw : Nat × Nat) : List Nat :=
  match v with
  | [a, b, c, d, e, f, g, h] =>
    let ch := (e &&& f) ^^^ ((2 ^ p.w - 1 - e) &&& g)
    let maj := (a &&& b) ^^^ (a &&& c) ^^^ (b &&& c)
    let t1 := h + p.rot3 p.big1 e + ch + kw.1 + kw.2
    let t2 := p.rot3 p.big0 a + maj
    [(t1 + t2) % 2 ^ p.w, a, b, c, (d + t1) % 2 ^ p.w, e, f, g]
  | _ => v

/-- One block of sixteen words. -/
def Sha.block (p : Sha) (h ws : List Nat) : List Nat :=
  let sched := (p.extend (p.k.length - 16) ws.reverse).reverse
  let v := (p.k.zip sched).foldl p.round h
  h.zipWith (fun a b => (a + b) % 2 ^ p.w) v

/-- The padded message in words of the function. -/
def Sha.words (p : Sha) (m : List Byte) : List Nat :=
  let wb := p.w / 8
  let blk := 16 * wb
  let pad := (2 * blk - (m.length + 1 + 2 * wb) % blk) % blk
  let b := m ++ [0x80] ++ List.replicate pad 0 ++ beBytes (2 * wb) (8 * m.length)
  (List.range (b.length / wb)).map fun i => beNat (slice b (wb * i) wb)

/-- The digest words of a message from the initial value `h`. -/
def Sha.run (p : Sha) (h : List Nat) (m : List Byte) : List Nat :=
  let ws := p.words m
  (List.range (ws.length / 16)).foldl (fun h i => p.block h ((ws.drop (16 * i)).take 16)) h

/-- SHA-384. -/
def sha384 (m : List Byte) : List Byte := ((sha384P.run sha384H m).take 6).flatMap fun x => beBytes 8 x

/-- SHA-256. -/
def sha256 (m : List Byte) : List Byte := (sha256P.run sha256H m).flatMap fun x => beBytes 4 x

/-! ## ECDSA P-384 -/

/-- Field prime of P-384. -/
def p384P : Nat := 2 ^ 384 - 2 ^ 128 - 2 ^ 96 + 2 ^ 32 - 1
/-- Order of P-384. -/
def p384N : Nat := 0xFFFFFFFFFFFFFFFFFFFFFFFFFFFFFFFFFFFFFFFFFFFFFFFFC7634D81F4372DDF581A0DB248B0A77AECEC196ACCC52973
/-- Coefficient b of P-384. -/
def p384B : Nat := 0xB3312FA7E23EE7E4988E056BE3F82D19181D9C6EFE8141120314088F5013875AC656398D8A2ED19D2A85C8EDD3EC2AEF
/-- Base point of P-384. -/
def p384G : Nat × Nat :=
  (0xAA87CA22BE8B05378EB1C71EF320AD746E1D3B628BA79B9859F741E082542A385502F25DBF55296C3A545E3872760AB7,
   0x3617DE4A96262C6F5D9E98BF9292DC29F8F41DBD289A147CE9DA3113B5F0B8C00A60B1CE1D7E819D7A431D7C90EA0E5F)

/-- `b ^ e` modulo `m` over `k` exponent bits. -/
def powMod (m : Nat) : Nat → Nat → Nat → Nat
  | 0, _, _ => 1 % m
  | k + 1, b, e =>
    let r := powMod m k (b * b % m) (e / 2)
    if e % 2 = 1 then r * b % m else r

/-- Inverse modulo a 384-bit prime. -/
def invMod (m a : Nat) : Nat := powMod m 384 (a % m) (m - 2)

/-- Sum of two affine points of P-384, none for the point at infinity. -/
def p384Add (x y : Option (Nat × Nat)) : Option (Nat × Nat) :=
  match x, y with
  | none, q => q
  | p, none => p
  | some (x1, y1), some (x2, y2) =>
    let p := p384P
    if x1 = x2 ∧ (y1 + y2) % p = 0 then none
    else
      let l := if x1 = x2 then (3 * x1 * x1 + p - 3) * invMod p (2 * y1) % p
        else (y2 + p - y1) * invMod p (x2 + p - x1) % p
      let x3 := (l * l + 2 * p - x1 - x2) % p
      some (x3, (l * (x1 + p - x3) + p - y1) % p)

/-- `k` times a point over `n` bits. -/
def p384Mul : Nat → Nat → Option (Nat × Nat) → Option (Nat × Nat)
  | 0, _, _ => none
  | n + 1, k, q =>
    let r := p384Mul n (k / 2) (p384Add q q)
    if k % 2 = 1 then p384Add q r else r

/-- ECDSA P-384 with SHA-384: does the 96-byte signature `sig` over `m` verify with the 96-byte public key `key` (R524,
R525)? -/
def ecdsaOk (key m sig : List Byte) : Bool :=
  let qx := beNat (slice key 0 48)
  let qy := beNat (slice key 48 48)
  let r := beNat (slice sig 0 48)
  let s := beNat (slice sig 48 48)
  let p := p384P
  let onCurve := decide (qx < p) && decide (qy < p) && decide (qy * qy % p = (qx * qx * qx + (p - 3) * qx + p384B) % p)
  if r = 0 || p384N ≤ r || s = 0 || p384N ≤ s || !onCurve then false
  else
    let w := invMod p384N s
    let e := beNat (sha384 m)
    match p384Add (p384Mul 384 (e * w % p384N) (some p384G)) (p384Mul 384 (r * w % p384N) (some (qx, qy))) with
    | none => false
    | some (x, _) => x % p384N == r

/-! ## LMS -/

/-- Digit `i` of four bits of a string. -/
def lmsCoef (s : List Byte) (i : Nat) : Nat := let b := leAt s (i / 2) 1; if i % 2 = 0 then b / 16 else b % 16

/-- The chain of hashes from digit `a` up to 15. -/
def lmsChain (pre : List Byte) (y : List Byte) (a : Nat) : List Byte :=
  (rangeFrom a (15 - a)).foldl (fun t j => sha256 (pre ++ leBytes 1 j ++ t)) y

/-- LMS_SHA256_M32_H15 with LMOTS_SHA256_N32_W4: does the 2,668-byte signature over `m` verify with the 56-byte public key
(R524, R525; RFC 8554 clauses 4.6 and 5.4.2)? -/
def lmsOk (key m sig : List Byte) : Bool :=
  let i := slice key 8 16
  let q := beNat (slice sig 0 4)
  let typesOk := beNat (slice key 0 4) == 7 && beNat (slice key 4 4) == 3 && beNat (slice sig 4 4) == 3 &&
    beNat (slice sig 2184 4) == 7
  if !typesOk || 32768 ≤ q then false
  else
    let iq := i ++ beBytes 4 q
    let h := sha256 (iq ++ [0x81, 0x81] ++ slice sig 8 32 ++ m)
    let sum := (List.range 64).foldl (fun a k => a + (15 - lmsCoef h k)) 0
    let hc := h ++ beBytes 2 (16 * sum)
    let z := (List.range 67).flatMap fun k => lmsChain (iq ++ beBytes 2 k) (slice sig (40 + 32 * k) 32) (lmsCoef hc k)
    let kc := sha256 (iq ++ [0x80, 0x80] ++ z)
    let leaf := sha256 (i ++ beBytes 4 (32768 + q) ++ [0x82, 0x82] ++ kc)
    let root := (List.range 15).foldl (fun t j =>
      let node := (32768 + q) / 2 ^ j
      let path := slice sig (2188 + 32 * j) 32
      sha256 (i ++ beBytes 4 (node / 2) ++ [0x83, 0x83] ++ (if node % 2 = 1 then path ++ t else t ++ path))) leaf
    root == slice key 24 32

end Sys2Proof.Machine
end

