-- ==== Sys2Proof/Machine/Sec.lean ====
section
/-! DEFINITION. Imond: signed items, the records of the boot flash and the commands of SEC_HCMD (R522 to R539;
18_security_and_boot.md). -/

namespace Sys2Proof.Machine

/-! ## Signed items (R523 to R526) -/

/-- Offset and length of the first directory entry of a type. -/
def dirFind (dir : List (Nat × Nat × Nat)) (t : Nat) : Option (Nat × Nat) :=
  (dir.find? fun (e : Nat × Nat × Nat) => e.1 == t).map (·.2)

/-- The directory of the flash: the entries up to the first of TYPE 0x00; none without the magic (R523). -/
def readDir (flash : List Byte) : Option (List (Nat × Nat × Nat)) :=
  if leAt flash 0 4 != 0x38545747 then none
  else
    let es := (List.range 255).map fun i =>
      let o := 16 + 16 * i
      (leAt flash o 1, leAt flash (o + 4) 4, leAt flash (o + 8) 4)
    some (es.takeWhile fun (e : Nat × Nat × Nat) => e.1 != 0)

/-- Bytes of the item of a type, none when the directory lists none or lists it off a 4 KiB boundary (R523). -/
def itemOf (flash : List Byte) (dir : List (Nat × Nat × Nat)) (t : Nat) : Option (List Byte) :=
  match dirFind dir t with
  | none => none
  | some (o, n) => if o % 4096 = 0 then some (slice flash o n) else none

/-- BODY_LEN of an item. -/
def bodyLen (x : List Byte) : Nat := leAt x 12 4

/-- Header and body. -/
def signedPart (x : List Byte) : List Byte := slice x 0 (128 + bodyLen x)

/-- The whole item: header, body and signature block. -/
def wholeItem (x : List Byte) : List Byte := slice x 0 (128 + bodyLen x + 2764)

/-- `n` bytes at offset `o` of the body of a vendor-signed item, after the keys of R526. -/
def vendorBody (x : List Byte) (o n : Nat) : List Byte := slice x (128 + 152 + o) n

/-- Which BIND an item may have (R523). -/
inductive Binding where
  | bound
  | either
  deriving DecidableEq, Repr

/-- MAGIC, TYPE, the zero fields, the length and BIND (R524, R525). -/
def fieldsOk (x : List Byte) (types : List Nat) (bd : Binding) (digest : List Byte) : Bool :=
  let z := List.replicate 48 (0 : Byte)
  leAt x 0 4 == 0x4D475753 && types.contains (leAt x 4 1) && leAt x 6 2 == 0 && leAt x 64 64 == 0 &&
    decide (128 + bodyLen x + 2764 ≤ x.length) && (slice x 16 48 == digest || (bd == .either && slice x 16 48 == z))

/-- Keys of the signer: those a vendor-signed item carries when their digests match the set that SIGNER names, or the
owner's; ECDSA then LMS, 152 bytes (R526). -/
def signerKeys (x owner : List Byte) : Option (List Byte) :=
  let s := leAt x 5 1
  if s < 2 then
    let k := slice x 128 152
    if 152 ≤ bodyLen x && sha384 (k.take 96) == slice (Config.vendorDigest s 0) 0 48 &&
        sha384 (k.drop 96) == slice (Config.vendorDigest s 1) 0 48 then some k
    else none
  else if s = 2 && owner.length == 152 then some owner
  else none

/-- Does an item verify: one of the types, one of the signers, the binding, and both signatures (R525)? -/
def verifies (x : List Byte) (types signers : List Nat) (bd : Binding) (digest owner : List Byte) : Bool :=
  if !(fieldsOk x types bd digest && signers.contains (leAt x 5 1)) then false
  else
    match signerKeys x owner with
    | none => false
    | some k =>
      let m := signedPart x
      let sig := slice x (128 + bodyLen x) 2764
      ecdsaOk (k.take 96) m (sig.take 96) && lmsOk (k.drop 96) m (sig.drop 96)

/-- The identity digest (R529). -/
def Dev.idDigest (d : Dev) : List Byte := sha384 d.sec.pub

/-- Signers whose firmware the owner binding accepts (R531). -/
def Dev.fwSigners (d : Dev) : List Nat := if bit d.sec.flags 0 then [2, 0, 1] else [2]

/-- Does a firmware item verify under an accepted signer (R525, R531, R534)? -/
def Dev.fwVerifies (d : Dev) (x : List Byte) (types : List Nat) : Bool :=
  verifies x types d.fwSigners .either d.idDigest d.sec.ownerKeys

/-- VERSION of an item. -/
def itemVersion (x : List Byte) : Nat := leAt x 8 4

/-! ## SEC_HCMD (R536, R537, R540) -/

/-- `n` bytes at a BAR2 offset, none when any of them reads poisoned. -/
def Dev.mailItem (d : Dev) (lk : Locked) (a n : Nat) : Option (List Byte) × Dev :=
  let (x, ps, _, d) := d.busRead lk .imond 0 a n
  (if ps.any id then none else some x, d)

/-- The flash offset of the item of a type; the spec states none where the directory lists no such item. -/
def Dev.flashOff (d : Dev) (t : Nat) : Nat × Dev :=
  match dirFind d.sec.dir t with
  | some (o, _) => (o, d)
  | none => d.draw

/-- RESULT of a command before its flash write: the checks of R525 and of the table of R537. -/
def Dev.secCheck (d : Dev) (op : Nat) (x : List Byte) : Nat :=
  let floor := d.reg .sec 0 0x108
  let v := itemVersion x
  if op = 1 then
    if !d.fwVerifies x [if d.flag .sec 0 0x100 3 then 5 else 6] then 1 else if v < floor then 2 else 0
  else if op = 2 then
    let f := leAt x 128 4
    if bodyLen x != 4 || !verifies x [4] [2] .bound d.idDigest d.sec.ownerKeys then 1
    else if f < floor || d.reg .sec 0 0x104 < f then 2 else 0
  else if op = 3 then if verifies x [7] [2] .either d.idDigest d.sec.ownerKeys then 0 else 1
  else if !d.fwVerifies x [5, 6] then 1 else if v < floor then 2 else 0

/-- Is the command allowed in this stage: RECOVER_BOOT in RECOVERY, unless the boot stopped before the owner binding and the
floor stood; the others in RUN (R536, R537)? -/
def Dev.secAllowed (d : Dev) (op : Nat) : Bool :=
  if op = 4 then d.stage == 3 && d.fld .sec 0 0x100 15 8 == 6 else d.stage == 2

/-- A write of SEC_HCMD. -/
def Dev.secHcmd (lk : Locked) (v : Nat) (d : Dev) : Dev :=
  let op := bits v 31 28
  let len := bits v 23 0
  if d.flag .sec 0 0x14C 31 then d.err .sec 0 errState 0x148
  else if op = 0 || 4 < op || 0x800000 < len then d.err .sec 0 errValue 0x148
  else
    let start (d : Dev) (c : SecCmd) : Dev :=
      { d.setReg .sec 0 0x14C (2 ^ 31) with sec := { d.sec with cmd := some c } }
    if !d.secAllowed op then start d { op := op, result := 4, off := 0, item := [], floor := 0 }
    else
      let a := if op = 4 then 0 else d.reg .sec 0 0x140 + 2 ^ 32 * d.reg .sec 0 0x144
      let (x, d) := d.mailItem lk a len
      match x with
      | none => start d { op := op, result := 1, off := 0, item := [], floor := 0 }
      | some x =>
        let t := if op = 1 then (if d.flag .sec 0 0x100 3 then 5 else 6) else if op = 2 then 4 else 7
        let (o, d) : Nat × Dev := if op = 4 then (0, d) else d.flashOff t
        start d { op := op, result := d.secCheck op x, off := o, item := x, floor := leAt x 128 4 }

end Sys2Proof.Machine
end

