-- ==== Sys2Proof/Machine/RegWrite.lean ====
section
/-! DEFINITION. Writes of BAR0 and BAR4: what each register does when it is written, and the block reset (R10 to R12,
R516 to R521, R555, R590 to R594; 21_register_map.md). -/

namespace Sys2Proof.Machine

/-! ## The block reset (R593) -/

/-- The registers of a page that a block reset returns to their reset values. -/
def resetsReg (p : Page) (n a : Nat) : Bool :=
  let lo := p.base n
  decide (lo ≤ a) && decide (a < lo + 0x1000) &&
    (decide (lo + 0x100 ≤ a) || a == lo + 0x020 || a == lo + 0x028 || a == lo + 0x02C)

/-- Those registers at their reset values. -/
def Dev.clearRegs (d : Dev) (p : Page) (n : Nat) : Dev :=
  { d with rg := d.rg.filter fun (x : Nat × W32) => !resetsReg p n x.1 }

/-- Drop what a core's streams have brought to window `k` (R420). -/
def Dev.dropStreams (d : Dev) (k : Nat) : Dev :=
  { d with streams := (List.range 8).foldl (fun v c => v.setIfInBounds (8 * k + c) []) d.streams }

/-- Work held in the block of a page is dropped without records, events or results (R593). -/
def Dev.dropWork (d : Dev) (p : Page) (n : Nat) : Dev :=
  match p with
  | .tim =>
    let d' := { d with tim := { tick := d.tim.tick, ns := d.tim.ns, frac := d.tim.frac, prev := d.tim.prev,
                                  syncHeld := d.tim.syncHeld } }
    if d.tim.ppsHigh.isSome then d'.emit (.pin "PPS_OUT" false) else d'
  | .sch => { d with sch := { nextNum := d.sch.nextNum, nextOrder := d.sch.nextOrder } }
  | .sem => { d with sems := Vector.replicate 64 {} }
  | .det => { d with det := {} }
  | .eth =>
    let d := if d.wtnOn then d.wtnSweep else d
    if n = 0 then { d with tim := { d.tim with syncHeld := none } } else d
  | .fhc => { d with rxc := { d.rxc with ingress := [] } }
  | .rxc => { d with rxc := { ingress := d.rxc.ingress } }.dropStreams 1
  | .txc => { d with txc := {} }
  | .fec => { d with fec := {} }.dropStreams 2
  | .hq => { d with rxc := { d.rxc with complete := [] } }
  | .mem =>
    { d with
      ms := { win := d.ms.win, cm := d.ms.cm, lines := d.ms.lines, lp := Mem.undefined d.fresh }
      fresh := d.fresh + 1 }
  | .cmn => { d with ms := { d.ms with win := {}, cm := {}, lines := [] } }
  | .kvp => { d with kvp := {} }.dropStreams 0
  | .wtn => { d with wtn := { wid := d.wtn.wid } }
  | .rsv => { d with rsv := {} }.dropStreams 3
  | .pci =>
    { d with pci := { evSeq := d.pci.evSeq, ulSeq := d.pci.ulSeq, msix := d.pci.msix, pba := d.pci.pba
                      linkUp := d.pci.linkUp } }
  | .core => d.modCore n fun x => { x with state := 0, runLc := 0, evq := [], ovc := none, cyc := 0, stall := 0, lcs := Vector.replicate 8 {} }
  | .gln => d.modCore n fun x => { x with lcs := x.lcs.map fun (l : LcSt) => { l with gln := {} } }
  | .plt => d.modCore n fun x => { x with plate := { ballast := x.plate.ballast } }
  | .wsh => d.modCore n fun x => { x with wash := {} }
  | .hch => d.modCore n fun x => { x with htb := [],
                                          lcs := x.lcs.map fun (l : LcSt) => { l with hatch := {} } }
  | .stl => d.modCore n fun x => { x with stileCount := 0 }
  | .dev | .cru | .pwr | .sec | .irq | .mch | .spd | .dbg => d

/-- Is a BLK_RESET write carried out (R593)? -/
def Dev.resetAllowed (d : Dev) (lk : Locked) (p : Page) (n : Nat) : Bool :=
  match p with
  | .dev | .sec | .pwr | .cru => false
  | .tim => !d.gridOn
  | .sch => d.sch.jobs.isEmpty
  | .core | .gln | .plt | .wsh | .hch | .spd | .dbg | .stl => d.coreState lk n == 0
  | _ => true

/-- A write of 1 to BLK_RESET.GO. A locked ETH_MODE stays as it is until device reset (R472). -/
def Dev.blkReset (d : Dev) (lk : Locked) (p : Page) (n : Nat) : Dev :=
  if !d.resetAllowed lk p n then d.err p n errState 0x00C
  else
    let mode := d.reg .eth 0 0x180
    let hot := d.flag .mem 0 0x104 1
    let was := d.syncRuns
    let d := (d.clearRegs p n).dropWork p n
    let d := if p = .eth && n == 0 && bit mode 31 then d.setReg .eth 0 0x180 mode else d
    let d := if p = .mem then
        ((List.range 16).foldl (fun d k => d.clearRegs .mch k) d).setFld .mem 0 0x104 1 1 (b2n hot)
      else d
    let d := if was && !d.syncRuns then d.emit (.pin "SYNCE_OUT" false) else d
    d.setFld p n 0x014 1 1 1

/-- BLK_RESET_DONE of the page at BAR0 page index `k`: RST_BUSY clears. -/
def effBlkResetDone (k : Nat) (d : Dev) : Dev :=
  match pageAtIndex k with
  | none => d
  | some (p, n) => if d.flag p n 0x014 1 then d.setFld p n 0x014 1 1 0 else d

/-! ## What a register write does -/

/-- The write of a register with no effect of its own: RW and RWS fields take their bits, W1C bits written as 1 clear, and
every other bit stays (R11, R12). -/
def Dev.plainWrite (d : Dev) (p : Page) (n o v : Nat) : Dev :=
  match p.row n o with
  | none => d
  | some r =>
    let set := r.rw ||| r.rws
    let old := d.reg p n o &&& (0xFFFFFFFF - set)
    d.setReg p n o ((old &&& (0xFFFFFFFF - (v &&& r.w1c))) ||| (v &&& set))

/-- A write that the block takes only while `busy` is false, and only values that are `ok` (R594). -/
def Dev.guarded (d : Dev) (p : Page) (n o v : Nat) (busy : Bool) (ok : Bool := true) : Dev :=
  if busy then d.err p n errState o else if !ok then d.err p n errValue o else d.plainWrite p n o v

/-- An enable that a write of 1 sets and only BLK_RESET clears. -/
def Dev.latchOn (d : Dev) (p : Page) (v : Nat) : Dev := if bit v 0 then d.setFld p 0 0x100 0 0 1 else d

/-- CLR: a write of NUM_CTRL (R49). -/
def Dev.numCtrl (d : Dev) (p : Page) (n v : Nat) : Dev :=
  let d := d.setFld p n 0x1C0 0 0 v
  if bit v 1 then
    (((d.setReg p n 0x1C4 0).setReg p n 0x1C8 0).setReg p n 0x1CC 0).setReg p n 0x1D0 0
  else d

/-- A write of word `o` of the route table: bytes where no page lies, none of a core that the grade record disables among
them, are reserved, and a vector 1 to 5 is ignored and
counted (R560). -/
def Dev.routeWrite (d : Dev) (lk : Locked) (o v : Nat) : Dev :=
  (List.range 4).foldl (fun d j =>
    let b := bits v (8 * j + 7) (8 * j)
    if (pageAtIndex (o - 0x400 + j)).all fun x => !pageThere lk x.1 x.2 then d
    else if 1 ≤ b ∧ b ≤ 5 then d.err .irq 0 errValue o
    else d.setFld .irq 0 o (8 * j + 7) (8 * j) b) d

/-- A write of FEC_CTRL (R368); blocks that wait for an encoder go to it with ENABLE (R359). -/
def Dev.fecCtrl (d : Dev) (v : Nat) : Dev :=
  let on := d.fecOn
  let log := min 8 (bits v 7 4)
  let d := d.setFld .fec 0 0x100 1 1 (v / 2)
  let d := if !on then d.setFld .fec 0 0x100 7 4 log
    else if d.fld .fec 0 0x100 7 4 = log then d else d.err .fec 0 errState 0x100
  (d.latchOn .fec v).encAssign

/-- A write of DET_CTRL (R513, R514); one whose ALIGN_GO is refused is ignored whole (R508). -/
def Dev.detCtrl (d : Dev) (v : Nat) : Dev :=
  if bit v 0 && !d.alignReady then effAlignGo d else
  let d := d.setFld .det 0 0x100 1 1 (v / 2)
  let d := if bit v 0 then effAlignGo d else d
  if bit v 2 then effSigClr d else d

/-- Is the offset one of the WTN registers that ENABLE = 1 freezes (R498)? -/
def wtnFrozen (o : Nat) : Bool :=
  o == 0x104 || o == 0x108 || o == 0x10C || (decide (0x114 ≤ o) && decide (o ≤ 0x140))

/-- A write of the word at offset `o` of the common header (R591, R592). -/
def Dev.headerWrite (d : Dev) (lk : Locked) (p : Page) (n o v : Nat) : Dev :=
  match o with
  | 0x008 =>
    if p = .core && d.flag .sch 0 0x100 0 then d.err .core n errState 0x008 else d.plainWrite p n o v
  | 0x00C => if bit v 0 then d.blkReset lk p n else d
  | 0x024 => d.setReg p n 0x020 (d.reg p n 0x020 ||| (v &&& p.rawBits))
  | _ => d.plainWrite p n o v

/-- A write of the block-specific word at offset `o`. -/
def Dev.blockWrite (d : Dev) (lk : Locked) (p : Page) (n o v : Nat) : Dev :=
  let on := d.flag p n 0x100 0
  match p with
  | .pwr =>
    match o with
    | 0x100 => d.pwrGov v
    | 0x104 => d.pwrDvfs v
    | 0x140 => d.thmCtrl v
    | _ => d.plainWrite p n o v
  | .sec => if o = 0x148 then d.secHcmd lk v else d.plainWrite p n o v
  | .tim =>
    match o with
    | 0x110 => d.timCtrl v
    | 0x120 | 0x14C => d.guarded p n o v d.gridOn
    | 0x138 => d.plainWrite p n o (min v 0x29F16B)
    | 0x13C => d.setReg .tim 0 0x13C (v % 65536)
    | 0x140 => effTimOffsetNs v d
    | _ => d.plainWrite p n o v
  | .irq => if 0x400 ≤ o ∧ o < 0x580 then d.routeWrite lk o v else d
  | .sch =>
    match o with
    | 0x100 => d.latchOn .sch v
    | 0x108 => { d with sch := { d.sch with aborts := d.sch.aborts ++ [v] } }
    | 0x110 | 0x114 | 0x118 | 0x11C => d.guarded p n o v false (1 ≤ v % 16 && v % 16 ≤ 8)
    | _ => d.plainWrite p n o v
  | .det =>
    match o with
    | 0x100 => d.detCtrl v
    | 0x108 => d.guarded p n o v d.gridOn (v % 1024 ≤ 1000)
    | _ => d.plainWrite p n o v
  | .eth =>
    if !d.ethPresent n then d
    else
      match o with
      | 0x100 => d.ethCtrl n v
      | 0x180 => if n = 0 then d.ethModeWrite v else d
      | 0x184 => if n = 0 then effSynceChange v d else d
      | _ => d.plainWrite p n o v
  | .rxc | .txc =>
    match o with
    | 0x100 => d.latchOn p v
    | 0x104 => if bit v 31 then effSwapGo (p == .txc) (v % 32) d else d
    | 0x1C0 => d.numCtrl p n v
    | _ => d.plainWrite p n o v
  | .plt | .wsh | .hch => if o = 0x1C0 then d.numCtrl p n v else d.plainWrite p n o v
  | .fec =>
    match o with
    | 0x100 => d.fecCtrl v
    | 0x104 | 0x110 | 0x114 => d.guarded p n o v on
    | 0x108 => d.guarded p n o (min 16 (v % 32)) on
    | _ => d.plainWrite p n o v
  | .mem =>
    if o = 0x100 then d.memCtrl lk v
    else if o = 0x108 then d.guarded p n o v on
    else if 0x400 ≤ o ∧ o < 0x600 then (if o % 16 = 12 then d else d.rgnWrite .mem ((o - 0x400) / 16) (o % 16 / 4) v)
    else d.plainWrite p n o v
  | .cmn =>
    if o = 0x100 then d.cmnCtrl v
    else if o = 0x104 ∨ o = 0x108 ∨ o = 0x10C then d.guarded p n o v on
    else if 0x400 ≤ o ∧ o < 0x480 then (if o % 16 = 12 then d else d.rgnWrite .cmn ((o - 0x400) / 16) (o % 16 / 4) v)
    else d.plainWrite p n o v
  | .kvp =>
    if o = 0x100 then (if bit v 0 then effKvpEnable lk d else d)
    else if 0x104 ≤ o ∧ o ≤ 0x128 then d.guarded p n o v on
    else if o = 0x12C then d.guarded p n o v on (v % 2 ^ 25 ≤ 2 ^ 24)
    else if o = 0x138 then d.kvpHcmd (bits v 31 28) (bits v 13 0)
    else d.plainWrite p n o v
  | .wtn =>
    if o = 0x100 then d.wtnCtrl v
    else if o = 0x144 then d.wtnHcmd v
    else if o = 0x110 then (let d := d.plainWrite p n o v; if on then d.wtnSweep else d)
    else if wtnFrozen o then d.guarded p n o v on
    else if 0x400 ≤ o ∧ o < 0x800 then
      (if o % 16 = 0 ∨ o % 16 = 4 then effLinkWrite ((o - 0x400) / 16) (o % 16 / 4) v lk d else d)
    else d.plainWrite p n o v
  | .rsv =>
    if o = 0x100 then d.latchOn .rsv v
    else if o = 0x104 then d.guarded p n o v false (bits v 15 0 < bits v 31 16)
    else if o = 0x110 ∨ o = 0x114 then d.guarded p n o v on
    else if o = 0x118 then d.rsvHcmd (bits v 31 28) (bits v 27 26) (bits v 25 17) (bits v 13 0)
    else if 0x200 ≤ o ∧ o < 0x600 ∧ o % 32 = 0 then d.guarded p n o v false (bits v 7 4 ≠ 0)
    else d.plainWrite p n o v
  | .pci =>
    if o = 0x100 then d.latchOn .pci v
    else if o = 0x1A0 ∨ o = 0x1A4 then d.guarded p n o v on
    else if o = 0x1A8 then d.guarded p n o v on (12 ≤ v % 32 && v % 32 ≤ 18)
    else if 0x200 ≤ o ∧ o < 0x2A0 then
      (match o % 32 with
       | 0 | 4 => d.guarded p n o v on
       | 8 => d.guarded p n o v on (6 ≤ v % 32 && v % 32 ≤ 16)
       | 0x14 => d.plainWrite p n o (if v % 65536 = 0 then v + 1 else v)
       | _ => d.plainWrite p n o v)
    else d.plainWrite p n o v
  | .dev | .cru | .sem | .fhc | .hq | .mch | .core | .gln | .spd | .dbg | .stl => d.plainWrite p n o v

/-- Has the register at page offset `o` RWS fields (R12)? -/
def Page.isRws (p : Page) (n o : Nat) : Bool := ((p.row n o).map fun r => r.rws != 0).getD false

/-- A write of the whole word at page offset `o` that has reached its page. A non-secure write of an RWS register is a
crossing access (R12); PWR_SWRST acts from the secure world alone (R588). -/
def regWrite (lk : Locked) (w : World) (p : Page) (n o v : Nat) (d : Dev) : Locked × Dev :=
  if w == .nonsecure && p.isRws n o then (lk, d.cross .host true true (p.base n + o))
  else if p = .mem ∧ o = 0x180 then memShare v lk d
  else if p = .pwr ∧ o = 0x128 then
    if w == .secure then pwrSwrst v lk d else (lk, d.err .pwr 0 errValue 0x128)
  else if o < 0x100 then (lk, d.headerWrite lk p n o v)
  else (lk, d.blockWrite lk p n o v)

/-- A write from world `w` to the aligned word at BAR0 offset `a`; without a value it covers the word only in part and is
counted as PARTIAL (R10, R590, R594). -/
def wordWrite (w : World) (a : Nat) (v : Option Nat) (s : Locked × Dev) : Locked × Dev :=
  let (lk, d) := s
  match pageAtIndex (a / 4096) with
  | none =>
    if d.openTo w .dev && !(d.stage == 3 && w == .nonsecure) then
      (lk, d.err .dev 0 (if v.isNone then errPartial else errUnmapped) a)
    else (lk, d)
  | some (p, n) =>
    match v with
    | none => if d.openTo w p then (lk, d.err .dev 0 errPartial a) else (lk, d)
    | some x => Dev.pageWrite lk w p n (a % 4096) (regWrite lk w p n (a % 4096) x) d

/-- The words of a write of `bs` at `a`: each aligned word with its value when it is covered whole (R10). -/
def wordParts (a : Nat) (bs : List Byte) : List (Nat × Option Nat) :=
  (wordsOf a bs.length).map fun x => (x.1, if x.2 then some (leAt bs (x.1 - a) 4) else none)

/-- A write of `bs` at BAR0 offset `a`. -/
def barWrite (w : World) (a : Nat) (bs : List Byte) (lk : Locked) (d : Dev) : Locked × Dev :=
  (wordParts a bs).foldl (fun s x => wordWrite w x.1 x.2 s) (lk, d)

/-- A write of one register of a page. -/
def writeReg (w : World) (p : Page) (n o v : Nat) (lk : Locked) (d : Dev) : Locked × Dev :=
  wordWrite w (p.base n + o) (some (v % 2 ^ 32)) (lk, d)

/-- A write of `bs` at BAR4 offset `a` by the host: the doorbells and the MSI-X table; what covers a word only in part and
every other offset is ignored (R555, R557). -/
def Dev.bar4Write (d : Dev) (a : Nat) (bs : List Byte) : Dev :=
  if !d.answers .nonsecure || d.stage == 3 then d
  else
    (wordParts a bs).foldl (fun d x =>
      match x.2 with
      | none => d
      | some v =>
        if x.1 < 0x5000 then (if x.1 % 0x1000 = 0 then d.doorbell (x.1 / 0x1000) v else d)
        else if 0xF0000 ≤ x.1 ∧ x.1 < 0xF1000 then d.msixWrite ((x.1 - 0xF0000) / 16) ((x.1 - 0xF0000) / 4 % 4) v
        else d) d

/-- REGISTER_WRITE: a write of `bs` at offset `a` of BAR0, or of BAR4 with `bar4` (R10). -/
def effRegisterWrite (w : World) (bar4 : Bool) (a : Nat) (bs : List Byte) (lk : Locked) (d : Dev) : Locked × Dev :=
  if bar4 then (lk, d.bar4Write a bs) else barWrite w a bs lk d

end Sys2Proof.Machine
end

