-- ==== Sys2Proof/Machine/State.lean ====
section
/-! DEFINITION. The machine state: the queue of commands, the parts that lock until device reset, and the device; the
reasons a step can stop; and the state after reset. -/

namespace Sys2Proof.Machine

/-- The machine. `pending` is the queue of the commands that wait, first in, first out. -/
structure State where
  pending : List Instr := []
  lk : Locked := {}
  d : Dev := {}
  deriving DecidableEq, Repr

/-- Why a step can fault. The spec answers every access of every agent, so no command of this model faults. -/
inductive Fault where
  /-- Raised by no command: the type needs a value. Safe. -/
  | unused
  deriving DecidableEq, Repr

/-- Why a step can refuse a command. -/
inductive Refusal where
  /-- Raised by the dispatch for a command that has no meaning yet; no arm of this model does. Safe. -/
  | notModelled (mnemonic : String)
  deriving DecidableEq, Repr

/-- The machine right after a device reset that has been released: every register at its reset value (R11, and the
register sections of the chapters), the queue empty, no work held. LPDDR5X, SPAD and ACCM hold undefined content (log 3).
-/
def State.reset : State := { d := Dev.fresh0 0 }

end Sys2Proof.Machine
end

