-- ==== Sys2Proof/Machine/Operands.lean ====
section
/-! DEFINITION. How a meaning acts on the state, and what the operands of the commands stand for. -/

namespace Sys2Proof.Machine

/-! ## How a meaning acts on the state -/

/-- A command that changes the device. -/
def State.onDev (s : State) (f : Dev → Dev) : State := { s with d := f s.d }

/-- A command that changes the device and asks for the shares or the grade. -/
def State.onLk (s : State) (f : Locked → Dev → Dev) : State := { s with d := f s.lk s.d }

/-- A command that may change the shares and the grade too. -/
def State.onAll (s : State) (f : Locked → Dev → Locked × Dev) : State :=
  { s with lk := (f s.lk s.d).1, d := (f s.lk s.d).2 }

/-- A command that resets the device: what locks until device reset is lost (R562). -/
def State.onReset (s : State) (f : Dev → Locked × Dev) : State := { s with lk := (f s.d).1, d := (f s.d).2 }

/-! ## Operands -/

/-- The requester with a SEC_XINFO code (R540). -/
def reqOfCode (k : Nat) : Req :=
  if k = 0 then .host
  else if k ≤ 8 then .core (k - 1)
  else match k with
    | 9 => .fhc | 10 => .rxc | 11 => .txc | 12 => .fec | 13 => .hq | 14 => .kvp | 15 => .rsv | _ => .wtn

/-- A write of register `o` of the page at BAR0 page index `page`. -/
def pageReg (w : World) (page o v : Nat) (lk : Locked) (d : Dev) : Locked × Dev :=
  wordWrite w (page * 4096 + o) (some v) (lk, d)

/-- A host command of the cache page manager: it is written to KVP_HCMD unless it waits already, and the queue runs up to
it, in order of arrival (R256, R266). -/
def effHistCmd (w : World) (op h : Nat) (c : KvpCmd) (lk : Locked) (d : Dev) : Locked × Dev :=
  let r := if d.kvp.queue.contains c then (lk, d) else writeReg w .kvp 0 0x138 (op * 2 ^ 28 + h) lk d
  match r.2.kvp.queue.findIdx? (· == c) with
  | none => r
  | some i => (r.1, Dev.kvpDrain r.1 (i + 1) r.2)

/-- A hold has reached 10 µs: 0 to 63 a semaphore, 64 + i the Waten credits of link i (R409). -/
def effHoldBroken (k : Nat) (d : Dev) : Dev := if k < 64 then effSemBroken k d else effCreditBroken (k - 64) d

/-- A doorbell of a ring (R555). -/
def Dev.ring (r v : Nat) (d : Dev) : Dev := d.doorbell r v

end Sys2Proof.Machine
end

