-- ==== Sys2Proof/Machine/CmdCore.lean ====
section
/-! DEFINITION. Commands of the Burin cores, the barriers and the semaphores (R63 to R105, R409). -/

namespace Sys2Proof.Machine

/-- BUNDLE_ISSUE (R79). `cycles` cycles have passed since the core's last command, `frozen` of them with Hatch frozen;
`imem` says that the bundle has an uncorrectable error, `corrected` how many errors were corrected and `bad` which
core-local addresses now hold uncorrectable ones. -/
def execBundleIssue (core : Fin 8) (cycles : Nat) (frozen : Nat) (imem : Bool) (corrected : Nat) (bad : List Nat) (s : State) : Host.Outcome State Fault Refusal :=
  .next (s.onDev (effBundleIssue core.val cycles frozen { imem := imem, corrected := corrected, bad := bad }))

/-- POISON_SCALAR (R102). -/
def execPoisonScalar (core : Fin 8) (s : State) : Host.Outcome State Fault Refusal :=
  .next (s.onDev (effPoisonScalar core.val))

/-- BARRIER_RELEASE (R96). `job` is the scheduler's number of the job, `seq` the SEQ of the barrier. -/
def execBarrierRelease (job : Nat) (seq : Nat) (s : State) : Host.Outcome State Fault Refusal :=
  .next (s.onLk (effBarrierRelease job seq))

/-- SEM_GRANT (R409). -/
def execSemGrant (sem : Fin 64) (s : State) : Host.Outcome State Fault Refusal :=
  .next (s.onDev (effSemGrant sem.val))

/-- SEM_BROKEN (R409). Holds 0 to 63 are semaphores, 64 + i the Waten credits of link i. -/
def execSemBroken (hold : Fin 128) (s : State) : Host.Outcome State Fault Refusal :=
  .next (s.onDev (effHoldBroken hold.val))

/-- LOGICAL_CORE_SWITCH (R100). -/
def execLogicalCoreSwitch (core : Fin 8) (s : State) : Host.Outcome State Fault Refusal :=
  .next (s.onLk (effSwitch core.val))

/-- SWITCH_RESTORE_DONE (R100). `cycles` cycles of SWITCH have passed. -/
def execSwitchRestoreDone (core : Fin 8) (cycles : Nat) (s : State) : Host.Outcome State Fault Refusal :=
  .next (s.onLk (effRestoreDone core.val cycles))

end Sys2Proof.Machine
end

