-- ==== Sys2Proof/Machine/CmdEth.lean ====
section
/-! DEFINITION. Commands of the Ethernet ports (R442 to R459, R471 to R473). -/

namespace Sys2Proof.Machine

/-- FRAME_RECEIVE (R446). The frame with its FCS; its first bit was captured `age` ticks ago. -/
def execFrameReceive (port : Fin 8) (age : Nat) (bytes : List Byte) (s : State) : Host.Outcome State Fault Refusal :=
  .next (s.onLk (effFrameReceive port.val age bytes))

/-- FRAME_TRANSMIT (R452). -/
def execFrameTransmit (port : Fin 8) (s : State) : Host.Outcome State Fault Refusal :=
  .next (s.onDev (effFrameTransmit port.val))

/-- ETH_ENABLE (R443). `v` is the value written to ETH_CTRL. -/
def execEthEnable (w : World) (port : Fin 8) (v : W32) (s : State) : Host.Outcome State Fault Refusal :=
  .next (s.onAll (writeReg w .eth port.val 0x100 v.toNat))

/-- LINK_DOWN (R473). -/
def execLinkDown (port : Fin 8) (s : State) : Host.Outcome State Fault Refusal :=
  .next (s.onDev (effLinkDown port.val))

/-- SLOW_PATH_TX (R459). -/
def execSlowPathTx (port : Fin 8) (s : State) : Host.Outcome State Fault Refusal :=
  .next (s.onLk (effSlowPathTx port.val))

/-- LINK_UP (R443). -/
def execLinkUp (port : Fin 8) (s : State) : Host.Outcome State Fault Refusal :=
  .next (s.onDev (effLinkUp port.val))

end Sys2Proof.Machine
end

