-- ==== Sys2Proof/Machine/Window.lean ====
section
/-! DEFINITION. Stile transfers as they end, and the writes of a core that a block takes: the four write-only windows
and the ready lines of gathers (R234 to R237, R254, R257, R381, R420, R491). -/

namespace Sys2Proof.Machine

/-- The logical core of core `c` whose Stile transfers come next, with its oldest one (R236). -/
def Dev.headStile (d : Dev) (c : Nat) : Option (Nat × Stile) :=
  let x := d.core c
  let lc := if x.run.gln.stile.isEmpty then (x.lcs.toList.findIdx? fun l => !l.gln.stile.isEmpty).getD 0 else x.runLc
  ((x.lcs.toList.getD lc {}).gln.stile.head?).map fun t => (lc, t)

/-- Change the list of Stile transfers of a logical core. -/
def Dev.modStile (d : Dev) (c lc : Nat) (f : List Stile → List Stile) : Dev :=
  d.modCore c fun x =>
    let l := x.lcs.toList.getD lc {}
    { x with lcs := x.lcs.setIfInBounds lc { l with gln := { l.gln with stile := f l.gln.stile } } }

/-- What a Stile write carries: its bytes and the poison of each beat of its destination (R235, R236). -/
def Dev.stileData (d : Dev) (c : Nat) (t : Stile) : List Byte × List Bool × Dev :=
  let m := (d.core c).mem
  (m.read t.loc t.len, (beatParts t.ext t.len).map fun p => m.bad (t.loc + (p.1 - t.ext)) p.2,
   d.spdUe c (m.ueAddrs t.loc t.len))

/-- The window that a Stile write lies in as a whole: its number and offset (R420). -/
def Dev.windowOf (lk : Locked) (d : Dev) (c : Nat) (t : Stile) : Option (Nat × Nat) :=
  match (d.target lk (.core c) t.ext).window, (d.target lk (.core c) (t.ext + t.len - 1)).window with
  | some (w, o, _), some (v, _, _) => if w = v && t.out then some (w, o) else none
  | _, _ => none

/-- Does a Stile write that starts below the append window reach into it? It covers some of bytes 0 to 63 of the window
together with bytes before them, and is discarded whole (R254). -/
def Dev.straddles (lk : Locked) (d : Dev) (c : Nat) (t : Stile) : Bool :=
  let w := 0x1802000000
  t.out && decide (t.ext < w) && decide (w < t.ext + t.len) &&
    !(d.worldOf (.core c) == .nonsecure && d.secureAddr (d.target lk (.core c) w))

/-- The append window takes what waits in the stream of core `c` (R254, R420). -/
def Dev.drainAppend (d : Dev) (c : Nat) : Dev :=
  let l := d.streams.toList.getD c []
  l.foldl (fun d e => d.kvpTake c e.1 e.2.1 e.2.2) { d with streams := d.streams.setIfInBounds c [] }

/-- A block takes the oldest Stile transfer of core `c`: a write that lies in window `w`, or with `w` none a ready line
(R420, R491, R519). -/
def Dev.giveStile (lk : Locked) (d : Dev) (c : Nat) (w : Option Nat) : Dev :=
  match d.headStile c with
  | none => d
  | some (lc, t) =>
    if !t.done || t.given || !t.out then d
    else
      let mark (d : Dev) : Dev := d.modStile c lc fun l => l.modify 0 fun s => { s with given := true }
      match w, d.windowOf lk c t with
      | some w, some (v, o) =>
        if w ≠ v then d
        else if d.worldOf (.core c) == .nonsecure && d.secureAddr (d.target lk (.core c) t.ext) then
          mark (d.cross (.core c) true false t.ext)
        else
          let (bs, ps, d) := d.stileData c t
          let d := mark (d.countMoved c ⟨[], [], (ps.filter id).length, 0⟩)
          let i := 8 * w + c
          let d := { d with streams := d.streams.setIfInBounds i (d.streams.toList.getD i [] ++ [(o, bs, ps)]) }
          if w = 0 then d.drainAppend c else d
      | none, none =>
        let (bs, ps, d') := d.stileData c t
        match d.readyLine t.ext bs with
        | none => d
        | some (cell, i, lh) =>
          let (oor, d) := d'.busWrite lk (.core c) (d'.partOf c) t.ext bs ps
          mark ((d.countMoved c ⟨[], [], (ps.filter id).length, oor⟩).takeReady lk c cell i lh bs)
      | _, _ => d

/-- WINDOW_WRITE: the block that owns window `w` takes the next write of core `c` as part of the core's stream (R420). -/
def effWindowWrite (w c : Nat) (lk : Locked) (d : Dev) : Dev :=
  if w = 0 && !(d.streams.toList.getD c []).isEmpty then d.drainAppend c else d.giveStile lk c (some w)

/-- SEND_REQUEST: core `c` has written a ready line by its oldest Stile transfer (R491). -/
def effSendRequest (c : Nat) (lk : Locked) (d : Dev) : Dev := d.giveStile lk c none

/-- COMMIT: the page manager takes the next commit, with what the append window holds before it (R256, R420). -/
def effCommitNext (lk : Locked) (d : Dev) : Dev :=
  effCommit lk ((List.range 8).foldl (fun d c => d.drainAppend c) d)

/-- Is the acknowledgement of a write that a block has taken still to come: a commit of the core in the queue of the page
manager, a report not yet handled, or a send request with messages left (R257, R381, R491)? -/
def Dev.ackWaits (lk : Locked) (d : Dev) (c : Nat) (t : Stile) : Bool :=
  match d.windowOf lk c t with
  | some (0, _) => d.kvp.queue.any fun q => match q with | .commit k _ _ => k == c | _ => false
  | some (3, _) => !(d.streams.toList.getD (24 + c) []).isEmpty
  | some _ => false
  | none => d.wtn.reqs.any fun r => r.core == c

/-- STILE_COMPLETE: the oldest sent Stile transfer of core `c` completes, `cc` cycles after its issue (R234 to R237,
R243). -/
def effStileComplete (c cc : Nat) (lk : Locked) (d : Dev) : Dev :=
  let w := (d.headStile c).bind fun x => (d.windowOf lk c x.2).map (·.1)
  let d := d.giveStile lk c w
  match d.headStile c with
  | none => d
  | some (lc, t) =>
    if !t.done || (t.given && d.ackWaits lk c t) || d.lpWaits t.ext then d
    else
      let d := d.modStile c lc (·.drop 1)
      let d :=
        if t.given then d
        else if d.straddles lk c t then (d.stileData c t).2.2.errBlk .kvp 0
        else if t.out then
          let (bs, ps, d) := d.stileData c t
          let (oor, d) := d.busWrite lk (.core c) (d.partOf c) t.ext bs ps
          d.countMoved c ⟨[], [], (ps.filter id).length, oor⟩
        else
          let (bs, ps, oor, d) := d.busRead lk (.core c) (d.partOf c) t.ext t.len
          let srcs := (beatParts t.ext t.len).zip ps
          let d := d.countMoved c ⟨[], [], (ps.filter id).length, oor⟩
          let d := d.modCore c fun x => { x with mem := (beatParts t.loc t.len).foldl (fun m p =>
            let lo := t.ext + (p.1 - t.loc)
            let bad := srcs.any fun s => s.2 && decide (s.1.1 < lo + p.2) && decide (lo < s.1.1 + s.1.2)
            m.store p.1 (slice bs (p.1 - t.loc) p.2) bad) x.mem }
          d.takeMerged c
      let mx := d.fld .stl c 0x108 15 0
      let d := (d.bump .stl c 0x104 1).setReg .stl c 0x108 (max mx (min cc 0xFFFF))
      d.freeCore c

end Sys2Proof.Machine
end

