-- ==== Sys2Proof/Machine/CmdHist.lean ====
section
/-! DEFINITION. Commands of the cache page manager (R244 to R277). -/

namespace Sys2Proof.Machine

/-- COMMIT (R256). -/
def execCommit (s : State) : Host.Outcome State Fault Refusal :=
  .next (s.onLk effCommitNext)

/-- CREATE (R266). -/
def execCreate (w : World) (hist : Fin 16384) (s : State) : Host.Outcome State Fault Refusal :=
  .next (s.onAll (effHistCmd w 1 hist.val (.create hist.val)))

/-- DELETE (R266). -/
def execDelete (w : World) (hist : Fin 16384) (s : State) : Host.Outcome State Fault Refusal :=
  .next (s.onAll (effHistCmd w 2 hist.val (.delete hist.val)))

/-- KVP_ENABLE (R262). `v` is the value written to KVP_CTRL. -/
def execKvpEnable (w : World) (v : W32) (s : State) : Host.Outcome State Fault Refusal :=
  .next (s.onAll (writeReg w .kvp 0 0x100 v.toNat))

end Sys2Proof.Machine
end

