-- ==== Sys2Proof/Machine/CmdHost.lean ====
section
/-! DEFINITION. Commands of the host interface (R542 to R560). -/

namespace Sys2Proof.Machine

/-- RECORD_WRITE (R552). `delivery` names the uplink delivery ring, else the event ring. -/
def execRecordWrite (delivery : Bool) (s : State) : Host.Outcome State Fault Refusal :=
  .next (s.onDev (effRecordWrite delivery))

/-- JOB_RING_DOORBELL (R555). `v` is the value written. -/
def execJobRingDoorbell (v : W32) (s : State) : Host.Outcome State Fault Refusal :=
  .next (s.onDev (Dev.ring 0 v.toNat))

/-- INTAKE_RING_DOORBELL (R555). `v` is the value written. -/
def execIntakeRingDoorbell (v : W32) (s : State) : Host.Outcome State Fault Refusal :=
  .next (s.onDev (Dev.ring 1 v.toNat))

/-- PAYLOAD_RING_DOORBELL (R555). `v` is the value written. -/
def execPayloadRingDoorbell (v : W32) (s : State) : Host.Outcome State Fault Refusal :=
  .next (s.onDev (Dev.ring 2 v.toNat))

/-- DELIVERY_RING_DOORBELL (R555). `v` is the value written. -/
def execDeliveryRingDoorbell (v : W32) (s : State) : Host.Outcome State Fault Refusal :=
  .next (s.onDev (Dev.ring 3 v.toNat))

/-- EVENT_RING_DOORBELL (R555). `v` is the value written. -/
def execEventRingDoorbell (v : W32) (s : State) : Host.Outcome State Fault Refusal :=
  .next (s.onDev (Dev.ring 4 v.toNat))

/-- ENTRY_FETCH (R549). `bytes` is the entry as it was read from host memory. -/
def execEntryFetch (ring : Fin 3) (bytes : List Byte) (s : State) : Host.Outcome State Fault Refusal :=
  .next (s.onDev (effEntryFetch ring.val bytes))

/-- ENTRY_ERR (R543). `copy` says that the read was one of the list or a block of the intake entry being copied. -/
def execEntryErr (ring : Fin 3) (copy : Bool) (s : State) : Host.Outcome State Fault Refusal :=
  .next (s.onDev (effEntryErr ring.val copy))

/-- BAR2_ACCESS (R545). A write of `bytes`, or a read of `len` bytes. -/
def execBar2Access (wr : Bool) (addr : Nat) (len : Nat) (bytes : List Byte) (poison : Bool) (s : State) : Host.Outcome State Fault Refusal :=
  .next (s.onLk (effBar2Access wr addr len bytes poison))

/-- MSIX_MESSAGE (R557). -/
def execMsixMessage (ring : Fin 5) (s : State) : Host.Outcome State Fault Refusal :=
  .next (s.onDev (effMsixMessage ring.val))

/-- BLOCK_INTERRUPT (R592). `page` is the BAR0 offset of the page shifted right by 12. -/
def execBlockInterrupt (page : Nat) (s : State) : Host.Outcome State Fault Refusal :=
  .next (s.onLk (effBlockInterrupt page))

end Sys2Proof.Machine
end

