-- ==== Sys2Proof/Machine/CmdJob.lean ====
section
/-! DEFINITION. Commands of the job scheduler (R392 to R415). -/

namespace Sys2Proof.Machine

/-- JOB_PLACEMENT (R402). `job` is the scheduler's number of the job. -/
def execJobPlacement (job : Nat) (s : State) : Host.Outcome State Fault Refusal :=
  .next (s.onLk (effJobPlacement job))

/-- PREEMPTION (R404). -/
def execPreemption (core : Fin 8) (s : State) : Host.Outcome State Fault Refusal :=
  .next (s.onLk (effPreemption core.val))

/-- SLICE_END (R405). -/
def execSliceEnd (job : Nat) (s : State) : Host.Outcome State Fault Refusal :=
  .next (s.onDev (effSliceEnd job))

/-- JOB_END (R406). The supervisor hears of an estimation job at once (R386, R387). -/
def execJobEnd (job : Nat) (s : State) : Host.Outcome State Fault Refusal :=
  .next (s.onLk fun lk d => (effJobEnd job lk d).takeNotices lk)

/-- DEADLINE_ABORT (R406, R407). -/
def execDeadlineAbort (job : Nat) (s : State) : Host.Outcome State Fault Refusal :=
  .next (s.onLk fun lk d => (effDeadlineAbort job lk d).takeNotices lk)

/-- WATCHDOG (R406). -/
def execWatchdog (core : Fin 8) (s : State) : Host.Outcome State Fault Refusal :=
  .next (s.onDev (effWatchdog core.val))

/-- IMAGE_LOAD (R395). -/
def execImageLoad (job : Nat) (s : State) : Host.Outcome State Fault Refusal :=
  .next (s.onLk (effImageLoad job))

end Sys2Proof.Machine
end

