-- ==== Sys2Proof/Machine/CmdMem.lean ====
section
/-! DEFINITION. Commands of the memory system (R238 to R240, R418 to R441, R519). -/

namespace Sys2Proof.Machine

/-- REFRESH (R431). -/
def execRefresh (s : State) : Host.Outcome State Fault Refusal :=
  .next (s.onDev effRefresh)

/-- HOTREF (R431). `temp` is the temperature of package `pkg` as S8 in °C. -/
def execHotref (pkg : Fin 4) (temp : BitVec 8) (s : State) : Host.Outcome State Fault Refusal :=
  .next (s.onDev (effHotref pkg.val temp.toNat))

/-- MEMORY_BURST (R239). `errs` lists the soft errors that have struck: the array, the place and whether it is
uncorrectable. -/
def execMemoryBurst (chan : Fin 16) (errs : List (Fin 6 × Nat × Bool)) (s : State) : Host.Outcome State Fault Refusal :=
  .next (s.onLk (effMemoryBurst chan.val (errs.map fun e => (e.1.val, e.2))))

/-- MEM_ENABLE (R437). `v` is the value written to MEM_CTRL. -/
def execMemEnable (w : World) (v : W32) (s : State) : Host.Outcome State Fault Refusal :=
  .next (s.onAll (writeReg w .mem 0 0x100 v.toNat))

/-- MEM_READY (R534). -/
def execMemReady (s : State) : Host.Outcome State Fault Refusal :=
  .next (s.onLk effMemReady)

/-- MEM_SHARE_WRITE (R240). `v` is the value written. -/
def execMemShareWrite (w : World) (v : W32) (s : State) : Host.Outcome State Fault Refusal :=
  .next (s.onAll (writeReg w .mem 0 0x180 v.toNat))

/-- CMN_ENABLE (R423). `v` is the value written to CMN_CTRL. -/
def execCmnEnable (w : World) (v : W32) (s : State) : Host.Outcome State Fault Refusal :=
  .next (s.onAll (writeReg w .cmn 0 0x100 v.toNat))

/-- REGION_WRITE (R425). `cmn` names the CMN page; word 0 is RGN_BASE, 1 RGN_LIMIT, 2 RGN_ATTR. -/
def execRegionWrite (w : World) (cmn : Bool) (region : Fin 32) (word : Fin 3) (v : W32) (s : State) : Host.Outcome State Fault Refusal :=
  .next (s.onAll (writeReg w (if cmn then .cmn else .mem) 0 (0x400 + 16 * region.val + 4 * word.val) v.toNat))

/-- CROSSING_ACCESS (R519). `req` is the SEC_XINFO code of the requester. -/
def execCrossingAccess (req : Fin 17) (wr : Bool) (bar0 : Bool) (addr : Nat) (s : State) : Host.Outcome State Fault Refusal :=
  .next (s.onLk (effCrossingAccess (reqOfCode req.val) wr bar0 addr))

end Sys2Proof.Machine
end

