-- ==== Sys2Proof/Machine/CmdPwr.lean ====
section
/-! DEFINITION. Commands of power, clocks, reset and board management (R561 to R589). -/

namespace Sys2Proof.Machine

/-- PWR_DVFS (R565). `v` is the value written. -/
def execPwrDvfs (w : World) (v : W32) (s : State) : Host.Outcome State Fault Refusal :=
  .next (s.onAll (writeReg w .pwr 0 0x104 v.toNat))

/-- RELOCK_DONE (R565). -/
def execRelockDone (s : State) : Host.Outcome State Fault Refusal :=
  .next (s.onDev effRelockDone)

/-- PWR_GOV (R573). `v` is the value written. -/
def execPwrGov (w : World) (v : W32) (s : State) : Host.Outcome State Fault Refusal :=
  .next (s.onAll (writeReg w .pwr 0 0x100 v.toNat))

/-- GOVERNOR_QUANTUM (R568). -/
def execGovernorQuantum (s : State) : Host.Outcome State Fault Refusal :=
  .next (s.onLk effGovernorQuantum)

/-- SENSOR_READ (R579). The 24 readings in 0.25 °C. -/
def execSensorRead (temps : List Int) (s : State) : Host.Outcome State Fault Refusal :=
  .next (s.onDev (effSensorRead temps))

/-- VCORE_SAMPLE (R566). VDD_CORE in mV. -/
def execVcoreSample (mv : Nat) (s : State) : Host.Outcome State Fault Refusal :=
  .next (s.onDev (effVcoreSample mv))

/-- THERMTRIP (R580). -/
def execThermtrip (s : State) : Host.Outcome State Fault Refusal :=
  .next (s.onAll effThermtrip)

/-- POR (R577). -/
def execPor (s : State) : Host.Outcome State Fault Refusal :=
  .next (s.onReset effPor)

/-- BROWNOUT (R562). `aux` says that VDD_AUX has stayed up. -/
def execBrownout (aux : Bool) (s : State) : Host.Outcome State Fault Refusal :=
  .next (s.onReset (effBrownout aux))

/-- RST_PIN (R577). RST_N has been low for `ns` nanoseconds. -/
def execRstPin (ns : Nat) (s : State) : Host.Outcome State Fault Refusal :=
  .next (s.onAll (effRstPin ns))

/-- PERST (R578). -/
def execPerst (s : State) : Host.Outcome State Fault Refusal :=
  .next (s.onAll effPerst)

/-- REFCLK_LOSS (R576). -/
def execRefclkLoss (s : State) : Host.Outcome State Fault Refusal :=
  .next (s.onReset effRefclkLoss)

/-- SWRST (R577). `v` is the value written. -/
def execSwrst (w : World) (v : W32) (s : State) : Host.Outcome State Fault Refusal :=
  .next (s.onAll (writeReg w .pwr 0 0x128 v.toNat))

/-- RESET_RELEASE (R562). -/
def execResetRelease (s : State) : Host.Outcome State Fault Refusal :=
  .next (s.onDev effResetRelease)

/-- PLL_LOCK (R575). `pll` is the bit of CRU_PLL_LOCK. -/
def execPllLock (pll : Fin 9) (s : State) : Host.Outcome State Fault Refusal :=
  .next (s.onDev (effPllLock pll.val))

/-- LOSES_LOCK (R576). `pll` is the bit of CRU_PLL_LOCK. -/
def execLosesLock (pll : Fin 4) (s : State) : Host.Outcome State Fault Refusal :=
  .next (s.onDev (effLosesLock pll.val))

/-- I3C_WRITE (R582). -/
def execI3cWrite (bytes : List Byte) (s : State) : Host.Outcome State Fault Refusal :=
  .next (s.onDev (effI3cWrite bytes))

/-- I3C_READ (R582). -/
def execI3cRead (s : State) : Host.Outcome State Fault Refusal :=
  .next (s.onLk effI3cRead)

/-- ALERT_N (R583). -/
def execAlertN (s : State) : Host.Outcome State Fault Refusal :=
  .next (s.onDev effAlertN)

/-- PERST_RELEASE (R578). -/
def execPerstRelease (s : State) : Host.Outcome State Fault Refusal :=
  .next (s.onDev effPerstRelease)

/-- BOUNDARY_SCAN (R584). 0 BYPASS, 1 IDCODE, 2 SAMPLE/PRELOAD, 3 EXTEST, 4 CLAMP, 5 HIGHZ, with the bits shifted in.
-/
def execBoundaryScan (inst : Fin 6) (bits : List Bool) (s : State) : Host.Outcome State Fault Refusal :=
  .next (s.onDev (effBoundaryScan inst.val bits))

end Sys2Proof.Machine
end

