-- ==== Sys2Proof/Machine/CmdReg.lean ====
section
/-! DEFINITION. Commands of the register map (R10 to R12, R49, R105, R590 to R601). -/

namespace Sys2Proof.Machine

/-- IRQ_FORCE (R592). `page` is the BAR0 offset of the page shifted right by 12. -/
def execIrqForce (w : World) (page : Nat) (v : W32) (s : State) : Host.Outcome State Fault Refusal :=
  .next (s.onAll (pageReg w page 0x024 v.toNat))

/-- BLK_RESET (R593). `page` is the BAR0 offset of the page shifted right by 12. -/
def execBlkReset (w : World) (page : Nat) (v : W32) (s : State) : Host.Outcome State Fault Refusal :=
  .next (s.onAll (pageReg w page 0x00C v.toNat))

/-- BLK_RESET_DONE (R593). `page` is the BAR0 offset of the page shifted right by 12. -/
def execBlkResetDone (page : Nat) (s : State) : Host.Outcome State Fault Refusal :=
  .next (s.onDev (effBlkResetDone page))

/-- CLR (R49). `page` is the BAR0 offset of the page shifted right by 12, `v` the value written to NUM_CTRL. -/
def execClr (w : World) (page : Nat) (v : W32) (s : State) : Host.Outcome State Fault Refusal :=
  .next (s.onAll (pageReg w page 0x1C0 v.toNat))

/-- RC_READ (R12). A read of `len` bytes of BAR0, or of BAR4 with `bar4`. -/
def execRcRead (w : World) (bar4 : Bool) (addr : Nat) (len : Nat) (s : State) : Host.Outcome State Fault Refusal :=
  .next (s.onLk (effRcRead w bar4 addr len))

/-- CORE_CYC_LO_READ (R105). -/
def execCoreCycLoRead (w : World) (core : Fin 8) (s : State) : Host.Outcome State Fault Refusal :=
  .next (s.onLk (effCoreCycLoRead w core.val))

/-- REGISTER_WRITE (R10). A write of `bytes` to BAR0, or to BAR4 with `bar4`. -/
def execRegisterWrite (w : World) (bar4 : Bool) (addr : Nat) (bytes : List Byte) (s : State) : Host.Outcome State Fault Refusal :=
  .next (s.onAll (effRegisterWrite w bar4 addr bytes))

end Sys2Proof.Machine
end

