-- ==== Sys2Proof/Machine/CmdRsv.lean ====
section
/-! DEFINITION. Commands of the receiver supervisor (R370 to R391). -/

namespace Sys2Proof.Machine

/-- CONFIDENCE_REPORT (R380). The next report of the core's stream. -/
def execConfidenceReport (core : Fin 8) (s : State) : Host.Outcome State Fault Refusal :=
  .next (s.onLk (effConfidenceReport core.val))

/-- SET_POLICY (R385). -/
def execSetPolicy (w : World) (policy : Fin 4) (alpha : Fin 512) (hist : Fin 16384) (s : State) : Host.Outcome State Fault Refusal :=
  .next (s.onAll (writeReg w .rsv 0 0x118 (2 ^ 28 + policy.val * 2 ^ 26 + alpha.val * 2 ^ 17 + hist.val)))

/-- RESET_LOOP (R385). -/
def execResetLoop (w : World) (hist : Fin 16384) (s : State) : Host.Outcome State Fault Refusal :=
  .next (s.onAll (writeReg w .rsv 0 0x118 (2 * 2 ^ 28 + hist.val)))

end Sys2Proof.Machine
end

