-- ==== Sys2Proof/Machine/CmdRx.lean ====
section
/-! DEFINITION. Commands of the receive chain and the decoder farm (R278 to R319, R343 to R369). -/

namespace Sys2Proof.Machine

/-- RXC_SWAP (R281). `v` is the value written to RXC_SWAP. -/
def execRxcSwap (w : World) (v : W32) (s : State) : Host.Outcome State Fault Refusal :=
  .next (s.onAll (writeReg w .rxc 0 0x104 v.toNat))

/-- BUILD_DONE (R282). `tx` names the transmit chain. -/
def execBuildDone (tx : Bool) (s : State) : Host.Outcome State Fault Refusal :=
  .next (s.onDev (effBuildDone tx))

/-- SWAP_DONE (R283). `tx` names the transmit chain. -/
def execSwapDone (tx : Bool) (cell : Fin 32) (s : State) : Host.Outcome State Fault Refusal :=
  .next (s.onDev (effSwapDone tx cell.val))

/-- CONTRIBUTION (R301). The next contribution of the core's stream. -/
def execContribution (core : Fin 8) (s : State) : Host.Outcome State Fault Refusal :=
  .next (s.onLk (effContribution core.val))

/-- CODE_BLOCK_QUEUED (R308). -/
def execCodeBlockQueued (s : State) : Host.Outcome State Fault Refusal :=
  .next (s.onDev effCodeBlockQueued)

/-- CODE_BLOCK_ASSIGN (R345). -/
def execCodeBlockAssign (turbo : Bool) (s : State) : Host.Outcome State Fault Refusal :=
  .next (s.onDev (effCodeBlockAssign turbo))

/-- SPAN_FETCHED (R346). -/
def execSpanFetched (s : State) : Host.Outcome State Fault Refusal :=
  .next (s.onLk effSpanFetched)

/-- DECODE_START (R352). Engines 0 to 7 are LDPC, 8 to 11 turbo. -/
def execDecodeStart (engine : Fin 12) (s : State) : Host.Outcome State Fault Refusal :=
  .next (s.onDev (effDecodeStart engine.val))

/-- CODE_BLOCK_RESULT (R356). `ue` says that the engine's memory had an uncorrectable error during the block. -/
def execCodeBlockResult (engine : Fin 12) (ue : Bool) (s : State) : Host.Outcome State Fault Refusal :=
  .next (s.onLk (effCodeBlockResult engine.val ue))

/-- DEADLINE (R310). -/
def execDeadline (cell : Fin 32) (slot : W32) (s : State) : Host.Outcome State Fault Refusal :=
  .next (s.onLk (effDeadline cell.val slot.toNat))

/-- DECODE_STOP (R348). -/
def execDecodeStop (engine : Fin 12) (s : State) : Host.Outcome State Fault Refusal :=
  .next (s.onLk (effDecodeStop engine.val))

/-- POLAR_REQUEST (R361). `header` says that the next write is taken as a header although a request is incomplete. -/
def execPolarRequest (core : Fin 8) (header : Bool) (s : State) : Host.Outcome State Fault Refusal :=
  .next (s.onDev (effPolarRequest core.val header))

/-- POLAR_RESULT (R365). -/
def execPolarResult (engine : Fin 2) (s : State) : Host.Outcome State Fault Refusal :=
  .next (s.onLk (effPolarResult engine.val))

end Sys2Proof.Machine
end

