-- ==== Sys2Proof/Machine/Boot.lean ====
section
/-! DEFINITION. The boot sequence, recovery, and the end of the commands of SEC_HCMD (R522 to R537;
18_security_and_boot.md). -/

namespace Sys2Proof.Machine

/-- The ROM stops with failure code `f`: RECOVERY, the default shares with LOCK, and the memory controller (R536). -/
def stopBoot (f : Nat) (d : Dev) (coreEn : Nat) : Locked × Dev :=
  let lk : Locked := { share := 0x8004050B, coreEn := coreEn }
  (lk, ((d.setFld .sec 0 0x100 15 8 f).setFld .sec 0 0x100 2 0 3).memCtrl lk 1)

/-- The entries of a configuration record from body byte `o` on are written from the secure world in list order, up to the
offset 0xFFFF_FFFF (R533). -/
def applyEntries (body : List Byte) : Nat → Nat → Locked × Dev → Locked × Dev
  | 0, _, s => s
  | n + 1, o, s =>
    let a := leAt body o 4
    if a = 0xFFFFFFFF then s else applyEntries body n (o + 8) (barWrite .secure a (slice body (o + 4) 4) s.1 s.2)

/-- Does the configuration record that the boot read verify (R525, R533)? -/
def Dev.cfgVerifies (d : Dev) : Bool := verifies d.sec.cfg [7] [2] .either d.idDigest d.sec.ownerKeys

/-- The measurements of a boot of firmware `fw` (R539). -/
def Dev.measure (d : Dev) (fw : List Byte) : List (List Byte) :=
  [slice Config.romDigest 0 48, sha384 (signedPart fw), sha384 (d.sec.binding ++ leBytes 4 (d.reg .sec 0 0x108)),
   sha384 d.sec.grade, if d.cfgVerifies then sha384 (wholeItem d.sec.cfg) else List.replicate 48 0]

/-- Steps 6 to 8 of R534: the firmware starts, applies the configuration record, enables the memory controller and, once
it is ready or was not enabled, sets STAGE to RUN. -/
def startFirmware (fw : List Byte) (lk : Locked) (d : Dev) : Locked × Dev :=
  let d := ((d.setReg .sec 0 0x104 (itemVersion fw)).setFld .sec 0 0x100 2 0 1)
  let d := { d with sec := { d.sec with meas := d.measure fw } }
  let body := slice d.sec.cfg 128 (bodyLen d.sec.cfg)
  let (lk, d) : Locked × Dev :=
    if d.cfgVerifies then applyEntries body (body.length / 8) 0 (lk, d) else (lk, d.sticky .sec 0 1)
  if d.pwr.held then (lk, d)
  else
    let d := d.memCtrl lk (d.reg .mem 0 0x100 ||| 1)
    (lk, if !d.flag .mem 0 0x100 0 || d.flag .mem 0 0x104 0 then d.setFld .sec 0 0x100 2 0 2 else d)

/-- Step 5 of R534: the slot to boot: 0 A, 1 B. -/
def pickSlot (a b : Option Nat) : Option Nat :=
  match a, b with
  | some x, some y => some (if x < y then 1 else 0)
  | some _, none => some 0
  | none, some _ => some 1
  | none, none => none

/-- The firmware of a slot when it qualifies under step 5 of R534. -/
def Dev.slotFw (d : Dev) (flash : List Byte) (t : Nat) : Option (List Byte) :=
  (itemOf flash d.sec.dir t).filter fun x => d.fwVerifies x [t] && decide (d.reg .sec 0 0x108 ≤ itemVersion x)

/-- Step 5 onwards. -/
def bootSlots (flash : List Byte) (lk : Locked) (d : Dev) : Locked × Dev :=
  let a := d.slotFw flash 5
  let b := d.slotFw flash 6
  match pickSlot (a.map itemVersion) (b.map itemVersion) with
  | none => stopBoot 6 d lk.coreEn
  | some k => startFirmware ((if k = 0 then a else b).getD []) lk (d.setFld .sec 0 0x100 3 3 k)

/-- Step 4: the owner binding record and the floor amendment (R531, R532). -/
def bootOwner (flash : List Byte) (lk : Locked) (d : Dev) : Locked × Dev :=
  match (itemOf flash d.sec.dir 3).filter fun y => decide (328 ≤ bodyLen y) && verifies y [3] [0, 1] .bound d.idDigest [] with
  | none => stopBoot 4 d lk.coreEn
  | some y =>
    let floor0 := leNat (vendorBody y 152 4)
    let d := { d with sec := { d.sec with
      ownerKeys := vendorBody y 0 152, flags := leNat (vendorBody y 156 4), binding := wholeItem y } }
    let z := itemOf flash d.sec.dir 4
    let ok := match z with
      | none => false
      | some z => bodyLen z == 4 && verifies z [4] [2] .bound d.idDigest d.sec.ownerKeys
    if (dirFind d.sec.dir 4).isNone then bootSlots flash lk (d.setReg .sec 0 0x108 floor0)
    else if !ok then stopBoot 5 d lk.coreEn
    else bootSlots flash lk (d.setReg .sec 0 0x108 (max floor0 (leAt (z.getD []) 128 4)))

/-- Step 3: the grade record (R530). -/
def bootGrade (flash : List Byte) (d : Dev) : Locked × Dev :=
  match (itemOf flash d.sec.dir 2).filter fun x => decide (153 ≤ bodyLen x) && verifies x [2] [0, 1] .bound d.idDigest [] with
  | none => stopBoot 3 d 0
  | some x =>
    let en := leNat (vendorBody x 0 1)
    let k := ((List.range 8).filter (bit en ·)).length
    if 6 ≤ k ∧ k ≤ 8 then bootOwner flash { coreEn := en } { d with sec := { d.sec with grade := wholeItem x } }
    else stopBoot 3 d 0

/-- Show the identity digest in SEC_IDDIG0 to SEC_IDDIG11 (R529, R540). -/
def Dev.showDigest (d : Dev) : Dev :=
  (List.range 12).foldl (fun d k => d.setReg .sec 0 (0x110 + 4 * k) (leAt d.idDigest (4 * k) 4)) d

/-- May the ROM start: reset is released, the locked-family PLLs have locked, and it has not run since (R534, R576)? -/
def Dev.romReady (d : Dev) : Bool := !d.pwr.held && d.reg .sec 0 0x100 == 0 && d.fld .cru 0 0x100 3 0 == 15

/-- BOOT: the ROM runs on what the flash holds from offset 0 on (R534). -/
def effBoot (flash : List Byte) (lk : Locked) (d : Dev) : Locked × Dev :=
  if !d.romReady then (lk, d)
  else
    match readDir flash with
    | none => stopBoot 1 d 0
    | some dir =>
      let d := { d with sec := { d.sec with
        dir := dir, cfg := (itemOf flash dir 7).getD [], cert := (itemOf flash dir 8).getD [] } }
      match itemOf flash dir 1 with
      | none => stopBoot 2 d 0
      | some h =>
        let pub := slice (Config.identityKey h) 0 96
        if h.length < 48 || sha384 pub != h.drop (h.length - 48) then stopBoot 2 d 0
        else bootGrade flash { d with sec := { d.sec with pub := pub } }.showDigest

/-- CMD_DONE: the command in progress ends; `readOk` says that the item read back from the flash as written (R536, R537,
R540, R541). -/
def effCmdDone (readOk : Bool) (lk : Locked) (d : Dev) : Locked × Dev :=
  match d.sec.cmd with
  | none => (lk, d)
  | some c =>
    let wrote := c.result == 0 && c.op != 4
    let r := if wrote && !readOk then 3 else c.result
    let d := { d with sec := { d.sec with cmd := none } }
    let d := if wrote then d.emit (.flashWrite c.off c.item) else d
    let d := ((d.setReg .sec 0 0x14C r).sticky .sec 0 2).post .sec 0 0x0A 2 0 (layout 20 [(0, 1, c.op), (1, 1, r)])
    let d := if c.op = 2 && r = 0 then d.setReg .sec 0 0x108 c.floor else d
    if c.op = 4 && r = 0 then startFirmware c.item lk (d.setFld .sec 0 0x100 4 4 1) else (lk, d)

/-- A write of SEC_HCMD with operation `op` and length `len` (R536, R537). -/
def effSecCommand (w : World) (op len : Nat) (lk : Locked) (d : Dev) : Locked × Dev :=
  writeReg w .sec 0 0x148 (op * 2 ^ 28 + len % 2 ^ 24) lk d

end Sys2Proof.Machine
end

