-- ==== Sys2Proof/Machine/Spdm.lean ====
section
/-! DEFINITION. SPDM 1.2 over the DOE mailbox (R538, R539; 18_security_and_boot.md). The spec names the standard; the
layout of its messages is DMTF DSP0274 1.2 (PRESUMED, log 10). -/

namespace Sys2Proof.Machine

/-- Put a response out. -/
def Dev.doe (d : Dev) (r : List Byte) : Dev := d.emit (.doe r)

/-- An ERROR response with its code. -/
def spdmError (code : Nat) : List Byte := [0x12, 0x7F] ++ leBytes 1 code ++ [0]

/-- Change the connection. -/
def Dev.modSpdm (d : Dev) (f : SpdmSt → SpdmSt) : Dev := { d with sec := { d.sec with spdm := f d.sec.spdm } }

/-- Does the mailbox answer: the endpoint is up, and the boot has ended in RUN or RECOVERY (R534, R536)? -/
def Dev.doeOpen (d : Dev) : Bool :=
  !d.pwr.held && !d.pwr.pcieHeld && d.pci.linkUp && (d.stage == 2 || d.stage == 3)

/-- What every request passes: no answer while the endpoint is down, Busy while Imond runs a command, InvalidRequest for
a request of another code, VersionMismatch for another version, and UnexpectedRequest before the connection has reached
`phase` (R538). -/
def Dev.spdm (d : Dev) (code version phase : Nat) (req : List Byte) (f : Dev → Dev) : Dev :=
  if !d.doeOpen then d
  else if d.flag .sec 0 0x14C 31 then d.doe (spdmError 0x03)
  else if leAt req 1 1 != code || decide (req.length < 4) then d.doe (spdmError 0x01)
  else if leAt req 0 1 != version then d.doe (spdmError 0x41)
  else if d.sec.spdm.phase < phase then d.doe (spdmError 0x04)
  else f d

/-- GET_VERSION: a new connection; version 1.2. -/
def effGetVersion (req : List Byte) (d : Dev) : Dev :=
  d.spdm 0x84 0x10 0 req fun d =>
    let r : List Byte := [0x10, 0x04, 0, 0, 0, 1, 0x00, 0x12]
    (d.modSpdm fun _ => { phase := 1, vca := req ++ r }).doe r

/-- GET_CAPABILITIES: certificates, challenge and signed measurements; the time bound CTExponent, which the spec does not
state, is a free value. -/
def effGetCapabilities (req : List Byte) (d : Dev) : Dev :=
  d.spdm 0xE1 0x12 1 req fun d =>
    let (t, d) := d.draw
    let r := [0x12, 0x61, 0, 0, 0] ++ leBytes 1 t ++ [0, 0] ++ leBytes 4 0x16 ++ leBytes 4 4088 ++ leBytes 4 4088
    (d.modSpdm fun s => { phase := 2, vca := s.vca ++ req ++ r }).doe r

/-- NEGOTIATE_ALGORITHMS: ECDSA P-384 and SHA-384 alone, as far as the requester offers them. -/
def effNegotiateAlgorithms (req : List Byte) (d : Dev) : Dev :=
  d.spdm 0xE3 0x12 2 req fun d =>
    let r := [0x12, 0x63, 0, 0] ++ leBytes 2 36 ++ leBytes 1 (leAt req 6 1 &&& 1) ++ [0] ++ leBytes 4 4 ++
      leBytes 4 (leAt req 8 4 &&& 0x80) ++ leBytes 4 (leAt req 12 4 &&& 2) ++ List.replicate 16 0
    (d.modSpdm fun s => { s with phase := 3, vca := s.vca ++ req ++ r }).doe r

/-- Is a certificate chain in slot 0? -/
def Dev.hasCert (d : Dev) : Bool := !d.sec.cert.isEmpty

/-- GET_DIGESTS: the digest of the chain in slot 0. -/
def effGetDigests (req : List Byte) (d : Dev) : Dev :=
  d.spdm 0x81 0x12 3 req fun d =>
    let r := [0x12, 0x01, 0] ++ leBytes 1 (b2n d.hasCert) ++ (if d.hasCert then sha384 d.sec.cert else [])
    (d.modSpdm fun s => { s with certs := s.certs ++ req ++ r, meas := [] }).doe r

/-- GET_CERTIFICATE: a portion of the chain in slot 0, in an object of at most 4 KiB. -/
def effGetCertificate (req : List Byte) (d : Dev) : Dev :=
  d.spdm 0x82 0x12 3 req fun d =>
    let off := leAt req 4 2
    let total := d.sec.cert.length
    if leAt req 2 1 % 16 != 0 || !d.hasCert || total ≤ off then d.doe (spdmError 0x01)
    else
      let n := min (min (leAt req 6 2) (total - off)) 4080
      let r := [0x12, 0x02, 0, 0] ++ leBytes 2 n ++ leBytes 2 (total - off - n) ++ slice d.sec.cert off n
      (d.modSpdm fun s => { s with certs := s.certs ++ req ++ r, meas := [] }).doe r

/-- ASCII bytes of a text. -/
def ascii (s : String) : List Byte := s.toList.map fun c => BitVec.ofNat 8 c.toNat

/-- What is signed over a transcript: the version prefix four times, the context at the end of 36 bytes, and the digest of
the transcript. -/
def spdmToSign (context : String) (transcript : List Byte) : List Byte :=
  let p := ascii "dmtf-spdm-v1.2.*"
  let c := ascii context
  p ++ p ++ p ++ p ++ List.replicate (36 - c.length) 0 ++ c ++ sha384 transcript

/-- A signature of the identity key, 96 bytes. -/
def Dev.sign (d : Dev) (context : String) (transcript : List Byte) : List Byte × Dev :=
  (slice (Config.identitySign d.sec.pub (spdmToSign context transcript) d.fresh) 0 96, { d with fresh := d.fresh + 1 })

/-- A fresh nonce of 32 bytes. -/
def Dev.nonce (d : Dev) : List Byte × Dev := let (v, d) := d.draw; (leBytes 32 v, d)

/-- The DMTF value type of a measurement: ROM 0, mutable firmware 1, hardware configuration 2, firmware configuration 3. -/
def measType (i : Nat) : Nat := ([0, 1, 3, 2, 3] : List Nat).getD (i - 1) 0

/-- Measurement block `i`, 1 to 5 (R539). -/
def Dev.measBlock (d : Dev) (i : Nat) : List Byte :=
  leBytes 1 i ++ [1] ++ leBytes 2 51 ++ leBytes 1 (measType i) ++ leBytes 2 48 ++
    slice (d.sec.meas.getD (i - 1) []) 0 48

/-- All measurement blocks. -/
def Dev.measBlocks (d : Dev) : List Byte := ([1, 2, 3, 4, 5] : List Nat).flatMap d.measBlock

/-- CHALLENGE: the chain's digest, a nonce, the summary of the measurements that is asked for (0xFF all; for 0x01 the spec
names no trusted part and the summary is a free value), and a signature of the identity key. -/
def effChallenge (req : List Byte) (d : Dev) : Dev :=
  d.spdm 0x83 0x12 3 req fun d =>
    if leAt req 2 1 != 0 || !d.hasCert || d.sec.pub.isEmpty then d.doe (spdmError 0x01)
    else
      let (n, d) := d.nonce
      let k := leAt req 3 1
      let (v, d) := d.draw
      let sum := if k = 0 then [] else if k = 0xFF then sha384 d.measBlocks else leBytes 48 v
      let r := [0x12, 0x03, 0, 1] ++ sha384 d.sec.cert ++ n ++ sum ++ [0, 0]
      let s := d.sec.spdm
      let (sig, d) := d.sign "responder-challenge_auth signing" (s.vca ++ s.certs ++ req ++ r)
      (d.modSpdm fun s => { s with certs := [], meas := [] }).doe (r ++ sig)

/-- GET_MEASUREMENTS: the number of blocks, one block or all of them, signed when the request asks for it (R539). -/
def effGetMeasurements (req : List Byte) (d : Dev) : Dev :=
  d.spdm 0xE0 0x12 3 req fun d =>
    let signed := bit (leAt req 2 1) 0
    let op := leAt req 3 1
    if (decide (5 < op) && op != 0xFF) || (signed && d.sec.pub.isEmpty) then d.doe (spdmError 0x01)
    else
      let (k, blocks) : Nat × List Byte :=
        if op = 0 then (0, []) else if op = 0xFF then (5, d.measBlocks) else (1, d.measBlock op)
      let (n, d) := d.nonce
      let r := [0x12, 0x60] ++ leBytes 1 (if op = 0 then 5 else 0) ++ [0] ++ leBytes 1 k ++
        leBytes 3 blocks.length ++ blocks ++ n ++ [0, 0]
      let s := d.sec.spdm
      let t := s.meas ++ req ++ r
      if signed then
        let (sig, d) := d.sign "responder-measurements signing" (s.vca ++ t)
        (d.modSpdm fun s => { s with meas := [] }).doe (r ++ sig)
      else (d.modSpdm fun s => { s with meas := t }).doe r

end Sys2Proof.Machine
end

