-- ==== Sys2Proof/Machine/CmdSec.lean ====
section
/-! DEFINITION. Commands of Imond (R516 to R541). -/

namespace Sys2Proof.Machine

/-- BOOT (R534). `flash` is what the boot flash holds from offset 0 on. -/
def execBoot (flash : List Byte) (s : State) : Host.Outcome State Fault Refusal :=
  .next (s.onAll (effBoot flash))

/-- RECOVER_BOOT (R536). -/
def execRecoverBoot (w : World) (len : Nat) (s : State) : Host.Outcome State Fault Refusal :=
  .next (s.onAll (effSecCommand w 4 len))

/-- UPDATE_FW (R537). -/
def execUpdateFw (w : World) (len : Nat) (s : State) : Host.Outcome State Fault Refusal :=
  .next (s.onAll (effSecCommand w 1 len))

/-- RAISE_FLOOR (R537). -/
def execRaiseFloor (w : World) (len : Nat) (s : State) : Host.Outcome State Fault Refusal :=
  .next (s.onAll (effSecCommand w 2 len))

/-- UPDATE_CFG (R537). -/
def execUpdateCfg (w : World) (len : Nat) (s : State) : Host.Outcome State Fault Refusal :=
  .next (s.onAll (effSecCommand w 3 len))

/-- GET_VERSION (R538). `req` is the SPDM message, without its data object header. -/
def execGetVersion (req : List Byte) (s : State) : Host.Outcome State Fault Refusal :=
  .next (s.onDev (effGetVersion req))

/-- GET_CAPABILITIES (R538). `req` is the SPDM message, without its data object header. -/
def execGetCapabilities (req : List Byte) (s : State) : Host.Outcome State Fault Refusal :=
  .next (s.onDev (effGetCapabilities req))

/-- NEGOTIATE_ALGORITHMS (R538). `req` is the SPDM message, without its data object header. -/
def execNegotiateAlgorithms (req : List Byte) (s : State) : Host.Outcome State Fault Refusal :=
  .next (s.onDev (effNegotiateAlgorithms req))

/-- GET_DIGESTS (R538). `req` is the SPDM message, without its data object header. -/
def execGetDigests (req : List Byte) (s : State) : Host.Outcome State Fault Refusal :=
  .next (s.onDev (effGetDigests req))

/-- GET_CERTIFICATE (R538). `req` is the SPDM message, without its data object header. -/
def execGetCertificate (req : List Byte) (s : State) : Host.Outcome State Fault Refusal :=
  .next (s.onDev (effGetCertificate req))

/-- CHALLENGE (R538). `req` is the SPDM message, without its data object header. -/
def execChallenge (req : List Byte) (s : State) : Host.Outcome State Fault Refusal :=
  .next (s.onDev (effChallenge req))

/-- GET_MEASUREMENTS (R539). `req` is the SPDM message, without its data object header. -/
def execGetMeasurements (req : List Byte) (s : State) : Host.Outcome State Fault Refusal :=
  .next (s.onDev (effGetMeasurements req))

/-- CMD_DONE (R537). `readOk` says that the item read back as it was written. -/
def execCmdDone (readOk : Bool) (s : State) : Host.Outcome State Fault Refusal :=
  .next (s.onAll (effCmdDone readOk))

end Sys2Proof.Machine
end

