-- ==== Sys2Proof/Machine/CmdStream.lean ====
section
/-! DEFINITION. Commands of the Gleaner, Stile and the write-only windows (R209 to R243, R420, R491). -/

namespace Sys2Proof.Machine

/-- GLEANER_REQUEST (R230). -/
def execGleanerRequest (core : Fin 8) (s : State) : Host.Outcome State Fault Refusal :=
  .next (s.onDev (effGleanerRequest core.val))

/-- UNIT_DELIVERED (R221). -/
def execUnitDelivered (core : Fin 8) (desc : Fin 32) (s : State) : Host.Outcome State Fault Refusal :=
  .next (s.onLk (effUnitDelivered core.val desc.val))

/-- BUFFER_RETURN (R86). -/
def execBufferReturn (core : Fin 8) (queue : Fin 16) (s : State) : Host.Outcome State Fault Refusal :=
  .next (s.onDev (effBufferReturn core.val queue.val))

/-- POOL_BORROW (R219). -/
def execPoolBorrow (core : Fin 8) (s : State) : Host.Outcome State Fault Refusal :=
  .next (s.onDev (effPoolBorrow core.val))

/-- OUTBOUND_DRAIN (R221). -/
def execOutboundDrain (core : Fin 8) (desc : Fin 32) (s : State) : Host.Outcome State Fault Refusal :=
  .next (s.onLk (effOutboundDrain core.val desc.val))

/-- END_RECORD (R228). -/
def execEndRecord (core : Fin 8) (desc : Fin 32) (s : State) : Host.Outcome State Fault Refusal :=
  .next (s.onDev (effEndRecord core.val desc.val))

/-- RUN_DONE (R224). -/
def execRunDone (core : Fin 8) (desc : Fin 32) (s : State) : Host.Outcome State Fault Refusal :=
  .next (s.onDev (effRunDone core.val desc.val))

/-- STOP_COMPLETE (R227). -/
def execStopComplete (core : Fin 8) (desc : Fin 32) (s : State) : Host.Outcome State Fault Refusal :=
  .next (s.onDev (effStopComplete core.val desc.val))

/-- STILE_COMPLETE (R237). The transfer took `cycles` cycles. -/
def execStileComplete (core : Fin 8) (cycles : Nat) (s : State) : Host.Outcome State Fault Refusal :=
  .next (s.onLk (effStileComplete core.val cycles))

/-- WINDOW_WRITE (R420). Window 0 is the append window, 1 the LLR intake, 2 the polar requests, 3 the confidence
reports. -/
def execWindowWrite (window : Fin 4) (core : Fin 8) (s : State) : Host.Outcome State Fault Refusal :=
  .next (s.onLk (effWindowWrite window.val core.val))

/-- SEND_REQUEST (R491). -/
def execSendRequest (core : Fin 8) (s : State) : Host.Outcome State Fault Refusal :=
  .next (s.onLk (effSendRequest core.val))

end Sys2Proof.Machine
end

