-- ==== Sys2Proof/Machine/Admission.lean ====
section
/-! DEFINITION. Admission points (R17, R397, R465, R510, R511, R513). -/

namespace Sys2Proof.Machine

/-- The signatures that a write of SIG_CLR named are reset (R513). -/
def Dev.clearSigs (d : Dev) : Dev :=
  if !d.det.sigClr then d
  else
    let d := { d with det := { d.det with sigClr := false } }
    (d.setReg .det 0 0x118 0).setReg .det 0 0x11C 0xFFFFFFFF

/-- Slots at numerology `mu` of the subframe in which the time `o` before now lies, and of the one before it. -/
def Dev.slotsAround (d : Dev) (mu o : Nat) : List Nat :=
  let first := d.tim.sub - 1
  let rel : Int := toS 32 (d.ns + 2 ^ 33 - o % 2 ^ 32 - (d.reg .tim 0 0x120 + 1000000 * first) % 2 ^ 32)
  let sub : Int := first + rel / 1000000
  if sub < 0 then [] else
    let lo := (sub.toNat - 1) * 2 ^ mu
    (List.range ((sub.toNat + 1) * 2 ^ mu - lo)).map (lo + ·)

/-- Does an event of an enabled entry of cell `c` fall to this tick ALLOW after its time? `o` is the time from the symbol
boundary to the event, `times` lists the events of a slot. -/
def Dev.cellPoint (d : Dev) (tx : Bool) (c : Nat) (o : List Byte → Nat) (times : List Byte → Nat → List Nat) : Bool :=
  let allow := d.fld .det 0 0x108 9 0
  (List.range 2).any fun k =>
    let e := d.cellBank tx c k
    ceEnable e && (d.slotsAround (ceMu e) (o e + allow)).any fun s =>
      d.cellFor tx c s == e && (times e s).any fun t => d.inTick ((t + allow) % 2 ^ 32)

/-- Is there an admission point in this tick: with the grid on at A + 1,000m, and ALLOW after each window close, slot start,
intake deadline, and gather open or close of an enabled cell; with the grid off at each multiple of 1,000 ns (R510)? -/
def Dev.pointDue (d : Dev) : Bool :=
  if d.gridOn then
    let since (t : Nat) : Int := toS 32 (t + 2 ^ 33 - (d.reg .tim 0 0x120 + 1000000 * (d.tim.sub - 1)) % 2 ^ 32)
    since d.ns / 1000 != since d.tim.prev / 1000 ||
    (List.range 32).any fun c =>
      d.cellPoint false c (fun e => rxClose e) (fun e s => (List.range 14).map fun n => d.closeOf e s n) ||
      d.cellPoint false c (fun _ => 0) (fun e s => [d.symStart (ceMu e) s 0]) ||
      d.cellPoint true c (fun e => 2 ^ 32 - leAt e 16 4) (fun e s => [d.symStart (ceMu e) s 0 + 2 ^ 32 - leAt e 16 4]) ||
      (d.splitEn c && (List.range (d.splitNl c)).any fun l =>
        let open' := d.reg .wtn 0 (splitOff c + 8) + l * d.reg .wtn 0 (splitOff c + 12)
        d.cellPoint false c (fun _ => open') (fun _ s => [(d.gatherTimes c s l).1]) ||
        d.cellPoint false c (fun _ => open' + d.fld .wtn 0 (splitOff c + 16) 13 0) (fun _ s => [(d.gatherTimes c s l).2]))
  else d.ns / 1000 != d.tim.prev / 1000

/-- ADMISSION_POINT, at most one in a tick, and only where R510 places one: what the crossing buffers hold that is stamped
early enough becomes visible. With the grid on these are frames and their consequences, the downlink slots that fall due
and Waten messages, and in any case what the host offers; the scheduler then takes the submissions of this point (R397,
R510, R511). -/
def effAdmissionPoint (lk : Locked) (d : Dev) : Dev :=
  if d.pwr.held || !d.pointDue || d.det.lastAdm.any (·.1 == d.tim.tick) then d else
  let d := (d.bump .det 0 0x110 1).clearSigs
  let d := d.admitEntries
  let d := if d.gridOn then ((d.rxcAdmit lk).txcAdmit lk).wtnAdmit lk else d
  let d := { d with det := { d.det with lastAdm := some (d.tim.tick, d.ns) } }
  let (es, d) := d.takeJobEntries
  (d.admitJobs lk es).takeNotices lk

end Sys2Proof.Machine
end

