-- ==== Sys2Proof/Machine/CmdTime.lean ====
section
/-! DEFINITION. Commands of the time unit, the slot grid and the determinism unit (R460 to R475, R508 to R515). -/

namespace Sys2Proof.Machine

/-- ADMISSION_POINT (R511). -/
def execAdmissionPoint (s : State) : Host.Outcome State Fault Refusal :=
  .next (s.onLk effAdmissionPoint)

/-- TIM_OFFSET_NS (R462). `v` is the value written. -/
def execTimOffsetNs (w : World) (v : W32) (s : State) : Host.Outcome State Fault Refusal :=
  .next (s.onAll (writeReg w .tim 0 0x140 v.toNat))

/-- SET (R461). `v` is the value written to TIM_CTRL. -/
def execSetCounter (w : World) (v : W32) (s : State) : Host.Outcome State Fault Refusal :=
  .next (s.onAll (writeReg w .tim 0 0x110 v.toNat))

/-- GRID_EN (R466). `v` is the value written to TIM_CTRL. -/
def execGridEn (w : World) (v : W32) (s : State) : Host.Outcome State Fault Refusal :=
  .next (s.onAll (writeReg w .tim 0 0x110 v.toNat))

/-- TIM_NOW_FRAC_READ (R461). -/
def execTimNowFracRead (w : World) (s : State) : Host.Outcome State Fault Refusal :=
  .next (s.onLk (effTimNowFracRead w))

/-- GRID_EVENT (R465). -/
def execGridEvent (s : State) : Host.Outcome State Fault Refusal :=
  .next (s.onDev effGridEvent)

/-- PPS_OUT (R468). -/
def execPpsOut (s : State) : Host.Outcome State Fault Refusal :=
  .next (s.onDev effPpsOut)

/-- PPS_OUT_FALL (R468). -/
def execPpsOutFall (s : State) : Host.Outcome State Fault Refusal :=
  .next (s.onDev effPpsOutFall)

/-- PPS_IN (R469). -/
def execPpsIn (s : State) : Host.Outcome State Fault Refusal :=
  .next (s.onDev effPpsIn)

/-- SYNCE_CHANGE (R470). `v` is the value written to ETH_SYNCE. -/
def execSynceChange (w : World) (v : W32) (s : State) : Host.Outcome State Fault Refusal :=
  .next (s.onAll (writeReg w .eth 0 0x184 v.toNat))

/-- ALIGN_GO (R508). `v` is the value written to DET_CTRL. -/
def execAlignGo (w : World) (v : W32) (s : State) : Host.Outcome State Fault Refusal :=
  .next (s.onAll (writeReg w .det 0 0x100 v.toNat))

/-- ALIGNMENT_STROBE (R467). -/
def execAlignmentStrobe (s : State) : Host.Outcome State Fault Refusal :=
  .next (s.onDev effAlignmentStrobe)

/-- QUEUE_RESTART (R508). `empty` says that every queue still to restart is empty. -/
def execQueueRestart (empty : Bool) (s : State) : Host.Outcome State Fault Refusal :=
  .next (s.onDev (effQueueRestart empty))

/-- ALIGN_LOST (R509). -/
def execAlignLost (s : State) : Host.Outcome State Fault Refusal :=
  .next (s.onDev effAlignLost)

/-- SIG_CLR (R513). `v` is the value written to DET_CTRL. -/
def execSigClr (w : World) (v : W32) (s : State) : Host.Outcome State Fault Refusal :=
  .next (s.onAll (writeReg w .det 0 0x100 v.toNat))

end Sys2Proof.Machine
end

