-- ==== Sys2Proof/Machine/CmdTx.lean ====
section
/-! DEFINITION. Commands of the transmit chain and the encoders (R320 to R342, R359). -/

namespace Sys2Proof.Machine

/-- TB_COPY_DONE (R326). The list and the blocks as they were read from host memory. -/
def execTbCopyDone (list : List Byte) (blocks : List (List Byte)) (s : State) : Host.Outcome State Fault Refusal :=
  .next (s.onLk (effTbCopyDone list blocks))

/-- ENCODE (R359). -/
def execEncode (turbo : Bool) (s : State) : Host.Outcome State Fault Refusal :=
  .next (s.onDev (effEncode turbo))

/-- SYMBOL_PRECODED (R332). -/
def execSymbolPrecoded (cell : Fin 32) (slot : W32) (sym : Fin 14) (row : Nat) (s : State) : Host.Outcome State Fault Refusal :=
  .next (s.onLk (effSymbolPrecoded cell.val slot.toNat sym.val row))

/-- TX_WINDOW_OPEN (R333). -/
def execTxWindowOpen (cell : Fin 32) (slot : W32) (sym : Fin 14) (s : State) : Host.Outcome State Fault Refusal :=
  .next (s.onDev (effTxWindowOpen cell.val slot.toNat sym.val))

/-- TX_WINDOW_CLOSE (R333). -/
def execTxWindowClose (cell : Fin 32) (slot : W32) (sym : Fin 14) (s : State) : Host.Outcome State Fault Refusal :=
  .next (s.onDev (effTxWindowClose cell.val slot.toNat sym.val))

/-- CPLANE_SEND (R335). `up` names the receive cell of that number. -/
def execCplaneSend (cell : Fin 32) (up : Bool) (slot : W32) (s : State) : Host.Outcome State Fault Refusal :=
  .next (s.onLk (effCplaneSend cell.val up slot.toNat))

/-- OVERLAY_MARKER (R331). -/
def execOverlayMarker (cell : Fin 32) (s : State) : Host.Outcome State Fault Refusal :=
  .next (s.onLk (effOverlayMarker cell.val))

/-- MASK_CHECK (R339). -/
def execMaskCheck (cell : Fin 32) (slot : W32) (sym : Fin 14) (row : Nat) (s : State) : Host.Outcome State Fault Refusal :=
  .next (s.onLk (effMaskCheck cell.val slot.toNat sym.val row))

end Sys2Proof.Machine
end

