-- ==== Sys2Proof/Machine/CmdUnits.lean ====
section
/-! DEFINITION. Commands of the plate, Wash and Hatch (R106 to R208). -/

namespace Sys2Proof.Machine

/-- PASS_START (R125). `half` is the bottom half in tandem mode. -/
def execPassStart (core : Fin 8) (half : Bool) (s : State) : Host.Outcome State Fault Refusal :=
  .next (s.onDev (effPassStart core.val half))

/-- PASS_RETIRE (R122). `parity` lists the columns in which a PE parity error fell. -/
def execPassRetire (core : Fin 8) (half : Bool) (parity : List Nat) (s : State) : Host.Outcome State Fault Refusal :=
  .next (s.onDev (effPassRetire core.val half parity))

/-- TILE_FREE (R132). -/
def execTileFree (core : Fin 8) (tile : Fin 16) (s : State) : Host.Outcome State Fault Refusal :=
  .next (s.onDev (effTileFree core.val tile.val))

/-- WASH_COMMAND_START (R174). -/
def execWashCommandStart (core : Fin 8) (s : State) : Host.Outcome State Fault Refusal :=
  .next (s.onDev (effWashStart core.val))

/-- WASH_COMMAND_RETIRE (R174). -/
def execWashCommandRetire (core : Fin 8) (s : State) : Host.Outcome State Fault Refusal :=
  .next (s.onDev (effWashRetire core.val))

/-- HTB_START (R203). -/
def execHtbStart (core : Fin 8) (s : State) : Host.Outcome State Fault Refusal :=
  .next (s.onDev (effHtbStart core.val))

/-- HTB_RETIRE (R203). -/
def execHtbRetire (core : Fin 8) (s : State) : Host.Outcome State Fault Refusal :=
  .next (s.onDev (effHtbRetire core.val))

end Sys2Proof.Machine
end

