-- ==== Sys2Proof/Machine/CmdWaten.lean ====
section
/-! DEFINITION. Commands of the Waten engine (R476 to R499). -/

namespace Sys2Proof.Machine

/-- BEACON (R480). -/
def execBeacon (s : State) : Host.Outcome State Fault Refusal :=
  .next (s.onDev effBeacon)

/-- MESSAGE_RECEIVE (R479). -/
def execMessageReceive (s : State) : Host.Outcome State Fault Refusal :=
  .next (s.onLk effMessageReceive)

/-- ADDR_HELD (R481). -/
def execAddrHeld (s : State) : Host.Outcome State Fault Refusal :=
  .next (s.onDev effAddrHeld)

/-- CREDIT (R487). -/
def execCredit (link : Fin 64) (s : State) : Host.Outcome State Fault Refusal :=
  .next (s.onDev (effCredit link.val))

/-- GATHER_OPEN (R489). -/
def execGatherOpen (cell : Fin 32) (slot : W32) (layer : Fin 8) (s : State) : Host.Outcome State Fault Refusal :=
  .next (s.onLk (effGatherOpen cell.val slot.toNat layer.val))

/-- GATHER_CLOSE (R492). -/
def execGatherClose (cell : Fin 32) (slot : W32) (layer : Fin 8) (s : State) : Host.Outcome State Fault Refusal :=
  .next (s.onLk (effGatherClose cell.val slot.toNat layer.val))

/-- BIND (R494). -/
def execBind (w : World) (peer : Fin 16384) (s : State) : Host.Outcome State Fault Refusal :=
  .next (s.onAll (writeReg w .wtn 0 0x144 (2 ^ 28 + peer.val)))

/-- UNBIND (R498). -/
def execUnbind (w : World) (s : State) : Host.Outcome State Fault Refusal :=
  .next (s.onAll (writeReg w .wtn 0 0x144 (2 * 2 ^ 28)))

/-- TAKEOVER (R497). -/
def execTakeover (w : World) (s : State) : Host.Outcome State Fault Refusal :=
  .next (s.onAll (writeReg w .wtn 0 0x144 (3 * 2 ^ 28)))

/-- MIRROR_SYNCED (R494). -/
def execMirrorSynced (s : State) : Host.Outcome State Fault Refusal :=
  .next (s.onDev effMirrorSynced)

/-- MIRROR_RESYNC (R496). -/
def execMirrorResync (s : State) : Host.Outcome State Fault Refusal :=
  .next (s.onDev effMirrorResync)

/-- LINK_WRITE (R486). Word 0 holds VALID and PEER, word 1 the credits. -/
def execLinkWrite (w : World) (link : Fin 64) (word : Fin 2) (v : W32) (s : State) : Host.Outcome State Fault Refusal :=
  .next (s.onAll (writeReg w .wtn 0 (0x400 + 16 * link.val + 4 * word.val) v.toNat))

end Sys2Proof.Machine
end

