-- ==== Sys2Proof/Machine/Dispatch.lean ====
section
/-! DEFINITION. The dispatch: one arm for each command, one direct call of its meaning. -/

namespace Sys2Proof.Machine

/-- The effect of a command on everything but the queue. -/
def exec (i : Instr) (s : State) : Host.Outcome State Fault Refusal :=
  match i with
  | .bundleIssue core cycles frozen imem corrected bad => Sys2Proof.Machine.execBundleIssue core cycles frozen imem corrected bad s
  | .poisonScalar core => Sys2Proof.Machine.execPoisonScalar core s
  | .passStart core half => Sys2Proof.Machine.execPassStart core half s
  | .passRetire core half parity => Sys2Proof.Machine.execPassRetire core half parity s
  | .tileFree core tile => Sys2Proof.Machine.execTileFree core tile s
  | .washCommandStart core => Sys2Proof.Machine.execWashCommandStart core s
  | .washCommandRetire core => Sys2Proof.Machine.execWashCommandRetire core s
  | .htbStart core => Sys2Proof.Machine.execHtbStart core s
  | .htbRetire core => Sys2Proof.Machine.execHtbRetire core s
  | .barrierRelease job seq => Sys2Proof.Machine.execBarrierRelease job seq s
  | .semGrant sem => Sys2Proof.Machine.execSemGrant sem s
  | .semBroken hold => Sys2Proof.Machine.execSemBroken hold s
  | .logicalCoreSwitch core => Sys2Proof.Machine.execLogicalCoreSwitch core s
  | .switchRestoreDone core cycles => Sys2Proof.Machine.execSwitchRestoreDone core cycles s
  | .gleanerRequest core => Sys2Proof.Machine.execGleanerRequest core s
  | .unitDelivered core desc => Sys2Proof.Machine.execUnitDelivered core desc s
  | .bufferReturn core queue => Sys2Proof.Machine.execBufferReturn core queue s
  | .poolBorrow core => Sys2Proof.Machine.execPoolBorrow core s
  | .outboundDrain core desc => Sys2Proof.Machine.execOutboundDrain core desc s
  | .endRecord core desc => Sys2Proof.Machine.execEndRecord core desc s
  | .runDone core desc => Sys2Proof.Machine.execRunDone core desc s
  | .stopComplete core desc => Sys2Proof.Machine.execStopComplete core desc s
  | .stileComplete core cycles => Sys2Proof.Machine.execStileComplete core cycles s
  | .commit => Sys2Proof.Machine.execCommit s
  | .create w hist => Sys2Proof.Machine.execCreate w hist s
  | .delete w hist => Sys2Proof.Machine.execDelete w hist s
  | .kvpEnable w v => Sys2Proof.Machine.execKvpEnable w v s
  | .frameReceive port age bytes => Sys2Proof.Machine.execFrameReceive port age bytes s
  | .admissionPoint => Sys2Proof.Machine.execAdmissionPoint s
  | .rxcSwap w v => Sys2Proof.Machine.execRxcSwap w v s
  | .buildDone tx => Sys2Proof.Machine.execBuildDone tx s
  | .swapDone tx cell => Sys2Proof.Machine.execSwapDone tx cell s
  | .contribution core => Sys2Proof.Machine.execContribution core s
  | .codeBlockQueued => Sys2Proof.Machine.execCodeBlockQueued s
  | .codeBlockAssign turbo => Sys2Proof.Machine.execCodeBlockAssign turbo s
  | .spanFetched => Sys2Proof.Machine.execSpanFetched s
  | .decodeStart engine => Sys2Proof.Machine.execDecodeStart engine s
  | .codeBlockResult engine ue => Sys2Proof.Machine.execCodeBlockResult engine ue s
  | .deadline cell slot => Sys2Proof.Machine.execDeadline cell slot s
  | .decodeStop engine => Sys2Proof.Machine.execDecodeStop engine s
  | .recordWrite delivery => Sys2Proof.Machine.execRecordWrite delivery s
  | .tbCopyDone list blocks => Sys2Proof.Machine.execTbCopyDone list blocks s
  | .encode turbo => Sys2Proof.Machine.execEncode turbo s
  | .symbolPrecoded cell slot sym row => Sys2Proof.Machine.execSymbolPrecoded cell slot sym row s
  | .txWindowOpen cell slot sym => Sys2Proof.Machine.execTxWindowOpen cell slot sym s
  | .txWindowClose cell slot sym => Sys2Proof.Machine.execTxWindowClose cell slot sym s
  | .frameTransmit port => Sys2Proof.Machine.execFrameTransmit port s
  | .cplaneSend cell up slot => Sys2Proof.Machine.execCplaneSend cell up slot s
  | .overlayMarker cell => Sys2Proof.Machine.execOverlayMarker cell s
  | .maskCheck cell slot sym row => Sys2Proof.Machine.execMaskCheck cell slot sym row s
  | .polarRequest core header => Sys2Proof.Machine.execPolarRequest core header s
  | .polarResult engine => Sys2Proof.Machine.execPolarResult engine s
  | .confidenceReport core => Sys2Proof.Machine.execConfidenceReport core s
  | .setPolicy w policy alpha hist => Sys2Proof.Machine.execSetPolicy w policy alpha hist s
  | .resetLoop w hist => Sys2Proof.Machine.execResetLoop w hist s
  | .jobPlacement job => Sys2Proof.Machine.execJobPlacement job s
  | .preemption core => Sys2Proof.Machine.execPreemption core s
  | .sliceEnd job => Sys2Proof.Machine.execSliceEnd job s
  | .jobEnd job => Sys2Proof.Machine.execJobEnd job s
  | .deadlineAbort job => Sys2Proof.Machine.execDeadlineAbort job s
  | .watchdog core => Sys2Proof.Machine.execWatchdog core s
  | .refresh => Sys2Proof.Machine.execRefresh s
  | .hotref pkg temp => Sys2Proof.Machine.execHotref pkg temp s
  | .memoryBurst chan errs => Sys2Proof.Machine.execMemoryBurst chan errs s
  | .memEnable w v => Sys2Proof.Machine.execMemEnable w v s
  | .memReady => Sys2Proof.Machine.execMemReady s
  | .memShareWrite w v => Sys2Proof.Machine.execMemShareWrite w v s
  | .cmnEnable w v => Sys2Proof.Machine.execCmnEnable w v s
  | .regionWrite w cmn region word v => Sys2Proof.Machine.execRegionWrite w cmn region word v s
  | .crossingAccess req wr bar0 addr => Sys2Proof.Machine.execCrossingAccess req wr bar0 addr s
  | .windowWrite window core => Sys2Proof.Machine.execWindowWrite window core s
  | .ethEnable w port v => Sys2Proof.Machine.execEthEnable w port v s
  | .linkDown port => Sys2Proof.Machine.execLinkDown port s
  | .slowPathTx port => Sys2Proof.Machine.execSlowPathTx port s
  | .timOffsetNs w v => Sys2Proof.Machine.execTimOffsetNs w v s
  | .setCounter w v => Sys2Proof.Machine.execSetCounter w v s
  | .gridEn w v => Sys2Proof.Machine.execGridEn w v s
  | .timNowFracRead w => Sys2Proof.Machine.execTimNowFracRead w s
  | .gridEvent => Sys2Proof.Machine.execGridEvent s
  | .ppsOut => Sys2Proof.Machine.execPpsOut s
  | .ppsOutFall => Sys2Proof.Machine.execPpsOutFall s
  | .ppsIn => Sys2Proof.Machine.execPpsIn s
  | .synceChange w v => Sys2Proof.Machine.execSynceChange w v s
  | .alignGo w v => Sys2Proof.Machine.execAlignGo w v s
  | .alignmentStrobe => Sys2Proof.Machine.execAlignmentStrobe s
  | .queueRestart empty => Sys2Proof.Machine.execQueueRestart empty s
  | .alignLost => Sys2Proof.Machine.execAlignLost s
  | .sigClr w v => Sys2Proof.Machine.execSigClr w v s
  | .beacon => Sys2Proof.Machine.execBeacon s
  | .messageReceive => Sys2Proof.Machine.execMessageReceive s
  | .addrHeld => Sys2Proof.Machine.execAddrHeld s
  | .credit link => Sys2Proof.Machine.execCredit link s
  | .sendRequest core => Sys2Proof.Machine.execSendRequest core s
  | .gatherOpen cell slot layer => Sys2Proof.Machine.execGatherOpen cell slot layer s
  | .gatherClose cell slot layer => Sys2Proof.Machine.execGatherClose cell slot layer s
  | .bind w peer => Sys2Proof.Machine.execBind w peer s
  | .unbind w => Sys2Proof.Machine.execUnbind w s
  | .takeover w => Sys2Proof.Machine.execTakeover w s
  | .mirrorSynced => Sys2Proof.Machine.execMirrorSynced s
  | .mirrorResync => Sys2Proof.Machine.execMirrorResync s
  | .linkWrite w link word v => Sys2Proof.Machine.execLinkWrite w link word v s
  | .boot flash => Sys2Proof.Machine.execBoot flash s
  | .recoverBoot w len => Sys2Proof.Machine.execRecoverBoot w len s
  | .updateFw w len => Sys2Proof.Machine.execUpdateFw w len s
  | .raiseFloor w len => Sys2Proof.Machine.execRaiseFloor w len s
  | .updateCfg w len => Sys2Proof.Machine.execUpdateCfg w len s
  | .getVersion req => Sys2Proof.Machine.execGetVersion req s
  | .getCapabilities req => Sys2Proof.Machine.execGetCapabilities req s
  | .negotiateAlgorithms req => Sys2Proof.Machine.execNegotiateAlgorithms req s
  | .getDigests req => Sys2Proof.Machine.execGetDigests req s
  | .getCertificate req => Sys2Proof.Machine.execGetCertificate req s
  | .challenge req => Sys2Proof.Machine.execChallenge req s
  | .getMeasurements req => Sys2Proof.Machine.execGetMeasurements req s
  | .jobRingDoorbell v => Sys2Proof.Machine.execJobRingDoorbell v s
  | .intakeRingDoorbell v => Sys2Proof.Machine.execIntakeRingDoorbell v s
  | .payloadRingDoorbell v => Sys2Proof.Machine.execPayloadRingDoorbell v s
  | .deliveryRingDoorbell v => Sys2Proof.Machine.execDeliveryRingDoorbell v s
  | .eventRingDoorbell v => Sys2Proof.Machine.execEventRingDoorbell v s
  | .entryFetch ring bytes => Sys2Proof.Machine.execEntryFetch ring bytes s
  | .entryErr ring copy => Sys2Proof.Machine.execEntryErr ring copy s
  | .bar2Access wr addr len bytes poison => Sys2Proof.Machine.execBar2Access wr addr len bytes poison s
  | .msixMessage ring => Sys2Proof.Machine.execMsixMessage ring s
  | .blockInterrupt page => Sys2Proof.Machine.execBlockInterrupt page s
  | .irqForce w page v => Sys2Proof.Machine.execIrqForce w page v s
  | .blkReset w page v => Sys2Proof.Machine.execBlkReset w page v s
  | .blkResetDone page => Sys2Proof.Machine.execBlkResetDone page s
  | .clr w page v => Sys2Proof.Machine.execClr w page v s
  | .rcRead w bar4 addr len => Sys2Proof.Machine.execRcRead w bar4 addr len s
  | .coreCycLoRead w core => Sys2Proof.Machine.execCoreCycLoRead w core s
  | .registerWrite w bar4 addr bytes => Sys2Proof.Machine.execRegisterWrite w bar4 addr bytes s
  | .pwrDvfs w v => Sys2Proof.Machine.execPwrDvfs w v s
  | .relockDone => Sys2Proof.Machine.execRelockDone s
  | .pwrGov w v => Sys2Proof.Machine.execPwrGov w v s
  | .governorQuantum => Sys2Proof.Machine.execGovernorQuantum s
  | .sensorRead temps => Sys2Proof.Machine.execSensorRead temps s
  | .vcoreSample mv => Sys2Proof.Machine.execVcoreSample mv s
  | .thermtrip => Sys2Proof.Machine.execThermtrip s
  | .por => Sys2Proof.Machine.execPor s
  | .brownout aux => Sys2Proof.Machine.execBrownout aux s
  | .rstPin ns => Sys2Proof.Machine.execRstPin ns s
  | .perst => Sys2Proof.Machine.execPerst s
  | .refclkLoss => Sys2Proof.Machine.execRefclkLoss s
  | .swrst w v => Sys2Proof.Machine.execSwrst w v s
  | .resetRelease => Sys2Proof.Machine.execResetRelease s
  | .pllLock pll => Sys2Proof.Machine.execPllLock pll s
  | .i3cWrite bytes => Sys2Proof.Machine.execI3cWrite bytes s
  | .i3cRead => Sys2Proof.Machine.execI3cRead s
  | .alertN => Sys2Proof.Machine.execAlertN s
  | .linkUp port => Sys2Proof.Machine.execLinkUp port s
  | .losesLock pll => Sys2Proof.Machine.execLosesLock pll s
  | .perstRelease => Sys2Proof.Machine.execPerstRelease s
  | .cmdDone readOk => Sys2Proof.Machine.execCmdDone readOk s
  | .imageLoad job => Sys2Proof.Machine.execImageLoad job s
  | .boundaryScan inst bits => Sys2Proof.Machine.execBoundaryScan inst bits s

end Sys2Proof.Machine
end

