-- ==== Sys2Proof/Safety.lean ====
section
/-! DEFINITION. What counts as a sound state of the device, in the terms the claims use. -/

namespace Sys2Proof.Machine

/-- Once MEM_SHARE is locked, each class has a slot and the three sum to 20 (R240). -/
def Locked.sharesOk (lk : Locked) : Prop := lk.isLocked = true → sharesValid (shareOf lk.share.toNat) = true

/-- No grade has been applied, or six, seven or eight cores are enabled (R530). -/
def Locked.gradeOk (lk : Locked) : Prop :=
  lk.coreEn = 0 ∨ (6 ≤ ((List.range 8).filter (bit lk.coreEn ·)).length ∧
    ((List.range 8).filter (bit lk.coreEn ·)).length ≤ 8)

/-- What no step may break: the locked shares and the grade. -/
def State.Sound (s : State) : Prop := s.lk.sharesOk ∧ s.lk.gradeOk

/-- Every memory of the device that the device map reaches is in its canonical form. -/
def Dev.arraysWf (d : Dev) : Prop :=
  d.ms.lp.wf ∧ d.ms.win.wf ∧ d.ms.cm.wf ∧ d.tbl.wf ∧ ∀ c, (d.core c).mem.spad.wf ∧ (d.core c).mem.accm.wf

/-! ## What a command leaves alone -/

/-- A register of BAR0: its page, the instance of the page, its offset. -/
abbrev RegAt := Page × Nat × Nat

/-- BAR0 offset of a register. -/
def RegAt.addr (r : RegAt) : Nat := r.1.base r.2.1 + r.2.2

/-- Every register of the device but those listed reads in `e` as in `d`. -/
def Dev.keepsRegs (d e : Dev) (l : List RegAt) : Prop :=
  ∀ p n o, p.base n + o ∉ l.map RegAt.addr → e.reg p n o = d.reg p n o

/-- Every core but `c` is in `e` as in `d`. -/
def Dev.keepsCores (d e : Dev) (c : Nat) : Prop := ∀ k, k ≠ c → e.core k = d.core k

/-- What posting events may change: the queue of events behind those that wait, their SEQ (R552, R553), and where the
queue is full PCI_STICKY, its IRQ_STATUS and the count of lost events. -/
def Dev.keepsPci (d e : Dev) : Prop :=
  e.pci = { d.pci with events := e.pci.events, evSeq := e.pci.evSeq } ∧ d.pci.events <+: e.pci.events

/-- The registers that a lost event changes (R552). -/
def evtRegs : List RegAt := [(.pci, 0, 0x184), (.pci, 0, 0x194), (.pci, 0, 0x020)]

/-- A write from world `w` reaches the registers of a page: the stage lets it through, the page exists and is of that
world, and no block reset is in progress (R516, R519, R530, R534, R593). -/
abbrev Dev.takesWrite (d : Dev) (lk : Locked) (w : World) (p : Page) (n : Nat) : Prop :=
  d.openTo w p = true ∧ pageThere lk p n = true ∧ (w = .nonsecure → d.secure p n = false) ∧ d.flag p n 0x014 1 = false

/-- Byte `a` of the SPAD and ACCM of core `c` (R65). -/
def Dev.localByte (d : Dev) (c a : Nat) : List Byte := (d.core c).mem.read a 1

end Sys2Proof.Machine
end

