-- ==== Sys2Proof/Certificates/Slice0/Obligations.lean ====
section
/-! DEFINITION. The statements for the provers. `s` is the state before a command with the queue's rest in it, `t` the
state after. -/

open Sys2Proof Sys2Proof.Machine

/-! ## The machine -/

/-- With a command in front of the queue, a step is its effect with the queue's rest. -/
def Obligations.FrontCommandRuns : Prop :=
  ∀ (s : State) (i : Instr) (rest : List Instr), s.pending = i :: rest → step s = exec i { s with pending := rest }

/-- No command of any form stops the machine, and none changes the queue. -/
def Obligations.EveryCommandCompletes : Prop :=
  ∀ (s : State) (i : Instr), ∃ t, exec i s = .next t ∧ t.pending = s.pending

/-! ## Cores (R63 to R105, R409) -/

/-- BUNDLE_ISSUE of a bundle whose one slot that is not empty holds no operation, or scalar arithmetic in S0: the result
goes to its g register, none to g0, when its predicate holds, the loop levels that end here are evaluated, the pc goes on, and
nothing else of the core changes but what soft errors and the passing cycles change, where Hatch is not frozen and no load
of the core is about to return poisoned (R63, R64, R69, R72, R79, R90, R193). -/
def Obligations.BundleIssueScalar : Prop :=
  ∀ (s : State) (c : Fin 8) (cc fr cor : Nat) (bad : List Nat) (w0 : Nat),
    let d := (s.d.softErrors c { corrected := cor, bad := bad }).passCycles c cc fr
    let x := d.core c
    let l := x.run
    let r := loopBack l.pc l.loops
    let ws := [w0, 0, 0, 0, 0, 0, 0, 0]
    let b := if opcOf w0 ≤ 0x0F then l.greg (bits w0 39 35) else bits w0 31 0
    let l' := if l.executes w0 then l.setG (bits w0 49 45) (alu (opcOf w0 % 16) (l.greg (bits w0 44 40)) b) else l
    ((s.d.core c).state = 2 ∨ (s.d.core c).state = 3) → (s.d.core c).switchTo = none →
    (s.d.core c).frozenNow cc fr = false → slotsOf x.imem l.pc = ws →
    opcOf w0 ≤ 0x1F → encFaults l.pc ws = [] → x.poisonLoads = [] → r.2 < (x.image.toList.getD x.runLc {}).len →
    ∃ t, exec (.bundleIssue c cc fr false cor bad) s = .next t ∧
      t = { s with d := d.setCore c { x.setRun { l' with
          pc := r.2, loops := r.1, ovcWait := false, gln := l.gln.settle } with
        state := 2, stall := 0, stallSince := none, govWait := none, issued := x.issued + 1, freeze := 0 } }

/-- POISON_SCALAR: the first scalar load that found poison faults its logical core with code 0x13, its slot and its
address, and the job is asked to end; Hatch results on their way still arrive (R102, R103, R105, R190). -/
def Obligations.PoisonScalarFaults : Prop :=
  ∀ (s : State) (c : Fin 8) (pc slot a rd : Nat) (rest : List (Nat × Nat × Nat × Nat)),
    (s.d.core c).poisonLoads = (pc, slot, a, rd) :: rest → (s.d.core c).state ≠ 6 → (s.d.core c).state ≠ 7 →
    (s.d.core c).runLc < 8 →
    let a4 := (s.d.core c).run.hatch.advance (s.d.core c).mem 4
    ∃ t, exec (.poisonScalar c) s = .next t ∧
      t = { s with d := { s.d with rg := t.d.rg, cores := t.d.cores, pci := t.d.pci, sch := t.d.sch } } ∧
      t.d.reg .core c 0x108 = (slot * 65536 + (s.d.core c).runLc * 256 + 0x13) % 2 ^ 32 ∧
      t.d.reg .core c 0x10C = a % 2 ^ 32 ∧
      s.d.keepsRegs t.d (evtRegs ++ [(.core, c.val, 0x108), (.core, c.val, 0x10C), (.spd, c.val, 0x104),
        (.spd, c.val, 0x108), (.spd, c.val, 0x10C), (.spd, c.val, 0x020)]) ∧ s.d.keepsCores t.d c ∧ s.d.keepsPci t.d ∧
      t.d.core c = { ((s.d.core c).setRun { (s.d.core c).run with pc := pc, hatch := a4.1 }) with
        mem := { a4.2 with merged := [] }, state := 6, stall := 0, stallSince := none, govWait := none, poisonLoads := [], evq := [], ovc := none } ∧
      t.d.sch = (match (s.d.core c).job with
        | none => s.d.sch
        | some j => (s.d.askEnd j (.faulted 0x13)).sch)

/-- BARRIER_RELEASE: the instance is gone, and every member, wherever its logical core is, may issue its LBAR bundle, has
no operation left in the phase and clear traceback buffers (R96, R98, R201). -/
def Obligations.BarrierReleaseFreesMembers : Prop :=
  ∀ (s : State) (j seq : Nat) (b : BarSt), s.d.bar? j seq true = some b →
    (∀ lc ∈ bitList 8 b.members, ∃ c, c < 8 ∧ (s.d.core c).job = some j ∧ bit (s.d.core c).hosted lc = true) →
    ∃ t, exec (.barrierRelease j seq) s = .next t ∧
      t = { s with d := { s.d with
        rg := t.d.rg, cores := t.d.cores, bars := s.d.bars.erase b, fresh := t.d.fresh } } ∧
      (∀ lc ∈ bitList 8 b.members, (t.d.lcState j lc).released = true ∧ (t.d.lcState j lc).wide = [] ∧
        (t.d.lcState j lc).wideOps = 0 ∧ (t.d.lcState j lc).hatch.clearTb = (t.d.lcState j lc).hatch) ∧
      ∀ c, (s.d.core c).job ≠ some j → t.d.core c = s.d.core c

/-- SEM_GRANT gives a free semaphore to the SEMACQ that has waited longest; SEM_BROKEN takes one that has been held for
10 µs from its holder, sets its SEM_BROKEN bit, counts it, and asks the holding job to end with reason 4. Neither
changes another semaphore (R94, R409, R416). -/
def Obligations.SemaphoreCommands : Prop :=
  (∀ (s : State) (k : Fin 64) (h : Nat × Nat × Nat × Nat) (q : List (Nat × Nat × Nat × Nat)),
    s.d.sems[k.val].holder = none → s.d.sems[k.val].waiters = h :: q → h.2.1 < 8 → h.2.2.1 < 8 →
    ∃ t, exec (.semGrant k) s = .next t ∧
      t = { s with d := { s.d with sems := t.d.sems, cores := t.d.cores } } ∧
      t.d.sems = s.d.sems.set k.val { holder := some (h.1, h.2.1, h.2.2.1), since := s.d.tim.tick, waiters := q } ∧
      s.d.keepsCores t.d h.2.2.1 ∧
      t.d.core h.2.2.1 = { s.d.core h.2.2.1 with
        lcs := (s.d.core h.2.2.1).lcs.setIfInBounds h.2.1 { (s.d.core h.2.2.1).lcs.toList.getD h.2.1 {} with semGot := some k } }) ∧
  ∀ (s : State) (k : Fin 128) (h : Nat × Nat × Nat) (hk : k.val < 64),
    s.d.sems[k.val].holder = some h → s.d.elapsed s.d.sems[k.val].since 10000 = true →
    ∃ t, exec (.semBroken k) s = .next t ∧
      t = { s with d := { s.d with rg := t.d.rg, sems := t.d.sems, pci := t.d.pci, sch := t.d.sch } } ∧
      t.d.sems = s.d.sems.set k.val { s.d.sems[k.val] with holder := none } ∧
      t.d.flag .sem 0 (0x108 + 4 * (k.val / 32)) (k.val % 32) = true ∧
      t.d.reg .sem 0 0x110 = satAdd (s.d.reg .sem 0 0x110) 1 ∧
      s.d.keepsRegs t.d (evtRegs ++ [(.sem, 0, 0x108 + 4 * (k.val / 32)), (.sem, 0, 0x020), (.sem, 0, 0x110)]) ∧
      s.d.keepsPci t.d ∧ t.d.sch = (s.d.askEnd h.1 (.aborted 4)).sch

/-- LOGICAL_CORE_SWITCH saves the logical core that has arrived, and takes up the next one, in the SWITCH state; where there is
nothing to save it writes nothing. SWITCH_RESTORE_DONE lets it run, with its own program in IMEM and no save left. No other core changes (R66, R99, R100,
R105). -/
def Obligations.SwitchCommands : Prop :=
  (∀ (s : State) (c : Fin 8) (n : Nat), let x := s.d.core c
    x.switchTo = some n → x.state ≠ 6 → x.state ≠ 7 → ((x.job.bind s.d.job?).map fun j => !j.asks.isEmpty).getD false = false →
    ((x.lcs.toList.getD n {}).started = true → (x.lcs.toList.getD n {}).released = true) → s.d.memWaits = false →
    ∃ t, exec (.logicalCoreSwitch c) s = .next t ∧ t.pending = s.pending ∧ t.lk = s.lk ∧
      t.d.reg .core c 0x120 = satAdd (s.d.reg .core c 0x120) 1 ∧ s.d.keepsCores t.d c ∧
      ((x.run.ended = true ∨ n = x.runLc) → t = { s with d := { s.d with rg := t.d.rg, cores := t.d.cores } } ∧
        s.d.keepsRegs t.d [(.core, c.val, 0x120)]) ∧
      t.d.core c = { x with
        spill := (t.d.core c).spill, runLc := n, switchTo := none, state := 4, stall := 0, stallSince := none
        govWait := none } ∧
      (x.run.ended = false → n ≠ x.runLc →
        (t.d.core c).spill = (x.spill.filter fun s => s.lc ≠ x.runLc) ++ [x.save x.runLc (x.run.barrier.getD 0)])) ∧
  ∀ (s : State) (c : Fin 8) (cc : Nat), let x := s.d.core c
    let im := x.image.toList.getD x.runLc {}
    x.state = 4 → x.leaving = false → x.runLc < 8 → s.d.memWaits = false →
    ∃ t, exec (.switchRestoreDone c cc) s = .next t ∧ t.pending = s.pending ∧ t.lk = s.lk ∧
      s.d.keepsCores t.d c ∧ (t.d.core c).state = 2 ∧ (t.d.core c).runLc = x.runLc ∧
      (t.d.core c).cyc = (x.cyc + cc) % 2 ^ 64 ∧ (t.d.core c).loaded = some (im.prog, im.len) ∧
      (t.d.core c).run = { x.run with started := true, deliver := [] } ∧
      (∀ sp ∈ (t.d.core c).spill, sp ∈ x.spill ∧ sp.lc ≠ x.runLc)

/-! ## Plate, Wash and Hatch (R106 to R208) -/

/-- PASS_START brings the oldest pending pass of a half into the array, once every earlier pass has started that it is not
apart from, counts the cycles of its rows (an open number of them shared with the other tandem half), and the pass before it there drains;
PASS_RETIRE takes the oldest started pass out, with its sums in ACCM and its output rows in SPAD; TILE_FREE frees a
releasing tile whose rows are written. The logical cores and every other core stay as they were, but for the contribution
that a WIDE pass leaves (R118, R121, R122, R125, R132, R151). -/
def Obligations.PlateCommands : Prop :=
  (∀ (s : State) (c : Fin 8) (half : Bool) (p : PassRec), let x := s.d.core c
    x.plate.passes.find? (fun p => decide (p.phase = .pending) && (!p.cmd.tand || p.cmd.half == half)) = some p →
    (∀ q ∈ x.plate.passes, q.id < p.id → q.phase = .pending → q.apart p = true) →
    ∃ t, exec (.passStart c half) s = .next t ∧
      t = { s with d := { s.d with rg := t.d.rg, cores := t.d.cores, fresh := t.d.fresh } } ∧ s.d.keepsCores t.d c ∧
      t.d.core c = { x with plate := (t.d.core c).plate } ∧
      (t.d.core c).plate.tiles = x.plate.tiles ∧ (t.d.core c).plate.slots = x.plate.slots ∧
      (t.d.core c).plate.tandem = p.cmd.tand ∧ (t.d.core c).plate.group = pairGroup p.cmd.fmov ∧
      (t.d.core c).plate.passes.map (·.id) = x.plate.passes.map (·.id) ∧
      (∀ q ∈ (t.d.core c).plate.passes, q.id = p.id → q.phase = .array) ∧
      (p.cmd.tand = false → ∀ q ∈ (t.d.core c).plate.passes, q.phase = .array → q.id = p.id) ∧
      (∃ k ≤ p.n, ((∀ q ∈ x.plate.passes, q.phase = .array → q.apart p = false) → k = 0) ∧
        t.d.reg .plt c 0x124 = satAdd (s.d.reg .plt c 0x124) (p.n - k)) ∧
      s.d.keepsRegs t.d [(.plt, c.val, 0x124), (.spd, c.val, 0x104), (.spd, c.val, 0x108), (.spd, c.val, 0x10C), (.spd, c.val, 0x020)]) ∧
  (∀ (s : State) (c : Fin 8) (half : Bool) (parity : List Nat) (p : PassRec), let x := s.d.core c
    let o := p.run parity x.mem.spad x.mem.accm
    x.plate.oldest half = some p → x.ending = false →
    ∃ t, exec (.passRetire c half parity) s = .next t ∧
      t = { s with d := { s.d with rg := t.d.rg, cores := t.d.cores, fresh := t.d.fresh } } ∧ s.d.keepsCores t.d c ∧
      t.d.core c = { x with
        mem := { x.mem with spad := o.spad, accm := o.accm }, lcs := (t.d.core c).lcs
        plate := { x.plate with passes := x.plate.passes.filter fun q => q.id ≠ p.id } } ∧
      (p.cmd.wide = false → (t.d.core c).lcs = x.lcs) ∧
      t.d.reg .plt c 0x110 = satAdd (s.d.reg .plt c 0x110) 1) ∧
  ∀ (s : State) (c : Fin 8) (k : Fin 16), let x := s.d.core c
    x.plate.canFree k = true →
    ∃ t, exec (.tileFree c k) s = .next t ∧ t = { s with d := { s.d with cores := t.d.cores } } ∧ s.d.keepsCores t.d c ∧
      t.d.core c = { x with plate := { x.plate with tiles := x.plate.tiles.set k.val {} } }

/-- What a plate pass leaves in ACCM. Element (n, j) is the 32-bit word of R113: it takes the sum of the pass, added to what
it held where the pass accumulates (R109). No byte of ACCM outside the elements of the pass changes: not those of columns from
M on, and not those of rows from N on in the last tile (R113). -/
def Obligations.PassSumsInAccm : Prop :=
  ∀ (p : PassRec) (parity : List Nat) (spad accm : Mem), p.m ≤ 128 →
    let o := p.run parity spad accm
    let old : CoreMem := { accm := accm }
    let new : CoreMem := { accm := o.accm }
    let ad (n j : Nat) : Nat := 0x1000000 + (p.cmd.tb + n / 128) * 0x10000 + n % 128 * 512 + j * 4
    (∀ n j, n < p.n → j < p.m →
      new.nat (ad n j) 4 = (accElement (!p.cmd.fmov.isInt) p.cmd.acc (old.nat (ad n j) 4) ((p.sums.1.getD n []).getD j .nan)).1 % 2 ^ 32) ∧
    ∀ a, 0x1000000 ≤ a → (∀ n j, n < p.n → j < p.m → a < ad n j ∨ ad n j + 4 ≤ a) → new.read a 1 = old.read a 1

/-- WASH_COMMAND_START starts the next waiting command when none executes; WASH_COMMAND_RETIRE ends the executing one, with
its results in SPAD and ACCM and its rows without an element, elements out of range and domain results counted; a WIDE one
leaves memory alone and its partials wait for the barrier (R174, R177, R179, R503). -/
def Obligations.WashCommands : Prop :=
  (∀ (s : State) (c : Fin 8) (w : WashCmd) (q : List WashCmd), let x := s.d.core c
    x.wash.exec = none → x.wash.queue = w :: q →
    ∃ t, exec (.washCommandStart c) s = .next t ∧ t = { s with d := { s.d with cores := t.d.cores } } ∧
      s.d.keepsCores t.d c ∧ t.d.core c = { x with wash := { exec := some w, queue := q } }) ∧
  ∀ (s : State) (c : Fin 8) (w : WashCmd), let x := s.d.core c
    x.wash.exec = some w → x.ending = false →
    ∃ t, exec (.washCommandRetire c) s = .next t ∧ t = { s with d := { s.d with rg := t.d.rg, cores := t.d.cores } } ∧
      s.d.keepsCores t.d c ∧
      t.d.core c = { x with wash := { x.wash with exec := none }, mem := (t.d.core c).mem, lcs := (t.d.core c).lcs } ∧
      t.d.reg .wsh c 0x104 = satAdd (s.d.reg .wsh c 0x104) 1 ∧
      (w.wide = true → (t.d.core c).mem = x.mem) ∧
      (w.wide = false → (t.d.core c).lcs = x.lcs ∧ (t.d.core c).mem = { (w.run x.mem).mem with merged := [] } ∧
        t.d.reg .wsh c 0x10C = satAdd (s.d.reg .wsh c 0x10C) (w.run x.mem).empty ∧
        t.d.reg .wsh c 0x110 = satAdd (s.d.reg .wsh c 0x110) (w.run x.mem).oor ∧
        t.d.reg .wsh c 0x114 = satAdd (s.d.reg .wsh c 0x114) (w.run x.mem).dom)

/-- HTB_START walks the traceback buffer for the waiting command; HTB_RETIRE writes its decoded bytes at the addresses of
the command, later bytes over earlier ones, and every other byte of SPAD and ACCM stays (R202, R203, R205, R207). -/
def Obligations.TracebackCommands : Prop :=
  (∀ (s : State) (c : Fin 8) (h : Htb) (q : List Htb), let x := s.d.core c
    x.htb = h :: q → h.started = false →
    ∃ t, exec (.htbStart c) s = .next t ∧ t = { s with d := { s.d with cores := t.d.cores } } ∧ s.d.keepsCores t.d c ∧
      t.d.core c = { x with htb := h.walk (x.lcs.toList.getD h.lc {}).hatch :: q }) ∧
  ∀ (s : State) (c : Fin 8) (h : Htb) (q : List Htb), let x := s.d.core c
    x.htb = h :: q → h.started = true → x.ending = false →
    ∃ t, exec (.htbRetire c) s = .next t ∧ t = { s with d := { s.d with rg := t.d.rg, cores := t.d.cores } } ∧
      s.d.keepsCores t.d c ∧ t.d.core c = { x with htb := q, mem := (t.d.core c).mem } ∧
      t.d.reg .hch c 0x110 = satAdd (s.d.reg .hch c 0x110) 1 ∧
      (∀ (i a : Nat) (b : Byte), h.addrs[i]? = some a → h.out[i]? = some b → (∀ j, i < j → h.addrs[j]? ≠ some a) →
        (t.d.core c).mem.read a 1 = [b]) ∧
      ∀ a, a ∉ h.addrs → (t.d.core c).mem.read a 1 = x.mem.read a 1

/-! ## Gleaner, Stile and the windows (R209 to R243, R420) -/

/-- A cycle of requests, a borrowed pool slot and a returned buffer change the Gleaner of the running logical core alone. A
borrowed slot joins the ring of the lowest descriptor that may borrow, at its place in the pool; a returned buffer is free,
or of an outbound ring ready to drain, and a borrowed one back in the pool. It is the oldest popped one of the queue, as no
access of its POP bundle or an earlier one is left (R86, R219, R221, R230). -/
def Obligations.GleanerRequests : Prop :=
  (∀ (s : State) (c : Fin 8), let x := s.d.core c
    ∃ t, exec (.gleanerRequest c) s = .next t ∧ t = { s with d := { s.d with cores := t.d.cores } } ∧ s.d.keepsCores t.d c ∧
      t.d.core c = x.setRun { x.run with gln := x.run.gln.readSlot.readSlot.writeSlot.writeSlot.settle }) ∧
  (∀ (s : State) (c : Fin 8) (k n p : Nat), let x := s.d.core c
    let g := x.run.gln
    (List.range 32).findSome? (fun e => (g.mayBorrow e).map fun m => (e, m)) = some (k, n) → g.pool = some p →
    x.runLc < 8 →
    ∃ t, exec (.poolBorrow c) s = .next t ∧ t = { s with d := { s.d with cores := t.d.cores } } ∧ s.d.keepsCores t.d c ∧
      t.d.core c = x.setRun { x.run with gln := (t.d.core c).run.gln } ∧
      (t.d.core c).run.gln.lent = insertSorted n g.lent ∧
      ∃ b ∈ ((t.d.core c).run.gln.desc k).bufs,
        b.slot = some n ∧ b.addr = dw (g.desc p).work 3 + n * dBuf (g.desc p).work) ∧
  ∀ (s : State) (c : Fin 8) (q : Fin 16) (k : Nat) (b : GBuf) (l : List (Nat × GBuf)), let x := s.d.core c
    let g := x.run.gln
    g.popped q = (k, b) :: l → x.bufBusy b = false → x.runLc < 8 → k < 32 →
    ∃ t, exec (.bufferReturn c q) s = .next t ∧ t = { s with d := { s.d with cores := t.d.cores } } ∧
      s.d.keepsCores t.d c ∧ t.d.core c = x.setRun { x.run with gln := (t.d.core c).run.gln } ∧
      (dOut (g.desc k).work = true → b.old = false →
        ∀ z ∈ ((t.d.core c).run.gln.desc k).bufs, z.id = b.id → z.st = .ready) ∧
      (dOut (g.desc k).work = false → b.old = false → b.slot = none → (g.desc k).stale = false →
        ∀ z ∈ ((t.d.core c).run.gln.desc k).bufs, z.id = b.id → z.st = .free) ∧
      ∀ n, (dOut (g.desc k).work = false ∨ b.old = true) → b.slot = some n → n ∉ (t.d.core c).run.gln.lent

/-- UNIT_DELIVERED counts one more unit and gives the queue its buffer as a token; it writes inside that buffer alone.
OUTBOUND_DRAIN counts one more unit and changes no memory of the core (R211, R212, R216, R221). -/
def Obligations.GleanerUnits : Prop :=
  (∀ (s : State) (c : Fin 8) (k : Fin 32) (bid : Option Nat) (addr : Nat), let x := (s.d.core c).run.gln.desc k
    (s.d.core c).runLc < 8 → (x.state = 1 ∨ x.state = 2) → dOut x.work = false → x.deliv < x.unit → dMode x.work ≤ 1 →
    (dMode x.work = 1 → dCvt x.work = false) → x.needsList = false → s.d.lpWaits (dExt x.work) = false →
    x.unitAddr .filling = some (bid, addr) →
    ∃ t, exec (.unitDelivered c k) s = .next t ∧
      t = { s with d := { s.d with rg := t.d.rg, cores := t.d.cores, ms := t.d.ms, wtn := t.d.wtn, pci := t.d.pci } } ∧
      s.d.keepsCores t.d c ∧ ((t.d.core c).run.gln.desc k).deliv = x.deliv + 1 ∧
      (∀ i, bid = some i → ∃ b ∈ ((t.d.core c).run.gln.desc k).bufs, b.id = i ∧ b.addr = addr ∧ b.st = .token) ∧
      ∀ a, a < addr ∨ addr + dUnitBytes x.work ≤ a → t.d.localByte c a = s.d.localByte c a) ∧
  ∀ (s : State) (c : Fin 8) (k : Fin 32) (bid : Option Nat) (addr : Nat), let x := (s.d.core c).run.gln.desc k
    (s.d.core c).runLc < 8 → (x.state = 1 ∨ x.state = 2) → dOut x.work = true → x.deliv < x.unit →
    s.d.lpWaits (dExt x.work) = false → x.unitAddr .draining = some (bid, addr) →
    ∃ t, exec (.outboundDrain c k) s = .next t ∧ t.pending = s.pending ∧ t.lk = s.lk ∧ s.d.keepsCores t.d c ∧
      ((t.d.core c).run.gln.desc k).deliv = x.deliv + 1 ∧ ((t.d.core c).run.gln.desc k).real = x.real + 1 ∧
      (t.d.core c).mem = (s.d.core c).mem

/-- END_RECORD writes the 64 bytes of the end record to the next free buffer and nothing else of SPAD and ACCM; RUN_DONE
leaves a run that is drained DONE, or starts the pending copy; STOP_COMPLETE leaves a stopped one IDLE with STOPPED set
(R211, R224, R225, R227, R228). -/
def Obligations.GleanerRunEnds : Prop :=
  (∀ (s : State) (c : Fin 8) (k : Fin 32) (b : GBuf), let x0 := (s.d.core c).run.gln.desc k
    let g := if x0.state = 2 then (s.d.core c).run.gln.stopBuffers k else (s.d.core c).run.gln
    (s.d.core c).runLc < 8 → (x0.state = 1 ∨ x0.state = 2) → dEos x0.work = true → x0.endDone = false → x0.ring = true →
    x0.drained = true → (g.desc k).nextFree = some b →
    ∃ t, exec (.endRecord c k) s = .next t ∧ t = { s with d := { s.d with rg := t.d.rg, cores := t.d.cores } } ∧
      s.d.keepsCores t.d c ∧ ((t.d.core c).run.gln.desc k).endDone = true ∧
      (t.d.core c).mem.read b.addr 64 = (g.desc k).endRecord ∧
      ∀ a, a < b.addr ∨ b.addr + 64 ≤ a → t.d.localByte c a = s.d.localByte c a) ∧
  (∀ (s : State) (c : Fin 8) (k : Fin 32), let x := (s.d.core c).run.gln.desc k
    (s.d.core c).runLc < 8 → (s.d.core c).ending = false → x.state = 1 → dMode x.work ≠ 2 → x.drained = true → (dEos x.work = true → x.endDone = true) →
    ∃ t, exec (.runDone c k) s = .next t ∧ t = { s with d := { s.d with cores := t.d.cores } } ∧ s.d.keepsCores t.d c ∧
      (t.d.core c).mem = (s.d.core c).mem ∧
      ((t.d.core c).run.gln.desc k).state = (if x.pend.isNone then 3 else 1) ∧
      (∀ w, x.pend = some w → ((t.d.core c).run.gln.desc k).work = w ∧ ((t.d.core c).run.gln.desc k).deliv = 0)) ∧
  ∀ (s : State) (c : Fin 8) (k : Fin 32), let x := (s.d.core c).run.gln.desc k
    (s.d.core c).runLc < 8 → (s.d.core c).ending = false → x.state = 2 → x.drained = true → (dEos x.work = true → x.endDone = true) →
    ∃ t, exec (.stopComplete c k) s = .next t ∧ t = { s with d := { s.d with cores := t.d.cores } } ∧
      s.d.keepsCores t.d c ∧ (t.d.core c).mem = (s.d.core c).mem ∧
      (x.pend = none → ((t.d.core c).run.gln.desc k).state = 0 ∧ ((t.d.core c).run.gln.desc k).stopped = true) ∧
      (∀ w, x.pend = some w → ((t.d.core c).run.gln.desc k).work = w ∧ ((t.d.core c).run.gln.desc k).state = 1)

/-- STILE_COMPLETE ends the oldest transfer of a core, counts it and keeps the longest time; a read writes inside its
span alone and a write changes no memory of the core. WINDOW_WRITE gives a window the bytes of the oldest write, once
(R234, R236, R237, R243, R420). -/
def Obligations.StileAndWindows : Prop :=
  (∀ (s : State) (c : Fin 8) (cc lc : Nat) (q : Stile),
    s.d.headStile c = some (lc, q) → q.done = true → q.given = false → s.d.lpWaits q.ext = false →
    s.d.windowOf s.lk c q = none →
    (q.out = true → s.d.readyLine q.ext ((s.d.core c).mem.read q.loc q.len) = none) → (s.d.core c).ending = false → lc < 8 →
    ∃ t, exec (.stileComplete c cc) s = .next t ∧ t.pending = s.pending ∧ t.lk = s.lk ∧ s.d.keepsCores t.d c ∧
      t.d.reg .stl c 0x104 = satAdd (s.d.reg .stl c 0x104) 1 ∧
      t.d.reg .stl c 0x108 = max (s.d.fld .stl c 0x108 15 0) (min cc 0xFFFF) ∧
      ((t.d.core c).lcs.toList.getD lc {}).gln.stile = ((s.d.core c).lcs.toList.getD lc {}).gln.stile.tail ∧
      (q.out = true → (t.d.core c).mem = (s.d.core c).mem) ∧
      ∀ a, a < q.loc ∨ q.loc + q.len ≤ a → t.d.localByte c a = s.d.localByte c a) ∧
  ∀ (s : State) (c : Fin 8) (w : Fin 4) (lc o : Nat) (q : Stile),
    w ≠ 0 → s.d.headStile c = some (lc, q) → q.done = true → q.given = false → q.out = true → lc < 8 →
    s.d.windowOf s.lk c q = some (w.val, o) →
    (s.d.worldOf (.core c) = .nonsecure → s.d.secureAddr (s.d.target s.lk (.core c) q.ext) = false) →
    ∃ t, exec (.windowWrite w c) s = .next t ∧
      t = { s with d := { s.d with rg := t.d.rg, cores := t.d.cores, streams := t.d.streams } } ∧ s.d.keepsCores t.d c ∧
      t.d.streams = s.d.streams.setIfInBounds (8 * w.val + c.val)
        (s.d.streams.toList.getD (8 * w.val + c.val) [] ++ [(o, (s.d.core c).mem.read q.loc q.len,
          (beatParts q.ext q.len).map fun p => (s.d.core c).mem.bad (q.loc + (p.1 - q.ext)) p.2)]) ∧
      (t.d.core c).mem = (s.d.core c).mem ∧
      ((t.d.core c).lcs.toList.getD lc {}).gln.stile.head? = some { q with given := true }

/-! ## The cache page manager (R244 to R277) -/

/-- CREATE and DELETE of a page manager that is enabled, not busy and has nothing before them end with RESULT as the record
says: CREATE 2 for a valid record, 1 for a shape it does not allow, else 0; DELETE 3 for a record that is not valid,
else 0. KVP_ENABLE starts the manager with every page free (R262, R266, R276). -/
def Obligations.HistoryHostCommands : Prop :=
  (∀ (s : State) (w : World) (h : Fin 16384),
    let d := { s.d.setFld .kvp 0 0x13C 31 31 1 with kvp := { s.d.kvp with queue := [] } }
    let r := (d.histRec s.lk h false).1
    s.d.takesWrite s.lk w .kvp 0 → s.d.memWaits = false → s.d.flag .kvp 0 0x100 0 = true → s.d.flag .kvp 0 0x13C 31 = false → s.d.kvp.queue = [] →
    (∃ t, exec (.create w h) s = .next t ∧ t.pending = s.pending ∧ t.lk = s.lk ∧ t.d.kvp = s.d.kvp ∧
      t.d.reg .kvp 0 0x13C = (if r.valid then 2 else if !r.shapeOk || r.reservedSet then 1 else 0)) ∧
    ∃ t, exec (.delete w h) s = .next t ∧ t.pending = s.pending ∧ t.lk = s.lk ∧ t.d.kvp = s.d.kvp ∧
      t.d.reg .kvp 0 0x13C = (if !r.valid then 3 else 0)) ∧
  ∀ (s : State) (w : World) (v : W32),
    s.d.takesWrite s.lk w .kvp 0 → s.d.flag .kvp 0 0x100 0 = false → bit v.toNat 0 = true →
    ∃ t, exec (.kvpEnable w v) s = .next t ∧ t.pending = s.pending ∧ t.lk = s.lk ∧
      t.d.flag .kvp 0 0x100 0 = true ∧ t.d.reg .kvp 0 0x130 = s.d.reg .kvp 0 0x12C ∧
      t.d.kvp = { s.d.kvp with head := 0 }

/-- COMMIT of a page manager that stands at a commit: a refused one is counted, flagged and captured with its reason when
no capture is held, an accepted one whose page exists is counted as a commit; the queue goes on either way (R256, R257,
R276). -/
def Obligations.CommitDecides : Prop :=
  ∀ (s : State) (core : Nat) (hdr : List Byte) (pois : Bool) (cs : List KvpCmd),
    s.d.kvp.queue = .commit core hdr pois :: cs → s.d.memWaits = false → (∀ c, c < 8 → s.d.streams.toList.getD c [] = []) →
    let d0 := { s.d with kvp := { s.d.kvp with queue := cs } }
    let h := hdrHist hdr
    let l := hdrLayer hdr
    let r := (d0.histRec s.lk h).1
    let d1 := (d0.histRec s.lk h).2
    let e := if r.window = 0 then 0 else hdrExpect hdr % r.window / r.perPage
    let ent := (d1.kvpWord s.lk (d1.listAddr h l + 4 * e)).1
    let d2 := (d1.kvpWord s.lk (d1.listAddr h l + 4 * e)).2
    let side := if bit ent 31 && sideUsed r hdr then (d2.kvpRead s.lk (d2.sidecarAddr (ent % 2 ^ 24)) 64).1 else []
    let why := commitReason r hdr side (pois || stagedPoison (s.d.kvp.staging.toList.getD core {}) r.posBytes)
    ∃ t, exec .commit s = .next t ∧ t.pending = s.pending ∧ t.lk = s.lk ∧ t.d.kvp.queue = cs ∧
      t.d.cores = s.d.cores ∧
      (∀ k, why = some k → t.d.reg .kvp 0 0x144 = satAdd (s.d.reg .kvp 0 0x144) 1 ∧ t.d.flag .kvp 0 0x15C 3 = true ∧
        t.d.reg .kvp 0 0x140 = s.d.reg .kvp 0 0x140 ∧
        (s.d.flag .kvp 0 0x160 31 = false → t.d.reg .kvp 0 0x160 = 2 ^ 31 + k * 2 ^ 24 + l * 2 ^ 17 + h)) ∧
      (why = none → bit ent 31 = true → t.d.reg .kvp 0 0x140 = satAdd (s.d.reg .kvp 0 0x140) 1 ∧
        t.d.reg .kvp 0 0x144 = s.d.reg .kvp 0 0x144)

/-! ## The receive chain and the decoder farm (R278 to R319, R343 to R369) -/

/-- RXC_SWAP starts a build with the target in SWAP_TARGET, or is counted as STATE while one is in progress; BUILD_DONE
ends it with its RESULT, and the swap is pending exactly when that is 0, for the boundary of the first slot from the target on;
SWAP_DONE at that slot or a later one changes the active bank of the cell, which is then no longer pending. Both chains (R281, R282, R283, R316). -/
def Obligations.BankSwaps : Prop :=
  (∀ (s : State) (w : World) (v : W32), s.d.takesWrite s.lk w .rxc 0 → bit v.toNat 31 = true →
    ∃ t, exec (.rxcSwap w v) s = .next t ∧ t = { s with d := { s.d with rg := t.d.rg, rxc := t.d.rxc } } ∧
      (s.d.rxc.sw.build = none →
        t.d.rxc = { s.d.rxc with sw := { s.d.rxc.sw with build := some (v.toNat % 32, s.d.reg .rxc 0 0x108) } } ∧
        t.d.flag .rxc 0 0x10C 31 = true ∧ t.d.fld .rxc 0 0x10C 4 0 = v.toNat % 32 ∧
        s.d.keepsRegs t.d [(.rxc, 0, 0x10C)]) ∧
      (s.d.rxc.sw.build ≠ none → t.d.rxc = s.d.rxc ∧ t.d.reg .rxc 0 0x02C = satAdd (s.d.reg .rxc 0 0x02C) 1 ∧
        s.d.keepsRegs t.d [(.rxc, 0, 0x02C), (.rxc, 0, 0x028)])) ∧
  (∀ (s : State) (tx : Bool) (c g : Nat), (s.d.sw tx).build = some (c, g) → c < 32 →
    let r := s.d.buildResult tx c
    ∃ t, exec (.buildDone tx) s = .next t ∧ t.pending = s.pending ∧ t.lk = s.lk ∧ t.d.cores = s.d.cores ∧
      (t.d.sw tx).build = none ∧ t.d.sw (!tx) = s.d.sw (!tx) ∧
      t.d.reg (chainPage tx) 0 0x10C = r * 2 ^ 24 + c ∧ t.d.flag (chainPage tx) 0 0x118 c = (r == 0) ∧
      (r = 0 → (c, s.d.swapSlot tx c g) ∈ (t.d.sw tx).ready) ∧ (r ≠ 0 → ∀ x ∈ (t.d.sw tx).ready, x.1 ≠ c)) ∧
  ∀ (s : State) (tx : Bool) (c : Fin 32) (now g : Nat),
    s.d.slotNow (s.d.swapMu tx c) = some now → (s.d.sw tx).ready.find? (·.1 == c.val) = some (c.val, g) → g ≤ now →
    ∃ t, exec (.swapDone tx c) s = .next t ∧ t.pending = s.pending ∧ t.lk = s.lk ∧ t.d.cores = s.d.cores ∧
      t.d.tbl = s.d.tbl ∧ t.d.flag (chainPage tx) 0 0x110 c = !s.d.flag (chainPage tx) 0 0x110 c ∧
      t.d.flag (chainPage tx) 0 0x118 c = false ∧ (t.d.sw tx).ready.find? (·.1 == c.val) = none ∧
      t.d.sw (!tx) = s.d.sw (!tx)

/-- A complete block joins the queue of its code and is counted; the head of a queue goes to the lowest of the engines of its
code that hold the fewest blocks; the earliest assigned block without a span gets it; an engine starts a block that is
staged, and gives up one that was withdrawn, which is counted (R308, R344, R345, R346, R348, R352). -/
def Obligations.DecoderQueue : Prop :=
  (∀ (s : State) (c sl g r : Nat) (rest : List (Nat × Nat × Nat × Nat)) (gr : GrantSt),
    s.d.rxc.complete = (c, sl, g, r) :: rest → (s.d.rxSlot c sl).grants.find? (·.num == g) = some gr →
    (if gCode gr.bytes = 2 then s.d.fec.qT else s.d.fec.qL).length < 4096 →
    let b : Blk := { cell := c, slot := sl, grant := g, cb := r, entry := gr.bytes }
    ∃ t, exec .codeBlockQueued s = .next t ∧
      t = { s with d := { s.d with rg := t.d.rg, rxc := t.d.rxc, fec := t.d.fec } } ∧ t.d.rxc.complete = rest ∧
      t.d.fec = (if gCode gr.bytes = 2 then { s.d.fec with qT := s.d.fec.qT ++ [b] }
        else { s.d.fec with qL := s.d.fec.qL ++ [b] }) ∧
      t.d.reg .hq 0 0x100 = satAdd (s.d.reg .hq 0 0x100) 1 ∧ s.d.keepsRegs t.d [(.hq, 0, 0x100)]) ∧
  (∀ (s : State) (turbo : Bool) (b : Blk) (rest : List Blk) (n : Nat),
    let es := if turbo then rangeFrom 8 4 else List.range 8
    (if turbo then s.d.fec.qT else s.d.fec.qL) = b :: rest → s.d.fecOn = true → n ∈ es → (s.d.engine n).length < 3 →
    (∀ m ∈ es, (s.d.engine n).length ≤ (s.d.engine m).length ∧ (m < n → (s.d.engine n).length < (s.d.engine m).length)) →
    ∃ t, exec (.codeBlockAssign turbo) s = .next t ∧ t = { s with d := { s.d with fec := t.d.fec } } ∧
      t.d.engine n = s.d.engine n ++ [{ b with asg := s.d.fec.asg + 1 }] ∧ (∀ m, m ≠ n → t.d.engine m = s.d.engine m) ∧
      (if turbo then t.d.fec.qT else t.d.fec.qL) = rest ∧ (if turbo then t.d.fec.qL else t.d.fec.qT) =
        (if turbo then s.d.fec.qL else s.d.fec.qT)) ∧
  (∀ (s : State) (n : Fin 12) (b : Blk), b ∈ s.d.engine n → b.span = none → s.d.fecOn = true → s.d.memWaits = false →
    (∀ m y, y ∈ s.d.engine m → y.span = none → (b.asg ≤ y.asg ∧ (y.asg = b.asg → m = n.val))) →
    ∃ t, exec .spanFetched s = .next t ∧
      t = { s with d := { s.d with rg := t.d.rg, ms := t.d.ms, wtn := t.d.wtn, pci := t.d.pci, fec := t.d.fec } } ∧
      (∀ m, m ≠ n.val → t.d.engine m = s.d.engine m) ∧
      (t.d.engine n).map (fun x => { x with span := none }) = (s.d.engine n).map (fun x => { x with span := none }) ∧
      ∀ x ∈ t.d.engine n, x.asg = b.asg → x.span.isSome = true) ∧
  (∀ (s : State) (n : Fin 12) (b : Blk) (rest : List Blk),
    s.d.engine n = b :: rest → s.d.fecOn = true → b.span.isSome = true → b.running = false →
    ∃ t, exec (.decodeStart n) s = .next t ∧
      t = { s with d := { s.d with fec := { s.d.fec with eng := s.d.fec.eng.set n.val ({ b with running := true } :: rest) } } }) ∧
  ∀ (s : State) (n : Fin 12) (b : Blk) (rest : List Blk), s.d.engine n = b :: rest → b.stop = true →
    ∃ t, exec (.decodeStop n) s = .next t ∧ t.pending = s.pending ∧ t.lk = s.lk ∧ t.d.cores = s.d.cores ∧
      t.d.fec = { s.d.fec with eng := s.d.fec.eng.set n.val rest } ∧
      t.d.reg .fec 0 0x130 = satAdd (s.d.reg .fec 0 0x130) 1

/-- A decoded block leaves its engine and is counted with its status, and with its poison where staging had not counted that;
a contribution is taken from its core's
stream, and one whose slot has no accepted list is counted as stale; after a deadline no grant of the slot is open; a polar
request takes the next write of its core, and a finished one is counted (R301, R310, R351, R354, R361, R365, R368). -/
def Obligations.DecoderResults : Prop :=
  (∀ (s : State) (n : Fin 12) (ue : Bool) (b : Blk) (rest : List Blk),
    s.d.engine n = b :: rest → b.running = true → b.stop = false →
    let o := (decodeBlk s.d b).1
    ∃ t, exec (.codeBlockResult n ue) s = .next t ∧ t.pending = s.pending ∧ t.lk = s.lk ∧ t.d.cores = s.d.cores ∧
      t.d.fec = { s.d.fec with eng := s.d.fec.eng.set n.val rest } ∧
      t.d.reg .fec 0 0x120 = satAdd (s.d.reg .fec 0 0x120) 1 ∧
      t.d.reg .fec 0 0x124 = satAdd (s.d.reg .fec 0 0x124) (if o.status = 2 then 1 else 0) ∧
      t.d.reg .fec 0 0x128 = satAdd (s.d.reg .fec 0 0x128) (if o.status = 1 then 1 else 0) ∧
      t.d.reg .fec 0 0x12C = satAdd (s.d.reg .fec 0 0x12C) (if ue && !(decodeBlk s.d b).2 then 1 else 0)) ∧
  (∀ (s : State) (c : Fin 8),
    let st := flatStream (s.d.streams.toList.getD (8 + c.val) [])
    let h := (st.take 64).map (·.1)
    let n := ceilDiv (leAt h 8 3) 64 * 64
    let cell := bits (leAt h 0 1) 4 0
    s.d.flag .rxc 0 0x100 0 = true → 64 + n ≤ st.length → s.d.cellHeld cell = false →
    s.d.memWaits = false →
    ∃ t, exec (.contribution c) s = .next t ∧ t.pending = s.pending ∧ t.lk = s.lk ∧ t.d.cores = s.d.cores ∧
      t.d.streams = s.d.streams.setIfInBounds (8 + c.val) (chunkStream (st.drop (64 + n))) ∧
      ((∀ x ∈ s.d.rxc.slots, x.cell = cell → x.list ≠ 1) →
        t = { s with d := { s.d with rg := t.d.rg, streams := t.d.streams } } ∧
        t.d.reg .rxc 0 0x134 = satAdd (s.d.reg .rxc 0 0x134) 1 ∧ s.d.keepsRegs t.d [(.rxc, 0, 0x134)])) ∧
  (∀ (s : State) (c : Fin 32) (v : W32) (x : RxSlot),
    let n := s.d.absSlot (ceMu (s.d.activeCell false c)) v.toNat
    (s.d.rxc.slots.find? fun x => x.cell == c.val && x.seq == n) = some x → x.deadline = false → s.d.gridOn = true →
    reached s.d.ns (s.d.deadlineOf (s.d.cellFor false c n) n) = true →
    ∃ t, exec (.deadline c v) s = .next t ∧ t.pending = s.pending ∧ t.lk = s.lk ∧ t.d.cores = s.d.cores ∧
      ∀ y ∈ t.d.rxc.slots, y.cell = c.val → y.seq = n → y.deadline = true ∧ ∀ g ∈ y.grants, g.phase = 2) ∧
  (∀ (s : State) (c : Fin 8) (hd : Bool) (w : Nat × List Byte × List Bool) (rest : List (Nat × List Byte × List Bool)),
    s.d.streams.toList.getD (16 + c.val) [] = w :: rest → s.d.fecOn = true →
    ∃ t, exec (.polarRequest c hd) s = .next t ∧
      t = { s with d := { s.d with rg := t.d.rg, streams := t.d.streams, fec := t.d.fec } } ∧
      t.d.streams = s.d.streams.setIfInBounds (16 + c.val) rest) ∧
  ∀ (s : State) (n : Fin 2) (r : PolarReq), s.d.fec.polRun[n.val] = some r →
    ∃ t, exec (.polarResult n) s = .next t ∧ t.pending = s.pending ∧ t.lk = s.lk ∧ t.d.cores = s.d.cores ∧
      t.d.reg .fec 0 0x138 = satAdd (s.d.reg .fec 0 0x138) 1 ∧
      (s.d.fec.polQ = [] → t.d.fec = { s.d.fec with polRun := s.d.fec.polRun.set n.val none })

/-! ## The transmit chain (R320 to R342, R359) -/

/-- TB_COPY_DONE stages the oldest intake entry as a slot that waits for its acceptance, and consumes the entry; ENCODE takes
the earliest block that the encoders of a code hold, leaves its rate-matched bits with its grant, counts it, and its encoder is
free for a block that waits (R324, R326, R327, R359, R549). -/
def Obligations.TransmitIntake : Prop :=
  (∀ (s : State) (list : List Byte) (blocks : List (List Byte)) (it : InEntry) (rest : List InEntry),
    s.d.pci.intake = it :: rest → (∀ x, rest.head? = some x → x.bad = false) → s.d.memWaits = false →
    let c := bits (leAt it.bytes 0 1) 4 0
    let n := s.d.absSlot (ceMu (s.d.activeCell true c)) (leAt it.bytes 4 4)
    ∃ t, exec (.tbCopyDone list blocks) s = .next t ∧ t.pending = s.pending ∧ t.lk = s.lk ∧ t.d.cores = s.d.cores ∧
      t.d.pci.intake = rest ∧ t.d.reg .pci 0 0x230 = (s.d.reg .pci 0 0x230 + 1) % 2 ^ 32 ∧
      t.d.txc = { s.d.txc with
        slots := (s.d.txc.slots.filter fun y => !(y.cell == c && y.slot == n && y.state == 0)) ++
          [{ cell := c, slot := n, tick := s.d.tim.tick, list := list, base := txStage (s.d.cellFor true c n) + n % 2 * 0x200000
             tbs := stageOffsets (listEntries list) }] }) ∧
  ∀ (s : State) (turbo : Bool) (n : Nat) (b : EncBlk),
    (s.d.fec.enc.find? fun x => (x.2.code == 2) == turbo) = some (n, b) → s.d.fecOn = true →
    ∃ t, exec (.encode turbo) s = .next t ∧
      t = { s with d := { s.d with rg := t.d.rg, txc := t.d.txc, fec := { s.d.fec with enc := t.d.fec.enc } } } ∧
      t.d.txc = { s.d.txc with slots := t.d.txc.slots, enc := t.d.txc.enc } ∧ (∀ x ∈ t.d.txc.enc, x ∈ s.d.txc.enc) ∧
      (∀ x ∈ s.d.fec.enc, x.1 ≠ n → x ∈ t.d.fec.enc) ∧ (∀ x ∈ t.d.fec.enc, x.1 = n → x.2 ∈ s.d.txc.enc) ∧
      (∀ x ∈ t.d.txc.slots, x.cell = b.cell → x.slot = b.slot → ∀ g ∈ x.grants, g.num = b.grant →
        (g.coded.getLast?).map (·.1) = some b.cb) ∧
      t.d.reg .fec 0 0x134 = satAdd (s.d.reg .fec 0 0x134) 1 ∧ s.d.keepsRegs t.d [(.fec, 0, 0x134)]

/-- The window of a symbol. TX_WINDOW_OPEN, from the opening on and before the close, puts the frames of every complete stream
of the symbol behind those that wait, row after row, each with the close that bounds it; a stream that is complete has a frame
at the port of each enabled stream of its row. TX_WINDOW_CLOSE, from the close on, closes the window: streams that are not
complete are counted late, the frames that have not begun are dropped and counted, and the complete streams are counted as sent
(R333, R337). -/
def Obligations.TransmitWindows : Prop :=
  (∀ (s : State) (c : Fin 32) (v : W32) (k : Fin 14),
    let n := s.d.absSlot (ceMu (s.d.activeCell true c)) v.toNat
    let e := s.d.cellFor true c n
    s.d.gridOn = true → s.d.flag .txc 0 0x100 0 = true → ceEnable e = true →
    reached s.d.ns (s.d.txWindow e n k).1 = true → (c.val, n, k.val) ∉ s.d.txc.opened → s.d.txClosed c n k = false →
    ∃ t new, exec (.txWindowOpen c v k) s = .next t ∧ t = { s with d := { s.d with txc := t.d.txc } } ∧
      t.d.txc = { s.d.txc with
        opened := s.d.txc.opened ++ [(c.val, n, k.val)], frames := s.d.txc.frames ++ new, seqIds := t.d.txc.seqIds } ∧
      (∀ f ∈ new, f.prec = 1 ∧ f.cell = c.val ∧ f.slot = n ∧ f.sym = k.val ∧ f.close = some (s.d.txWindow e n k).2) ∧
      new.Pairwise (fun a b => a.row ≤ b.row) ∧
      (∀ f ∈ new, ∃ y ∈ s.d.txc.syms, y.cell = c.val ∧ y.slot = n ∧ y.sym = k.val ∧ y.row = f.row) ∧
      ∀ y ∈ s.d.txc.syms, y.cell = c.val → y.slot = n → y.sym = k.val → (if txEgress e then y.samples ≠ [] else ceNprb e ≠ 0) →
        ∀ p ∈ s.d.streamsOf true c n, seRow p.2 = y.row → ∃ f ∈ new, f.row = y.row ∧ f.port = sePort p.2) ∧
  ∀ (s : State) (c : Fin 32) (v : W32) (k : Fin 14),
    let n := s.d.absSlot (ceMu (s.d.activeCell true c)) v.toNat
    let e := s.d.cellFor true c n
    let rows := (s.d.streamsOf true c n).map fun p => seRow p.2
    let mine (f : TxFrame) : Bool := f.prec == 1 && f.cell == c.val && f.slot == n && f.sym == k.val
    let late := rows.filter fun a => !(s.d.txc.syms.any fun y =>
      y.cell == c.val && y.slot == n && y.sym == k.val && y.row == a && decide (y.tick ≤ s.d.tim.tick))
    s.d.gridOn = true → s.d.flag .txc 0 0x100 0 = true → ceEnable e = true →
    reached s.d.ns (s.d.txWindow e n k).2 = true → s.d.txClosed c n k = false →
    ∃ t, exec (.txWindowClose c v k) s = .next t ∧
      t = { s with d := { s.d with rg := t.d.rg, txc := t.d.txc, pci := t.d.pci } } ∧ s.d.keepsPci t.d ∧
      (c.val, n, k.val) ∈ t.d.txc.closed ∧ (c.val, n, k.val) ∉ t.d.txc.opened ∧
      t.d.txc.frames = (s.d.txc.frames.filter fun f => !mine f) ∧
      t.d.reg .txc 0 0x13C = satAdd (s.d.reg .txc 0 0x13C) (rows.length - late.length) ∧
      t.d.reg .txc 0 0x12C = satAdd (s.d.reg .txc 0 0x12C) late.length ∧
      t.d.reg .txc 0 0x130 = satAdd (s.d.reg .txc 0 0x130) (s.d.txc.frames.filter fun f => mine f && !late.contains f.row).length

/-- CPLANE_SEND at the send time of a slot puts one C-plane message for each enabled stream of the cell behind the frames that
wait, at the port of the stream, or for the uplink at that of the cell's entry; but for a PRACH stream, whose message follows its
template, each is the section type 1 message of R454 with the identifiers of the slot and the next sequence number of its
stream. The slot is done then (R335, R454, R456). -/
def Obligations.CplaneMessages : Prop :=
  ∀ (s : State) (c : Fin 32) (up : Bool) (v : W32),
    let n := s.d.absSlot (ceMu (s.d.activeCell (!up) c)) v.toNat
    let e := s.d.cellFor (!up) c n
    let te := if up then s.d.activeCell true c else e
    let ids := s.d.oranIds (ceMu e) n
    let dst := if up then 32 + c.val else c.val
    s.d.gridOn = true → s.d.flag .txc 0 0x100 0 = true → ceEnable e = true → (up = false → txEgress e = false) →
    reached s.d.ns ((s.d.symStart (ceMu e) n 0 + 2 ^ 32 - (if up then leAt te 20 4 else leAt e 4 4)) % 2 ^ 32) = true →
    (∀ x ∈ s.d.txc.cplane, x.1 = c.val → x.2.1 = up → x.2.2 < n) →
    ∃ t new, exec (.cplaneSend c up v) s = .next t ∧ t.pending = s.pending ∧ t.lk = s.lk ∧ t.d.cores = s.d.cores ∧
      (c.val, up, n) ∈ t.d.txc.cplane ∧ t.d.txc.frames = s.d.txc.frames ++ new ∧
      new.length = (s.d.streamsOf (!up) c n).length ∧
      ∀ (i : Nat) (p : Nat × List Byte) (f : TxFrame), (s.d.streamsOf (!up) c n)[i]? = some p → new[i]? = some f →
        f.prec = 0 ∧ f.cell = c.val ∧ f.slot = n ∧ f.sym = 0 ∧ f.close = none ∧
        f.port = (if up then bits (s.d.reg .eth 0 (0x408 + 16 * dst)) 3 1 else sePort p.2) ∧
        ((up = false ∨ seKind p.2 ≠ 1) → ∃ q < 256, f.bytes = s.d.ethFrame dst f.port 0xAEFE (ecpri 2 (seEaxc p.2) q
          (oranApp (if up then 0x10 else 0x90) ids.1 ids.2.1 ids.2.2 0 ++
            [1, 1, BitVec.ofNat 8 (seM p.2 % 16 * 16 + 1), 0] ++ beBytes 4 (if 255 < ceNprb e then 0 else ceNprb e) ++
            beBytes 2 0xFFFE ++ beBytes 2 0)))

/-- OVERLAY_MARKER takes the marker of a slot and fills the overlay buffer of the slot with the word that takes precoding,
shown for one in LPDDR5X with the Commons off. MASK_CHECK of a symbol of an egress cell that is its turn: with eight checks begun
within the pace of R340 it is skipped and counted; else the check is noted, and one of a symbol with power is reported, and
counted as a violation where a margin is negative (R331, R339, R340). -/
def Obligations.OverlayAndMask : Prop :=
  (∀ (s : State) (c : Fin 32) (n : Nat), s.d.txc.markers.find? (·.1 == c.val) = some (c.val, n) →
    let e := s.d.cellFor true c n
    let rp := rowP (ceNprb e)
    let rows := 14 * ceNstream e
    let base := txOvlBase e + n % 2 * (rows * rp)
    ∃ t, exec (.overlayMarker c) s = .next t ∧ t.pending = s.pending ∧ t.lk = s.lk ∧ t.d.cores = s.d.cores ∧
      t.d.txc = { s.d.txc with markers := s.d.txc.markers.filter (· != (c.val, n)) } ∧
      (s.d.flag .mem 0 0x100 0 = true → s.d.flag .cmn 0 0x100 0 = false → base + rows * rp ≤ 2 ^ 36 →
        (s.d.worldOf .txc = .nonsecure → ∀ r, r < 32 → s.d.flag .mem 0 (0x400 + 16 * r + 8) 31 = false) →
        ∀ i j, i < rows → j < 12 * ceNprb e → t.d.ms.lp.read (base + i * rp + 4 * j) 4 = leBytes 4 0x80008000)) ∧
  ∀ (s : State) (c : Fin 32) (v : W32) (k : Fin 14) (a : Nat) (y : TxSym),
    let n := s.d.absSlot (ceMu (s.d.activeCell true c)) v.toNat
    let e := s.d.cellFor true c n
    let start := ((s.d.txc.started.find? (·.1 == c.val)).map (·.2)).getD 0
    let recent := s.d.txc.monTicks.filter fun i => !s.d.elapsed i 35677
    let x := y.samples.drop (y.samples.length - 2 ^ txNfftl e)
    let pref := ((((List.range (12 * ceNprb e)).map fun i : Nat => binPower x ((i : Int) - 6 * ceNprb e)).foldl Ex.add
      (Ex.ofInt 0)).div (Ex.ofInt (12 * ceNprb e)))
    let m := (s.d.busBytes s.lk .txc (txTd e + 0x400) 256).1
    let margins := maskMargins x pref ((List.range (txMaskN e)).map fun j =>
      (toS 16 (leAt m (8 * j) 2), toS 16 (leAt m (8 * j + 2) 2), toS 16 (leAt m (8 * j + 4) 2)))
    (s.d.txc.syms.find? fun y => y.cell == c.val && y.slot == n && y.sym == k.val && y.row == a) = some y →
    txEgress e = true → txDecim e ≠ 0 → (14 * (n - start) + k.val) % txDecim e = 0 →
    ∃ t, exec (.maskCheck c v k a) s = .next t ∧ t.pending = s.pending ∧ t.lk = s.lk ∧ t.d.cores = s.d.cores ∧
      (8 ≤ recent.length → t = { s with d := { s.d with rg := t.d.rg, txc := { s.d.txc with monTicks := recent } } } ∧
        t.d.reg .txc 0 0x138 = satAdd (s.d.reg .txc 0 0x138) 1 ∧ s.d.keepsRegs t.d [(.txc, 0, 0x138)]) ∧
      (recent.length < 8 → t.d.txc = { s.d.txc with monTicks := recent ++ [s.d.tim.tick] } ∧
        t.d.reg .txc 0 0x138 = s.d.reg .txc 0 0x138 ∧
        t.d.reg .txc 0 0x144 = (if pref.num = 0 then s.d.reg .txc 0 0x144 else (s.d.reg .txc 0 0x144 + 1) % 2 ^ 32) ∧
        t.d.reg .txc 0 0x134 = satAdd (s.d.reg .txc 0 0x134)
          (if pref.num ≠ 0 ∧ margins.any (fun g => decide (g < 0)) = true then 1 else 0))

/-- SYMBOL_PRECODED of a symbol whose list is accepted, whose weights and overlay name the slot, and whose blocks are
encoded, with no symbol before it in the order of R22: the symbol joins those of its stream row, once and in order, while the window is not over (R22, R329, R330, R331). -/
def Obligations.SymbolPrecoded : Prop :=
  ∀ (s : State) (c : Fin 32) (v : W32) (k : Fin 14) (a : Nat) (x : TxSlot),
    let n := s.d.absSlot (ceMu (s.d.activeCell true c)) v.toNat
    let e := s.d.cellFor true c n
    let r1 := s.d.busBytes s.lk .txc (txWbase e + 4 * (n % 2)) 4
    let r2 := s.d.busBytes s.lk .txc (txWbase e + 8 + 4 * (n % 2)) 4
    let have' (m : Nat) : Bool := s.d.txc.syms.any fun y => y.cell == c.val && y.slot == n && y.sym == m && y.row == a
    let shut (m : Nat) : Bool := s.d.txc.closed.contains (c.val, n, m) || reached s.d.ns (s.d.txWindow e n m).2
    (s.d.txc.slots.find? fun x => x.cell == c.val && x.slot == n && x.state != 0) = some x →
    s.d.flag .txc 0 0x100 0 = true → ceEnable e = true → ((s.d.streamsOf true c n).any fun p => seRow p.2 == a) = true →
    (x.state = 2 ∨ leNat r1.1 = n % 2 ^ 32) → (txOvl e = true → leNat r2.1 = n % 2 ^ 32) →
    (∀ g ∈ x.grants, g.coded.length = (gSeg g.bytes).c) → shut k = false → have' k = false →
    (0 < k.val → have' (k.val - 1) = true ∨ shut (k.val - 1) = true) →
    (txEgress e = true → k.val = 0 → (∀ y ∈ s.d.txc.slots, y.cell = c.val → y.slot + 1 = n → y.state = 0) ∨
      (c.val, n - 1, 13) ∈ s.d.txc.closed ∨
      ∃ y ∈ s.d.txc.syms, y.cell = c.val ∧ y.slot = n - 1 ∧ y.sym = 13 ∧ y.row = a) →
    s.d.precodeBefore s.lk x = false →
    ∃ t, exec (.symbolPrecoded c v k a) s = .next t ∧ t.pending = s.pending ∧ t.lk = s.lk ∧ t.d.cores = s.d.cores ∧
      (∃ y, t.d.txc.syms = s.d.txc.syms ++ [y] ∧ y.cell = c.val ∧ y.slot = n ∧ y.sym = k.val ∧ y.row = a) ∧
      t.d.txc.slots = s.d.txc.slots ∧ t.d.txc.closed = s.d.txc.closed

/-! ## The receiver supervisor (R370 to R391) -/

/-- SET_POLICY and RESET_LOOP wait as the one command of the supervisor with BUSY set; an ALPHA that policy 3 does not allow
ends at once with RESULT 1, and a command while BUSY is counted as STATE. CONFIDENCE_REPORT takes the next report of a core:
one that is not of 16 bytes at the start of the window is discarded and counted, and one that names an entry that waits
makes it final (R379, R380, R385, R390). -/
def Obligations.SupervisorCommands : Prop :=
  (∀ (s : State) (w : World) (p : Fin 4) (a : Fin 512) (h : Fin 16384), s.d.takesWrite s.lk w .rsv 0 →
    let bad := p.val = 3 ∧ (a.val = 0 ∨ 255 < a.val)
    ∃ t, exec (.setPolicy w p a h) s = .next t ∧ t = { s with d := { s.d with rg := t.d.rg, rsv := t.d.rsv } } ∧
      (s.d.flag .rsv 0 0x11C 31 = false → ¬ bad →
        t.d.rsv = { s.d.rsv with cmd := some (1, p.val, a.val, h.val) } ∧ t.d.reg .rsv 0 0x11C = 2 ^ 31 ∧
        s.d.keepsRegs t.d [(.rsv, 0, 0x11C)]) ∧
      (s.d.flag .rsv 0 0x11C 31 = false → bad →
        t.d.rsv = s.d.rsv ∧ t.d.reg .rsv 0 0x11C = 1 ∧ s.d.keepsRegs t.d [(.rsv, 0, 0x11C)]) ∧
      (s.d.flag .rsv 0 0x11C 31 = true →
        t.d.rsv = s.d.rsv ∧ t.d.reg .rsv 0 0x02C = satAdd (s.d.reg .rsv 0 0x02C) 1 ∧
        s.d.keepsRegs t.d [(.rsv, 0, 0x028), (.rsv, 0, 0x02C)])) ∧
  (∀ (s : State) (w : World) (h : Fin 16384), s.d.takesWrite s.lk w .rsv 0 → s.d.flag .rsv 0 0x11C 31 = false →
    ∃ t, exec (.resetLoop w h) s = .next t ∧ t = { s with d := { s.d with rg := t.d.rg, rsv := t.d.rsv } } ∧
      t.d.rsv = { s.d.rsv with cmd := some (2, 0, 0, h.val) } ∧ t.d.reg .rsv 0 0x11C = 2 ^ 31 ∧
      s.d.keepsRegs t.d [(.rsv, 0, 0x11C)]) ∧
  ∀ (s : State) (c : Fin 8) (o : Nat) (bs : List Byte) (po : List Bool) (rest : List (Nat × List Byte × List Bool)),
    s.d.streams.toList.getD (24 + c.val) [] = (o, bs, po) :: rest →
    let cell := bits (leAt bs 0 1) 4 0
    let bad := o ≠ 0 ∨ bs.length ≠ 16
    ∃ t, exec (.confidenceReport c) s = .next t ∧ t.pending = s.pending ∧ t.lk = s.lk ∧ t.d.cores = s.d.cores ∧
      t.d.streams = s.d.streams.setIfInBounds (24 + c.val) rest ∧
      (bad → t = { s with d := { s.d with rg := t.d.rg, streams := t.d.streams } } ∧
        t.d.reg .rsv 0 0x144 = satAdd (s.d.reg .rsv 0 0x144) 1 ∧ t.d.flag .rsv 0 0x148 4 = true) ∧
      ∀ (pl : Plan) (e : DecEntry), ¬ bad → leAt bs 3 1 = 0 → leAt bs 10 6 = 0 → bits (leAt bs 0 1) 7 5 = 0 →
        bits (leAt bs 1 1) 7 6 = 0 → bits (leAt bs 2 1) 7 1 = 0 → s.d.rsvSplit cell ≠ 2 →
        (s.d.rsv.plans.find? fun p => p.cell == cell && s.d.decHolds cell p.slot && p.slot % 2 ^ 32 == leAt bs 4 4) = some pl →
        (pl.entries.find? (·.grant == bits (leAt bs 1 1) 5 0)) = some e → e.final = false →
        ∀ p ∈ t.d.rsv.plans, p.cell = cell → p.slot = pl.slot → ∀ x ∈ p.entries, x.grant = e.grant → x.final = true

/-! ## The job scheduler (R392 to R415) -/

/-- A waiting job is placed on the cores that the scheduler's rules choose, which it alone holds then; the image of a placed
job is loaded once, and its cores run, or the job is asked to end with reason 5 (R395, R402, R403, R406). -/
def Obligations.JobsStart : Prop :=
  (∀ (s : State) (n : Nat) (j : Job) (cs : List Nat),
    s.d.job? n = some j → s.d.placeCores s.lk j = some cs → (∀ c ∈ cs, c < 8) →
    ∃ t, exec (.jobPlacement n) s = .next t ∧
      t = { s with d := { s.d with rg := t.d.rg, cores := t.d.cores, sch := t.d.sch } } ∧
      (∀ c ∈ cs, (t.d.core c).job = some n ∧ (t.d.core c).jobid = leAt j.desc 0 4 ∧
        (t.d.core c).mem = (s.d.core c).mem) ∧
      (∀ c, c ∉ cs → t.d.core c = s.d.core c) ∧
      ((t.d.job? n).map fun x => (x.phase, x.cores, x.order, x.since)) =
        some (.placed, cs, s.d.sch.nextOrder, s.d.tim.tick)) ∧
  ∀ (s : State) (n : Nat) (j : Job), s.d.job? n = some j → j.phase = .placed → j.loaded = false → j.ends = [] →
    s.d.lpWaits (jobImage j.desc) = false →
    let c0 := j.cores.headD 0
    let r := s.d.busRead s.lk (.core c0) (s.d.partOf c0) (jobImage j.desc) 320
    let bad := r.2.1.any id || decide (0 < r.2.2.1) || decide (leAt r.1 0 4 ≠ 0x00010000) ||
      ((slice r.1 8 56).any (· != 0)) || (bitList 8 (jobLmask j.desc)).any fun k => imageEntryBad (slice r.1 (64 + 32 * k) 32)
    ∃ t, exec (.imageLoad n) s = .next t ∧ t.pending = s.pending ∧ t.lk = s.lk ∧
      (bad = true → t.d.cores = s.d.cores ∧ (t.d.job? n).map (·.ends) = some [.aborted 5]) ∧
      (bad = false → (t.d.job? n).map (·.loaded) = some true ∧
        (∀ c ∈ j.cores, c < 8 → (s.d.core c).job = some n → (s.d.core c).state = 1 → (t.d.core c).state = 2) ∧
        ∀ c, (s.d.core c).job ≠ some n → t.d.core c = s.d.core c)

/-- A placed job that stands at a pre-emption point yields its core: one with nothing to save is free at once, and one with a
logical core at a barrier shows the save, whose end a further PREEMPTION gives (the model's choice, log 110). The core keeps its
memories; the job waits again once it has left its last one. The end of a slice asks the job for its core, or starts the next slice when no BULK job waits (R403, R404,
R405). -/
def Obligations.JobsYield : Prop :=
  (∀ (s : State) (c : Fin 8) (n : Nat) (j : Job), let x := s.d.core c
    x.job = some n → s.d.job? n = some j →
    ((x.run.barrier.isSome = true ∧ x.state = 3) ∨ x.state = 5 ∨ (x.run.ended = true ∧ x.switchTo.isSome = true)) →
    x.leaving = false → s.d.deferred j = false → j.ends = [] → s.d.memWaits = false →
    let none' := x.run.ended || x.spill.any fun p => p.lc == x.runLc
    ∃ t, exec (.preemption c) s = .next t ∧ t.pending = s.pending ∧ t.lk = s.lk ∧ s.d.keepsCores t.d c ∧
      t.d.reg .sch 0 0x144 = satAdd (s.d.reg .sch 0 0x144) 1 ∧ (t.d.core c).mem = x.mem ∧
      (none' = true → t = { s with d := { s.d with rg := t.d.rg, cores := t.d.cores, sch := t.d.sch } } ∧
        s.d.keepsRegs t.d [(.sch, 0, 0x144)] ∧
        t.d.core c = { state := 0, imem := x.imem, loaded := x.loaded, mem := x.mem, evq := x.evq, ovc := x.ovc
                       cyc := x.cyc, plate := { ballast := x.plate.ballast } } ∧
        (t.d.job? n).map (·.phase) = some (if (List.range 8).any fun e => e != c.val && (s.d.core e).job == some n then j.phase
          else if jobClass j.desc < 2 then .reserved else .queued)) ∧
      (none' = false → t.d.core c = { x with
          leaving := true, state := 4, stall := 0, stallSince := none, govWait := none, switchTo := none } ∧
        (t.d.job? n).map (·.phase) = some j.phase)) ∧
  (∀ (s : State) (c : Fin 8) (n : Nat) (j : Job), let x := s.d.core c
    x.job = some n → s.d.job? n = some j → x.leaving = true →
    ∃ t, exec (.preemption c) s = .next t ∧
      t = { s with d := { s.d with cores := t.d.cores, sch := t.d.sch } } ∧ s.d.keepsCores t.d c ∧
      t.d.core c = { state := 0, imem := x.imem, loaded := x.loaded, mem := x.mem, evq := x.evq, ovc := x.ovc
                     cyc := x.cyc, plate := { ballast := x.plate.ballast } } ∧
      (t.d.job? n).map (·.phase) = some (if (List.range 8).any fun e => e != c.val && (s.d.core e).job == some n then j.phase
        else if jobClass j.desc < 2 then .reserved else .queued)) ∧
  ∀ (s : State) (n : Nat) (j : Job), s.d.job? n = some j → j.phase = .placed → jobClass j.desc = 2 → j.sliceAsk = false →
    s.d.elapsed j.since (50000 - j.debit) = true →
    ∃ t, exec (.sliceEnd n) s = .next t ∧ t = { s with d := { s.d with sch := t.d.sch } } ∧
      t.d.sch = { s.d.sch with jobs := t.d.sch.jobs } ∧
      (t.d.job? n).map (fun x => (x.sliceAsk, x.overFrom)) =
        some (if (s.d.fifoHead 2).isSome then (true, some s.d.tim.tick) else (false, j.overFrom)) ∧
      ((s.d.fifoHead 2).isNone = true → (t.d.job? n).map (fun x => (x.since, x.debit)) = some (s.d.tim.tick, 0))

/-- A SLOT job at its deadline and a core that has stalled longer than SCH_WDOG ask for the abort of the job, with reasons 2
and 3, where a job that is not placed ends at once; JOB_END takes the job away and counts it as completed, aborted or faulted, its cores are free or end, and what it held
at barriers is gone (R406, R407, R408, R414). -/
def Obligations.JobsEnd : Prop :=
  (∀ (s : State) (n : Nat) (j : Job), s.d.job? n = some j → jobClass j.desc = 0 →
    reached s.d.ns (jobDeadline j.desc) = true → j.ends = [] → s.d.sch.notices = [] →
    ∃ t, exec (.deadlineAbort n) s = .next t ∧
      (j.phase = .placed → t = { s with d := { s.d with sch := t.d.sch } } ∧
        t.d.sch = { s.d.sch with jobs := s.d.sch.jobs.map fun x =>
          if x.num = n then { x with ends := x.ends ++ [.aborted 2] } else x }) ∧
      (j.phase ≠ .placed → t.pending = s.pending ∧ t.lk = s.lk ∧ t.d.job? n = none ∧
        (∀ c, (s.d.core c).job ≠ some n → t.d.core c = s.d.core c) ∧
        t.d.reg .sch 0 0x13C = satAdd (s.d.reg .sch 0 0x13C) 1)) ∧
  (∀ (s : State) (c : Fin 8) (n since : Nat), let lim := s.d.reg .sch 0 0x104
    (s.d.core c).job = some n → (s.d.core c).stallSince = some since → (s.d.core c).state = 3 → lim ≠ 0 →
    100 * lim < 128 * (s.d.tim.tick - since) →
    ∃ t, exec (.watchdog c) s = .next t ∧ t = { s with d := { s.d with sch := t.d.sch } } ∧
      t.d.sch = { s.d.sch with jobs := s.d.sch.jobs.map fun x =>
        if x.num = n then { x with ends := x.ends ++ [.aborted 3] } else x }) ∧
  ∀ (s : State) (n : Nat) (j : Job), s.d.job? n = some j → j.ends ≠ [] →
    let done := j.ends.contains .completed
    let fault := j.ends.any fun e => match e with | .faulted _ => true | _ => false
    ∃ t, exec (.jobEnd n) s = .next t ∧ t.pending = s.pending ∧ t.lk = s.lk ∧ t.d.job? n = none ∧
      (∀ b ∈ t.d.bars, b.job ≠ n) ∧ (∀ c, (t.d.core c).job = some n → (t.d.core c).ending = true) ∧
      (∀ c, (s.d.core c).job ≠ some n → t.d.core c = s.d.core c) ∧
      t.d.reg .sch 0 0x138 = satAdd (s.d.reg .sch 0 0x138) (if done then 1 else 0) ∧
      t.d.reg .sch 0 0x13C = satAdd (s.d.reg .sch 0 0x13C) (if !done && !fault then 1 else 0) ∧
      t.d.reg .sch 0 0x140 = satAdd (s.d.reg .sch 0 0x140) (if !done && fault then 1 else 0)

/-! ## The memory system (R238 to R240, R418 to R441, R519) -/

/-- The frame of a channel has 20 positions, and each class owns as many of them as its share (R238). -/
def Obligations.FrameOwnsShares : Prop :=
  ∀ rd wr rm, sharesValid (rd, wr, rm) = true →
    (frameOf rd wr rm).length = 20 ∧ (frameOf rd wr rm).count 0 = rd ∧ (frameOf rd wr rm).count 1 = wr ∧
      (frameOf rd wr rm).count 2 = rm

/-- REFRESH counts the next refresh of the frame when its offset is reached; HOTREF gives the four channels of a package the
temperature, and above 85 °C takes up the faster timing at the start of a frame; MEMORY_BURST passes one slot of a channel, in
which the owner's earliest burst starts and no other, and a soft error that strikes LPDDR5X is found by every read of its beat:
an uncorrectable one delivers poison (R239, R431, R433, R438). That the command names the soft errors is the model's choice
(log 111). -/
def Obligations.MemoryTiming : Prop :=
  (∀ (s : State), let f := s.d.refreshFrame
    let k := if f.1 = s.d.ms.refFrame then s.d.ms.refDone else 0
    s.d.flag .mem 0 0x100 0 = true → k < s.d.refreshes → 5 * s.d.refreshAt k ≤ 6 * f.2 →
    ∃ t, exec .refresh s = .next t ∧
      t = { s with d := { s.d with ms := { s.d.ms with refFrame := f.1, refDone := k + 1 } } }) ∧
  (∀ (s : State) (k : Fin 4) (v : BitVec 8), s.d.pwr.held = false →
    ∃ t, exec (.hotref k v) s = .next t ∧ t = { s with d := { s.d with rg := t.d.rg, pci := t.d.pci } } ∧ s.d.keepsPci t.d ∧
      (∀ i, i < 4 → t.d.reg .mch (4 * k + i) 0x110 = v.toNat) ∧
      s.d.keepsRegs t.d (evtRegs ++ (List.range 4).map (fun i => (.mch, 4 * k.val + i, 0x110)) ++
        [(.mem, 0, 0x104), (.mem, 0, 0x11C), (.mem, 0, 0x020)]) ∧
      (t.d.flag .mem 0 0x104 1 = (s.d.flag .mem 0 0x104 1 ||
        (s.d.flag .mem 0 0x100 0 && !s.d.flag .mem 0 0x100 2 && decide (85 < toS 8 v.toNat) && s.d.frameStarts)))) ∧
  (∀ (s : State) (c : Fin 16) (errs : List (Fin 6 × Nat × Bool)),
    s.d.flag .mem 0 0x100 0 = true → s.d.flag .mem 0 0x104 0 = true →
    ∃ t, exec (.memoryBurst c errs) s = .next t ∧ t.pending = s.pending ∧ t.lk = s.lk ∧ t.d.cores = s.d.cores ∧
      t.d.ms.pos = s.d.ms.pos.set c.val ((s.d.ms.pos[c.val] + 1) % 20) ∧ (∀ a, t.d.ms.lp.byte a = s.d.ms.lp.byte a) ∧
      (errs = [] → t = { s with d := { s.d with ms := { s.d.ms with pos := t.d.ms.pos, bursts := t.d.ms.bursts } } }) ∧
      (nextBurst c (s.d.owner s.lk c) [] s.d.ms.bursts = none → t.d.ms.bursts = s.d.ms.bursts) ∧
      ∀ b rest, nextBurst c (s.d.owner s.lk c) [] s.d.ms.bursts = some (b, rest) →
        t.d.ms.bursts = rest ∧ b.chan = c.val ∧ b.cls = s.d.owner s.lk c) ∧
  ∀ (s : State) (c : Fin 16) (w cls : Nat) (bad : Bool), s.d.ms.lp.hit (64 * (w / 8)) 64 = false →
    ∃ t, exec (.memoryBurst c [(0, w, bad)]) s = .next t ∧
      (bad = true → (t.d.arrRead cls (w / 8)).2.1 = true ∧
        (t.d.arrRead cls (w / 8)).2.2.reg .mem 0 0x114 = satAdd (s.d.reg .mem 0 0x114) 1) ∧
      (bad = false → (t.d.arrRead cls (w / 8)).2.1 = s.d.ms.lp.bad (w / 8) ∧
        (t.d.arrRead cls (w / 8)).2.2.reg .mem 0 0x110 = satAdd (s.d.reg .mem 0 0x110) 1 ∧
        (t.d.arrRead cls (w / 8)).1 = s.d.ms.lp.read (64 * (w / 8)) 64)

/-- MEM_ENABLE starts the controller once MEM_SHARE is locked, and is otherwise counted as STATE; MEM_READY sets READY, lets
the firmware go on to RUN, and lets the accesses of the host that wait for it through; CMN_ENABLE starts the Commons with its windows zero and its cache empty; REGION_WRITE sets a word
of a region descriptor while its controller is not enabled. From the secure world (R423, R425, R437, R439, R534). -/
def Obligations.MemoryRegisters : Prop :=
  (∀ (s : State) (v : W32), s.d.takesWrite s.lk .secure .mem 0 → s.d.flag .mem 0 0x100 0 = false → bit v.toNat 0 = true →
    ∃ t, exec (.memEnable .secure v) s = .next t ∧ t = { s with d := { s.d with rg := t.d.rg, ms := t.d.ms } } ∧
      t.d.fld .mem 0 0x100 2 1 = bits v.toNat 2 1 ∧ t.d.flag .mem 0 0x100 0 = s.lk.isLocked ∧
      (s.lk.isLocked = true → t.d.ms = { s.d.ms with refStart := s.d.tim.tick, refNext := none, refFrame := (false, 0), refDone := 0 } ∧
        s.d.keepsRegs t.d [(.mem, 0, 0x100)]) ∧
      (s.lk.isLocked = false → t.d.ms = s.d.ms ∧ t.d.reg .mem 0 0x02C = satAdd (s.d.reg .mem 0 0x02C) 1 ∧
        s.d.keepsRegs t.d [(.mem, 0, 0x100), (.mem, 0, 0x028), (.mem, 0, 0x02C)])) ∧
  (∀ (s : State), s.d.flag .mem 0 0x100 0 = true →
    ∃ t, exec .memReady s = .next t ∧ t.pending = s.pending ∧ t.lk = s.lk ∧ t.d.pci.bar2 = [] ∧
      t.d.flag .mem 0 0x104 0 = true ∧ t.d.stage = (if s.d.stage = 1 then 2 else s.d.stage) ∧
      (s.d.pci.bar2 = [] → t = { s with d := { s.d with rg := t.d.rg } } ∧
        s.d.keepsRegs t.d [(.mem, 0, 0x104), (.sec, 0, 0x100)])) ∧
  (∀ (s : State) (v : W32), s.d.takesWrite s.lk .secure .cmn 0 → s.d.flag .cmn 0 0x100 0 = false → bit v.toNat 0 = true →
    ∃ t, exec (.cmnEnable .secure v) s = .next t ∧ t = { s with d := { s.d with rg := t.d.rg, ms := t.d.ms } } ∧
      t.d.reg .cmn 0 0x100 = 1 ∧ s.d.keepsRegs t.d [(.cmn, 0, 0x100)] ∧
      t.d.ms = { s.d.ms with win := t.d.ms.win, cm := t.d.ms.cm, lines := [] } ∧
      ∀ a, t.d.ms.win.byte a = 0 ∧ t.d.ms.win.bad (a / 64) = false) ∧
  ∀ (s : State) (cmn : Bool) (r : Fin 32) (k : Fin 3) (v : W32), let p : Page := if cmn then .cmn else .mem
    let o := 0x400 + 16 * r.val + 4 * k.val
    s.d.takesWrite s.lk .secure p 0 → (cmn = true → r.val < 8) → s.d.flag p 0 0x100 0 = false →
    ∃ t, exec (.regionWrite .secure cmn r k v) s = .next t ∧ t = { s with d := { s.d with rg := t.d.rg } } ∧
      t.d.reg p 0 o = (if k = 2 then v.toNat &&& 0x80000003 else v.toNat % 2 ^ 28) ∧ s.d.keepsRegs t.d [(p, 0, o)]

/-- A secure write of MEM_SHARE is ignored and counted as STATE while it is locked, and as VALUE where it sets LOCK without a
slot for each class or a sum of 20; else it takes. The shares in force are the reset values until LOCK is set (R240). -/
def Obligations.MemShareWrite : Prop :=
  ∀ (s : State) (v : W32), s.d.takesWrite s.lk .secure .mem 0 →
    let sh := shareOf v.toNat
    let ok := 1 ≤ sh.1 ∧ 1 ≤ sh.2.1 ∧ 1 ≤ sh.2.2 ∧ sh.1 + sh.2.1 + sh.2.2 = 20
    ∃ t, exec (.memShareWrite .secure v) s = .next t ∧
      t = { s with lk := { s.lk with share := t.lk.share }, d := { s.d with rg := t.d.rg } } ∧
      ((s.lk.isLocked = true ∨ (bit v.toNat 31 = true ∧ ¬ ok)) → t.lk = s.lk ∧
        t.d.reg .mem 0 0x02C = satAdd (s.d.reg .mem 0 0x02C) 1 ∧
        (s.d.flag .mem 0 0x028 31 = false → t.d.fld .mem 0 0x028 27 24 = if s.lk.isLocked then 1 else 2)) ∧
      (s.lk.isLocked = false → (bit v.toNat 31 = true → ok) → t.d = s.d ∧ t.lk.share.toNat = v.toNat &&& 0x801F1F1F ∧
        t.lk.shares = if bit v.toNat 31 then sh else (11, 5, 4))

/-- A crossing access is counted and sets XWORLD; the first since SEC_XINFO.VALID was cleared is captured with its requester,
direction and address; nothing of its target changes. A
non-secure write of an RWS register is one (R12, R519, R520, R540). -/
def Obligations.CrossingAccess : Prop :=
  (∀ (s : State) (p : Page) (n o : Nat) (v : Nat),
    s.d.takesWrite s.lk .nonsecure p n → p.isRws n o = true → pageAtIndex ((p.base n + o) / 4096) = some (p, n) →
    (p.base n + o) % 4096 = o →
    ∃ d, writeReg .nonsecure p n o v s.lk s.d = (s.lk, d) ∧ d = { s.d with rg := d.rg, pci := d.pci } ∧
      d.reg p n o = s.d.reg p n o ∧ d.reg .sec 0 0x150 = satAdd (s.d.reg .sec 0 0x150) 1 ∧ d.flag .sec 0 0x160 0 = true) ∧
  ∀ (s : State) (q : Fin 17) (wr : Bool) (a : Nat),
    s.d.worldOf (reqOfCode q) = .nonsecure → s.d.secureAddr (s.d.target s.lk (reqOfCode q) a) = true → a < 2 ^ 40 →
    ∃ t, exec (.crossingAccess q wr false a) s = .next t ∧
      t = { s with d := { s.d with rg := t.d.rg, pci := t.d.pci, out := t.d.out } } ∧ s.d.keepsPci t.d ∧
      t.d.reg .sec 0 0x150 = satAdd (s.d.reg .sec 0 0x150) 1 ∧ t.d.flag .sec 0 0x160 0 = true ∧
      t.d.out = (if q.val = 0 ∧ wr = false then s.d.out ++ [.readData [0, 0, 0, 0] false] else s.d.out) ∧
      (s.d.flag .sec 0 0x154 31 = false → t.d.reg .sec 0 0x154 = 2 ^ 31 + 256 * b2n wr + q.val ∧
        t.d.reg .sec 0 0x158 = a % 2 ^ 32 ∧ t.d.reg .sec 0 0x15C = a / 2 ^ 32) ∧
      (s.d.flag .sec 0 0x154 31 = true → ∀ o, o ∈ [0x154, 0x158, 0x15C] → t.d.reg .sec 0 o = s.d.reg .sec 0 o)

/-- A store to LPDDR5X with the Commons off: the bytes are there afterwards, and no other byte of LPDDR5X changes (R418,
R424). -/
def Obligations.StoreReadsBack : Prop :=
  ∀ (lk : Locked) (d : Dev) (q : Req) (a : Nat) (bs : List Byte) (direct : Bool),
    d.flag .mem 0 0x100 0 = true → d.flag .cmn 0 0x100 0 = false → a + bs.length ≤ 2 ^ 36 →
    (d.worldOf q = .nonsecure → ∀ r, r < 32 → d.flag .mem 0 (0x400 + 16 * r + 8) 31 = false) →
    (d.busStore lk q a bs false direct).ms.lp.read a bs.length = bs ∧
      ∀ b, b < a ∨ a + bs.length ≤ b → (d.busStore lk q a bs false direct).ms.lp.byte b = d.ms.lp.byte b

/-! ## Ethernet (R442 to R459, R471 to R473) -/

/-- ETH_ENABLE enables a present port once ETH_MODE is locked, and is otherwise counted as STATE; clearing ENABLE takes the
link down. LINK_UP sets the status of an enabled present port, LINK_DOWN clears it and sets the sticky bit; a SYNCE_OUT that
the port drives stops. The messages of the Waten engine that no port can take are dropped then (R443, R444, R470, R471, R484).
That clearing ENABLE takes the link down is the model's choice (log 20). -/
def Obligations.EthLinks : Prop :=
  (∀ (s : State) (w : World) (n : Fin 8) (v : W32), s.d.takesWrite s.lk w .eth n → s.d.ethPresent n = true →
    ∃ t, exec (.ethEnable w n v) s = .next t ∧
      t = { s with d := { s.d with
        rg := t.d.rg, out := t.d.out, wtn := t.d.wtn, sch := { s.d.sch with credits := t.d.sch.credits } } } ∧
      ((s.d.wtnOn = false ∨ bit v.toNat 0 = true) → t.d.wtn = s.d.wtn ∧ t.d.sch = s.d.sch) ∧
      t.d.fld .eth n 0x100 2 1 = bits v.toNat 2 1 ∧
      (bit v.toNat 0 = true → s.d.flag .eth 0 0x180 31 = true →
        t.d.flag .eth n 0x100 0 = true ∧ t.d.out = s.d.out ∧ s.d.keepsRegs t.d [(.eth, n.val, 0x100)]) ∧
      (bit v.toNat 0 = true → s.d.flag .eth 0 0x180 31 = false →
        t.d.flag .eth n 0x100 0 = s.d.flag .eth n 0x100 0 ∧ t.d.out = s.d.out ∧
        t.d.reg .eth n 0x02C = satAdd (s.d.reg .eth n 0x02C) 1 ∧
        s.d.keepsRegs t.d [(.eth, n.val, 0x100), (.eth, n.val, 0x028), (.eth, n.val, 0x02C)]) ∧
      (bit v.toNat 0 = false → t.d.flag .eth n 0x100 0 = false ∧ t.d.flag .eth n 0x104 0 = false ∧
        s.d.keepsRegs t.d [(.eth, n.val, 0x100), (.eth, n.val, 0x104), (.eth, n.val, 0x13C), (.eth, n.val, 0x020)])) ∧
  (∀ (s : State) (n : Fin 8), s.d.ethPresent n = true → s.d.flag .eth n 0x100 0 = true →
    ∃ t, exec (.linkUp n) s = .next t ∧ t = { s with d := { s.d with rg := t.d.rg, out := t.d.out } } ∧
      t.d.fld .eth n 0x104 2 0 = 7 ∧ s.d.keepsRegs t.d [(.eth, n.val, 0x104)]) ∧
  ∀ (s : State) (n : Fin 8), s.d.flag .eth n 0x104 0 = true →
    ∃ t, exec (.linkDown n) s = .next t ∧
      t = { s with d := { s.d with
        rg := t.d.rg, out := t.d.out, wtn := t.d.wtn, sch := { s.d.sch with credits := t.d.sch.credits } } } ∧
      (s.d.wtnOn = false → t.d.wtn = s.d.wtn ∧ t.d.sch = s.d.sch) ∧
      (s.d.wtnOn = true → ∀ m ∈ t.d.wtn.tx, m ∈ s.d.wtn.tx ∧ t.d.usable m.link ≠ []) ∧
      t.d.fld .eth n 0x104 2 0 = 0 ∧ t.d.flag .eth n 0x13C 0 = true ∧ t.d.flag .eth n 0x020 0 = true ∧
      s.d.keepsRegs t.d [(.eth, n.val, 0x104), (.eth, n.val, 0x13C), (.eth, n.val, 0x020)] ∧
      t.d.out = (if s.d.syncRuns = true ∧ s.d.fld .eth 0 0x184 2 0 = n.val then s.d.out ++ [.pin "SYNCE_OUT" false] else s.d.out)

/-- FRAME_RECEIVE counts a frame of a wrong length or FCS as an error and one for another address as discarded; an eCPRI
message of an accepted frame goes whole to the ingress buffer of its port, or nowhere while the classifier is disabled.
FRAME_TRANSMIT puts the frame of the highest precedence out; SLOW_PATH_TX sends the next slot of the transmit ring with its
FCS when nothing of higher precedence is ready. A frame that is sent carries the time-stamp of its start (R314, R445, R446,
R447, R448, R449, R452, R458, R459). -/
def Obligations.EthFrames : Prop :=
  (∀ (s : State) (n : Fin 8) (age : Nat) (bs : List Byte), s.d.linkOn n = true →
    let fr := bs.take (bs.length - 4)
    let f := ethParse fr
    let sound := 64 ≤ bs.length ∧ bs.length ≤ 9216 ∧ leAt bs (bs.length - 4) 4 = crc32 fr
    let mine := s.d.ethMine n f.dst = true ∧ ¬ (f.tci.isSome = true ∧ f.typ = 0x8100)
    ∃ t, exec (.frameReceive n age bs) s = .next t ∧ t.pending = s.pending ∧ t.lk = s.lk ∧ t.d.cores = s.d.cores ∧
      t.d.out = s.d.out ∧
      (¬ sound → t = { s with d := { s.d with rg := t.d.rg } } ∧ t.d.reg .eth n 0x124 = satAdd (s.d.reg .eth n 0x124) 1 ∧
        t.d.flag .eth n 0x13C 1 = true ∧
        s.d.keepsRegs t.d [(.eth, n.val, 0x124), (.eth, n.val, 0x13C), (.eth, n.val, 0x020)]) ∧
      (sound → ¬ mine → t = { s with d := { s.d with rg := t.d.rg } } ∧
        t.d.reg .eth n 0x130 = satAdd (s.d.reg .eth n 0x130) 1 ∧ s.d.keepsRegs t.d [(.eth, n.val, 0x130)]) ∧
      (sound → mine → t.d.reg .eth n 0x120 = satAdd (s.d.reg .eth n 0x120) 1) ∧
      (∀ m, sound → mine → f.typ = 0xAEFE → leAt f.body 1 1 ≠ 5 → s.d.ecpriCheck f.body (bs.length == 64) = some m →
        s.d.flag .fhc 0 0x100 0 = true → m.length ≤ s.d.ingressRoom n →
        t = { s with d := { s.d with rg := t.d.rg, rxc := t.d.rxc } } ∧ s.d.keepsRegs t.d [(.eth, n.val, 0x120)] ∧
        t.d.rxc = { s.d.rxc with ingress := s.d.rxc.ingress ++
          [{ port := n, tick := s.d.tim.tick, ts := s.d.stampIn n age / 2 ^ 32, bytes := m }] }) ∧
      (s.d.flag .fhc 0 0x100 0 = false → t.d.rxc = s.d.rxc)) ∧
  (∀ (s : State) (n : Fin 8) (i : Nat) (f : TxFrame),
    s.d.linkOn n = true → s.d.nextFrame n = some i → s.d.txc.frames[i]? = some f →
    ∃ t, exec (.frameTransmit n) s = .next t ∧
      t = { s with d := { s.d with rg := t.d.rg, out := s.d.out ++ [.frame n f.bytes (s.d.stampOut n)]
                                   txc := { s.d.txc with frames := s.d.txc.frames.eraseIdx i } } } ∧
      t.d.reg .eth n 0x134 = satAdd (s.d.reg .eth n 0x134) 1 ∧ s.d.keepsRegs t.d [(.eth, n.val, 0x134)]) ∧
  ∀ (s : State) (n : Fin 8),
    let rd := s.d.reg .eth n 0x164
    let a := s.d.spBase n + 0x80000 + rd % 256 * 2048
    let h := s.d.busBytes s.lk (.eth n) a 32
    let len := leAt h.1 0 2
    let b := h.2.2.busBytes s.lk (.eth n) (a + 32) len
    s.d.linkOn n = true → s.d.flag .eth n 0x100 1 = true → rd ≠ s.d.reg .eth n 0x160 → s.d.arbiter n = none →
    s.d.lpWaits (s.d.spBase n) = false →
    ∃ t, exec (.slowPathTx n) s = .next t ∧ t.pending = s.pending ∧ t.lk = s.lk ∧ t.d.cores = s.d.cores ∧
      t.d.reg .eth n 0x164 = (rd + 1) % 2 ^ 32 ∧
      (60 ≤ len ∧ len ≤ 2016 → t.d.out = s.d.out ++ [.frame n (b.1 ++ leBytes 4 (crc32 b.1)) (s.d.stampOut n)] ∧
        t.d.reg .eth n 0x134 = satAdd (s.d.reg .eth n 0x134) 1) ∧
      (¬ (60 ≤ len ∧ len ≤ 2016) → t.d.out = s.d.out ∧ t.d.reg .eth n 0x134 = s.d.reg .eth n 0x134)

/-! ## Time (R460 to R475) -/

/-- SET loads the counter, and GRID_EN starts the grid with its anchor 1 ms to 1 s ahead and stops it with every cell
disabled; either is otherwise counted as STATE. An offset below the step threshold updates the servo when that is enabled,
and a larger one becomes a step that is counted, or is held while the grid runs. A read of TIM_NOW_FRAC returns the fraction
and latches the nanoseconds (R461, R462, R463, R466). -/
def Obligations.CounterWrites : Prop :=
  (∀ (s : State) (w : World) (v : W32), s.d.takesWrite s.lk w .tim 0 → bit v.toNat 3 = true → bit v.toNat 0 = s.d.gridOn →
    ∃ t, exec (.setCounter w v) s = .next t ∧ t = { s with d := { s.d with rg := t.d.rg, tim := t.d.tim } } ∧
      t.d.fld .tim 0 0x110 2 1 = bits v.toNat 2 1 ∧ t.d.gridOn = s.d.gridOn ∧
      (s.d.gridOn = false → s.d.keepsRegs t.d [(.tim, 0, 0x110)] ∧
        t.d.tim = { s.d.tim with ns := s.d.reg .tim 0 0x114, frac := 0, corr := if bit v.toNat 1 then s.d.tim.corr else 0 }) ∧
      (s.d.gridOn = true → t.d.reg .tim 0 0x02C = satAdd (s.d.reg .tim 0 0x02C) 1 ∧
        s.d.keepsRegs t.d [(.tim, 0, 0x110), (.tim, 0, 0x028), (.tim, 0, 0x02C)] ∧
        t.d.tim = { s.d.tim with corr := if bit v.toNat 1 then s.d.tim.corr else 0 })) ∧
  (∀ (s : State) (w : World) (v : W32), let x := (s.d.reg .tim 0 0x120 + 2 ^ 32 - s.d.ns) % 2 ^ 32
    s.d.takesWrite s.lk w .tim 0 → bit v.toNat 3 = false →
    ∃ t, exec (.gridEn w v) s = .next t ∧ t.pending = s.pending ∧ t.lk = s.lk ∧ t.d.tim.ns = s.d.tim.ns ∧
      t.d.tim.frac = s.d.tim.frac ∧
      (s.d.gridOn = false → bit v.toNat 0 = true → 1000000 ≤ x ∧ x ≤ 1000000000 →
        t.d.gridOn = true ∧ t.d.tim.sub = 0 ∧ t.d.reg .tim 0 0x02C = s.d.reg .tim 0 0x02C) ∧
      (s.d.gridOn = false → bit v.toNat 0 = true → ¬ (1000000 ≤ x ∧ x ≤ 1000000000) →
        t.d.gridOn = false ∧ t.d.reg .tim 0 0x02C = satAdd (s.d.reg .tim 0 0x02C) 1) ∧
      (s.d.gridOn = true → bit v.toNat 0 = false → s.d.anyCell = true →
        t.d.gridOn = true ∧ t.d.tim.sub = s.d.tim.sub ∧ t.d.reg .tim 0 0x02C = satAdd (s.d.reg .tim 0 0x02C) 1) ∧
      (s.d.gridOn = true → bit v.toNat 0 = false → s.d.anyCell = false →
        t.d.gridOn = false ∧ t.d.tim.sub = 0 ∧ t.d.txc.frames = [])) ∧
  (∀ (s : State) (w : World) (v : W32),
    let e : Int := toS 32 v.toNat * 65536 + (s.d.reg .tim 0 0x13C % 65536 : Nat)
    let thr := s.d.reg .tim 0 0x12C * 65536
    let lim : Int := (s.d.reg .tim 0 0x138 : Nat)
    let integ := clampI (-lim) lim (s.d.tim.integ + divPow2Round ((s.d.reg .tim 0 0x134 : Nat) * e) 32)
    s.d.takesWrite s.lk w .tim 0 →
    ∃ t, exec (.timOffsetNs w v) s = .next t ∧
      t = { s with d := { s.d with rg := t.d.rg, tim := t.d.tim, pci := t.d.pci } } ∧ s.d.keepsPci t.d ∧
      (e.natAbs < thr → t.d.rg = s.d.rg ∧ t.d.pci = s.d.pci ∧
        t.d.tim = (if s.d.flag .tim 0 0x110 1 then { s.d.tim with
            integ := integ
            corr := clampI (-lim) lim (-(divPow2Round ((s.d.reg .tim 0 0x130 : Nat) * e) 32 + integ)) } else s.d.tim)) ∧
      (thr ≤ e.natAbs → s.d.gridOn = true → t.d.tim = s.d.tim ∧ t.d.flag .tim 0 0x15C 2 = true ∧
        t.d.reg .tim 0 0x154 = s.d.reg .tim 0 0x154) ∧
      (thr ≤ e.natAbs → s.d.gridOn = false → t.d.flag .tim 0 0x15C 1 = true ∧
        t.d.reg .tim 0 0x154 = satAdd (s.d.reg .tim 0 0x154) 1 ∧
        t.d.tim = { s.d.tim with step := some (s.d.tim.step.getD 0 + e * 65536) })) ∧
  ∀ (s : State) (w : World), s.d.openTo w .tim = true → (w = .nonsecure → s.d.secure .tim 0 = false) →
    ∃ t, exec (.timNowFracRead w) s = .next t ∧
      t = { s with d := { s.d with
        tim := { s.d.tim with latch := s.d.tim.ns }
        out := s.d.out ++ [.readData (leBytes 4 s.d.tim.frac) false] } }

/-- GRID_EVENT counts the subframe whose start is reached; PPS_OUT rises at TIM_PPS_NEXT, which advances by a second, and
falls TIM_PPS_WIDTH later; a rising edge of PPS_IN is captured, counted when the last capture was not cleared; a change of
PORT or DIV of SYNCE_OUT holds the output (R464, R465, R468, R469, R470). The fraction of
the 2.4 ns of input delay is the model's rounding (log 21). -/
def Obligations.GridAndPulses : Prop :=
  (∀ (s : State), s.d.gridOn = true → reached s.d.ns ((s.d.reg .tim 0 0x120 + 1000000 * s.d.tim.sub) % 2 ^ 32) = true →
    ∃ t, exec .gridEvent s = .next t ∧ t = { s with d := { s.d with tim := { s.d.tim with sub := s.d.tim.sub + 1 } } }) ∧
  (∀ (s : State), let p := s.d.reg .tim 0 0x124
    s.d.flag .tim 0 0x110 2 = true → s.d.tim.ppsHigh = none → reached s.d.ns p = true →
    ∃ t, exec .ppsOut s = .next t ∧
      t = { s with d := { s.d with
        rg := t.d.rg, tim := { s.d.tim with ppsHigh := some p }, out := s.d.out ++ [.pin "PPS_OUT" true] } } ∧
      t.d.reg .tim 0 0x124 = (p + 1000000000) % 2 ^ 32 ∧ s.d.keepsRegs t.d [(.tim, 0, 0x124)]) ∧
  (∀ (s : State) (p : Nat), s.d.tim.ppsHigh = some p → reached s.d.ns ((p + s.d.reg .tim 0 0x128) % 2 ^ 32) = true →
    ∃ t, exec .ppsOutFall s = .next t ∧
      t = { s with d := { s.d with tim := { s.d.tim with ppsHigh := none }, out := s.d.out ++ [.pin "PPS_OUT" false] } }) ∧
  (∀ (s : State), let n := (s.d.tim.ns * 2 ^ 32 + s.d.tim.frac + 2 ^ 64 - 10307921510) % 2 ^ 64
    s.d.pwr.held = false →
    ∃ t, exec .ppsIn s = .next t ∧ t = { s with d := { s.d with rg := t.d.rg, pci := t.d.pci } } ∧ s.d.keepsPci t.d ∧
      t.d.reg .tim 0 0x108 = n % 2 ^ 32 ∧ t.d.reg .tim 0 0x10C = n / 2 ^ 32 ∧ t.d.flag .tim 0 0x15C 0 = true ∧
      t.d.reg .tim 0 0x158 = (if s.d.flag .tim 0 0x15C 0 then satAdd (s.d.reg .tim 0 0x158) 1 else s.d.reg .tim 0 0x158) ∧
      s.d.keepsRegs t.d (evtRegs ++ [(.tim, 0, 0x108), (.tim, 0, 0x10C), (.tim, 0, 0x158), (.tim, 0, 0x15C), (.tim, 0, 0x020)])) ∧
  ∀ (s : State) (w : World) (v : W32), let same := s.d.reg .eth 0 0x184 &&& 0x27 = v.toNat &&& 0x27
    s.d.takesWrite s.lk w .eth 0 → s.d.ethPresent 0 = true →
    ∃ t, exec (.synceChange w v) s = .next t ∧
      t = { s with d := { s.d with rg := t.d.rg, tim := { s.d.tim with syncHeld := t.d.tim.syncHeld }, out := t.d.out } } ∧
      t.d.reg .eth 0 0x184 = v.toNat &&& 0x37 ∧ s.d.keepsRegs t.d [(.eth, 0, 0x184)] ∧
      (¬ same → t.d.tim.syncHeld = some s.d.tim.tick ∧ t.d.syncRuns = false) ∧
      (same → t.d.tim.syncHeld = s.d.tim.syncHeld) ∧
      t.d.out = (if s.d.syncRuns = t.d.syncRuns then s.d.out else s.d.out ++ [.pin "SYNCE_OUT" t.d.syncRuns])

/-! ## Alignment and admission (R467, R507 to R515) -/

/-- ALIGN_GO is taken only with the grid on and the blocks of R508 disabled, and its write is otherwise ignored whole and counted; the strobe comes once, at the boundary it was
asked for; at a pattern start from the fourth after the strobe on, with every queue empty, the queues restart and ALIGNED is
set and counted; a relock clears ALIGNED; a write of SIG_CLR waits for the next admission point, which comes once in a tick of
R510, counts itself, resets the signatures, and admits nothing stamped less than 8 ticks ago (R467, R508, R509, R510, R511,
R513). -/
def Obligations.AlignmentAndAdmission : Prop :=
  (∀ (s : State) (w : World) (v : W32),
    let ready := s.d.gridOn = true ∧ ∀ p ∈ [Page.sch, .rxc, .txc, .fec, .kvp, .rsv, .wtn], s.d.flag p 0 0x100 0 = false
    s.d.takesWrite s.lk w .det 0 → bit v.toNat 0 = true → bit v.toNat 2 = false →
    ∃ t, exec (.alignGo w v) s = .next t ∧ t = { s with d := { s.d with rg := t.d.rg, det := t.d.det } } ∧
      (ready → t.d.flag .det 0 0x104 1 = true ∧ s.d.keepsRegs t.d [(.det, 0, 0x100), (.det, 0, 0x104)] ∧
        t.d.det = { s.d.det with asked := some (s.d.det.asked.getD s.d.next125) }) ∧
      (¬ ready → t.d.det = s.d.det ∧ t.d.reg .det 0 0x02C = satAdd (s.d.reg .det 0 0x02C) 1 ∧
        s.d.keepsRegs t.d [(.det, 0, 0x028), (.det, 0, 0x02C)])) ∧
  (∀ (s : State) (k : Nat), s.d.det.asked = some k → s.d.det.strobe = none → s.d.gridOn = true → reached s.d.ns k = true →
    ∃ t, exec .alignmentStrobe s = .next t ∧
      t = { s with d := { s.d with det := { s.d.det with strobe := some s.d.tim.tick } } }) ∧
  (∀ (s : State) (k : Nat), s.d.det.strobe = some k → s.d.tim.tick % 125 = 0 → 4 ≤ s.d.tim.tick / 125 - k / 125 →
    exec (.queueRestart false) s = .next s ∧
    ∃ t, exec (.queueRestart true) s = .next t ∧
      t = { s with d := { s.d with rg := t.d.rg, det := { s.d.det with asked := none, strobe := none } } } ∧
      t.d.reg .det 0 0x104 = 1 ∧ t.d.reg .det 0 0x10C = satAdd (s.d.reg .det 0 0x10C) 1 ∧
      s.d.keepsRegs t.d [(.det, 0, 0x104), (.det, 0, 0x10C)]) ∧
  (∀ (s : State), ∃ t, exec .alignLost s = .next t ∧ t = { s with d := { s.d with rg := t.d.rg } } ∧
      t.d.flag .det 0 0x104 0 = false ∧ t.d.flag .det 0 0x120 0 = true ∧
      s.d.keepsRegs t.d [(.det, 0, 0x104), (.det, 0, 0x120), (.det, 0, 0x020)]) ∧
  (∀ (s : State) (w : World) (v : W32), s.d.takesWrite s.lk w .det 0 → bit v.toNat 0 = false → bit v.toNat 2 = true →
    ∃ t, exec (.sigClr w v) s = .next t ∧
      t = { s with d := { s.d with rg := t.d.rg, det := { s.d.det with sigClr := true } } } ∧
      s.d.keepsRegs t.d [(.det, 0, 0x100)]) ∧
  (∀ (s : State), (s.d.pwr.held = true ∨ s.d.pointDue = false ∨ s.d.det.lastAdm.map (·.1) = some s.d.tim.tick) →
    exec .admissionPoint s = .next s) ∧
  ∀ (s : State), s.d.pwr.held = false → s.d.pointDue = true → s.d.det.lastAdm.map (·.1) ≠ some s.d.tim.tick →
    ∃ t, exec .admissionPoint s = .next t ∧ t.pending = s.pending ∧ t.lk = s.lk ∧
      t.d.det = { s.d.det with sigClr := false, lastAdm := some (s.d.tim.tick, s.d.tim.ns) } ∧
      t.d.reg .det 0 0x110 = satAdd (s.d.reg .det 0 0x110) 1 ∧
      (s.d.det.sigClr = true → s.d.flag .det 0 0x100 1 = false → t.d.reg .det 0 0x118 = 0 ∧ t.d.reg .det 0 0x11C = 0xFFFFFFFF) ∧
      (∀ e ∈ s.d.pci.fetched, e.ring < 3 → s.d.tim.tick < e.stamp + 8 → e ∈ t.d.pci.fetched) ∧
      (∀ m ∈ s.d.wtn.wait, s.d.tim.tick < m.tick + 8 → m ∈ t.d.wtn.wait) ∧
      (s.d.flag .fhc 0 0x100 0 = true → ∀ f ∈ s.d.rxc.ingress, s.d.tim.tick < f.tick + 8 → f ∈ t.d.rxc.ingress)

/-! ## The Waten engine (R476 to R499) -/

/-- LINK_WRITE makes and clears a link: a new one takes a copy of its route and its credits, a cleared one drops its unsent
messages and its state; a change of a VALID link is counted as STATE. CREDIT queues its message, BEACON its
messages at the end of each 100 ms from ENABLE; ADDR_HELD holds the candidate after 300 ms without a conflict. MESSAGE_RECEIVE takes the next datagram, discards one of another version, pool,
address or sender, drops one of a class that R478 does not name, and keeps a sound message that waits for an admission point (R476, R479, R480, R481, R483, R486, R487,
R498). -/
def Obligations.WatenLinks : Prop :=
  (∀ (s : State) (w : World) (i : Fin 64) (k : Fin 2) (v : W32), let o := 0x400 + 16 * i.val
    let r := (s.d.setReg .wtn 0 o (v.toNat &&& 0x80003FFF)).busBytes s.lk .wtn
      (s.d.reg .wtn 0 0x134 + 2 ^ 32 * s.d.reg .wtn 0 0x138 + 32 * (v.toNat % 16384)) 32
    s.d.takesWrite s.lk w .wtn 0 →
    ∃ t, exec (.linkWrite w i k v) s = .next t ∧ t.pending = s.pending ∧ t.lk = s.lk ∧ t.d.cores = s.d.cores ∧
      (s.d.linkValid i = true → (k = 1 ∨ bit v.toNat 31 = true) → t = { s with d := { s.d with rg := t.d.rg } } ∧
        t.d.reg .wtn 0 0x02C = satAdd (s.d.reg .wtn 0 0x02C) 1 ∧ s.d.keepsRegs t.d [(.wtn, 0, 0x028), (.wtn, 0, 0x02C)]) ∧
      (s.d.linkValid i = false → k = 1 → t = { s with d := { s.d with rg := t.d.rg } } ∧
        t.d.reg .wtn 0 (o + 4) = v.toNat ∧ s.d.keepsRegs t.d [(.wtn, 0, o + 4)]) ∧
      (s.d.linkValid i = false → k = 0 → bit v.toNat 31 = true →
        t.d.reg .wtn 0 o = v.toNat &&& 0x80003FFF ∧ t.d.reg .wtn 0 (o + 8) = s.d.reg .wtn 0 (o + 4) % 65536 ∧
        t.d.wtn.links = s.d.wtn.links.set i.val { route := r.1 }) ∧
      (s.d.linkValid i = true → k = 0 → bit v.toNat 31 = false →
        t.d.reg .wtn 0 o = v.toNat &&& 0x3FFF ∧ t.d.reg .wtn 0 (o + 8) = 0 ∧
        t.d.wtn.links = s.d.wtn.links.set i.val {} ∧ t.d.wtn.tx = s.d.wtn.tx.filter (·.link != i.val) ∧
        s.d.keepsRegs t.d [(.wtn, 0, o), (.wtn, 0, o + 8)])) ∧
  (∀ (s : State) (i : Fin 64), s.d.wtnOn = true → s.d.linkValid i = true → s.d.usable i ≠ [] →
    (8 ≤ (s.d.link i).owedG ∨ (0 < (s.d.link i).owedM ∧ s.d.elapsed (s.d.link i).sinceM 2000 = true)) →
    (∀ m ∈ s.d.wtn.tx, m.link = i.val → m.cls ≠ 1) →
    ∃ t, exec (.credit i) s = .next t ∧ t.pending = s.pending ∧ t.lk = s.lk ∧ t.d.cores = s.d.cores ∧ t.d.rg = s.d.rg ∧
      { link := i.val, cls := 1 } ∈ t.d.wtn.tx ∧ t.d.wtn.links = s.d.wtn.links) ∧
  (∀ (s : State), s.d.wtnOn = true → s.d.elapsed s.d.wtn.beat 100000000 = true →
    ∃ t, exec .beacon s = .next t ∧
      t = { s with d := { s.d with wtn := { s.d.wtn with beacons := t.d.wtn.beacons, beat := t.d.wtn.beat } } } ∧
      s.d.wtn.beat < t.d.wtn.beat ∧ (t.d.wtn.beat - s.d.wtn.beat) % 78125000 = 0 ∧
      s.d.tim.tick - t.d.wtn.beat < 78125000 ∧
      s.d.wtn.beacons <+: t.d.wtn.beacons ∧
      ∀ p, p < 8 → bit (s.d.reg .wtn 0 0x110) p = true → s.d.linkOn p = true → p ∈ t.d.wtn.beacons) ∧
  (∀ (s : State), s.d.wtnOn = true → s.d.flag .wtn 0 0x100 1 = true → s.d.wtnState = 0 → s.d.wtn.cand < 16384 →
    s.d.elapsed s.d.wtn.since 300000000 = true →
    ∃ t, exec .addrHeld s = .next t ∧ t = { s with d := { s.d with rg := t.d.rg, pci := t.d.pci } } ∧ s.d.keepsPci t.d ∧
      t.d.wtnState = 1 ∧ t.d.wtnAddr = s.d.wtn.cand ∧ s.d.keepsRegs t.d (evtRegs ++ [(.wtn, 0, 0x104)])) ∧
  ∀ (s : State) (f : WtnFrame) (rest : List WtnFrame) (u : Udp), let e := ethParse f.bytes
    let m := u.body
    let cls := leAt m 0 1 % 16
    let sound := 32 ≤ m.length ∧ leAt m 0 1 / 16 = 1 ∧ leAt m 6 2 = s.d.reg .wtn 0 0x108 ∧ m.length = 32 + leAt m 14 2 ∧
      leAt m 14 2 ≤ 8192 ∧
      (cls ≠ 0 → s.d.wtnState ≠ 0 ∧ leAt m 4 2 = s.d.wtnAddr ∧ (s.d.linkTo (leAt m 2 2)).isSome = true)
    let x : WtnRx := { port := f.port, tick := f.tick, ts := f.ts, smac := e.src, sip := u.sip, tci := e.tci, msg := m }
    s.d.wtn.frames = f :: rest → udpParse e = some u → u.ok = true → s.d.wtnOn = true →
    ∃ t, exec .messageReceive s = .next t ∧ t.pending = s.pending ∧ t.lk = s.lk ∧ t.d.cores = s.d.cores ∧
      t.d.wtn.frames = rest ∧
      (¬ sound → t.d.wtn = { s.d.wtn with frames := rest } ∧ t.d.reg .wtn 0 0x158 = satAdd (s.d.reg .wtn 0 0x158) 1 ∧
        s.d.keepsRegs t.d [(.wtn, 0, 0x158)]) ∧
      (sound → 4 < cls → t = { s with d := { s.d with wtn := { s.d.wtn with frames := rest } } }) ∧
      (sound → (cls = 0 ∨ cls = 1 ∨ cls = 4) → (s.d.wtn.wait.filter (·.slot.isNone)).length < 16 →
        t = { s with d := { s.d with wtn := { s.d.wtn with frames := rest, wait := s.d.wtn.wait ++ [x] } } }) ∧
      ∀ (i k : Nat), sound → cls = 2 → s.d.linkTo (leAt m 2 2) = some i →
        k < s.d.fld .wtn 0 (0x404 + 16 * i) 31 24 → (s.d.link i).used.contains (false, k) = false →
        (∀ j, j < k → (s.d.link i).used.contains (false, j) = true) →
        t.d.wtn.wait = s.d.wtn.wait ++ [{ x with slot := some (i, false, k) }] ∧
        (t.d.link i).used = (s.d.link i).used ++ [(false, k)]

/-- SEND_REQUEST gives the engine a ready line, which stays in the list of its core, marked as taken, and is accepted for its
gather or counted as refused, as every request is while the engine is off (the model's choice, log 64); GATHER_OPEN opens a
gather that is due; GATHER_CLOSE ends one that is due and counts the slices that are missing (R488, R489, R490, R491, R492). -/
def Obligations.WatenGathers : Prop :=
  (∀ (s : State) (c : Fin 8) (lc : Nat) (q : Stile) (cell i lh : Nat),
    s.d.headStile c = some (lc, q) → q.done = true → q.given = false → q.out = true → lc < 8 →
    s.d.windowOf s.lk c q = none → s.d.readyLine q.ext ((s.d.core c).mem.read q.loc q.len) = some (cell, i, lh) →
    ∃ t, exec (.sendRequest c) s = .next t ∧ t.pending = s.pending ∧ t.lk = s.lk ∧ s.d.keepsCores t.d c ∧
      (t.d.core c).mem = (s.d.core c).mem ∧
      ((t.d.core c).lcs.toList.getD lc {}).gln.stile.head? = some { q with given := true } ∧
      (s.d.wtnOn = false → t.d.wtn.reqs = s.d.wtn.reqs ∧ t.d.reg .wtn 0 0x164 = satAdd (s.d.reg .wtn 0 0x164) 1 ∧
        t.d.flag .wtn 0 0x174 1 = true)) ∧
  (∀ (s : State) (c : Fin 32) (v : W32) (l : Fin 8),
    let n := s.d.absSlot (ceMu (s.d.activeCell false c)) v.toNat
    let g := s.d.gather c n l
    s.d.gridOn = true → s.d.wtnOn = true → s.d.splitEn c = true → l.val < s.d.splitNl c → g.opened = false →
    g.cell = c.val → g.slot = n → g.layer = l.val →
    reached s.d.ns (s.d.gatherTimes c n l).1 = true → reached s.d.ns (s.d.gatherTimes c n l).2 = false →
    ∃ t, exec (.gatherOpen c v l) s = .next t ∧ t.pending = s.pending ∧ t.lk = s.lk ∧ t.d.cores = s.d.cores ∧
      t.d.gather c n l = { g with opened := true } ∧
      (g.ready = none → t = { s with d := { s.d with wtn := { s.d.wtn with gathers := t.d.wtn.gathers } } })) ∧
  ∀ (s : State) (c : Fin 32) (v : W32) (l : Fin 8),
    let n := s.d.absSlot (ceMu (s.d.activeCell false c)) v.toNat
    let g := s.d.gather c n l
    let missing := (s.d.others c).filter fun k => !g.complete k
    s.d.gridOn = true → s.d.wtnOn = true → s.d.splitEn c = true → l.val < s.d.splitNl c → g.opened = true →
    reached s.d.ns (s.d.gatherTimes c n l).2 = true →
    ∃ t, exec (.gatherClose c v l) s = .next t ∧ t.pending = s.pending ∧ t.lk = s.lk ∧ t.d.cores = s.d.cores ∧
      t.d.wtn.gathers = (s.d.wtn.gathers.filter fun x => !(x.cell == c.val && x.slot == n && x.layer == l.val)) ∧
      t.d.reg .wtn 0 0x160 = satAdd (s.d.reg .wtn 0 0x160) missing.length ∧
      (missing ≠ [] → t.d.flag .wtn 0 0x174 0 = true) ∧
      (missing = [] → t.d.reg .wtn 0 0x174 = s.d.reg .wtn 0 0x174 ∧ t.d.rsv.misses = s.d.rsv.misses)

/-- BIND pairs the device with the peer of a VALID link and starts the copy, UNBIND ends the pair, TAKEOVER ends it on the
survivor with the last message applied in WTN_TKO_SEQ; each ends with the RESULT of R498. The copy ends in SYNCED; a full queue
starts it again, counted (R494, R496, R497, R498). -/
def Obligations.MirrorPair : Prop :=
  (∀ (s : State) (w : World) (peer : Fin 16384), s.d.takesWrite s.lk w .wtn 0 → s.d.flag .wtn 0 0x148 31 = false →
    ∃ t, exec (.bind w peer) s = .next t ∧ t = { s with d := { s.d with rg := t.d.rg, wtn := t.d.wtn } } ∧
      s.d.keepsRegs t.d [(.wtn, 0, 0x148)] ∧
      t.d.fld .wtn 0 0x148 3 0 = (if s.d.wtn.pair.isSome then 3 else if (s.d.linkTo peer).isNone then 1 else 0) ∧
      (t.d.fld .wtn 0 0x148 3 0 ≠ 0 → t.d.wtn = s.d.wtn) ∧
      (∀ i, s.d.wtn.pair = none → s.d.linkTo peer = some i → t.d.fld .wtn 0 0x148 17 16 = 1 ∧
        t.d.wtn = { s.d.wtn with pair := some (i, peer.val), copy := some 0, mirq := [], full := false
                                 cut := removeAll i s.d.wtn.cut })) ∧
  (∀ (s : State) (w : World), s.d.takesWrite s.lk w .wtn 0 → s.d.flag .wtn 0 0x148 31 = false →
    ∃ t, exec (.unbind w) s = .next t ∧ t = { s with d := { s.d with rg := t.d.rg, wtn := t.d.wtn } } ∧
      s.d.keepsRegs t.d [(.wtn, 0, 0x148)] ∧ t.d.fld .wtn 0 0x148 3 0 = (if s.d.wtn.pair.isNone then 2 else 0) ∧
      (s.d.wtn.pair.isSome = true → t.d.fld .wtn 0 0x148 17 16 = 0 ∧
        t.d.wtn = { s.d.wtn with pair := none, copy := none, mirq := [], full := false })) ∧
  (∀ (s : State) (w : World), s.d.takesWrite s.lk w .wtn 0 → s.d.flag .wtn 0 0x148 31 = false →
    ∃ t, exec (.takeover w) s = .next t ∧ t.pending = s.pending ∧ t.lk = s.lk ∧ t.d.cores = s.d.cores ∧ s.d.keepsPci t.d ∧
      t.d.fld .wtn 0 0x148 3 0 = (if s.d.wtn.pair.isNone then 2 else 0) ∧
      (s.d.wtn.pair = none → t = { s with d := { s.d with rg := t.d.rg } }) ∧
      ∀ i peer a, s.d.wtn.pair = some (i, peer) → (s.d.link i).applied = some a →
        t.d.wtn.pair = none ∧ t.d.wtn.copy = none ∧ t.d.wtn.mirq = [] ∧ t.d.reg .wtn 0 0x14C = a % 2 ^ 32 ∧
        (s.d.usable i ≠ [] → { link := i, cls := 4 } ∈ t.d.wtn.tx)) ∧
  (∀ (s : State) (i peer k : Nat), s.d.wtn.pair = some (i, peer) → s.d.wtn.copy = some k → s.d.nextMirror k = none →
    s.d.wtn.full = false →
    ∃ t, exec .mirrorSynced s = .next t ∧
      t = { s with d := { s.d with rg := t.d.rg, wtn := { s.d.wtn with copy := none }, pci := t.d.pci } } ∧ s.d.keepsPci t.d ∧
      t.d.fld .wtn 0 0x148 17 16 = 2 ∧ s.d.keepsRegs t.d (evtRegs ++ [(.wtn, 0, 0x148)])) ∧
  ∀ (s : State) (i peer : Nat), s.d.wtn.pair = some (i, peer) → s.d.wtn.full = true →
    ∃ t, exec .mirrorResync s = .next t ∧
      t = { s with d := { s.d with
        rg := t.d.rg, wtn := { s.d.wtn with copy := some 0, full := false }, pci := t.d.pci } } ∧ s.d.keepsPci t.d ∧
      t.d.fld .wtn 0 0x148 17 16 = 1 ∧ t.d.reg .wtn 0 0x168 = satAdd (s.d.reg .wtn 0 0x168) 1 ∧
      t.d.flag .wtn 0 0x174 2 = true ∧
      s.d.keepsRegs t.d (evtRegs ++ [(.wtn, 0, 0x148), (.wtn, 0, 0x168), (.wtn, 0, 0x174), (.wtn, 0, 0x020)])

/-! ## Imond (R516 to R541) -/

/-- BOOT does nothing unless reset is released and the locked-family PLLs have locked. The ROM stops in RECOVERY with FAIL 1
when the flash has no directory and with FAIL 2 when it has no helper data, or none as long as its digest: no core is enabled,
the default shares are locked and the memory controller is enabled. Where the helper data gives back a key of its digest and
the grade record, the owner binding and a firmware slot verify, the boot applies the grade and the floor, shows the slot and
the version, and goes on to RUN, with an empty share when no configuration record verifies (R240, R523, R528, R530, R531,
R532, R534, R536). That a helper gives back such a key is open (log 10), so this part stands under implications. -/
def Obligations.BootOutcomes : Prop :=
  (∀ (s : State) (flash : List Byte), s.d.romReady = false → exec (.boot flash) s = .next s) ∧
  (∀ (s : State) (flash : List Byte) (dir : List (Nat × Nat × Nat)) (h x y : List Byte),
    let pub := slice (Config.identityKey h) 0 96
    let en := leNat (vendorBody x 0 1)
    let floor0 := leNat (vendorBody y 152 4)
    let keys := vendorBody y 0 152
    s.d.romReady = true → s.d.flag .mem 0 0x100 0 = false →
    ∃ t, exec (.boot flash) s = .next t ∧ t.pending = s.pending ∧ t.d.cores = s.d.cores ∧
      (readDir flash = some dir → itemOf flash dir 1 = some h → 48 ≤ h.length → sha384 pub = h.drop (h.length - 48) →
        itemOf flash dir 2 = some x → 153 ≤ bodyLen x → verifies x [2] [0, 1] .bound (sha384 pub) [] = true →
        6 ≤ ((List.range 8).filter (bit en ·)).length →
        itemOf flash dir 3 = some y → 328 ≤ bodyLen y → verifies y [3] [0, 1] .bound (sha384 pub) [] = true →
        ∀ fl, (dirFind dir 4 = none ∧ fl = floor0 ∨ ∃ z, itemOf flash dir 4 = some z ∧ bodyLen z = 4 ∧
          verifies z [4] [2] .bound (sha384 pub) keys = true ∧ fl = max floor0 (leAt z 128 4)) →
        let d1 := { s.d with sec := { s.d.sec with
          dir := dir, pub := pub, ownerKeys := keys, flags := leNat (vendorBody y 156 4) } }.setReg .sec 0 0x108 fl
        ∀ k, pickSlot ((d1.slotFw flash 5).map itemVersion) ((d1.slotFw flash 6).map itemVersion) = some k →
          verifies ((itemOf flash dir 7).getD []) [7] [2] .either (sha384 pub) keys = false →
          t.lk = { coreEn := en } ∧ t.d.stage = 2 ∧ t.d.fld .sec 0 0x100 3 3 = k ∧ t.d.reg .sec 0 0x108 = fl ∧
          t.d.reg .sec 0 0x104 = itemVersion (((if k = 0 then d1.slotFw flash 5 else d1.slotFw flash 6)).getD []) % 2 ^ 32)) ∧
  ∀ (s : State) (flash : List Byte), s.d.romReady = true →
    s.d.flag .mem 0 0x100 0 = false →
    ∃ t, exec (.boot flash) s = .next t ∧ t.pending = s.pending ∧
      ∀ f, (f = 1 ∧ readDir flash = none) ∨
          (f = 2 ∧ ∃ dir, readDir flash = some dir ∧ ((itemOf flash dir 1).getD []).length < 48) →
        t.lk = { share := 0x8004050B, coreEn := 0 } ∧ t.lk.shares = (11, 5, 4) ∧
        t.d.stage = 3 ∧ t.d.fld .sec 0 0x100 15 8 = f ∧ t.d.flag .mem 0 0x100 0 = true ∧
        t = { s with lk := t.lk, d := { s.d with rg := t.d.rg, ms := t.d.ms, sec := t.d.sec } } ∧
        s.d.keepsRegs t.d [(.sec, 0, 0x100), (.mem, 0, 0x100)]

/-- The four commands of SEC_HCMD are taken with BUSY set and the RESULT they will give: 4 in another stage, 1 for a poisoned
item, else that of the checks; one while BUSY is set is counted as STATE and one longer than 8 MiB as VALUE. CMD_DONE gives the
RESULT, 3 where the item does not read back, writes the flash, puts a raised floor in force, and starts the firmware of a
recovery, which goes on to RUN unless it waits for the memory controller (R534, R536, R537, R540). -/
def Obligations.SecCommands : Prop :=
  (∀ (s : State) (w : World) (len : Nat) (c : Nat × Instr),
    c ∈ [(1, Instr.updateFw w len), (2, .raiseFloor w len), (3, .updateCfg w len), (4, .recoverBoot w len)] → len < 2 ^ 24 →
    s.d.takesWrite s.lk w .sec 0 →
    let m := s.d.mailItem s.lk (if c.1 = 4 then 0 else s.d.reg .sec 0 0x140 + 2 ^ 32 * s.d.reg .sec 0 0x144) len
    ∃ t, exec c.2 s = .next t ∧ t.pending = s.pending ∧ t.lk = s.lk ∧
      (s.d.flag .sec 0 0x14C 31 = true → t = { s with d := { s.d with rg := t.d.rg } } ∧
        t.d.reg .sec 0 0x02C = satAdd (s.d.reg .sec 0 0x02C) 1 ∧ s.d.keepsRegs t.d [(.sec, 0, 0x028), (.sec, 0, 0x02C)]) ∧
      (s.d.flag .sec 0 0x14C 31 = false → 0x800000 < len → t = { s with d := { s.d with rg := t.d.rg } } ∧
        t.d.reg .sec 0 0x02C = satAdd (s.d.reg .sec 0 0x02C) 1 ∧ s.d.keepsRegs t.d [(.sec, 0, 0x028), (.sec, 0, 0x02C)]) ∧
      (s.d.flag .sec 0 0x14C 31 = false → len ≤ 0x800000 → t.d.reg .sec 0 0x14C = 2 ^ 31 ∧
        t.d.sec = { s.d.sec with cmd := t.d.sec.cmd } ∧
        t.d.sec.cmd.map (fun k => (k.op, k.result)) = some (c.1,
          if s.d.secAllowed c.1 = false then 4 else match m.1 with | none => 1 | some x => s.d.secCheck c.1 x))) ∧
  ∀ (s : State) (ok : Bool) (k : SecCmd), s.d.sec.cmd = some k → k.result < 16 →
    let wrote := k.result = 0 ∧ k.op ≠ 4
    let r := if wrote ∧ ok = false then 3 else k.result
    ∃ t, exec (.cmdDone ok) s = .next t ∧ t.pending = s.pending ∧
      (¬ (k.op = 4 ∧ r = 0) →
        t = { s with d := { s.d with
          rg := t.d.rg, pci := t.d.pci, sec := { s.d.sec with cmd := none }
          out := if wrote then s.d.out ++ [.flashWrite k.off k.item] else s.d.out } } ∧ s.d.keepsPci t.d ∧
        t.d.reg .sec 0 0x14C = r ∧ t.d.flag .sec 0 0x160 2 = true ∧
        t.d.reg .sec 0 0x108 = (if k.op = 2 ∧ r = 0 then k.floor % 2 ^ 32 else s.d.reg .sec 0 0x108) ∧
        s.d.keepsRegs t.d (evtRegs ++ [(.sec, 0, 0x14C), (.sec, 0, 0x160), (.sec, 0, 0x020), (.sec, 0, 0x108)])) ∧
      (k.op = 4 ∧ r = 0 → s.d.cfgVerifies = false → s.d.pwr.held = false →
        t.lk = s.lk ∧ t.d.flag .sec 0 0x100 4 = true ∧ t.d.reg .sec 0 0x104 = itemVersion k.item % 2 ^ 32 ∧
        t.d.flag .sec 0 0x160 1 = true ∧ t.d.sec.cmd = none ∧
        t.d.stage = (if s.lk.isLocked = false ∧ s.d.flag .mem 0 0x100 0 = false ∨ s.d.flag .mem 0 0x104 0 = true then 2 else 1))

/-- Each SPDM request is answered with one message, and with an ERROR for a command in progress, another code, another
version or an earlier phase; GET_VERSION, GET_CAPABILITIES and NEGOTIATE_ALGORITHMS build the connection, and the rest answer
from it with the certificate chain and the measurements (R538, R539). The layout of the messages is that of DSP0274
(log 10). -/
def Obligations.SpdmMessages : Prop :=
  (∀ (s : State) (req : List Byte) (m : Instr × Nat × Nat × Nat),
    m ∈ [(Instr.getVersion req, 0x84, 0x10, 0), (.getCapabilities req, 0xE1, 0x12, 1), (.negotiateAlgorithms req, 0xE3, 0x12, 2),
      (.getDigests req, 0x81, 0x12, 3), (.getCertificate req, 0x82, 0x12, 3), (.challenge req, 0x83, 0x12, 3),
      (.getMeasurements req, 0xE0, 0x12, 3)] →
    ∃ t, exec m.1 s = .next t ∧ t = { s with d := { s.d with
        sec := { s.d.sec with spdm := t.d.sec.spdm }, fresh := t.d.fresh, out := t.d.out } } ∧
      (s.d.doeOpen = false → t = s) ∧
      (s.d.doeOpen = true → ∀ e, (e = 0x03 ∧ s.d.flag .sec 0 0x14C 31 = true) ∨
          (e = 0x01 ∧ s.d.flag .sec 0 0x14C 31 = false ∧ (leAt req 1 1 ≠ m.2.1 ∨ req.length < 4)) ∨
          (e = 0x41 ∧ s.d.flag .sec 0 0x14C 31 = false ∧ leAt req 1 1 = m.2.1 ∧ 4 ≤ req.length ∧ leAt req 0 1 ≠ m.2.2.1) ∨
          (e = 0x04 ∧ s.d.flag .sec 0 0x14C 31 = false ∧ leAt req 1 1 = m.2.1 ∧ 4 ≤ req.length ∧ leAt req 0 1 = m.2.2.1 ∧
            s.d.sec.spdm.phase < m.2.2.2) →
        t = { s with d := { s.d with out := s.d.out ++ [.doe (spdmError e)] } }) ∧
      (s.d.doeOpen = true → ∃ r, t.d.out = s.d.out ++ [.doe r])) ∧
  ∀ (s : State) (req : List Byte), s.d.doeOpen = true → s.d.flag .sec 0 0x14C 31 = false → 4 ≤ req.length →
    let op := leAt req 3 1
    (leAt req 0 2 = 0x8410 → ∃ t, exec (.getVersion req) s = .next t ∧
      t.d.out = s.d.out ++ [.doe [0x10, 0x04, 0, 0, 0, 1, 0x00, 0x12]] ∧
      t.d.sec.spdm = { phase := 1, vca := req ++ [0x10, 0x04, 0, 0, 0, 1, 0x00, 0x12] }) ∧
    (leAt req 0 2 = 0xE112 → 1 ≤ s.d.sec.spdm.phase → ∃ t r, exec (.getCapabilities req) s = .next t ∧
      t.d.out = s.d.out ++ [.doe r] ∧ [0x12, 0x61] <+: r ∧
      t.d.sec.spdm = { phase := 2, vca := s.d.sec.spdm.vca ++ req ++ r }) ∧
    (leAt req 0 2 = 0xE312 → 2 ≤ s.d.sec.spdm.phase → ∃ t r, exec (.negotiateAlgorithms req) s = .next t ∧
      t.d.out = s.d.out ++ [.doe r] ∧ [0x12, 0x63] <+: r ∧
      t.d.sec.spdm = { s.d.sec.spdm with phase := 3, vca := s.d.sec.spdm.vca ++ req ++ r }) ∧
    (leAt req 0 2 = 0x8112 → 3 ≤ s.d.sec.spdm.phase → s.d.sec.cert ≠ [] → ∃ t, exec (.getDigests req) s = .next t ∧
      t.d.out = s.d.out ++ [.doe ([0x12, 0x01, 0, 1] ++ sha384 s.d.sec.cert)]) ∧
    (leAt req 0 2 = 0x8212 → 3 ≤ s.d.sec.spdm.phase → leAt req 2 1 % 16 = 0 → leAt req 4 2 < s.d.sec.cert.length →
      let n := min (min (leAt req 6 2) (s.d.sec.cert.length - leAt req 4 2)) 4080
      ∃ t, exec (.getCertificate req) s = .next t ∧
        t.d.out = s.d.out ++ [.doe ([0x12, 0x02, 0, 0] ++ leBytes 2 n ++
          leBytes 2 (s.d.sec.cert.length - leAt req 4 2 - n) ++ slice s.d.sec.cert (leAt req 4 2) n)]) ∧
    (leAt req 0 2 = 0x8312 → 3 ≤ s.d.sec.spdm.phase → leAt req 2 1 = 0 → s.d.sec.cert ≠ [] → s.d.sec.pub ≠ [] →
      ∃ t r, exec (.challenge req) s = .next t ∧ t.d.out = s.d.out ++ [.doe r] ∧
        [0x12, 0x03, 0, 1] ++ sha384 s.d.sec.cert <+: r ∧ t.d.sec.spdm = { s.d.sec.spdm with certs := [], meas := [] }) ∧
    (leAt req 0 2 = 0xE012 → 3 ≤ s.d.sec.spdm.phase → (op ≤ 5 ∨ op = 0xFF) → s.d.sec.pub ≠ [] →
      let b := if op = 0 then [] else if op = 0xFF then s.d.measBlocks else s.d.measBlock op
      ∃ t r, exec (.getMeasurements req) s = .next t ∧ t.d.out = s.d.out ++ [.doe r] ∧
        [0x12, 0x60] ++ leBytes 1 (if op = 0 then 5 else 0) ++ [0] ++
          leBytes 1 (if op = 0 then 0 else if op = 0xFF then 5 else 1) ++ leBytes 3 b.length ++ b <+: r)

/-! ## The host interface (R542 to R560) -/

/-- A doorbell moves the host's index of its ring forward, at most to the other index or a full ring, and is otherwise ignored
and counted; ENTRY_FETCH holds the next entry of a host-produced ring with its stamp, and counts one that does not keep the
layout of an intake entry; ENTRY_ERR holds a failed entry to be discarded in its turn, or discards the intake entry that is
being copied, and counts it (R543, R547, R549, R550, R555). -/
def Obligations.HostRings : Prop :=
  (∀ (s : State) (v : W32) (c : Nat × Instr),
    c ∈ [(0, Instr.jobRingDoorbell v), (1, .intakeRingDoorbell v), (2, .payloadRingDoorbell v), (3, .deliveryRingDoorbell v),
      (4, .eventRingDoorbell v)] → s.d.openTo .nonsecure .pci = true →
    let wr := s.d.ringReg c.1 0x0C
    let rd := s.d.ringReg c.1 0x10
    let good := s.d.flag .pci 0 0x100 0 = true ∧ (if c.1 < 3 then idxDiff wr rd ≤ idxDiff v.toNat rd ∧
      idxDiff v.toNat rd ≤ 2 ^ bits (s.d.ringReg c.1 8) 4 0 else idxDiff v.toNat rd ≤ idxDiff wr rd)
    ∃ t, exec c.2 s = .next t ∧ t = { s with d := { s.d with rg := t.d.rg } } ∧
      (good → t.d.ringReg c.1 (if c.1 < 3 then 0x0C else 0x10) = v.toNat ∧
        s.d.keepsRegs t.d [(.pci, 0, 0x200 + 32 * c.1 + (if c.1 < 3 then 0x0C else 0x10))]) ∧
      (¬ good → t.d.reg .pci 0 0x188 = satAdd (s.d.reg .pci 0 0x188) 1 ∧ t.d.flag .pci 0 0x194 2 = true ∧
        s.d.keepsRegs t.d [(.pci, 0, 0x188), (.pci, 0, 0x194), (.pci, 0, 0x020)])) ∧
  (∀ (s : State) (r : Fin 3) (bs : List Byte), s.d.canFetch r = true →
    let i := s.d.pci.fetchIdx.toList.getD r.val 0
    let bad := r.val = 1 ∧ intakeOk (slice bs 0 32) = false
    let x : InEntry := { ring := r.val, idx := i, stamp := s.d.tim.tick, bytes := slice bs 0 (entrySize r), bad := decide bad }
    ∃ t, exec (.entryFetch r bs) s = .next t ∧ t = { s with d := { s.d with rg := t.d.rg, pci := t.d.pci } } ∧
      t.d.pci.fetched = s.d.pci.fetched ++ [x] ∧
      t.d.pci.fetchIdx = s.d.pci.fetchIdx.setIfInBounds r.val ((i + 1) % 2 ^ 32) ∧
      t.d.reg .pci 0 0x18C = (if bad then satAdd (s.d.reg .pci 0 0x18C) 1 else s.d.reg .pci 0 0x18C) ∧
      (¬ bad → t.d.rg = s.d.rg)) ∧
  (∀ (s : State) (r : Fin 3), s.d.canFetch r = true →
    let i := s.d.pci.fetchIdx.toList.getD r.val 0
    ∃ t, exec (.entryErr r false) s = .next t ∧ t = { s with d := { s.d with rg := t.d.rg, pci := t.d.pci } } ∧
      t.d.reg .pci 0 0x18C = satAdd (s.d.reg .pci 0 0x18C) 1 ∧ t.d.flag .pci 0 0x194 3 = true ∧
      t.d.pci.fetched.map (fun e => (e.ring, e.idx, e.stamp, e.bad)) =
        s.d.pci.fetched.map (fun e => (e.ring, e.idx, e.stamp, e.bad)) ++ [(r.val, i, s.d.tim.tick, true)]) ∧
  ∀ (s : State) (r : Fin 3) (x : InEntry) (rest : List InEntry), s.d.pci.intake = x :: rest →
    (∀ y, rest.head? = some y → y.bad = false) →
    ∃ t, exec (.entryErr r true) s = .next t ∧
      t = { s with d := { s.d with rg := t.d.rg, pci := t.d.pci, out := t.d.out } } ∧ t.d.pci.intake = rest ∧
      t.d.reg .pci 0 0x18C = satAdd (s.d.reg .pci 0 0x18C) 1 ∧
      t.d.reg .pci 0 0x230 = (s.d.reg .pci 0 0x230 + 1) % 2 ^ 32

/-- RECORD_WRITE writes the oldest delivery record, its payload before it, or the oldest event, to its ring and advances WR,
while the rings run and its ring has room. MSIX_MESSAGE of a ring that is due and BLOCK_INTERRUPT of a page with an unmasked
interrupt send the message of their vector, or make a masked one pending. BAR2_ACCESS writes what the host writes, answers a
read, counts an access outside the map, and waits while it meets LPDDR5X that is not ready (R419, R543, R545, R548, R552, R556, R557, R560, R592). -/
def Obligations.HostWrites : Prop :=
  (∀ (s : State) (r : UlRec) (l : List UlRec), s.d.ringsOn = true → s.d.pci.records = r :: l → s.d.ringFree 3 ≠ 0 →
    ∃ t, exec (.recordWrite true) s = .next t ∧
      t = { s with d := { s.d with rg := t.d.rg, pci := t.d.pci, out := t.d.out } } ∧ t.d.pci.records = l ∧
      t.d.ringReg 3 0x0C = (s.d.ringReg 3 0x0C + 1) % 2 ^ 32 ∧ s.d.keepsRegs t.d [(.pci, 0, 0x26C)] ∧
      s.d.out ++ (if r.payload.isEmpty then [] else [.hostWrite (leAt r.bytes 20 8) r.payload]) ++
        [.hostWrite (s.d.entryAddr 3 (s.d.ringReg 3 0x0C)) r.bytes] <+: t.d.out) ∧
  (∀ (s : State) (e : List Byte) (l : List (List Byte)), s.d.ringsOn = true → s.d.pci.events = e :: l → s.d.ringFree 4 ≠ 0 →
    (∀ c, c < 8 → (s.d.core c).evq = [] ∧ (s.d.core c).ovc = none) →
    ∃ t, exec (.recordWrite false) s = .next t ∧
      t = { s with d := { s.d with rg := t.d.rg, pci := t.d.pci, out := t.d.out } } ∧ t.d.pci.events = l ∧
      t.d.ringReg 4 0x0C = (s.d.ringReg 4 0x0C + 1) % 2 ^ 32 ∧ s.d.keepsRegs t.d [(.pci, 0, 0x28C)] ∧
      s.d.out ++ [.hostWrite (s.d.entryAddr 4 (s.d.ringReg 4 0x0C)) e] <+: t.d.out) ∧
  (∀ (s : State) (v : Nat) (i : Instr), s.d.pci.linkUp = true →
    (∃ (r : Fin 5) (n : Nat), i = .msixMessage r ∧ v = r.val + 1 ∧ s.d.ringsOn = true ∧
      s.d.pci.since.toList.getD r.val 0 = n ∧ 0 < n ∧ bits (s.d.ringReg r 0x14) 15 0 ≤ n) ∨
    (∃ k p n, i = .blockInterrupt k ∧ pageAtIndex k = some (p, n) ∧ p ≠ .pwr ∧ pageThere s.lk p n = true ∧
      s.d.secure p n = false ∧ s.d.irqHigh p n = true ∧ v = s.d.route k) →
    ∃ t, exec i s = .next t ∧ t = { s with d := { s.d with pci := t.d.pci, out := t.d.out } } ∧
      (bit (s.d.msixWord v 3) 0 = false →
        t.d.out = s.d.out ++ [.msix v (s.d.msixWord v 0 + 2 ^ 32 * s.d.msixWord v 1) (s.d.msixWord v 2)] ∧
        t.d.pci.pba = s.d.pci.pba) ∧
      (bit (s.d.msixWord v 3) 0 = true → t.d.out = s.d.out ∧ v ∈ t.d.pci.pba)) ∧
  (∀ (s : State) (a n : Nat) (bs : List Byte) (po : Bool), s.d.bar2Open a bs.length = true → s.d.lpWaits a = false →
    s.d.pci.bar2 = [] →
    let x := s.d.busWrite s.lk .host 0 a bs (List.replicate (bs.length / 64 + 2) po)
    ∃ t, exec (.bar2Access true a n bs po) s = .next t ∧ t.pending = s.pending ∧ t.lk = s.lk ∧ t.d.out = s.d.out ∧
      t.d = { x.2 with rg := t.d.rg } ∧
      t.d.reg .pci 0 0x190 = satAdd (s.d.reg .pci 0 0x190) (if x.1 = 0 then 0 else 1)) ∧
  (∀ (s : State) (a n : Nat) (wr : Bool) (bs : List Byte) (po : Bool), let x : Bar2Req :=
      { wr := wr, addr := a, len := if wr then bs.length else n, bytes := bs, poison := po }
    s.d.bar2Open a x.len = true → s.d.lpWaits a = true →
    exec (.bar2Access wr a n bs po) s =
      .next { s with d := { s.d with pci := { s.d.pci with bar2 := s.d.pci.bar2 ++ [x] } } }) ∧
  ∀ (s : State) (a n : Nat) (bs : List Byte) (po : Bool), s.d.bar2Open a n = true → s.d.lpWaits a = false →
    s.d.pci.bar2 = [] →
    let x := s.d.busRead s.lk .host 0 a n
    ∃ t, exec (.bar2Access false a n bs po) s = .next t ∧ t.pending = s.pending ∧ t.lk = s.lk ∧ t.d.cores = s.d.cores ∧
      (∃ p, t.d.out = s.d.out ++ [.readData x.1 p] ∧ (x.2.2.1 = 0 → p = x.2.1.any id)) ∧
      t.d.reg .pci 0 0x190 = satAdd (s.d.reg .pci 0 0x190) (if x.2.2.1 = 0 then 0 else 1)

/-! ## The register map (R10 to R12, R49, R105, R516 to R521, R590 to R601) -/

/-- IRQ_FORCE sets bits of IRQ_STATUS. BLK_RESET returns the registers of its page to their reset values and sets RST_BUSY,
and is counted as STATE where R593 does not allow it; BLK_RESET_DONE clears RST_BUSY. CLR clears the four counts of a page
(R49, R472, R592, R593). -/
def Obligations.BlockRegisters : Prop :=
  (∀ (s : State) (w : World) (k : Nat) (v : W32) (p : Page) (n : Nat), pageAtIndex k = some (p, n) →
    s.d.takesWrite s.lk w p n →
    ∃ t, exec (.irqForce w k v) s = .next t ∧ t = { s with d := { s.d with rg := t.d.rg } } ∧
      t.d.reg p n 0x020 = s.d.reg p n 0x020 ||| (v.toNat &&& p.rawBits) ∧ s.d.keepsRegs t.d [(p, n, 0x020)]) ∧
  (∀ (s : State) (w : World) (k : Nat) (v : W32) (p : Page) (n : Nat), pageAtIndex k = some (p, n) →
    s.d.takesWrite s.lk w p n → bit v.toNat 0 = true →
    ∃ t, exec (.blkReset w k v) s = .next t ∧ t.pending = s.pending ∧ t.lk = s.lk ∧
      (s.d.resetAllowed s.lk p n = false → t = { s with d := { s.d with rg := t.d.rg } } ∧
        t.d.reg p n 0x02C = satAdd (s.d.reg p n 0x02C) 1 ∧ s.d.keepsRegs t.d [(p, n, 0x028), (p, n, 0x02C)]) ∧
      (s.d.resetAllowed s.lk p n = true → t.d.flag p n 0x014 1 = true ∧
        (∀ o, 0x100 ≤ o → o < 0x1000 → ¬ (p = .eth ∧ o = 0x180) → t.d.reg p n o = (regReset (p.base n + o)).toNat) ∧
        (∀ o, o ∈ [0x020, 0x028, 0x02C] → t.d.reg p n o = (regReset (p.base n + o)).toNat) ∧
        (∀ o, o ∈ [0x008, 0x010, 0x01C] → t.d.reg p n o = s.d.reg p n o) ∧
        ∀ q m o, o < 0x1000 → pageAtIndex (q.base m / 0x1000) = some (q, m) → (q, m) ≠ (p, n) → (p = .mem → q ≠ .mch) →
          t.d.reg q m o = s.d.reg q m o)) ∧
  (∀ (s : State) (k : Nat) (p : Page) (n : Nat), pageAtIndex k = some (p, n) → s.d.flag p n 0x014 1 = true →
    ∃ t, exec (.blkResetDone k) s = .next t ∧ t = { s with d := { s.d with rg := t.d.rg } } ∧
      t.d.flag p n 0x014 1 = false ∧ s.d.keepsRegs t.d [(p, n, 0x014)]) ∧
  ∀ (s : State) (w : World) (k : Nat) (v : W32) (p : Page) (n : Nat), pageAtIndex k = some (p, n) → p.numeric = true →
    s.d.takesWrite s.lk w p n →
    ∃ t, exec (.clr w k v) s = .next t ∧ t = { s with d := { s.d with rg := t.d.rg } } ∧
      t.d.flag p n 0x1C0 0 = bit v.toNat 0 ∧
      (∀ o, o ∈ [0x1C4, 0x1C8, 0x1CC, 0x1D0] → t.d.reg p n o = if bit v.toNat 1 then 0 else s.d.reg p n o) ∧
      s.d.keepsRegs t.d [(p, n, 0x1C0), (p, n, 0x1C4), (p, n, 0x1C8), (p, n, 0x1CC), (p, n, 0x1D0)]

/-- A read of a word answers its value and clears its RC bits, one of CORE_CYC_LO latches the high word, one where no page
lies answers zero and is counted, and one of BAR4 outside the MSI-X table and the PBA answers zero. A write of the whole word of
an interrupt mask or of a sticky register sets its RW bits and clears the W1C bits written as 1; one that covers a word only in
part changes nothing and is counted as PARTIAL; a write of BAR4 at a doorbell offset is that doorbell (R10, R11, R12, R105,
R555, R557, R590, R594). -/
def Obligations.RegisterAccess : Prop :=
  (∀ (s : State) (w : World) (a : Nat), a % 4 = 0 → s.d.answers w = true →
    ∃ t, exec (.rcRead w false a 4) s = .next t ∧
      (∀ p n, pageAtIndex (a / 4096) = some (p, n) → pageThere s.lk p n = true → s.d.openTo w p = true →
        (w = .nonsecure → s.d.secure p n = false ∨ headerReads (a % 4096) = true) →
        t.d.out = s.d.out ++ [.readData (leBytes 4 (s.d.regValue s.lk p n (a % 4096))) false] ∧
        ∀ r, p.row n (a % 4096) = some r → (p, a % 4096) ≠ (.tim, 0x100) → (p, a % 4096) ≠ (.core, 0x118) →
          (p = .eth → s.d.ethPresent n = true) →
          t = { s with d := { s.d with rg := t.d.rg, out := t.d.out } } ∧
          t.d.reg p n (a % 4096) = s.d.reg p n (a % 4096) &&& (0xFFFFFFFF - r.rc) ∧
          ∀ q m o, q.base m + o ≠ p.base n + a % 4096 → t.d.reg q m o = s.d.reg q m o) ∧
      (pageAtIndex (a / 4096) = none → t = { s with d := { s.d with rg := t.d.rg, out := t.d.out } } ∧
        t.d.out = s.d.out ++ [.readData [0, 0, 0, 0] false] ∧
        (s.d.stage ≠ 3 → t.d.reg .dev 0 0x02C = satAdd (s.d.reg .dev 0 0x02C) 1))) ∧
  (∀ (s : State) (w : World) (a n : Nat), s.d.answers .nonsecure = true → a + n ≤ 0xF0000 →
    ∃ t, exec (.rcRead w true a n) s = .next t ∧
      t = { s with d := { s.d with out := s.d.out ++ [.readData (List.replicate n 0) false] } }) ∧
  (∀ (s : State) (w : World) (c : Fin 8), s.d.openTo w .core = true → bit s.lk.coreEn c = true →
    (w = .nonsecure → s.d.secure .core c = false) →
    ∃ t, exec (.coreCycLoRead w c) s = .next t ∧ t = { s with d := { s.d with rg := t.d.rg, out := t.d.out } } ∧
      t.d.out = s.d.out ++ [.readData (leBytes 4 ((s.d.core c).cyc % 2 ^ 32)) false] ∧
      t.d.reg .core c 0x11C = (s.d.core c).cyc / 2 ^ 32 % 2 ^ 32 ∧ s.d.keepsRegs t.d [(.core, c.val, 0x11C)]) ∧
  (∀ (s : State) (w : World) (a : Nat) (bs : List Byte) (p : Page) (n : Nat) (r : RegRow),
    let o := a % 4096
    pageAtIndex (a / 4096) = some (p, n) → p.row n o = some r → r.rws = 0 → a % 4 = 0 →
    (o = 0x01C ∨ (o = p.sticky.1 ∧ 0x100 ≤ o)) → (p = .eth → s.d.ethPresent n = true) →
    s.d.takesWrite s.lk w p n →
    (bs.length = 4 → ∃ t, exec (.registerWrite w false a bs) s = .next t ∧
      t = { s with d := { s.d with rg := t.d.rg } } ∧ s.d.keepsRegs t.d [(p, n, o)] ∧
      t.d.reg p n o = (s.d.reg p n o &&& (0xFFFFFFFF - r.rw) &&& (0xFFFFFFFF - (leNat bs &&& r.w1c))) ||| (leNat bs &&& r.rw)) ∧
    (0 < bs.length → bs.length < 4 → ∃ t, exec (.registerWrite w false a bs) s = .next t ∧
      t = { s with d := { s.d with rg := t.d.rg } } ∧ t.d.reg .dev 0 0x02C = satAdd (s.d.reg .dev 0 0x02C) 1 ∧
      s.d.keepsRegs t.d [(.dev, 0, 0x028), (.dev, 0, 0x02C)] ∧
      (s.d.flag .dev 0 0x028 31 = false → t.d.reg .dev 0 0x028 = 2 ^ 31 + 3 * 2 ^ 24 + a))) ∧
  ∀ (s : State) (w : World) (r : Fin 5) (bs : List Byte), bs.length = 4 → s.d.openTo .nonsecure .pci = true →
    ∃ t, exec (.registerWrite w true (0x1000 * r.val) bs) s = .next t ∧
      t = { s with d := { s.d with rg := t.d.rg } } ∧ t.d = s.d.doorbell r (leNat bs)

/-- In every page, IRQ_RAW shows the bits of the page's sticky register that its section names, and no other bit: 0 to 4 in the
order of ETH_STICKY and FHC_STICKY, 0 to 2 of FEC, DET and PWR, bits 0 and 1 of HQ; POISON then TB_WAIT in HCH; POISON,
RANGE, REARM_OVR, DROP and SHORT in GLN; OVC, POISON, PCBAD and PE_PARITY in PLT; and in SEM one bit for all of SEM_BROKEN
(R152, R208, R242, R315, R319, R369, R417, R473, R515, R589). -/
def Obligations.IrqRawFollowsSticky : Prop :=
  (∀ (lk : Locked) (d : Dev) (n i : Nat), bit (d.regValue lk .eth n 0x018) i = (decide (i < 5) && d.flag .eth n 0x13C i)) ∧
  (∀ (lk : Locked) (d : Dev) (i : Nat), bit (d.regValue lk .fhc 0 0x018) i = (decide (i < 5) && d.flag .fhc 0 0x11C i)) ∧
  (∀ (lk : Locked) (d : Dev) (i : Nat), bit (d.regValue lk .fec 0 0x018) i = (decide (i < 3) && d.flag .fec 0 0x140 i)) ∧
  (∀ (lk : Locked) (d : Dev) (i : Nat), bit (d.regValue lk .det 0 0x018) i = (decide (i < 3) && d.flag .det 0 0x120 i)) ∧
  (∀ (lk : Locked) (d : Dev) (i : Nat), bit (d.regValue lk .pwr 0 0x018) i = (decide (i < 3) && d.flag .pwr 0 0x148 i)) ∧
  (∀ (lk : Locked) (d : Dev) (i : Nat), bit (d.regValue lk .hq 0 0x018) i = (decide (i < 2) && d.flag .hq 0 0x110 i)) ∧
  (∀ (lk : Locked) (d : Dev) (n i : Nat), bit (d.regValue lk .hch n 0x018) i =
    (decide (i < 2) && d.flag .hch n 0x114 (([0, 2] : List Nat).getD i 0))) ∧
  (∀ (lk : Locked) (d : Dev) (n i : Nat), bit (d.regValue lk .gln n 0x018) i =
    (decide (i < 5) && d.flag .gln n 0x11C (([1, 2, 0, 3, 4] : List Nat).getD i 0))) ∧
  (∀ (lk : Locked) (d : Dev) (n i : Nat), bit (d.regValue lk .plt n 0x018) i =
    (decide (i < 4) && d.flag .plt n 0x120 (([1, 2, 3, 0] : List Nat).getD i 0))) ∧
  ∀ (lk : Locked) (d : Dev) (i : Nat), bit (d.regValue lk .sem 0 0x018) i =
    (decide (i = 0) && (List.range 64).any fun k => d.flag .sem 0 (0x108 + 4 * (k / 32)) (k % 32))

/-! ## Power, reset and board management (R561 to R589) -/

/-- PWR_DVFS takes a legal point, with a relock where the clock differs, and is otherwise refused with its reason; RELOCK_DONE
ends the relock after 150 µs. PWR_GOV takes a legal CAP while the scheduler is off. VCORE_SAMPLE shows VDD_CORE and sets UV at
the tenth low sample. GOVERNOR_QUANTUM moves the level by at most one slew step and lights ballast on enabled cores (R565,
R566, R568, R570, R573). -/
def Obligations.PowerPoints : Prop :=
  (∀ (s : State) (v : W32), let p := bits v.toNat 2 0
    let low := pointMv s.d.point < pointMv p ∧ 100 * s.d.fld .pwr 0 0x110 11 0 < 97 * pointMv p
    let why := if 5 ≤ p then 3 else if s.d.flag .sch 0 0x100 0 = true then 2 else if low then 1 else 0
    s.d.takesWrite s.lk .secure .pwr 0 →
    ∃ t, exec (.pwrDvfs .secure v) s = .next t ∧
      t = { s with d := { s.d with rg := t.d.rg, pwr := { s.d.pwr with relock := t.d.pwr.relock } } } ∧
      t.d.fld .pwr 0 0x104 11 8 = why ∧
      (why ≠ 0 → t.d.point = s.d.point ∧ t.d.pwr = s.d.pwr ∧ t.d.reg .pwr 0 0x02C = satAdd (s.d.reg .pwr 0 0x02C) 1 ∧
        s.d.keepsRegs t.d [(.pwr, 0, 0x104), (.pwr, 0, 0x028), (.pwr, 0, 0x02C)]) ∧
      (why = 0 → pointMhz s.d.point = pointMhz p → t.d.point = p ∧ t.d.pwr = s.d.pwr ∧
        s.d.keepsRegs t.d [(.pwr, 0, 0x104)]) ∧
      (why = 0 → pointMhz s.d.point ≠ pointMhz p → t.d.point = p ∧ t.d.pwr.relock = some s.d.tim.tick ∧
        t.d.flag .pwr 0 0x104 31 = true ∧ t.d.flag .cru 0 0x100 0 = false ∧ t.d.flag .det 0 0x104 0 = false ∧
        t.d.reg .cru 0 0x104 = satAdd (s.d.reg .cru 0 0x104) 1)) ∧
  (∀ (s : State) (k : Nat), s.d.pwr.relock = some k → s.d.elapsed k 150000 = true →
    ∃ t, exec .relockDone s = .next t ∧
      t = { s with d := { s.d with rg := t.d.rg, pwr := { s.d.pwr with relock := none } } } ∧
      t.d.flag .pwr 0 0x104 31 = false ∧ t.d.flag .cru 0 0x100 0 = true ∧
      s.d.keepsRegs t.d [(.pwr, 0, 0x104), (.cru, 0, 0x100)]) ∧
  (∀ (s : State) (v : W32), let on := s.d.flag .sch 0 0x100 0
    s.d.takesWrite s.lk .secure .pwr 0 →
    ∃ t, exec (.pwrGov .secure v) s = .next t ∧ t = { s with d := { s.d with rg := t.d.rg } } ∧
      (on = false → capOk (v.toNat % 512) = true → t.d.reg .pwr 0 0x100 = v.toNat % 512 ∧
        s.d.keepsRegs t.d [(.pwr, 0, 0x100)]) ∧
      (on = true ∨ capOk (v.toNat % 512) = false → t.d.reg .pwr 0 0x02C = satAdd (s.d.reg .pwr 0 0x02C) 1 ∧
        s.d.keepsRegs t.d [(.pwr, 0, 0x028), (.pwr, 0, 0x02C)])) ∧
  (∀ (s : State) (mv : Nat), mv < 4096 → s.d.pwr.held = false → let low := 100 * mv < 97 * pointMv s.d.point
    ∃ t, exec (.vcoreSample mv) s = .next t ∧
      t = { s with d := { s.d with rg := t.d.rg, pwr := { s.d.pwr with uvRun := if low then s.d.pwr.uvRun + 1 else 0 } } } ∧
      t.d.reg .pwr 0 0x110 = mv ∧ (low → s.d.pwr.uvRun = 9 → t.d.flag .pwr 0 0x148 2 = true) ∧
      ((¬ low ∨ s.d.pwr.uvRun ≠ 9) → s.d.keepsRegs t.d [(.pwr, 0, 0x110)])) ∧
  ∀ (s : State), let l := s.d.fld .pwr 0 0x10C 12 0
    let slew := s.d.fld .pwr 0 0x100 8 0
    let want := s.d.runningAll + (List.range 8).foldl (fun a c => a + ((s.d.core c).govWait.getD 0)) 0
    let n := (enabledCores s.lk).length
    let lv := min (min (l + slew) (max want (l - slew))) (n * bmax s.d.point)
    s.d.pwr.held = false → s.d.flag .pwr 0 0x108 0 = false →
    ∃ t, exec .governorQuantum s = .next t ∧
      t = { s with d := { s.d with rg := t.d.rg, cores := t.d.cores, fresh := t.d.fresh } } ∧
      t.d.fld .pwr 0 0x10C 12 0 = lv % 8192 ∧ t.d.fld .pwr 0 0x10C 28 16 = want % 8192 ∧
      t.d.reg .pwr 0 0x114 = satAdd (s.d.reg .pwr 0 0x114) (if s.d.runningAll < lv then 1 else 0) ∧
      s.d.keepsRegs t.d ([(.pwr, 0, 0x10C), (.pwr, 0, 0x114)] ++ (List.range 8).map (.plt, ·, 0x124)) ∧
      ∀ c, c < 8 → t.d.core c = { s.d.core c with plate := { (s.d.core c).plate with ballast := (t.d.core c).plate.ballast } } ∧
        (bit s.lk.coreEn c = false → t.d.core c = s.d.core c)

/-- SENSOR_READ shows the readings and throttles from THR on until 3 °C below it. I3C_WRITE of two bytes sets the offset that
I3C_READ then reads from the PWR page; ALERT_N follows the unmasked interrupts of the PWR page; BOUNDARY_SCAN answers IDCODE,
bypasses, and does nothing for EXTEST and CLAMP outside a reset by RST_N (R579, R582, R583, R584). -/
def Obligations.SensorsAndManagement : Prop :=
  (∀ (s : State) (ts : List Int), ts.length = 24 → s.d.pwr.held = false →
    let h := (hottest ts).2
    let thr : Int := 4 * (s.d.fld .pwr 0 0x140 15 8 : Nat)
    ∃ t, exec (.sensorRead ts) s = .next t ∧
      t = { s with d := { s.d with rg := t.d.rg, pwr := { s.d.pwr with hottest := h, warned := t.d.pwr.warned } } } ∧
      (∀ i, i < 24 → t.d.reg .pwr 0 (0x180 + 4 * i) = ofS 16 (ts.getD i 0)) ∧
      t.d.reg .pwr 0 0x144 = 65536 * (hottest ts).1 + ofS 16 h ∧
      t.d.flag .pwr 0 0x108 0 = (if thr ≤ h then true else if h < thr - 12 then false else s.d.flag .pwr 0 0x108 0) ∧
      (thr ≤ h → s.d.flag .pwr 0 0x108 0 = false → t.d.flag .pwr 0 0x148 1 = true) ∧
      ∀ i, i < 24 → ts.getD i 0 ≤ h) ∧
  (∀ (s : State) (bs : List Byte), s.d.pwr.held = false →
    ∃ t, exec (.i3cWrite bs) s = .next t ∧
      t = { s with d := { s.d with pwr := { s.d.pwr with i3c := if bs.length = 2 then some (leNat bs) else s.d.pwr.i3c } } }) ∧
  (∀ (s : State) (o : Nat), s.d.pwr.held = false → s.d.pwr.i3c = some o → o % 4 = 0 → o < 4096 →
    ∃ t, exec .i3cRead s = .next t ∧
      t = { s with d := { s.d with out := s.d.out ++ [.readData (leBytes 4 (s.d.regValue s.lk .pwr 0 o)) false] } }) ∧
  (∀ (s : State), let low := s.d.irqHigh .pwr 0 && !s.d.pwr.held
    low ≠ s.d.pwr.alertLow →
    ∃ t, exec .alertN s = .next t ∧
      t = { s with d := { s.d with
        pwr := { s.d.pwr with alertLow := low }
        out := s.d.out ++ [.pin "ALERT_N" !low] ++ if low then [.pin "I3C_IBI" true] else [] } }) ∧
  ∀ (s : State) (i : Fin 6) (bs : List Bool),
    let acts := s.d.pwr.held = true ∧ s.d.pwr.rstLow = true
    ∃ t, exec (.boundaryScan i bs) s = .next t ∧
      ((i = 3 ∨ i = 4) → ¬ acts → t = s) ∧
      ((i ≠ 3 ∧ i ≠ 4) ∨ acts →
        t = { s with d := { s.d with
          pwr := { s.d.pwr with jtag := i.val, bsr := if i = 2 ∨ i = 3 then bs else s.d.pwr.bsr }
          fresh := t.d.fresh, out := t.d.out } } ∧
        (i = 1 → t.d.out = s.d.out ++ [.scan (bitsOf 32 0x1483A2C7)]) ∧
        (i = 0 ∨ i = 4 ∨ i = 5 → t.d.out = s.d.out ++ [.scan ((false :: bs).take bs.length)]))

/-- Each source of reset returns every register to its reset value, but for PWR_RST_CAUSE, which gains the bit of the source,
and PWR_RSTCFG; POR and a brown-out that loses VDD_AUX return those too. MEM_SHARE and the grade are lost, and the device is
held. A short pulse of RST_N, a sensor below the trip level and another value in PWR_SWRST reset nothing; PERST_N of PCIe
scope resets the PCI page alone (R562, R576, R577, R578, R580, R588). -/
def Obligations.Resets : Prop :=
  (∀ (s : State) (k : Nat) (i : Instr),
    (k = 1 ∧ i = .brownout true) ∨ (k = 2 ∧ ∃ ns, 1000 ≤ ns ∧ i = .rstPin ns) ∨
      (k = 3 ∧ i = .perst ∧ s.d.flag .pwr 0 0x124 0 = false) ∨ (k = 4 ∧ i = .refclkLoss) ∨
      (k = 5 ∧ i = .thermtrip ∧ 440 ≤ s.d.pwr.hottest) ∨
      (k = 6 ∧ i = .swrst .secure 0xA55A ∧ s.d.takesWrite s.lk .secure .pwr 0) →
    ∃ t, exec i s = .next t ∧ t.pending = s.pending ∧ t.lk = {} ∧
      t.d = { Dev.fresh0 s.d.fresh with rg := t.d.rg, pwr := t.d.pwr, out := t.d.out } ∧ t.d.pwr.held = true ∧
      t.d.reg .pwr 0 0x120 = s.d.reg .pwr 0 0x120 ||| 2 ^ k ∧ t.d.reg .pwr 0 0x124 = s.d.reg .pwr 0 0x124 ∧
      (∀ p n o, p.base n + o ≠ 0x2120 → p.base n + o ≠ 0x2124 → t.d.reg p n o = (regReset (p.base n + o)).toNat) ∧
      s.d.out <+: t.d.out) ∧
  (∀ (s : State) (i : Instr), i = .por ∨ i = .brownout false →
    ∃ t, exec i s = .next t ∧ t.pending = s.pending ∧ t.lk = {} ∧
      t.d = { Dev.fresh0 s.d.fresh with pwr := t.d.pwr, out := t.d.out } ∧ t.d.pwr.held = true ∧
      t.d.pwr.auxLost = decide (i = .brownout false) ∧ s.d.out <+: t.d.out) ∧
  (∀ (s : State) (i : Instr), (∃ ns, ns < 100 ∧ i = .rstPin ns) ∨ (i = .thermtrip ∧ s.d.pwr.hottest < 440) → exec i s = .next s) ∧
  (∀ (s : State) (v : W32), v ≠ 0xA55A → s.d.takesWrite s.lk .secure .pwr 0 →
    ∃ t, exec (.swrst .secure v) s = .next t ∧ t = { s with d := { s.d with rg := t.d.rg } } ∧
      t.d.reg .pwr 0 0x02C = satAdd (s.d.reg .pwr 0 0x02C) 1 ∧ s.d.keepsRegs t.d [(.pwr, 0, 0x028), (.pwr, 0, 0x02C)]) ∧
  (∀ (s : State), s.d.flag .pwr 0 0x124 0 = true → s.d.pwr.held = false →
    ∃ t, exec .perst s = .next t ∧
      t = { s with d := { s.d with
        rg := t.d.rg, pci := t.d.pci, pwr := { s.d.pwr with perstLow := true, pcieHeld := true } } } ∧
      t.d.pci.linkUp = false ∧ t.d.pci.events = s.d.pci.events ∧ t.d.pci.records = s.d.pci.records ∧
      (∀ o, 0x100 ≤ o → o < 0x1000 → t.d.reg .pci 0 o = (regReset (0xC0000 + o)).toNat) ∧
      ∀ p n o, (p.base n + o < 0xC0000 ∨ 0xC1000 ≤ p.base n + o) → t.d.reg p n o = s.d.reg p n o) ∧
  (∀ (s : State), ∃ t, exec .perstRelease s = .next t ∧
      t = { s with d := { s.d with
        pwr := { s.d.pwr with perstLow := false, pcieHeld := false }
        pci := { s.d.pci with linkUp := s.d.pwr.pcieHeld || s.d.pci.linkUp } } }) ∧
  (∀ (s : State), s.d.pwr.held = true → s.d.pwr.auxLost = false → s.d.pwr.tripped = false →
    (s.d.pwr.perstLow = true → s.d.flag .pwr 0 0x124 0 = true) →
    ∃ t, exec .resetRelease s = .next t ∧
      t = { s with d := { s.d with
        pwr := { s.d.pwr with held := false, rstLow := false, refclk := true, pcieHeld := s.d.pwr.perstLow }
        pci := { s.d.pci with linkUp := !s.d.pwr.perstLow } } }) ∧
  (∀ (s : State) (i : Fin 9), s.d.pwr.held = false →
    ∃ t, exec (.pllLock i) s = .next t ∧
      t = { s with d := { s.d with rg := t.d.rg, pwr := { s.d.pwr with lost := removeAll i.val s.d.pwr.lost } } } ∧
      t.d.flag .cru 0 0x100 i = true ∧
      (i.val ∈ s.d.pwr.lost → t.d.flag .det 0 0x104 0 = false ∧ t.d.reg .cru 0 0x104 = satAdd (s.d.reg .cru 0 0x104) 1) ∧
      (i.val ∉ s.d.pwr.lost → s.d.keepsRegs t.d [(.cru, 0, 0x100)])) ∧
  ∀ (s : State) (i : Fin 4), s.d.flag .cru 0 0x100 i = true →
    ∃ t, exec (.losesLock i) s = .next t ∧
      t = { s with d := { s.d with rg := t.d.rg, pwr := { s.d.pwr with lost := insertSorted i.val s.d.pwr.lost } } } ∧
      t.d.flag .cru 0 0x100 i = false ∧ i.val ∈ t.d.pwr.lost ∧ s.d.keepsRegs t.d [(.cru, 0, 0x100)]

/-! ## The whole machine -/

/-- With nothing commanded a step is one tick of TIME_CLK: the counter adds INCR and CORR and takes a step that waits, and
stands while the device is held in reset; a SYNCE_OUT that a change held starts again after its 1 µs (R460, R462, R463,
R470). That the empty queue ticks is the model's choice (log 2). -/
def Obligations.EmptyQueueTicks : Prop :=
  ∀ (s : State), s.pending = [] →
    let c : Int := (s.d.tim.ns * 2 ^ 32 + s.d.tim.frac : Nat)
    ∃ t, step s = .next t ∧
      t = { s with d := { s.d with tim := { s.d.tim with
        tick := s.d.tim.tick + 1, ns := t.d.tim.ns, prev := t.d.tim.prev, frac := t.d.tim.frac, step := t.d.tim.step
        syncHeld := t.d.tim.syncHeld }, out := t.d.out } } ∧
      (s.d.pwr.held = true → t.d.tim = { s.d.tim with tick := s.d.tim.tick + 1 } ∧ t.d.out = s.d.out) ∧
      (s.d.pwr.held = false → t.d.tim.step = none ∧ t.d.tim.prev = s.d.tim.ns ∧
        (s.d.tim.syncHeld = none → t.d.tim.syncHeld = none ∧ t.d.out = s.d.out) ∧
        (∀ k, s.d.tim.syncHeld = some k → 128 * (s.d.tim.tick + 1 - k) < 100000 →
          t.d.tim.syncHeld = some k ∧ t.d.out = s.d.out) ∧
        (∀ k, s.d.tim.syncHeld = some k → 100000 ≤ 128 * (s.d.tim.tick + 1 - k) → t.d.tim.syncHeld = none ∧
          s.d.out <+: t.d.out) ∧ t.d.tim.frac < 2 ^ 32 ∧
        t.d.tim.ns * 2 ^ 32 + t.d.tim.frac = ofS 64 (c + s.d.incr + s.d.corr - s.d.tim.step.getD 0))

/-- A locked MEM_SHARE and the grade stay as they are through every command but a boot and the resets of the device, which
leave it held in reset (R240, R530, R593). -/
def Obligations.LockedPartsStay : Prop :=
  ∀ (s t : State) (i : Instr), exec i s = .next t → (∀ flash, i ≠ .boot flash) → t.d.pwr.held = false →
    t.lk.coreEn = s.lk.coreEn ∧ (s.lk.isLocked = true → t.lk.share = s.lk.share)

/-- The state after reset is sound. -/
def Obligations.SoundAtReset : Prop := State.reset.Sound

/-- Every step keeps the state sound: locked shares give each class a slot and sum to 20 (R240), and a grade enables six to
eight cores (R530). -/
def Obligations.SoundKept : Prop := ∀ (s t : State), s.Sound → step s = .next t → t.Sound

/-- CALL with eight entries already on the return stack faults. RET with an empty return stack faults (R93). The bundle is one
that would issue: Hatch is not frozen, no load is poisoned, and no slot from G on executes anything that could hold it. -/
def Obligations.ReturnStackFaults : Prop :=
  ∀ (s : State) (c : Fin 8) (cc fr cor : Nat) (imem : Bool) (bad : List Nat),
    let x := ((s.d.softErrors c { imem := imem, corrected := cor, bad := bad }).passCycles c cc fr).core c
    let ws := slotsOf x.imem x.run.pc
    let w := ws.getD 1 0
    ((s.d.core c).state = 2 ∨ (s.d.core c).state = 3) → (s.d.core c).switchTo = none →
    (s.d.core c).frozenNow cc fr = false → x.poisonLoads = [] →
    (∀ i < 8, 1 < i → x.run.executes (ws.getD i 0) = false ∨ ws.getD i 0 = 0) → x.run.executes w = true →
    ((opcOf w = 0x41 ∧ 8 ≤ x.run.rstack.length) ∨ (opcOf w = 0x42 ∧ x.run.rstack = [])) →
    ∃ t, exec (.bundleIssue c cc fr imem cor bad) s = .next t ∧ (t.d.core c).state = 6
end

