-- ==== Sys2Proof/Laws/Mem.lean ====
section
/-! SUPPORT. Laws of the byte memories: a read gives the last byte written, a write leaves every other byte alone, and
every operation keeps the canonical form. -/

namespace Sys2Proof.Machine

/-! ## Association lists -/

theorem amGet_amPut_self {α : Type} (l : List (Nat × α)) (a : Nat) (v : α) : amGet (amPut l a v) a = some v := by
  induction l with
  | nil => simp [amPut, amGet]
  | cons x l ih => simp only [amPut]; split_ifs with h h' <;> simp [amGet, h, ih]

theorem amGet_amPut_ne {α : Type} (l : List (Nat × α)) {a b : Nat} (v : α) (h : a ≠ b) :
    amGet (amPut l a v) b = amGet l b := by
  induction l with
  | nil => simp [amPut, amGet, h]
  | cons x l ih =>
    simp only [amPut]; split_ifs with h1 h2
    · subst h1; simp [amGet, h]
    · simp [amGet, h]
    · simp [amGet, ih]

theorem amGet_amDel_self {α : Type} (l : List (Nat × α)) (a : Nat) : amGet (amDel l a) a = none := by
  induction l with
  | nil => rfl
  | cons x l ih => simp only [amDel]; split_ifs with h <;> simp [amGet, h, ih]

theorem amGet_amDel_ne {α : Type} (l : List (Nat × α)) {a b : Nat} (h : a ≠ b) : amGet (amDel l a) b = amGet l b := by
  induction l with
  | nil => rfl
  | cons x l ih =>
    simp only [amDel]; split_ifs with h1
    · subst h1; simp [amGet, h, ih]
    · simp [amGet, ih]

theorem mem_amDel {α : Type} {l : List (Nat × α)} {a : Nat} {c : Nat × α} (h : c ∈ amDel l a) : c ∈ l ∧ c.1 ≠ a := by
  induction l with
  | nil => simp [amDel] at h
  | cons x l ih =>
    simp only [amDel] at h; split_ifs at h with h1
    · exact ⟨List.mem_cons_of_mem _ (ih h).1, (ih h).2⟩
    · rcases List.mem_cons.mp h with rfl | h
      · exact ⟨List.mem_cons_self, h1⟩
      · exact ⟨List.mem_cons_of_mem _ (ih h).1, (ih h).2⟩

theorem mem_amPut {α : Type} {l : List (Nat × α)} {a : Nat} {v : α} {c : Nat × α} (h : c ∈ amPut l a v) :
    c = (a, v) ∨ c ∈ l := by
  induction l with
  | nil => simpa [amPut] using h
  | cons x l ih =>
    simp only [amPut] at h; split_ifs at h with h1 h2
    · rcases List.mem_cons.mp h with rfl | h
      · exact .inl rfl
      · exact .inr (List.mem_cons_of_mem _ h)
    · rcases List.mem_cons.mp h with rfl | h
      · exact .inl rfl
      · exact .inr h
    · rcases List.mem_cons.mp h with rfl | h
      · exact .inr List.mem_cons_self
      · exact (ih h).imp id (List.mem_cons_of_mem _)

theorem rising_amDel {α : Type} {l : List (Nat × α)} (a : Nat) (h : l.Pairwise fun x y => x.1 < y.1) :
    (amDel l a).Pairwise fun x y => x.1 < y.1 := by
  induction l with
  | nil => exact h
  | cons x l ih =>
    simp only [amDel]; split_ifs
    · exact ih h.of_cons
    · exact List.pairwise_cons.mpr ⟨fun c hc => (List.pairwise_cons.mp h).1 c (mem_amDel hc).1, ih h.of_cons⟩

theorem rising_amPut {α : Type} {l : List (Nat × α)} (a : Nat) (v : α) (h : l.Pairwise fun x y => x.1 < y.1) :
    (amPut l a v).Pairwise fun x y => x.1 < y.1 := by
  induction l with
  | nil => simp [amPut]
  | cons x l ih =>
    have hx := (List.pairwise_cons.mp h).1
    simp only [amPut]; split_ifs with h1 h2
    · exact List.pairwise_cons.mpr ⟨fun c hc => h1 ▸ hx c hc, h.of_cons⟩
    · refine List.pairwise_cons.mpr ⟨fun c hc => ?_, h⟩
      rcases List.mem_cons.mp hc with rfl | hc
      · exact h2
      · exact lt_trans h2 (hx c hc)
    · refine List.pairwise_cons.mpr ⟨fun c hc => ?_, ih h.of_cons⟩
      rcases mem_amPut hc with rfl | hc
      · show x.1 < a; omega
      · exact hx c hc

/-! ## Bytes -/

@[simp] theorem Mem.unlisted_setByte (m : Mem) (a : Nat) (v : Byte) (b : Nat) :
    (m.setByte a v).unlisted b = m.unlisted b := rfl

/-- A byte just written is read back, and every other byte is as before. -/
theorem Mem.byte_setByte (m : Mem) (a : Nat) (v : Byte) (b : Nat) :
    (m.setByte a v).byte b = if b = a then v else m.byte b := by
  unfold Mem.byte
  rw [Mem.unlisted_setByte]
  unfold Mem.setByte
  split_ifs with hv hb hb
  · subst hb; simp [amGet_amDel_self, hv]
  · simp [amGet_amDel_ne _ (Ne.symm hb)]
  · subst hb; simp [amGet_amPut_self]
  · simp [amGet_amPut_ne _ _ (Ne.symm hb)]

theorem Mem.byte_write (m : Mem) (bs : List Byte) (a b : Nat) :
    (m.write a bs).byte b = if a ≤ b ∧ b < a + bs.length then bs.getD (b - a) 0 else m.byte b := by
  induction bs generalizing m a with
  | nil => simp [Mem.write]
  | cons x bs ih =>
    rw [Mem.write, ih, Mem.byte_setByte]
    by_cases h1 : b = a
    · subst h1
      rw [if_neg (by omega), if_pos rfl, if_pos ⟨le_refl _, by simp⟩]; simp
    · by_cases h2 : a ≤ b ∧ b < a + (x :: bs).length
      · have : b - a = (b - (a + 1)) + 1 := by omega
        rw [if_pos h2, if_pos (by simp at h2; omega), this]; simp
      · rw [if_neg h2, if_neg (by simp at h2; omega), if_neg h1]

@[simp] theorem Mem.length_read (m : Mem) (a n : Nat) : (m.read a n).length = n := by simp [Mem.read]

/-- A read of just what was written gives it back. -/
theorem Mem.read_write (m : Mem) (a : Nat) (bs : List Byte) : (m.write a bs).read a bs.length = bs := by
  apply List.ext_getElem (by simp)
  intro i h1 h2
  simp only [Mem.read, List.getElem_map, List.getElem_range, Mem.byte_write]
  rw [if_pos (by omega)]
  simp [h2]

theorem Mem.byte_writeSome (bs : List Byte) (m : Mem) (a : Nat) : m.writeSome a (bs.map some) = m.write a bs := by
  induction bs generalizing m a with
  | nil => rfl
  | cons x bs ih => simp [Mem.writeSome, Mem.write, ih]

/-! ## The canonical form -/

theorem Mem.wf_setByte {m : Mem} (a : Nat) (v : Byte) (h : m.wf) : (m.setByte a v).wf := by
  obtain ⟨h1, h2, h3⟩ := h
  refine ⟨?_, ?_, h3⟩
  · unfold Mem.setByte; simp only; split_ifs
    · exact rising_amDel a h1
    · exact rising_amPut a v h1
  · intro c hc
    rw [Mem.unlisted_setByte]
    unfold Mem.setByte at hc; simp only at hc; split_ifs at hc with hv
    · exact h2 c (mem_amDel hc).1
    · rcases mem_amPut hc with rfl | hc
      · exact hv
      · exact h2 c hc

theorem Mem.wf_writeSome {m : Mem} (a : Nat) (bs : List (Option Byte)) (h : m.wf) : (m.writeSome a bs).wf := by
  induction bs generalizing m a with
  | nil => exact h
  | cons x bs ih => cases x with
    | none => exact ih _ h
    | some v => exact ih _ (Mem.wf_setByte a v h)

theorem Mem.wf_write {m : Mem} (a : Nat) (bs : List Byte) (h : m.wf) : (m.write a bs).wf := by
  rw [← Mem.byte_writeSome]; exact Mem.wf_writeSome a _ h

theorem mem_insertSorted {x y : Nat} {l : List Nat} (h : y ∈ insertSorted x l) : y = x ∨ y ∈ l := by
  induction l with
  | nil => simpa [insertSorted] using h
  | cons z l ih =>
    simp only [insertSorted] at h; split_ifs at h
    · exact (List.mem_cons.mp h).imp id id
    · exact .inr h
    · rcases List.mem_cons.mp h with rfl | h
      · exact .inr List.mem_cons_self
      · exact (ih h).imp id (List.mem_cons_of_mem _)

theorem rising_insertSorted {l : List Nat} (x : Nat) (h : l.Pairwise (· < ·)) : (insertSorted x l).Pairwise (· < ·) := by
  induction l with
  | nil => simp [insertSorted]
  | cons z l ih =>
    have hz := (List.pairwise_cons.mp h).1
    simp only [insertSorted]; split_ifs with h1 h2
    · refine List.pairwise_cons.mpr ⟨fun c hc => ?_, h⟩
      rcases List.mem_cons.mp hc with rfl | hc
      · exact h1
      · exact lt_trans h1 (hz c hc)
    · exact h
    · refine List.pairwise_cons.mpr ⟨fun c hc => ?_, ih h.of_cons⟩
      rcases mem_insertSorted hc with rfl | hc
      · omega
      · exact hz c hc

theorem Mem.wf_marks {m : Mem} {p u c : List Nat} (h : m.wf) (hp : p.Pairwise (· < ·)) (hu : u.Pairwise (· < ·))
    (hc : c.Pairwise (· < ·)) : ({ m with poison := p, ue := u, ce := c } : Mem).wf := ⟨h.1, h.2.1, hp, hu, hc⟩

theorem Mem.wf_setPoison {m : Mem} (k : Nat) (h : m.wf) : (m.setPoison k).wf :=
  Mem.wf_marks h (rising_insertSorted k h.2.2.1) (h.2.2.2.1.filter _) (h.2.2.2.2.filter _)

theorem Mem.wf_clearBeat {m : Mem} (k : Nat) (h : m.wf) : (m.clearBeat k).wf :=
  Mem.wf_marks h (h.2.2.1.filter _) (h.2.2.2.1.filter _) (h.2.2.2.2.filter _)

theorem rising_insertAll {u : List Nat} (ws : List Nat) (hu : u.Pairwise (· < ·)) :
    (ws.foldl (fun l w => insertSorted w l) u).Pairwise (· < ·) := by
  induction ws generalizing u with
  | nil => exact hu
  | cons w ws ih => exact ih (rising_insertSorted w hu)

theorem Mem.wf_strike {m : Mem} (w n : Nat) (bad : Bool) (h : m.wf) : (m.strike w n bad).wf := by
  unfold Mem.strike
  cases bad
  · exact Mem.wf_marks h h.2.2.1 h.2.2.2.1 (rising_insertAll _ h.2.2.2.2)
  · exact Mem.wf_marks h h.2.2.1 (rising_insertAll _ h.2.2.2.1) h.2.2.2.2

/-- A fold whose every step keeps the canonical form keeps it. -/
theorem Mem.wf_foldl {α : Type} (f : Mem → α → Mem) (hf : ∀ m x, Mem.wf m → (f m x).wf) (l : List α) {m : Mem}
    (h : m.wf) : (l.foldl f m).wf := by
  induction l generalizing m with
  | nil => exact h
  | cons x l ih => exact ih (hf m x h)

theorem Mem.wf_put {m : Mem} (g a : Nat) (bs : List (Option Byte)) (p : Bool) (h : m.wf) : (m.put g a bs p).wf := by
  unfold Mem.put
  refine Mem.wf_writeSome _ _ (Mem.wf_foldl _ (fun m k hm => ?_) _ 
    (Mem.wf_marks h h.2.2.1 (h.2.2.2.1.filter _) (h.2.2.2.2.filter _)))
  split_ifs
  · exact hm
  · exact Mem.wf_marks hm (rising_insertSorted k hm.2.2.1) hm.2.2.2.1 hm.2.2.2.2
  · exact Mem.wf_marks hm (hm.2.2.1.filter _) hm.2.2.2.1 hm.2.2.2.2
  · exact hm

theorem Mem.wf_store {m : Mem} (a : Nat) (bs : List Byte) (p : Bool) (h : m.wf) : (m.store a bs p).wf :=
  Mem.wf_put 8 a _ p h

theorem Mem.wf_storeBeat {m : Mem} (a : Nat) (bs : List Byte) (p : Bool) (h : m.wf) : (m.storeBeat a bs p).wf :=
  Mem.wf_put 64 a _ p h

theorem Mem.wf_empty : Mem.empty.wf := by decide

theorem Mem.wf_undefined (e : Nat) : (Mem.undefined e).wf :=
  ⟨List.Pairwise.nil, fun _ h => absurd h (List.not_mem_nil), List.Pairwise.nil, List.Pairwise.nil, List.Pairwise.nil⟩

/-! ## What a store does -/

theorem Mem.byte_congr {m m' : Mem} (hc : m'.cells = m.cells) (hu : m'.undef = m.undef) (b : Nat) :
    m'.byte b = m.byte b := by
  unfold Mem.byte Mem.unlisted; rw [hc, hu]

/-- A store writes its bytes and no other; the poison and the error marks are all it changes besides. -/
theorem Mem.byte_put (g : Nat) (m : Mem) (a : Nat) (bs : List Byte) (p : Bool) (b : Nat) :
    (m.put g a (bs.map some) p).byte b = if a ≤ b ∧ b < a + bs.length then bs.getD (b - a) 0 else m.byte b := by
  unfold Mem.put
  simp only [Mem.byte_writeSome]
  rw [Mem.byte_write]
  refine if_congr Iff.rfl rfl (Mem.byte_congr ?_ ?_ b)
  · exact List.foldlRecOn (motive := fun m' : Mem => m'.cells = m.cells) _ _ rfl
      (fun m' h k _ => by split_ifs <;> exact h)
  · exact List.foldlRecOn (motive := fun m' : Mem => m'.undef = m.undef) _ _ rfl
      (fun m' h k _ => by split_ifs <;> exact h)

theorem Mem.byte_store (m : Mem) (a : Nat) (bs : List Byte) (p : Bool) (b : Nat) :
    (m.store a bs p).byte b = if a ≤ b ∧ b < a + bs.length then bs.getD (b - a) 0 else m.byte b :=
  Mem.byte_put 8 m a bs p b

theorem Mem.byte_storeBeat (m : Mem) (a : Nat) (bs : List Byte) (p : Bool) (b : Nat) :
    (m.storeBeat a bs p).byte b = if a ≤ b ∧ b < a + bs.length then bs.getD (b - a) 0 else m.byte b :=
  Mem.byte_put 64 m a bs p b

end Sys2Proof.Machine
end

