-- ==== Sys2Proof/Laws/Reg.lean ====
section
/-! SUPPORT. Laws of the registers: a register just set reads back, every other one is as before, the map keeps its
canonical form, and the shared updates change registers only. -/

namespace Sys2Proof.Machine

/-! ## The map -/

theorem RegMap.get_set (m : RegMap) (a b : Nat) (v : W32) : (m.set a v).get b = if b = a then v else m.get b := by
  unfold RegMap.get RegMap.set
  split_ifs with hv hb hb
  · subst hb; simp [amGet_amDel_self, hv]
  · simp [amGet_amDel_ne _ (Ne.symm hb)]
  · subst hb; simp [amGet_amPut_self]
  · simp [amGet_amPut_ne _ _ (Ne.symm hb)]

theorem RegMap.wf_set {m : RegMap} (a : Nat) (v : W32) (h : m.wf) : (m.set a v).wf := by
  refine ⟨?_, fun c hc => ?_⟩
  · unfold RegMap.set; split_ifs
    · exact rising_amDel a h.1
    · exact rising_amPut a v h.1
  · unfold RegMap.set at hc; split_ifs at hc with hv
    · exact h.2 c (mem_amDel hc).1
    · rcases mem_amPut hc with rfl | hc
      · exact hv
      · exact h.2 c hc

theorem RegMap.wf_filter {m : RegMap} (q : Nat × W32 → Bool) (h : m.wf) : RegMap.wf (m.filter q) :=
  ⟨h.1.filter _, fun c hc => h.2 c (List.mem_of_mem_filter hc)⟩

/-! ## One register -/

/-- The device with other registers. -/
def Dev.withRegs (d : Dev) (m : RegMap) : Dev := { d with rg := m }

theorem Dev.setReg_regs (d : Dev) (p : Page) (n o v : Nat) : d.setReg p n o v = d.withRegs (d.setReg p n o v).rg := rfl

theorem Dev.reg_setReg (d : Dev) (p q : Page) (n k o i v : Nat) :
    (d.setReg p n o v).reg q k i = if q.base k + i = p.base n + o then v % 2 ^ 32 else d.reg q k i := by
  unfold Dev.reg Dev.setReg
  rw [RegMap.get_set]
  split_ifs <;> simp

@[simp] theorem Dev.reg_setReg_self (d : Dev) (p : Page) (n o v : Nat) : (d.setReg p n o v).reg p n o = v % 2 ^ 32 := by
  simp [Dev.reg_setReg]

theorem Dev.reg_setReg_off (d : Dev) (p : Page) (n : Nat) {o i : Nat} (v : Nat) (h : i ≠ o) :
    (d.setReg p n o v).reg p n i = d.reg p n i := by
  simp [Dev.reg_setReg, h]

theorem Dev.reg_lt (d : Dev) (p : Page) (n o : Nat) : d.reg p n o < 2 ^ 32 := (d.rg.get _).isLt

/-! ## The shared updates change registers only -/

theorem Dev.setFld_regs (d : Dev) (p : Page) (n o hi lo v : Nat) :
    d.setFld p n o hi lo v = d.withRegs (d.setFld p n o hi lo v).rg := rfl

theorem Dev.bump_regs (d : Dev) (p : Page) (n o k : Nat) : d.bump p n o k = d.withRegs (d.bump p n o k).rg := by
  unfold Dev.bump; split_ifs <;> rfl

theorem Dev.sticky_regs (d : Dev) (p : Page) (n b : Nat) : d.sticky p n b = d.withRegs (d.sticky p n b).rg := by
  unfold Dev.sticky; simp only; split <;> rfl

theorem Dev.err_regs (d : Dev) (p : Page) (n c o : Nat) : d.err p n c o = d.withRegs (d.err p n c o).rg := by
  unfold Dev.err
  have h := Dev.bump_regs d p n 0x02C 1
  by_cases hf : (d.bump p n 0x02C 1).flag p n 0x028 31 = true
  · simp only [if_pos hf]; exact h
  · simp only [if_neg hf]; rw [Dev.setReg_regs, h]; rfl

theorem Dev.plainWrite_regs (d : Dev) (p : Page) (n o v : Nat) :
    d.plainWrite p n o v = d.withRegs (d.plainWrite p n o v).rg := by
  unfold Dev.plainWrite; split <;> rfl

theorem Dev.guarded_regs (d : Dev) (p : Page) (n o v : Nat) (b ok : Bool) :
    d.guarded p n o v b ok = d.withRegs (d.guarded p n o v b ok).rg := by
  unfold Dev.guarded
  split_ifs
  · exact Dev.err_regs ..
  · exact Dev.err_regs ..
  · exact Dev.plainWrite_regs ..

/-! ## The canonical form -/

theorem Dev.wf_setReg {d : Dev} (p : Page) (n o v : Nat) (h : d.rg.wf) : (d.setReg p n o v).rg.wf := RegMap.wf_set _ _ h

theorem Dev.wf_bump {d : Dev} (p : Page) (n o k : Nat) (h : d.rg.wf) : (d.bump p n o k).rg.wf := by
  unfold Dev.bump; split_ifs
  · exact h
  · exact Dev.wf_setReg _ _ _ _ h

theorem Dev.wf_sticky {d : Dev} (p : Page) (n b : Nat) (h : d.rg.wf) : (d.sticky p n b).rg.wf := by
  unfold Dev.sticky; simp only; split
  · exact Dev.wf_setReg _ _ _ _ h
  · exact Dev.wf_setReg _ _ _ _ (Dev.wf_setReg _ _ _ _ h)

theorem Dev.wf_err {d : Dev} (p : Page) (n c o : Nat) (h : d.rg.wf) : (d.err p n c o).rg.wf := by
  unfold Dev.err
  by_cases hf : (d.bump p n 0x02C 1).flag p n 0x028 31 = true
  · simp only [if_pos hf]; exact Dev.wf_bump _ _ _ _ h
  · simp only [if_neg hf]; exact Dev.wf_setReg _ _ _ _ (Dev.wf_bump _ _ _ _ h)

theorem Dev.wf_clearRegs {d : Dev} (p : Page) (n : Nat) (h : d.rg.wf) : (d.clearRegs p n).rg.wf := RegMap.wf_filter _ h

/-! ## A write that reaches its register -/

/-- A page is found again from any offset inside it. -/
theorem pageAtIndex_base (p : Page) (n o : Nat) (ho : o < 0x1000)
    (hn : match p with
      | .eth => n < 8 | .mch => n < 16 | .core | .gln | .plt | .wsh | .hch | .spd | .dbg | .stl => n < 8 | _ => n = 0) :
    pageAtIndex ((p.base n + o) / 4096) = some (p, n) ∧ (p.base n + o) % 4096 = o := by
  have key : ∀ k, p.base n = 4096 * k → (p.base n + o) / 4096 = k ∧ (p.base n + o) % 4096 = o := by
    intro k hk; rw [hk]; omega
  have hb : ∃ k, p.base n = 4096 * k ∧ pageAtIndex k = some (p, n) := by
    cases p <;> simp only at hn
    case eth => exact ⟨16 + n, by simp [Page.base]; omega, by interval_cases n <;> rfl⟩
    case mch => exact ⟨0x71 + n, by simp [Page.base]; omega, by interval_cases n <;> rfl⟩
    case core => exact ⟨0x100 + 16 * n, by simp [Page.base]; omega, by interval_cases n <;> rfl⟩
    case gln => exact ⟨0x101 + 16 * n, by simp [Page.base]; omega, by interval_cases n <;> rfl⟩
    case plt => exact ⟨0x102 + 16 * n, by simp [Page.base]; omega, by interval_cases n <;> rfl⟩
    case wsh => exact ⟨0x103 + 16 * n, by simp [Page.base]; omega, by interval_cases n <;> rfl⟩
    case hch => exact ⟨0x104 + 16 * n, by simp [Page.base]; omega, by interval_cases n <;> rfl⟩
    case spd => exact ⟨0x105 + 16 * n, by simp [Page.base]; omega, by interval_cases n <;> rfl⟩
    case dbg => exact ⟨0x106 + 16 * n, by simp [Page.base]; omega, by interval_cases n <;> rfl⟩
    case stl => exact ⟨0x107 + 16 * n, by simp [Page.base]; omega, by interval_cases n <;> rfl⟩
    all_goals subst hn; first
      | exact ⟨0, rfl, rfl⟩ | exact ⟨1, rfl, rfl⟩ | exact ⟨2, rfl, rfl⟩ | exact ⟨3, rfl, rfl⟩ | exact ⟨4, rfl, rfl⟩
      | exact ⟨5, rfl, rfl⟩ | exact ⟨6, rfl, rfl⟩ | exact ⟨7, rfl, rfl⟩ | exact ⟨8, rfl, rfl⟩ | exact ⟨0x20, rfl, rfl⟩
      | exact ⟨0x30, rfl, rfl⟩ | exact ⟨0x40, rfl, rfl⟩ | exact ⟨0x50, rfl, rfl⟩ | exact ⟨0x60, rfl, rfl⟩
      | exact ⟨0x70, rfl, rfl⟩ | exact ⟨0x81, rfl, rfl⟩ | exact ⟨0x90, rfl, rfl⟩ | exact ⟨0xA0, rfl, rfl⟩
      | exact ⟨0xB0, rfl, rfl⟩ | exact ⟨0xC0, rfl, rfl⟩
  obtain ⟨k, hk, hp⟩ := hb
  obtain ⟨h1, h2⟩ := key k hk
  exact ⟨by rw [h1]; exact hp, h2⟩

end Sys2Proof.Machine
end

