-- ==== Sys2Proof/Laws/State.lean ====
section
/-! SUPPORT. What the updates of the state and of the device leave alone, one lemma per field. -/

namespace Sys2Proof.Machine

/-! ## How a meaning acts on the state -/

@[simp] theorem State.onDev_pending (s : State) (f : Dev → Dev) : (s.onDev f).pending = s.pending := rfl
@[simp] theorem State.onDev_lk (s : State) (f : Dev → Dev) : (s.onDev f).lk = s.lk := rfl
@[simp] theorem State.onDev_d (s : State) (f : Dev → Dev) : (s.onDev f).d = f s.d := rfl
@[simp] theorem State.onLk_pending (s : State) (f : Locked → Dev → Dev) : (s.onLk f).pending = s.pending := rfl
@[simp] theorem State.onLk_lk (s : State) (f : Locked → Dev → Dev) : (s.onLk f).lk = s.lk := rfl
@[simp] theorem State.onLk_d (s : State) (f : Locked → Dev → Dev) : (s.onLk f).d = f s.lk s.d := rfl
@[simp] theorem State.onAll_pending (s : State) (f : Locked → Dev → Locked × Dev) :
    (s.onAll f).pending = s.pending := rfl
@[simp] theorem State.onAll_lk (s : State) (f : Locked → Dev → Locked × Dev) : (s.onAll f).lk = (f s.lk s.d).1 := rfl
@[simp] theorem State.onAll_d (s : State) (f : Locked → Dev → Locked × Dev) : (s.onAll f).d = (f s.lk s.d).2 := rfl
@[simp] theorem State.onReset_pending (s : State) (f : Dev → Locked × Dev) : (s.onReset f).pending = s.pending := rfl
@[simp] theorem State.onReset_lk (s : State) (f : Dev → Locked × Dev) : (s.onReset f).lk = (f s.d).1 := rfl
@[simp] theorem State.onReset_d (s : State) (f : Dev → Locked × Dev) : (s.onReset f).d = (f s.d).2 := rfl

/-! ## setReg -/

@[simp] theorem Dev.setReg_cores (d : Dev) (p : Page) (n o v : Nat) : (d.setReg p n o v).cores = d.cores := rfl
@[simp] theorem Dev.setReg_sems (d : Dev) (p : Page) (n o v : Nat) : (d.setReg p n o v).sems = d.sems := rfl
@[simp] theorem Dev.setReg_bars (d : Dev) (p : Page) (n o v : Nat) : (d.setReg p n o v).bars = d.bars := rfl
@[simp] theorem Dev.setReg_ms (d : Dev) (p : Page) (n o v : Nat) : (d.setReg p n o v).ms = d.ms := rfl
@[simp] theorem Dev.setReg_tbl (d : Dev) (p : Page) (n o v : Nat) : (d.setReg p n o v).tbl = d.tbl := rfl
@[simp] theorem Dev.setReg_streams (d : Dev) (p : Page) (n o v : Nat) : (d.setReg p n o v).streams = d.streams := rfl
@[simp] theorem Dev.setReg_sch (d : Dev) (p : Page) (n o v : Nat) : (d.setReg p n o v).sch = d.sch := rfl
@[simp] theorem Dev.setReg_kvp (d : Dev) (p : Page) (n o v : Nat) : (d.setReg p n o v).kvp = d.kvp := rfl
@[simp] theorem Dev.setReg_rxc (d : Dev) (p : Page) (n o v : Nat) : (d.setReg p n o v).rxc = d.rxc := rfl
@[simp] theorem Dev.setReg_txc (d : Dev) (p : Page) (n o v : Nat) : (d.setReg p n o v).txc = d.txc := rfl
@[simp] theorem Dev.setReg_rsv (d : Dev) (p : Page) (n o v : Nat) : (d.setReg p n o v).rsv = d.rsv := rfl
@[simp] theorem Dev.setReg_fec (d : Dev) (p : Page) (n o v : Nat) : (d.setReg p n o v).fec = d.fec := rfl
@[simp] theorem Dev.setReg_wtn (d : Dev) (p : Page) (n o v : Nat) : (d.setReg p n o v).wtn = d.wtn := rfl
@[simp] theorem Dev.setReg_pci (d : Dev) (p : Page) (n o v : Nat) : (d.setReg p n o v).pci = d.pci := rfl
@[simp] theorem Dev.setReg_tim (d : Dev) (p : Page) (n o v : Nat) : (d.setReg p n o v).tim = d.tim := rfl
@[simp] theorem Dev.setReg_det (d : Dev) (p : Page) (n o v : Nat) : (d.setReg p n o v).det = d.det := rfl
@[simp] theorem Dev.setReg_pwr (d : Dev) (p : Page) (n o v : Nat) : (d.setReg p n o v).pwr = d.pwr := rfl
@[simp] theorem Dev.setReg_sec (d : Dev) (p : Page) (n o v : Nat) : (d.setReg p n o v).sec = d.sec := rfl
@[simp] theorem Dev.setReg_fresh (d : Dev) (p : Page) (n o v : Nat) : (d.setReg p n o v).fresh = d.fresh := rfl
@[simp] theorem Dev.setReg_out (d : Dev) (p : Page) (n o v : Nat) : (d.setReg p n o v).out = d.out := rfl

/-! ## setFld -/

@[simp] theorem Dev.setFld_cores (d : Dev) (p : Page) (n o hi lo v : Nat) : (d.setFld p n o hi lo v).cores = d.cores := rfl
@[simp] theorem Dev.setFld_sems (d : Dev) (p : Page) (n o hi lo v : Nat) : (d.setFld p n o hi lo v).sems = d.sems := rfl
@[simp] theorem Dev.setFld_bars (d : Dev) (p : Page) (n o hi lo v : Nat) : (d.setFld p n o hi lo v).bars = d.bars := rfl
@[simp] theorem Dev.setFld_ms (d : Dev) (p : Page) (n o hi lo v : Nat) : (d.setFld p n o hi lo v).ms = d.ms := rfl
@[simp] theorem Dev.setFld_tbl (d : Dev) (p : Page) (n o hi lo v : Nat) : (d.setFld p n o hi lo v).tbl = d.tbl := rfl
@[simp] theorem Dev.setFld_streams (d : Dev) (p : Page) (n o hi lo v : Nat) : (d.setFld p n o hi lo v).streams = d.streams := rfl
@[simp] theorem Dev.setFld_sch (d : Dev) (p : Page) (n o hi lo v : Nat) : (d.setFld p n o hi lo v).sch = d.sch := rfl
@[simp] theorem Dev.setFld_kvp (d : Dev) (p : Page) (n o hi lo v : Nat) : (d.setFld p n o hi lo v).kvp = d.kvp := rfl
@[simp] theorem Dev.setFld_rxc (d : Dev) (p : Page) (n o hi lo v : Nat) : (d.setFld p n o hi lo v).rxc = d.rxc := rfl
@[simp] theorem Dev.setFld_txc (d : Dev) (p : Page) (n o hi lo v : Nat) : (d.setFld p n o hi lo v).txc = d.txc := rfl
@[simp] theorem Dev.setFld_rsv (d : Dev) (p : Page) (n o hi lo v : Nat) : (d.setFld p n o hi lo v).rsv = d.rsv := rfl
@[simp] theorem Dev.setFld_fec (d : Dev) (p : Page) (n o hi lo v : Nat) : (d.setFld p n o hi lo v).fec = d.fec := rfl
@[simp] theorem Dev.setFld_wtn (d : Dev) (p : Page) (n o hi lo v : Nat) : (d.setFld p n o hi lo v).wtn = d.wtn := rfl
@[simp] theorem Dev.setFld_pci (d : Dev) (p : Page) (n o hi lo v : Nat) : (d.setFld p n o hi lo v).pci = d.pci := rfl
@[simp] theorem Dev.setFld_tim (d : Dev) (p : Page) (n o hi lo v : Nat) : (d.setFld p n o hi lo v).tim = d.tim := rfl
@[simp] theorem Dev.setFld_det (d : Dev) (p : Page) (n o hi lo v : Nat) : (d.setFld p n o hi lo v).det = d.det := rfl
@[simp] theorem Dev.setFld_pwr (d : Dev) (p : Page) (n o hi lo v : Nat) : (d.setFld p n o hi lo v).pwr = d.pwr := rfl
@[simp] theorem Dev.setFld_sec (d : Dev) (p : Page) (n o hi lo v : Nat) : (d.setFld p n o hi lo v).sec = d.sec := rfl
@[simp] theorem Dev.setFld_fresh (d : Dev) (p : Page) (n o hi lo v : Nat) : (d.setFld p n o hi lo v).fresh = d.fresh := rfl
@[simp] theorem Dev.setFld_out (d : Dev) (p : Page) (n o hi lo v : Nat) : (d.setFld p n o hi lo v).out = d.out := rfl

/-! ## setCore -/

@[simp] theorem Dev.setCore_rg (d : Dev) (c : Nat) (x : CoreSt) : (d.setCore c x).rg = d.rg := rfl
@[simp] theorem Dev.setCore_sems (d : Dev) (c : Nat) (x : CoreSt) : (d.setCore c x).sems = d.sems := rfl
@[simp] theorem Dev.setCore_bars (d : Dev) (c : Nat) (x : CoreSt) : (d.setCore c x).bars = d.bars := rfl
@[simp] theorem Dev.setCore_ms (d : Dev) (c : Nat) (x : CoreSt) : (d.setCore c x).ms = d.ms := rfl
@[simp] theorem Dev.setCore_tbl (d : Dev) (c : Nat) (x : CoreSt) : (d.setCore c x).tbl = d.tbl := rfl
@[simp] theorem Dev.setCore_streams (d : Dev) (c : Nat) (x : CoreSt) : (d.setCore c x).streams = d.streams := rfl
@[simp] theorem Dev.setCore_sch (d : Dev) (c : Nat) (x : CoreSt) : (d.setCore c x).sch = d.sch := rfl
@[simp] theorem Dev.setCore_kvp (d : Dev) (c : Nat) (x : CoreSt) : (d.setCore c x).kvp = d.kvp := rfl
@[simp] theorem Dev.setCore_rxc (d : Dev) (c : Nat) (x : CoreSt) : (d.setCore c x).rxc = d.rxc := rfl
@[simp] theorem Dev.setCore_txc (d : Dev) (c : Nat) (x : CoreSt) : (d.setCore c x).txc = d.txc := rfl
@[simp] theorem Dev.setCore_rsv (d : Dev) (c : Nat) (x : CoreSt) : (d.setCore c x).rsv = d.rsv := rfl
@[simp] theorem Dev.setCore_fec (d : Dev) (c : Nat) (x : CoreSt) : (d.setCore c x).fec = d.fec := rfl
@[simp] theorem Dev.setCore_wtn (d : Dev) (c : Nat) (x : CoreSt) : (d.setCore c x).wtn = d.wtn := rfl
@[simp] theorem Dev.setCore_pci (d : Dev) (c : Nat) (x : CoreSt) : (d.setCore c x).pci = d.pci := rfl
@[simp] theorem Dev.setCore_tim (d : Dev) (c : Nat) (x : CoreSt) : (d.setCore c x).tim = d.tim := rfl
@[simp] theorem Dev.setCore_det (d : Dev) (c : Nat) (x : CoreSt) : (d.setCore c x).det = d.det := rfl
@[simp] theorem Dev.setCore_pwr (d : Dev) (c : Nat) (x : CoreSt) : (d.setCore c x).pwr = d.pwr := rfl
@[simp] theorem Dev.setCore_sec (d : Dev) (c : Nat) (x : CoreSt) : (d.setCore c x).sec = d.sec := rfl
@[simp] theorem Dev.setCore_fresh (d : Dev) (c : Nat) (x : CoreSt) : (d.setCore c x).fresh = d.fresh := rfl
@[simp] theorem Dev.setCore_out (d : Dev) (c : Nat) (x : CoreSt) : (d.setCore c x).out = d.out := rfl

/-! ## modCore -/

@[simp] theorem Dev.modCore_rg (d : Dev) (c : Nat) (f : CoreSt → CoreSt) : (d.modCore c f).rg = d.rg := rfl
@[simp] theorem Dev.modCore_sems (d : Dev) (c : Nat) (f : CoreSt → CoreSt) : (d.modCore c f).sems = d.sems := rfl
@[simp] theorem Dev.modCore_bars (d : Dev) (c : Nat) (f : CoreSt → CoreSt) : (d.modCore c f).bars = d.bars := rfl
@[simp] theorem Dev.modCore_ms (d : Dev) (c : Nat) (f : CoreSt → CoreSt) : (d.modCore c f).ms = d.ms := rfl
@[simp] theorem Dev.modCore_tbl (d : Dev) (c : Nat) (f : CoreSt → CoreSt) : (d.modCore c f).tbl = d.tbl := rfl
@[simp] theorem Dev.modCore_streams (d : Dev) (c : Nat) (f : CoreSt → CoreSt) : (d.modCore c f).streams = d.streams := rfl
@[simp] theorem Dev.modCore_sch (d : Dev) (c : Nat) (f : CoreSt → CoreSt) : (d.modCore c f).sch = d.sch := rfl
@[simp] theorem Dev.modCore_kvp (d : Dev) (c : Nat) (f : CoreSt → CoreSt) : (d.modCore c f).kvp = d.kvp := rfl
@[simp] theorem Dev.modCore_rxc (d : Dev) (c : Nat) (f : CoreSt → CoreSt) : (d.modCore c f).rxc = d.rxc := rfl
@[simp] theorem Dev.modCore_txc (d : Dev) (c : Nat) (f : CoreSt → CoreSt) : (d.modCore c f).txc = d.txc := rfl
@[simp] theorem Dev.modCore_rsv (d : Dev) (c : Nat) (f : CoreSt → CoreSt) : (d.modCore c f).rsv = d.rsv := rfl
@[simp] theorem Dev.modCore_fec (d : Dev) (c : Nat) (f : CoreSt → CoreSt) : (d.modCore c f).fec = d.fec := rfl
@[simp] theorem Dev.modCore_wtn (d : Dev) (c : Nat) (f : CoreSt → CoreSt) : (d.modCore c f).wtn = d.wtn := rfl
@[simp] theorem Dev.modCore_pci (d : Dev) (c : Nat) (f : CoreSt → CoreSt) : (d.modCore c f).pci = d.pci := rfl
@[simp] theorem Dev.modCore_tim (d : Dev) (c : Nat) (f : CoreSt → CoreSt) : (d.modCore c f).tim = d.tim := rfl
@[simp] theorem Dev.modCore_det (d : Dev) (c : Nat) (f : CoreSt → CoreSt) : (d.modCore c f).det = d.det := rfl
@[simp] theorem Dev.modCore_pwr (d : Dev) (c : Nat) (f : CoreSt → CoreSt) : (d.modCore c f).pwr = d.pwr := rfl
@[simp] theorem Dev.modCore_sec (d : Dev) (c : Nat) (f : CoreSt → CoreSt) : (d.modCore c f).sec = d.sec := rfl
@[simp] theorem Dev.modCore_fresh (d : Dev) (c : Nat) (f : CoreSt → CoreSt) : (d.modCore c f).fresh = d.fresh := rfl
@[simp] theorem Dev.modCore_out (d : Dev) (c : Nat) (f : CoreSt → CoreSt) : (d.modCore c f).out = d.out := rfl

/-! ## emit -/

@[simp] theorem Dev.emit_rg (d : Dev) (o : Out) : (d.emit o).rg = d.rg := rfl
@[simp] theorem Dev.emit_cores (d : Dev) (o : Out) : (d.emit o).cores = d.cores := rfl
@[simp] theorem Dev.emit_sems (d : Dev) (o : Out) : (d.emit o).sems = d.sems := rfl
@[simp] theorem Dev.emit_bars (d : Dev) (o : Out) : (d.emit o).bars = d.bars := rfl
@[simp] theorem Dev.emit_ms (d : Dev) (o : Out) : (d.emit o).ms = d.ms := rfl
@[simp] theorem Dev.emit_tbl (d : Dev) (o : Out) : (d.emit o).tbl = d.tbl := rfl
@[simp] theorem Dev.emit_streams (d : Dev) (o : Out) : (d.emit o).streams = d.streams := rfl
@[simp] theorem Dev.emit_sch (d : Dev) (o : Out) : (d.emit o).sch = d.sch := rfl
@[simp] theorem Dev.emit_kvp (d : Dev) (o : Out) : (d.emit o).kvp = d.kvp := rfl
@[simp] theorem Dev.emit_rxc (d : Dev) (o : Out) : (d.emit o).rxc = d.rxc := rfl
@[simp] theorem Dev.emit_txc (d : Dev) (o : Out) : (d.emit o).txc = d.txc := rfl
@[simp] theorem Dev.emit_rsv (d : Dev) (o : Out) : (d.emit o).rsv = d.rsv := rfl
@[simp] theorem Dev.emit_fec (d : Dev) (o : Out) : (d.emit o).fec = d.fec := rfl
@[simp] theorem Dev.emit_wtn (d : Dev) (o : Out) : (d.emit o).wtn = d.wtn := rfl
@[simp] theorem Dev.emit_pci (d : Dev) (o : Out) : (d.emit o).pci = d.pci := rfl
@[simp] theorem Dev.emit_tim (d : Dev) (o : Out) : (d.emit o).tim = d.tim := rfl
@[simp] theorem Dev.emit_det (d : Dev) (o : Out) : (d.emit o).det = d.det := rfl
@[simp] theorem Dev.emit_pwr (d : Dev) (o : Out) : (d.emit o).pwr = d.pwr := rfl
@[simp] theorem Dev.emit_sec (d : Dev) (o : Out) : (d.emit o).sec = d.sec := rfl
@[simp] theorem Dev.emit_fresh (d : Dev) (o : Out) : (d.emit o).fresh = d.fresh := rfl

/-! ## Cores -/

theorem Dev.core_setCore (d : Dev) (c e : Nat) (x : CoreSt) (h : c < 8) :
    (d.setCore c x).core e = if e = c then x else d.core e := by
  unfold Dev.core Dev.setCore
  by_cases he : e < 8
  · simp only [dif_pos he, Vector.getElem_setIfInBounds]
    by_cases hc : c = e
    · subst hc; simp
    · simp [hc, Ne.symm hc]
  · have : e ≠ c := by omega
    simp [he, this]

theorem Dev.core_modCore (d : Dev) (c e : Nat) (f : CoreSt → CoreSt) (h : c < 8) :
    (d.modCore c f).core e = if e = c then f (d.core c) else d.core e := Dev.core_setCore d c e _ h

@[simp] theorem Dev.core_setReg (d : Dev) (p : Page) (n o v c : Nat) : (d.setReg p n o v).core c = d.core c := rfl

end Sys2Proof.Machine
end

