-- ==== Sys2Proof/Laws/Bus.lean ====
section
/-! SUPPORT. Laws of the accesses through the device map: they keep every memory in its canonical form, which all of them
have after reset, and what counting, logging and posting leaves alone. -/

namespace Sys2Proof.Machine

/-! ## Arrays -/

/-- Two devices with the same arrays are in canonical form together. -/
theorem Dev.arraysWf_congr {d e : Dev} (h : d.arraysWf) (hm : e.ms.lp = d.ms.lp) (hw : e.ms.win = d.ms.win)
    (hc : e.ms.cm = d.ms.cm) (ht : e.tbl = d.tbl) (hk : e.cores = d.cores) : e.arraysWf := by
  obtain ⟨h1, h2, h3, h4, h5⟩ := h
  refine ⟨hm ▸ h1, hw ▸ h2, hc ▸ h3, ht ▸ h4, fun c => ?_⟩
  have : e.core c = d.core c := by unfold Dev.core; rw [hk]
  rw [this]; exact h5 c

/-- The arrays after reset. -/
theorem State.reset_arraysWf : State.reset.d.arraysWf := by
  refine ⟨Mem.wf_undefined _, Mem.wf_empty, Mem.wf_empty, Mem.wf_empty, fun c => ?_⟩
  unfold Dev.core
  split_ifs with h
  · simp only [State.reset, Dev.fresh0, Vector.getElem_ofFn]
    exact ⟨Mem.wf_undefined _, Mem.wf_undefined _⟩
  · exact ⟨Mem.wf_empty, Mem.wf_empty⟩

/-! ## What counting, logging and posting leaves alone -/

theorem Dev.withRegs_arraysWf {d : Dev} {r : RegMap} (h : d.arraysWf) : (d.withRegs r).arraysWf :=
  Dev.arraysWf_congr h rfl rfl rfl rfl rfl

theorem Dev.arraysWf_setReg {d : Dev} (p : Page) (n o v : Nat) (h : d.arraysWf) : (d.setReg p n o v).arraysWf :=
  Dev.withRegs_arraysWf h

theorem Dev.arraysWf_bump {d : Dev} (p : Page) (n o k : Nat) (h : d.arraysWf) : (d.bump p n o k).arraysWf := by
  rw [Dev.bump_regs]; exact Dev.withRegs_arraysWf h

theorem Dev.arraysWf_sticky {d : Dev} (p : Page) (n b : Nat) (h : d.arraysWf) : (d.sticky p n b).arraysWf := by
  rw [Dev.sticky_regs]; exact Dev.withRegs_arraysWf h

theorem Dev.arraysWf_err {d : Dev} (p : Page) (n c o : Nat) (h : d.arraysWf) : (d.err p n c o).arraysWf := by
  rw [Dev.err_regs]; exact Dev.withRegs_arraysWf h

theorem Dev.arraysWf_post {d : Dev} (p : Page) (n src sub inst : Nat) (bs : List Byte) (h : d.arraysWf) :
    (d.post p n src sub inst bs).arraysWf := by
  unfold Dev.post
  dsimp only
  split_ifs
  · exact h
  all_goals first
    | exact Dev.arraysWf_sticky _ _ _ (Dev.arraysWf_bump _ _ _ _ (Dev.arraysWf_congr h rfl rfl rfl rfl rfl))
    | exact Dev.arraysWf_congr h rfl rfl rfl rfl rfl

theorem Dev.arraysWf_cross {d : Dev} (q : Req) (wr b : Bool) (a : Nat) (h : d.arraysWf) : (d.cross q wr b a).arraysWf := by
  have h1 := Dev.arraysWf_sticky .sec 0 0 (Dev.arraysWf_bump .sec 0 0x150 1 h)
  unfold Dev.cross
  dsimp only
  split_ifs
  · exact h1
  all_goals exact Dev.arraysWf_post _ _ _ _ _ _ (Dev.arraysWf_setReg _ _ _ _
      (Dev.arraysWf_setReg _ _ _ _ (Dev.arraysWf_setReg _ _ _ _ h1)))

theorem Dev.arraysWf_errFree {d : Dev} (p : Page) (n c : Nat) (h : d.arraysWf) : (d.errFree p n c).arraysWf :=
  Dev.arraysWf_err _ _ _ _ (Dev.arraysWf_congr h rfl rfl rfl rfl rfl)

theorem Dev.arraysWf_owe {d : Dev} (wr : Bool) (cls k : Nat) (h : d.arraysWf) : (d.owe wr cls k).arraysWf :=
  Dev.arraysWf_congr h rfl rfl rfl rfl rfl

theorem Dev.arraysWf_memUe {d : Dev} (k : Nat) (h : d.arraysWf) : (d.memUe k).arraysWf := by
  have h1 := Dev.arraysWf_bump .mch (d.channel (64 * k)) 0x104 1
    (Dev.arraysWf_sticky .mem 0 1 (Dev.arraysWf_bump .mem 0 0x114 1 h))
  unfold Dev.memUe
  dsimp only
  split_ifs
  · exact h1
  · exact Dev.arraysWf_post _ _ _ _ _ _ (Dev.arraysWf_setReg _ _ _ _ (Dev.arraysWf_setReg _ _ _ _ h1))

theorem Dev.arraysWf_memEcc {d : Dev} (k : Nat) (h : d.arraysWf) : (d.memEcc k).arraysWf := by
  unfold Dev.memEcc
  split_ifs
  · exact Dev.arraysWf_memUe _ h
  · exact Dev.arraysWf_bump _ _ _ _ (Dev.arraysWf_sticky _ _ _ (Dev.arraysWf_bump _ _ _ _ h))
  · exact h

theorem Dev.arraysWf_cmnErr {d : Dev} (ue ce : Nat) (h : d.arraysWf) : (d.cmnErr ue ce).arraysWf := by
  unfold Dev.cmnErr
  split_ifs
  · exact Dev.arraysWf_sticky _ _ _ (Dev.arraysWf_bump _ _ _ _ h)
  · exact Dev.arraysWf_sticky _ _ _ (Dev.arraysWf_bump _ _ _ _ h)
  · exact h

theorem Dev.arraysWf_cmnRead {d : Dev} (m : Mem) (k : Nat) (h : d.arraysWf) : (d.cmnRead m k).arraysWf :=
  Dev.arraysWf_cmnErr _ _ h

theorem Dev.arraysWf_cmnMerge {d : Dev} (m : Mem) (a n : Nat) (h : d.arraysWf) : (d.cmnMerge m a n).arraysWf :=
  Dev.arraysWf_cmnErr _ _ h

theorem Dev.arraysWf_spdUe {d : Dev} (c : Nat) (l : List Nat) (h : d.arraysWf) : (d.spdUe c l).arraysWf := by
  cases l with
  | nil => exact h
  | cons a l =>
    have h1 := Dev.arraysWf_bump .spd c 0x104 (a :: l).length h
    unfold Dev.spdUe
    dsimp only
    split_ifs
    · exact Dev.arraysWf_sticky _ _ _ h1
    · exact Dev.arraysWf_sticky _ _ _ (Dev.arraysWf_setReg _ _ _ _ h1)

/-! ## LPDDR5X and the Commons -/

theorem Dev.arraysWf_mirror {d : Dev} (k : Nat) (h : d.arraysWf) : (d.mirror k).arraysWf := by
  unfold Dev.mirror
  dsimp only
  split_ifs
  · exact h
  all_goals exact Dev.arraysWf_congr h rfl rfl rfl rfl rfl

theorem Dev.arraysWf_setLp {d : Dev} {m : Mem} (h : d.arraysWf) (hm : m.wf) :
    Dev.arraysWf { d with ms := { d.ms with lp := m } } := ⟨hm, h.2.1, h.2.2.1, h.2.2.2.1, h.2.2.2.2⟩

theorem Dev.arraysWf_setWin {d : Dev} {m : Mem} (h : d.arraysWf) (hm : m.wf) :
    Dev.arraysWf { d with ms := { d.ms with win := m } } := ⟨h.1, hm, h.2.2.1, h.2.2.2.1, h.2.2.2.2⟩

theorem Dev.arraysWf_setCm {d : Dev} {m : Mem} (h : d.arraysWf) (hm : m.wf) :
    Dev.arraysWf { d with ms := { d.ms with cm := m } } := ⟨h.1, h.2.1, hm, h.2.2.2.1, h.2.2.2.2⟩

theorem Dev.arraysWf_setTbl {d : Dev} {m : Mem} (h : d.arraysWf) (hm : m.wf) : Dev.arraysWf { d with tbl := m } :=
  ⟨h.1, h.2.1, h.2.2.1, hm, h.2.2.2.2⟩

theorem Dev.arraysWf_setCore {d : Dev} {c : Nat} {x : CoreSt} (h : d.arraysWf) (hs : x.mem.spad.wf)
    (ha : x.mem.accm.wf) : (d.setCore c x).arraysWf := by
  refine ⟨h.1, h.2.1, h.2.2.1, h.2.2.2.1, fun e => ?_⟩
  by_cases hc : c < 8
  · rw [Dev.core_setCore d c e x hc]
    split_ifs
    · exact ⟨hs, ha⟩
    · exact h.2.2.2.2 e
  · have : (d.setCore c x).core e = d.core e := by
      unfold Dev.core Dev.setCore
      split_ifs with he
      · simp only [Vector.getElem_setIfInBounds]
        have : c ≠ e := by omega
        simp [this]
      · rfl
    rw [this]; exact h.2.2.2.2 e

theorem Dev.arraysWf_arrRead {d : Dev} (cls k : Nat) (h : d.arraysWf) : (d.arrRead cls k).2.2.arraysWf := by
  exact Dev.arraysWf_memEcc k (Dev.arraysWf_owe false cls k h)

theorem Dev.arraysWf_arrWrite {d : Dev} (cls a : Nat) (bs : List Byte) (p : Bool) (h : d.arraysWf) :
    (d.arrWrite cls a bs p).arraysWf := by
  have h1 := Dev.arraysWf_owe true cls (a / 64) h
  unfold Dev.arrWrite
  dsimp only
  refine Dev.arraysWf_mirror _ ?_
  split_ifs <;>
    first
    | exact Dev.arraysWf_setLp (Dev.arraysWf_bump _ _ _ _ (Dev.arraysWf_memEcc _ h1))
        (Mem.wf_storeBeat _ _ _ (Dev.arraysWf_bump _ _ _ _ (Dev.arraysWf_memEcc _ h1)).1)
    | exact Dev.arraysWf_setLp (Dev.arraysWf_memEcc _ h1) (Mem.wf_storeBeat _ _ _ (Dev.arraysWf_memEcc _ h1).1)
    | exact Dev.arraysWf_setLp (Dev.arraysWf_bump _ _ _ _ h1) (Mem.wf_storeBeat _ _ _ (Dev.arraysWf_bump _ _ _ _ h1).1)
    | exact Dev.arraysWf_setLp h1 (Mem.wf_storeBeat _ _ _ h1.1)

/-- A fold of operations that keep the arrays keeps them. -/
theorem Dev.arraysWf_foldl {α : Type} (f : Dev → α → Dev) (hf : ∀ d x, Dev.arraysWf d → (f d x).arraysWf) (l : List α)
    {d : Dev} (h : d.arraysWf) : (l.foldl f d).arraysWf := by
  induction l generalizing d with
  | nil => exact h
  | cons x l ih => exact ih (hf d x h)

theorem Dev.arraysWf_newWrite {d : Dev} (h : d.arraysWf) : d.newWrite.arraysWf :=
  Dev.arraysWf_congr h rfl rfl rfl rfl rfl

theorem Dev.arraysWf_lines {d : Dev} (l : List CLine) (h : d.arraysWf) :
    Dev.arraysWf { d with ms := { d.ms with lines := l } } := Dev.arraysWf_congr h rfl rfl rfl rfl rfl

theorem Dev.arraysWf_evict {d : Dev} (l : CLine) (h : d.arraysWf) : (d.evict l).arraysWf := by
  have h0 := Dev.arraysWf_lines (d.ms.lines.filter (·.line != l.line)) h
  have hf : ∀ (m : Mem) (k : Nat), m.wf → ((m.clearBeat k).write (64 * k) (List.replicate 64 0)).wf :=
    fun m k hm => Mem.wf_write _ _ (Mem.wf_clearBeat _ hm)
  unfold Dev.evict
  dsimp only
  split_ifs
  · exact Dev.arraysWf_setCm h0 (Mem.wf_foldl _ hf _ h0.2.2.1)
  · have h1 := Dev.arraysWf_foldl
      (fun (d : Dev) k => (d.cmnRead d.ms.cm k).arrWrite 1 (64 * k) (d.ms.cm.read (64 * k) 64) (d.ms.cm.bad k))
      (fun e k he => Dev.arraysWf_arrWrite _ _ _ _ (Dev.arraysWf_cmnRead _ _ he)) [2 * l.line, 2 * l.line + 1] (Dev.arraysWf_newWrite h0)
    exact Dev.arraysWf_setCm h1 (Mem.wf_foldl _ hf _ h1.2.2.1)

theorem Dev.arraysWf_makeRoom {d e : Dev} {n ln w : Nat} (h : d.arraysWf) (he : d.makeRoom n ln = some (w, e)) :
    e.arraysWf := by
  unfold Dev.makeRoom at he
  dsimp only at he
  split at he
  · cases he; exact h
  · simp only [Option.map_eq_some_iff, Prod.mk.injEq] at he
    obtain ⟨l, -, -, rfl⟩ := he
    exact Dev.arraysWf_evict l h

theorem Dev.arraysWf_touch {d : Dev} (ln : Nat) (b : Bool) (h : d.arraysWf) : (d.touch ln b).arraysWf := by
  unfold Dev.touch
  split
  · exact h
  · exact Dev.arraysWf_lines _ h

theorem Dev.arraysWf_fill {d : Dev} (cls b : Nat) (h : d.arraysWf) :
    (let (bs, bad, e) := d.arrRead cls b
     let cm := (e.ms.cm.write (64 * b) bs)
     ({ e with ms := { e.ms with cm := if bad then cm.setPoison b else cm.clearBeat b } } : Dev)).arraysWf := by
  have h1 := Dev.arraysWf_arrRead cls b h
  dsimp only
  refine Dev.arraysWf_setCm h1 ?_
  split_ifs
  · exact Mem.wf_setPoison _ (Mem.wf_write _ _ h1.2.2.1)
  · exact Mem.wf_clearBeat _ (Mem.wf_write _ _ h1.2.2.1)

theorem Dev.arraysWf_lookup {d : Dev} (q : Req) (part cls k : Nat) (whole : Bool) (h : d.arraysWf) :
    (d.lookup q part cls k whole).2.arraysWf := by
  unfold Dev.lookup
  dsimp only
  split_ifs with h1 h2 h3
  · exact h
  · exact Dev.arraysWf_touch _ _ (Dev.arraysWf_bump _ _ _ _ h)
  all_goals
    have hb := Dev.arraysWf_bump .cmn 0 0x114 1 h
    split
    · exact hb
    · rename_i w e he
      have hr : e.arraysWf := by
        first
        | (cases he)
        | (obtain ⟨n, -, hn⟩ := Option.bind_eq_some_iff.mp he; exact Dev.arraysWf_makeRoom hb hn)
      have hl := Dev.arraysWf_lines ({ line := k / 2, way := w, dirty := false } :: e.ms.lines) hr
      first
      | exact hl
      | exact Dev.arraysWf_foldl _ (fun e b he => Dev.arraysWf_fill cls b he) _ hl

/-! ## One beat through the device map -/

theorem Dev.arraysWf_beatRead (lk : Locked) {d : Dev} (q : Req) (part a n : Nat) (direct : Bool) (h : d.arraysWf) :
    (d.beatRead lk q part a n direct).2.2.2.arraysWf := by
  have hl := fun k => Dev.arraysWf_lookup q part (q.cls false) k false h
  unfold Dev.beatRead
  simp only
  split
  · exact Dev.arraysWf_cross _ _ _ _ h
  · split
    · exact h
    · split
      · split
        · exact Dev.arraysWf_cmnRead _ _ h
        · exact Dev.arraysWf_arrRead _ _ h
      · split
        · exact Dev.arraysWf_cmnRead _ _ (hl _)
        · exact Dev.arraysWf_arrRead _ _ (hl _)
    · exact Dev.arraysWf_cmnRead _ _ h
    iterate 4 (split <;> first | exact Dev.arraysWf_err _ _ _ _ h | exact h)
    iterate 4 exact h
    · exact Dev.arraysWf_spdUe _ _ h
    · exact Dev.arraysWf_spdUe _ _ h

theorem Dev.arraysWf_tblWrite {d : Dev} (o : Nat) (bs : List Byte) (p : Bool) (h : d.arraysWf) :
    (d.tblWrite o bs p).arraysWf := by
  have hs : (d.tbl.store o bs p).wf := Mem.wf_store _ _ _ h.2.2.2.1
  unfold Dev.tblWrite
  dsimp only
  split_ifs <;> first
    | exact Dev.arraysWf_setTbl h hs
    | exact Dev.arraysWf_errFree _ _ _ (Dev.arraysWf_sticky _ _ _ (Dev.arraysWf_setTbl h
        (Mem.wf_foldl _ (fun m x hm => Mem.wf_store _ _ _ hm) _ h.2.2.2.1)))

theorem Dev.arraysWf_windowWrite {d : Dev} (q : Req) (w o : Nat) (p : Page) (bs : List Byte) (ps : List Bool)
    (h : d.arraysWf) : (d.windowWrite q w o p bs ps).arraysWf := by
  unfold Dev.windowWrite
  split
  · exact Dev.arraysWf_congr h rfl rfl rfl rfl rfl
  · exact Dev.arraysWf_err _ _ _ _ h

theorem Dev.arraysWf_beatWrite (lk : Locked) {d : Dev} (q : Req) (part a : Nat) (bs : List Byte)
    (p direct whole : Bool) (h : d.arraysWf) : (d.beatWrite lk q part a bs p direct whole).2.arraysWf := by
  have hl := fun k => Dev.arraysWf_lookup q part (q.cls true) k whole h
  have hc : ∀ {e : Dev} (a : Nat), e.arraysWf →
      (Dev.touch { e with ms := { e.ms with cm := e.ms.cm.store a bs p } } (a / 128) true).arraysWf :=
    fun a he => Dev.arraysWf_touch _ _ (Dev.arraysWf_setCm he (Mem.wf_store _ _ _ he.2.2.1))
  unfold Dev.beatWrite
  simp only
  split
  · exact Dev.arraysWf_cross _ _ _ _ h
  · split
    · exact h
    · split
      · split
        · exact hc _ (Dev.arraysWf_cmnMerge _ _ _ h)
        · exact Dev.arraysWf_arrWrite _ _ _ _ h
      · split
        · exact hc _ (Dev.arraysWf_cmnMerge _ _ _ (hl _))
        · exact Dev.arraysWf_arrWrite _ _ _ _ (hl _)
    · exact Dev.arraysWf_setWin (Dev.arraysWf_cmnMerge _ _ _ h) (Mem.wf_store _ _ _ (Dev.arraysWf_cmnMerge _ _ _ h).2.1)
    iterate 4 exact Dev.arraysWf_tblWrite _ _ _ h
    iterate 4
      split
      · exact Dev.arraysWf_windowWrite _ _ _ _ _ _ h
      · exact h
    all_goals
      rename_i c o _
      have h1 := fun l => Dev.arraysWf_spdUe c l h
      exact Dev.arraysWf_setCore (h1 _) (by first | exact Mem.wf_store _ _ _ ((h1 _).2.2.2.2 c).1 | exact ((h1 _).2.2.2.2 c).1)
        (by first | exact Mem.wf_store _ _ _ ((h1 _).2.2.2.2 c).2 | exact ((h1 _).2.2.2.2 c).2)

/-! ## Whole accesses -/

/-- A read through the device map keeps every memory in canonical form. -/
theorem Dev.arraysWf_busRead (lk : Locked) {d : Dev} (q : Req) (part a n : Nat) (direct : Bool) (h : d.arraysWf) :
    (d.busRead lk q part a n direct).2.2.2.arraysWf := by
  unfold Dev.busRead
  suffices hk : ∀ (l : List (Nat × Nat)) (x : List Byte × List Bool × Nat × Dev), x.2.2.2.arraysWf →
      (l.foldl (fun (x : List Byte × List Bool × Nat × Dev) (y : Nat × Nat) =>
        let r := x.2.2.2.beatRead lk q part y.1 y.2 direct
        (x.1 ++ r.1, x.2.1 ++ [r.2.1], x.2.2.1 + b2n r.2.2.1, r.2.2.2)) x).2.2.2.arraysWf from hk _ _ h
  intro l
  induction l with
  | nil => exact fun _ hx => hx
  | cons y l ih => exact fun x hx => ih _ (Dev.arraysWf_beatRead lk q part _ _ direct hx)

/-- A write through the device map keeps every memory in canonical form. -/
theorem Dev.arraysWf_busWrite (lk : Locked) {d : Dev} (q : Req) (part a : Nat) (bs : List Byte) (ps : List Bool)
    (direct : Bool) (h : d.arraysWf) : (d.busWrite lk q part a bs ps direct).2.arraysWf := by
  unfold Dev.busWrite
  suffices hk : ∀ (l : List ((Nat × Nat) × Nat)) (x : Nat × Dev), x.2.arraysWf →
      (l.foldl (fun (x : Nat × Dev) (y : (Nat × Nat) × Nat) =>
        let ln := y.1.1 / 128 * 128
        let r := x.2.beatWrite lk q part y.1.1 (slice bs (y.1.1 - a) y.1.2) (ps.getD y.2 false) direct
          (decide (a ≤ ln) && decide (ln + 128 ≤ a + bs.length))
        (x.1 + b2n r.1, r.2)) x).2.arraysWf from hk _ _ (Dev.arraysWf_newWrite h)
  intro l
  induction l with
  | nil => exact fun _ hx => hx
  | cons y l ih => exact fun x hx => ih _ (Dev.arraysWf_beatWrite lk q part _ _ _ direct _ hx)

/-- The stores of a core to its own memories keep both in canonical form. -/
theorem CoreMem.wf_put {m : CoreMem} (a : Nat) (bs : List (Option Byte)) (p : Bool) (hs : m.spad.wf) (ha : m.accm.wf) :
    (m.put a bs p).spad.wf ∧ (m.put a bs p).accm.wf := by
  unfold CoreMem.put
  dsimp only
  split_ifs
  · exact ⟨hs, Mem.wf_put _ _ _ _ ha⟩
  · exact ⟨Mem.wf_put _ _ _ _ hs, ha⟩

theorem CoreMem.wf_store {m : CoreMem} (a : Nat) (bs : List Byte) (p : Bool) (hs : m.spad.wf) (ha : m.accm.wf) :
    (m.store a bs p).spad.wf ∧ (m.store a bs p).accm.wf := CoreMem.wf_put _ _ _ hs ha

end Sys2Proof.Machine
end

