-- ==== Sys2Proof/Laws/Frame.lean ====
section
/-! SUPPORT. What the shared updates of registers, events and logs leave alone: for each its shape, which says everything it
can change, and one lemma per field. -/

namespace Sys2Proof.Machine

/-! ## bump -/

@[simp] theorem Dev.bump_cores (d : Dev) (p : Page) (n o k : Nat) : (d.bump p n o k).cores = d.cores := by rw [Dev.bump_regs]; rfl
@[simp] theorem Dev.bump_sems (d : Dev) (p : Page) (n o k : Nat) : (d.bump p n o k).sems = d.sems := by rw [Dev.bump_regs]; rfl
@[simp] theorem Dev.bump_bars (d : Dev) (p : Page) (n o k : Nat) : (d.bump p n o k).bars = d.bars := by rw [Dev.bump_regs]; rfl
@[simp] theorem Dev.bump_ms (d : Dev) (p : Page) (n o k : Nat) : (d.bump p n o k).ms = d.ms := by rw [Dev.bump_regs]; rfl
@[simp] theorem Dev.bump_tbl (d : Dev) (p : Page) (n o k : Nat) : (d.bump p n o k).tbl = d.tbl := by rw [Dev.bump_regs]; rfl
@[simp] theorem Dev.bump_streams (d : Dev) (p : Page) (n o k : Nat) : (d.bump p n o k).streams = d.streams := by rw [Dev.bump_regs]; rfl
@[simp] theorem Dev.bump_sch (d : Dev) (p : Page) (n o k : Nat) : (d.bump p n o k).sch = d.sch := by rw [Dev.bump_regs]; rfl
@[simp] theorem Dev.bump_kvp (d : Dev) (p : Page) (n o k : Nat) : (d.bump p n o k).kvp = d.kvp := by rw [Dev.bump_regs]; rfl
@[simp] theorem Dev.bump_rxc (d : Dev) (p : Page) (n o k : Nat) : (d.bump p n o k).rxc = d.rxc := by rw [Dev.bump_regs]; rfl
@[simp] theorem Dev.bump_txc (d : Dev) (p : Page) (n o k : Nat) : (d.bump p n o k).txc = d.txc := by rw [Dev.bump_regs]; rfl
@[simp] theorem Dev.bump_rsv (d : Dev) (p : Page) (n o k : Nat) : (d.bump p n o k).rsv = d.rsv := by rw [Dev.bump_regs]; rfl
@[simp] theorem Dev.bump_fec (d : Dev) (p : Page) (n o k : Nat) : (d.bump p n o k).fec = d.fec := by rw [Dev.bump_regs]; rfl
@[simp] theorem Dev.bump_wtn (d : Dev) (p : Page) (n o k : Nat) : (d.bump p n o k).wtn = d.wtn := by rw [Dev.bump_regs]; rfl
@[simp] theorem Dev.bump_pci (d : Dev) (p : Page) (n o k : Nat) : (d.bump p n o k).pci = d.pci := by rw [Dev.bump_regs]; rfl
@[simp] theorem Dev.bump_tim (d : Dev) (p : Page) (n o k : Nat) : (d.bump p n o k).tim = d.tim := by rw [Dev.bump_regs]; rfl
@[simp] theorem Dev.bump_det (d : Dev) (p : Page) (n o k : Nat) : (d.bump p n o k).det = d.det := by rw [Dev.bump_regs]; rfl
@[simp] theorem Dev.bump_pwr (d : Dev) (p : Page) (n o k : Nat) : (d.bump p n o k).pwr = d.pwr := by rw [Dev.bump_regs]; rfl
@[simp] theorem Dev.bump_sec (d : Dev) (p : Page) (n o k : Nat) : (d.bump p n o k).sec = d.sec := by rw [Dev.bump_regs]; rfl
@[simp] theorem Dev.bump_fresh (d : Dev) (p : Page) (n o k : Nat) : (d.bump p n o k).fresh = d.fresh := by rw [Dev.bump_regs]; rfl
@[simp] theorem Dev.bump_out (d : Dev) (p : Page) (n o k : Nat) : (d.bump p n o k).out = d.out := by rw [Dev.bump_regs]; rfl

/-! ## sticky -/

@[simp] theorem Dev.sticky_cores (d : Dev) (p : Page) (n b : Nat) : (d.sticky p n b).cores = d.cores := by rw [Dev.sticky_regs]; rfl
@[simp] theorem Dev.sticky_sems (d : Dev) (p : Page) (n b : Nat) : (d.sticky p n b).sems = d.sems := by rw [Dev.sticky_regs]; rfl
@[simp] theorem Dev.sticky_bars (d : Dev) (p : Page) (n b : Nat) : (d.sticky p n b).bars = d.bars := by rw [Dev.sticky_regs]; rfl
@[simp] theorem Dev.sticky_ms (d : Dev) (p : Page) (n b : Nat) : (d.sticky p n b).ms = d.ms := by rw [Dev.sticky_regs]; rfl
@[simp] theorem Dev.sticky_tbl (d : Dev) (p : Page) (n b : Nat) : (d.sticky p n b).tbl = d.tbl := by rw [Dev.sticky_regs]; rfl
@[simp] theorem Dev.sticky_streams (d : Dev) (p : Page) (n b : Nat) : (d.sticky p n b).streams = d.streams := by rw [Dev.sticky_regs]; rfl
@[simp] theorem Dev.sticky_sch (d : Dev) (p : Page) (n b : Nat) : (d.sticky p n b).sch = d.sch := by rw [Dev.sticky_regs]; rfl
@[simp] theorem Dev.sticky_kvp (d : Dev) (p : Page) (n b : Nat) : (d.sticky p n b).kvp = d.kvp := by rw [Dev.sticky_regs]; rfl
@[simp] theorem Dev.sticky_rxc (d : Dev) (p : Page) (n b : Nat) : (d.sticky p n b).rxc = d.rxc := by rw [Dev.sticky_regs]; rfl
@[simp] theorem Dev.sticky_txc (d : Dev) (p : Page) (n b : Nat) : (d.sticky p n b).txc = d.txc := by rw [Dev.sticky_regs]; rfl
@[simp] theorem Dev.sticky_rsv (d : Dev) (p : Page) (n b : Nat) : (d.sticky p n b).rsv = d.rsv := by rw [Dev.sticky_regs]; rfl
@[simp] theorem Dev.sticky_fec (d : Dev) (p : Page) (n b : Nat) : (d.sticky p n b).fec = d.fec := by rw [Dev.sticky_regs]; rfl
@[simp] theorem Dev.sticky_wtn (d : Dev) (p : Page) (n b : Nat) : (d.sticky p n b).wtn = d.wtn := by rw [Dev.sticky_regs]; rfl
@[simp] theorem Dev.sticky_pci (d : Dev) (p : Page) (n b : Nat) : (d.sticky p n b).pci = d.pci := by rw [Dev.sticky_regs]; rfl
@[simp] theorem Dev.sticky_tim (d : Dev) (p : Page) (n b : Nat) : (d.sticky p n b).tim = d.tim := by rw [Dev.sticky_regs]; rfl
@[simp] theorem Dev.sticky_det (d : Dev) (p : Page) (n b : Nat) : (d.sticky p n b).det = d.det := by rw [Dev.sticky_regs]; rfl
@[simp] theorem Dev.sticky_pwr (d : Dev) (p : Page) (n b : Nat) : (d.sticky p n b).pwr = d.pwr := by rw [Dev.sticky_regs]; rfl
@[simp] theorem Dev.sticky_sec (d : Dev) (p : Page) (n b : Nat) : (d.sticky p n b).sec = d.sec := by rw [Dev.sticky_regs]; rfl
@[simp] theorem Dev.sticky_fresh (d : Dev) (p : Page) (n b : Nat) : (d.sticky p n b).fresh = d.fresh := by rw [Dev.sticky_regs]; rfl
@[simp] theorem Dev.sticky_out (d : Dev) (p : Page) (n b : Nat) : (d.sticky p n b).out = d.out := by rw [Dev.sticky_regs]; rfl

/-! ## err -/

@[simp] theorem Dev.err_cores (d : Dev) (p : Page) (n c o : Nat) : (d.err p n c o).cores = d.cores := by rw [Dev.err_regs]; rfl
@[simp] theorem Dev.err_sems (d : Dev) (p : Page) (n c o : Nat) : (d.err p n c o).sems = d.sems := by rw [Dev.err_regs]; rfl
@[simp] theorem Dev.err_bars (d : Dev) (p : Page) (n c o : Nat) : (d.err p n c o).bars = d.bars := by rw [Dev.err_regs]; rfl
@[simp] theorem Dev.err_ms (d : Dev) (p : Page) (n c o : Nat) : (d.err p n c o).ms = d.ms := by rw [Dev.err_regs]; rfl
@[simp] theorem Dev.err_tbl (d : Dev) (p : Page) (n c o : Nat) : (d.err p n c o).tbl = d.tbl := by rw [Dev.err_regs]; rfl
@[simp] theorem Dev.err_streams (d : Dev) (p : Page) (n c o : Nat) : (d.err p n c o).streams = d.streams := by rw [Dev.err_regs]; rfl
@[simp] theorem Dev.err_sch (d : Dev) (p : Page) (n c o : Nat) : (d.err p n c o).sch = d.sch := by rw [Dev.err_regs]; rfl
@[simp] theorem Dev.err_kvp (d : Dev) (p : Page) (n c o : Nat) : (d.err p n c o).kvp = d.kvp := by rw [Dev.err_regs]; rfl
@[simp] theorem Dev.err_rxc (d : Dev) (p : Page) (n c o : Nat) : (d.err p n c o).rxc = d.rxc := by rw [Dev.err_regs]; rfl
@[simp] theorem Dev.err_txc (d : Dev) (p : Page) (n c o : Nat) : (d.err p n c o).txc = d.txc := by rw [Dev.err_regs]; rfl
@[simp] theorem Dev.err_rsv (d : Dev) (p : Page) (n c o : Nat) : (d.err p n c o).rsv = d.rsv := by rw [Dev.err_regs]; rfl
@[simp] theorem Dev.err_fec (d : Dev) (p : Page) (n c o : Nat) : (d.err p n c o).fec = d.fec := by rw [Dev.err_regs]; rfl
@[simp] theorem Dev.err_wtn (d : Dev) (p : Page) (n c o : Nat) : (d.err p n c o).wtn = d.wtn := by rw [Dev.err_regs]; rfl
@[simp] theorem Dev.err_pci (d : Dev) (p : Page) (n c o : Nat) : (d.err p n c o).pci = d.pci := by rw [Dev.err_regs]; rfl
@[simp] theorem Dev.err_tim (d : Dev) (p : Page) (n c o : Nat) : (d.err p n c o).tim = d.tim := by rw [Dev.err_regs]; rfl
@[simp] theorem Dev.err_det (d : Dev) (p : Page) (n c o : Nat) : (d.err p n c o).det = d.det := by rw [Dev.err_regs]; rfl
@[simp] theorem Dev.err_pwr (d : Dev) (p : Page) (n c o : Nat) : (d.err p n c o).pwr = d.pwr := by rw [Dev.err_regs]; rfl
@[simp] theorem Dev.err_sec (d : Dev) (p : Page) (n c o : Nat) : (d.err p n c o).sec = d.sec := by rw [Dev.err_regs]; rfl
@[simp] theorem Dev.err_fresh (d : Dev) (p : Page) (n c o : Nat) : (d.err p n c o).fresh = d.fresh := by rw [Dev.err_regs]; rfl
@[simp] theorem Dev.err_out (d : Dev) (p : Page) (n c o : Nat) : (d.err p n c o).out = d.out := by rw [Dev.err_regs]; rfl

/-! ## plainWrite -/

@[simp] theorem Dev.plainWrite_cores (d : Dev) (p : Page) (n o v : Nat) : (d.plainWrite p n o v).cores = d.cores := by rw [Dev.plainWrite_regs]; rfl
@[simp] theorem Dev.plainWrite_sems (d : Dev) (p : Page) (n o v : Nat) : (d.plainWrite p n o v).sems = d.sems := by rw [Dev.plainWrite_regs]; rfl
@[simp] theorem Dev.plainWrite_bars (d : Dev) (p : Page) (n o v : Nat) : (d.plainWrite p n o v).bars = d.bars := by rw [Dev.plainWrite_regs]; rfl
@[simp] theorem Dev.plainWrite_ms (d : Dev) (p : Page) (n o v : Nat) : (d.plainWrite p n o v).ms = d.ms := by rw [Dev.plainWrite_regs]; rfl
@[simp] theorem Dev.plainWrite_tbl (d : Dev) (p : Page) (n o v : Nat) : (d.plainWrite p n o v).tbl = d.tbl := by rw [Dev.plainWrite_regs]; rfl
@[simp] theorem Dev.plainWrite_streams (d : Dev) (p : Page) (n o v : Nat) : (d.plainWrite p n o v).streams = d.streams := by rw [Dev.plainWrite_regs]; rfl
@[simp] theorem Dev.plainWrite_sch (d : Dev) (p : Page) (n o v : Nat) : (d.plainWrite p n o v).sch = d.sch := by rw [Dev.plainWrite_regs]; rfl
@[simp] theorem Dev.plainWrite_kvp (d : Dev) (p : Page) (n o v : Nat) : (d.plainWrite p n o v).kvp = d.kvp := by rw [Dev.plainWrite_regs]; rfl
@[simp] theorem Dev.plainWrite_rxc (d : Dev) (p : Page) (n o v : Nat) : (d.plainWrite p n o v).rxc = d.rxc := by rw [Dev.plainWrite_regs]; rfl
@[simp] theorem Dev.plainWrite_txc (d : Dev) (p : Page) (n o v : Nat) : (d.plainWrite p n o v).txc = d.txc := by rw [Dev.plainWrite_regs]; rfl
@[simp] theorem Dev.plainWrite_rsv (d : Dev) (p : Page) (n o v : Nat) : (d.plainWrite p n o v).rsv = d.rsv := by rw [Dev.plainWrite_regs]; rfl
@[simp] theorem Dev.plainWrite_fec (d : Dev) (p : Page) (n o v : Nat) : (d.plainWrite p n o v).fec = d.fec := by rw [Dev.plainWrite_regs]; rfl
@[simp] theorem Dev.plainWrite_wtn (d : Dev) (p : Page) (n o v : Nat) : (d.plainWrite p n o v).wtn = d.wtn := by rw [Dev.plainWrite_regs]; rfl
@[simp] theorem Dev.plainWrite_pci (d : Dev) (p : Page) (n o v : Nat) : (d.plainWrite p n o v).pci = d.pci := by rw [Dev.plainWrite_regs]; rfl
@[simp] theorem Dev.plainWrite_tim (d : Dev) (p : Page) (n o v : Nat) : (d.plainWrite p n o v).tim = d.tim := by rw [Dev.plainWrite_regs]; rfl
@[simp] theorem Dev.plainWrite_det (d : Dev) (p : Page) (n o v : Nat) : (d.plainWrite p n o v).det = d.det := by rw [Dev.plainWrite_regs]; rfl
@[simp] theorem Dev.plainWrite_pwr (d : Dev) (p : Page) (n o v : Nat) : (d.plainWrite p n o v).pwr = d.pwr := by rw [Dev.plainWrite_regs]; rfl
@[simp] theorem Dev.plainWrite_sec (d : Dev) (p : Page) (n o v : Nat) : (d.plainWrite p n o v).sec = d.sec := by rw [Dev.plainWrite_regs]; rfl
@[simp] theorem Dev.plainWrite_fresh (d : Dev) (p : Page) (n o v : Nat) : (d.plainWrite p n o v).fresh = d.fresh := by rw [Dev.plainWrite_regs]; rfl
@[simp] theorem Dev.plainWrite_out (d : Dev) (p : Page) (n o v : Nat) : (d.plainWrite p n o v).out = d.out := by rw [Dev.plainWrite_regs]; rfl

/-! ## guarded -/

@[simp] theorem Dev.guarded_cores (d : Dev) (p : Page) (n o v : Nat) (b ok : Bool) : (d.guarded p n o v b ok).cores = d.cores := by rw [Dev.guarded_regs]; rfl
@[simp] theorem Dev.guarded_sems (d : Dev) (p : Page) (n o v : Nat) (b ok : Bool) : (d.guarded p n o v b ok).sems = d.sems := by rw [Dev.guarded_regs]; rfl
@[simp] theorem Dev.guarded_bars (d : Dev) (p : Page) (n o v : Nat) (b ok : Bool) : (d.guarded p n o v b ok).bars = d.bars := by rw [Dev.guarded_regs]; rfl
@[simp] theorem Dev.guarded_ms (d : Dev) (p : Page) (n o v : Nat) (b ok : Bool) : (d.guarded p n o v b ok).ms = d.ms := by rw [Dev.guarded_regs]; rfl
@[simp] theorem Dev.guarded_tbl (d : Dev) (p : Page) (n o v : Nat) (b ok : Bool) : (d.guarded p n o v b ok).tbl = d.tbl := by rw [Dev.guarded_regs]; rfl
@[simp] theorem Dev.guarded_streams (d : Dev) (p : Page) (n o v : Nat) (b ok : Bool) : (d.guarded p n o v b ok).streams = d.streams := by rw [Dev.guarded_regs]; rfl
@[simp] theorem Dev.guarded_sch (d : Dev) (p : Page) (n o v : Nat) (b ok : Bool) : (d.guarded p n o v b ok).sch = d.sch := by rw [Dev.guarded_regs]; rfl
@[simp] theorem Dev.guarded_kvp (d : Dev) (p : Page) (n o v : Nat) (b ok : Bool) : (d.guarded p n o v b ok).kvp = d.kvp := by rw [Dev.guarded_regs]; rfl
@[simp] theorem Dev.guarded_rxc (d : Dev) (p : Page) (n o v : Nat) (b ok : Bool) : (d.guarded p n o v b ok).rxc = d.rxc := by rw [Dev.guarded_regs]; rfl
@[simp] theorem Dev.guarded_txc (d : Dev) (p : Page) (n o v : Nat) (b ok : Bool) : (d.guarded p n o v b ok).txc = d.txc := by rw [Dev.guarded_regs]; rfl
@[simp] theorem Dev.guarded_rsv (d : Dev) (p : Page) (n o v : Nat) (b ok : Bool) : (d.guarded p n o v b ok).rsv = d.rsv := by rw [Dev.guarded_regs]; rfl
@[simp] theorem Dev.guarded_fec (d : Dev) (p : Page) (n o v : Nat) (b ok : Bool) : (d.guarded p n o v b ok).fec = d.fec := by rw [Dev.guarded_regs]; rfl
@[simp] theorem Dev.guarded_wtn (d : Dev) (p : Page) (n o v : Nat) (b ok : Bool) : (d.guarded p n o v b ok).wtn = d.wtn := by rw [Dev.guarded_regs]; rfl
@[simp] theorem Dev.guarded_pci (d : Dev) (p : Page) (n o v : Nat) (b ok : Bool) : (d.guarded p n o v b ok).pci = d.pci := by rw [Dev.guarded_regs]; rfl
@[simp] theorem Dev.guarded_tim (d : Dev) (p : Page) (n o v : Nat) (b ok : Bool) : (d.guarded p n o v b ok).tim = d.tim := by rw [Dev.guarded_regs]; rfl
@[simp] theorem Dev.guarded_det (d : Dev) (p : Page) (n o v : Nat) (b ok : Bool) : (d.guarded p n o v b ok).det = d.det := by rw [Dev.guarded_regs]; rfl
@[simp] theorem Dev.guarded_pwr (d : Dev) (p : Page) (n o v : Nat) (b ok : Bool) : (d.guarded p n o v b ok).pwr = d.pwr := by rw [Dev.guarded_regs]; rfl
@[simp] theorem Dev.guarded_sec (d : Dev) (p : Page) (n o v : Nat) (b ok : Bool) : (d.guarded p n o v b ok).sec = d.sec := by rw [Dev.guarded_regs]; rfl
@[simp] theorem Dev.guarded_fresh (d : Dev) (p : Page) (n o v : Nat) (b ok : Bool) : (d.guarded p n o v b ok).fresh = d.fresh := by rw [Dev.guarded_regs]; rfl
@[simp] theorem Dev.guarded_out (d : Dev) (p : Page) (n o v : Nat) (b ok : Bool) : (d.guarded p n o v b ok).out = d.out := by rw [Dev.guarded_regs]; rfl

/-! ## clearRegs -/

theorem Dev.clearRegs_shape (d : Dev) (p : Page) (n : Nat) :
    d.clearRegs p n = d.withRegs (d.clearRegs p n).rg := rfl

@[simp] theorem Dev.clearRegs_cores (d : Dev) (p : Page) (n : Nat) : (d.clearRegs p n).cores = d.cores := rfl
@[simp] theorem Dev.clearRegs_sems (d : Dev) (p : Page) (n : Nat) : (d.clearRegs p n).sems = d.sems := rfl
@[simp] theorem Dev.clearRegs_bars (d : Dev) (p : Page) (n : Nat) : (d.clearRegs p n).bars = d.bars := rfl
@[simp] theorem Dev.clearRegs_ms (d : Dev) (p : Page) (n : Nat) : (d.clearRegs p n).ms = d.ms := rfl
@[simp] theorem Dev.clearRegs_tbl (d : Dev) (p : Page) (n : Nat) : (d.clearRegs p n).tbl = d.tbl := rfl
@[simp] theorem Dev.clearRegs_streams (d : Dev) (p : Page) (n : Nat) : (d.clearRegs p n).streams = d.streams := rfl
@[simp] theorem Dev.clearRegs_sch (d : Dev) (p : Page) (n : Nat) : (d.clearRegs p n).sch = d.sch := rfl
@[simp] theorem Dev.clearRegs_kvp (d : Dev) (p : Page) (n : Nat) : (d.clearRegs p n).kvp = d.kvp := rfl
@[simp] theorem Dev.clearRegs_rxc (d : Dev) (p : Page) (n : Nat) : (d.clearRegs p n).rxc = d.rxc := rfl
@[simp] theorem Dev.clearRegs_txc (d : Dev) (p : Page) (n : Nat) : (d.clearRegs p n).txc = d.txc := rfl
@[simp] theorem Dev.clearRegs_rsv (d : Dev) (p : Page) (n : Nat) : (d.clearRegs p n).rsv = d.rsv := rfl
@[simp] theorem Dev.clearRegs_fec (d : Dev) (p : Page) (n : Nat) : (d.clearRegs p n).fec = d.fec := rfl
@[simp] theorem Dev.clearRegs_wtn (d : Dev) (p : Page) (n : Nat) : (d.clearRegs p n).wtn = d.wtn := rfl
@[simp] theorem Dev.clearRegs_pci (d : Dev) (p : Page) (n : Nat) : (d.clearRegs p n).pci = d.pci := rfl
@[simp] theorem Dev.clearRegs_tim (d : Dev) (p : Page) (n : Nat) : (d.clearRegs p n).tim = d.tim := rfl
@[simp] theorem Dev.clearRegs_det (d : Dev) (p : Page) (n : Nat) : (d.clearRegs p n).det = d.det := rfl
@[simp] theorem Dev.clearRegs_pwr (d : Dev) (p : Page) (n : Nat) : (d.clearRegs p n).pwr = d.pwr := rfl
@[simp] theorem Dev.clearRegs_sec (d : Dev) (p : Page) (n : Nat) : (d.clearRegs p n).sec = d.sec := rfl
@[simp] theorem Dev.clearRegs_fresh (d : Dev) (p : Page) (n : Nat) : (d.clearRegs p n).fresh = d.fresh := rfl
@[simp] theorem Dev.clearRegs_out (d : Dev) (p : Page) (n : Nat) : (d.clearRegs p n).out = d.out := rfl

/-! ## errFree -/

theorem Dev.errFree_shape (d : Dev) (p : Page) (n c : Nat) :
    d.errFree p n c = { d with rg := (d.errFree p n c).rg, fresh := (d.errFree p n c).fresh } := by
  unfold Dev.errFree Dev.draw; dsimp only; rw [Dev.err_regs]; rfl

@[simp] theorem Dev.errFree_cores (d : Dev) (p : Page) (n c : Nat) : (d.errFree p n c).cores = d.cores := by rw [Dev.errFree_shape]
@[simp] theorem Dev.errFree_sems (d : Dev) (p : Page) (n c : Nat) : (d.errFree p n c).sems = d.sems := by rw [Dev.errFree_shape]
@[simp] theorem Dev.errFree_bars (d : Dev) (p : Page) (n c : Nat) : (d.errFree p n c).bars = d.bars := by rw [Dev.errFree_shape]
@[simp] theorem Dev.errFree_ms (d : Dev) (p : Page) (n c : Nat) : (d.errFree p n c).ms = d.ms := by rw [Dev.errFree_shape]
@[simp] theorem Dev.errFree_tbl (d : Dev) (p : Page) (n c : Nat) : (d.errFree p n c).tbl = d.tbl := by rw [Dev.errFree_shape]
@[simp] theorem Dev.errFree_streams (d : Dev) (p : Page) (n c : Nat) : (d.errFree p n c).streams = d.streams := by rw [Dev.errFree_shape]
@[simp] theorem Dev.errFree_sch (d : Dev) (p : Page) (n c : Nat) : (d.errFree p n c).sch = d.sch := by rw [Dev.errFree_shape]
@[simp] theorem Dev.errFree_kvp (d : Dev) (p : Page) (n c : Nat) : (d.errFree p n c).kvp = d.kvp := by rw [Dev.errFree_shape]
@[simp] theorem Dev.errFree_rxc (d : Dev) (p : Page) (n c : Nat) : (d.errFree p n c).rxc = d.rxc := by rw [Dev.errFree_shape]
@[simp] theorem Dev.errFree_txc (d : Dev) (p : Page) (n c : Nat) : (d.errFree p n c).txc = d.txc := by rw [Dev.errFree_shape]
@[simp] theorem Dev.errFree_rsv (d : Dev) (p : Page) (n c : Nat) : (d.errFree p n c).rsv = d.rsv := by rw [Dev.errFree_shape]
@[simp] theorem Dev.errFree_fec (d : Dev) (p : Page) (n c : Nat) : (d.errFree p n c).fec = d.fec := by rw [Dev.errFree_shape]
@[simp] theorem Dev.errFree_wtn (d : Dev) (p : Page) (n c : Nat) : (d.errFree p n c).wtn = d.wtn := by rw [Dev.errFree_shape]
@[simp] theorem Dev.errFree_pci (d : Dev) (p : Page) (n c : Nat) : (d.errFree p n c).pci = d.pci := by rw [Dev.errFree_shape]
@[simp] theorem Dev.errFree_tim (d : Dev) (p : Page) (n c : Nat) : (d.errFree p n c).tim = d.tim := by rw [Dev.errFree_shape]
@[simp] theorem Dev.errFree_det (d : Dev) (p : Page) (n c : Nat) : (d.errFree p n c).det = d.det := by rw [Dev.errFree_shape]
@[simp] theorem Dev.errFree_pwr (d : Dev) (p : Page) (n c : Nat) : (d.errFree p n c).pwr = d.pwr := by rw [Dev.errFree_shape]
@[simp] theorem Dev.errFree_sec (d : Dev) (p : Page) (n c : Nat) : (d.errFree p n c).sec = d.sec := by rw [Dev.errFree_shape]
@[simp] theorem Dev.errFree_out (d : Dev) (p : Page) (n c : Nat) : (d.errFree p n c).out = d.out := by rw [Dev.errFree_shape]

/-! ## post -/

theorem Dev.post_shape (d : Dev) (p : Page) (n src sub inst : Nat) (bs : List Byte) :
    d.post p n src sub inst bs = { d with rg := (d.post p n src sub inst bs).rg, pci := (d.post p n src sub inst bs).pci } := by
  unfold Dev.post; dsimp only; split_ifs <;> rfl

@[simp] theorem Dev.post_cores (d : Dev) (p : Page) (n src sub inst : Nat) (bs : List Byte) : (d.post p n src sub inst bs).cores = d.cores := by rw [Dev.post_shape]
@[simp] theorem Dev.post_sems (d : Dev) (p : Page) (n src sub inst : Nat) (bs : List Byte) : (d.post p n src sub inst bs).sems = d.sems := by rw [Dev.post_shape]
@[simp] theorem Dev.post_bars (d : Dev) (p : Page) (n src sub inst : Nat) (bs : List Byte) : (d.post p n src sub inst bs).bars = d.bars := by rw [Dev.post_shape]
@[simp] theorem Dev.post_ms (d : Dev) (p : Page) (n src sub inst : Nat) (bs : List Byte) : (d.post p n src sub inst bs).ms = d.ms := by rw [Dev.post_shape]
@[simp] theorem Dev.post_tbl (d : Dev) (p : Page) (n src sub inst : Nat) (bs : List Byte) : (d.post p n src sub inst bs).tbl = d.tbl := by rw [Dev.post_shape]
@[simp] theorem Dev.post_streams (d : Dev) (p : Page) (n src sub inst : Nat) (bs : List Byte) : (d.post p n src sub inst bs).streams = d.streams := by rw [Dev.post_shape]
@[simp] theorem Dev.post_sch (d : Dev) (p : Page) (n src sub inst : Nat) (bs : List Byte) : (d.post p n src sub inst bs).sch = d.sch := by rw [Dev.post_shape]
@[simp] theorem Dev.post_kvp (d : Dev) (p : Page) (n src sub inst : Nat) (bs : List Byte) : (d.post p n src sub inst bs).kvp = d.kvp := by rw [Dev.post_shape]
@[simp] theorem Dev.post_rxc (d : Dev) (p : Page) (n src sub inst : Nat) (bs : List Byte) : (d.post p n src sub inst bs).rxc = d.rxc := by rw [Dev.post_shape]
@[simp] theorem Dev.post_txc (d : Dev) (p : Page) (n src sub inst : Nat) (bs : List Byte) : (d.post p n src sub inst bs).txc = d.txc := by rw [Dev.post_shape]
@[simp] theorem Dev.post_rsv (d : Dev) (p : Page) (n src sub inst : Nat) (bs : List Byte) : (d.post p n src sub inst bs).rsv = d.rsv := by rw [Dev.post_shape]
@[simp] theorem Dev.post_fec (d : Dev) (p : Page) (n src sub inst : Nat) (bs : List Byte) : (d.post p n src sub inst bs).fec = d.fec := by rw [Dev.post_shape]
@[simp] theorem Dev.post_wtn (d : Dev) (p : Page) (n src sub inst : Nat) (bs : List Byte) : (d.post p n src sub inst bs).wtn = d.wtn := by rw [Dev.post_shape]
@[simp] theorem Dev.post_tim (d : Dev) (p : Page) (n src sub inst : Nat) (bs : List Byte) : (d.post p n src sub inst bs).tim = d.tim := by rw [Dev.post_shape]
@[simp] theorem Dev.post_det (d : Dev) (p : Page) (n src sub inst : Nat) (bs : List Byte) : (d.post p n src sub inst bs).det = d.det := by rw [Dev.post_shape]
@[simp] theorem Dev.post_pwr (d : Dev) (p : Page) (n src sub inst : Nat) (bs : List Byte) : (d.post p n src sub inst bs).pwr = d.pwr := by rw [Dev.post_shape]
@[simp] theorem Dev.post_sec (d : Dev) (p : Page) (n src sub inst : Nat) (bs : List Byte) : (d.post p n src sub inst bs).sec = d.sec := by rw [Dev.post_shape]
@[simp] theorem Dev.post_fresh (d : Dev) (p : Page) (n src sub inst : Nat) (bs : List Byte) : (d.post p n src sub inst bs).fresh = d.fresh := by rw [Dev.post_shape]
@[simp] theorem Dev.post_out (d : Dev) (p : Page) (n src sub inst : Nat) (bs : List Byte) : (d.post p n src sub inst bs).out = d.out := by rw [Dev.post_shape]

/-! ## cross -/

theorem Dev.cross_shape (d : Dev) (q : Req) (wr b : Bool) (a : Nat) :
    d.cross q wr b a = { d with rg := (d.cross q wr b a).rg, pci := (d.cross q wr b a).pci } := by
  unfold Dev.cross; dsimp only; split_ifs
  · rw [Dev.sticky_regs, Dev.bump_regs]; rfl
  · rw [Dev.post_shape, Dev.sticky_regs, Dev.bump_regs]; rfl
  · rw [Dev.post_shape, Dev.sticky_regs, Dev.bump_regs]; rfl

@[simp] theorem Dev.cross_cores (d : Dev) (q : Req) (wr b : Bool) (a : Nat) : (d.cross q wr b a).cores = d.cores := by rw [Dev.cross_shape]
@[simp] theorem Dev.cross_sems (d : Dev) (q : Req) (wr b : Bool) (a : Nat) : (d.cross q wr b a).sems = d.sems := by rw [Dev.cross_shape]
@[simp] theorem Dev.cross_bars (d : Dev) (q : Req) (wr b : Bool) (a : Nat) : (d.cross q wr b a).bars = d.bars := by rw [Dev.cross_shape]
@[simp] theorem Dev.cross_ms (d : Dev) (q : Req) (wr b : Bool) (a : Nat) : (d.cross q wr b a).ms = d.ms := by rw [Dev.cross_shape]
@[simp] theorem Dev.cross_tbl (d : Dev) (q : Req) (wr b : Bool) (a : Nat) : (d.cross q wr b a).tbl = d.tbl := by rw [Dev.cross_shape]
@[simp] theorem Dev.cross_streams (d : Dev) (q : Req) (wr b : Bool) (a : Nat) : (d.cross q wr b a).streams = d.streams := by rw [Dev.cross_shape]
@[simp] theorem Dev.cross_sch (d : Dev) (q : Req) (wr b : Bool) (a : Nat) : (d.cross q wr b a).sch = d.sch := by rw [Dev.cross_shape]
@[simp] theorem Dev.cross_kvp (d : Dev) (q : Req) (wr b : Bool) (a : Nat) : (d.cross q wr b a).kvp = d.kvp := by rw [Dev.cross_shape]
@[simp] theorem Dev.cross_rxc (d : Dev) (q : Req) (wr b : Bool) (a : Nat) : (d.cross q wr b a).rxc = d.rxc := by rw [Dev.cross_shape]
@[simp] theorem Dev.cross_txc (d : Dev) (q : Req) (wr b : Bool) (a : Nat) : (d.cross q wr b a).txc = d.txc := by rw [Dev.cross_shape]
@[simp] theorem Dev.cross_rsv (d : Dev) (q : Req) (wr b : Bool) (a : Nat) : (d.cross q wr b a).rsv = d.rsv := by rw [Dev.cross_shape]
@[simp] theorem Dev.cross_fec (d : Dev) (q : Req) (wr b : Bool) (a : Nat) : (d.cross q wr b a).fec = d.fec := by rw [Dev.cross_shape]
@[simp] theorem Dev.cross_wtn (d : Dev) (q : Req) (wr b : Bool) (a : Nat) : (d.cross q wr b a).wtn = d.wtn := by rw [Dev.cross_shape]
@[simp] theorem Dev.cross_tim (d : Dev) (q : Req) (wr b : Bool) (a : Nat) : (d.cross q wr b a).tim = d.tim := by rw [Dev.cross_shape]
@[simp] theorem Dev.cross_det (d : Dev) (q : Req) (wr b : Bool) (a : Nat) : (d.cross q wr b a).det = d.det := by rw [Dev.cross_shape]
@[simp] theorem Dev.cross_pwr (d : Dev) (q : Req) (wr b : Bool) (a : Nat) : (d.cross q wr b a).pwr = d.pwr := by rw [Dev.cross_shape]
@[simp] theorem Dev.cross_sec (d : Dev) (q : Req) (wr b : Bool) (a : Nat) : (d.cross q wr b a).sec = d.sec := by rw [Dev.cross_shape]
@[simp] theorem Dev.cross_fresh (d : Dev) (q : Req) (wr b : Bool) (a : Nat) : (d.cross q wr b a).fresh = d.fresh := by rw [Dev.cross_shape]
@[simp] theorem Dev.cross_out (d : Dev) (q : Req) (wr b : Bool) (a : Nat) : (d.cross q wr b a).out = d.out := by rw [Dev.cross_shape]

/-! ## num -/

theorem Dev.num_shape (d : Dev) (p : Page) (n : Nat) (e : NumEv) :
    d.num p n e = d.withRegs (d.num p n e).rg := by
  unfold Dev.num; dsimp only; split_ifs
  · rfl
  · rw [Dev.bump_regs, Dev.bump_regs, Dev.bump_regs]; rfl
  · rw [Dev.setReg_regs, Dev.bump_regs, Dev.bump_regs, Dev.bump_regs]; rfl

@[simp] theorem Dev.num_cores (d : Dev) (p : Page) (n : Nat) (e : NumEv) : (d.num p n e).cores = d.cores := by rw [Dev.num_shape]; rfl
@[simp] theorem Dev.num_sems (d : Dev) (p : Page) (n : Nat) (e : NumEv) : (d.num p n e).sems = d.sems := by rw [Dev.num_shape]; rfl
@[simp] theorem Dev.num_bars (d : Dev) (p : Page) (n : Nat) (e : NumEv) : (d.num p n e).bars = d.bars := by rw [Dev.num_shape]; rfl
@[simp] theorem Dev.num_ms (d : Dev) (p : Page) (n : Nat) (e : NumEv) : (d.num p n e).ms = d.ms := by rw [Dev.num_shape]; rfl
@[simp] theorem Dev.num_tbl (d : Dev) (p : Page) (n : Nat) (e : NumEv) : (d.num p n e).tbl = d.tbl := by rw [Dev.num_shape]; rfl
@[simp] theorem Dev.num_streams (d : Dev) (p : Page) (n : Nat) (e : NumEv) : (d.num p n e).streams = d.streams := by rw [Dev.num_shape]; rfl
@[simp] theorem Dev.num_sch (d : Dev) (p : Page) (n : Nat) (e : NumEv) : (d.num p n e).sch = d.sch := by rw [Dev.num_shape]; rfl
@[simp] theorem Dev.num_kvp (d : Dev) (p : Page) (n : Nat) (e : NumEv) : (d.num p n e).kvp = d.kvp := by rw [Dev.num_shape]; rfl
@[simp] theorem Dev.num_rxc (d : Dev) (p : Page) (n : Nat) (e : NumEv) : (d.num p n e).rxc = d.rxc := by rw [Dev.num_shape]; rfl
@[simp] theorem Dev.num_txc (d : Dev) (p : Page) (n : Nat) (e : NumEv) : (d.num p n e).txc = d.txc := by rw [Dev.num_shape]; rfl
@[simp] theorem Dev.num_rsv (d : Dev) (p : Page) (n : Nat) (e : NumEv) : (d.num p n e).rsv = d.rsv := by rw [Dev.num_shape]; rfl
@[simp] theorem Dev.num_fec (d : Dev) (p : Page) (n : Nat) (e : NumEv) : (d.num p n e).fec = d.fec := by rw [Dev.num_shape]; rfl
@[simp] theorem Dev.num_wtn (d : Dev) (p : Page) (n : Nat) (e : NumEv) : (d.num p n e).wtn = d.wtn := by rw [Dev.num_shape]; rfl
@[simp] theorem Dev.num_pci (d : Dev) (p : Page) (n : Nat) (e : NumEv) : (d.num p n e).pci = d.pci := by rw [Dev.num_shape]; rfl
@[simp] theorem Dev.num_tim (d : Dev) (p : Page) (n : Nat) (e : NumEv) : (d.num p n e).tim = d.tim := by rw [Dev.num_shape]; rfl
@[simp] theorem Dev.num_det (d : Dev) (p : Page) (n : Nat) (e : NumEv) : (d.num p n e).det = d.det := by rw [Dev.num_shape]; rfl
@[simp] theorem Dev.num_pwr (d : Dev) (p : Page) (n : Nat) (e : NumEv) : (d.num p n e).pwr = d.pwr := by rw [Dev.num_shape]; rfl
@[simp] theorem Dev.num_sec (d : Dev) (p : Page) (n : Nat) (e : NumEv) : (d.num p n e).sec = d.sec := by rw [Dev.num_shape]; rfl
@[simp] theorem Dev.num_fresh (d : Dev) (p : Page) (n : Nat) (e : NumEv) : (d.num p n e).fresh = d.fresh := by rw [Dev.num_shape]; rfl
@[simp] theorem Dev.num_out (d : Dev) (p : Page) (n : Nat) (e : NumEv) : (d.num p n e).out = d.out := by rw [Dev.num_shape]; rfl

end Sys2Proof.Machine
end

