-- ==== Sys2Proof/Laws/Core.lean ====
section
/-! SUPPORT. The logical core that runs, and what the shared operations of a core change: registers and cores alone. -/

namespace Sys2Proof.Machine

/-! ## setRun -/

@[simp] theorem CoreSt.setRun_state (c : CoreSt) (l : LcSt) : (c.setRun l).state = c.state := rfl
@[simp] theorem CoreSt.setRun_stall (c : CoreSt) (l : LcSt) : (c.setRun l).stall = c.stall := rfl
@[simp] theorem CoreSt.setRun_stallSince (c : CoreSt) (l : LcSt) : (c.setRun l).stallSince = c.stallSince := rfl
@[simp] theorem CoreSt.setRun_runLc (c : CoreSt) (l : LcSt) : (c.setRun l).runLc = c.runLc := rfl
@[simp] theorem CoreSt.setRun_hosted (c : CoreSt) (l : LcSt) : (c.setRun l).hosted = c.hosted := rfl
@[simp] theorem CoreSt.setRun_job (c : CoreSt) (l : LcSt) : (c.setRun l).job = c.job := rfl
@[simp] theorem CoreSt.setRun_jobid (c : CoreSt) (l : LcSt) : (c.setRun l).jobid = c.jobid := rfl
@[simp] theorem CoreSt.setRun_part (c : CoreSt) (l : LcSt) : (c.setRun l).part = c.part := rfl
@[simp] theorem CoreSt.setRun_spillBase (c : CoreSt) (l : LcSt) : (c.setRun l).spillBase = c.spillBase := rfl
@[simp] theorem CoreSt.setRun_lmask (c : CoreSt) (l : LcSt) : (c.setRun l).lmask = c.lmask := rfl
@[simp] theorem CoreSt.setRun_image (c : CoreSt) (l : LcSt) : (c.setRun l).image = c.image := rfl
@[simp] theorem CoreSt.setRun_imem (c : CoreSt) (l : LcSt) : (c.setRun l).imem = c.imem := rfl
@[simp] theorem CoreSt.setRun_loaded (c : CoreSt) (l : LcSt) : (c.setRun l).loaded = c.loaded := rfl
@[simp] theorem CoreSt.setRun_mem (c : CoreSt) (l : LcSt) : (c.setRun l).mem = c.mem := rfl
@[simp] theorem CoreSt.setRun_plate (c : CoreSt) (l : LcSt) : (c.setRun l).plate = c.plate := rfl
@[simp] theorem CoreSt.setRun_wash (c : CoreSt) (l : LcSt) : (c.setRun l).wash = c.wash := rfl
@[simp] theorem CoreSt.setRun_htb (c : CoreSt) (l : LcSt) : (c.setRun l).htb = c.htb := rfl
@[simp] theorem CoreSt.setRun_evq (c : CoreSt) (l : LcSt) : (c.setRun l).evq = c.evq := rfl
@[simp] theorem CoreSt.setRun_ovc (c : CoreSt) (l : LcSt) : (c.setRun l).ovc = c.ovc := rfl
@[simp] theorem CoreSt.setRun_cyc (c : CoreSt) (l : LcSt) : (c.setRun l).cyc = c.cyc := rfl
@[simp] theorem CoreSt.setRun_switchTo (c : CoreSt) (l : LcSt) : (c.setRun l).switchTo = c.switchTo := rfl
@[simp] theorem CoreSt.setRun_spill (c : CoreSt) (l : LcSt) : (c.setRun l).spill = c.spill := rfl
@[simp] theorem CoreSt.setRun_issued (c : CoreSt) (l : LcSt) : (c.setRun l).issued = c.issued := rfl
@[simp] theorem CoreSt.setRun_freeze (c : CoreSt) (l : LcSt) : (c.setRun l).freeze = c.freeze := rfl
@[simp] theorem CoreSt.setRun_leaving (c : CoreSt) (l : LcSt) : (c.setRun l).leaving = c.leaving := rfl
@[simp] theorem CoreSt.setRun_govWait (c : CoreSt) (l : LcSt) : (c.setRun l).govWait = c.govWait := rfl
@[simp] theorem CoreSt.setRun_stileCount (c : CoreSt) (l : LcSt) : (c.setRun l).stileCount = c.stileCount := rfl
@[simp] theorem CoreSt.setRun_ending (c : CoreSt) (l : LcSt) : (c.setRun l).ending = c.ending := rfl
@[simp] theorem CoreSt.setRun_wipe (c : CoreSt) (l : LcSt) : (c.setRun l).wipe = c.wipe := rfl
@[simp] theorem CoreSt.setRun_poisonLoads (c : CoreSt) (l : LcSt) : (c.setRun l).poisonLoads = c.poisonLoads := rfl

theorem CoreSt.setRun_run (c : CoreSt) (l : LcSt) (h : c.runLc < 8) : (c.setRun l).run = l := by
  simp [CoreSt.run, CoreSt.setRun, h]

/-! ## Operations of a core -/

/-- `e` differs from `d` in registers and cores alone. -/
abbrev Dev.coresOnly (d e : Dev) : Prop := e = { d with rg := e.rg, cores := e.cores }

theorem Dev.coresOnly.trans {a b c : Dev} (h : a.coresOnly b) (k : b.coresOnly c) : a.coresOnly c := by
  unfold Dev.coresOnly at *
  rw [k, h]

theorem Dev.setCore_coresOnly (d : Dev) (c : Nat) (x : CoreSt) : d.coresOnly (d.setCore c x) := rfl

theorem Dev.modCore_coresOnly (d : Dev) (c : Nat) (f : CoreSt → CoreSt) : d.coresOnly (d.modCore c f) := rfl

theorem Dev.bump_coresOnly (d : Dev) (p : Page) (n o k : Nat) : d.coresOnly (d.bump p n o k) := by
  unfold Dev.coresOnly
  rw [Dev.bump_regs]
  rfl

theorem Dev.sticky_coresOnly (d : Dev) (p : Page) (n b : Nat) : d.coresOnly (d.sticky p n b) := by
  unfold Dev.coresOnly
  rw [Dev.sticky_regs]
  rfl

theorem Dev.spdUe_coresOnly (d : Dev) (c : Nat) (as : List Nat) : d.coresOnly (d.spdUe c as) := by
  cases as with
  | nil => rfl
  | cons a l =>
    refine .trans (Dev.bump_coresOnly d .spd c 0x104 (a :: l).length) (.trans ?_ (Dev.sticky_coresOnly _ .spd c 1))
    split <;> rfl

theorem Dev.takeMerged_coresOnly (d : Dev) (c : Nat) : d.coresOnly (d.takeMerged c) := by
  simp only [Dev.takeMerged]
  split
  · rfl
  · exact .trans (Dev.setCore_coresOnly d c _) (Dev.spdUe_coresOnly _ c _)

/-- What soft errors change (R422). -/
theorem Dev.softErrors_coresOnly (d : Dev) (c : Nat) (e : SoftErr) : d.coresOnly (d.softErrors c e) := by
  have h : d.coresOnly (if e.bad.isEmpty then d
      else d.modCore c fun x => { x with mem := e.bad.foldl (fun m a => m.markUe a) x.mem }) := by split <;> rfl
  simp only [Dev.softErrors]
  split
  · exact h
  · exact .trans h (.trans (Dev.bump_coresOnly _ .spd c 0x100 _) (Dev.sticky_coresOnly _ .spd c 0))

/-- What passing cycles change (R105, R190, R193). -/
theorem Dev.passCycles_coresOnly (d : Dev) (c cc frozen : Nat) : d.coresOnly (d.passCycles c cc frozen) :=
  .trans (.trans (Dev.setCore_coresOnly d c _) (Dev.takeMerged_coresOnly _ c)) (Dev.bump_coresOnly _ .hch c 0x108 _)

/-! ## Time and ballast -/

/-- What the end of a hold of SYNCE_OUT changes (R470). -/
theorem Dev.syncResume_shape (d : Dev) : d.syncResume =
    { d with tim := { d.tim with syncHeld := d.syncResume.tim.syncHeld }, out := d.syncResume.out } := by
  unfold Dev.syncResume
  split
  · rfl
  · split
    · rfl
    · simp only
      split <;> rfl

/-- What placing ballast changes: registers, cores and the count of free values (R570). -/
theorem placeBallast_shape (bm : Nat) (l : List Nat) : ∀ (b : Nat) (d : Dev), placeBallast bm l b d =
    { d with rg := (placeBallast bm l b d).rg, cores := (placeBallast bm l b d).cores, fresh := (placeBallast bm l b d).fresh } := by
  induction l with
  | nil => intro b d; rfl
  | cons c cs ih =>
    intro b d
    rw [placeBallast]
    simp only
    rw [ih, Dev.bump_regs]
    split <;> rfl

end Sys2Proof.Machine
end

