-- ==== Sys2Proof/Laws/Write.lean ====
section
/-! SUPPORT. Laws of register writes: when a write reaches its register, what turns it away, and what a plain one does. -/

namespace Sys2Proof.Machine

/-- An instance number that a page has. -/
abbrev Page.hasInst (p : Page) (n : Nat) : Prop :=
  match p with
  | .eth => n < 8 | .mch => n < 16 | .core | .gln | .plt | .wsh | .hch | .spd | .dbg | .stl => n < 8 | _ => n = 0

/-- A write of one register is the page's own check around the register's effect. -/
theorem writeReg_page (w : World) (p : Page) (n o v : Nat) (lk : Locked) (d : Dev) (hn : p.hasInst n) (ho : o < 0x1000) :
    writeReg w p n o v lk d = Dev.pageWrite lk w p n o (regWrite lk w p n o (v % 2 ^ 32)) d := by
  obtain ⟨h1, h2⟩ := pageAtIndex_base p n o ho hn
  simp only [writeReg, wordWrite, h1, h2]

/-- A write that the page takes has the register's effect. -/
theorem writeReg_reaches {w : World} {p : Page} {n o v : Nat} {lk : Locked} {d : Dev} (hn : p.hasInst n) (ho : o < 0x1000)
    (h : d.takesWrite lk w p n) : writeReg w p n o v lk d = regWrite lk w p n o (v % 2 ^ 32) d := by
  obtain ⟨h1, h2, h3, h4⟩ := h
  rw [writeReg_page w p n o v lk d hn ho]
  have h5 : (w == .nonsecure && d.secure p n) = false := by
    cases w
    · simp [h3 rfl]
    · simp
  simp [Dev.pageWrite, h1, h2, h4, h5]

/-- A non-secure write to a secure page is a crossing access and nothing else (R519). -/
theorem writeReg_crosses {p : Page} {n o v : Nat} {lk : Locked} {d : Dev} (hn : p.hasInst n) (ho : o < 0x1000)
    (ht : d.openTo .nonsecure p = true) (hp : pageThere lk p n = true) (hs : d.secure p n = true) :
    writeReg .nonsecure p n o v lk d = (lk, d.cross .host true true (p.base n + o)) := by
  rw [writeReg_page _ p n o v lk d hn ho]
  simp [Dev.pageWrite, ht, hp, hs]

/-- While a block reset is in progress a write to the page is counted and changes nothing else (R593). -/
theorem writeReg_busy {w : World} {p : Page} {n o v : Nat} {lk : Locked} {d : Dev} (hn : p.hasInst n) (ho : o < 0x1000)
    (ht : d.openTo w p = true) (hp : pageThere lk p n = true) (hs : w = .nonsecure → d.secure p n = false)
    (hb : d.flag p n 0x014 1 = true) : writeReg w p n o v lk d = (lk, d.err p n errState o) := by
  rw [writeReg_page w p n o v lk d hn ho]
  have h5 : (w == .nonsecure && d.secure p n) = false := by
    cases w
    · simp [hs rfl]
    · simp
  simp [Dev.pageWrite, ht, hp, h5, hb]

/-- Before the boot and in reset no write of the host arrives (R534, R562). -/
theorem writeReg_closed {w : World} {p : Page} {n o v : Nat} {lk : Locked} {d : Dev} (hn : p.hasInst n) (ho : o < 0x1000)
    (ht : d.openTo w p = false) : writeReg w p n o v lk d = (lk, d) := by
  rw [writeReg_page w p n o v lk d hn ho]
  simp [Dev.pageWrite, ht]

/-- A non-secure write of a register with RWS fields is a crossing access (R12). -/
theorem regWrite_rws {lk : Locked} {p : Page} {n o v : Nat} {d : Dev} (h : p.isRws n o = true) :
    regWrite lk .nonsecure p n o v d = (lk, d.cross .host true true (p.base n + o)) := by
  simp [regWrite, h]

/-- A secure write, or a write of a register without RWS fields, has the effect of its block or header; MEM_SHARE and
PWR_SWRST apart. -/
theorem regWrite_block {lk : Locked} {w : World} {p : Page} {n o v : Nat} {d : Dev}
    (h : w = .nonsecure → p.isRws n o = false) (hm : ¬(p = .mem ∧ o = 0x180)) (hp : ¬(p = .pwr ∧ o = 0x128)) :
    regWrite lk w p n o v d = (lk, if o < 0x100 then d.headerWrite lk p n o v else d.blockWrite lk p n o v) := by
  have h5 : (w == .nonsecure && p.isRws n o) = false := by
    cases w
    · simp [h rfl]
    · simp
  unfold regWrite
  rw [if_neg (by simp [h5]), if_neg hm, if_neg hp]
  split_ifs <;> rfl

/-- What a plain write leaves in its register (R11, R12). -/
theorem Dev.reg_plainWrite {d : Dev} {p : Page} {n o v : Nat} {r : RegRow} (h : p.row n o = some r) :
    (d.plainWrite p n o v).reg p n o =
      ((d.reg p n o &&& (0xFFFFFFFF - (r.rw ||| r.rws)) &&& (0xFFFFFFFF - (v &&& r.w1c))) ||| (v &&& (r.rw ||| r.rws))) %
        2 ^ 32 := by
  simp [Dev.plainWrite, h]

/-- A plain write leaves every other register alone. -/
theorem Dev.reg_plainWrite_ne (d : Dev) (p q : Page) (n k o i v : Nat) (h : q.base k + i ≠ p.base n + o) :
    (d.plainWrite p n o v).reg q k i = d.reg q k i := by
  unfold Dev.plainWrite
  split
  · rfl
  · rw [Dev.reg_setReg]; simp [h]

end Sys2Proof.Machine
end

