-- ==== Sys2Proof/WellFormed.lean ====
section
/-! DEFINITION. Which terms are commands: the operands that no type bounds stay in the range the spec gives them. -/

namespace Sys2Proof

/-- Bytes of an entry of a host-produced ring (R546). -/
def ringEntry (r : Nat) : Nat := ([128, 32, 8] : List Nat).getD r 0

/-- Is the term a command of the table? -/
def Instr.wf : Instr → Bool
  | .bundleIssue _ cycles frozen _ _ bad => decide (frozen ≤ cycles) && bad.all fun a => decide (a < 0x1100000)
  | .poisonScalar _ => true
  | .passStart _ _ => true
  | .passRetire _ _ parity => parity.all fun p => decide (p < 128)
  | .tileFree _ _ => true
  | .washCommandStart _ => true
  | .washCommandRetire _ => true
  | .htbStart _ => true
  | .htbRetire _ => true
  | .barrierRelease _ _ => true
  | .semGrant _ => true
  | .semBroken _ => true
  | .logicalCoreSwitch _ => true
  | .switchRestoreDone _ _ => true
  | .gleanerRequest _ => true
  | .unitDelivered _ _ => true
  | .bufferReturn _ _ => true
  | .poolBorrow _ => true
  | .outboundDrain _ _ => true
  | .endRecord _ _ => true
  | .runDone _ _ => true
  | .stopComplete _ _ => true
  | .stileComplete _ _ => true
  | .commit => true
  | .create _ _ => true
  | .delete _ _ => true
  | .kvpEnable _ _ => true
  | .frameReceive _ _ _ => true
  | .admissionPoint => true
  | .rxcSwap _ _ => true
  | .buildDone _ => true
  | .swapDone _ _ => true
  | .contribution _ => true
  | .codeBlockQueued => true
  | .codeBlockAssign _ => true
  | .spanFetched => true
  | .decodeStart _ => true
  | .codeBlockResult _ _ => true
  | .deadline _ _ => true
  | .decodeStop _ => true
  | .recordWrite _ => true
  | .tbCopyDone _ _ => true
  | .encode _ => true
  | .symbolPrecoded _ _ _ row => decide (row < 256)
  | .txWindowOpen _ _ _ => true
  | .txWindowClose _ _ _ => true
  | .frameTransmit _ => true
  | .cplaneSend _ _ _ => true
  | .overlayMarker _ => true
  | .maskCheck _ _ _ row => decide (row < 256)
  | .polarRequest _ _ => true
  | .polarResult _ => true
  | .confidenceReport _ => true
  | .setPolicy _ _ _ _ => true
  | .resetLoop _ _ => true
  | .jobPlacement _ => true
  | .preemption _ => true
  | .sliceEnd _ => true
  | .jobEnd _ => true
  | .deadlineAbort _ => true
  | .watchdog _ => true
  | .refresh => true
  | .hotref _ _ => true
  | .memoryBurst _ _ => true
  | .memEnable _ _ => true
  | .memReady => true
  | .memShareWrite _ _ => true
  | .cmnEnable _ _ => true
  | .regionWrite _ cmn region _ _ => !cmn || decide (region.val < 8)
  | .crossingAccess _ _ _ addr => decide (addr < 2 ^ 40)
  | .windowWrite _ _ => true
  | .ethEnable _ _ _ => true
  | .linkDown _ => true
  | .slowPathTx _ => true
  | .timOffsetNs _ _ => true
  | .setCounter _ _ => true
  | .gridEn _ _ => true
  | .timNowFracRead _ => true
  | .gridEvent => true
  | .ppsOut => true
  | .ppsOutFall => true
  | .ppsIn => true
  | .synceChange _ _ => true
  | .alignGo _ _ => true
  | .alignmentStrobe => true
  | .queueRestart _ => true
  | .alignLost => true
  | .sigClr _ _ => true
  | .beacon => true
  | .messageReceive => true
  | .addrHeld => true
  | .credit _ => true
  | .sendRequest _ => true
  | .gatherOpen _ _ _ => true
  | .gatherClose _ _ _ => true
  | .bind _ _ => true
  | .unbind _ => true
  | .takeover _ => true
  | .mirrorSynced => true
  | .mirrorResync => true
  | .linkWrite _ _ _ _ => true
  | .boot flash => decide (flash.length ≤ 2 ^ 28)
  | .recoverBoot _ len => decide (len < 2 ^ 24)
  | .updateFw _ len => decide (len < 2 ^ 24)
  | .raiseFloor _ len => decide (len < 2 ^ 24)
  | .updateCfg _ len => decide (len < 2 ^ 24)
  | .getVersion req => decide (4 ≤ req.length) && decide (req.length ≤ 4088)
  | .getCapabilities req => decide (4 ≤ req.length) && decide (req.length ≤ 4088)
  | .negotiateAlgorithms req => decide (4 ≤ req.length) && decide (req.length ≤ 4088)
  | .getDigests req => decide (4 ≤ req.length) && decide (req.length ≤ 4088)
  | .getCertificate req => decide (4 ≤ req.length) && decide (req.length ≤ 4088)
  | .challenge req => decide (4 ≤ req.length) && decide (req.length ≤ 4088)
  | .getMeasurements req => decide (4 ≤ req.length) && decide (req.length ≤ 4088)
  | .jobRingDoorbell _ => true
  | .intakeRingDoorbell _ => true
  | .payloadRingDoorbell _ => true
  | .deliveryRingDoorbell _ => true
  | .eventRingDoorbell _ => true
  | .entryFetch ring bytes => decide (bytes.length = ringEntry ring.val)
  | .entryErr _ _ => true
  | .bar2Access _ addr len bytes _ => decide (addr < 2 ^ 40) && decide (len ≤ 4096) && decide (bytes.length ≤ 4096)
  | .msixMessage _ => true
  | .blockInterrupt page => decide (page < 4096)
  | .irqForce _ page _ => decide (page < 4096)
  | .blkReset _ page _ => decide (page < 4096)
  | .blkResetDone page => decide (page < 4096)
  | .clr _ page _ => decide (page < 4096)
  | .rcRead _ _ addr len => decide (addr < 2 ^ 24) && decide (len ≤ 4096)
  | .coreCycLoRead _ _ => true
  | .registerWrite _ _ addr bytes => decide (addr < 2 ^ 24) && decide (bytes.length ≤ 4096)
  | .pwrDvfs _ _ => true
  | .relockDone => true
  | .pwrGov _ _ => true
  | .governorQuantum => true
  | .sensorRead temps => decide (temps.length = 24) && temps.all fun t => decide (-32768 ≤ t) && decide (t ≤ 32767)
  | .vcoreSample mv => decide (mv < 4096)
  | .thermtrip => true
  | .por => true
  | .brownout _ => true
  | .rstPin _ => true
  | .perst => true
  | .refclkLoss => true
  | .swrst _ _ => true
  | .resetRelease => true
  | .pllLock _ => true
  | .i3cWrite _ => true
  | .i3cRead => true
  | .alertN => true
  | .linkUp _ => true
  | .losesLock _ => true
  | .perstRelease => true
  | .cmdDone _ => true
  | .imageLoad _ => true
  | .boundaryScan _ _ => true

end Sys2Proof
end

