-- ==== Sys2Proof/Tests/Slice0.lean ====
section
/-! SUPPORT. Tests: ill-formed terms that the checks refuse, worked values of the spec, and for each clause of each
obligation a state and operands that meet its hypotheses. -/

open Sys2Proof Sys2Proof.Machine

section

set_option linter.unusedVariables false
set_option Elab.async false

namespace Sys2Proof.Tests

/-- A device whose registers are at reset but for those listed. -/
def regs (l : List (Page × Nat × Nat × Nat)) : Dev := l.foldl (fun d x => d.setReg x.1 x.2.1 x.2.2.1 x.2.2.2) {}

/-- A state with an empty queue. -/
abbrev st (d : Dev := {}) (lk : Locked := {}) : State := { d := d, lk := lk }

/-- A state with a changed core 0. -/
abbrev core0 (x : CoreSt) : State := st (({} : Dev).setCore 0 x)

/-- A core whose running logical core is `l`, with a program of `n` bundles. -/
def running (l : LcSt) (n : Nat := 4) : CoreSt :=
  { state := 2, lcs := Vector.replicate 8 l, image := Vector.replicate 8 { len := n } }

/-- A core whose Gleaner has `x` in every descriptor. -/
def gln (x : DescSt) : CoreSt := running { gln := { descs := Vector.replicate 32 x } }

/-- Descriptor words from the front. -/
def words (l : List Nat) : Vector Nat 16 := Vector.ofFn fun i => l.getD i.val 0

/-- A device in RUN with registers. -/
def run (l : List (Page × Nat × Nat × Nat)) : Dev := regs ((.sec, 0, 0x100, 2) :: l)

/-- A core with one Stile transfer. -/
def stile (q : Stile) : CoreSt := running { gln := { stile := [q] } }

/-- A memory with bytes at an address. -/
def at' (a : Nat) (bs : List Byte) : Mem := ({} : Mem).write a bs

/-- Chain tables with bank 0 of receive and transmit cell 0 enabled at numerology 0, and stream 0 of each. -/
def tables (rx tx : List Byte) : Mem :=
  ((({} : Mem).write 0 ([0, 0, 0, 0x80] ++ rx)).write 0x4000 ([0, 0, 0, 0x80] ++ tx))

end Sys2Proof.Tests

open Sys2Proof.Tests


/-! ## Ill-formed terms -/

theorem test_illformed_bundleIssue : (Instr.bundleIssue 0 1 2 false 0 []).wf = false := by decide

theorem test_illformed_bundleIssue_bad : (Instr.bundleIssue 0 1 1 false 0 [0x1100000]).wf = false := by decide

theorem test_illformed_passRetire : (Instr.passRetire 0 false [128]).wf = false := by decide

theorem test_illformed_symbolPrecoded : (Instr.symbolPrecoded 0 0 0 256).wf = false := by decide

theorem test_illformed_maskCheck : (Instr.maskCheck 0 0 0 256).wf = false := by decide

theorem test_illformed_regionWrite : (Instr.regionWrite .secure true 8 0 0).wf = false := by decide

theorem test_illformed_crossingAccess : (Instr.crossingAccess 1 true false (2 ^ 40)).wf = false := by decide

theorem test_illformed_boot : (Instr.boot (List.replicate (2 ^ 28 + 1) 0)).wf = false := by
  have h (l : List Byte) : (Instr.boot l).wf = decide (l.length ≤ 2 ^ 28) := rfl
  rw [h, List.length_replicate]
  decide

theorem test_illformed_recoverBoot : (Instr.recoverBoot .secure (2 ^ 24)).wf = false := by decide

theorem test_illformed_updateFw : (Instr.updateFw .secure (2 ^ 24)).wf = false := by decide

theorem test_illformed_raiseFloor : (Instr.raiseFloor .secure (2 ^ 24)).wf = false := by decide

theorem test_illformed_updateCfg : (Instr.updateCfg .secure (2 ^ 24)).wf = false := by decide

theorem test_illformed_getVersion : (Instr.getVersion [0x10]).wf = false := by decide

theorem test_illformed_getCapabilities : (Instr.getCapabilities []).wf = false := by decide

theorem test_illformed_negotiateAlgorithms : (Instr.negotiateAlgorithms []).wf = false := by decide

theorem test_illformed_getDigests : (Instr.getDigests []).wf = false := by decide

theorem test_illformed_getCertificate : (Instr.getCertificate []).wf = false := by decide

theorem test_illformed_challenge : (Instr.challenge []).wf = false := by decide

theorem test_illformed_getMeasurements : (Instr.getMeasurements (List.replicate 4089 0)).wf = false := by decide +kernel

theorem test_illformed_entryFetch : (Instr.entryFetch 2 []).wf = false := by decide

theorem test_illformed_bar2Access : (Instr.bar2Access true (2 ^ 40) 0 [] false).wf = false := by decide

theorem test_illformed_bar2Access_len : (Instr.bar2Access false 0 4097 [] false).wf = false := by decide

theorem test_illformed_blockInterrupt : (Instr.blockInterrupt 4096).wf = false := by decide

theorem test_illformed_irqForce : (Instr.irqForce .secure 4096 0).wf = false := by decide

theorem test_illformed_blkReset : (Instr.blkReset .secure 4096 0).wf = false := by decide

theorem test_illformed_blkResetDone : (Instr.blkResetDone 4096).wf = false := by decide

theorem test_illformed_clr : (Instr.clr .secure 4096 0).wf = false := by decide

theorem test_illformed_rcRead : (Instr.rcRead .secure false (2 ^ 24) 4).wf = false := by decide

theorem test_illformed_registerWrite : (Instr.registerWrite .secure false (2 ^ 24) []).wf = false := by decide

theorem test_illformed_sensorRead : (Instr.sensorRead []).wf = false := by decide

theorem test_illformed_sensorRead_range : (Instr.sensorRead (List.replicate 24 32768)).wf = false := by decide

theorem test_illformed_vcoreSample : (Instr.vcoreSample 4096).wf = false := by decide

/-! ## Worked values -/

/-- The check value of the frame check sequence of IEEE 802.3: the CRC of the ASCII digits 1 to 9. -/
theorem test_crc32 : crc32 [0x31, 0x32, 0x33, 0x34, 0x35, 0x36, 0x37, 0x38, 0x39] = 0xCBF43926 := by decide +kernel

/-- The check value of CRC-32C, before its final inversion. -/
theorem test_crc32c : crc32c [0x31, 0x32, 0x33, 0x34, 0x35, 0x36, 0x37, 0x38, 0x39] ^^^ 0xFFFFFFFF = 0xE3069283 := by
  decide +kernel

/-- SHA-384 of the message abc, from FIPS 180-4. -/
theorem test_sha384 : (sha384 [0x61, 0x62, 0x63]).take 4 = [0xCB, 0x00, 0x75, 0x3F] := by decide +kernel

/-! ## Premises that states and operands meet -/

theorem test_meets_FrontCommandRuns : ∃ (s : State) (i : Instr) (rest : List Instr), s.pending = i :: rest :=
  ⟨{ pending := [.beacon] }, .beacon, [], rfl⟩

theorem test_meets_BundleIssueScalar1_a : ∃ (s : State) (c : Fin 8) (cc fr cor : Nat) (bad : List Nat) (w0 : Nat),
  let d := (s.d.softErrors c { corrected := cor, bad := bad }).passCycles c cc fr
  let x := d.core c
  let l := x.run
  let r := loopBack l.pc l.loops
  let ws := [w0, 0, 0, 0, 0, 0, 0, 0]
  ((s.d.core c).state = 2 ∨ (s.d.core c).state = 3) ∧
  (s.d.core c).switchTo = none ∧
  (s.d.core c).frozenNow cc fr = false ∧
  slotsOf x.imem l.pc = ws ∧
  opcOf w0 ≤ 0x1F ∧
  encFaults l.pc ws = [] ∧
  x.poisonLoads = [] ∧
  r.2 < (x.image.toList.getD x.runLc {}).len ∧
  opcOf w0 = 0 :=
  ⟨core0 { running { g := Vector.replicate 32 7 } with imem := at' 0 (leBytes 8 0x0) }, 0, 1, 0, 0, [], 0x0, by decide +kernel⟩

theorem test_meets_BundleIssueScalar1_b : ∃ (s : State) (c : Fin 8) (cc fr cor : Nat) (bad : List Nat) (w0 : Nat),
  let d := (s.d.softErrors c { corrected := cor, bad := bad }).passCycles c cc fr
  let x := d.core c
  let l := x.run
  let r := loopBack l.pc l.loops
  let ws := [w0, 0, 0, 0, 0, 0, 0, 0]
  ((s.d.core c).state = 2 ∨ (s.d.core c).state = 3) ∧
  (s.d.core c).switchTo = none ∧
  (s.d.core c).frozenNow cc fr = false ∧
  slotsOf x.imem l.pc = ws ∧
  opcOf w0 ≤ 0x1F ∧
  encFaults l.pc ws = [] ∧
  x.poisonLoads = [] ∧
  r.2 < (x.image.toList.getD x.runLc {}).len ∧
  l.executes w0 = true :=
  ⟨core0 { running { g := Vector.replicate 32 7 } with imem := at' 0 (leBytes 8 0x103e11000000000) }, 0, 1, 0, 0, [], 0x103e11000000000, by decide +kernel⟩

theorem test_meets_BundleIssueScalar1_c : ∃ (s : State) (c : Fin 8) (cc fr cor : Nat) (bad : List Nat) (w0 : Nat),
  let d := (s.d.softErrors c { corrected := cor, bad := bad }).passCycles c cc fr
  let x := d.core c
  let l := x.run
  let r := loopBack l.pc l.loops
  let ws := [w0, 0, 0, 0, 0, 0, 0, 0]
  ((s.d.core c).state = 2 ∨ (s.d.core c).state = 3) ∧
  (s.d.core c).switchTo = none ∧
  (s.d.core c).frozenNow cc fr = false ∧
  slotsOf x.imem l.pc = ws ∧
  opcOf w0 ≤ 0x1F ∧
  encFaults l.pc ws = [] ∧
  x.poisonLoads = [] ∧
  r.2 < (x.image.toList.getD x.runLc {}).len ∧
  opcOf w0 = 0x0F :=
  ⟨core0 { running { g := Vector.replicate 32 7 } with imem := at' 0 (leBytes 8 0xf00210000000000) }, 0, 1, 0, 0, [], 0xf00210000000000, by decide +kernel⟩

theorem test_meets_BundleIssueScalar1_d : ∃ (s : State) (c : Fin 8) (cc fr cor : Nat) (bad : List Nat) (w0 : Nat),
  let d := (s.d.softErrors c { corrected := cor, bad := bad }).passCycles c cc fr
  let x := d.core c
  let l := x.run
  let r := loopBack l.pc l.loops
  let ws := [w0, 0, 0, 0, 0, 0, 0, 0]
  ((s.d.core c).state = 2 ∨ (s.d.core c).state = 3) ∧
  (s.d.core c).switchTo = none ∧
  (s.d.core c).frozenNow cc fr = false ∧
  slotsOf x.imem l.pc = ws ∧
  opcOf w0 ≤ 0x1F ∧
  encFaults l.pc ws = [] ∧
  x.poisonLoads = [] ∧
  r.2 < (x.image.toList.getD x.runLc {}).len ∧
  0x10 ≤ opcOf w0 :=
  ⟨core0 { running { g := Vector.replicate 32 7 } with imem := at' 0 (leBytes 8 0x1f00200000000005) }, 0, 1, 0, 0, [], 0x1f00200000000005, by decide +kernel⟩

theorem test_meets_BundleIssueScalar1_e : ∃ (s : State) (c : Fin 8) (cc fr cor : Nat) (bad : List Nat) (w0 : Nat),
  let d := (s.d.softErrors c { corrected := cor, bad := bad }).passCycles c cc fr
  let x := d.core c
  let l := x.run
  let r := loopBack l.pc l.loops
  let ws := [w0, 0, 0, 0, 0, 0, 0, 0]
  ((s.d.core c).state = 2 ∨ (s.d.core c).state = 3) ∧
  (s.d.core c).switchTo = none ∧
  (s.d.core c).frozenNow cc fr = false ∧
  slotsOf x.imem l.pc = ws ∧
  opcOf w0 ≤ 0x1F ∧
  encFaults l.pc ws = [] ∧
  x.poisonLoads = [] ∧
  r.2 < (x.image.toList.getD x.runLc {}).len ∧
  opcOf w0 ≠ 0 ∧ l.executes w0 = false :=
  ⟨core0 { running { g := Vector.replicate 32 7 } with imem := at' 0 (leBytes 8 0x28c200000000000) }, 0, 1, 0, 0, [], 0x28c200000000000, by decide +kernel⟩

theorem test_meets_PoisonScalarFaults1 : ∃ (s : State) (c : Fin 8) (pc slot a rd : Nat) (rest : List (Nat × Nat × Nat × Nat)),
  (s.d.core c).poisonLoads = (pc, slot, a, rd) :: rest ∧
  (s.d.core c).state ≠ 6 ∧
  (s.d.core c).state ≠ 7 ∧
  (s.d.core c).runLc < 8 ∧
  (s.d.core c).job = none :=
  ⟨core0 { poisonLoads := [(3, 0, 64, 5)], runLc := 7 }, 0, 3, 0, 64, 5, [], by decide +kernel⟩

theorem test_meets_PoisonScalarFaults1_job : ∃ (s : State) (c : Fin 8) (pc slot a rd : Nat) (rest : List (Nat × Nat × Nat × Nat)),
  (s.d.core c).poisonLoads = (pc, slot, a, rd) :: rest ∧
  (s.d.core c).state ≠ 6 ∧
  (s.d.core c).state ≠ 7 ∧
  (s.d.core c).runLc < 8 ∧
  (s.d.core c).job = some 0 :=
  ⟨core0 { poisonLoads := [(3, 1, 64, 5)], job := some 0 }, 0, 3, 1, 64, 5, [], by decide +kernel⟩

theorem test_meets_BarrierReleaseFreesMembers1 : ∃ (s : State) (j seq : Nat) (b : BarSt),
  s.d.bar? j seq true = some b ∧
  (∀ lc ∈ bitList 8 b.members, ∃ c, c < 8 ∧ (s.d.core c).job = some j ∧ bit (s.d.core c).hosted lc = true) ∧
  0 ∈ bitList 8 b.members ∧ (s.d.core 1).job ≠ some j :=
  ⟨st { ({} : Dev).setCore 0 { hosted := 1, job := some 0 } with bars := [{ job := 0, seq := 1, members := 1, arrived := 1 }] }, 0, 1, { job := 0, seq := 1, members := 1, arrived := 1 }, by decide +kernel⟩

theorem test_meets_SemaphoreCommands1 : ∃ (s : State) (k : Fin 64) (h : Nat × Nat × Nat × Nat) (q : List (Nat × Nat × Nat × Nat)),
  s.d.sems[k.val].holder = none ∧
  s.d.sems[k.val].waiters = h :: q ∧
  h.2.1 < 8 ∧
  h.2.2.1 < 8 :=
  ⟨st { ({} : Dev) with sems := Vector.replicate 64 { waiters := [(0, 7, 7, 0)] } }, 63, (0, 7, 7, 0), [], by decide +kernel⟩

theorem test_meets_SemaphoreCommands2 : ∃ (s : State) (k : Fin 128) (h : Nat × Nat × Nat) (hk : k.val < 64),
  s.d.sems[k.val].holder = some h ∧
  s.d.elapsed s.d.sems[k.val].since 10000 = true :=
  ⟨st { ({} : Dev) with sems := Vector.replicate 64 { holder := some (0, 0, 0) }, tim := { tick := 7813 } }, 63, (0, 0, 0), by decide, by decide +kernel⟩

theorem test_meets_SwitchCommands1 : ∃ (s : State) (c : Fin 8) (n : Nat),
  let x := s.d.core c
  x.switchTo = some n ∧
  x.state ≠ 6 ∧
  x.state ≠ 7 ∧
  ((x.job.bind s.d.job?).map fun j => !j.asks.isEmpty).getD false = false ∧
  ((x.lcs.toList.getD n {}).started = true → (x.lcs.toList.getD n {}).released = true) ∧
  s.d.memWaits = false ∧
  x.run.ended = false ∧ n ≠ x.runLc :=
  ⟨core0 { switchTo := some 1, state := 5 }, 0, 1, by decide +kernel⟩

theorem test_meets_SwitchCommands2 : ∃ (s : State) (c : Fin 8) (cc : Nat),
  let x := s.d.core c
  x.state = 4 ∧
  x.leaving = false ∧
  x.runLc < 8 ∧
  s.d.memWaits = false :=
  ⟨core0 { state := 4, runLc := 7 }, 0, 1, by decide +kernel⟩

theorem test_meets_PlateCommands1 : ∃ (s : State) (c : Fin 8) (half : Bool) (p : PassRec),
  let x := s.d.core c
  x.plate.passes.find? (fun p => decide (p.phase = .pending) && (!p.cmd.tand || p.cmd.half == half)) = some p ∧
  (∀ q ∈ x.plate.passes, q.id < p.id → q.phase = .pending → q.apart p = true) ∧
  p.cmd.tand = false :=
  ⟨core0 { plate := { passes := [{ id := 0, lc := 0, pc := 0, cmd := { fmov := .s8, fsta := .s8, tb := 0, am := 0, as := 0, shp := 0, ceil := 0, acc := false, drain := false, pcs := 0, rel := false, tand := false, half := false, wide := false, mq := false, sq := false, ao := 0 }, n := 1, k := 1, m := 1, stride := 64, baseM := 0, baseS := 0, ao := 0, slot := .reset, phase := .pending }] } }, 0, false, { id := 0, lc := 0, pc := 0, cmd := { fmov := .s8, fsta := .s8, tb := 0, am := 0, as := 0, shp := 0, ceil := 0, acc := false, drain := false, pcs := 0, rel := false, tand := false, half := false, wide := false, mq := false, sq := false, ao := 0 }, n := 1, k := 1, m := 1, stride := 64, baseM := 0, baseS := 0, ao := 0, slot := .reset, phase := .pending }, by decide +kernel⟩

theorem test_meets_PlateCommands1_tandem : ∃ (s : State) (c : Fin 8) (half : Bool) (p : PassRec),
  let x := s.d.core c
  x.plate.passes.find? (fun p => decide (p.phase = .pending) && (!p.cmd.tand || p.cmd.half == half)) = some p ∧
  (∀ q ∈ x.plate.passes, q.id < p.id → q.phase = .pending → q.apart p = true) ∧
  p.cmd.tand = true :=
  ⟨core0 { plate := { passes := [{ id := 0, lc := 0, pc := 0, cmd := { fmov := .s8, fsta := .s8, tb := 0, am := 0, as := 0, shp := 0, ceil := 0, acc := false, drain := false, pcs := 0, rel := false, tand := true, half := false, wide := false, mq := false, sq := false, ao := 0 }, n := 1, k := 1, m := 1, stride := 64, baseM := 0, baseS := 0, ao := 0, slot := .reset, phase := .pending }] } }, 0, false, { id := 0, lc := 0, pc := 0, cmd := { fmov := .s8, fsta := .s8, tb := 0, am := 0, as := 0, shp := 0, ceil := 0, acc := false, drain := false, pcs := 0, rel := false, tand := true, half := false, wide := false, mq := false, sq := false, ao := 0 }, n := 1, k := 1, m := 1, stride := 64, baseM := 0, baseS := 0, ao := 0, slot := .reset, phase := .pending }, by decide +kernel⟩

theorem test_meets_PlateCommands2 : ∃ (s : State) (c : Fin 8) (half : Bool) (parity : List Nat) (p : PassRec),
  let x := s.d.core c
  x.plate.oldest half = some p ∧
  x.ending = false ∧
  p.cmd.wide = false :=
  ⟨core0 { plate := { passes := [{ id := 0, lc := 0, pc := 0, cmd := { fmov := .s8, fsta := .s8, tb := 0, am := 0, as := 0, shp := 0, ceil := 0, acc := false, drain := false, pcs := 0, rel := false, tand := false, half := false, wide := false, mq := false, sq := false, ao := 0 }, n := 1, k := 1, m := 1, stride := 64, baseM := 0, baseS := 0, ao := 0, slot := .reset, phase := .draining }] } }, 0, false, [], { id := 0, lc := 0, pc := 0, cmd := { fmov := .s8, fsta := .s8, tb := 0, am := 0, as := 0, shp := 0, ceil := 0, acc := false, drain := false, pcs := 0, rel := false, tand := false, half := false, wide := false, mq := false, sq := false, ao := 0 }, n := 1, k := 1, m := 1, stride := 64, baseM := 0, baseS := 0, ao := 0, slot := .reset, phase := .draining }, by decide +kernel⟩

theorem test_meets_PlateCommands2_wide : ∃ (s : State) (c : Fin 8) (half : Bool) (parity : List Nat) (p : PassRec),
  let x := s.d.core c
  x.plate.oldest half = some p ∧
  x.ending = false ∧
  p.cmd.wide = true :=
  ⟨core0 { plate := { passes := [{ id := 0, lc := 0, pc := 0, cmd := { fmov := .s8, fsta := .s8, tb := 0, am := 0, as := 0, shp := 0, ceil := 0, acc := false, drain := false, pcs := 0, rel := false, tand := false, half := false, wide := true, mq := false, sq := false, ao := 0 }, n := 1, k := 1, m := 1, stride := 64, baseM := 0, baseS := 0, ao := 0, slot := .reset, phase := .draining }] } }, 0, false, [], { id := 0, lc := 0, pc := 0, cmd := { fmov := .s8, fsta := .s8, tb := 0, am := 0, as := 0, shp := 0, ceil := 0, acc := false, drain := false, pcs := 0, rel := false, tand := false, half := false, wide := true, mq := false, sq := false, ao := 0 }, n := 1, k := 1, m := 1, stride := 64, baseM := 0, baseS := 0, ao := 0, slot := .reset, phase := .draining }, by decide +kernel⟩

theorem test_meets_PlateCommands3 : ∃ (s : State) (c : Fin 8) (k : Fin 16),
  let x := s.d.core c
  x.plate.canFree k = true :=
  ⟨core0 { plate := { tiles := Vector.replicate 16 { claimed := true, rel := some 5 } } }, 0, 15, by decide +kernel⟩

theorem test_meets_WashCommands1 : ∃ (s : State) (c : Fin 8) (w : WashCmd) (q : List WashCmd),
  let x := s.d.core c
  x.wash.exec = none ∧
  x.wash.queue = w :: q :=
  ⟨core0 { wash := { queue := [{ opc := 1, fa := .s8, fb := .s8, fd := .s8, wide := false, msk := false, zm := false, bw := 0, n := 1, r := 1, pitch := 64, pa := 0, pb := 0, pd := 64, pm := 0, lc := 0, pc := 0 }] } }, 0, { opc := 1, fa := .s8, fb := .s8, fd := .s8, wide := false, msk := false, zm := false, bw := 0, n := 1, r := 1, pitch := 64, pa := 0, pb := 0, pd := 64, pm := 0, lc := 0, pc := 0 }, [], by decide +kernel⟩

theorem test_meets_WashCommands2 : ∃ (s : State) (c : Fin 8) (w : WashCmd),
  let x := s.d.core c
  x.wash.exec = some w ∧
  x.ending = false ∧
  w.wide = false :=
  ⟨core0 { wash := { exec := some { opc := 1, fa := .s8, fb := .s8, fd := .s8, wide := false, msk := false, zm := false, bw := 0, n := 1, r := 1, pitch := 64, pa := 0, pb := 0, pd := 64, pm := 0, lc := 0, pc := 0 } } }, 0, { opc := 1, fa := .s8, fb := .s8, fd := .s8, wide := false, msk := false, zm := false, bw := 0, n := 1, r := 1, pitch := 64, pa := 0, pb := 0, pd := 64, pm := 0, lc := 0, pc := 0 }, by decide +kernel⟩

theorem test_meets_WashCommands2_wide : ∃ (s : State) (c : Fin 8) (w : WashCmd),
  let x := s.d.core c
  x.wash.exec = some w ∧
  x.ending = false ∧
  w.wide = true :=
  ⟨core0 { wash := { exec := some { opc := 1, fa := .s8, fb := .s8, fd := .s8, wide := true, msk := false, zm := false, bw := 0, n := 1, r := 1, pitch := 64, pa := 0, pb := 0, pd := 64, pm := 0, lc := 0, pc := 0 } } }, 0, { opc := 1, fa := .s8, fb := .s8, fd := .s8, wide := true, msk := false, zm := false, bw := 0, n := 1, r := 1, pitch := 64, pa := 0, pb := 0, pd := 64, pm := 0, lc := 0, pc := 0 }, by decide +kernel⟩

theorem test_meets_TracebackCommands1 : ∃ (s : State) (c : Fin 8) (h : Htb) (q : List Htb),
  let x := s.d.core c
  x.htb = h :: q ∧
  h.started = false :=
  ⟨core0 { htb := [{ lc := 0, pc := 0, nu := 6, start := 0, startPois := false, tbw := 1, len := 8, drop := 0, addrs := [0], started := false, out := [] }] }, 0, { lc := 0, pc := 0, nu := 6, start := 0, startPois := false, tbw := 1, len := 8, drop := 0, addrs := [0], started := false, out := [] }, [], by decide +kernel⟩

theorem test_meets_TracebackCommands2 : ∃ (s : State) (c : Fin 8) (h : Htb) (q : List Htb),
  let x := s.d.core c
  x.htb = h :: q ∧
  h.started = true ∧
  x.ending = false ∧
  h.addrs[1]? = some 0xBFFFFF ∧ h.out[1]? = some 2 ∧ 1 ∉ h.addrs :=
  ⟨core0 { htb := [{ lc := 0, pc := 0, nu := 6, start := 0, startPois := false, tbw := 1, len := 8, drop := 0, addrs := [0, 0xBFFFFF], started := true, out := [1, 2] }] }, 0, { lc := 0, pc := 0, nu := 6, start := 0, startPois := false, tbw := 1, len := 8, drop := 0, addrs := [0, 0xBFFFFF], started := true, out := [1, 2] }, [], by decide +kernel⟩

theorem test_meets_GleanerRequests2 : ∃ (s : State) (c : Fin 8) (k n p : Nat),
  let x := s.d.core c
  let g := x.run.gln
  (List.range 32).findSome? (fun e => (g.mayBorrow e).map fun m => (e, m)) = some (k, n) ∧
  g.pool = some p ∧
  x.runLc < 8 :=
  ⟨core0 (running { gln := { descs := Vector.replicate 32 { work := words [0x400, 0, 0, 0, 0x120001, 0x50040, 0, 64], state := 1, ring := true, bufs := [{ id := 0, addr := 0, st := .token }, { id := 1, addr := 64, st := .filling }] }, pool := some 31 } }), 0, 0, 0, 31, by decide +kernel⟩

theorem test_meets_GleanerRequests3 : ∃ (s : State) (c : Fin 8) (q : Fin 16) (k : Nat) (b : GBuf) (l : List (Nat × GBuf)),
  let x := s.d.core c
  let g := x.run.gln
  g.popped q = (k, b) :: l ∧
  x.bufBusy b = false ∧
  x.runLc < 8 ∧
  k < 32 :=
  ⟨core0 (running { gln := { descs := (Vector.replicate 32 {}).set 31 { order := [3], bufs := [{ id := 3, addr := 0, st := .popped, popQ := 15 }] }, queues := Vector.replicate 16 (some 31) } }), 0, 15, 31, { id := 3, addr := 0, st := .popped, popQ := 15 }, [], by decide +kernel⟩

theorem test_meets_GleanerUnits1 : ∃ (s : State) (c : Fin 8) (k : Fin 32) (bid : Option Nat) (addr : Nat),
  let x := (s.d.core c).run.gln.desc k
  (s.d.core c).runLc < 8 ∧
  (x.state = 1 ∨ x.state = 2) ∧
  dOut x.work = false ∧
  x.deliv < x.unit ∧
  dMode x.work ≤ 1 ∧
  (dMode x.work = 1 → dCvt x.work = false) ∧
  x.needsList = false ∧
  s.d.lpWaits (dExt x.work) = false ∧
  x.unitAddr .filling = some (bid, addr) ∧
  dMode x.work = 0 :=
  ⟨core0 (gln { work := words [0x400, 0, 0, 0, 0x120001, 0x50040, 0, 64], state := 1, unit := 1 }), 0, 31, none, 0, by decide +kernel⟩

theorem test_meets_GleanerUnits1_ring : ∃ (s : State) (c : Fin 8) (k : Fin 32) (bid : Option Nat) (addr : Nat),
  let x := (s.d.core c).run.gln.desc k
  (s.d.core c).runLc < 8 ∧
  (x.state = 1 ∨ x.state = 2) ∧
  dOut x.work = false ∧
  x.deliv < x.unit ∧
  dMode x.work ≤ 1 ∧
  (dMode x.work = 1 → dCvt x.work = false) ∧
  x.needsList = false ∧
  s.d.lpWaits (dExt x.work) = false ∧
  x.unitAddr .filling = some (bid, addr) ∧
  bid = some 7 :=
  ⟨core0 (gln { work := words [0x400, 0, 0, 0, 0x120001, 0x50040, 0, 64], state := 2, ring := true, unit := 1, order := [7], bufs := [{ id := 7, addr := 64, st := .filling }] }), 0, 0, some 7, 64, by decide +kernel⟩

theorem test_meets_GleanerUnits1_walk : ∃ (s : State) (c : Fin 8) (k : Fin 32) (bid : Option Nat) (addr : Nat),
  let x := (s.d.core c).run.gln.desc k
  (s.d.core c).runLc < 8 ∧
  (x.state = 1 ∨ x.state = 2) ∧
  dOut x.work = false ∧
  x.deliv < x.unit ∧
  dMode x.work ≤ 1 ∧
  (dMode x.work = 1 → dCvt x.work = false) ∧
  x.needsList = false ∧
  s.d.lpWaits (dExt x.work) = false ∧
  x.unitAddr .filling = some (bid, addr) ∧
  dMode x.work = 1 :=
  ⟨core0 (gln { work := words [1, 0, 0, 0, 128, 0x10001], state := 1, unit := 1, list := some [] }), 0, 31, none, 0, by decide +kernel⟩

theorem test_meets_GleanerUnits2 : ∃ (s : State) (c : Fin 8) (k : Fin 32) (bid : Option Nat) (addr : Nat),
  let x := (s.d.core c).run.gln.desc k
  (s.d.core c).runLc < 8 ∧
  (x.state = 1 ∨ x.state = 2) ∧
  dOut x.work = true ∧
  x.deliv < x.unit ∧
  s.d.lpWaits (dExt x.work) = false ∧
  x.unitAddr .draining = some (bid, addr) :=
  ⟨core0 (gln { work := words [0x500, 0, 0, 0, 0x120001, 0x50040, 0, 64], state := 2, unit := 1 }), 0, 31, none, 0, by decide +kernel⟩

theorem test_meets_GleanerRunEnds1 : ∃ (s : State) (c : Fin 8) (k : Fin 32) (b : GBuf),
  let x0 := (s.d.core c).run.gln.desc k
  let g := if x0.state = 2 then (s.d.core c).run.gln.stopBuffers k else (s.d.core c).run.gln
  (s.d.core c).runLc < 8 ∧
  (x0.state = 1 ∨ x0.state = 2) ∧
  dEos x0.work = true ∧
  x0.endDone = false ∧
  x0.ring = true ∧
  x0.drained = true ∧
  (g.desc k).nextFree = some b ∧
  x0.state = 1 :=
  ⟨core0 (gln { work := words [0x20000, 0, 0, 64, 0x10001, 0], state := 1, ring := true, bufs := [{ id := 0, addr := 64 }] }), 0, 31, { id := 0, addr := 64 }, by decide +kernel⟩

theorem test_meets_GleanerRunEnds1_stopping : ∃ (s : State) (c : Fin 8) (k : Fin 32) (b : GBuf),
  let x0 := (s.d.core c).run.gln.desc k
  let g := if x0.state = 2 then (s.d.core c).run.gln.stopBuffers k else (s.d.core c).run.gln
  (s.d.core c).runLc < 8 ∧
  (x0.state = 1 ∨ x0.state = 2) ∧
  dEos x0.work = true ∧
  x0.endDone = false ∧
  x0.ring = true ∧
  x0.drained = true ∧
  (g.desc k).nextFree = some b ∧
  x0.state = 2 :=
  ⟨core0 (gln { work := words [0x20000, 0, 0, 64, 0x10001, 0], state := 2, ring := true, bufs := [{ id := 0, addr := 64 }] }), 0, 31, { id := 0, addr := 64 }, by decide +kernel⟩

theorem test_meets_GleanerRunEnds2 : ∃ (s : State) (c : Fin 8) (k : Fin 32),
  let x := (s.d.core c).run.gln.desc k
  (s.d.core c).runLc < 8 ∧
  (s.d.core c).ending = false ∧
  x.state = 1 ∧
  dMode x.work ≠ 2 ∧
  x.drained = true ∧
  (dEos x.work = true → x.endDone = true) ∧
  x.pend = none :=
  ⟨core0 (gln { state := 1, pend := none }), 0, 31, by decide +kernel⟩

theorem test_meets_GleanerRunEnds3 : ∃ (s : State) (c : Fin 8) (k : Fin 32),
  let x := (s.d.core c).run.gln.desc k
  (s.d.core c).runLc < 8 ∧
  (s.d.core c).ending = false ∧
  x.state = 2 ∧
  x.drained = true ∧
  (dEos x.work = true → x.endDone = true) ∧
  x.pend = none :=
  ⟨core0 (gln { state := 2, pend := none }), 0, 31, by decide +kernel⟩

theorem test_meets_GleanerRunEnds2_pending : ∃ (s : State) (c : Fin 8) (k : Fin 32),
  let x := (s.d.core c).run.gln.desc k
  (s.d.core c).runLc < 8 ∧
  (s.d.core c).ending = false ∧
  x.state = 1 ∧
  dMode x.work ≠ 2 ∧
  x.drained = true ∧
  (dEos x.work = true → x.endDone = true) ∧
  x.pend = some (words [0x400]) :=
  ⟨core0 (gln { state := 1, pend := some (words [0x400]) }), 0, 31, by decide +kernel⟩

theorem test_meets_GleanerRunEnds3_pending : ∃ (s : State) (c : Fin 8) (k : Fin 32),
  let x := (s.d.core c).run.gln.desc k
  (s.d.core c).runLc < 8 ∧
  (s.d.core c).ending = false ∧
  x.state = 2 ∧
  x.drained = true ∧
  (dEos x.work = true → x.endDone = true) ∧
  x.pend = some (words [0x400]) :=
  ⟨core0 (gln { state := 2, pend := some (words [0x400]) }), 0, 31, by decide +kernel⟩

theorem test_meets_StileAndWindows1_read : ∃ (s : State) (c : Fin 8) (cc lc : Nat) (q : Stile),
  s.d.headStile c = some (lc, q) ∧
  q.done = true ∧
  q.given = false ∧
  s.d.lpWaits q.ext = false ∧
  s.d.windowOf s.lk c q = none ∧
  (q.out = true → s.d.readyLine q.ext ((s.d.core c).mem.read q.loc q.len) = none) ∧
  (s.d.core c).ending = false ∧
  lc < 8 ∧
  q.out = false :=
  ⟨core0 (stile { ext := 0, loc := 0, len := 64, out := false, sent := 1 }), 0, 65536, 0, { ext := 0, loc := 0, len := 64, out := false, sent := 1 }, by decide +kernel⟩

theorem test_meets_StileAndWindows1_write : ∃ (s : State) (c : Fin 8) (cc lc : Nat) (q : Stile),
  s.d.headStile c = some (lc, q) ∧
  q.done = true ∧
  q.given = false ∧
  s.d.lpWaits q.ext = false ∧
  s.d.windowOf s.lk c q = none ∧
  (q.out = true → s.d.readyLine q.ext ((s.d.core c).mem.read q.loc q.len) = none) ∧
  (s.d.core c).ending = false ∧
  lc < 8 ∧
  q.out = true :=
  ⟨core0 (stile { ext := 0, loc := 0, len := 64, out := true, sent := 1 }), 0, 65536, 0, { ext := 0, loc := 0, len := 64, out := true, sent := 1 }, by decide +kernel⟩

theorem test_meets_StileAndWindows2 : ∃ (s : State) (c : Fin 8) (w : Fin 4) (lc o : Nat) (q : Stile),
  w ≠ 0 ∧
  s.d.headStile c = some (lc, q) ∧
  q.done = true ∧
  q.given = false ∧
  q.out = true ∧
  lc < 8 ∧
  s.d.windowOf s.lk c q = some (w.val, o) ∧
  (s.d.worldOf (.core c) = .nonsecure → s.d.secureAddr (s.d.target s.lk (.core c) q.ext) = false) ∧
  w.val = 3 :=
  ⟨core0 (stile { ext := 0x1802030000, loc := 0, len := 16, out := true, sent := 1 }), 0, 3, 0, 0, { ext := 0x1802030000, loc := 0, len := 16, out := true, sent := 1 }, by decide +kernel⟩

theorem test_meets_HistoryHostCommands1 : ∃ (s : State) (w : World) (h : Fin 16384),
  let d := { s.d.setFld .kvp 0 0x13C 31 31 1 with kvp := { s.d.kvp with queue := [] } }
  let r := (d.histRec s.lk h false).1
  s.d.takesWrite s.lk w .kvp 0 ∧
  s.d.memWaits = false ∧
  s.d.flag .kvp 0 0x100 0 = true ∧
  s.d.flag .kvp 0 0x13C 31 = false ∧
  s.d.kvp.queue = [] ∧
  r.valid = false ∧ r.shapeOk = false :=
  ⟨st { regs [(.kvp, 0, 0x100, 1), (.mem, 0, 0x100, 1), (.mem, 0, 0x104, 1)] with ms := {} }, .secure, 16383, by decide +kernel⟩

theorem test_meets_HistoryHostCommands1_valid : ∃ (s : State) (w : World) (h : Fin 16384),
  let d := { s.d.setFld .kvp 0 0x13C 31 31 1 with kvp := { s.d.kvp with queue := [] } }
  let r := (d.histRec s.lk h false).1
  s.d.takesWrite s.lk w .kvp 0 ∧
  s.d.memWaits = false ∧
  s.d.flag .kvp 0 0x100 0 = true ∧
  s.d.flag .kvp 0 0x13C 31 = false ∧
  s.d.kvp.queue = [] ∧
  r.valid = true :=
  ⟨st { regs [(.kvp, 0, 0x100, 1), (.mem, 0, 0x100, 1), (.mem, 0, 0x104, 1)] with ms := { lp := at' 0 (leBytes 4 (2 ^ 31 + 2 ^ 21 + 2 ^ 16 + 1)) } }, .secure, 0, by decide +kernel⟩

theorem test_meets_HistoryHostCommands2 : ∃ (s : State) (w : World) (v : W32),
  s.d.takesWrite s.lk w .kvp 0 ∧
  s.d.flag .kvp 0 0x100 0 = false ∧
  bit v.toNat 0 = true :=
  ⟨st, .secure, 1, by decide +kernel⟩

theorem test_meets_CommitDecides1_refused : ∃ (s : State) (core : Nat) (hdr : List Byte) (pois : Bool) (cs : List KvpCmd),
  s.d.kvp.queue = .commit core hdr pois :: cs ∧
  s.d.memWaits = false ∧
  (∀ c, c < 8 → s.d.streams.toList.getD c [] = []) ∧
  let d0 := { s.d with kvp := { s.d.kvp with queue := cs } }
  let h := hdrHist hdr
  let l := hdrLayer hdr
  let r := (d0.histRec s.lk h).1
  let d1 := (d0.histRec s.lk h).2
  let e := if r.window = 0 then 0 else hdrExpect hdr % r.window / r.perPage
  let ent := (d1.kvpWord s.lk (d1.listAddr h l + 4 * e)).1
  let d2 := (d1.kvpWord s.lk (d1.listAddr h l + 4 * e)).2
  let side := if bit ent 31 && sideUsed r hdr then (d2.kvpRead s.lk (d2.sidecarAddr (ent % 2 ^ 24)) 64).1 else []
  let why := commitReason r hdr side (pois || stagedPoison (s.d.kvp.staging.toList.getD core {}) r.posBytes)
  why = some 1 :=
  ⟨st { regs [(.mem, 0, 0x100, 1), (.mem, 0, 0x104, 1), (.kvp, 0, 0x104, 0x20000), (.kvp, 0, 0x10C, 0x8000), (.kvp, 0, 0x114, 0x10000)] with kvp := { queue := [.commit 0 [] false] }, ms := {} }, 0, [], false, [], by decide +kernel⟩

theorem test_meets_CommitDecides1_accepted : ∃ (s : State) (core : Nat) (hdr : List Byte) (pois : Bool) (cs : List KvpCmd),
  s.d.kvp.queue = .commit core hdr pois :: cs ∧
  s.d.memWaits = false ∧
  (∀ c, c < 8 → s.d.streams.toList.getD c [] = []) ∧
  let d0 := { s.d with kvp := { s.d.kvp with queue := cs } }
  let h := hdrHist hdr
  let l := hdrLayer hdr
  let r := (d0.histRec s.lk h).1
  let d1 := (d0.histRec s.lk h).2
  let e := if r.window = 0 then 0 else hdrExpect hdr % r.window / r.perPage
  let ent := (d1.kvpWord s.lk (d1.listAddr h l + 4 * e)).1
  let d2 := (d1.kvpWord s.lk (d1.listAddr h l + 4 * e)).2
  let side := if bit ent 31 && sideUsed r hdr then (d2.kvpRead s.lk (d2.sidecarAddr (ent % 2 ^ 24)) 64).1 else []
  let why := commitReason r hdr side (pois || stagedPoison (s.d.kvp.staging.toList.getD core {}) r.posBytes)
  why = none ∧ bit ent 31 = true :=
  ⟨st { regs [(.mem, 0, 0x100, 1), (.mem, 0, 0x104, 1), (.kvp, 0, 0x104, 0x20000), (.kvp, 0, 0x10C, 0x8000), (.kvp, 0, 0x114, 0x10000)] with kvp := { queue := [.commit 0 [0, 0, 0, 0, 0, 0, 0, 0, 0x55] false] }, ms := { lp := (at' 0 (leBytes 4 (2 ^ 31 + 2 ^ 21 + 2 ^ 16 + 1))).write 0x10003 [0x80] } }, 0, [0, 0, 0, 0, 0, 0, 0, 0, 0x55], false, [], by decide +kernel⟩

theorem test_meets_BankSwaps1 : ∃ (s : State) (w : World) (v : W32),
  s.d.takesWrite s.lk w .rxc 0 ∧
  bit v.toNat 31 = true ∧
  s.d.rxc.sw.build = none :=
  ⟨st, .secure, 0x80000000, by decide +kernel⟩

theorem test_meets_BankSwaps1_busy : ∃ (s : State) (w : World) (v : W32),
  s.d.takesWrite s.lk w .rxc 0 ∧
  bit v.toNat 31 = true ∧
  s.d.rxc.sw.build ≠ none :=
  ⟨st { ({} : Dev) with rxc := { sw := { build := some (0, 0) } } }, .secure, 0x8000001F, by decide +kernel⟩

theorem test_meets_BankSwaps2 : ∃ (s : State) (tx : Bool) (c g : Nat),
  (s.d.sw tx).build = some (c, g) ∧
  c < 32 ∧
  let r := s.d.buildResult tx c
  r = 0 :=
  ⟨st { ({} : Dev) with txc := { sw := { build := some (31, 7) } }, tbl := at' 0x5F80 ([0, 8, 0x10, 0, 0, 0, 0, 0, 1] ++ List.replicate 19 0 ++ [0x18]) }, true, 31, 7, by decide +kernel⟩

theorem test_meets_BankSwaps2_rx : ∃ (s : State) (tx : Bool) (c g : Nat),
  (s.d.sw tx).build = some (c, g) ∧
  c < 32 ∧
  let r := s.d.buildResult tx c
  r ≠ 0 :=
  ⟨st { ({} : Dev) with rxc := { sw := { build := some (31, 7) } } }, false, 31, 7, by decide +kernel⟩

theorem test_meets_BankSwaps2_bad : ∃ (s : State) (tx : Bool) (c g : Nat),
  (s.d.sw tx).build = some (c, g) ∧
  c < 32 ∧
  let r := s.d.buildResult tx c
  r ≠ 0 :=
  ⟨st { ({} : Dev) with txc := { sw := { build := some (31, 7) } }, tbl := at' 0x5F83 [0x80] }, true, 31, 7, by decide +kernel⟩

theorem test_meets_BankSwaps3_rx : ∃ (s : State) (tx : Bool) (c : Fin 32) (now g : Nat),
  s.d.slotNow (s.d.swapMu tx c) = some now ∧
  (s.d.sw tx).ready.find? (·.1 == c.val) = some (c.val, g) ∧
  g ≤ now :=
  ⟨st { regs [(.tim, 0, 0x110, 1)] with tim := { sub := 1 }, rxc := { sw := { ready := [(31, 0)] } } }, false, 31, 0, 0, by decide +kernel⟩

theorem test_meets_BankSwaps3_tx : ∃ (s : State) (tx : Bool) (c : Fin 32) (now g : Nat),
  s.d.slotNow (s.d.swapMu tx c) = some now ∧
  (s.d.sw tx).ready.find? (·.1 == c.val) = some (c.val, g) ∧
  g ≤ now :=
  ⟨st { regs [(.tim, 0, 0x110, 1)] with tim := { sub := 1 }, txc := { sw := { ready := [(31, 0)] } } }, true, 31, 0, 0, by decide +kernel⟩

theorem test_meets_DecoderQueue1_ldpc : ∃ (s : State) (c sl g r : Nat) (rest : List (Nat × Nat × Nat × Nat)) (gr : GrantSt),
  s.d.rxc.complete = (c, sl, g, r) :: rest ∧
  (s.d.rxSlot c sl).grants.find? (·.num == g) = some gr ∧
  (if gCode gr.bytes = 2 then s.d.fec.qT else s.d.fec.qL).length < 4096 ∧
  gCode gr.bytes ≠ 2 :=
  ⟨st { ({} : Dev) with rxc := { complete := [(0, 0, 63, 0)], slots := [{ cell := 0, seq := 0, grants := [{ num := 63, bytes := [] }] }] } }, 0, 0, 63, 0, [], { num := 63, bytes := [] }, by decide +kernel⟩

theorem test_meets_DecoderQueue1_turbo : ∃ (s : State) (c sl g r : Nat) (rest : List (Nat × Nat × Nat × Nat)) (gr : GrantSt),
  s.d.rxc.complete = (c, sl, g, r) :: rest ∧
  (s.d.rxSlot c sl).grants.find? (·.num == g) = some gr ∧
  (if gCode gr.bytes = 2 then s.d.fec.qT else s.d.fec.qL).length < 4096 ∧
  gCode gr.bytes = 2 :=
  ⟨st { ({} : Dev) with rxc := { complete := [(0, 0, 63, 0)], slots := [{ cell := 0, seq := 0, grants := [{ num := 63, bytes := [0, 0, 0, 0, 0, 0, 0, 0, 0, 0, 0, 0, 0, 0, 0, 0, 0, 0, 0, 0x80] }] }] } }, 0, 0, 63, 0, [], { num := 63, bytes := [0, 0, 0, 0, 0, 0, 0, 0, 0, 0, 0, 0, 0, 0, 0, 0, 0, 0, 0, 0x80] }, by decide +kernel⟩

theorem test_meets_DecoderQueue2 : ∃ (s : State) (turbo : Bool) (b : Blk) (rest : List Blk) (n : Nat),
  let es := if turbo then rangeFrom 8 4 else List.range 8
  (if turbo then s.d.fec.qT else s.d.fec.qL) = b :: rest ∧
  s.d.fecOn = true ∧
  n ∈ es ∧
  (s.d.engine n).length < 3 ∧
  (∀ m ∈ es, (s.d.engine n).length ≤ (s.d.engine m).length ∧ (m < n → (s.d.engine n).length < (s.d.engine m).length)) :=
  ⟨st { regs [(.fec, 0, 0x100, 1)] with fec := { qL := [{ cell := 0, slot := 0, grant := 0, cb := 0, entry := [] }] } }, false, { cell := 0, slot := 0, grant := 0, cb := 0, entry := [] }, [], 0, by decide +kernel⟩

theorem test_meets_DecoderQueue2_turbo : ∃ (s : State) (turbo : Bool) (b : Blk) (rest : List Blk) (n : Nat),
  let es := if turbo then rangeFrom 8 4 else List.range 8
  (if turbo then s.d.fec.qT else s.d.fec.qL) = b :: rest ∧
  s.d.fecOn = true ∧
  n ∈ es ∧
  (s.d.engine n).length < 3 ∧
  (∀ m ∈ es, (s.d.engine n).length ≤ (s.d.engine m).length ∧ (m < n → (s.d.engine n).length < (s.d.engine m).length)) :=
  ⟨st { regs [(.fec, 0, 0x100, 1)] with fec := { qT := [{ cell := 0, slot := 0, grant := 0, cb := 0, entry := [] }], eng := (Vector.replicate 12 [{ cell := 0, slot := 0, grant := 0, cb := 0, entry := [] }]).set 11 [] } }, true, { cell := 0, slot := 0, grant := 0, cb := 0, entry := [] }, [], 11, by decide +kernel⟩

theorem test_meets_DecoderQueue3 : ∃ (s : State) (n : Fin 12) (b : Blk),
  b ∈ s.d.engine n ∧
  b.span = none ∧
  s.d.fecOn = true ∧
  s.d.memWaits = false ∧
  (∀ m y, y ∈ s.d.engine m → y.span = none → (b.asg ≤ y.asg ∧ (y.asg = b.asg → m = n.val))) :=
  ⟨st { regs [(.fec, 0, 0x100, 1)] with fec := { eng := (Vector.replicate 12 []).set 11 [{ cell := 0, slot := 0, grant := 0, cb := 0, entry := [] }] } }, 11, { cell := 0, slot := 0, grant := 0, cb := 0, entry := [] }, by decide +kernel, by decide +kernel, by decide +kernel, by decide +kernel, by
    intro m y hy _
    have h : ∀ k : Fin 12, k ≠ 11 → (((Vector.replicate 12 ([] : List Blk)).set 11 [({ cell := 0, slot := 0, grant := 0, cb := 0, entry := [] } : Blk)]).toList.getD k.val []) = [] := by decide +kernel
    by_cases hm : m < 12
    · by_cases h11 : m = 11
      · subst h11
        have h1 : y ∈ [({ cell := 0, slot := 0, grant := 0, cb := 0, entry := [] } : Blk)] := hy
        rw [List.mem_singleton.mp h1]
        exact ⟨Nat.le_refl _, fun _ => rfl⟩
      · have h2 := h ⟨m, hm⟩ (by intro hc; exact h11 (congrArg Fin.val hc))
        have h1 : y ∈ (((Vector.replicate 12 ([] : List Blk)).set 11 [({ cell := 0, slot := 0, grant := 0, cb := 0, entry := [] } : Blk)]).toList.getD m []) := hy
        rw [h2] at h1
        cases h1
    · have h1 : y ∈ (((Vector.replicate 12 ([] : List Blk)).set 11 [({ cell := 0, slot := 0, grant := 0, cb := 0, entry := [] } : Blk)]).toList.getD m []) := hy
      rw [List.getD_eq_getElem?_getD, List.getElem?_eq_none (by simpa using hm)] at h1
      cases h1⟩

theorem test_meets_DecoderQueue4 : ∃ (s : State) (n : Fin 12) (b : Blk) (rest : List Blk),
  s.d.engine n = b :: rest ∧
  s.d.fecOn = true ∧
  b.span.isSome = true ∧
  b.running = false :=
  ⟨st { regs [(.fec, 0, 0x100, 1)] with fec := { eng := Vector.replicate 12 [{ cell := 0, slot := 0, grant := 0, cb := 0, entry := [], span := some ([], []) }] } }, 11, { cell := 0, slot := 0, grant := 0, cb := 0, entry := [], span := some ([], []) }, [], by decide +kernel⟩

theorem test_meets_DecoderQueue5 : ∃ (s : State) (n : Fin 12) (b : Blk) (rest : List Blk),
  s.d.engine n = b :: rest ∧
  b.stop = true :=
  ⟨st { ({} : Dev) with fec := { eng := Vector.replicate 12 [{ cell := 0, slot := 0, grant := 0, cb := 0, entry := [], stop := true }] } }, 11, { cell := 0, slot := 0, grant := 0, cb := 0, entry := [], stop := true }, [], by decide +kernel⟩

theorem test_meets_DecoderResults1 : ∃ (s : State) (n : Fin 12) (ue : Bool) (b : Blk) (rest : List Blk),
  s.d.engine n = b :: rest ∧
  b.running = true ∧
  b.stop = false :=
  ⟨st { ({} : Dev) with fec := { eng := Vector.replicate 12 [{ cell := 0, slot := 0, grant := 0, cb := 0, entry := [], running := true, span := some (List.replicate 64 0, []) }] } }, 11, false, { cell := 0, slot := 0, grant := 0, cb := 0, entry := [], running := true, span := some (List.replicate 64 0, []) }, [], by decide +kernel⟩

theorem test_meets_DecoderResults2_stale : ∃ (s : State) (c : Fin 8),
  let st := flatStream (s.d.streams.toList.getD (8 + c.val) [])
  let h := (st.take 64).map (·.1)
  let n := ceilDiv (leAt h 8 3) 64 * 64
  let cell := bits (leAt h 0 1) 4 0
  s.d.flag .rxc 0 0x100 0 = true ∧
  64 + n ≤ st.length ∧
  s.d.cellHeld cell = false ∧
  s.d.memWaits = false ∧
  (∀ x ∈ s.d.rxc.slots, x.cell = cell → x.list ≠ 1) :=
  ⟨st { regs [(.rxc, 0, 0x100, 1)] with streams := Vector.replicate 32 [(0, List.replicate 64 0, [])], rxc := { slots := [] } }, 7, by decide +kernel⟩

theorem test_meets_DecoderResults2 : ∃ (s : State) (c : Fin 8),
  let st := flatStream (s.d.streams.toList.getD (8 + c.val) [])
  let h := (st.take 64).map (·.1)
  let n := ceilDiv (leAt h 8 3) 64 * 64
  let cell := bits (leAt h 0 1) 4 0
  s.d.flag .rxc 0 0x100 0 = true ∧
  64 + n ≤ st.length ∧
  s.d.cellHeld cell = false ∧
  s.d.memWaits = false ∧
  ¬ (∀ x ∈ s.d.rxc.slots, x.cell = cell → x.list ≠ 1) :=
  ⟨st { regs [(.rxc, 0, 0x100, 1)] with streams := Vector.replicate 32 [(0, List.replicate 64 0, [])], rxc := { slots := [{ cell := 0, seq := 0, list := 1 }] } }, 7, by decide +kernel⟩

theorem test_meets_DecoderResults3 : ∃ (s : State) (c : Fin 32) (v : W32) (x : RxSlot),
  let n := s.d.absSlot (ceMu (s.d.activeCell false c)) v.toNat
  (s.d.rxc.slots.find? fun x => x.cell == c.val && x.seq == n) = some x ∧
  x.deadline = false ∧
  s.d.gridOn = true ∧
  reached s.d.ns (s.d.deadlineOf (s.d.cellFor false c n) n) = true :=
  ⟨st { regs [(.tim, 0, 0x110, 1)] with rxc := { slots := [{ cell := 31, seq := 0, grants := [{ num := 0, bytes := [] }] }] }, tim := { sub := 1, ns := 2000000 } }, 31, 0, { cell := 31, seq := 0, grants := [{ num := 0, bytes := [] }] }, by decide +kernel⟩

theorem test_meets_DecoderResults4 : ∃ (s : State) (c : Fin 8) (hd : Bool) (w : Nat × List Byte × List Bool) (rest : List (Nat × List Byte × List Bool)),
  s.d.streams.toList.getD (16 + c.val) [] = w :: rest ∧
  s.d.fecOn = true :=
  ⟨st { regs [(.fec, 0, 0x100, 1)] with streams := Vector.replicate 32 [(0, List.replicate 64 0, [])] }, 7, false, (0, List.replicate 64 0, []), [], by decide +kernel⟩

theorem test_meets_DecoderResults5 : ∃ (s : State) (n : Fin 2) (r : PolarReq),
  s.d.fec.polRun[n.val] = some r ∧
  s.d.fec.polQ = [] :=
  ⟨st { ({} : Dev) with fec := { polRun := Vector.replicate 2 (some { hdr := List.replicate 64 0 }) } }, 1, { hdr := List.replicate 64 0 }, by decide +kernel⟩

theorem test_meets_TransmitIntake1 : ∃ (s : State) (list : List Byte) (blocks : List (List Byte)) (it : InEntry) (rest : List InEntry),
  s.d.pci.intake = it :: rest ∧
  (∀ x, rest.head? = some x → x.bad = false) ∧
  s.d.memWaits = false :=
  ⟨st { ({} : Dev) with pci := { intake := [{ ring := 1, idx := 0, stamp := 0, bytes := [] }] } }, [], [], { ring := 1, idx := 0, stamp := 0, bytes := [] }, [], ⟨by decide +kernel, nofun, by decide +kernel⟩⟩

theorem test_meets_TransmitIntake2_ldpc : ∃ (s : State) (turbo : Bool) (n : Nat) (b : EncBlk),
  (s.d.fec.enc.find? fun x => (x.2.code == 2) == turbo) = some (n, b) ∧
  s.d.fecOn = true :=
  ⟨st { regs [(.fec, 0, 0x100, 1)] with fec := { enc := [(1, { cell := 0, slot := 0, grant := 0, cb := 0, code := 1, sys := [] })] } }, false, 1, { cell := 0, slot := 0, grant := 0, cb := 0, code := 1, sys := [] }, by decide +kernel⟩

theorem test_meets_TransmitIntake2_turbo : ∃ (s : State) (turbo : Bool) (n : Nat) (b : EncBlk),
  (s.d.fec.enc.find? fun x => (x.2.code == 2) == turbo) = some (n, b) ∧
  s.d.fecOn = true :=
  ⟨st { regs [(.fec, 0, 0x100, 1)] with fec := { enc := [(1, { cell := 0, slot := 0, grant := 0, cb := 0, code := 2, sys := [] })] } }, true, 1, { cell := 0, slot := 0, grant := 0, cb := 0, code := 2, sys := [] }, by decide +kernel⟩

theorem test_meets_TransmitWindows1 : ∃ (s : State) (c : Fin 32) (v : W32) (k : Fin 14),
  let n := s.d.absSlot (ceMu (s.d.activeCell true c)) v.toNat
  let e := s.d.cellFor true c n
  s.d.gridOn = true ∧
  s.d.flag .txc 0 0x100 0 = true ∧
  ceEnable e = true ∧
  reached s.d.ns (s.d.txWindow e n k).1 = true ∧
  (c.val, n, k.val) ∉ s.d.txc.opened ∧
  s.d.txClosed c n k = false :=
  ⟨st { regs [(.tim, 0, 0x110, 1), (.txc, 0, 0x100, 1)] with tbl := tables [] [], tim := { ns := 2000000 } }, 0, 0, 13, by decide +kernel⟩

theorem test_meets_TransmitWindows2 : ∃ (s : State) (c : Fin 32) (v : W32) (k : Fin 14),
  let n := s.d.absSlot (ceMu (s.d.activeCell true c)) v.toNat
  let e := s.d.cellFor true c n
  s.d.gridOn = true ∧
  s.d.flag .txc 0 0x100 0 = true ∧
  ceEnable e = true ∧
  reached s.d.ns (s.d.txWindow e n k).2 = true ∧
  s.d.txClosed c n k = false :=
  ⟨st { regs [(.tim, 0, 0x110, 1), (.txc, 0, 0x100, 1)] with tbl := tables [] [], tim := { ns := 2000000 }, txc := { opened := [(0, 0, 13)], frames := [{ port := 0, prec := 1, cell := 0, slot := 0, sym := 13, row := 0, ready := 0, bytes := [] }] } }, 0, 0, 13, by decide +kernel⟩

theorem test_meets_CplaneMessages1_down : ∃ (s : State) (c : Fin 32) (up : Bool) (v : W32),
  let n := s.d.absSlot (ceMu (s.d.activeCell (!up) c)) v.toNat
  let e := s.d.cellFor (!up) c n
  let te := if up then s.d.activeCell true c else e
  s.d.gridOn = true ∧
  s.d.flag .txc 0 0x100 0 = true ∧
  ceEnable e = true ∧
  (up = false → txEgress e = false) ∧
  reached s.d.ns ((s.d.symStart (ceMu e) n 0 + 2 ^ 32 - (if up then leAt te 20 4 else leAt e 4 4)) % 2 ^ 32) = true ∧
  (∀ x ∈ s.d.txc.cplane, x.1 = c.val → x.2.1 = up → x.2.2 < n) :=
  ⟨st { regs [(.tim, 0, 0x110, 1), (.txc, 0, 0x100, 1)] with tbl := tables [] [], tim := { ns := 2000000 } }, 0, false, 0, by decide +kernel⟩

theorem test_meets_CplaneMessages1_up : ∃ (s : State) (c : Fin 32) (up : Bool) (v : W32),
  let n := s.d.absSlot (ceMu (s.d.activeCell (!up) c)) v.toNat
  let e := s.d.cellFor (!up) c n
  let te := if up then s.d.activeCell true c else e
  s.d.gridOn = true ∧
  s.d.flag .txc 0 0x100 0 = true ∧
  ceEnable e = true ∧
  (up = false → txEgress e = false) ∧
  reached s.d.ns ((s.d.symStart (ceMu e) n 0 + 2 ^ 32 - (if up then leAt te 20 4 else leAt e 4 4)) % 2 ^ 32) = true ∧
  (∀ x ∈ s.d.txc.cplane, x.1 = c.val → x.2.1 = up → x.2.2 < n) :=
  ⟨st { regs [(.tim, 0, 0x110, 1), (.txc, 0, 0x100, 1)] with tbl := tables [] [], tim := { ns := 2000000 } }, 0, true, 0, by decide +kernel⟩

theorem test_meets_OverlayAndMask1 : ∃ (s : State) (c : Fin 32) (n : Nat),
  s.d.txc.markers.find? (·.1 == c.val) = some (c.val, n) :=
  ⟨st { ({} : Dev) with txc := { markers := [(31, 5)] } }, 31, 5, by decide +kernel⟩

theorem test_meets_OverlayAndMask2 : ∃ (s : State) (c : Fin 32) (v : W32) (k : Fin 14) (a : Nat) (y : TxSym),
  let n := s.d.absSlot (ceMu (s.d.activeCell true c)) v.toNat
  let e := s.d.cellFor true c n
  let start := ((s.d.txc.started.find? (·.1 == c.val)).map (·.2)).getD 0
  let recent := s.d.txc.monTicks.filter fun i => !s.d.elapsed i 35677
  (s.d.txc.syms.find? fun y => y.cell == c.val && y.slot == n && y.sym == k.val && y.row == a) = some y ∧
  txEgress e = true ∧
  txDecim e ≠ 0 ∧
  (14 * (n - start) + k.val) % txDecim e = 0 ∧
  recent.length < 8 :=
  ⟨st { ({} : Dev) with tbl := at' 0x4001 ([0x04] ++ List.replicate 68 0 ++ [1]), txc := { syms := [{ cell := 0, slot := 0, sym := 13, row := 0, grid := [], tick := 0 }] } }, 0, 0, 13, 0, { cell := 0, slot := 0, sym := 13, row := 0, grid := [], tick := 0 }, by decide +kernel⟩

theorem test_meets_OverlayAndMask2_paced : ∃ (s : State) (c : Fin 32) (v : W32) (k : Fin 14) (a : Nat) (y : TxSym),
  let n := s.d.absSlot (ceMu (s.d.activeCell true c)) v.toNat
  let e := s.d.cellFor true c n
  let start := ((s.d.txc.started.find? (·.1 == c.val)).map (·.2)).getD 0
  let recent := s.d.txc.monTicks.filter fun i => !s.d.elapsed i 35677
  (s.d.txc.syms.find? fun y => y.cell == c.val && y.slot == n && y.sym == k.val && y.row == a) = some y ∧
  txEgress e = true ∧
  txDecim e ≠ 0 ∧
  (14 * (n - start) + k.val) % txDecim e = 0 ∧
  8 ≤ recent.length :=
  ⟨st { ({} : Dev) with tbl := at' 0x4001 ([0x04] ++ List.replicate 68 0 ++ [1]), txc := { syms := [{ cell := 0, slot := 0, sym := 13, row := 0, grid := [], tick := 0 }], monTicks := List.replicate 8 0 } }, 0, 0, 13, 0, { cell := 0, slot := 0, sym := 13, row := 0, grid := [], tick := 0 }, by decide +kernel⟩

theorem test_meets_SymbolPrecoded1 : ∃ (s : State) (c : Fin 32) (v : W32) (k : Fin 14) (a : Nat) (x : TxSlot),
  let n := s.d.absSlot (ceMu (s.d.activeCell true c)) v.toNat
  let e := s.d.cellFor true c n
  let r1 := s.d.busBytes s.lk .txc (txWbase e + 4 * (n % 2)) 4
  let r2 := s.d.busBytes s.lk .txc (txWbase e + 8 + 4 * (n % 2)) 4
  let have' (m : Nat) : Bool := s.d.txc.syms.any fun y => y.cell == c.val && y.slot == n && y.sym == m && y.row == a
  let shut (m : Nat) : Bool := s.d.txc.closed.contains (c.val, n, m) || reached s.d.ns (s.d.txWindow e n m).2
  (s.d.txc.slots.find? fun x => x.cell == c.val && x.slot == n && x.state != 0) = some x ∧
  s.d.flag .txc 0 0x100 0 = true ∧
  ceEnable e = true ∧
  ((s.d.streamsOf true c n).any fun p => seRow p.2 == a) = true ∧
  (x.state = 2 ∨ leNat r1.1 = n % 2 ^ 32) ∧
  (txOvl e = true → leNat r2.1 = n % 2 ^ 32) ∧
  (∀ g ∈ x.grants, g.coded.length = (gSeg g.bytes).c) ∧
  shut k = false ∧
  have' k = false ∧
  (0 < k.val → have' (k.val - 1) = true ∨ shut (k.val - 1) = true) ∧
  (txEgress e = true → k.val = 0 → (∀ y ∈ s.d.txc.slots, y.cell = c.val → y.slot + 1 = n → y.state = 0) ∨ (c.val, n - 1, 13) ∈ s.d.txc.closed ∨ ∃ y ∈ s.d.txc.syms, y.cell = c.val ∧ y.slot = n - 1 ∧ y.sym = 13 ∧ y.row = a) ∧
  s.d.precodeBefore s.lk x = false :=
  ⟨st { regs [(.tim, 0, 0x110, 1), (.tim, 0, 0x120, 1), (.txc, 0, 0x100, 1)] with tbl := (tables [] []).write 0x6001 [0x80], txc := { slots := [{ cell := 0, slot := 0, state := 2 }] } }, 0, 0, 0, 0, { cell := 0, slot := 0, state := 2 }, by decide +kernel⟩

theorem test_meets_SymbolPrecoded1_last : ∃ (s : State) (c : Fin 32) (v : W32) (k : Fin 14) (a : Nat) (x : TxSlot),
  let n := s.d.absSlot (ceMu (s.d.activeCell true c)) v.toNat
  let e := s.d.cellFor true c n
  let r1 := s.d.busBytes s.lk .txc (txWbase e + 4 * (n % 2)) 4
  let r2 := s.d.busBytes s.lk .txc (txWbase e + 8 + 4 * (n % 2)) 4
  let have' (m : Nat) : Bool := s.d.txc.syms.any fun y => y.cell == c.val && y.slot == n && y.sym == m && y.row == a
  let shut (m : Nat) : Bool := s.d.txc.closed.contains (c.val, n, m) || reached s.d.ns (s.d.txWindow e n m).2
  (s.d.txc.slots.find? fun x => x.cell == c.val && x.slot == n && x.state != 0) = some x ∧
  s.d.flag .txc 0 0x100 0 = true ∧
  ceEnable e = true ∧
  ((s.d.streamsOf true c n).any fun p => seRow p.2 == a) = true ∧
  (x.state = 2 ∨ leNat r1.1 = n % 2 ^ 32) ∧
  (txOvl e = true → leNat r2.1 = n % 2 ^ 32) ∧
  (∀ g ∈ x.grants, g.coded.length = (gSeg g.bytes).c) ∧
  shut k = false ∧
  have' k = false ∧
  (0 < k.val → have' (k.val - 1) = true ∨ shut (k.val - 1) = true) ∧
  (txEgress e = true → k.val = 0 → (∀ y ∈ s.d.txc.slots, y.cell = c.val → y.slot + 1 = n → y.state = 0) ∨ (c.val, n - 1, 13) ∈ s.d.txc.closed ∨ ∃ y ∈ s.d.txc.syms, y.cell = c.val ∧ y.slot = n - 1 ∧ y.sym = 13 ∧ y.row = a) ∧
  s.d.precodeBefore s.lk x = false :=
  ⟨st { regs [(.tim, 0, 0x110, 1), (.tim, 0, 0x120, 1), (.txc, 0, 0x100, 1)] with tbl := (tables [] []).write 0x6001 [0x80], txc := { slots := [{ cell := 0, slot := 0, state := 2 }], closed := [(0, 0, 12)] } }, 0, 0, 13, 0, { cell := 0, slot := 0, state := 2 }, by decide +kernel⟩

theorem test_meets_SupervisorCommands1 : ∃ (s : State) (w : World) (p : Fin 4) (a : Fin 512) (h : Fin 16384),
  s.d.takesWrite s.lk w .rsv 0 ∧
  let bad := p.val = 3 ∧ (a.val = 0 ∨ 255 < a.val)
  s.d.flag .rsv 0 0x11C 31 = false ∧ ¬ bad :=
  ⟨st, .secure, 3, 255, 16383, by decide +kernel⟩

theorem test_meets_SupervisorCommands1_bad : ∃ (s : State) (w : World) (p : Fin 4) (a : Fin 512) (h : Fin 16384),
  s.d.takesWrite s.lk w .rsv 0 ∧
  let bad := p.val = 3 ∧ (a.val = 0 ∨ 255 < a.val)
  s.d.flag .rsv 0 0x11C 31 = false ∧ bad :=
  ⟨st, .secure, 3, 256, 0, by decide +kernel⟩

theorem test_meets_SupervisorCommands1_zero : ∃ (s : State) (w : World) (p : Fin 4) (a : Fin 512) (h : Fin 16384),
  s.d.takesWrite s.lk w .rsv 0 ∧
  let bad := p.val = 3 ∧ (a.val = 0 ∨ 255 < a.val)
  s.d.flag .rsv 0 0x11C 31 = false ∧ bad :=
  ⟨st, .secure, 3, 0, 0, by decide +kernel⟩

theorem test_meets_SupervisorCommands1_busy : ∃ (s : State) (w : World) (p : Fin 4) (a : Fin 512) (h : Fin 16384),
  s.d.takesWrite s.lk w .rsv 0 ∧
  s.d.flag .rsv 0 0x11C 31 = true :=
  ⟨st (regs [(.rsv, 0, 0x11C, 2 ^ 31)]), .secure, 0, 0, 0, by decide +kernel⟩

theorem test_meets_SupervisorCommands2 : ∃ (s : State) (w : World) (h : Fin 16384),
  s.d.takesWrite s.lk w .rsv 0 ∧
  s.d.flag .rsv 0 0x11C 31 = false :=
  ⟨st, .secure, 16383, by decide +kernel⟩

theorem test_meets_SupervisorCommands3_bad : ∃ (s : State) (c : Fin 8) (o : Nat) (bs : List Byte) (po : List Bool) (rest : List (Nat × List Byte × List Bool)),
  s.d.streams.toList.getD (24 + c.val) [] = (o, bs, po) :: rest ∧
  let bad := o ≠ 0 ∨ bs.length ≠ 16
  bad :=
  ⟨st { ({} : Dev) with streams := Vector.replicate 32 [(0, [], [])] }, 7, 0, [], [], [], by decide +kernel⟩

theorem test_meets_SupervisorCommands3_final : ∃ (s : State) (c : Fin 8) (o : Nat) (bs : List Byte) (po : List Bool) (rest : List (Nat × List Byte × List Bool)),
  s.d.streams.toList.getD (24 + c.val) [] = (o, bs, po) :: rest ∧
  let cell := bits (leAt bs 0 1) 4 0
  let bad := o ≠ 0 ∨ bs.length ≠ 16
  let pl : Plan := { cell := 0, slot := 0, entries := [{ grant := 0, hist := 0, final := false, path := 0, reason := 0 }] }; let e : DecEntry := { grant := 0, hist := 0, final := false, path := 0, reason := 0 }; ¬ bad ∧ leAt bs 3 1 = 0 ∧ leAt bs 10 6 = 0 ∧ bits (leAt bs 0 1) 7 5 = 0 ∧ bits (leAt bs 1 1) 7 6 = 0 ∧ bits (leAt bs 2 1) 7 1 = 0 ∧ s.d.rsvSplit cell ≠ 2 ∧ (((s.d.rsv.plans.filter (·.cell == cell)).reverse.take 2).find? fun p => p.slot % 2 ^ 32 == leAt bs 4 4) = some pl ∧ (pl.entries.find? (·.grant == bits (leAt bs 1 1) 5 0)) = some e ∧ e.final = false :=
  ⟨st { ({} : Dev) with streams := Vector.replicate 32 [(0, List.replicate 16 0, [])], rsv := { plans := [{ cell := 0, slot := 0, entries := [{ grant := 0, hist := 0, final := false, path := 0, reason := 0 }] }] } }, 7, 0, List.replicate 16 0, [], [], by decide +kernel⟩

theorem test_meets_JobsStart1 : ∃ (s : State) (n : Nat) (j : Job) (cs : List Nat),
  s.d.job? n = some j ∧
  s.d.placeCores s.lk j = some cs ∧
  (∀ c ∈ cs, c < 8) :=
  ⟨st { ({} : Dev) with sch := { jobs := [{ num := 0, desc := [0, 0, 0, 0, 3, 1], src := 3, phase := .queued }] } } { coreEn := 0xFF }, 0, { num := 0, desc := [0, 0, 0, 0, 3, 1], src := 3, phase := .queued }, [0], by decide +kernel⟩

theorem test_meets_JobsStart2_bad : ∃ (s : State) (n : Nat) (j : Job),
  s.d.job? n = some j ∧
  j.phase = .placed ∧
  j.loaded = false ∧
  j.ends = [] ∧
  s.d.lpWaits (jobImage j.desc) = false ∧
  let c0 := j.cores.headD 0
  let r := s.d.busRead s.lk (.core c0) (s.d.partOf c0) (jobImage j.desc) 320
  let bad := r.2.1.any id || decide (0 < r.2.2.1) || decide (leAt r.1 0 4 ≠ 0x00010000) ||
    ((slice r.1 8 56).any (· != 0)) || (bitList 8 (jobLmask j.desc)).any fun k => imageEntryBad (slice r.1 (64 + 32 * k) 32)
  bad = true :=
  ⟨st { ({} : Dev) with sch := { jobs := [{ num := 0, desc := [0, 0, 0, 0, 3, 0], src := 3, phase := .placed, cores := [0] }] } }, 0, { num := 0, desc := [0, 0, 0, 0, 3, 0], src := 3, phase := .placed, cores := [0] }, by decide +kernel⟩

theorem test_meets_JobsStart2 : ∃ (s : State) (n : Nat) (j : Job),
  s.d.job? n = some j ∧
  j.phase = .placed ∧
  j.loaded = false ∧
  j.ends = [] ∧
  s.d.lpWaits (jobImage j.desc) = false ∧
  let c0 := j.cores.headD 0
  let r := s.d.busRead s.lk (.core c0) (s.d.partOf c0) (jobImage j.desc) 320
  let bad := r.2.1.any id || decide (0 < r.2.2.1) || decide (leAt r.1 0 4 ≠ 0x00010000) ||
    ((slice r.1 8 56).any (· != 0)) || (bitList 8 (jobLmask j.desc)).any fun k => imageEntryBad (slice r.1 (64 + 32 * k) 32)
  bad = false :=
  ⟨st { (regs [(.mem, 0, 0x100, 1), (.mem, 0, 0x104, 1)]).setCore 0 { state := 1, job := some 0 } with sch := { jobs := [{ num := 0, desc := [0, 0, 0, 0, 3, 0], src := 3, phase := .placed, cores := [0] }] }, ms := { lp := at' 2 [1] } }, 0, { num := 0, desc := [0, 0, 0, 0, 3, 0], src := 3, phase := .placed, cores := [0] }, by decide +kernel⟩

theorem test_meets_JobsYield1_switch : ∃ (s : State) (c : Fin 8) (n : Nat) (j : Job),
  let x := s.d.core c
  x.job = some n ∧
  s.d.job? n = some j ∧
  ((x.run.barrier.isSome = true ∧ x.state = 3) ∨ x.state = 5 ∨ (x.run.ended = true ∧ x.switchTo.isSome = true)) ∧
  x.leaving = false ∧
  s.d.deferred j = false ∧
  j.ends = [] ∧
  s.d.memWaits = false :=
  ⟨st { ({} : Dev).setCore 0 { job := some 0, switchTo := some 1, lcs := Vector.replicate 8 { ended := true } } with sch := { jobs := [{ num := 0, desc := [0, 0, 0, 0, 2], src := 3, phase := .placed, cores := [0], asks := [(0, false)] }] } }, 0, 0, { num := 0, desc := [0, 0, 0, 0, 2], src := 3, phase := .placed, cores := [0], asks := [(0, false)] }, by decide +kernel⟩

theorem test_meets_JobsYield1_barrier : ∃ (s : State) (c : Fin 8) (n : Nat) (j : Job),
  let x := s.d.core c
  x.job = some n ∧
  s.d.job? n = some j ∧
  ((x.run.barrier.isSome = true ∧ x.state = 3) ∨ x.state = 5 ∨ (x.run.ended = true ∧ x.switchTo.isSome = true)) ∧
  x.leaving = false ∧
  s.d.deferred j = false ∧
  j.ends = [] ∧
  s.d.memWaits = false :=
  ⟨st { ({} : Dev).setCore 0 { job := some 0, state := 3, lcs := Vector.replicate 8 { barrier := some 0 } } with sch := { jobs := [{ num := 0, desc := [0, 0, 0, 0, 2], src := 3, phase := .placed, cores := [0], asks := [(0, false)] }] } }, 0, 0, { num := 0, desc := [0, 0, 0, 0, 2], src := 3, phase := .placed, cores := [0], asks := [(0, false)] }, by decide +kernel⟩

theorem test_meets_JobsYield1_idle : ∃ (s : State) (c : Fin 8) (n : Nat) (j : Job),
  let x := s.d.core c
  x.job = some n ∧
  s.d.job? n = some j ∧
  ((x.run.barrier.isSome = true ∧ x.state = 3) ∨ x.state = 5 ∨ (x.run.ended = true ∧ x.switchTo.isSome = true)) ∧
  x.leaving = false ∧
  s.d.deferred j = false ∧
  j.ends = [] ∧
  s.d.memWaits = false :=
  ⟨st { ({} : Dev).setCore 0 { job := some 0, state := 5 } with sch := { jobs := [{ num := 0, desc := [0, 0, 0, 0, 2], src := 3, phase := .placed, cores := [0], asks := [(0, false)] }] } }, 0, 0, { num := 0, desc := [0, 0, 0, 0, 2], src := 3, phase := .placed, cores := [0], asks := [(0, false)] }, by decide +kernel⟩

theorem test_meets_JobsYield2 : ∃ (s : State) (c : Fin 8) (n : Nat) (j : Job),
  let x := s.d.core c
  x.job = some n ∧
  s.d.job? n = some j ∧
  x.leaving = true :=
  ⟨st { ({} : Dev).setCore 0 { job := some 0, leaving := true } with sch := { jobs := [{ num := 0, desc := [0, 0, 0, 0, 2], src := 3, phase := .placed, cores := [0], asks := [(0, false)] }] } }, 0, 0, { num := 0, desc := [0, 0, 0, 0, 2], src := 3, phase := .placed, cores := [0], asks := [(0, false)] }, by decide +kernel⟩

theorem test_meets_JobsYield3 : ∃ (s : State) (n : Nat) (j : Job),
  s.d.job? n = some j ∧
  j.phase = .placed ∧
  jobClass j.desc = 2 ∧
  j.sliceAsk = false ∧
  s.d.elapsed j.since (50000 - j.debit) = true ∧
  (s.d.fifoHead 2).isNone = true :=
  ⟨st { ({} : Dev) with sch := { jobs := [{ num := 0, desc := [0, 0, 0, 0, 2], src := 3, phase := .placed }] }, tim := { tick := 39063 } }, 0, { num := 0, desc := [0, 0, 0, 0, 2], src := 3, phase := .placed }, by decide +kernel⟩

theorem test_meets_JobsYield3_waits : ∃ (s : State) (n : Nat) (j : Job),
  s.d.job? n = some j ∧
  j.phase = .placed ∧
  jobClass j.desc = 2 ∧
  j.sliceAsk = false ∧
  s.d.elapsed j.since (50000 - j.debit) = true ∧
  (s.d.fifoHead 2).isSome = true :=
  ⟨st { ({} : Dev) with sch := { jobs := [{ num := 0, desc := [0, 0, 0, 0, 2], src := 3, phase := .placed }, { num := 1, desc := [0, 0, 0, 0, 2], src := 3, phase := .queued }] }, tim := { tick := 39063 } }, 0, { num := 0, desc := [0, 0, 0, 0, 2], src := 3, phase := .placed }, by decide +kernel⟩

theorem test_meets_JobsEnd1 : ∃ (s : State) (n : Nat) (j : Job),
  s.d.job? n = some j ∧
  jobClass j.desc = 0 ∧
  reached s.d.ns (jobDeadline j.desc) = true ∧
  j.ends = [] ∧
  s.d.sch.notices = [] ∧
  j.phase = .placed :=
  ⟨st { ({} : Dev) with sch := { jobs := [{ num := 0, desc := [], src := 3, phase := .placed }] } }, 0, { num := 0, desc := [], src := 3, phase := .placed }, by decide +kernel⟩

theorem test_meets_JobsEnd1_waiting : ∃ (s : State) (n : Nat) (j : Job),
  s.d.job? n = some j ∧
  jobClass j.desc = 0 ∧
  reached s.d.ns (jobDeadline j.desc) = true ∧
  j.ends = [] ∧
  s.d.sch.notices = [] ∧
  j.phase ≠ .placed :=
  ⟨st { ({} : Dev) with sch := { jobs := [{ num := 0, desc := [], src := 3, phase := .reserved }] } }, 0, { num := 0, desc := [], src := 3, phase := .reserved }, by decide +kernel⟩

theorem test_meets_JobsEnd2 : ∃ (s : State) (c : Fin 8) (n since : Nat),
  let lim := s.d.reg .sch 0 0x104
  (s.d.core c).job = some n ∧
  (s.d.core c).stallSince = some since ∧
  (s.d.core c).state = 3 ∧
  lim ≠ 0 ∧
  100 * lim < 128 * (s.d.tim.tick - since) :=
  ⟨st { (regs [(.sch, 0, 0x104, 127)]).setCore 7 { state := 3, job := some 0, stallSince := some 0 } with sch := { jobs := [{ num := 0, desc := [], src := 3, phase := .placed }] }, tim := { tick := 100 } }, 7, 0, 0, by decide +kernel⟩

theorem test_meets_JobsEnd3_completed : ∃ (s : State) (n : Nat) (j : Job),
  s.d.job? n = some j ∧
  j.ends ≠ [] ∧
  let done := j.ends.contains .completed
  done = true :=
  ⟨st { ({} : Dev).setCore 0 { job := some 0 } with sch := { jobs := [{ num := 0, desc := [0, 0, 0, 0, 3, 1], src := 3, phase := .placed, cores := [0], ends := [.completed] }] } }, 0, { num := 0, desc := [0, 0, 0, 0, 3, 1], src := 3, phase := .placed, cores := [0], ends := [.completed] }, by decide +kernel⟩

theorem test_meets_JobsEnd3_aborted : ∃ (s : State) (n : Nat) (j : Job),
  s.d.job? n = some j ∧
  j.ends ≠ [] ∧
  let done := j.ends.contains .completed
  let fault := j.ends.any fun e => match e with | .faulted _ => true | _ => false
  done = false ∧ fault = false :=
  ⟨st { ({} : Dev).setCore 0 { job := some 0 } with sch := { jobs := [{ num := 0, desc := [0, 0, 0, 0, 3, 1], src := 3, phase := .placed, cores := [0], ends := [.aborted 1] }] } }, 0, { num := 0, desc := [0, 0, 0, 0, 3, 1], src := 3, phase := .placed, cores := [0], ends := [.aborted 1] }, by decide +kernel⟩

theorem test_meets_JobsEnd3_faulted : ∃ (s : State) (n : Nat) (j : Job),
  s.d.job? n = some j ∧
  j.ends ≠ [] ∧
  let done := j.ends.contains .completed
  let fault := j.ends.any fun e => match e with | .faulted _ => true | _ => false
  done = false ∧ fault = true :=
  ⟨st { ({} : Dev).setCore 0 { job := some 0 } with sch := { jobs := [{ num := 0, desc := [0, 0, 0, 0, 3, 1], src := 3, phase := .placed, cores := [0], ends := [.aborted 1, .faulted 3] }] } }, 0, { num := 0, desc := [0, 0, 0, 0, 3, 1], src := 3, phase := .placed, cores := [0], ends := [.aborted 1, .faulted 3] }, by decide +kernel⟩

theorem test_meets_MemoryTiming1 : ∃ (s : State),
  let f := s.d.refreshFrame
  let k := if f.1 = s.d.ms.refFrame then s.d.ms.refDone else 0
  s.d.flag .mem 0 0x100 0 = true ∧
  k < s.d.refreshes ∧
  5 * s.d.refreshAt k ≤ 6 * f.2 :=
  ⟨st (regs [(.mem, 0, 0x100, 1)]), by decide +kernel⟩

theorem test_meets_MemoryTiming2 : ∃ (s : State) (k : Fin 4) (v : BitVec 8),
  s.d.pwr.held = false ∧
  85 < toS 8 v.toNat :=
  ⟨st (regs [(.mem, 0, 0x100, 1)]), 3, 86, by decide +kernel⟩

theorem test_meets_MemoryTiming2_cool : ∃ (s : State) (k : Fin 4) (v : BitVec 8),
  s.d.pwr.held = false ∧
  ¬ 85 < toS 8 v.toNat :=
  ⟨st (regs [(.mem, 0, 0x100, 1)]), 0, 85, by decide +kernel⟩

theorem test_meets_MemoryTiming3 : ∃ (s : State) (c : Fin 16) (errs : List (Fin 6 × Nat × Bool)),
  s.d.flag .mem 0 0x100 0 = true ∧
  s.d.flag .mem 0 0x104 0 = true ∧
  nextBurst c (s.d.owner s.lk c) [] s.d.ms.bursts = none :=
  ⟨st (regs [(.mem, 0, 0x100, 1), (.mem, 0, 0x104, 1)]), 15, [], by decide +kernel⟩

theorem test_meets_MemoryTiming3_burst : ∃ (s : State) (c : Fin 16) (errs : List (Fin 6 × Nat × Bool)),
  s.d.flag .mem 0 0x100 0 = true ∧
  s.d.flag .mem 0 0x104 0 = true ∧
  nextBurst c (s.d.owner s.lk c) [] s.d.ms.bursts = some ({ chan := 15, cls := 0, beat := 60, wr := false }, []) :=
  ⟨st { regs [(.mem, 0, 0x100, 1), (.mem, 0, 0x104, 1)] with ms := { bursts := [{ chan := 15, cls := 0, beat := 60, wr := false }] } }, 15, [(5, 7, true)], by decide +kernel⟩

theorem test_meets_MemoryRegisters1 : ∃ (s : State) (v : W32),
  s.d.takesWrite s.lk .secure .mem 0 ∧
  s.d.flag .mem 0 0x100 0 = false ∧
  bit v.toNat 0 = true ∧
  s.lk.isLocked = true :=
  ⟨st {} { share := 0x8004050B }, 7, by decide +kernel⟩

theorem test_meets_MemoryRegisters1_unlocked : ∃ (s : State) (v : W32),
  s.d.takesWrite s.lk .secure .mem 0 ∧
  s.d.flag .mem 0 0x100 0 = false ∧
  bit v.toNat 0 = true ∧
  s.lk.isLocked = false :=
  ⟨st, 1, by decide +kernel⟩

theorem test_meets_MemoryRegisters2 : ∃ (s : State),
  s.d.flag .mem 0 0x100 0 = true ∧
  s.d.stage = 1 :=
  ⟨st (regs [(.mem, 0, 0x100, 1), (.sec, 0, 0x100, 1)]), by decide +kernel⟩

theorem test_meets_MemoryRegisters3 : ∃ (s : State) (v : W32),
  s.d.takesWrite s.lk .secure .cmn 0 ∧
  s.d.flag .cmn 0 0x100 0 = false ∧
  bit v.toNat 0 = true :=
  ⟨st, 1, by decide +kernel⟩

theorem test_meets_MemoryRegisters4 : ∃ (s : State) (cmn : Bool) (r : Fin 32) (k : Fin 3) (v : W32),
  let p : Page := if cmn then .cmn else .mem
  s.d.takesWrite s.lk .secure p 0 ∧
  (cmn = true → r.val < 8) ∧
  s.d.flag p 0 0x100 0 = false ∧
  (k = 2 ∧ cmn = false) ∨ (k ≠ 2 ∧ cmn = true) :=
  ⟨st, false, 31, 2, 0xFFFFFFFF, by decide +kernel⟩

theorem test_meets_MemoryRegisters4_cmn : ∃ (s : State) (cmn : Bool) (r : Fin 32) (k : Fin 3) (v : W32),
  let p : Page := if cmn then .cmn else .mem
  s.d.takesWrite s.lk .secure p 0 ∧
  (cmn = true → r.val < 8) ∧
  s.d.flag p 0 0x100 0 = false ∧
  (k = 2 ∧ cmn = false) ∨ (k ≠ 2 ∧ cmn = true) :=
  ⟨st, true, 7, 0, 0xFFFFFFFF, by decide +kernel⟩

theorem test_meets_MemShareWrite1_locked : ∃ (s : State) (v : W32),
  s.d.takesWrite s.lk .secure .mem 0 ∧
  s.lk.isLocked = true :=
  ⟨st {} { share := 0x8004050B }, 0, by decide +kernel⟩

theorem test_meets_MemShareWrite1_bad : ∃ (s : State) (v : W32),
  s.d.takesWrite s.lk .secure .mem 0 ∧
  let sh := shareOf v.toNat
  let ok := 1 ≤ sh.1 ∧ 1 ≤ sh.2.1 ∧ 1 ≤ sh.2.2 ∧ sh.1 + sh.2.1 + sh.2.2 = 20
  s.lk.isLocked = false ∧ bit v.toNat 31 = true ∧ ¬ ok :=
  ⟨st, 0x80010114, by decide +kernel⟩

theorem test_meets_MemShareWrite1_lock : ∃ (s : State) (v : W32),
  s.d.takesWrite s.lk .secure .mem 0 ∧
  let sh := shareOf v.toNat
  let ok := 1 ≤ sh.1 ∧ 1 ≤ sh.2.1 ∧ 1 ≤ sh.2.2 ∧ sh.1 + sh.2.1 + sh.2.2 = 20
  s.lk.isLocked = false ∧ bit v.toNat 31 = true ∧ ok :=
  ⟨st, 0x80010112, by decide +kernel⟩

theorem test_meets_MemShareWrite1_open : ∃ (s : State) (v : W32),
  s.d.takesWrite s.lk .secure .mem 0 ∧
  let sh := shareOf v.toNat
  let ok := 1 ≤ sh.1 ∧ 1 ≤ sh.2.1 ∧ 1 ≤ sh.2.2 ∧ sh.1 + sh.2.1 + sh.2.2 = 20
  s.lk.isLocked = false ∧ bit v.toNat 31 = false ∧ ¬ ok :=
  ⟨st, 0x00000000, by decide +kernel⟩

theorem test_meets_CrossingAccess1 : ∃ (s : State) (p : Page) (n o : Nat) (v : Nat),
  s.d.takesWrite s.lk .nonsecure p n ∧
  p.isRws n o = true ∧
  pageAtIndex ((p.base n + o) / 4096) = some (p, n) ∧
  (p.base n + o) % 4096 = o :=
  ⟨st (run [(.mem, 0, 0x008, 0)]), .mem, 0, 0x180, 1, by decide +kernel⟩

theorem test_meets_CrossingAccess1_held : ∃ (s : State) (p : Page) (n o : Nat) (v : Nat),
  s.d.takesWrite s.lk .nonsecure p n ∧
  p.isRws n o = true ∧
  pageAtIndex ((p.base n + o) / 4096) = some (p, n) ∧
  (p.base n + o) % 4096 = o :=
  ⟨st (run [(.mch, 15, 0x008, 0), (.sec, 0, 0x154, 2 ^ 31)]), .mch, 15, 0x008, 1, by decide +kernel⟩

theorem test_meets_CrossingAccess2 : ∃ (s : State) (q : Fin 17) (wr : Bool) (a : Nat),
  s.d.worldOf (reqOfCode q) = .nonsecure ∧
  s.d.secureAddr (s.d.target s.lk (reqOfCode q) a) = true ∧
  a < 2 ^ 40 ∧
  s.d.flag .sec 0 0x154 31 = false :=
  ⟨st (regs [(.mem, 0, 0x100, 1), (.mem, 0, 0x404, 0xFFFFFFF), (.mem, 0, 0x408, 0x80000001), (.wtn, 0, 0x008, 0), (.core, 7, 0x008, 0)]), 16, true, 0, by decide +kernel⟩

theorem test_meets_CrossingAccess2_read : ∃ (s : State) (q : Fin 17) (wr : Bool) (a : Nat),
  s.d.worldOf (reqOfCode q) = .nonsecure ∧
  s.d.secureAddr (s.d.target s.lk (reqOfCode q) a) = true ∧
  a < 2 ^ 40 ∧
  q.val = 0 ∧ wr = false :=
  ⟨st (regs [(.mem, 0, 0x100, 1), (.mem, 0, 0x404, 0xFFFFFFF), (.mem, 0, 0x408, 0x80000001), (.wtn, 0, 0x008, 0), (.core, 7, 0x008, 0)]), 0, false, 0xFFFFFFFFF, by decide +kernel⟩

theorem test_meets_CrossingAccess2_held : ∃ (s : State) (q : Fin 17) (wr : Bool) (a : Nat),
  s.d.worldOf (reqOfCode q) = .nonsecure ∧
  s.d.secureAddr (s.d.target s.lk (reqOfCode q) a) = true ∧
  a < 2 ^ 40 ∧
  s.d.flag .sec 0 0x154 31 = true :=
  ⟨st (regs [(.mem, 0, 0x100, 1), (.mem, 0, 0x404, 0xFFFFFFF), (.mem, 0, 0x408, 0x80000001), (.wtn, 0, 0x008, 0), (.core, 7, 0x008, 0), (.sec, 0, 0x154, 2 ^ 31)]), 8, false, 64, by decide +kernel⟩

theorem test_meets_MemoryTiming4_true : ∃ (s : State) (c : Fin 16) (w cls : Nat) (bad : Bool),
  s.d.ms.lp.hit (64 * (w / 8)) 64 = false ∧
  bad = true :=
  ⟨st, 15, 7, 0, true, by decide +kernel⟩

theorem test_meets_MemoryTiming4_false : ∃ (s : State) (c : Fin 16) (w cls : Nat) (bad : Bool),
  s.d.ms.lp.hit (64 * (w / 8)) 64 = false ∧
  bad = false :=
  ⟨st, 15, 7, 0, false, by decide +kernel⟩

theorem test_meets_EthLinks1_on : ∃ (s : State) (w : World) (n : Fin 8) (v : W32),
  s.d.takesWrite s.lk w .eth n ∧
  s.d.ethPresent n = true ∧
  s.d.flag .eth 0 0x180 31 = true ∧ bit v.toNat 0 = true :=
  ⟨st (regs [(.eth, 0, 0x180, 2 ^ 31)]), .secure, 7, 7, by decide +kernel⟩

theorem test_meets_EthLinks1_unlocked : ∃ (s : State) (w : World) (n : Fin 8) (v : W32),
  s.d.takesWrite s.lk w .eth n ∧
  s.d.ethPresent n = true ∧
  s.d.flag .eth 0 0x180 31 = false ∧ bit v.toNat 0 = true :=
  ⟨st (regs []), .secure, 0, 1, by decide +kernel⟩

theorem test_meets_EthLinks1_off : ∃ (s : State) (w : World) (n : Fin 8) (v : W32),
  s.d.takesWrite s.lk w .eth n ∧
  s.d.ethPresent n = true ∧
  bit v.toNat 0 = false :=
  ⟨st (regs [(.eth, 0, 0x180, 0x80000001), (.eth, 3, 0x100, 1), (.eth, 3, 0x104, 7)]), .secure, 3, 6, by decide +kernel⟩

theorem test_meets_EthLinks2 : ∃ (s : State) (n : Fin 8),
  s.d.ethPresent n = true ∧
  s.d.flag .eth n 0x100 0 = true :=
  ⟨st (regs [(.eth, 1, 0x100, 1), (.eth, 0, 0x180, 2)]), 1, by decide +kernel⟩

theorem test_meets_EthLinks3 : ∃ (s : State) (n : Fin 8),
  s.d.flag .eth n 0x104 0 = true :=
  ⟨st (regs [(.eth, 7, 0x104, 7)]), 7, by decide +kernel⟩

theorem test_meets_EthLinks3_synce : ∃ (s : State) (n : Fin 8),
  s.d.flag .eth n 0x104 0 = true ∧
  s.d.syncRuns = true ∧ s.d.fld .eth 0 0x184 2 0 = n.val :=
  ⟨st (regs [(.eth, 0, 0x104, 7), (.eth, 0, 0x184, 0x10)]), 0, by decide +kernel⟩

theorem test_meets_EthFrames1_bad : ∃ (s : State) (n : Fin 8) (age : Nat) (bs : List Byte),
  s.d.linkOn n = true ∧
  let fr := bs.take (bs.length - 4)
  let sound := 64 ≤ bs.length ∧ bs.length ≤ 9216 ∧ leAt bs (bs.length - 4) 4 = crc32 fr
  ¬ sound :=
  ⟨st (regs [(.eth, 0, 0x100, 1), (.eth, 0, 0x104, 7)]), 0, 0, List.replicate 64 0, by decide +kernel⟩

theorem test_meets_EthFrames1_other : ∃ (s : State) (n : Fin 8) (age : Nat) (bs : List Byte),
  s.d.linkOn n = true ∧
  let fr := bs.take (bs.length - 4)
  let f := ethParse fr
  let sound := 64 ≤ bs.length ∧ bs.length ≤ 9216 ∧ leAt bs (bs.length - 4) 4 = crc32 fr
  let mine := s.d.ethMine n f.dst = true ∧ ¬ (f.tci.isSome = true ∧ f.typ = 0x8100)
  sound ∧ ¬ mine :=
  ⟨st (regs [(.eth, 0, 0x100, 1), (.eth, 0, 0x104, 7)]), 0, 0, (let b : List Byte := List.replicate 6 2 ++ List.replicate 6 1 ++ [0x88, 0xB5] ++ List.replicate 46 0; b ++ leBytes 4 (crc32 b)), by decide +kernel⟩

theorem test_meets_EthFrames1_mine : ∃ (s : State) (n : Fin 8) (age : Nat) (bs : List Byte),
  s.d.linkOn n = true ∧
  let fr := bs.take (bs.length - 4)
  let f := ethParse fr
  let sound := 64 ≤ bs.length ∧ bs.length ≤ 9216 ∧ leAt bs (bs.length - 4) 4 = crc32 fr
  let mine := s.d.ethMine n f.dst = true ∧ ¬ (f.tci.isSome = true ∧ f.typ = 0x8100)
  sound ∧ mine :=
  ⟨st (regs [(.eth, 0, 0x100, 1), (.eth, 0, 0x104, 7)]), 0, 0, (let b : List Byte := List.replicate 6 0xFF ++ List.replicate 6 1 ++ [0x88, 0xB5] ++ List.replicate 46 0; b ++ leBytes 4 (crc32 b)), by decide +kernel⟩

theorem test_meets_EthFrames1_ecpri : ∃ (s : State) (n : Fin 8) (age : Nat) (bs : List Byte),
  s.d.linkOn n = true ∧
  let fr := bs.take (bs.length - 4)
  let f := ethParse fr
  let sound := 64 ≤ bs.length ∧ bs.length ≤ 9216 ∧ leAt bs (bs.length - 4) 4 = crc32 fr
  let mine := s.d.ethMine n f.dst = true ∧ ¬ (f.tci.isSome = true ∧ f.typ = 0x8100)
  s.d.flag .fhc 0 0x100 0 = true ∧ sound ∧ mine ∧ f.typ = 0xAEFE ∧ leAt f.body 1 1 ≠ 5 ∧ ((s.d.ecpriCheck f.body (bs.length == 64)).map fun m => decide (m.length ≤ s.d.ingressRoom n)) = some true :=
  ⟨st (regs [(.eth, 0, 0x100, 1), (.eth, 0, 0x104, 7), (.fhc, 0, 0x100, 1)]), 0, 0, (let b : List Byte := List.replicate 6 0xFF ++ List.replicate 6 1 ++ [0xAE, 0xFE] ++ ([0x10, 2, 0, 4, 0, 0, 0, 0x80] ++ List.replicate 38 0); b ++ leBytes 4 (crc32 b)), by decide +kernel⟩

theorem test_meets_EthFrames2 : ∃ (s : State) (n : Fin 8) (i : Nat) (f : TxFrame),
  s.d.linkOn n = true ∧
  s.d.nextFrame n = some i ∧
  s.d.txc.frames[i]? = some f :=
  ⟨st { regs [(.tim, 0, 0x110, 1), (.eth, 0, 0x100, 1), (.eth, 0, 0x104, 7)] with txc := { frames := [{ port := 0, prec := 1, cell := 0, slot := 0, sym := 0, row := 0, ready := 0, bytes := [] }] } }, 0, 0, { port := 0, prec := 1, cell := 0, slot := 0, sym := 0, row := 0, ready := 0, bytes := [] }, by decide +kernel⟩

theorem test_meets_EthFrames3_short : ∃ (s : State) (n : Fin 8),
  let rd := s.d.reg .eth n 0x164
  let a := s.d.spBase n + 0x80000 + rd % 256 * 2048
  let h := s.d.busBytes s.lk (.eth n) a 32
  let len := leAt h.1 0 2
  s.d.linkOn n = true ∧
  s.d.flag .eth n 0x100 1 = true ∧
  rd ≠ s.d.reg .eth n 0x160 ∧
  s.d.arbiter n = none ∧
  s.d.lpWaits (s.d.spBase n) = false ∧
  ¬ (60 ≤ len ∧ len ≤ 2016) :=
  ⟨st (regs [(.eth, 0, 0x100, 3), (.eth, 0, 0x104, 7), (.eth, 0, 0x160, 1)]), 0, by decide +kernel⟩

theorem test_meets_EthFrames3_min : ∃ (s : State) (n : Fin 8),
  let rd := s.d.reg .eth n 0x164
  let a := s.d.spBase n + 0x80000 + rd % 256 * 2048
  let h := s.d.busBytes s.lk (.eth n) a 32
  let len := leAt h.1 0 2
  s.d.linkOn n = true ∧
  s.d.flag .eth n 0x100 1 = true ∧
  rd ≠ s.d.reg .eth n 0x160 ∧
  s.d.arbiter n = none ∧
  s.d.lpWaits (s.d.spBase n) = false ∧
  60 ≤ len ∧ len ≤ 2016 :=
  ⟨st { regs [(.mem, 0, 0x100, 1), (.mem, 0, 0x104, 1), (.eth, 0, 0x100, 3), (.eth, 0, 0x104, 7), (.eth, 0, 0x160, 1)] with ms := { lp := at' 0x80000 [60, 0] } }, 0, by decide +kernel⟩

theorem test_meets_EthFrames3_max : ∃ (s : State) (n : Fin 8),
  let rd := s.d.reg .eth n 0x164
  let a := s.d.spBase n + 0x80000 + rd % 256 * 2048
  let h := s.d.busBytes s.lk (.eth n) a 32
  let len := leAt h.1 0 2
  s.d.linkOn n = true ∧
  s.d.flag .eth n 0x100 1 = true ∧
  rd ≠ s.d.reg .eth n 0x160 ∧
  s.d.arbiter n = none ∧
  s.d.lpWaits (s.d.spBase n) = false ∧
  60 ≤ len ∧ len ≤ 2016 :=
  ⟨st { regs [(.mem, 0, 0x100, 1), (.mem, 0, 0x104, 1), (.eth, 0, 0x100, 3), (.eth, 0, 0x104, 7), (.eth, 0, 0x160, 1)] with ms := { lp := at' 0x80000 [0xE0, 7] } }, 0, by decide +kernel⟩

theorem test_meets_CounterWrites1 : ∃ (s : State) (w : World) (v : W32),
  s.d.takesWrite s.lk w .tim 0 ∧
  bit v.toNat 3 = true ∧
  bit v.toNat 0 = s.d.gridOn ∧
  s.d.gridOn = false :=
  ⟨st, .secure, 8, by decide +kernel⟩

theorem test_meets_CounterWrites1_on : ∃ (s : State) (w : World) (v : W32),
  s.d.takesWrite s.lk w .tim 0 ∧
  bit v.toNat 3 = true ∧
  bit v.toNat 0 = s.d.gridOn ∧
  s.d.gridOn = true :=
  ⟨st (regs [(.tim, 0, 0x110, 1)]), .secure, 9, by decide +kernel⟩

theorem test_meets_CounterWrites2_low : ∃ (s : State) (w : World) (v : W32),
  let x := (s.d.reg .tim 0 0x120 + 2 ^ 32 - s.d.ns) % 2 ^ 32
  s.d.takesWrite s.lk w .tim 0 ∧
  bit v.toNat 3 = false ∧
  s.d.gridOn = false ∧ bit v.toNat 0 = true ∧ 1000000 ≤ x ∧ x ≤ 1000000000 :=
  ⟨st (regs [(.tim, 0, 0x120, 1000000)]), .secure, 1, by decide +kernel⟩

theorem test_meets_CounterWrites2_high : ∃ (s : State) (w : World) (v : W32),
  let x := (s.d.reg .tim 0 0x120 + 2 ^ 32 - s.d.ns) % 2 ^ 32
  s.d.takesWrite s.lk w .tim 0 ∧
  bit v.toNat 3 = false ∧
  s.d.gridOn = false ∧ bit v.toNat 0 = true ∧ 1000000 ≤ x ∧ x ≤ 1000000000 :=
  ⟨st (regs [(.tim, 0, 0x120, 1000000000)]), .secure, 1, by decide +kernel⟩

theorem test_meets_CounterWrites2_early : ∃ (s : State) (w : World) (v : W32),
  let x := (s.d.reg .tim 0 0x120 + 2 ^ 32 - s.d.ns) % 2 ^ 32
  s.d.takesWrite s.lk w .tim 0 ∧
  bit v.toNat 3 = false ∧
  s.d.gridOn = false ∧ bit v.toNat 0 = true ∧ ¬ (1000000 ≤ x ∧ x ≤ 1000000000) :=
  ⟨st (regs [(.tim, 0, 0x120, 999999)]), .secure, 1, by decide +kernel⟩

theorem test_meets_CounterWrites2_off : ∃ (s : State) (w : World) (v : W32),
  s.d.takesWrite s.lk w .tim 0 ∧
  bit v.toNat 3 = false ∧
  s.d.gridOn = true ∧ bit v.toNat 0 = false ∧ s.d.anyCell = false :=
  ⟨st (regs [(.tim, 0, 0x110, 1)]), .secure, 0, by decide +kernel⟩

theorem test_meets_CounterWrites2_cells : ∃ (s : State) (w : World) (v : W32),
  s.d.takesWrite s.lk w .tim 0 ∧
  bit v.toNat 3 = false ∧
  s.d.gridOn = true ∧ bit v.toNat 0 = false ∧ s.d.anyCell = true :=
  ⟨st { regs [(.tim, 0, 0x110, 1)] with tbl := tables [] [] }, .secure, 0, by decide +kernel⟩

theorem test_meets_CounterWrites3_servo : ∃ (s : State) (w : World) (v : W32),
  let e : Int := toS 32 v.toNat * 65536 + (s.d.reg .tim 0 0x13C % 65536 : Nat)
  let thr := s.d.reg .tim 0 0x12C * 65536
  s.d.takesWrite s.lk w .tim 0 ∧
  e.natAbs < thr :=
  ⟨st (regs [(.tim, 0, 0x110, 2), (.tim, 0, 0x12C, 1), (.tim, 0, 0x13C, 0)]), .secure, 0, by decide +kernel⟩

theorem test_meets_CounterWrites3_held : ∃ (s : State) (w : World) (v : W32),
  let e : Int := toS 32 v.toNat * 65536 + (s.d.reg .tim 0 0x13C % 65536 : Nat)
  let thr := s.d.reg .tim 0 0x12C * 65536
  s.d.takesWrite s.lk w .tim 0 ∧
  thr ≤ e.natAbs ∧ s.d.gridOn = true :=
  ⟨st (regs [(.tim, 0, 0x110, 1), (.tim, 0, 0x12C, 1)]), .secure, 1, by decide +kernel⟩

theorem test_meets_CounterWrites3_step : ∃ (s : State) (w : World) (v : W32),
  let e : Int := toS 32 v.toNat * 65536 + (s.d.reg .tim 0 0x13C % 65536 : Nat)
  let thr := s.d.reg .tim 0 0x12C * 65536
  s.d.takesWrite s.lk w .tim 0 ∧
  thr ≤ e.natAbs ∧ s.d.gridOn = false :=
  ⟨st (regs [(.tim, 0, 0x12C, 1)]), .secure, 0xFFFFFFFF, by decide +kernel⟩

theorem test_meets_CounterWrites4 : ∃ (s : State) (w : World),
  s.d.openTo w .tim = true ∧
  (w = .nonsecure → s.d.secure .tim 0 = false) :=
  ⟨st, .secure, by decide +kernel⟩

theorem test_meets_CounterWrites4_ns : ∃ (s : State) (w : World),
  s.d.openTo w .tim = true ∧
  (w = .nonsecure → s.d.secure .tim 0 = false) :=
  ⟨st (run [(.tim, 0, 0x008, 0)]), .nonsecure, by decide +kernel⟩

theorem test_meets_GridAndPulses1 : ∃ (s : State),
  s.d.gridOn = true ∧
  reached s.d.ns ((s.d.reg .tim 0 0x120 + 1000000 * s.d.tim.sub) % 2 ^ 32) = true :=
  ⟨st (regs [(.tim, 0, 0x110, 1)]), by decide +kernel⟩

theorem test_meets_GridAndPulses2 : ∃ (s : State),
  let p := s.d.reg .tim 0 0x124
  s.d.flag .tim 0 0x110 2 = true ∧
  s.d.tim.ppsHigh = none ∧
  reached s.d.ns p = true :=
  ⟨st (regs [(.tim, 0, 0x110, 4)]), by decide +kernel⟩

theorem test_meets_GridAndPulses3 : ∃ (s : State) (p : Nat),
  s.d.tim.ppsHigh = some p ∧
  reached s.d.ns ((p + s.d.reg .tim 0 0x128) % 2 ^ 32) = true :=
  ⟨st { regs [(.tim, 0, 0x128, 0)] with tim := { ppsHigh := some 0 } }, 0, by decide +kernel⟩

theorem test_meets_GridAndPulses4 : ∃ (s : State),
  s.d.pwr.held = false ∧
  s.d.flag .tim 0 0x15C 0 = false :=
  ⟨st, by decide +kernel⟩

theorem test_meets_GridAndPulses4_full : ∃ (s : State),
  s.d.pwr.held = false ∧
  s.d.flag .tim 0 0x15C 0 = true :=
  ⟨st (regs [(.tim, 0, 0x15C, 1)]), by decide +kernel⟩

theorem test_meets_GridAndPulses5 : ∃ (s : State) (w : World) (v : W32),
  let same := s.d.reg .eth 0 0x184 &&& 0x27 = v.toNat &&& 0x27
  s.d.takesWrite s.lk w .eth 0 ∧
  s.d.ethPresent 0 = true ∧
  ¬ same :=
  ⟨st, .secure, 0x20, by decide +kernel⟩

theorem test_meets_GridAndPulses5_same : ∃ (s : State) (w : World) (v : W32),
  let same := s.d.reg .eth 0 0x184 &&& 0x27 = v.toNat &&& 0x27
  s.d.takesWrite s.lk w .eth 0 ∧
  s.d.ethPresent 0 = true ∧
  same :=
  ⟨st { ({} : Dev) with tim := { syncHeld := some 0, tick := 782 } }, .secure, 0x10, by decide +kernel⟩

theorem test_meets_AlignmentAndAdmission1 : ∃ (s : State) (w : World) (v : W32),
  let ready := s.d.gridOn = true ∧ ∀ p ∈ [Page.sch, .rxc, .txc, .fec, .kvp, .rsv, .wtn], s.d.flag p 0 0x100 0 = false
  s.d.takesWrite s.lk w .det 0 ∧
  bit v.toNat 0 = true ∧
  bit v.toNat 2 = false ∧
  ready :=
  ⟨st (regs [(.tim, 0, 0x110, 1)]), .secure, 1, by decide +kernel⟩

theorem test_meets_AlignmentAndAdmission1_not : ∃ (s : State) (w : World) (v : W32),
  let ready := s.d.gridOn = true ∧ ∀ p ∈ [Page.sch, .rxc, .txc, .fec, .kvp, .rsv, .wtn], s.d.flag p 0 0x100 0 = false
  s.d.takesWrite s.lk w .det 0 ∧
  bit v.toNat 0 = true ∧
  bit v.toNat 2 = false ∧
  ¬ ready :=
  ⟨st, .secure, 1, by decide +kernel⟩

theorem test_meets_AlignmentAndAdmission2 : ∃ (s : State) (k : Nat),
  s.d.det.asked = some k ∧
  s.d.det.strobe = none ∧
  s.d.gridOn = true ∧
  reached s.d.ns k = true :=
  ⟨st { regs [(.tim, 0, 0x110, 1)] with det := { asked := some 0 } }, 0, by decide +kernel⟩

theorem test_meets_AlignmentAndAdmission3 : ∃ (s : State) (k : Nat),
  s.d.det.strobe = some k ∧
  s.d.tim.tick % 125 = 0 ∧
  4 ≤ s.d.tim.tick / 125 - k / 125 :=
  ⟨st { ({} : Dev) with det := { strobe := some 124 }, tim := { tick := 500 } }, 124, by decide +kernel⟩

theorem test_meets_AlignmentAndAdmission5 : ∃ (s : State) (w : World) (v : W32),
  s.d.takesWrite s.lk w .det 0 ∧
  bit v.toNat 0 = false ∧
  bit v.toNat 2 = true :=
  ⟨st, .secure, 4, by decide +kernel⟩

theorem test_meets_AlignmentAndAdmission6 : ∃ (s : State),
  (s.d.pwr.held = true ∨ s.d.pointDue = false ∨ s.d.det.lastAdm.map (·.1) = some s.d.tim.tick) ∧
  s.d.pwr.held = false :=
  ⟨st, by decide +kernel⟩

theorem test_meets_AlignmentAndAdmission7 : ∃ (s : State),
  s.d.pwr.held = false ∧
  s.d.pointDue = true ∧
  s.d.det.lastAdm.map (·.1) ≠ some s.d.tim.tick :=
  ⟨st { ({} : Dev) with tim := { ns := 1000 } }, by decide +kernel⟩

theorem test_meets_AlignmentAndAdmission7_young : ∃ (s : State),
  s.d.pwr.held = false ∧
  s.d.pointDue = true ∧
  s.d.det.lastAdm.map (·.1) ≠ some s.d.tim.tick ∧
  s.d.det.sigClr = true ∧ s.d.flag .det 0 0x100 1 = false ∧ s.d.flag .fhc 0 0x100 0 = true ∧ s.d.pci.fetched ≠ [] ∧ s.d.rxc.ingress ≠ [] ∧ s.d.wtn.wait ≠ [] :=
  ⟨st { regs [(.fhc, 0, 0x100, 1)] with det := { sigClr := true }, tim := { tick := 7, ns := 1000 }, pci := { fetched := [{ ring := 2, idx := 0, stamp := 0, bytes := [] }] }, rxc := { ingress := [{ port := 0, tick := 0, ts := 0, bytes := [] }] }, wtn := { wait := [{ port := 0, tick := 0, ts := 0, smac := [], sip := [], tci := none, msg := [] }] } }, by decide +kernel⟩

theorem test_meets_WatenLinks1_busy : ∃ (s : State) (w : World) (i : Fin 64) (k : Fin 2) (v : W32),
  s.d.takesWrite s.lk w .wtn 0 ∧
  s.d.linkValid i = true ∧ k = 1 :=
  ⟨st (regs [(.wtn, 0, 0x7F0, 2 ^ 31)]), .secure, 63, 1, 0, by decide +kernel⟩

theorem test_meets_WatenLinks1_credits : ∃ (s : State) (w : World) (i : Fin 64) (k : Fin 2) (v : W32),
  s.d.takesWrite s.lk w .wtn 0 ∧
  s.d.linkValid i = false ∧ k = 1 :=
  ⟨st (regs []), .secure, 63, 1, 0, by decide +kernel⟩

theorem test_meets_WatenLinks1_make : ∃ (s : State) (w : World) (i : Fin 64) (k : Fin 2) (v : W32),
  s.d.takesWrite s.lk w .wtn 0 ∧
  s.d.linkValid i = false ∧ k = 0 ∧ bit v.toNat 31 = true :=
  ⟨st (regs []), .secure, 63, 0, 0x80000001, by decide +kernel⟩

theorem test_meets_WatenLinks1_clear : ∃ (s : State) (w : World) (i : Fin 64) (k : Fin 2) (v : W32),
  s.d.takesWrite s.lk w .wtn 0 ∧
  s.d.linkValid i = true ∧ k = 0 ∧ bit v.toNat 31 = false :=
  ⟨st (regs [(.wtn, 0, 0x7F0, 2 ^ 31)]), .secure, 63, 0, 0, by decide +kernel⟩

theorem test_meets_WatenLinks2 : ∃ (s : State) (i : Fin 64),
  s.d.wtnOn = true ∧
  s.d.linkValid i = true ∧
  s.d.usable i ≠ [] ∧
  (8 ≤ (s.d.link i).owedG ∨ (0 < (s.d.link i).owedM ∧ s.d.elapsed (s.d.link i).sinceM 2000 = true)) ∧
  (∀ m ∈ s.d.wtn.tx, m.link = i.val → m.cls ≠ 1) ∧
  8 ≤ (s.d.link i).owedG :=
  ⟨st { regs [(.wtn, 0, 0x100, 1), (.wtn, 0, 0x110, 1), (.wtn, 0, 0x7F0, 2 ^ 31), (.eth, 0, 0x100, 1), (.eth, 0, 0x104, 7)] with wtn := { links := Vector.replicate 64 { route := [1], owedG := 8 } } }, 63, by decide +kernel⟩

theorem test_meets_WatenLinks2_mirror : ∃ (s : State) (i : Fin 64),
  s.d.wtnOn = true ∧
  s.d.linkValid i = true ∧
  s.d.usable i ≠ [] ∧
  (8 ≤ (s.d.link i).owedG ∨ (0 < (s.d.link i).owedM ∧ s.d.elapsed (s.d.link i).sinceM 2000 = true)) ∧
  (∀ m ∈ s.d.wtn.tx, m.link = i.val → m.cls ≠ 1) ∧
  0 < (s.d.link i).owedM :=
  ⟨st { regs [(.wtn, 0, 0x100, 1), (.wtn, 0, 0x110, 1), (.wtn, 0, 0x7F0, 2 ^ 31), (.eth, 0, 0x100, 1), (.eth, 0, 0x104, 7)] with wtn := { links := Vector.replicate 64 { route := [1], owedM := 1 } }, tim := { tick := 1563 } }, 63, by decide +kernel⟩

theorem test_meets_WatenLinks3 : ∃ (s : State),
  s.d.wtnOn = true ∧
  s.d.elapsed s.d.wtn.beat 100000000 = true ∧
  bit (s.d.reg .wtn 0 0x110) 0 = true ∧ s.d.linkOn 0 = true :=
  ⟨st { regs [(.wtn, 0, 0x100, 1), (.wtn, 0, 0x110, 1), (.eth, 0, 0x100, 1), (.eth, 0, 0x104, 7)] with tim := { tick := 78125000 } }, by decide +kernel⟩

theorem test_meets_WatenLinks4 : ∃ (s : State),
  s.d.wtnOn = true ∧
  s.d.flag .wtn 0 0x100 1 = true ∧
  s.d.wtnState = 0 ∧
  s.d.wtn.cand < 16384 ∧
  s.d.elapsed s.d.wtn.since 300000000 = true :=
  ⟨st { regs [(.wtn, 0, 0x100, 3), (.wtn, 0, 0x104, 0)] with wtn := { cand := 16383 }, tim := { tick := 234375000 } }, by decide +kernel⟩

theorem test_meets_WatenLinks5_unsound : ∃ (s : State) (f : WtnFrame) (rest : List WtnFrame) (u : Udp),
  let e := ethParse f.bytes
  let m := u.body
  let cls := leAt m 0 1 % 16
  let sound := 32 ≤ m.length ∧ leAt m 0 1 / 16 = 1 ∧ leAt m 6 2 = s.d.reg .wtn 0 0x108 ∧ m.length = 32 + leAt m 14 2 ∧
    leAt m 14 2 ≤ 8192 ∧
    (cls ≠ 0 → s.d.wtnState ≠ 0 ∧ leAt m 4 2 = s.d.wtnAddr ∧ (s.d.linkTo (leAt m 2 2)).isSome = true)
  s.d.wtn.frames = f :: rest ∧
  udpParse e = some u ∧
  u.ok = true ∧
  s.d.wtnOn = true ∧
  ¬ sound :=
  ⟨st { regs [(.wtn, 0, 0x100, 1)] with wtn := { frames := [{ port := 0, tick := 0, ts := 0, bytes := (List.replicate 12 0 ++ [8, 0, 0x45, 0, 0, 0, 0, 0, 0, 0, 0, 17, 0xBA, 0xEE, 0, 0, 0, 0, 0, 0, 0, 0, 0, 0, 0, 0, 0, 40, 0, 0] ++ List.replicate 32 0) }] } }, { port := 0, tick := 0, ts := 0, bytes := (List.replicate 12 0 ++ [8, 0, 0x45, 0, 0, 0, 0, 0, 0, 0, 0, 17, 0xBA, 0xEE, 0, 0, 0, 0, 0, 0, 0, 0, 0, 0, 0, 0, 0, 40, 0, 0] ++ List.replicate 32 0) }, [], { sip := [0, 0, 0, 0], dport := 0, ok := true, body := List.replicate 32 0 }, by decide +kernel⟩

theorem test_meets_WatenLinks5_beacon : ∃ (s : State) (f : WtnFrame) (rest : List WtnFrame) (u : Udp),
  let e := ethParse f.bytes
  let m := u.body
  let cls := leAt m 0 1 % 16
  let sound := 32 ≤ m.length ∧ leAt m 0 1 / 16 = 1 ∧ leAt m 6 2 = s.d.reg .wtn 0 0x108 ∧ m.length = 32 + leAt m 14 2 ∧
    leAt m 14 2 ≤ 8192 ∧
    (cls ≠ 0 → s.d.wtnState ≠ 0 ∧ leAt m 4 2 = s.d.wtnAddr ∧ (s.d.linkTo (leAt m 2 2)).isSome = true)
  s.d.wtn.frames = f :: rest ∧
  udpParse e = some u ∧
  u.ok = true ∧
  s.d.wtnOn = true ∧
  sound ∧ cls = 0 ∧ (s.d.wtn.wait.filter (·.slot.isNone)).length < 16 :=
  ⟨st { regs [(.wtn, 0, 0x100, 1)] with wtn := { frames := [{ port := 0, tick := 0, ts := 0, bytes := (List.replicate 12 0 ++ [8, 0, 0x45, 0, 0, 0, 0, 0, 0, 0, 0, 17, 0xBA, 0xEE, 0, 0, 0, 0, 0, 0, 0, 0, 0, 0, 0, 0, 0, 40, 0, 0] ++ ([16, 0, 0, 0, 0, 0] ++ List.replicate 26 0)) }] } }, { port := 0, tick := 0, ts := 0, bytes := (List.replicate 12 0 ++ [8, 0, 0x45, 0, 0, 0, 0, 0, 0, 0, 0, 17, 0xBA, 0xEE, 0, 0, 0, 0, 0, 0, 0, 0, 0, 0, 0, 0, 0, 40, 0, 0] ++ ([16, 0, 0, 0, 0, 0] ++ List.replicate 26 0)) }, [], { sip := [0, 0, 0, 0], dport := 0, ok := true, body := ([16, 0, 0, 0, 0, 0] ++ List.replicate 26 0) }, by decide +kernel⟩

theorem test_meets_WatenLinks5_other : ∃ (s : State) (f : WtnFrame) (rest : List WtnFrame) (u : Udp),
  let e := ethParse f.bytes
  let m := u.body
  let cls := leAt m 0 1 % 16
  let sound := 32 ≤ m.length ∧ leAt m 0 1 / 16 = 1 ∧ leAt m 6 2 = s.d.reg .wtn 0 0x108 ∧ m.length = 32 + leAt m 14 2 ∧
    leAt m 14 2 ≤ 8192 ∧
    (cls ≠ 0 → s.d.wtnState ≠ 0 ∧ leAt m 4 2 = s.d.wtnAddr ∧ (s.d.linkTo (leAt m 2 2)).isSome = true)
  s.d.wtn.frames = f :: rest ∧
  udpParse e = some u ∧
  u.ok = true ∧
  s.d.wtnOn = true ∧
  sound ∧ 4 < cls :=
  ⟨st { regs [(.wtn, 0, 0x100, 1), (.wtn, 0, 0x104, 0x10000), (.wtn, 0, 0x400, 2 ^ 31)] with wtn := { frames := [{ port := 0, tick := 0, ts := 0, bytes := (List.replicate 12 0 ++ [8, 0, 0x45, 0, 0, 0, 0, 0, 0, 0, 0, 17, 0xBA, 0xEE, 0, 0, 0, 0, 0, 0, 0, 0, 0, 0, 0, 0, 0, 40, 0, 0] ++ ([21, 0, 0, 0, 0, 0] ++ List.replicate 26 0)) }] } }, { port := 0, tick := 0, ts := 0, bytes := (List.replicate 12 0 ++ [8, 0, 0x45, 0, 0, 0, 0, 0, 0, 0, 0, 17, 0xBA, 0xEE, 0, 0, 0, 0, 0, 0, 0, 0, 0, 0, 0, 0, 0, 40, 0, 0] ++ ([21, 0, 0, 0, 0, 0] ++ List.replicate 26 0)) }, [], { sip := [0, 0, 0, 0], dport := 0, ok := true, body := ([21, 0, 0, 0, 0, 0] ++ List.replicate 26 0) }, by decide +kernel⟩

theorem test_meets_WatenLinks5_gather : ∃ (s : State) (f : WtnFrame) (rest : List WtnFrame) (u : Udp),
  let e := ethParse f.bytes
  let m := u.body
  let cls := leAt m 0 1 % 16
  let sound := 32 ≤ m.length ∧ leAt m 0 1 / 16 = 1 ∧ leAt m 6 2 = s.d.reg .wtn 0 0x108 ∧ m.length = 32 + leAt m 14 2 ∧
    leAt m 14 2 ≤ 8192 ∧
    (cls ≠ 0 → s.d.wtnState ≠ 0 ∧ leAt m 4 2 = s.d.wtnAddr ∧ (s.d.linkTo (leAt m 2 2)).isSome = true)
  s.d.wtn.frames = f :: rest ∧
  udpParse e = some u ∧
  u.ok = true ∧
  s.d.wtnOn = true ∧
  sound ∧ cls = 2 ∧ let i := 0; s.d.linkTo (leAt m 2 2) = some i ∧ 1 < s.d.fld .wtn 0 (0x404 + 16 * i) 31 24 ∧ (s.d.link i).used.contains (false, 1) = false ∧ ∀ j, j < 1 → (s.d.link i).used.contains (false, j) = true :=
  ⟨st { regs [(.wtn, 0, 0x100, 1), (.wtn, 0, 0x104, 0x10000), (.wtn, 0, 0x400, 2 ^ 31), (.wtn, 0, 0x404, 0x2000000)] with wtn := { frames := [{ port := 0, tick := 0, ts := 0, bytes := (List.replicate 12 0 ++ [8, 0, 0x45, 0, 0, 0, 0, 0, 0, 0, 0, 17, 0xBA, 0xEE, 0, 0, 0, 0, 0, 0, 0, 0, 0, 0, 0, 0, 0, 40, 0, 0] ++ ([18, 0, 0, 0, 0, 0] ++ List.replicate 26 0)) }], links := Vector.replicate 64 { used := [(false, 0)] } } }, { port := 0, tick := 0, ts := 0, bytes := (List.replicate 12 0 ++ [8, 0, 0x45, 0, 0, 0, 0, 0, 0, 0, 0, 17, 0xBA, 0xEE, 0, 0, 0, 0, 0, 0, 0, 0, 0, 0, 0, 0, 0, 40, 0, 0] ++ ([18, 0, 0, 0, 0, 0] ++ List.replicate 26 0)) }, [], { sip := [0, 0, 0, 0], dport := 0, ok := true, body := ([18, 0, 0, 0, 0, 0] ++ List.replicate 26 0) }, by decide +kernel⟩

theorem test_meets_WatenGathers1 : ∃ (s : State) (c : Fin 8) (lc : Nat) (q : Stile) (cell i lh : Nat),
  s.d.headStile c = some (lc, q) ∧
  q.done = true ∧
  q.given = false ∧
  q.out = true ∧
  lc < 8 ∧
  s.d.windowOf s.lk c q = none ∧
  s.d.readyLine q.ext ((s.d.core c).mem.read q.loc q.len) = some (cell, i, lh) ∧
  s.d.wtnOn = false :=
  ⟨st { (regs [(.wtn, 0, 0x814, 0x10000), (.wtn, 0, 0x81C, 0x20000)]).setCore 0 { stile { ext := 0x20040, loc := 0, len := 64, out := true, sent := 1 } with mem := { spad := at' 6 [1, 0, 1] } } with wtn := {} }, 0, 0, { ext := 0x20040, loc := 0, len := 64, out := true, sent := 1 }, 0, 0, 512, by decide +kernel⟩

theorem test_meets_WatenGathers2 : ∃ (s : State) (c : Fin 32) (v : W32) (l : Fin 8),
  let n := s.d.absSlot (ceMu (s.d.activeCell false c)) v.toNat
  let g := s.d.gather c n l
  s.d.gridOn = true ∧
  s.d.wtnOn = true ∧
  s.d.splitEn c = true ∧
  l.val < s.d.splitNl c ∧
  g.opened = false ∧
  g.cell = c.val ∧
  g.slot = n ∧
  g.layer = l.val ∧
  reached s.d.ns (s.d.gatherTimes c n l).1 = true ∧
  reached s.d.ns (s.d.gatherTimes c n l).2 = false ∧
  g.ready = none :=
  ⟨st (regs [(.tim, 0, 0x110, 1), (.wtn, 0, 0x100, 1), (.wtn, 0, 0xBE0, 0x87000000), (.wtn, 0, 0xBF0, 1)]), 31, 0, 7, by decide +kernel⟩

theorem test_meets_WatenGathers3_missing : ∃ (s : State) (c : Fin 32) (v : W32) (l : Fin 8),
  let n := s.d.absSlot (ceMu (s.d.activeCell false c)) v.toNat
  let g := s.d.gather c n l
  let missing := (s.d.others c).filter fun k => !g.complete k
  s.d.gridOn = true ∧
  s.d.wtnOn = true ∧
  s.d.splitEn c = true ∧
  l.val < s.d.splitNl c ∧
  g.opened = true ∧
  reached s.d.ns (s.d.gatherTimes c n l).2 = true ∧
  missing ≠ [] :=
  ⟨st { regs [(.tim, 0, 0x110, 1), (.wtn, 0, 0x100, 1), (.wtn, 0, 0xBE0, 0x87000000), (.wtn, 0, 0xBF0, 1)] with tim := { ns := 1 }, wtn := { gathers := [{ cell := 31, slot := 0, layer := 7, opened := true, got := [] }] } }, 31, 0, 7, by decide +kernel⟩

theorem test_meets_WatenGathers3_complete : ∃ (s : State) (c : Fin 32) (v : W32) (l : Fin 8),
  let n := s.d.absSlot (ceMu (s.d.activeCell false c)) v.toNat
  let g := s.d.gather c n l
  let missing := (s.d.others c).filter fun k => !g.complete k
  s.d.gridOn = true ∧
  s.d.wtnOn = true ∧
  s.d.splitEn c = true ∧
  l.val < s.d.splitNl c ∧
  g.opened = true ∧
  reached s.d.ns (s.d.gatherTimes c n l).2 = true ∧
  missing = [] :=
  ⟨st { regs [(.tim, 0, 0x110, 1), (.wtn, 0, 0x100, 1), (.wtn, 0, 0xBE0, 0x87000000), (.wtn, 0, 0xBF0, 1)] with tim := { ns := 1 }, wtn := { gathers := [{ cell := 31, slot := 0, layer := 7, opened := true, got := [(1, 0, 1)] }] } }, 31, 0, 7, by decide +kernel⟩

theorem test_meets_MirrorPair1_none : ∃ (s : State) (w : World) (peer : Fin 16384),
  s.d.takesWrite s.lk w .wtn 0 ∧
  s.d.flag .wtn 0 0x148 31 = false ∧
  s.d.wtn.pair = none ∧ s.d.linkTo peer = none :=
  ⟨st { regs [] with wtn := {} }, .secure, 16383, by decide +kernel⟩

theorem test_meets_MirrorPair2_none : ∃ (s : State) (w : World),
  s.d.takesWrite s.lk w .wtn 0 ∧
  s.d.flag .wtn 0 0x148 31 = false ∧
  s.d.wtn.pair.isSome = false :=
  ⟨st { regs [] with wtn := {} }, .secure, by decide +kernel⟩

theorem test_meets_MirrorPair1_bind : ∃ (s : State) (w : World) (peer : Fin 16384),
  s.d.takesWrite s.lk w .wtn 0 ∧
  s.d.flag .wtn 0 0x148 31 = false ∧
  s.d.wtn.pair = none ∧ s.d.linkTo peer = some 63 :=
  ⟨st { regs [(.wtn, 0, 0x7F0, 2 ^ 31 + 16383)] with wtn := {} }, .secure, 16383, by decide +kernel⟩

theorem test_meets_MirrorPair1_paired : ∃ (s : State) (w : World) (peer : Fin 16384),
  s.d.takesWrite s.lk w .wtn 0 ∧
  s.d.flag .wtn 0 0x148 31 = false ∧
  s.d.wtn.pair.isSome = true :=
  ⟨st { regs [] with wtn := { pair := some (0, 0) } }, .secure, 16383, by decide +kernel⟩

theorem test_meets_MirrorPair2_paired : ∃ (s : State) (w : World),
  s.d.takesWrite s.lk w .wtn 0 ∧
  s.d.flag .wtn 0 0x148 31 = false ∧
  s.d.wtn.pair.isSome = true :=
  ⟨st { regs [] with wtn := { pair := some (0, 0) } }, .secure, by decide +kernel⟩

theorem test_meets_MirrorPair3_none : ∃ (s : State) (w : World),
  s.d.takesWrite s.lk w .wtn 0 ∧
  s.d.flag .wtn 0 0x148 31 = false ∧
  s.d.wtn.pair = none :=
  ⟨st, .secure, by decide +kernel⟩

theorem test_meets_MirrorPair3_paired : ∃ (s : State) (w : World),
  s.d.takesWrite s.lk w .wtn 0 ∧
  s.d.flag .wtn 0 0x148 31 = false ∧
  s.d.wtn.pair = some (63, 0) ∧ (s.d.link 63).applied = some 0 ∧ s.d.usable 63 ≠ [] :=
  ⟨st { regs [(.wtn, 0, 0x110, 1), (.eth, 0, 0x100, 1), (.eth, 0, 0x104, 7)] with wtn := { pair := some (63, 0), links := Vector.replicate 64 { route := [1], applied := some 0 } } }, .secure, by decide +kernel⟩

theorem test_meets_MirrorPair4 : ∃ (s : State) (i peer k : Nat),
  s.d.wtn.pair = some (i, peer) ∧
  s.d.wtn.copy = some k ∧
  s.d.nextMirror k = none ∧
  s.d.wtn.full = false :=
  ⟨st { ({} : Dev) with wtn := { pair := some (0, 0), copy := some 5 } }, 0, 0, 5, by decide +kernel⟩

theorem test_meets_MirrorPair5 : ∃ (s : State) (i peer : Nat),
  s.d.wtn.pair = some (i, peer) ∧
  s.d.wtn.full = true :=
  ⟨st { ({} : Dev) with wtn := { pair := some (0, 0), full := true } }, 0, 0, by decide +kernel⟩

theorem test_meets_BootOutcomes2 : ∃ (s : State) (flash : List Byte) (dir : List (Nat × Nat × Nat)) (h x y : List Byte),
  s.d.romReady = true ∧
  s.d.flag .mem 0 0x100 0 = false :=
  ⟨st (regs [(.cru, 0, 0x100, 15)]), [], [], [], [], [], by decide +kernel⟩

theorem test_meets_BootOutcomes3_none : ∃ (s : State) (flash : List Byte),
  s.d.romReady = true ∧
  s.d.flag .mem 0 0x100 0 = false ∧
  readDir flash = none :=
  ⟨st (regs [(.cru, 0, 0x100, 15)]), [], by decide +kernel⟩

theorem test_meets_BootOutcomes3_helper : ∃ (s : State) (flash : List Byte),
  s.d.romReady = true ∧
  s.d.flag .mem 0 0x100 0 = false ∧
  ((readDir flash).map fun dir => decide (((itemOf flash dir 1).getD []).length < 48)) = some true :=
  ⟨st (regs [(.cru, 0, 0x100, 15)]), [0x47, 0x57, 0x54, 0x38], by decide +kernel⟩

theorem test_meets_SecCommands1_busy : ∃ (s : State) (w : World) (len : Nat) (c : Nat × Instr),
  c ∈ [(1, Instr.updateFw w len), (2, .raiseFloor w len), (3, .updateCfg w len), (4, .recoverBoot w len)] ∧
  len < 2 ^ 24 ∧
  s.d.takesWrite s.lk w .sec 0 ∧
  s.d.flag .sec 0 0x14C 31 = true :=
  ⟨st (regs [(.sec, 0, 0x14C, 2 ^ 31)]), .secure, 0, (1, Instr.updateFw .secure 0), by decide +kernel⟩

theorem test_meets_SecCommands1_long : ∃ (s : State) (w : World) (len : Nat) (c : Nat × Instr),
  c ∈ [(1, Instr.updateFw w len), (2, .raiseFloor w len), (3, .updateCfg w len), (4, .recoverBoot w len)] ∧
  len < 2 ^ 24 ∧
  s.d.takesWrite s.lk w .sec 0 ∧
  0x800000 < len :=
  ⟨st (regs []), .secure, 0x800001, (2, Instr.raiseFloor .secure 0x800001), by decide +kernel⟩

theorem test_meets_SecCommands1_stage : ∃ (s : State) (w : World) (len : Nat) (c : Nat × Instr),
  c ∈ [(1, Instr.updateFw w len), (2, .raiseFloor w len), (3, .updateCfg w len), (4, .recoverBoot w len)] ∧
  len < 2 ^ 24 ∧
  s.d.takesWrite s.lk w .sec 0 ∧
  s.d.secAllowed c.1 = false :=
  ⟨st (regs []), .secure, 0x800000, (3, Instr.updateCfg .secure 0x800000), by decide +kernel⟩

theorem test_meets_SecCommands1_taken : ∃ (s : State) (w : World) (len : Nat) (c : Nat × Instr),
  c ∈ [(1, Instr.updateFw w len), (2, .raiseFloor w len), (3, .updateCfg w len), (4, .recoverBoot w len)] ∧
  len < 2 ^ 24 ∧
  s.d.takesWrite s.lk w .sec 0 ∧
  s.d.secAllowed c.1 = true :=
  ⟨st (regs [(.sec, 0, 0x100, 0x603)]), .secure, 64, (4, Instr.recoverBoot .secure 64), by decide +kernel⟩

theorem test_meets_SecCommands2_floor : ∃ (s : State) (ok : Bool) (k : SecCmd),
  s.d.sec.cmd = some k ∧
  k.result < 16 ∧
  let wrote := k.result = 0 ∧ k.op ≠ 4
  let r := if wrote ∧ ok = false then 3 else k.result
  k.op = 2 ∧ r = 0 :=
  ⟨st { ({} : Dev) with sec := { cmd := some { op := 2, result := 0, off := 0, item := [], floor := 5 } } }, true, { op := 2, result := 0, off := 0, item := [], floor := 5 }, by decide +kernel⟩

theorem test_meets_SecCommands2_unread : ∃ (s : State) (ok : Bool) (k : SecCmd),
  s.d.sec.cmd = some k ∧
  k.result < 16 ∧
  let wrote := k.result = 0 ∧ k.op ≠ 4
  let r := if wrote ∧ ok = false then 3 else k.result
  r = 3 :=
  ⟨st { ({} : Dev) with sec := { cmd := some { op := 1, result := 0, off := 0, item := [], floor := 5 } } }, false, { op := 1, result := 0, off := 0, item := [], floor := 5 }, by decide +kernel⟩

theorem test_meets_SecCommands2_refused : ∃ (s : State) (ok : Bool) (k : SecCmd),
  s.d.sec.cmd = some k ∧
  k.result < 16 ∧
  let wrote := k.result = 0 ∧ k.op ≠ 4
  ¬ wrote :=
  ⟨st { ({} : Dev) with sec := { cmd := some { op := 3, result := 1, off := 0, item := [], floor := 5 } } }, true, { op := 3, result := 1, off := 0, item := [], floor := 5 }, by decide +kernel⟩

theorem test_meets_SecCommands2_recovery : ∃ (s : State) (ok : Bool) (k : SecCmd),
  s.d.sec.cmd = some k ∧
  k.result < 16 ∧
  let wrote := k.result = 0 ∧ k.op ≠ 4
  let r := if wrote ∧ ok = false then 3 else k.result
  k.op = 4 ∧ r = 0 ∧ s.d.cfgVerifies = false ∧ s.d.pwr.held = false :=
  ⟨st { ({} : Dev) with sec := { cmd := some { op := 4, result := 0, off := 0, item := [], floor := 5 } } }, true, { op := 4, result := 0, off := 0, item := [], floor := 5 }, by decide +kernel⟩

theorem test_meets_SpdmMessages1_closed : ∃ (s : State) (req : List Byte) (m : Instr × Nat × Nat × Nat),
  m ∈ [(Instr.getVersion req, 0x84, 0x10, 0), (.getCapabilities req, 0xE1, 0x12, 1), (.negotiateAlgorithms req, 0xE3, 0x12, 2), (.getDigests req, 0x81, 0x12, 3), (.getCertificate req, 0x82, 0x12, 3), (.challenge req, 0x83, 0x12, 3), (.getMeasurements req, 0xE0, 0x12, 3)] ∧
  s.d.doeOpen = false :=
  ⟨st ({}), [], (Instr.getVersion [], 132, 16, 0), by decide +kernel⟩

theorem test_meets_SpdmMessages1_busy : ∃ (s : State) (req : List Byte) (m : Instr × Nat × Nat × Nat),
  m ∈ [(Instr.getVersion req, 0x84, 0x10, 0), (.getCapabilities req, 0xE1, 0x12, 1), (.negotiateAlgorithms req, 0xE3, 0x12, 2), (.getDigests req, 0x81, 0x12, 3), (.getCertificate req, 0x82, 0x12, 3), (.challenge req, 0x83, 0x12, 3), (.getMeasurements req, 0xE0, 0x12, 3)] ∧
  s.d.doeOpen = true ∧ s.d.flag .sec 0 0x14C 31 = true :=
  ⟨st (run [(.sec, 0, 0x14C, 2 ^ 31)]), [], (Instr.getCapabilities [], 225, 18, 1), by decide +kernel⟩

theorem test_meets_SpdmMessages1_code : ∃ (s : State) (req : List Byte) (m : Instr × Nat × Nat × Nat),
  m ∈ [(Instr.getVersion req, 0x84, 0x10, 0), (.getCapabilities req, 0xE1, 0x12, 1), (.negotiateAlgorithms req, 0xE3, 0x12, 2), (.getDigests req, 0x81, 0x12, 3), (.getCertificate req, 0x82, 0x12, 3), (.challenge req, 0x83, 0x12, 3), (.getMeasurements req, 0xE0, 0x12, 3)] ∧
  s.d.doeOpen = true ∧ s.d.flag .sec 0 0x14C 31 = false ∧ leAt req 1 1 ≠ m.2.1 :=
  ⟨st (run []), [0x12, 0], (Instr.negotiateAlgorithms [0x12, 0], 227, 18, 2), by decide +kernel⟩

theorem test_meets_SpdmMessages1_version : ∃ (s : State) (req : List Byte) (m : Instr × Nat × Nat × Nat),
  m ∈ [(Instr.getVersion req, 0x84, 0x10, 0), (.getCapabilities req, 0xE1, 0x12, 1), (.negotiateAlgorithms req, 0xE3, 0x12, 2), (.getDigests req, 0x81, 0x12, 3), (.getCertificate req, 0x82, 0x12, 3), (.challenge req, 0x83, 0x12, 3), (.getMeasurements req, 0xE0, 0x12, 3)] ∧
  s.d.doeOpen = true ∧ leAt req 1 1 = m.2.1 ∧ 4 ≤ req.length ∧ leAt req 0 1 ≠ m.2.2.1 :=
  ⟨st (run []), [0x13, 0x81, 0, 0], (Instr.getDigests [0x13, 0x81, 0, 0], 129, 18, 3), by decide +kernel⟩

theorem test_meets_SpdmMessages1_phase : ∃ (s : State) (req : List Byte) (m : Instr × Nat × Nat × Nat),
  m ∈ [(Instr.getVersion req, 0x84, 0x10, 0), (.getCapabilities req, 0xE1, 0x12, 1), (.negotiateAlgorithms req, 0xE3, 0x12, 2), (.getDigests req, 0x81, 0x12, 3), (.getCertificate req, 0x82, 0x12, 3), (.challenge req, 0x83, 0x12, 3), (.getMeasurements req, 0xE0, 0x12, 3)] ∧
  s.d.doeOpen = true ∧ leAt req 1 1 = m.2.1 ∧ 4 ≤ req.length ∧ leAt req 0 1 = m.2.2.1 ∧ s.d.sec.spdm.phase < m.2.2.2 :=
  ⟨st { run [] with sec := { spdm := { phase := 2 } } }, [0x12, 0xE0, 0, 0], (Instr.getMeasurements [0x12, 0xE0, 0, 0], 224, 18, 3), by decide +kernel⟩

theorem test_meets_SpdmMessages2_version : ∃ (s : State) (req : List Byte),
  s.d.doeOpen = true ∧
  s.d.flag .sec 0 0x14C 31 = false ∧
  4 ≤ req.length ∧
  leAt req 0 2 = 0x8410 :=
  ⟨st { run [] with sec := { spdm := { phase := 0 }, cert := [1], pub := [1] } }, [0x10, 0x84, 0, 0], by decide +kernel⟩

theorem test_meets_SpdmMessages2_capabilities : ∃ (s : State) (req : List Byte),
  s.d.doeOpen = true ∧
  s.d.flag .sec 0 0x14C 31 = false ∧
  4 ≤ req.length ∧
  leAt req 0 2 = 0xE112 ∧ 1 ≤ s.d.sec.spdm.phase :=
  ⟨st { run [] with sec := { spdm := { phase := 1 }, cert := [1], pub := [1] } }, [0x12, 0xE1, 0, 0], by decide +kernel⟩

theorem test_meets_SpdmMessages2_algorithms : ∃ (s : State) (req : List Byte),
  s.d.doeOpen = true ∧
  s.d.flag .sec 0 0x14C 31 = false ∧
  4 ≤ req.length ∧
  leAt req 0 2 = 0xE312 ∧ 2 ≤ s.d.sec.spdm.phase :=
  ⟨st { run [] with sec := { spdm := { phase := 2 }, cert := [1], pub := [1] } }, [0x12, 0xE3, 0, 0], by decide +kernel⟩

theorem test_meets_SpdmMessages2_digests : ∃ (s : State) (req : List Byte),
  s.d.doeOpen = true ∧
  s.d.flag .sec 0 0x14C 31 = false ∧
  4 ≤ req.length ∧
  leAt req 0 2 = 0x8112 ∧ 3 ≤ s.d.sec.spdm.phase ∧ s.d.sec.cert ≠ [] :=
  ⟨st { run [] with sec := { spdm := { phase := 3 }, cert := [1], pub := [1] } }, [0x12, 0x81, 0, 0], by decide +kernel⟩

theorem test_meets_SpdmMessages2_certificate : ∃ (s : State) (req : List Byte),
  s.d.doeOpen = true ∧
  s.d.flag .sec 0 0x14C 31 = false ∧
  4 ≤ req.length ∧
  leAt req 0 2 = 0x8212 ∧ 3 ≤ s.d.sec.spdm.phase ∧ leAt req 2 1 % 16 = 0 ∧ leAt req 4 2 < s.d.sec.cert.length :=
  ⟨st { run [] with sec := { spdm := { phase := 3 }, cert := [1], pub := [1] } }, [0x12, 0x82, 0, 0, 0, 0, 1, 0], by decide +kernel⟩

theorem test_meets_SpdmMessages2_challenge : ∃ (s : State) (req : List Byte),
  s.d.doeOpen = true ∧
  s.d.flag .sec 0 0x14C 31 = false ∧
  4 ≤ req.length ∧
  leAt req 0 2 = 0x8312 ∧ 3 ≤ s.d.sec.spdm.phase ∧ leAt req 2 1 = 0 ∧ s.d.sec.cert ≠ [] ∧ s.d.sec.pub ≠ [] :=
  ⟨st { run [] with sec := { spdm := { phase := 3 }, cert := [1], pub := [1] } }, [0x12, 0x83, 0, 0], by decide +kernel⟩

theorem test_meets_SpdmMessages2_total : ∃ (s : State) (req : List Byte),
  s.d.doeOpen = true ∧
  s.d.flag .sec 0 0x14C 31 = false ∧
  4 ≤ req.length ∧
  leAt req 0 2 = 0xE012 ∧ leAt req 3 1 = 0 ∧ s.d.sec.pub ≠ [] :=
  ⟨st { run [] with sec := { spdm := { phase := 3 }, cert := [1], pub := [1] } }, [0x12, 0xE0, 0, 0], by decide +kernel⟩

theorem test_meets_SpdmMessages2_one : ∃ (s : State) (req : List Byte),
  s.d.doeOpen = true ∧
  s.d.flag .sec 0 0x14C 31 = false ∧
  4 ≤ req.length ∧
  leAt req 0 2 = 0xE012 ∧ leAt req 3 1 = 5 ∧ s.d.sec.pub ≠ [] :=
  ⟨st { run [] with sec := { spdm := { phase := 3 }, cert := [1], pub := [1] } }, [0x12, 0xE0, 0, 5], by decide +kernel⟩

theorem test_meets_SpdmMessages2_all : ∃ (s : State) (req : List Byte),
  s.d.doeOpen = true ∧
  s.d.flag .sec 0 0x14C 31 = false ∧
  4 ≤ req.length ∧
  leAt req 0 2 = 0xE012 ∧ leAt req 3 1 = 0xFF ∧ s.d.sec.pub ≠ [] :=
  ⟨st { run [] with sec := { spdm := { phase := 3 }, cert := [1], pub := [1] } }, [0x12, 0xE0, 0, 0xFF], by decide +kernel⟩

theorem test_meets_HostRings1_job : ∃ (s : State) (v : W32) (c : Nat × Instr),
  c ∈ [(0, Instr.jobRingDoorbell v), (1, .intakeRingDoorbell v), (2, .payloadRingDoorbell v), (3, .deliveryRingDoorbell v), (4, .eventRingDoorbell v)] ∧
  s.d.openTo .nonsecure .pci = true ∧
  let wr := s.d.ringReg c.1 0x0C
  let rd := s.d.ringReg c.1 0x10
  let good := s.d.flag .pci 0 0x100 0 = true ∧ (if c.1 < 3 then idxDiff wr rd ≤ idxDiff v.toNat rd ∧
    idxDiff v.toNat rd ≤ 2 ^ bits (s.d.ringReg c.1 8) 4 0 else idxDiff v.toNat rd ≤ idxDiff wr rd)
  good :=
  ⟨st (run [(.pci, 0, 0x100, 1)]), 1, (0, Instr.jobRingDoorbell 1), by decide +kernel⟩

theorem test_meets_HostRings1_events : ∃ (s : State) (v : W32) (c : Nat × Instr),
  c ∈ [(0, Instr.jobRingDoorbell v), (1, .intakeRingDoorbell v), (2, .payloadRingDoorbell v), (3, .deliveryRingDoorbell v), (4, .eventRingDoorbell v)] ∧
  s.d.openTo .nonsecure .pci = true ∧
  let wr := s.d.ringReg c.1 0x0C
  let rd := s.d.ringReg c.1 0x10
  let good := s.d.flag .pci 0 0x100 0 = true ∧ (if c.1 < 3 then idxDiff wr rd ≤ idxDiff v.toNat rd ∧
    idxDiff v.toNat rd ≤ 2 ^ bits (s.d.ringReg c.1 8) 4 0 else idxDiff v.toNat rd ≤ idxDiff wr rd)
  good :=
  ⟨st (run [(.pci, 0, 0x100, 1)]), 0, (4, Instr.eventRingDoorbell 0), by decide +kernel⟩

theorem test_meets_HostRings1_full : ∃ (s : State) (v : W32) (c : Nat × Instr),
  c ∈ [(0, Instr.jobRingDoorbell v), (1, .intakeRingDoorbell v), (2, .payloadRingDoorbell v), (3, .deliveryRingDoorbell v), (4, .eventRingDoorbell v)] ∧
  s.d.openTo .nonsecure .pci = true ∧
  let wr := s.d.ringReg c.1 0x0C
  let rd := s.d.ringReg c.1 0x10
  let good := s.d.flag .pci 0 0x100 0 = true ∧ (if c.1 < 3 then idxDiff wr rd ≤ idxDiff v.toNat rd ∧
    idxDiff v.toNat rd ≤ 2 ^ bits (s.d.ringReg c.1 8) 4 0 else idxDiff v.toNat rd ≤ idxDiff wr rd)
  ¬ good :=
  ⟨st (run [(.pci, 0, 0x100, 1)]), 0x80000000, (2, Instr.payloadRingDoorbell 0x80000000), by decide +kernel⟩

theorem test_meets_HostRings1_off : ∃ (s : State) (v : W32) (c : Nat × Instr),
  c ∈ [(0, Instr.jobRingDoorbell v), (1, .intakeRingDoorbell v), (2, .payloadRingDoorbell v), (3, .deliveryRingDoorbell v), (4, .eventRingDoorbell v)] ∧
  s.d.openTo .nonsecure .pci = true ∧
  let wr := s.d.ringReg c.1 0x0C
  let rd := s.d.ringReg c.1 0x10
  let good := s.d.flag .pci 0 0x100 0 = true ∧ (if c.1 < 3 then idxDiff wr rd ≤ idxDiff v.toNat rd ∧
    idxDiff v.toNat rd ≤ 2 ^ bits (s.d.ringReg c.1 8) 4 0 else idxDiff v.toNat rd ≤ idxDiff wr rd)
  ¬ good :=
  ⟨st (run []), 0, (3, Instr.deliveryRingDoorbell 0), by decide +kernel⟩

theorem test_meets_HostRings1_intake : ∃ (s : State) (v : W32) (c : Nat × Instr),
  c ∈ [(0, Instr.jobRingDoorbell v), (1, .intakeRingDoorbell v), (2, .payloadRingDoorbell v), (3, .deliveryRingDoorbell v), (4, .eventRingDoorbell v)] ∧
  s.d.openTo .nonsecure .pci = true ∧
  let wr := s.d.ringReg c.1 0x0C
  let rd := s.d.ringReg c.1 0x10
  let good := s.d.flag .pci 0 0x100 0 = true ∧ (if c.1 < 3 then idxDiff wr rd ≤ idxDiff v.toNat rd ∧
    idxDiff v.toNat rd ≤ 2 ^ bits (s.d.ringReg c.1 8) 4 0 else idxDiff v.toNat rd ≤ idxDiff wr rd)
  good :=
  ⟨st (run [(.pci, 0, 0x100, 1)]), 0, (1, Instr.intakeRingDoorbell 0), by decide +kernel⟩

theorem test_meets_HostRings2 : ∃ (s : State) (r : Fin 3) (bs : List Byte),
  s.d.canFetch r = true ∧
  let bad := r.val = 1 ∧ intakeOk (slice bs 0 32) = false
  ¬ bad :=
  ⟨st (regs [(.pci, 0, 0x100, 1), (.pci, 0, 0x20C, 1), (.pci, 0, 0x22C, 1), (.pci, 0, 0x24C, 1)]), 2, [], by decide +kernel⟩

theorem test_meets_HostRings2_bad : ∃ (s : State) (r : Fin 3) (bs : List Byte),
  s.d.canFetch r = true ∧
  let bad := r.val = 1 ∧ intakeOk (slice bs 0 32) = false
  bad :=
  ⟨st (regs [(.pci, 0, 0x100, 1), (.pci, 0, 0x20C, 1), (.pci, 0, 0x22C, 1), (.pci, 0, 0x24C, 1)]), 1, [32], by decide +kernel⟩

theorem test_meets_HostRings2_edge : ∃ (s : State) (r : Fin 3) (bs : List Byte),
  s.d.canFetch r = true ∧
  let bad := r.val = 1 ∧ intakeOk (slice bs 0 32) = false
  ¬ bad :=
  ⟨st (regs [(.pci, 0, 0x100, 1), (.pci, 0, 0x20C, 1), (.pci, 0, 0x22C, 1), (.pci, 0, 0x24C, 1)]), 1, [31], by decide +kernel⟩

theorem test_meets_HostRings3 : ∃ (s : State) (r : Fin 3),
  s.d.canFetch r = true :=
  ⟨st (regs [(.pci, 0, 0x100, 1), (.pci, 0, 0x20C, 1), (.pci, 0, 0x22C, 1), (.pci, 0, 0x24C, 1)]), 0, by decide +kernel⟩

theorem test_meets_HostRings4 : ∃ (s : State) (r : Fin 3) (x : InEntry) (rest : List InEntry),
  s.d.pci.intake = x :: rest ∧
  (∀ y, rest.head? = some y → y.bad = false) :=
  ⟨st { ({} : Dev) with pci := { intake := [{ ring := 1, idx := 0, stamp := 0, bytes := [] }] } }, 1, { ring := 1, idx := 0, stamp := 0, bytes := [] }, [], ⟨by decide +kernel, nofun⟩⟩

theorem test_meets_HostWrites1 : ∃ (s : State) (r : UlRec) (l : List UlRec),
  s.d.ringsOn = true ∧
  s.d.pci.records = r :: l ∧
  s.d.ringFree 3 ≠ 0 :=
  ⟨st { regs [(.pci, 0, 0x100, 1)] with pci := { records := [{ bytes := [], payload := [1], beats := 1 }] } }, { bytes := [], payload := [1], beats := 1 }, [], by decide +kernel⟩

theorem test_meets_HostWrites2 : ∃ (s : State) (e : List Byte) (l : List (List Byte)),
  s.d.ringsOn = true ∧
  s.d.pci.events = e :: l ∧
  s.d.ringFree 4 ≠ 0 ∧
  (∀ c, c < 8 → (s.d.core c).evq = [] ∧ (s.d.core c).ovc = none) :=
  ⟨st { regs [(.pci, 0, 0x100, 1)] with pci := { events := [[1]] } }, [1], [], by decide +kernel⟩

theorem test_meets_HostWrites3_ring : ∃ (s : State) (v : Nat) (i : Instr),
  s.d.pci.linkUp = true ∧
  ((∃ (r : Fin 5) (n : Nat), i = .msixMessage r ∧ v = r.val + 1 ∧ s.d.ringsOn = true ∧ s.d.pci.since.toList.getD r.val 0 = n ∧ 0 < n ∧ bits (s.d.ringReg r 0x14) 15 0 ≤ n) ∨ (∃ k p n, i = .blockInterrupt k ∧ pageAtIndex k = some (p, n) ∧ p ≠ .pwr ∧ pageThere s.lk p n = true ∧ s.d.secure p n = false ∧ s.d.irqHigh p n = true ∧ v = s.d.route k)) ∧
  bit (s.d.msixWord v 3) 0 = true :=
  ⟨st { regs [(.pci, 0, 0x100, 1)] with pci := { since := Vector.replicate 5 1 } }, 5, .msixMessage 4, ⟨by decide +kernel, .inl ⟨4, 1, by decide +kernel⟩, by decide +kernel⟩⟩

theorem test_meets_HostWrites3_block : ∃ (s : State) (v : Nat) (i : Instr),
  s.d.pci.linkUp = true ∧
  ((∃ (r : Fin 5) (n : Nat), i = .msixMessage r ∧ v = r.val + 1 ∧ s.d.ringsOn = true ∧ s.d.pci.since.toList.getD r.val 0 = n ∧ 0 < n ∧ bits (s.d.ringReg r 0x14) 15 0 ≤ n) ∨ (∃ k p n, i = .blockInterrupt k ∧ pageAtIndex k = some (p, n) ∧ p ≠ .pwr ∧ pageThere s.lk p n = true ∧ s.d.secure p n = false ∧ s.d.irqHigh p n = true ∧ v = s.d.route k)) ∧
  bit (s.d.msixWord v 3) 0 = false :=
  ⟨st { regs [(.tim, 0, 0x008, 0), (.tim, 0, 0x020, 1), (.tim, 0, 0x01C, 0), (.irq, 0, 0x404, 6)] with pci := { msix := at' 0x6C [1] } }, 6, .blockInterrupt 4, ⟨by decide +kernel, .inr ⟨4, .tim, 0, by decide +kernel⟩, by decide +kernel⟩⟩

theorem test_meets_HostWrites4 : ∃ (s : State) (a n : Nat) (bs : List Byte) (po : Bool),
  s.d.bar2Open a bs.length = true ∧
  s.d.lpWaits a = false ∧
  s.d.pci.bar2 = [] :=
  ⟨st (run []), 0, 0, [1], false, by decide +kernel⟩

theorem test_meets_HostWrites6 : ∃ (s : State) (a n : Nat) (bs : List Byte) (po : Bool),
  s.d.bar2Open a n = true ∧
  s.d.lpWaits a = false ∧
  s.d.pci.bar2 = [] :=
  ⟨st (run []), 0, 64, [], false, by decide +kernel⟩

theorem test_meets_HostWrites4_recovery : ∃ (s : State) (a n : Nat) (bs : List Byte) (po : Bool),
  s.d.bar2Open a bs.length = true ∧
  s.d.lpWaits a = false ∧
  s.d.pci.bar2 = [] :=
  ⟨st (regs [(.sec, 0, 0x100, 3)]), 0x3FFFFC0, 0, List.replicate 64 1, false, by decide +kernel⟩

theorem test_meets_HostWrites6_recovery : ∃ (s : State) (a n : Nat) (bs : List Byte) (po : Bool),
  s.d.bar2Open a n = true ∧
  s.d.lpWaits a = false ∧
  s.d.pci.bar2 = [] :=
  ⟨st (regs [(.sec, 0, 0x100, 3)]), 0x3FFFFC0, 64, [], false, by decide +kernel⟩

theorem test_meets_HostWrites5_read : ∃ (s : State) (a n : Nat) (wr : Bool) (bs : List Byte) (po : Bool),
  let x : Bar2Req :=
    { wr := wr, addr := a, len := if wr then bs.length else n, bytes := bs, poison := po }
  s.d.bar2Open a x.len = true ∧
  s.d.lpWaits a = true ∧
  wr = false :=
  ⟨st (run [(.mem, 0, 0x100, 1)]), 0, 64, false, List.replicate 64 1, false, by decide +kernel⟩

theorem test_meets_HostWrites5_write : ∃ (s : State) (a n : Nat) (wr : Bool) (bs : List Byte) (po : Bool),
  let x : Bar2Req :=
    { wr := wr, addr := a, len := if wr then bs.length else n, bytes := bs, poison := po }
  s.d.bar2Open a x.len = true ∧
  s.d.lpWaits a = true ∧
  wr = true :=
  ⟨st (run [(.mem, 0, 0x100, 1)]), 0, 64, true, List.replicate 64 1, false, by decide +kernel⟩

theorem test_meets_BlockRegisters1 : ∃ (s : State) (w : World) (k : Nat) (v : W32) (p : Page) (n : Nat),
  pageAtIndex k = some (p, n) ∧
  s.d.takesWrite s.lk w p n :=
  ⟨st {} { coreEn := 0xFF }, .secure, 0, 0xFFFFFFFF, .dev, 0, by decide +kernel⟩

theorem test_meets_BlockRegisters1_core : ∃ (s : State) (w : World) (k : Nat) (v : W32) (p : Page) (n : Nat),
  pageAtIndex k = some (p, n) ∧
  s.d.takesWrite s.lk w p n :=
  ⟨st {} { coreEn := 0xFF }, .secure, 375, 0xFFFFFFFF, .stl, 7, by decide +kernel⟩

theorem test_meets_BlockRegisters2_refused : ∃ (s : State) (w : World) (k : Nat) (v : W32) (p : Page) (n : Nat),
  pageAtIndex k = some (p, n) ∧
  s.d.takesWrite s.lk w p n ∧
  bit v.toNat 0 = true ∧
  s.d.resetAllowed s.lk p n = false :=
  ⟨st {} { coreEn := 0xFF }, .secure, 0, 1, .dev, 0, by decide +kernel⟩

theorem test_meets_BlockRegisters2_taken : ∃ (s : State) (w : World) (k : Nat) (v : W32) (p : Page) (n : Nat),
  pageAtIndex k = some (p, n) ∧
  s.d.takesWrite s.lk w p n ∧
  bit v.toNat 0 = true ∧
  s.d.resetAllowed s.lk p n = true :=
  ⟨st {} { coreEn := 0xFF }, .secure, 128, 1, .mch, 15, by decide +kernel⟩

theorem test_meets_BlockRegisters2_grid : ∃ (s : State) (w : World) (k : Nat) (v : W32) (p : Page) (n : Nat),
  pageAtIndex k = some (p, n) ∧
  s.d.takesWrite s.lk w p n ∧
  bit v.toNat 0 = true ∧
  s.d.resetAllowed s.lk p n = false :=
  ⟨st (regs [(.tim, 0, 0x110, 1)]) { coreEn := 0xFF }, .secure, 4, 1, .tim, 0, by decide +kernel⟩

theorem test_meets_BlockRegisters3 : ∃ (s : State) (k : Nat) (p : Page) (n : Nat),
  pageAtIndex k = some (p, n) ∧
  s.d.flag p n 0x014 1 = true :=
  ⟨st (regs [(.eth, 7, 0x014, 2)]), 0x17, .eth, 7, by decide +kernel⟩

theorem test_meets_BlockRegisters4 : ∃ (s : State) (w : World) (k : Nat) (v : W32) (p : Page) (n : Nat),
  pageAtIndex k = some (p, n) ∧
  p.numeric = true ∧
  s.d.takesWrite s.lk w p n ∧
  bit v.toNat 1 = true :=
  ⟨st {} { coreEn := 0xFF }, .secure, 0x174, 2, .hch, 7, by decide +kernel⟩

theorem test_meets_BlockRegisters4_enable : ∃ (s : State) (w : World) (k : Nat) (v : W32) (p : Page) (n : Nat),
  pageAtIndex k = some (p, n) ∧
  p.numeric = true ∧
  s.d.takesWrite s.lk w p n ∧
  bit v.toNat 1 = false :=
  ⟨st {} { coreEn := 0xFF }, .secure, 0x174, 1, .hch, 7, by decide +kernel⟩

theorem test_meets_RegisterAccess1_none : ∃ (s : State) (w : World) (a : Nat),
  a % 4 = 0 ∧
  s.d.answers w = true ∧
  pageAtIndex (a / 4096) = none ∧ s.d.stage ≠ 3 :=
  ⟨st, .secure, 0xFFFFC, by decide +kernel⟩

theorem test_meets_RegisterAccess1_word : ∃ (s : State) (w : World) (a : Nat),
  a % 4 = 0 ∧
  s.d.answers w = true ∧
  let p : Page := .eth; let n := 7; pageAtIndex (a / 4096) = some (p, n) ∧ pageThere s.lk p n = true ∧ s.d.openTo w p = true ∧ s.d.secure p n = false ∧ (p.row n (a % 4096)).isSome = true ∧ s.d.ethPresent n = true :=
  ⟨st (run [(.eth, 7, 0x008, 0)]), .nonsecure, 0x1713C, by decide +kernel⟩

theorem test_meets_RegisterAccess2 : ∃ (s : State) (w : World) (a n : Nat),
  s.d.answers .nonsecure = true ∧
  a + n ≤ 0xF0000 :=
  ⟨st (run []), .secure, 0xEFFFC, 4, by decide +kernel⟩

theorem test_meets_RegisterAccess3 : ∃ (s : State) (w : World) (c : Fin 8),
  s.d.openTo w .core = true ∧
  bit s.lk.coreEn c = true ∧
  (w = .nonsecure → s.d.secure .core c = false) :=
  ⟨st {} { coreEn := 0xFF }, .secure, 7, by decide +kernel⟩

theorem test_meets_RegisterAccess4 : ∃ (s : State) (w : World) (a : Nat) (bs : List Byte) (p : Page) (n : Nat) (r : RegRow),
  let o := a % 4096
  pageAtIndex (a / 4096) = some (p, n) ∧
  p.row n o = some r ∧
  r.rws = 0 ∧
  a % 4 = 0 ∧
  (o = 0x01C ∨ (o = p.sticky.1 ∧ 0x100 ≤ o)) ∧
  (p = .eth → s.d.ethPresent n = true) ∧
  s.d.takesWrite s.lk w p n ∧
  bs.length = 4 :=
  ⟨st, .secure, 0x1013C, [0xFF, 0, 0, 0], .eth, 0, { off := 0x13C, w1c := 0x1F }, by decide +kernel⟩

theorem test_meets_RegisterAccess4_mask : ∃ (s : State) (w : World) (a : Nat) (bs : List Byte) (p : Page) (n : Nat) (r : RegRow),
  let o := a % 4096
  pageAtIndex (a / 4096) = some (p, n) ∧
  p.row n o = some r ∧
  r.rws = 0 ∧
  a % 4 = 0 ∧
  (o = 0x01C ∨ (o = p.sticky.1 ∧ 0x100 ≤ o)) ∧
  (p = .eth → s.d.ethPresent n = true) ∧
  s.d.takesWrite s.lk w p n ∧
  bs.length = 4 :=
  ⟨st, .secure, 0x301C, [0xFF, 0, 0, 0], .sec, 0, (((Page.sec).row 0 0x01C).getD { off := 0 }), by decide +kernel⟩

theorem test_meets_RegisterAccess4_partial : ∃ (s : State) (w : World) (a : Nat) (bs : List Byte) (p : Page) (n : Nat) (r : RegRow),
  let o := a % 4096
  pageAtIndex (a / 4096) = some (p, n) ∧
  p.row n o = some r ∧
  r.rws = 0 ∧
  a % 4 = 0 ∧
  (o = 0x01C ∨ (o = p.sticky.1 ∧ 0x100 ≤ o)) ∧
  (p = .eth → s.d.ethPresent n = true) ∧
  s.d.takesWrite s.lk w p n ∧
  0 < bs.length ∧ bs.length < 4 :=
  ⟨st, .secure, 0x1013C, [0xFF, 0, 0], .eth, 0, { off := 0x13C, w1c := 0x1F }, by decide +kernel⟩

theorem test_meets_RegisterAccess4_maskpartial : ∃ (s : State) (w : World) (a : Nat) (bs : List Byte) (p : Page) (n : Nat) (r : RegRow),
  let o := a % 4096
  pageAtIndex (a / 4096) = some (p, n) ∧
  p.row n o = some r ∧
  r.rws = 0 ∧
  a % 4 = 0 ∧
  (o = 0x01C ∨ (o = p.sticky.1 ∧ 0x100 ≤ o)) ∧
  (p = .eth → s.d.ethPresent n = true) ∧
  s.d.takesWrite s.lk w p n ∧
  0 < bs.length ∧ bs.length < 4 :=
  ⟨st, .secure, 0x301C, [0xFF, 0, 0], .sec, 0, (((Page.sec).row 0 0x01C).getD { off := 0 }), by decide +kernel⟩

theorem test_meets_RegisterAccess5 : ∃ (s : State) (w : World) (r : Fin 5) (bs : List Byte),
  bs.length = 4 ∧
  s.d.openTo .nonsecure .pci = true :=
  ⟨st (run []), .secure, 4, [0, 0, 0, 0], by decide +kernel⟩

theorem test_meets_PowerPoints1_reserved : ∃ (s : State) (v : W32),
  let p := bits v.toNat 2 0
  let low := pointMv s.d.point < pointMv p ∧ 100 * s.d.fld .pwr 0 0x110 11 0 < 97 * pointMv p
  let why := if 5 ≤ p then 3 else if s.d.flag .sch 0 0x100 0 = true then 2 else if low then 1 else 0
  s.d.takesWrite s.lk .secure .pwr 0 ∧
  why = 3 :=
  ⟨st (regs []), 5, by decide +kernel⟩

theorem test_meets_PowerPoints1_scheduler : ∃ (s : State) (v : W32),
  let p := bits v.toNat 2 0
  let low := pointMv s.d.point < pointMv p ∧ 100 * s.d.fld .pwr 0 0x110 11 0 < 97 * pointMv p
  let why := if 5 ≤ p then 3 else if s.d.flag .sch 0 0x100 0 = true then 2 else if low then 1 else 0
  s.d.takesWrite s.lk .secure .pwr 0 ∧
  why = 2 :=
  ⟨st (regs [(.sch, 0, 0x100, 1)]), 0, by decide +kernel⟩

theorem test_meets_PowerPoints1_low : ∃ (s : State) (v : W32),
  let p := bits v.toNat 2 0
  let low := pointMv s.d.point < pointMv p ∧ 100 * s.d.fld .pwr 0 0x110 11 0 < 97 * pointMv p
  let why := if 5 ≤ p then 3 else if s.d.flag .sch 0 0x100 0 = true then 2 else if low then 1 else 0
  s.d.takesWrite s.lk .secure .pwr 0 ∧
  why = 1 :=
  ⟨st (regs []), 4, by decide +kernel⟩

theorem test_meets_PowerPoints1_same : ∃ (s : State) (v : W32),
  let p := bits v.toNat 2 0
  let low := pointMv s.d.point < pointMv p ∧ 100 * s.d.fld .pwr 0 0x110 11 0 < 97 * pointMv p
  let why := if 5 ≤ p then 3 else if s.d.flag .sch 0 0x100 0 = true then 2 else if low then 1 else 0
  s.d.takesWrite s.lk .secure .pwr 0 ∧
  why = 0 ∧ pointMhz s.d.point = pointMhz p :=
  ⟨st (regs [(.pwr, 0, 0x110, 800)]), 3, by decide +kernel⟩

theorem test_meets_PowerPoints1_relock : ∃ (s : State) (v : W32),
  let p := bits v.toNat 2 0
  let low := pointMv s.d.point < pointMv p ∧ 100 * s.d.fld .pwr 0 0x110 11 0 < 97 * pointMv p
  let why := if 5 ≤ p then 3 else if s.d.flag .sch 0 0x100 0 = true then 2 else if low then 1 else 0
  s.d.takesWrite s.lk .secure .pwr 0 ∧
  why = 0 ∧ pointMhz s.d.point ≠ pointMhz p :=
  ⟨st (regs [(.pwr, 0, 0x110, 750)]), 2, by decide +kernel⟩

theorem test_meets_PowerPoints2 : ∃ (s : State) (k : Nat),
  s.d.pwr.relock = some k ∧
  s.d.elapsed k 150000 = true :=
  ⟨st { ({} : Dev) with pwr := { relock := some 0 }, tim := { tick := 117188 } }, 0, by decide +kernel⟩

theorem test_meets_PowerPoints3 : ∃ (s : State) (v : W32),
  let on := s.d.flag .sch 0 0x100 0
  s.d.takesWrite s.lk .secure .pwr 0 ∧
  on = false ∧ capOk (v.toNat % 512) = true :=
  ⟨st (regs []), 480, by decide +kernel⟩

theorem test_meets_PowerPoints3_value : ∃ (s : State) (v : W32),
  s.d.takesWrite s.lk .secure .pwr 0 ∧
  capOk (v.toNat % 512) = false :=
  ⟨st (regs []), 496, by decide +kernel⟩

theorem test_meets_PowerPoints3_on : ∃ (s : State) (v : W32),
  let on := s.d.flag .sch 0 0x100 0
  s.d.takesWrite s.lk .secure .pwr 0 ∧
  on = true :=
  ⟨st (regs [(.sch, 0, 0x100, 1)]), 120, by decide +kernel⟩

theorem test_meets_PowerPoints4 : ∃ (s : State) (mv : Nat),
  mv < 4096 ∧
  s.d.pwr.held = false ∧
  let low := 100 * mv < 97 * pointMv s.d.point
  low ∧ s.d.pwr.uvRun = 9 :=
  ⟨st { ({} : Dev) with pwr := { uvRun := 9 } }, 727, by decide +kernel⟩

theorem test_meets_PowerPoints4_high : ∃ (s : State) (mv : Nat),
  mv < 4096 ∧
  s.d.pwr.held = false ∧
  let low := 100 * mv < 97 * pointMv s.d.point
  ¬ low :=
  ⟨st { ({} : Dev) with pwr := { uvRun := 9 } }, 728, by decide +kernel⟩

theorem test_meets_PowerPoints5 : ∃ (s : State),
  s.d.pwr.held = false ∧
  s.d.flag .pwr 0 0x108 0 = false ∧
  bit s.lk.coreEn 7 = false :=
  ⟨st {} { coreEn := 0x7F }, by decide +kernel⟩

theorem test_meets_SensorsAndManagement1_hot : ∃ (s : State) (ts : List Int),
  ts.length = 24 ∧
  s.d.pwr.held = false ∧
  let h := (hottest ts).2
  let thr : Int := 4 * (s.d.fld .pwr 0 0x140 15 8 : Nat)
  thr ≤ h :=
  ⟨st, List.replicate 23 0 ++ [4 * 105], by decide +kernel⟩

theorem test_meets_SensorsAndManagement1_cool : ∃ (s : State) (ts : List Int),
  ts.length = 24 ∧
  s.d.pwr.held = false ∧
  let h := (hottest ts).2
  let thr : Int := 4 * (s.d.fld .pwr 0 0x140 15 8 : Nat)
  h < thr - 12 :=
  ⟨st, List.replicate 23 0 ++ [0], by decide +kernel⟩

theorem test_meets_SensorsAndManagement2 : ∃ (s : State) (bs : List Byte),
  s.d.pwr.held = false :=
  ⟨st, [0x08, 1], by decide +kernel⟩

theorem test_meets_SensorsAndManagement2_short : ∃ (s : State) (bs : List Byte),
  s.d.pwr.held = false :=
  ⟨st, [0x08], by decide +kernel⟩

theorem test_meets_SensorsAndManagement3 : ∃ (s : State) (o : Nat),
  s.d.pwr.held = false ∧
  s.d.pwr.i3c = some o ∧
  o % 4 = 0 ∧
  o < 4096 :=
  ⟨st { ({} : Dev) with pwr := { i3c := some 0xFFC } }, 0xFFC, by decide +kernel⟩

theorem test_meets_SensorsAndManagement4 : ∃ (s : State),
  let low := s.d.irqHigh .pwr 0 && !s.d.pwr.held
  low ≠ s.d.pwr.alertLow :=
  ⟨st (regs [(.pwr, 0, 0x020, 1), (.pwr, 0, 0x01C, 0)]), by decide +kernel⟩

theorem test_meets_SensorsAndManagement5_open : ∃ (s : State) (i : Fin 6) (bs : List Bool),
  let acts := s.d.pwr.held = true ∧ s.d.pwr.rstLow = true
  ¬ acts :=
  ⟨st, 3, [], by decide +kernel⟩

theorem test_meets_SensorsAndManagement5_held : ∃ (s : State) (i : Fin 6) (bs : List Bool),
  let acts := s.d.pwr.held = true ∧ s.d.pwr.rstLow = true
  acts :=
  ⟨st { ({} : Dev) with pwr := { held := true, rstLow := true } }, 4, [true], by decide +kernel⟩

theorem test_meets_Resets1_brownout : ∃ (s : State) (k : Nat) (i : Instr),
  ((k = 1 ∧ i = .brownout true) ∨ (k = 2 ∧ ∃ ns, 1000 ≤ ns ∧ i = .rstPin ns) ∨ (k = 3 ∧ i = .perst ∧ s.d.flag .pwr 0 0x124 0 = false) ∨ (k = 4 ∧ i = .refclkLoss) ∨ (k = 5 ∧ i = .thermtrip ∧ 440 ≤ s.d.pwr.hottest) ∨ (k = 6 ∧ i = .swrst .secure 0xA55A ∧ s.d.takesWrite s.lk .secure .pwr 0)) :=
  ⟨st {}, 1, .brownout true, .inl (by decide +kernel)⟩

theorem test_meets_Resets1_pin : ∃ (s : State) (k : Nat) (i : Instr),
  ((k = 1 ∧ i = .brownout true) ∨ (k = 2 ∧ ∃ ns, 1000 ≤ ns ∧ i = .rstPin ns) ∨ (k = 3 ∧ i = .perst ∧ s.d.flag .pwr 0 0x124 0 = false) ∨ (k = 4 ∧ i = .refclkLoss) ∨ (k = 5 ∧ i = .thermtrip ∧ 440 ≤ s.d.pwr.hottest) ∨ (k = 6 ∧ i = .swrst .secure 0xA55A ∧ s.d.takesWrite s.lk .secure .pwr 0)) :=
  ⟨st {}, 2, .rstPin 1000, .inr (.inl ⟨by decide, 1000, by decide⟩)⟩

theorem test_meets_Resets1_perst : ∃ (s : State) (k : Nat) (i : Instr),
  ((k = 1 ∧ i = .brownout true) ∨ (k = 2 ∧ ∃ ns, 1000 ≤ ns ∧ i = .rstPin ns) ∨ (k = 3 ∧ i = .perst ∧ s.d.flag .pwr 0 0x124 0 = false) ∨ (k = 4 ∧ i = .refclkLoss) ∨ (k = 5 ∧ i = .thermtrip ∧ 440 ≤ s.d.pwr.hottest) ∨ (k = 6 ∧ i = .swrst .secure 0xA55A ∧ s.d.takesWrite s.lk .secure .pwr 0)) :=
  ⟨st (regs [(.pwr, 0, 0x124, 0)]), 3, .perst, .inr (.inr (.inl (by decide +kernel)))⟩

theorem test_meets_Resets1_refclk : ∃ (s : State) (k : Nat) (i : Instr),
  ((k = 1 ∧ i = .brownout true) ∨ (k = 2 ∧ ∃ ns, 1000 ≤ ns ∧ i = .rstPin ns) ∨ (k = 3 ∧ i = .perst ∧ s.d.flag .pwr 0 0x124 0 = false) ∨ (k = 4 ∧ i = .refclkLoss) ∨ (k = 5 ∧ i = .thermtrip ∧ 440 ≤ s.d.pwr.hottest) ∨ (k = 6 ∧ i = .swrst .secure 0xA55A ∧ s.d.takesWrite s.lk .secure .pwr 0)) :=
  ⟨st {}, 4, .refclkLoss, .inr (.inr (.inr (.inl (by decide +kernel))))⟩

theorem test_meets_Resets1_trip : ∃ (s : State) (k : Nat) (i : Instr),
  ((k = 1 ∧ i = .brownout true) ∨ (k = 2 ∧ ∃ ns, 1000 ≤ ns ∧ i = .rstPin ns) ∨ (k = 3 ∧ i = .perst ∧ s.d.flag .pwr 0 0x124 0 = false) ∨ (k = 4 ∧ i = .refclkLoss) ∨ (k = 5 ∧ i = .thermtrip ∧ 440 ≤ s.d.pwr.hottest) ∨ (k = 6 ∧ i = .swrst .secure 0xA55A ∧ s.d.takesWrite s.lk .secure .pwr 0)) :=
  ⟨st { ({} : Dev) with pwr := { hottest := 440 } }, 5, .thermtrip, .inr (.inr (.inr (.inr (.inl (by decide +kernel)))))⟩

theorem test_meets_Resets1_swrst : ∃ (s : State) (k : Nat) (i : Instr),
  ((k = 1 ∧ i = .brownout true) ∨ (k = 2 ∧ ∃ ns, 1000 ≤ ns ∧ i = .rstPin ns) ∨ (k = 3 ∧ i = .perst ∧ s.d.flag .pwr 0 0x124 0 = false) ∨ (k = 4 ∧ i = .refclkLoss) ∨ (k = 5 ∧ i = .thermtrip ∧ 440 ≤ s.d.pwr.hottest) ∨ (k = 6 ∧ i = .swrst .secure 0xA55A ∧ s.d.takesWrite s.lk .secure .pwr 0)) :=
  ⟨st {}, 6, .swrst .secure 0xA55A, .inr (.inr (.inr (.inr (.inr (by decide +kernel)))))⟩

theorem test_meets_Resets2_por : ∃ (s : State) (i : Instr),
  (i = .por ∨ i = .brownout false) :=
  ⟨st, .por, by decide +kernel⟩

theorem test_meets_Resets2_brownout : ∃ (s : State) (i : Instr),
  (i = .por ∨ i = .brownout false) :=
  ⟨st, .brownout false, by decide +kernel⟩

theorem test_meets_Resets3_pin : ∃ (s : State) (i : Instr),
  ((∃ ns, ns < 100 ∧ i = .rstPin ns) ∨ (i = .thermtrip ∧ s.d.pwr.hottest < 440)) :=
  ⟨st, .rstPin 99, .inl ⟨99, by decide⟩⟩

theorem test_meets_Resets3_trip : ∃ (s : State) (i : Instr),
  ((∃ ns, ns < 100 ∧ i = .rstPin ns) ∨ (i = .thermtrip ∧ s.d.pwr.hottest < 440)) :=
  ⟨st, .thermtrip, .inr (by decide +kernel)⟩

theorem test_meets_Resets4 : ∃ (s : State) (v : W32),
  v ≠ 0xA55A ∧
  s.d.takesWrite s.lk .secure .pwr 0 :=
  ⟨st, 0xA55B, by decide +kernel⟩

theorem test_meets_Resets5 : ∃ (s : State),
  s.d.flag .pwr 0 0x124 0 = true ∧
  s.d.pwr.held = false :=
  ⟨st (regs [(.pwr, 0, 0x124, 1)]), by decide +kernel⟩

theorem test_meets_Resets7 : ∃ (s : State),
  s.d.pwr.held = true ∧
  s.d.pwr.auxLost = false ∧
  s.d.pwr.tripped = false ∧
  (s.d.pwr.perstLow = true → s.d.flag .pwr 0 0x124 0 = true) :=
  ⟨st { ({} : Dev) with pwr := { held := true } }, by decide +kernel⟩

theorem test_meets_Resets8 : ∃ (s : State) (i : Fin 9),
  s.d.pwr.held = false ∧
  0 ∈ s.d.pwr.lost :=
  ⟨st { ({} : Dev) with pwr := { lost := [0] } }, 0, by decide +kernel⟩

theorem test_meets_Resets8_first : ∃ (s : State) (i : Fin 9),
  s.d.pwr.held = false ∧
  0 ∉ s.d.pwr.lost :=
  ⟨st { ({} : Dev) with pwr := { lost := [] } }, 0, by decide +kernel⟩

theorem test_meets_Resets9 : ∃ (s : State) (i : Fin 4),
  s.d.flag .cru 0 0x100 i = true :=
  ⟨st (regs [(.cru, 0, 0x100, 15)]), 3, by decide +kernel⟩

theorem test_meets_EmptyQueueTicks1 : ∃ (s : State),
  s.pending = [] ∧
  s.d.pwr.held = false :=
  ⟨st, by decide +kernel⟩

theorem test_meets_EmptyQueueTicks1_held : ∃ (s : State),
  s.pending = [] ∧
  s.d.pwr.held = true :=
  ⟨st { ({} : Dev) with pwr := { held := true } }, by decide +kernel⟩

theorem test_meets_ReturnStackFaults1_call : ∃ (s : State) (c : Fin 8) (cc fr cor : Nat) (imem : Bool) (bad : List Nat),
  let x := ((s.d.softErrors c { imem := imem, corrected := cor, bad := bad }).passCycles c cc fr).core c
  let ws := slotsOf x.imem x.run.pc
  let w := ws.getD 1 0
  ((s.d.core c).state = 2 ∨ (s.d.core c).state = 3) ∧
  (s.d.core c).switchTo = none ∧
  (s.d.core c).frozenNow cc fr = false ∧
  x.poisonLoads = [] ∧
  (∀ i < 8, 1 < i → x.run.executes (ws.getD i 0) = false ∨ ws.getD i 0 = 0) ∧
  x.run.executes w = true ∧
  ((opcOf w = 0x41 ∧ 8 ≤ x.run.rstack.length) ∨ (opcOf w = 0x42 ∧ x.run.rstack = [])) ∧
  8 ≤ x.run.rstack.length :=
  ⟨core0 { running { rstack := [0, 0, 0, 0, 0, 0, 0, 0] } with imem := at' 8 (leBytes 8 (0x41 * 2 ^ 56)) }, 0, 1, 0, 0, false, [], by decide +kernel⟩

theorem test_meets_ReturnStackFaults1_ret : ∃ (s : State) (c : Fin 8) (cc fr cor : Nat) (imem : Bool) (bad : List Nat),
  let x := ((s.d.softErrors c { imem := imem, corrected := cor, bad := bad }).passCycles c cc fr).core c
  let ws := slotsOf x.imem x.run.pc
  let w := ws.getD 1 0
  ((s.d.core c).state = 2 ∨ (s.d.core c).state = 3) ∧
  (s.d.core c).switchTo = none ∧
  (s.d.core c).frozenNow cc fr = false ∧
  x.poisonLoads = [] ∧
  (∀ i < 8, 1 < i → x.run.executes (ws.getD i 0) = false ∨ ws.getD i 0 = 0) ∧
  x.run.executes w = true ∧
  ((opcOf w = 0x41 ∧ 8 ≤ x.run.rstack.length) ∨ (opcOf w = 0x42 ∧ x.run.rstack = [])) ∧
  x.run.rstack = [] :=
  ⟨core0 { running { rstack := [] } with imem := at' 8 (leBytes 8 (0x42 * 2 ^ 56)) }, 0, 1, 0, 0, false, [], by decide +kernel⟩

theorem test_meets_PassSumsInAccm : ∃ (p : PassRec) (n j a : Nat),
    let ad (n j : Nat) : Nat := 0x1000000 + (p.cmd.tb + n / 128) * 0x10000 + n % 128 * 512 + j * 4
    p.m ≤ 128 ∧ n < p.n ∧ j < p.m ∧ j = 127 ∧ 0x1000000 ≤ a ∧ ∀ n j, n < p.n → j < p.m → a < ad n j ∨ ad n j + 4 ≤ a :=
  ⟨{ id := 0, lc := 0, pc := 0, cmd := { fmov := .s8, fsta := .s8, tb := 0, am := 0, as := 0, shp := 0, ceil := 0, acc := false, drain := false, pcs := 0, rel := false, tand := false, half := false, wide := false, mq := false, sq := false, ao := 0 }, n := 1, k := 1, m := 128, stride := 64, baseM := 0, baseS := 0, ao := 0, slot := .reset }, 0, 127, 0x1000200,
    by decide, by decide, by decide, by decide, by decide, fun n j hn hj => .inr (by
      have h1 : n < 1 := hn
      have h2 : j < 128 := hj
      have h3 : n = 0 := by omega
      subst h3
      show 0x1000000 + (0 + 0 / 128) * 0x10000 + 0 % 128 * 512 + j * 4 + 4 ≤ 0x1000200
      omega)⟩

theorem test_meets_FrameOwnsShares : sharesValid (18, 1, 1) = true ∧ sharesValid (1, 1, 18) = true := by decide

theorem test_meets_StoreReadsBack : ∃ (d : Dev) (q : Req) (a : Nat) (bs : List Byte),
    d.flag .mem 0 0x100 0 = true ∧ d.flag .cmn 0 0x100 0 = false ∧ a + bs.length ≤ 2 ^ 36 ∧ a + bs.length = 2 ^ 36 ∧
    (d.worldOf q = .nonsecure → ∀ r, r < 32 → d.flag .mem 0 (0x400 + 16 * r + 8) 31 = false) :=
  ⟨regs [(.mem, 0, 0x100, 1)], .host, 2 ^ 36 - 2, [1, 2], by decide +kernel⟩

theorem test_meets_BootOutcomes1 : ∃ s : State, s.d.romReady = false := ⟨st, by decide +kernel⟩

theorem test_meets_LockedPartsStay : ∃ (s t : State) (i : Instr), exec i s = .next t ∧ (∀ flash, i ≠ .boot flash) ∧
    t.d.pwr.held = false ∧ s.lk.isLocked = true :=
  ⟨st {} { share := 0x8004050B }, _, .memShareWrite .secure 0, rfl, nofun, by decide +kernel, by decide +kernel⟩

theorem test_meets_SoundKept : ∃ s t : State, s.Sound ∧ step s = .next t :=
  ⟨st {} { share := 0x8004050B, coreEn := 0x3F }, _,
    ⟨by unfold Locked.sharesOk; decide +kernel, by unfold Locked.gradeOk; decide +kernel⟩, rfl⟩

end
end

section
/-! SUPPORT. The state of a core after a fault, the choice of the recorded fault, and bundles that execute scalar slots alone
(R79, R102, R103, R105). -/

namespace Sys2Proof.Machine

/-! ## A fault takes the core to FAULT -/

theorem Dev.core_eq_of_cores {d e : Dev} (h : e.cores = d.cores) (c : Nat) : e.core c = d.core c := by
  simp [Dev.core, h]

@[simp] theorem Dev.core_post (d : Dev) (p : Page) (n src sub inst : Nat) (bs : List Byte) (c : Nat) :
    (d.post p n src sub inst bs).core c = d.core c := Dev.core_eq_of_cores (Dev.post_cores ..) c

@[simp] theorem Dev.core_askEnd (d : Dev) (j : Nat) (e : JobEnd) (c : Nat) : (d.askEnd j e).core c = d.core c := rfl

@[simp] theorem Dev.core_spdUe (d : Dev) (n : Nat) (as : List Nat) (c : Nat) : (d.spdUe n as).core c = d.core c := by
  refine Dev.core_eq_of_cores ?_ c
  cases as with
  | nil => rfl
  | cons a as => simp only [Dev.spdUe]; split_ifs <;> simp

theorem Dev.takeMerged_state (d : Dev) {c : Nat} (hc : c < 8) :
    ((d.takeMerged c).core c).state = (d.core c).state := by
  simp only [Dev.takeMerged]
  split
  · rfl
  · simp [Dev.core_setCore _ _ _ _ hc]

theorem Dev.deliverEvt_state (d : Dev) {c : Nat} (hc : c < 8) :
    ((d.deliverEvt c).core c).state = (d.core c).state := by
  simp only [Dev.deliverEvt]
  split
  · rfl
  · simp [Dev.core_setCore _ _ _ _ hc]

theorem Dev.deliverEvts_state {α : Type} (es : List α) {c : Nat} (hc : c < 8) :
    ∀ d : Dev, ((es.foldl (fun d _ => d.deliverEvt c) d).core c).state = (d.core c).state := by
  induction es with
  | nil => intro d; rfl
  | cons e es ih => intro d; rw [List.foldl_cons, ih, Dev.deliverEvt_state d hc]

/-- FAULT is code 6 of CORE_STATUS.STATE (R102, R105). -/
theorem Dev.coreFault_state (d : Dev) {c : Nat} (hc : c < 8) (slot code info pc : Nat) :
    ((d.coreFault c slot code info pc).core c).state = 6 := by
  simp only [Dev.coreFault]
  split <;>
    simp [-List.foldl_append, Dev.deliverEvts_state _ hc, Dev.takeMerged_state _ hc, Dev.core_setCore _ _ _ _ hc]

theorem Dev.bundleFault_state (d : Dev) {c : Nat} (hc : c < 8) (ws : List Nat) (enc : List SlotFault) (f : SlotFault) :
    ((d.bundleFault c ws enc f).core c).state = 6 := Dev.coreFault_state _ hc ..

/-! ## The recorded fault -/

/-- Of some faults one is recorded (R103). -/
@[simp] theorem pickFault_eq_none {fs : List SlotFault} : pickFault fs = none ↔ fs = [] := by
  obtain rfl | ⟨l, a, rfl⟩ := List.eq_nil_or_concat fs
  · exact ⟨fun _ => rfl, fun _ => rfl⟩
  · simp only [pickFault, List.concat_eq_append, List.foldl_append, List.foldl_cons, List.foldl_nil]
    split
    · simp
    case h_2 hx => rw [hx]; split_ifs <;> simp

/-! ## A bundle whose slots from G on do nothing -/

/-- No slot from G on executes. -/
def LcSt.scalarOnly (l : LcSt) (ws : List Nat) : Prop := ∀ i < 8, 1 < i → l.executes (ws.getD i 0) = false

@[simp] theorem LcSt.executes_zero (l : LcSt) : l.executes 0 = false := by simp [LcSt.executes, opcOf, bits]

/-- Nor does one once the slots that fail to decode are blanked. -/
theorem LcSt.scalarOnly_blank {l : LcSt} {ws : List Nat} (h : l.scalarOnly ws) (b : Nat → Bool) :
    l.scalarOnly (ws.zipIdx.map fun p => if b p.2 then 0 else p.1) := by
  intro i hi h1
  have hw := h i hi h1
  simp only [List.getD_eq_getElem?_getD, List.getElem?_map, List.getElem?_zipIdx] at hw ⊢
  cases hget : ws[i]? with
  | none => simp
  | some w =>
    rw [hget] at hw
    cases hb : b i with
    | false => simpa [hb] using hw
    | true => simp [hb]

/-- Scalar slots take no charge (R567). -/
theorem bundleCharge_scalarOnly {l : LcSt} {ws : List Nat} (h : l.scalarOnly ws) (point : Nat) (x : CoreSt) :
    bundleCharge point x l ws = 0 := by
  simp [-List.getD_eq_getElem?_getD, bundleCharge, h 3, h 4]

@[simp] theorem Dev.govOk_zero (d : Dev) (c : Nat) : d.govOk c 0 = true := rfl

/-- Of the conditions of R79 none but the register interlock, a frozen Hatch and the governor can hold a bundle of scalar
slots. -/
theorem stallCodes_scalarOnly {l : LcSt} {ws : List Nat} (h : l.scalarOnly ws) (x : CoreSt) (free : Nat → Bool)
    (asked : Bool) : stallCodes x l ws free asked true = [] := by
  simp [-List.getD_eq_getElem?_getD, stallCodes, hacsWaits, ovcConflict, h 2, h 3, h 4, h 5, h 6, h 7]

theorem CoreSt.interlocked_of_noPoison {x : CoreSt} (h : x.poisonLoads = []) (l : LcSt) (ws : List Nat) :
    x.interlocked l ws = false := by
  simp [CoreSt.interlocked, h]

/-- A bundle of scalar slots faults when an operand of it does: its fault is recorded, or one of a slot that does not decode,
for nothing makes the bundle hold first (R73, R79, R91 to R93, R102, R103). -/
theorem Dev.tryBundle_scalarOnly_faults (d : Dev) {c : Nat} (hc : c < 8) (cc : Nat) (bad : Bool)
    (hload : (d.core c).poisonLoads = [])
    (hscalar : (d.core c).run.scalarOnly (slotsOf (d.core c).imem (d.core c).run.pc))
    (hvalue : valueFaults (d.core c) (d.core c).run d.sems.toList (slotsOf (d.core c).imem (d.core c).run.pc) ≠ []) :
    ((d.tryBundle c cc bad).core c).state = 6 := by
  cases bad with
  | true => exact Dev.coreFault_state d hc ..
  | false =>
    have hblank := LcSt.scalarOnly_blank hscalar fun i =>
      (encFaults (d.core c).run.pc (slotsOf (d.core c).imem (d.core c).run.pc)).any fun f => f.slot == i
    simp only [Dev.tryBundle, CoreSt.interlocked_of_noPoison hload, bundleCharge_scalarOnly hblank, Dev.govOk_zero,
      stallCodes_scalarOnly hblank, List.isEmpty_nil, Bool.or_true, Bool.false_eq_true, if_true, if_false]
    split
    · exact Dev.bundleFault_state d hc ..
    case h_2 hnone =>
      simp only [pickFault_eq_none, List.append_eq_nil_iff] at hnone
      obtain ⟨⟨⟨henc, hnil⟩, -⟩, -⟩ := hnone
      simp only [henc, List.any_nil, Bool.false_eq_true, if_false, List.zipIdx_map_fst] at hnil
      exact absurd hnil hvalue

/-! ## CALL and RET -/

/-- CALL on a full and RET on an empty return stack have a fault (R93). -/
theorem scalarFaults_returnStack {l : LcSt} {w : Nat} (slot : Nat)
    (h : (opcOf w = 0x41 ∧ 8 ≤ l.rstack.length) ∨ (opcOf w = 0x42 ∧ l.rstack = [])) : scalarFaults l slot w ≠ [] := by
  obtain ⟨ho, hr⟩ | ⟨ho, hr⟩ := h
  · simp [scalarFaults, ho, hr]
  · simp [scalarFaults, ho, hr]

theorem valueFaults_ne_nil_of_slot1 {x : CoreSt} {l : LcSt} {sems : List SemSt} {ws : List Nat}
    (hex : l.executes (ws.getD 1 0) = true) (h : scalarFaults l 1 (ws.getD 1 0) ≠ []) : valueFaults x l sems ws ≠ [] := by
  simp [-List.getD_eq_getElem?_getD, valueFaults, hex, h]

/-! ## BUNDLE_ISSUE -/

/-- A core that runs, whose logical core stays and whose Hatch is not frozen, tries its bundle (R79, R99, R193). -/
theorem effBundleIssue_tries {d : Dev} {c cc frozen : Nat} (e : SoftErr)
    (hstate : (d.core c).state = 2 ∨ (d.core c).state = 3) (hswitch : (d.core c).switchTo = none)
    (hfrozen : (d.core c).frozenNow cc frozen = false) :
    effBundleIssue c cc frozen e d = ((d.softErrors c e).passCycles c cc frozen).tryBundle c cc e.imem := by
  have hrun : ¬((d.core c).state ≠ 2 ∧ (d.core c).state ≠ 3) := by omega
  simp [effBundleIssue, hrun, hswitch, hfrozen]

end Sys2Proof.Machine

open Sys2Proof Sys2Proof.Machine

/-- Settles O59: no slot from G on executes, so the bundle holds on nothing, and the fault of its S1 slot is among those of
which one is recorded. -/
theorem returnStackFaults : Obligations.ReturnStackFaults := by
  unfold Obligations.ReturnStackFaults
  intro s c cc fr cor imem bad x ws w hstate hswitch hfrozen hload hslots hex hstack
  have hscalar : x.run.scalarOnly ws := fun i hi h1 =>
    (hslots i hi h1).elim id fun h0 => by rw [h0, LcSt.executes_zero]
  refine ⟨_, rfl, ?_⟩
  rw [State.onDev_d, effBundleIssue_tries _ hstate hswitch hfrozen]
  exact Dev.tryBundle_scalarOnly_faults _ c.isLt cc _ hload hscalar
    (valueFaults_ne_nil_of_slot1 hex (scalarFaults_returnStack 1 hstack))

end

section
/-! SUPPORT. Words in a byte memory: what a read of bytes and of words gives after a store (R9). -/

namespace Sys2Proof.Machine

@[simp] theorem length_leBytes (n v : Nat) : (leBytes n v).length = n := by
  induction n generalizing v with
  | zero => rfl
  | succ n ih => simp [leBytes, ih]

/-- The little-endian bytes of a number give back its low bytes (R9). -/
theorem leNat_leBytes (n v : Nat) : leNat (leBytes n v) = v % 256 ^ n := by
  induction n generalizing v with
  | zero => simp [leBytes, leNat, Nat.mod_one]
  | succ n ih => simp [leBytes, leNat, ih, Nat.pow_succ', Nat.mod_mul]

theorem length_flatMap_leBytes (k : Nat) (ws : List Nat) : (ws.flatMap (leBytes k)).length = k * ws.length := by
  induction ws with
  | nil => rfl
  | cons w ws ih => simp [ih, Nat.mul_succ, Nat.add_comm]

/-- Word `i` of a row of words stands `k * i` bytes into its bytes. -/
theorem take_drop_flatMap_leBytes (k : Nat) {ws : List Nat} {i : Nat} (hi : i < ws.length) :
    ((ws.flatMap (leBytes k)).drop (k * i)).take k = leBytes k ws[i] := by
  induction ws generalizing i with
  | nil => simp at hi
  | cons w ws ih =>
    cases i with
    | zero => simp
    | succ i =>
      have h : k * (i + 1) = (leBytes k w).length + k * i := by rw [length_leBytes, Nat.mul_succ, Nat.add_comm]
      rw [List.flatMap_cons, h, List.drop_length_add_append]
      exact ih (Nat.lt_of_succ_lt_succ hi)

theorem Mem.readNat_congr {m m' : Mem} {a n : Nat} (h : ∀ b, a ≤ b → b < a + n → m'.byte b = m.byte b) :
    m'.readNat a n = m.readNat a n := by
  unfold Mem.readNat Mem.read
  congr 1
  refine List.map_congr_left fun i hi => h _ (Nat.le_add_right a i) ?_
  have := List.mem_range.1 hi
  omega

/-- Bytes of a store are read back from inside it. -/
theorem Mem.read_store_inside (m : Mem) (a : Nat) (bs : List Byte) (p : Bool) {k n : Nat} (h : k + n ≤ bs.length) :
    (m.store a bs p).read (a + k) n = (bs.drop k).take n := by
  apply List.ext_getElem (by simp; omega)
  intro i hi _
  have hi : i < n := by simpa using hi
  simp only [Mem.read, List.getElem_map, List.getElem_range, Mem.byte_store, List.getElem_take, List.getElem_drop]
  rw [if_pos (by omega), show a + k + i - a = k + i by omega, List.getD_eq_getElem _ _ (by omega)]

/-- A word of a stored row of 32-bit words. -/
theorem Mem.readNat_store_words (m : Mem) (a : Nat) (ws : List Nat) (p : Bool) {i : Nat} (hi : i < ws.length) :
    (m.store a (ws.flatMap (leBytes 4)) p).readNat (a + 4 * i) 4 = ws[i] % 2 ^ 32 := by
  rw [Mem.readNat, Mem.read_store_inside _ _ _ _ (by rw [length_flatMap_leBytes]; omega),
    take_drop_flatMap_leBytes 4 hi, leNat_leBytes]
  rfl

theorem CoreMem.nat_accm (m : CoreMem) (a n : Nat) : m.nat (accmBase + a) n = m.accm.readNat a n := by
  simp [CoreMem.nat, CoreMem.read, Mem.readNat]

theorem CoreMem.read_accm (m : CoreMem) (a n : Nat) : m.read (accmBase + a) n = m.accm.read a n := by
  simp [CoreMem.read]

/-! ## Lists and folds -/

@[simp] theorem length_rangeFrom (lo n : Nat) : (rangeFrom lo n).length = n := by simp [rangeFrom]

/-- The numbers below `m` of a range are its first ones. -/
theorem filter_lt_rangeFrom (lo n m : Nat) :
    (rangeFrom lo n).filter (fun j => decide (j < m)) = rangeFrom lo (min n (m - lo)) := by
  induction n with
  | zero => simp [rangeFrom]
  | succ n ih =>
    have hsucc (k : Nat) : rangeFrom lo (k + 1) = rangeFrom lo k ++ [lo + k] := by simp [rangeFrom, List.range_succ]
    rw [hsucc, List.filter_append, ih]
    by_cases h : lo + n < m
    · rw [show min (n + 1) (m - lo) = n + 1 by omega, show min n (m - lo) = n by omega, hsucc]
      simp [h]
    · rw [show min (n + 1) (m - lo) = min n (m - lo) by omega]
      simp [h]

/-- An invariant that counts the steps of a fold over `0, …, n - 1`. -/
theorem foldl_range_invariant {σ : Type} (P : Nat → σ → Prop) {f : σ → Nat → σ} {s : σ} (n : Nat) (h0 : P 0 s)
    (hstep : ∀ k < n, ∀ t, P k t → P (k + 1) (f t k)) : P n ((List.range n).foldl f s) := by
  induction n with
  | zero => exact h0
  | succ n ih =>
    rw [List.range_succ, List.foldl_append]
    exact hstep n n.lt_succ_self _ (ih fun k hk => hstep k (hk.trans n.lt_succ_self))

end Sys2Proof.Machine
end

section
/-! SUPPORT. What the ACCM phase of a pass writes, beat by beat of 16 columns (R109, R113). -/

namespace Sys2Proof.Machine

/-- Rows of a tile and tiles follow one another, 512 bytes a row (R113). -/
theorem accmOff_eq (tb n j : Nat) : accmOff tb n j = tb * 0x10000 + 512 * n + 4 * j := by
  unfold accmOff; omega

/-- The code that element (n, j) of a pass leaves over the ACCM contents `accm` (R109). -/
def PassRec.element (p : PassRec) (accm : Mem) (n j : Nat) : Nat :=
  (accElement (!p.cmd.fmov.isInt) p.cmd.acc (accm.readNat (accmOff p.cmd.tb n j) 4)
    ((p.sums.1.getD n []).getD j .nan)).1

/-- `after` is `before` with the elements of the pass written that come before place `e`, places being counted 128 to a
row. -/
structure PassRec.WroteBelow (p : PassRec) (before : Mem) (e : Nat) (after : Mem) : Prop where
  written : ∀ n j, j < p.m → 128 * n + j < e →
    after.readNat (accmOff p.cmd.tb n j) 4 = p.element before n j % 2 ^ 32
  untouched : ∀ a, (∀ n j, j < p.m → 128 * n + j < e →
    a < accmOff p.cmd.tb n j ∨ accmOff p.cmd.tb n j + 4 ≤ a) → after.byte a = before.byte a

theorem PassRec.WroteBelow.refl (p : PassRec) (accm : Mem) : p.WroteBelow accm 0 accm :=
  ⟨fun _ _ _ h => absurd h (Nat.not_lt_zero _), fun _ _ => rfl⟩

/-- Places without an element do not count. -/
theorem PassRec.WroteBelow.congr {p : PassRec} {before after : Mem} {e e' : Nat} (h : p.WroteBelow before e after)
    (he : ∀ n j, j < p.m → (128 * n + j < e ↔ 128 * n + j < e')) : p.WroteBelow before e' after :=
  ⟨fun n j hj hlt => h.written n j hj ((he n j hj).2 hlt),
    fun a ha => h.untouched a fun n j hj hlt => ha n j hj ((he n j hj).1 hlt)⟩

/-- An element not yet written still holds its old word. -/
theorem PassRec.WroteBelow.element_eq {p : PassRec} {before after : Mem} {e n j : Nat}
    (h : p.WroteBelow before e after) (he : e ≤ 128 * n + j) :
    p.element after n j = p.element before n j := by
  unfold PassRec.element
  rw [Mem.readNat_congr fun b hb hb' => h.untouched b fun n' j' hj' hlt => ?_]
  rw [accmOff_eq] at hb hb' ⊢
  omega

/-- The store of beat `b` of row `n` writes the elements of its up to 16 columns and no other byte. -/
theorem PassRec.WroteBelow.beat {p : PassRec} {before after : Mem} {n b : Nat} (hm : p.m ≤ 128) (hb : 16 * b < p.m)
    (h : p.WroteBelow before (128 * n + 16 * b) after) (pois : Bool) :
    p.WroteBelow before (128 * n + 16 * (b + 1)) (after.store (accmOff p.cmd.tb n (16 * b))
      (((rangeFrom (16 * b) (min 16 (p.m - 16 * b))).map (p.element after n)).flatMap (leBytes 4)) pois) := by
  have hlen : (((rangeFrom (16 * b) (min 16 (p.m - 16 * b))).map (p.element after n)).flatMap (leBytes 4)).length =
      4 * min 16 (p.m - 16 * b) := by simp only [length_flatMap_leBytes, List.length_map, length_rangeFrom]
  constructor
  · intro n' j hj hlt
    by_cases hold : 128 * n' + j < 128 * n + 16 * b
    · rw [← h.written n' j hj hold]
      refine Mem.readNat_congr fun x hx hx' => ?_
      rw [Mem.byte_store, if_neg]
      rw [accmOff_eq] at hx hx' ⊢
      omega
    · obtain ⟨i, hi, rfl, rfl⟩ : ∃ i, i < min 16 (p.m - 16 * b) ∧ n' = n ∧ j = 16 * b + i :=
        ⟨j - 16 * b, by omega, by omega, by omega⟩
      rw [show accmOff p.cmd.tb n' (16 * b + i) = accmOff p.cmd.tb n' (16 * b) + 4 * i by simp only [accmOff_eq]; omega,
        Mem.readNat_store_words _ _ _ _ (by simpa using hi)]
      simp only [rangeFrom, List.getElem_map, List.getElem_range]
      rw [h.element_eq (by omega)]
  · intro a ha
    rw [Mem.byte_store, if_neg]
    · exact h.untouched a fun n' j hj hlt => ha n' j hj (by omega)
    · rintro ⟨hlo, hhi⟩
      obtain ⟨x, rfl⟩ := Nat.exists_eq_add_of_le hlo
      have := ha n (16 * b + x / 4) (by omega) (by omega)
      simp only [accmOff_eq] at this hhi
      omega

/-- A row of the pass goes to ACCM whole. -/
theorem PassRec.WroteBelow.row {p : PassRec} {before : Mem} {n : Nat} {o : PassOut} (hm : p.m ≤ 128)
    (h : p.WroteBelow before (128 * n) o.accm) (parity : List Nat) :
    p.WroteBelow before (128 * (n + 1)) (p.accmRow parity (p.sums.1.getD n []) n o).accm := by
  have hbeats : p.WroteBelow before (128 * n + 16 * ceilDiv p.m 16)
      (p.accmRow parity (p.sums.1.getD n []) n o).accm := by
    refine foldl_range_invariant (fun b (t : PassOut) => p.WroteBelow before (128 * n + 16 * b) t.accm) _ h
      fun b hb t ht => ?_
    have hcol : 16 * b < p.m := by unfold ceilDiv at hb; omega
    simp only [filter_lt_rangeFrom, List.flatMap_map]
    simpa only [List.flatMap_map, PassRec.element] using ht.beat hm hcol _
  exact hbeats.congr fun n' j hj => by unfold ceilDiv; omega

theorem PassRec.runAccm_wroteBelow {p : PassRec} (hm : p.m ≤ 128) (parity : List Nat) (o : PassOut) :
    p.WroteBelow o.accm (128 * p.n) (p.runAccm parity o).accm :=
  foldl_range_invariant (fun n (t : PassOut) => p.WroteBelow o.accm (128 * n) t.accm) _ (.refl p o.accm)
    fun _ _ _ ht => ht.row hm parity

/-! ## The proof chain leaves ACCM alone -/

@[simp] theorem PassRec.chainRow_accm (p : PassRec) (cols : List (Val × Val)) (words : List Nat) (pois : List Bool)
    (n : Nat) (o : PassOut) : (p.chainRow cols words pois n o).accm = o.accm :=
  List.foldlRecOn (motive := fun t : PassOut => t.accm = o.accm) _ _ rfl fun _ h _ _ => h

@[simp] theorem PassRec.runChain_accm (p : PassRec) (rows : List (List Nat × List Bool)) (o : PassOut) :
    (p.runChain rows o).accm = o.accm :=
  List.foldlRecOn (motive := fun t : PassOut => t.accm = o.accm) _ _ rfl
    fun t h _ _ => (p.chainRow_accm _ _ _ _ t).trans h

/-- A pass leaves in ACCM its elements over what stood there (R109, R113). -/
theorem PassRec.run_wroteBelow {p : PassRec} (hm : p.m ≤ 128) (parity : List Nat) (spad accm : Mem) :
    p.WroteBelow accm (128 * p.n) (p.run parity spad accm).accm := by
  have h := PassRec.runAccm_wroteBelow hm parity
    { spad := spad, accm := accm, ev := {}, src := [], poisoned := false, ue := [] }
  unfold PassRec.run
  split_ifs
  · rwa [PassRec.runChain_accm]
  · exact h

end Sys2Proof.Machine

open Sys2Proof Sys2Proof.Machine

/-- Settles O9: the stores of a pass are those of its elements, each over a word that none of the stores before it touched,
and the proof chain stores to SPAD alone. -/
theorem passSumsInAccm : Obligations.PassSumsInAccm := by
  unfold Obligations.PassSumsInAccm
  intro p parity spad accm hm o old new ad
  have had (n j : Nat) : ad n j = accmBase + accmOff p.cmd.tb n j := by simp only [ad, accmBase, accmOff]; omega
  have hrun : p.WroteBelow accm (128 * p.n) o.accm := PassRec.run_wroteBelow hm parity spad accm
  constructor
  · intro n j hn hj
    rw [had, CoreMem.nat_accm, CoreMem.nat_accm]
    exact hrun.written n j hj (by omega)
  · intro a ha hfree
    obtain ⟨x, rfl⟩ : ∃ x, a = accmBase + x := Nat.exists_eq_add_of_le ha
    have hbyte : o.accm.byte x = accm.byte x := hrun.untouched x fun n j hj hlt => by
      have := hfree n j (by omega) hj
      rw [had] at this
      omega
    rw [CoreMem.read_accm, CoreMem.read_accm]
    simpa [Mem.read] using hbyte

end

section
/-! SUPPORT. IRQ_RAW bit by bit (R592). -/

namespace Sys2Proof.Machine

/-- Bit `i` of a mask that is built bit by bit tells of entry `i` of its list. -/
theorem testBit_zipIdx_mask (f : Nat → Bool) (l : List Nat) :
    let mask := l.zipIdx.foldl (fun m x => if f x.1 then m + 2 ^ x.2 else m) 0
    mask < 2 ^ l.length ∧ ∀ i, mask.testBit i = (decide (i < l.length) && f (l.getD i 0)) := by
  induction l using List.reverseRecOn with
  | nil => simp
  | append_singleton l x ih =>
    obtain ⟨hlt, hbit⟩ := ih
    simp only [List.zipIdx_append, List.foldl_append, List.zipIdx_singleton, List.foldl_cons, List.foldl_nil,
      List.length_append, List.length_singleton, Nat.zero_add]
    generalize l.zipIdx.foldl (fun m x => if f x.1 then m + 2 ^ x.2 else m) 0 = m at hlt hbit ⊢
    have hadd : (if f x then m + 2 ^ l.length else m) = 2 ^ l.length * (f x).toNat + m := by
      cases f x <;> simp [Nat.add_comm]
    refine ⟨by split_ifs <;> rw [Nat.pow_succ] <;> omega, fun i => ?_⟩
    rw [hadd, Nat.testBit_two_pow_mul_add _ hlt]
    obtain hi | rfl | hi := Nat.lt_trichotomy i l.length
    · simp [hi, hbit, Nat.lt_succ_of_lt hi]
    · simp [Nat.testBit_bool_toNat, -Nat.testBit_zero]
    · simp [Nat.testBit_bool_toNat, Nat.not_lt_of_gt hi, Nat.sub_ne_zero_of_lt hi, Nat.not_lt.2 (Nat.succ_le_of_lt hi)]

@[simp] theorem Dev.regValue_irqRaw (d : Dev) (lk : Locked) (p : Page) (n : Nat) :
    d.regValue lk p n 0x018 = d.irqRaw p n := rfl

/-- Outside the SEM page bit `i` of IRQ_RAW follows the sticky bit that the page's table names `i`-th (R592). -/
theorem Dev.bit_irqRaw (d : Dev) {p : Page} (hp : p ≠ .sem) (n i : Nat) :
    bit (d.irqRaw p n) i = (decide (i < p.sticky.2.length) && d.flag p n p.sticky.1 (p.sticky.2.getD i 0)) := by
  rw [Dev.irqRaw, if_neg hp]
  exact (testBit_zipIdx_mask (d.flag p n p.sticky.1) p.sticky.2).2 i

/-- The entries of `[0, …, n - 1]` are their own places. -/
theorem decide_and_getD_range (f : Nat → Bool) (n i : Nat) :
    (decide (i < n) && f ((List.range n).getD i 0)) = (decide (i < n) && f i) := by
  by_cases h : i < n <;> simp [h]

/-- A register is not 0 exactly when one of its 32 bits is set. -/
theorem Dev.reg_ne_zero_iff (d : Dev) (p : Page) (n o : Nat) :
    d.reg p n o ≠ 0 ↔ ∃ i < 32, d.flag p n o i = true := by
  constructor
  · intro h
    obtain ⟨i, hi⟩ := Nat.exists_testBit_of_ne_zero h
    exact ⟨i, (Nat.pow_lt_pow_iff_right (by decide)).1 ((Nat.ge_two_pow_of_testBit hi).trans_lt (d.reg_lt p n o)), hi⟩
  · rintro ⟨i, -, hi⟩ h
    simp [Dev.flag, bit, h] at hi

/-- The one bit of SEM's IRQ_RAW follows all 64 bits of SEM_BROKEN (R417). -/
theorem Dev.irqRaw_sem (d : Dev) (n : Nat) : d.irqRaw .sem n =
    b2n ((List.range 64).any fun k => d.flag .sem 0 (0x108 + 4 * (k / 32)) (k % 32)) := by
  rw [Dev.irqRaw, if_pos rfl]
  congr 1
  rw [Bool.eq_iff_iff]
  simp only [Bool.or_eq_true, bne_iff_ne, Dev.reg_ne_zero_iff, List.any_eq_true, List.mem_range]
  constructor
  · rintro (⟨i, hi, hf⟩ | ⟨i, hi, hf⟩)
    · exact ⟨i, by omega, by rwa [Nat.div_eq_of_lt hi, Nat.mod_eq_of_lt hi]⟩
    · refine ⟨32 + i, by omega, ?_⟩
      rwa [show (32 + i) / 32 = 1 by omega, show (32 + i) % 32 = i by omega]
  · rintro ⟨k, hk, hf⟩
    obtain h | h : k / 32 = 0 ∨ k / 32 = 1 := by omega
    · exact .inl ⟨k % 32, by omega, by rwa [h] at hf⟩
    · exact .inr ⟨k % 32, by omega, by rwa [h] at hf⟩

theorem bit_b2n (b : Bool) (i : Nat) : bit (b2n b) i = (decide (i = 0) && b) := by
  rw [← Nat.testBit_bool_toNat]
  cases b <;> rfl

end Sys2Proof.Machine

open Sys2Proof Sys2Proof.Machine

/-- Settles O51: but for SEM a page's bits are the entries of its own sticky table, which lists them in the
section's order. -/
theorem irqRawFollowsSticky : Obligations.IrqRawFollowsSticky := by
  unfold Obligations.IrqRawFollowsSticky
  simp only [Dev.regValue_irqRaw]
  refine ⟨fun lk d n i => ?eth, fun lk d i => ?fhc, fun lk d i => ?fec, fun lk d i => ?det, fun lk d i => ?pwr,
    fun lk d i => ?hq, fun lk d n i => ?hch, fun lk d n i => ?gln, fun lk d n i => ?plt, fun lk d i => ?sem⟩
  case eth => exact (d.bit_irqRaw (p := .eth) nofun n i).trans (decide_and_getD_range (d.flag .eth n 0x13C) 5 i)
  case fhc => exact (d.bit_irqRaw (p := .fhc) nofun 0 i).trans (decide_and_getD_range (d.flag .fhc 0 0x11C) 5 i)
  case fec => exact (d.bit_irqRaw (p := .fec) nofun 0 i).trans (decide_and_getD_range (d.flag .fec 0 0x140) 3 i)
  case det => exact (d.bit_irqRaw (p := .det) nofun 0 i).trans (decide_and_getD_range (d.flag .det 0 0x120) 3 i)
  case pwr => exact (d.bit_irqRaw (p := .pwr) nofun 0 i).trans (decide_and_getD_range (d.flag .pwr 0 0x148) 3 i)
  case hq => exact (d.bit_irqRaw (p := .hq) nofun 0 i).trans (decide_and_getD_range (d.flag .hq 0 0x110) 2 i)
  case hch => exact d.bit_irqRaw (p := .hch) nofun n i
  case gln => exact d.bit_irqRaw (p := .gln) nofun n i
  case plt => exact d.bit_irqRaw (p := .plt) nofun n i
  case sem => rw [Dev.irqRaw_sem, bit_b2n]

end

section
/-! SUPPORT. Bit fields, and what the shared updates leave in every register (R11, R592, R594). -/

namespace Sys2Proof.Machine

/-! ## Bit fields -/

theorem putBits_eq {n hi lo v : Nat} (h : lo ≤ hi + 1) :
    putBits n hi lo v =
      2 ^ lo * (2 ^ (hi + 1 - lo) * (n / 2 ^ (hi + 1)) + v % 2 ^ (hi + 1 - lo)) + n % 2 ^ lo := by
  have hw : (2 : Nat) ^ (hi + 1) = 2 ^ lo * 2 ^ (hi + 1 - lo) := by rw [← Nat.pow_add]; congr 1; omega
  have hn : 2 ^ lo * (2 ^ (hi + 1 - lo) * (n / 2 ^ (hi + 1)) + n / 2 ^ lo % 2 ^ (hi + 1 - lo)) + n % 2 ^ lo = n := by
    rw [hw, ← Nat.div_div_eq_div_mul, Nat.div_add_mod, Nat.div_add_mod]
  unfold putBits bits
  rw [Nat.shiftRight_eq_div_pow]
  rw [Nat.mul_add] at hn ⊢
  rw [Nat.mul_comm (_ % _) (2 ^ lo), Nat.mul_comm (v % _) (2 ^ lo)]
  omega

theorem testBit_putBits {hi lo : Nat} (h : lo ≤ hi + 1) (n v i : Nat) :
    (putBits n hi lo v).testBit i = if lo ≤ i ∧ i ≤ hi then v.testBit (i - lo) else n.testBit i := by
  rw [putBits_eq h, Nat.testBit_two_pow_mul_add _ (Nat.mod_lt _ (by positivity)),
    Nat.testBit_two_pow_mul_add _ (Nat.mod_lt _ (by positivity))]
  obtain hi1 | hi1 | hi1 : i < lo ∨ (lo ≤ i ∧ i ≤ hi) ∨ hi < i := by omega
  · rw [if_pos hi1, if_neg (by omega), Nat.testBit_mod_two_pow]; simp [hi1]
  · rw [if_neg (by omega), if_pos (by omega), if_pos hi1, Nat.testBit_mod_two_pow]; simp; omega
  · by_cases hlo : i < lo
    · omega
    · rw [if_neg hlo, if_neg (by omega), if_neg (by omega), Nat.testBit_div_two_pow]
      congr 1; omega

theorem testBit_bits (n hi lo i : Nat) : (bits n hi lo).testBit i = (decide (i < hi + 1 - lo) && n.testBit (lo + i)) := by
  rw [bits, Nat.testBit_mod_two_pow, Nat.testBit_shiftRight]

/-- Only the bits of the field move, so the register stays a 32-bit word. -/
theorem putBits_lt {n hi lo v : Nat} (hn : n < 2 ^ 32) (h : lo ≤ hi + 1) (hh : hi < 32) : putBits n hi lo v < 2 ^ 32 := by
  refine Nat.lt_pow_two_of_testBit _ fun i hi' => ?_
  rw [testBit_putBits h, if_neg (by omega)]
  exact Nat.testBit_lt_two_pow (hn.trans_le (Nat.pow_le_pow_right (by decide) hi'))

theorem bits_putBits {hi lo : Nat} (h : lo ≤ hi + 1) (n v : Nat) : bits (putBits n hi lo v) hi lo = v % 2 ^ (hi + 1 - lo) := by
  refine Nat.eq_of_testBit_eq fun i => ?_
  rw [testBit_bits, testBit_putBits h, Nat.testBit_mod_two_pow]
  by_cases hi' : i < hi + 1 - lo
  · simp [hi', show lo + i ≤ hi by omega]
  · simp [hi']

theorem bits_putBits_of_disjoint {hi lo hi' lo' : Nat} (h : lo ≤ hi + 1) (hd : hi' < lo ∨ hi < lo') (n v : Nat) :
    bits (putBits n hi lo v) hi' lo' = bits n hi' lo' := by
  refine Nat.eq_of_testBit_eq fun i => ?_
  rw [testBit_bits, testBit_bits, testBit_putBits h]
  by_cases hi1 : i < hi' + 1 - lo'
  · rw [if_neg (by omega)]
  · simp [hi1]

theorem bits_lt (n hi lo : Nat) : bits n hi lo < 2 ^ (hi + 1 - lo) := Nat.mod_lt _ (by positivity)

theorem bit_or_two_pow (n b i : Nat) : bit (n ||| 2 ^ b) i = (bit n i || decide (b = i)) := by
  simp [bit, Nat.testBit_or, Nat.testBit_two_pow]

theorem satAdd_lt (a b : Nat) : satAdd a b < 2 ^ 32 := by
  unfold satAdd count32Max; split_ifs <;> omega

theorem satAdd_zero {a : Nat} (h : a < 2 ^ 32) : satAdd a 0 = a := by
  unfold satAdd count32Max; split_ifs <;> omega

/-! ## One register after one update -/

theorem Dev.reg_bump (d : Dev) (p q : Page) (n m o i k : Nat) :
    (d.bump p n o k).reg q m i = if q.base m + i = p.base n + o then satAdd (d.reg p n o) k else d.reg q m i := by
  unfold Dev.bump
  by_cases hk : k = 0
  · subst hk
    rw [if_pos rfl, satAdd_zero (d.reg_lt ..)]
    split_ifs with h
    · simp [Dev.reg, h]
    · rfl
  · rw [if_neg hk, Dev.reg_setReg, Nat.mod_eq_of_lt (satAdd_lt ..)]

@[simp] theorem Dev.reg_bump_self (d : Dev) (p : Page) (n o k : Nat) :
    (d.bump p n o k).reg p n o = satAdd (d.reg p n o) k := by simp [Dev.reg_bump]

theorem Dev.reg_setFld (d : Dev) (p q : Page) (n m o i hi lo v : Nat) (h : lo ≤ hi + 1) (hh : hi < 32) :
    (d.setFld p n o hi lo v).reg q m i =
      if q.base m + i = p.base n + o then putBits (d.reg p n o) hi lo v else d.reg q m i := by
  rw [Dev.setFld, Dev.reg_setReg, Nat.mod_eq_of_lt (putBits_lt (d.reg_lt ..) h hh)]

theorem Dev.reg_setFld_self (d : Dev) (p : Page) (n o hi lo v : Nat) (h : lo ≤ hi + 1) (hh : hi < 32) :
    (d.setFld p n o hi lo v).reg p n o = putBits (d.reg p n o) hi lo v := by simp [Dev.reg_setFld, h, hh]

theorem Dev.fld_setFld_self (d : Dev) (p : Page) (n o hi lo v : Nat) (h : lo ≤ hi + 1) (hh : hi < 32) :
    (d.setFld p n o hi lo v).fld p n o hi lo = v % 2 ^ (hi + 1 - lo) := by
  rw [Dev.fld, Dev.reg_setFld_self _ _ _ _ _ _ _ h hh, bits_putBits h]

theorem Dev.flag_setFld_self (d : Dev) (p : Page) (n o hi lo v i : Nat) (h : lo ≤ hi + 1) (hh : hi < 32) :
    (d.setFld p n o hi lo v).flag p n o i = if lo ≤ i ∧ i ≤ hi then v.testBit (i - lo) else d.flag p n o i := by
  rw [Dev.flag, Dev.reg_setFld_self _ _ _ _ _ _ _ h hh, bit, testBit_putBits h]; rfl

/-- The sticky register of a page lies in its block, past the header. -/
theorem Page.sticky_off (p : Page) : p.sticky.1 ≠ 0x020 := by cases p <;> decide

theorem Dev.reg_sticky_self (d : Dev) (p : Page) (n : Nat) {b : Nat} (hb : b < 32) :
    (d.sticky p n b).reg p n p.sticky.1 = d.reg p n p.sticky.1 ||| 2 ^ b := by
  have h1 : d.reg p n p.sticky.1 ||| 2 ^ b < 2 ^ 32 :=
    Nat.or_lt_two_pow (d.reg_lt ..) (Nat.pow_lt_pow_right (by decide) hb)
  unfold Dev.sticky
  simp only
  split
  · rw [Dev.reg_setReg_self, Nat.mod_eq_of_lt h1]
  · rw [Dev.reg_setReg_off _ _ _ _ p.sticky_off, Dev.reg_setReg_self, Nat.mod_eq_of_lt h1]

theorem Dev.flag_sticky_self (d : Dev) (p : Page) (n : Nat) {b : Nat} (hb : b < 32) (i : Nat) :
    (d.sticky p n b).flag p n p.sticky.1 i = (d.flag p n p.sticky.1 i || decide (b = i)) := by
  rw [Dev.flag, Dev.reg_sticky_self _ _ _ hb, bit_or_two_pow]; rfl

theorem Dev.reg_err_count (d : Dev) (p : Page) (n c o : Nat) : (d.err p n c o).reg p n 0x02C = satAdd (d.reg p n 0x02C) 1 := by
  unfold Dev.err
  simp only
  split
  · simp
  · rw [Dev.reg_setReg_off _ _ _ _ (by decide)]; simp

/-! ## What an update may change -/

theorem Dev.keepsRegs.refl (d : Dev) (l : List RegAt) : d.keepsRegs d l := fun _ _ _ _ => rfl

theorem Dev.keepsRegs_of_rg {d e : Dev} (h : e.rg = d.rg) (l : List RegAt) : d.keepsRegs e l :=
  fun p n o _ => by simp [Dev.reg, h]

theorem Dev.keepsRegs.trans {d e f : Dev} {l : List RegAt} (h : d.keepsRegs e l) (k : e.keepsRegs f l) : d.keepsRegs f l :=
  fun p n o ha => (k p n o ha).trans (h p n o ha)

theorem Dev.keepsRegs.mono {d e : Dev} {l m : List RegAt} (h : d.keepsRegs e l) (hs : l ⊆ m) : d.keepsRegs e m :=
  fun p n o ha => h p n o fun hm => ha (List.map_subset _ hs hm)

/-- What follows a change of registers alone may be put in front of another frame. -/
theorem Dev.keepsRegs.rg_right {d e f : Dev} {l : List RegAt} (h : d.keepsRegs e l) (hr : f.rg = e.rg) : d.keepsRegs f l :=
  h.trans (Dev.keepsRegs_of_rg hr l)

theorem Dev.keepsRegs_setReg (d : Dev) (p : Page) (n o v : Nat) {l : List RegAt} (h : (p, n, o) ∈ l) :
    d.keepsRegs (d.setReg p n o v) l := by
  intro q k i hi
  rw [Dev.reg_setReg, if_neg]
  intro he
  exact hi (List.mem_map.2 ⟨_, h, he.symm⟩)

theorem Dev.keepsRegs_setFld (d : Dev) (p : Page) (n o hi lo v : Nat) {l : List RegAt} (h : (p, n, o) ∈ l) :
    d.keepsRegs (d.setFld p n o hi lo v) l := d.keepsRegs_setReg p n o _ h

theorem Dev.keepsRegs_bump (d : Dev) (p : Page) (n o k : Nat) {l : List RegAt} (h : (p, n, o) ∈ l) :
    d.keepsRegs (d.bump p n o k) l := by
  unfold Dev.bump
  split_ifs
  · exact .refl d l
  · exact d.keepsRegs_setReg p n o _ h

theorem Dev.keepsRegs_sticky (d : Dev) (p : Page) (n b : Nat) {l : List RegAt} (h : (p, n, p.sticky.1) ∈ l)
    (h20 : (p, n, 0x020) ∈ l) : d.keepsRegs (d.sticky p n b) l := by
  unfold Dev.sticky
  simp only
  split
  · exact d.keepsRegs_setReg p n _ _ h
  · exact (d.keepsRegs_setReg p n _ _ h).trans (Dev.keepsRegs_setReg _ p n _ _ h20)

theorem Dev.keepsRegs_err (d : Dev) (p : Page) (n c o : Nat) {l : List RegAt} (h : (p, n, 0x028) ∈ l)
    (h2c : (p, n, 0x02C) ∈ l) : d.keepsRegs (d.err p n c o) l := by
  unfold Dev.err
  simp only
  split
  · exact d.keepsRegs_bump p n _ _ h2c
  · exact (d.keepsRegs_bump p n _ _ h2c).trans (Dev.keepsRegs_setReg _ p n _ _ h)

/-- An event is discarded, lost with its SEQ consumed, or waits behind the others (R521, R552, R553). -/
theorem Dev.post_cases (d : Dev) (p : Page) (n src sub inst : Nat) (bs : List Byte) :
    d.post p n src sub inst bs = d ∨
    (∃ k, d.post p n src sub inst bs =
      (Dev.bump { d with pci := { d.pci with evSeq := k } } .pci 0 0x184 1).sticky .pci 0 1) ∨
    ∃ k r, d.post p n src sub inst bs =
      { d with pci := { d.pci with evSeq := k, events := d.pci.events ++ [r] } } := by
  unfold Dev.post
  dsimp only
  generalize (if d.ringsOn = true then d.ringFree 4 else 0) + 256 = room
  split_ifs
  · exact .inl rfl
  · exact .inr (.inl ⟨_, rfl⟩)
  · exact .inr (.inr ⟨_, _, rfl⟩)

/-- No event changes a register but those of a lost one (R552). -/
theorem Dev.keepsRegs_post (d : Dev) (p : Page) (n src sub inst : Nat) (bs : List Byte) {l : List RegAt} (h : evtRegs ⊆ l) :
    d.keepsRegs (d.post p n src sub inst bs) l := by
  refine Dev.keepsRegs.mono (l := evtRegs) ?_ h
  obtain he | ⟨k, he⟩ | ⟨k, r, he⟩ := d.post_cases p n src sub inst bs
  · exact Dev.keepsRegs_of_rg (by rw [he]) _
  · rw [he]
    have h0 : d.keepsRegs { d with pci := { d.pci with evSeq := k } } evtRegs := Dev.keepsRegs_of_rg rfl _
    exact (h0.trans (Dev.keepsRegs_bump _ .pci 0 0x184 1 (by simp [evtRegs]))).trans
      (Dev.keepsRegs_sticky _ .pci 0 1 (by simp [evtRegs, Page.sticky]) (by simp [evtRegs]))
  · exact Dev.keepsRegs_of_rg (by rw [he]) _

/-! ## The queue of events -/

theorem Dev.keepsPci_of_pci {d e : Dev} (h : e.pci = d.pci) : d.keepsPci e := by
  unfold Dev.keepsPci; rw [h]; exact ⟨rfl, List.prefix_rfl⟩

theorem Dev.keepsPci.trans {d e f : Dev} (h : d.keepsPci e) (k : e.keepsPci f) : d.keepsPci f := by
  obtain ⟨h1, h2⟩ := h
  obtain ⟨k1, k2⟩ := k
  refine ⟨?_, h2.trans k2⟩
  rw [k1, h1]

theorem Dev.keepsPci_post (d : Dev) (p : Page) (n src sub inst : Nat) (bs : List Byte) :
    d.keepsPci (d.post p n src sub inst bs) := by
  obtain he | ⟨k, he⟩ | ⟨k, r, he⟩ := d.post_cases p n src sub inst bs
  · exact Dev.keepsPci_of_pci (by rw [he])
  · simp [Dev.keepsPci, he]
  · simp [Dev.keepsPci, he]

/-! ## A state that differs in its device alone -/

theorem Dev.reg_congr {d e : Dev} (h : e.rg = d.rg) (p : Page) (n o : Nat) : e.reg p n o = d.reg p n o := by simp [Dev.reg, h]

theorem Dev.flag_congr {d e : Dev} (h : e.rg = d.rg) (p : Page) (n o i : Nat) : e.flag p n o i = d.flag p n o i := by
  simp [Dev.flag, Dev.reg, h]

theorem Dev.fld_congr {d e : Dev} (h : e.rg = d.rg) (p : Page) (n o hi lo : Nat) : e.fld p n o hi lo = d.fld p n o hi lo := by
  simp [Dev.fld, Dev.reg, h]

theorem Dev.keepsCores.refl (d : Dev) (c : Nat) : d.keepsCores d c := fun _ _ => rfl

theorem Dev.keepsCores.trans {d e f : Dev} {c : Nat} (h : d.keepsCores e c) (k : e.keepsCores f c) : d.keepsCores f c :=
  fun i hi => (k i hi).trans (h i hi)

theorem Dev.keepsCores_of_cores {d e : Dev} (h : e.cores = d.cores) (c : Nat) : d.keepsCores e c :=
  fun i _ => Dev.core_eq_of_cores h i

theorem Dev.keepsCores_setCore (d : Dev) {c : Nat} (hc : c < 8) (x : CoreSt) : d.keepsCores (d.setCore c x) c :=
  fun i hi => by rw [Dev.core_setCore _ _ _ _ hc, if_neg hi]

theorem Dev.keepsCores_modCore (d : Dev) {c : Nat} (hc : c < 8) (f : CoreSt → CoreSt) : d.keepsCores (d.modCore c f) c :=
  d.keepsCores_setCore hc _

@[simp] theorem Dev.core_setCore_self (d : Dev) (c : Fin 8) (x : CoreSt) : (d.setCore c.val x).core c.val = x := by
  simp [Dev.core_setCore _ _ _ _ c.isLt]

@[simp] theorem Dev.core_modCore_self (d : Dev) (c : Fin 8) (f : CoreSt → CoreSt) :
    (d.modCore c.val f).core c.val = f (d.core c.val) := d.core_setCore_self c _

end Sys2Proof.Machine
end

section
/-! SUPPORT. What a command may do to the parts that lock until device reset (R240, R530, R562), and the tick of an empty
queue (R460, R463, R470). -/

namespace Sys2Proof.Machine

/-! ## Device resets -/

@[simp] theorem deviceReset_lk (k : Nat) (d : Dev) : (deviceReset k d).1 = {} := rfl

@[simp] theorem deviceReset_held (k : Nat) (d : Dev) : (deviceReset k d).2.pwr.held = true := by
  unfold deviceReset
  by_cases h : k = 0 <;> simp [h]

/-- What a command does to the shares and the grade: nothing; a write of unlocked shares, which locks only valid ones; or a
device reset, which leaves the device held. -/
inductive Locked.Moves (lk : Locked) : Locked × Dev → Prop where
  | same (d : Dev) : Locked.Moves lk (lk, d)
  | share (d : Dev) (v : W32) (hlk : lk.isLocked = false) (hok : Locked.sharesOk { lk with share := v }) :
      Locked.Moves lk ({ lk with share := v }, d)
  | reset (d : Dev) (h : d.pwr.held = true) : Locked.Moves lk ({}, d)

theorem Locked.Moves.of_fst {lk : Locked} {r : Locked × Dev} (h : r.1 = lk) : lk.Moves r := by
  obtain ⟨_, d⟩ := r
  cases h
  exact .same d

theorem deviceReset_moves (k : Nat) (d : Dev) (lk : Locked) : lk.Moves (deviceReset k d) :=
  .reset _ (deviceReset_held k d)

theorem Locked.sharesOk_reset (en : Nat) : Locked.sharesOk { coreEn := en } :=
  fun h => absurd h (show ¬bit (0x0004050B : W32).toNat 31 = true by decide)

/-- A command keeps the shares and the grade sound. -/
theorem Locked.Moves.sound {lk : Locked} {r : Locked × Dev} (h : lk.Moves r) (hs : lk.sharesOk) (hg : lk.gradeOk) :
    r.1.sharesOk ∧ r.1.gradeOk := by
  cases h with
  | same d => exact ⟨hs, hg⟩
  | share d v hlk hok => exact ⟨hok, hg⟩
  | reset d h => exact ⟨Locked.sharesOk_reset 0, .inl rfl⟩

/-- Unless it leaves the device held, a command keeps the grade, and the shares once they are locked. -/
theorem Locked.Moves.kept {lk : Locked} {r : Locked × Dev} (h : lk.Moves r) (hd : r.2.pwr.held = false) :
    r.1.coreEn = lk.coreEn ∧ (lk.isLocked = true → r.1.share = lk.share) := by
  cases h with
  | same d => exact ⟨rfl, fun _ => rfl⟩
  | share d v hlk hok => exact ⟨rfl, fun h => by simp [hlk] at h⟩
  | reset d h => simp [h] at hd

/-! ## Register writes -/

theorem bits_and {n m hi lo : Nat} (h : bits m hi lo = 2 ^ (hi + 1 - lo) - 1) : bits (n &&& m) hi lo = bits n hi lo := by
  unfold bits at *
  rw [Nat.shiftRight_and_distrib, Nat.and_mod_two_pow, h, Nat.and_two_pow_sub_one_eq_mod, Nat.mod_mod]

/-- MEM_SHARE keeps the three shares of what is written to it (R240). -/
theorem shareOf_and (v : Nat) : shareOf (v &&& 0x801F1F1F) = shareOf v := by
  unfold shareOf
  rw [bits_and (by decide), bits_and (by decide), bits_and (by decide)]

theorem toNat_share (v : Nat) : (BitVec.ofNat 32 (v &&& 0x801F1F1F)).toNat = v &&& 0x801F1F1F := by
  rw [BitVec.toNat_ofNat, Nat.mod_eq_of_lt ((Nat.and_le_right).trans_lt (by decide))]

theorem bit31_share (v : Nat) : bit (v &&& 0x801F1F1F) 31 = bit v 31 := by
  simp only [bit, Nat.testBit_and]
  rw [show Nat.testBit 0x801F1F1F 31 = true by decide, Bool.and_true]

theorem memShare_moves (v : Nat) (lk : Locked) (d : Dev) : lk.Moves (memShare v lk d) := by
  unfold memShare
  split_ifs with hl hv
  · exact .same _
  · exact .same _
  · refine .share d _ (by simpa using hl) fun hlock => ?_
    rw [Locked.isLocked, toNat_share, bit31_share] at hlock
    rw [toNat_share, shareOf_and]
    simpa [hlock] using hv

theorem regWrite_moves (lk : Locked) (w : World) (p : Page) (n o v : Nat) (d : Dev) : lk.Moves (regWrite lk w p n o v d) := by
  unfold regWrite pwrSwrst
  split_ifs
  · exact .same _
  · exact memShare_moves v lk d
  · exact deviceReset_moves 6 d lk
  all_goals exact .same _

/-- But for MEM_SHARE and PWR_SWRST a register write leaves the shares and the grade. -/
theorem regWrite_lk (lk : Locked) (w : World) (p : Page) (n o v : Nat) (d : Dev) (hm : ¬(p = .mem ∧ o = 0x180))
    (hp : ¬(p = .pwr ∧ o = 0x128)) : (regWrite lk w p n o v d).1 = lk := by
  unfold regWrite
  rw [if_neg hm, if_neg hp]
  split_ifs <;> rfl

theorem wordWrite_moves (w : World) (a : Nat) (v : Option Nat) (lk : Locked) (d : Dev) :
    lk.Moves (wordWrite w a v (lk, d)) := by
  unfold wordWrite Dev.pageWrite
  dsimp only
  split
  · split_ifs <;> exact .same _
  · split
    · split_ifs <;> exact .same _
    · split_ifs
      iterate 4 exact .same _
      exact regWrite_moves ..

theorem writeReg_moves (w : World) (p : Page) (n o v : Nat) (lk : Locked) (d : Dev) : lk.Moves (writeReg w p n o v lk d) :=
  wordWrite_moves ..

/-- While the device is held no write of a register arrives (R562). -/
theorem wordWrite_held (w : World) (a : Nat) (v : Option Nat) (lk : Locked) {d : Dev} (h : d.pwr.held = true) :
    wordWrite w a v (lk, d) = (lk, d) := by
  have hop : ∀ p, d.openTo w p = false := fun p => by simp [Dev.openTo, h]
  unfold wordWrite Dev.pageWrite
  simp only [hop, Bool.false_and, Bool.not_false, Bool.false_eq_true, if_true, if_false]
  split
  · rfl
  · split <;> rfl

/-- After one command another one still moves the locked parts as one command may, when it does nothing to a held
device. -/
theorem Locked.Moves.trans {lk : Locked} {r r' : Locked × Dev} (h : lk.Moves r) (k : r.1.Moves r')
    (hheld : r.2.pwr.held = true → r' = r) : lk.Moves r' := by
  cases h with
  | same d => exact k
  | reset d h => rw [hheld h]; exact .reset d h
  | share d v hlk hok =>
    cases k with
    | same d' => exact .share d' v hlk hok
    | share d' v' hlk' hok' => exact .share d' v' hlk hok'
    | reset d' h' => exact .reset d' h'

theorem barWrite_moves (w : World) (a : Nat) (bs : List Byte) (lk : Locked) (d : Dev) : lk.Moves (barWrite w a bs lk d) := by
  unfold barWrite
  generalize wordParts a bs = l
  refine List.foldlRecOn (motive := fun r => lk.Moves r) l _ (.same d) fun r hr x _ => ?_
  exact hr.trans (wordWrite_moves ..) fun hheld => wordWrite_held _ _ _ _ hheld

theorem barWrite_held (w : World) (a : Nat) (bs : List Byte) (lk : Locked) {d : Dev} (h : d.pwr.held = true) :
    barWrite w a bs lk d = (lk, d) := by
  unfold barWrite
  generalize wordParts a bs = l
  refine List.foldlRecOn (motive := fun r => r = (lk, d)) l _ rfl fun r hr x _ => ?_
  rw [hr, wordWrite_held _ _ _ _ h]

/-! ## The configuration record and the end of a command of SEC_HCMD (R533, R536) -/

theorem applyEntries_held (body : List Byte) (n : Nat) : ∀ (o : Nat) (s : Locked × Dev), s.2.pwr.held = true →
    applyEntries body n o s = s := by
  induction n with
  | zero => intro o s _; rfl
  | succ n ih =>
    intro o s h
    rw [applyEntries, barWrite_held _ _ _ _ h, ih _ _ h, ite_self]

theorem applyEntries_moves (body : List Byte) (n : Nat) : ∀ (o : Nat) (s : Locked × Dev),
    s.1.Moves (applyEntries body n o s) := by
  induction n with
  | zero => intro o s; exact .same s.2
  | succ n ih =>
    intro o s
    rw [applyEntries]
    split_ifs
    · exact .same s.2
    · exact (barWrite_moves ..).trans (ih ..) fun hheld => applyEntries_held body n _ _ hheld

@[simp] theorem Dev.memCtrl_pwr (d : Dev) (lk : Locked) (v : Nat) : (d.memCtrl lk v).pwr = d.pwr := by
  unfold Dev.memCtrl
  split
  · simp
  · dsimp only
    split_ifs <;> simp

/-- Firmware `fw` has started and is measured (R534, R539). -/
def Dev.withFirmware (d : Dev) (fw : List Byte) : Dev :=
  let d := (d.setReg .sec 0 0x104 (itemVersion fw)).setFld .sec 0 0x100 2 0 1
  { d with sec := { d.sec with meas := d.measure fw } }

/-- The configuration record has been applied when it verifies (R533). -/
def Dev.applyConfig (lk : Locked) (d : Dev) : Locked × Dev :=
  let body := slice d.sec.cfg 128 (bodyLen d.sec.cfg)
  if d.cfgVerifies then applyEntries body (body.length / 8) 0 (lk, d) else (lk, d.sticky .sec 0 1)

/-- The memory controller has been enabled, and STAGE is RUN unless the firmware waits for it (R534). -/
def Dev.toRun (lk : Locked) (d : Dev) : Dev :=
  let d := d.memCtrl lk (d.reg .mem 0 0x100 ||| 1)
  if !d.flag .mem 0 0x100 0 || d.flag .mem 0 0x104 0 then d.setFld .sec 0 0x100 2 0 2 else d

/-- The three parts of the start of a firmware (R534). -/
theorem startFirmware_eq (fw : List Byte) (lk : Locked) (d : Dev) : startFirmware fw lk d =
    let r := (d.withFirmware fw).applyConfig lk
    if r.2.pwr.held then r else (r.1, r.2.toRun r.1) := by
  change (match (d.withFirmware fw).applyConfig lk with
    | (lk, d) => if d.pwr.held then (lk, d) else (lk, d.toRun lk)) = _
  generalize (d.withFirmware fw).applyConfig lk = r
  rfl

theorem Dev.applyConfig_moves (lk : Locked) (d : Dev) : lk.Moves (d.applyConfig lk) := by
  unfold Dev.applyConfig
  dsimp only
  split
  · exact applyEntries_moves _ _ _ (lk, d)
  · exact .same _

/-- The firmware changes the shares and the grade through the entries of the configuration record alone (R533, R534). -/
theorem Locked.Moves.ite {lk : Locked} {c : Prop} [Decidable c] {a b : Locked × Dev} (ha : lk.Moves a) (hb : lk.Moves b) :
    lk.Moves (if c then a else b) := by
  split
  · exact ha
  · exact hb

theorem startFirmware_moves (fw : List Byte) (lk : Locked) (d : Dev) : lk.Moves (startFirmware fw lk d) := by
  rw [startFirmware_eq]
  have h := (d.withFirmware fw).applyConfig_moves lk
  generalize (d.withFirmware fw).applyConfig lk = r at h ⊢
  dsimp only
  cases h with
  | same d => split <;> exact .same _
  | share d v hlk hok => split <;> exact .share _ v hlk hok
  | reset d h => rw [if_pos h]; exact .reset d h

theorem effCmdDone_moves (ok : Bool) (lk : Locked) (d : Dev) : lk.Moves (effCmdDone ok lk d) := by
  unfold effCmdDone
  split
  · exact .same _
  · dsimp only
    exact .ite (startFirmware_moves ..) (.same _)

/-! ## The boot -/

theorem stopBoot_sound (f : Nat) (d : Dev) {lk : Locked} (h : lk.gradeOk) :
    (stopBoot f d lk.coreEn).1.sharesOk ∧ (stopBoot f d lk.coreEn).1.gradeOk := ⟨fun _ => show sharesValid (shareOf (0x8004050B : W32).toNat) = true by decide, h⟩

theorem bootSlots_sound (flash : List Byte) {lk : Locked} (d : Dev) (hs : lk.sharesOk) (hg : lk.gradeOk) :
    (bootSlots flash lk d).1.sharesOk ∧ (bootSlots flash lk d).1.gradeOk := by
  unfold bootSlots
  dsimp only
  split
  · exact stopBoot_sound 6 d hg
  · exact (startFirmware_moves ..).sound hs hg

theorem bootOwner_sound (flash : List Byte) {lk : Locked} (d : Dev) (hs : lk.sharesOk) (hg : lk.gradeOk) :
    (bootOwner flash lk d).1.sharesOk ∧ (bootOwner flash lk d).1.gradeOk := by
  unfold bootOwner
  split
  · exact stopBoot_sound 4 d hg
  dsimp only
  split
  · exact bootSlots_sound flash _ hs hg
  split
  · exact stopBoot_sound 5 _ hg
  · exact bootSlots_sound flash _ hs hg

/-- A grade record that the boot accepts enables six to eight cores, and no core is enabled without one (R530). -/
theorem bootGrade_sound (flash : List Byte) (d : Dev) :
    (bootGrade flash d).1.sharesOk ∧ (bootGrade flash d).1.gradeOk := by
  have hnone : (Locked.gradeOk { coreEn := 0 }) := .inl rfl
  unfold bootGrade
  split
  · exact stopBoot_sound 3 d hnone
  · dsimp only
    split
    next h => exact bootOwner_sound flash _ (Locked.sharesOk_reset _) (.inr h)
    next => exact stopBoot_sound 3 d hnone

theorem effBoot_sound (flash : List Byte) {lk : Locked} (d : Dev) (hs : lk.sharesOk) (hg : lk.gradeOk) :
    (effBoot flash lk d).1.sharesOk ∧ (effBoot flash lk d).1.gradeOk := by
  have hnone : (Locked.gradeOk { coreEn := 0 }) := .inl rfl
  unfold effBoot
  split
  · exact ⟨hs, hg⟩
  split
  · exact stopBoot_sound 1 d hnone
  dsimp only
  split
  · exact stopBoot_sound 2 _ hnone
  split
  · exact stopBoot_sound 2 _ hnone
  · exact bootGrade_sound flash _

/-! ## Every command -/

theorem effHistCmd_lk (w : World) (op h : Nat) (c : KvpCmd) (lk : Locked) (d : Dev) : (effHistCmd w op h c lk d).1 = lk := by
  have hw : (writeReg w .kvp 0 0x138 (op * 2 ^ 28 + h) lk d).1 = lk := by
    rw [writeReg_page _ _ _ _ _ _ _ rfl (by decide)]
    unfold Dev.pageWrite
    split_ifs
    · rfl
    · rfl
    · rfl
    · rfl
    · exact regWrite_lk _ _ _ _ _ _ _ (by simp) (by simp)
  have hr : (if d.kvp.queue.contains c then (lk, d) else writeReg w .kvp 0 0x138 (op * 2 ^ 28 + h) lk d).1 = lk := by
    split
    · rfl
    · exact hw
  unfold effHistCmd
  dsimp only
  generalize (if d.kvp.queue.contains c then (lk, d) else writeReg w .kvp 0 0x138 (op * 2 ^ 28 + h) lk d) = r at *
  split <;> exact hr

theorem effRstPin_moves (ns : Nat) (lk : Locked) (d : Dev) : lk.Moves (effRstPin ns lk d) := by
  unfold effRstPin
  dsimp only
  exact .ite (.same _) (.ite (deviceReset_moves 2 _ lk) (.ite (.same _) (deviceReset_moves 2 _ lk)))

theorem effPerst_moves (lk : Locked) (d : Dev) : lk.Moves (effPerst lk d) := by
  unfold effPerst
  dsimp only
  exact .ite (.ite (.same _) (.same _)) (deviceReset_moves 3 _ lk)

theorem effThermtrip_moves (lk : Locked) (d : Dev) : lk.Moves (effThermtrip lk d) := by
  unfold effThermtrip
  split_ifs
  · exact .same d
  · exact deviceReset_moves 5 _ lk

theorem effBrownout_moves (aux : Bool) (lk : Locked) (d : Dev) : lk.Moves (effBrownout aux d) := by
  unfold effBrownout
  split_ifs
  · exact deviceReset_moves 1 _ lk
  · exact deviceReset_moves 0 _ lk

theorem effRegisterWrite_moves (w : World) (bar4 : Bool) (a : Nat) (bs : List Byte) (lk : Locked) (d : Dev) :
    lk.Moves (effRegisterWrite w bar4 a bs lk d) := by
  unfold effRegisterWrite
  split_ifs
  · exact .same _
  · exact barWrite_moves ..

theorem State.onDev_moves (s : State) (f : Dev → Dev) :
    ∃ r : Locked × Dev, Host.Outcome.next (φ := Fault) (ρ := Refusal) (s.onDev f) = .next { s with lk := r.1, d := r.2 } ∧
      s.lk.Moves r := ⟨(s.lk, f s.d), rfl, .same _⟩

theorem State.onLk_moves (s : State) (f : Locked → Dev → Dev) :
    ∃ r : Locked × Dev, Host.Outcome.next (φ := Fault) (ρ := Refusal) (s.onLk f) = .next { s with lk := r.1, d := r.2 } ∧
      s.lk.Moves r := ⟨(s.lk, f s.lk s.d), rfl, .same _⟩

theorem State.onAll_moves {s : State} {f : Locked → Dev → Locked × Dev} (h : s.lk.Moves (f s.lk s.d)) :
    ∃ r : Locked × Dev, Host.Outcome.next (φ := Fault) (ρ := Refusal) (s.onAll f) = .next { s with lk := r.1, d := r.2 } ∧
      s.lk.Moves r := ⟨f s.lk s.d, rfl, h⟩

theorem State.onReset_moves {s : State} {f : Dev → Locked × Dev} (h : s.lk.Moves (f s.d)) :
    ∃ r : Locked × Dev, Host.Outcome.next (φ := Fault) (ρ := Refusal) (s.onReset f) = .next { s with lk := r.1, d := r.2 } ∧
      s.lk.Moves r := ⟨f s.d, rfl, h⟩

/-- A command that writes a register, ends a command of SEC_HCMD or resets the device moves the locked parts as one may,
and every other command but a boot leaves them alone. -/
theorem exec_moves (s : State) (i : Instr) (hb : ∀ flash, i ≠ .boot flash) :
    ∃ r : Locked × Dev, exec i s = .next { s with lk := r.1, d := r.2 } ∧ s.lk.Moves r := by
  cases i
  case boot flash => exact absurd rfl (hb flash)
  case create => exact State.onAll_moves (.of_fst (effHistCmd_lk ..))
  case delete => exact State.onAll_moves (.of_fst (effHistCmd_lk ..))
  case cmdDone => exact State.onAll_moves (effCmdDone_moves ..)
  case registerWrite => exact State.onAll_moves (effRegisterWrite_moves ..)
  case thermtrip => exact State.onAll_moves (effThermtrip_moves ..)
  case rstPin => exact State.onAll_moves (effRstPin_moves ..)
  case perst => exact State.onAll_moves (effPerst_moves ..)
  case por => exact State.onReset_moves (deviceReset_moves ..)
  case brownout => exact State.onReset_moves (effBrownout_moves ..)
  case refclkLoss => exact State.onReset_moves (deviceReset_moves ..)
  case irqForce | blkReset | clr => exact State.onAll_moves (wordWrite_moves ..)
  case kvpEnable | ethEnable | memEnable | memShareWrite | cmnEnable | regionWrite | pwrDvfs | pwrGov | swrst |
      setPolicy | resetLoop | rxcSwap | recoverBoot | updateFw | raiseFloor | updateCfg | timOffsetNs | setCounter |
      gridEn | synceChange | alignGo | sigClr | bind | unbind | takeover | linkWrite =>
    exact State.onAll_moves (writeReg_moves ..)
  case barrierRelease | logicalCoreSwitch | switchRestoreDone | frameReceive | slowPathTx | commit | bar2Access |
      blockInterrupt | jobPlacement | preemption | jobEnd | deadlineAbort | imageLoad | memoryBurst | memReady |
      crossingAccess | governorQuantum | i3cRead | rcRead | coreCycLoRead | confidenceReport | contribution |
      spanFetched | codeBlockResult | deadline | decodeStop | polarResult | unitDelivered | outboundDrain |
      stileComplete | windowWrite | sendRequest | admissionPoint | timNowFracRead | tbCopyDone | symbolPrecoded |
      cplaneSend | overlayMarker | maskCheck | messageReceive | gatherOpen | gatherClose =>
    exact s.onLk_moves _
  all_goals exact s.onDev_moves _

/-! ## A tick -/

/-- The device with a counter of `n` in the next tick (R460, R463). -/
def Dev.ticked (d : Dev) (n : Nat) : Dev :=
  { d with tim := { d.tim with
      tick := d.tim.tick + 1, ns := n / 2 ^ 32, frac := n % 2 ^ 32, prev := d.tim.ns, step := none } }

theorem tickOnce_held {d : Dev} (h : d.pwr.held = true) : tickOnce d = { d with tim := { d.tim with tick := d.tim.tick + 1 } } := by
  simp [tickOnce, h]

theorem tickOnce_runs {d : Dev} (h : d.pwr.held = false) : tickOnce d =
    (d.ticked (ofS 64 ((d.tim.ns * 2 ^ 32 + d.tim.frac : Nat) + d.incr + d.corr - d.tim.step.getD 0))).syncResume := by
  simp only [tickOnce, h, Bool.false_eq_true, if_false]
  rfl

theorem Dev.syncResume_none {d : Dev} (h : d.tim.syncHeld = none) : d.syncResume = d := by simp [Dev.syncResume, h]

theorem Dev.syncResume_early {d : Dev} {k : Nat} (h : d.tim.syncHeld = some k) (hk : 128 * (d.tim.tick - k) < 100000) :
    d.syncResume = d := by
  have he : d.elapsed k 1000 = false := by simp only [Dev.elapsed, decide_eq_false_iff_not]; omega
  simp [Dev.syncResume, h, he]

/-- Once the hold has lasted 1 µs it ends, and the output may start (R470). -/
theorem Dev.syncResume_late {d : Dev} {k : Nat} (h : d.tim.syncHeld = some k) (hk : 100000 ≤ 128 * (d.tim.tick - k)) :
    ∃ o, d.syncResume = { d with tim := { d.tim with syncHeld := none }, out := d.out ++ o } := by
  have he : d.elapsed k 1000 = true := by simp only [Dev.elapsed, decide_eq_true_eq]; omega
  simp only [Dev.syncResume, h, he, Bool.not_true, Bool.false_eq_true, if_false]
  split
  · exact ⟨_, rfl⟩
  · exact ⟨[], by simp⟩

end Sys2Proof.Machine

open Sys2Proof Sys2Proof.Machine

/-- Settles O56: a command moves the locked parts by a write of unlocked shares or a device reset alone. -/
theorem lockedPartsStay : Obligations.LockedPartsStay := by
  unfold Obligations.LockedPartsStay
  intro s t i h hb hheld
  obtain ⟨r, hr, hm⟩ := exec_moves s i hb
  cases hr.symm.trans h
  exact hm.kept hheld

/-- Settles O58: a write locks only valid shares, a reset loses them with the grade, and a boot applies a grade of six to
eight cores or none. -/
theorem soundKept : Obligations.SoundKept := by
  unfold Obligations.SoundKept
  intro s t hs h
  unfold step at h
  split at h
  · cases h; exact hs
  case h_2 i rest _ =>
    by_cases hb : ∃ flash, i = .boot flash
    · obtain ⟨flash, rfl⟩ := hb
      cases h
      exact effBoot_sound flash s.d hs.1 hs.2
    · obtain ⟨r, hr, hm⟩ := exec_moves { s with pending := rest } i (not_exists.1 hb)
      cases hr.symm.trans h
      exact hm.sound hs.1 hs.2

/-- Settles O57: at reset MEM_SHARE is not locked and no grade has been applied. -/
theorem soundAtReset : Obligations.SoundAtReset := ⟨Locked.sharesOk_reset 0, .inl rfl⟩

/-- Settles O1. -/
theorem frontCommandRuns : Obligations.FrontCommandRuns := by
  unfold Obligations.FrontCommandRuns
  intro s i rest h
  simp [step, h]

/-- Settles O2: each command answers the state with other locked parts and another device. -/
theorem everyCommandCompletes : Obligations.EveryCommandCompletes := by
  unfold Obligations.EveryCommandCompletes
  intro s i
  by_cases hb : ∃ flash, i = .boot flash
  · obtain ⟨flash, rfl⟩ := hb
    exact ⟨_, rfl, s.onAll_pending _⟩
  · obtain ⟨r, hr, -⟩ := exec_moves s i (not_exists.1 hb)
    exact ⟨_, hr, rfl⟩

/-- Settles O55: the counter moves while the device is not held, and then a hold of SYNCE_OUT ends that has lasted 1 µs. -/
theorem emptyQueueTicks : Obligations.EmptyQueueTicks := by
  unfold Obligations.EmptyQueueTicks
  intro s hp c
  have hstep : step s = .next { s with d := tickOnce s.d } := by simp [step, hp]
  refine ⟨_, hstep, ?_⟩
  cases hheld : s.d.pwr.held with
  | true =>
    rw [tickOnce_held hheld]
    exact ⟨rfl, fun _ => ⟨rfl, rfl⟩, nofun⟩
  | false =>
    rw [tickOnce_runs hheld]
    generalize ofS 64 _ = n
    have hsplit : n / 2 ^ 32 * 2 ^ 32 + n % 2 ^ 32 = n := Nat.div_add_mod' n _
    have hfrac : n % 2 ^ 32 < 2 ^ 32 := Nat.mod_lt _ (by decide)
    cases hsync : s.d.tim.syncHeld with
    | none =>
      rw [Dev.syncResume_none (d := s.d.ticked n) hsync]
      exact ⟨rfl, nofun, fun _ => ⟨rfl, rfl, fun _ => ⟨hsync, rfl⟩, nofun, nofun, hfrac, hsplit⟩⟩
    | some k =>
      obtain hk | hk := Nat.lt_or_ge (128 * (s.d.tim.tick + 1 - k)) 100000
      · rw [Dev.syncResume_early (d := s.d.ticked n) hsync hk]
        refine ⟨rfl, nofun, fun _ => ⟨rfl, rfl, nofun, ?_, ?_, hfrac, hsplit⟩⟩
        · rintro _ ⟨⟩ -
          exact ⟨hsync, rfl⟩
        · rintro _ ⟨⟩ hk'
          omega
      · obtain ⟨o, ho⟩ := Dev.syncResume_late (d := s.d.ticked n) hsync hk
        rw [ho]
        refine ⟨rfl, nofun, fun _ => ⟨rfl, rfl, nofun, ?_, ?_, hfrac, hsplit⟩⟩
        · rintro _ ⟨⟩ hk'
          omega
        · rintro _ ⟨⟩ -
          exact ⟨rfl, List.prefix_append _ _⟩

end

section
/-! SUPPORT. Reads of a register after updates of others, and commands that write one register. -/

namespace Sys2Proof.Machine

/-! ## Fields of a register that has been set -/

@[simp] theorem bits_putBits_same {hi lo : Nat} (n v : Nat) (h : lo ≤ hi + 1) :
    bits (putBits n hi lo v) hi lo = v % 2 ^ (hi + 1 - lo) := bits_putBits h n v

@[simp] theorem bits_putBits_other {hi lo hi' lo' : Nat} (n v : Nat) (h : lo ≤ hi + 1) (hd : hi' < lo ∨ hi < lo') :
    bits (putBits n hi lo v) hi' lo' = bits n hi' lo' := bits_putBits_of_disjoint h hd n v

@[simp] theorem bit_putBits {hi lo : Nat} (n v i : Nat) (h : lo ≤ hi + 1) :
    bit (putBits n hi lo v) i = if lo ≤ i ∧ i ≤ hi then v.testBit (i - lo) else bit n i := testBit_putBits h n v i

/-! ## Where the registers of a page lie (R590, R592) -/

@[simp] theorem Page.base_at (n : Nat) :
    Page.base .dev n = 0 ∧ Page.base .cru n = 0x1000 ∧ Page.base .pwr n = 0x2000 ∧ Page.base .sec n = 0x3000 ∧
    Page.base .tim n = 0x4000 ∧ Page.base .irq n = 0x5000 ∧ Page.base .sch n = 0x6000 ∧ Page.base .sem n = 0x7000 ∧
    Page.base .det n = 0x8000 ∧ Page.base .eth n = 0x10000 + n * 0x1000 ∧ Page.base .fhc n = 0x20000 ∧
    Page.base .rxc n = 0x30000 ∧ Page.base .txc n = 0x40000 ∧ Page.base .fec n = 0x50000 ∧
    Page.base .hq n = 0x60000 ∧ Page.base .mem n = 0x70000 ∧ Page.base .mch n = 0x71000 + n * 0x1000 ∧
    Page.base .cmn n = 0x81000 ∧ Page.base .kvp n = 0x90000 ∧ Page.base .wtn n = 0xA0000 ∧
    Page.base .rsv n = 0xB0000 ∧ Page.base .pci n = 0xC0000 ∧ Page.base .core n = 0x100000 + n * 0x10000 ∧
    Page.base .gln n = 0x101000 + n * 0x10000 ∧ Page.base .plt n = 0x102000 + n * 0x10000 ∧
    Page.base .wsh n = 0x103000 + n * 0x10000 ∧ Page.base .hch n = 0x104000 + n * 0x10000 ∧
    Page.base .spd n = 0x105000 + n * 0x10000 ∧ Page.base .dbg n = 0x106000 + n * 0x10000 ∧
    Page.base .stl n = 0x107000 + n * 0x10000 := by
  repeat' apply And.intro
  all_goals rfl

@[simp] theorem Page.sticky_at :
    (Page.sticky .pwr).1 = 0x148 ∧ (Page.sticky .sec).1 = 0x160 ∧ (Page.sticky .tim).1 = 0x15C ∧
    (Page.sticky .sch).1 = 0x150 ∧ (Page.sticky .det).1 = 0x120 ∧ (Page.sticky .eth).1 = 0x13C ∧
    (Page.sticky .fhc).1 = 0x11C ∧ (Page.sticky .rxc).1 = 0x148 ∧ (Page.sticky .txc).1 = 0x140 ∧
    (Page.sticky .fec).1 = 0x140 ∧ (Page.sticky .hq).1 = 0x110 ∧ (Page.sticky .mem).1 = 0x11C ∧
    (Page.sticky .cmn).1 = 0x120 ∧ (Page.sticky .kvp).1 = 0x15C ∧ (Page.sticky .wtn).1 = 0x174 ∧
    (Page.sticky .rsv).1 = 0x148 ∧ (Page.sticky .pci).1 = 0x194 ∧ (Page.sticky .plt).1 = 0x120 ∧
    (Page.sticky .wsh).1 = 0x118 ∧ (Page.sticky .hch).1 = 0x114 ∧ (Page.sticky .gln).1 = 0x11C ∧
    (Page.sticky .spd).1 = 0x10C ∧ (Page.sticky .core).1 = 0x110 := by
  repeat' apply And.intro
  all_goals rfl

/-! ## Registers that an update does not reach -/

@[simp] theorem Dev.reg_setReg_ne (d : Dev) {p q : Page} {n m o i : Nat} (v : Nat) (h : q.base m + i ≠ p.base n + o) :
    (d.setReg p n o v).reg q m i = d.reg q m i := by rw [Dev.reg_setReg, if_neg h]

@[simp] theorem Dev.reg_setFld_ne (d : Dev) {p q : Page} {n m o i : Nat} (hi lo v : Nat) (h : q.base m + i ≠ p.base n + o) :
    (d.setFld p n o hi lo v).reg q m i = d.reg q m i := d.reg_setReg_ne _ h

@[simp] theorem Dev.reg_setFld_same (d : Dev) (p : Page) (n o hi lo v : Nat) (h : lo ≤ hi + 1) (hh : hi < 32) :
    (d.setFld p n o hi lo v).reg p n o = putBits (d.reg p n o) hi lo v := d.reg_setFld_self p n o hi lo v h hh

@[simp] theorem Dev.reg_bump_ne (d : Dev) {p q : Page} {n m o i : Nat} (k : Nat) (h : q.base m + i ≠ p.base n + o) :
    (d.bump p n o k).reg q m i = d.reg q m i := by rw [Dev.reg_bump, if_neg h]

@[simp] theorem Dev.reg_sticky_ne (d : Dev) {p q : Page} {n m i : Nat} (b : Nat) (h : q.base m + i ≠ p.base n + p.sticky.1)
    (h20 : q.base m + i ≠ p.base n + 0x020) : (d.sticky p n b).reg q m i = d.reg q m i :=
  d.keepsRegs_sticky p n b (l := [(p, n, p.sticky.1), (p, n, 0x020)]) (by simp) (by simp) q m i
    (by simp [RegAt.addr, h, h20])

@[simp] theorem Dev.reg_err_ne (d : Dev) {p q : Page} {n m i : Nat} (c o : Nat) (h28 : q.base m + i ≠ p.base n + 0x028)
    (h2c : q.base m + i ≠ p.base n + 0x02C) : (d.err p n c o).reg q m i = d.reg q m i :=
  d.keepsRegs_err p n c o (l := [(p, n, 0x028), (p, n, 0x02C)]) (by simp) (by simp) q m i (by simp [RegAt.addr, h28, h2c])

@[simp] theorem Dev.reg_err_2C (d : Dev) (p : Page) (n c o : Nat) :
    (d.err p n c o).reg p n 0x02C = satAdd (d.reg p n 0x02C) 1 := d.reg_err_count p n c o

@[simp] theorem Dev.reg_post_ne (d : Dev) {p q : Page} {n m i : Nat} (src sub inst : Nat) (bs : List Byte)
    (h184 : q.base m + i ≠ 0xC0184) (h194 : q.base m + i ≠ 0xC0194) (h20 : q.base m + i ≠ 0xC0020) :
    (d.post p n src sub inst bs).reg q m i = d.reg q m i :=
  d.keepsRegs_post p n src sub inst bs (List.Subset.refl evtRegs) q m i (by simp [evtRegs, RegAt.addr, h184, h194, h20])

@[simp] theorem Dev.reg_emit (d : Dev) (x : Out) (p : Page) (n o : Nat) : (d.emit x).reg p n o = d.reg p n o := by
  unfold Dev.reg
  rfl

@[simp] theorem Dev.reg_setCore (d : Dev) (c : Nat) (x : CoreSt) (p : Page) (n o : Nat) :
    (d.setCore c x).reg p n o = d.reg p n o := by
  unfold Dev.reg
  rfl

@[simp] theorem Dev.reg_modCore (d : Dev) (c : Nat) (f : CoreSt → CoreSt) (p : Page) (n o : Nat) :
    (d.modCore c f).reg p n o = d.reg p n o := by
  unfold Dev.reg
  rfl

/-- Other parts of the device do not matter to a register. -/
@[simp] theorem Dev.reg_mk (d : Dev) (cores sems bars ms tbl streams sch kvp rxc txc rsv fec wtn pci tim det pwr sec fresh out)
    (p : Page) (n o : Nat) :
    (Dev.mk d.rg cores sems bars ms tbl streams sch kvp rxc txc rsv fec wtn pci tim det pwr sec fresh out).reg p n o =
      d.reg p n o := by
  unfold Dev.reg
  rfl

/-! ## Updates of registers alone -/

/-- `e` differs from `d` in registers alone. -/
abbrev Dev.regsOnly (d e : Dev) : Prop := e = { d with rg := e.rg }

theorem Dev.regsOnly.refl (d : Dev) : d.regsOnly d := rfl

theorem Dev.regsOnly.trans {a b c : Dev} (h : a.regsOnly b) (k : b.regsOnly c) : a.regsOnly c := by
  unfold Dev.regsOnly at *
  rw [k, h]

theorem Dev.setReg_regsOnly (d : Dev) (p : Page) (n o v : Nat) : d.regsOnly (d.setReg p n o v) := rfl
theorem Dev.setFld_regsOnly (d : Dev) (p : Page) (n o hi lo v : Nat) : d.regsOnly (d.setFld p n o hi lo v) := rfl
theorem Dev.bump_regsOnly (d : Dev) (p : Page) (n o k : Nat) : d.regsOnly (d.bump p n o k) := d.bump_regs p n o k
theorem Dev.sticky_regsOnly (d : Dev) (p : Page) (n b : Nat) : d.regsOnly (d.sticky p n b) := d.sticky_regs p n b
theorem Dev.err_regsOnly (d : Dev) (p : Page) (n c o : Nat) : d.regsOnly (d.err p n c o) := d.err_regs p n c o
theorem Dev.plainWrite_regsOnly (d : Dev) (p : Page) (n o v : Nat) : d.regsOnly (d.plainWrite p n o v) :=
  d.plainWrite_regs p n o v
theorem Dev.num_regsOnly (d : Dev) (p : Page) (n : Nat) (e : NumEv) : d.regsOnly (d.num p n e) := d.num_shape p n e

/-- Registers may change before another part does. -/
theorem Dev.regsOnly.with_pwr {d e : Dev} (h : d.regsOnly e) (x : PwrSt) :
    ({ e with pwr := x } : Dev) = { d with rg := e.rg, pwr := x } := by
  obtain ⟨r, rfl⟩ : ∃ r, e = { d with rg := r } := ⟨_, h⟩
  rfl

/-! ## Commands that write one register -/

/-- The state with another device. -/
theorem State.onAll_eq {s : State} {f : Locked → Dev → Locked × Dev} {e : Dev} (h : f s.lk s.d = (s.lk, e)) :
    s.onAll f = { s with d := e } := by simp [State.onAll, h]

theorem exec_onAll {s : State} {i : Instr} {f : Locked → Dev → Locked × Dev} {e : Dev} (hx : exec i s = .next (s.onAll f))
    (h : f s.lk s.d = (s.lk, e)) : exec i s = .next { s with d := e } := by rw [hx, State.onAll_eq h]

theorem exec_onDev {s : State} {i : Instr} {f : Dev → Dev} {e : Dev} (hx : exec i s = .next (s.onDev f))
    (h : f s.d = e) : exec i s = .next { s with d := e } := by rw [hx, State.onDev, h]

theorem exec_onLk {s : State} {i : Instr} {f : Locked → Dev → Dev} {e : Dev} (hx : exec i s = .next (s.onLk f))
    (h : f s.lk s.d = e) : exec i s = .next { s with d := e } := by rw [hx, State.onLk, h]

theorem W32.toNat_mod (v : W32) : v.toNat % 2 ^ 32 = v.toNat := Nat.mod_eq_of_lt v.isLt

/-- A write that reaches a register of a block, MEM_SHARE and PWR_SWRST apart, acts as the block says. -/
theorem writeReg_block {w : World} {p : Page} {n o : Nat} {v : Nat} {lk : Locked} {d : Dev} (hn : p.hasInst n)
    (ho : o < 0x1000) (hb : 0x100 ≤ o) (h : d.takesWrite lk w p n) (hv : v < 2 ^ 32)
    (hr : w = .nonsecure → p.isRws n o = false)
    (hm : ¬(p = .mem ∧ o = 0x180)) (hp : ¬(p = .pwr ∧ o = 0x128)) :
    writeReg w p n o v lk d = (lk, d.blockWrite lk p n o v) := by
  rw [writeReg_reaches hn ho h, Nat.mod_eq_of_lt hv, regWrite_block hr hm hp, if_neg (by omega)]

/-- A command that writes a register of a block, MEM_SHARE and PWR_SWRST apart, acts as the block says once the page takes
the write. -/
theorem exec_blockWrite {s : State} {i : Instr} {w : World} {p : Page} {n o v : Nat}
    (hx : exec i s = .next (s.onAll (writeReg w p n o v))) (h : s.d.takesWrite s.lk w p n) (hn : p.hasInst n) (hv : v < 2 ^ 32)
    (ho : 0x100 ≤ o ∧ o < 0x1000) (hr : w = .nonsecure → p.isRws n o = false) (hm : ¬(p = .mem ∧ o = 0x180))
    (hp : ¬(p = .pwr ∧ o = 0x128)) : exec i s = .next { s with d := s.d.blockWrite s.lk p n o v } :=
  exec_onAll hx (writeReg_block hn ho.2 ho.1 h hv hr hm hp)

end Sys2Proof.Machine
end

section
/-! SUPPORT. Operating points, core voltage and the governor (R564 to R573). -/

namespace Sys2Proof.Machine

/-! ## PWR_DVFS (R565) -/

/-- A write of PWR_DVFS that is refused with reason `r`. -/
def Dev.dvfsRefused (d : Dev) (r code : Nat) : Dev := (d.setFld .pwr 0 0x104 11 8 r).err .pwr 0 code 0x104

/-- A write of PWR_DVFS that takes point `p`. -/
def Dev.dvfsTaken (d : Dev) (p : Nat) : Dev := (d.setFld .pwr 0 0x104 11 8 0).setFld .pwr 0 0x104 2 0 p

/-- The relock of the core PLL begins: CLK_CORE's lock and alignment are lost (R509, R565). -/
def Dev.relockBegun (d : Dev) : Dev :=
  let d := { d with pwr := { d.pwr with relock := some d.tim.tick } }
  effAlignLost (((d.setFld .pwr 0 0x104 31 31 1).setFld .cru 0 0x100 0 0 0).bump .cru 0 0x104 1)

/-- VDD_CORE has not yet risen to within 3 % of the point in force when a higher one is asked for (R565). -/
def Dev.dvfsLow (d : Dev) (p : Nat) : Prop :=
  pointMv d.point < pointMv p ∧ 100 * d.fld .pwr 0 0x110 11 0 < 97 * pointMv p

theorem Dev.blockWrite_dvfs (d : Dev) (lk : Locked) (v : Nat) : d.blockWrite lk .pwr 0 0x104 v = d.pwrDvfs v := by
  simp only [Dev.blockWrite]

theorem Dev.blockWrite_gov (d : Dev) (lk : Locked) (v : Nat) : d.blockWrite lk .pwr 0 0x100 v = d.pwrGov v := by
  simp only [Dev.blockWrite]

theorem Dev.pwrDvfs_cases (d : Dev) (v : Nat) : let p := bits v 2 0
    (5 ≤ p → d.pwrDvfs v = d.dvfsRefused 3 errValue) ∧
    (p < 5 → d.flag .sch 0 0x100 0 = true → d.pwrDvfs v = d.dvfsRefused 2 errState) ∧
    (p < 5 → d.flag .sch 0 0x100 0 = false → d.dvfsLow p → d.pwrDvfs v = d.dvfsRefused 1 errState) ∧
    (p < 5 → d.flag .sch 0 0x100 0 = false → ¬d.dvfsLow p →
      d.pwrDvfs v = if pointMhz d.point = pointMhz p then d.dvfsTaken p else (d.dvfsTaken p).relockBegun) := by
  intro p
  refine ⟨fun h => ?_, fun h hs => ?_, fun h hs hl => ?_, fun h hs hl => ?_⟩
  · simp only [Dev.pwrDvfs, p] at h ⊢
    rw [if_pos h]; rfl
  · simp only [Dev.pwrDvfs, p] at h ⊢
    rw [if_neg (by omega), if_pos hs]; rfl
  · simp only [Dev.pwrDvfs, p] at h ⊢
    rw [if_neg (by omega), if_neg (by simp [hs]), if_pos (by simpa [Dev.dvfsLow] using hl)]; rfl
  · simp only [Dev.pwrDvfs, p] at h ⊢
    rw [if_neg (by omega), if_neg (by simp [hs]), if_neg (by simpa [Dev.dvfsLow, p] using hl)]; rfl

theorem Dev.dvfsRefused_regsOnly (d : Dev) (r code : Nat) : d.regsOnly (d.dvfsRefused r code) :=
  (d.setFld_regsOnly ..).trans (Dev.err_regsOnly ..)

theorem Dev.dvfsRefused_regs (d : Dev) {r : Nat} (code : Nat) (hr : r < 16) :
    (d.dvfsRefused r code).fld .pwr 0 0x104 11 8 = r ∧ (d.dvfsRefused r code).point = d.point ∧
    (d.dvfsRefused r code).reg .pwr 0 0x02C = satAdd (d.reg .pwr 0 0x02C) 1 ∧
    d.keepsRegs (d.dvfsRefused r code) [(.pwr, 0, 0x104), (.pwr, 0, 0x028), (.pwr, 0, 0x02C)] := by
  refine ⟨?_, ?_, ?_, ?_⟩
  · simp [Dev.dvfsRefused, Dev.fld]; omega
  · simp [Dev.dvfsRefused, Dev.fld, Dev.point]
  · simp [Dev.dvfsRefused]
  · exact (d.keepsRegs_setFld _ _ _ _ _ _ (by simp)).trans (Dev.keepsRegs_err _ _ _ _ _ (by simp) (by simp))

theorem Dev.dvfsTaken_regs (d : Dev) {p : Nat} (hp : p < 8) :
    (d.dvfsTaken p).fld .pwr 0 0x104 11 8 = 0 ∧ (d.dvfsTaken p).point = p ∧
    d.keepsRegs (d.dvfsTaken p) [(.pwr, 0, 0x104)] := by
  refine ⟨?_, ?_, ?_⟩
  · simp [Dev.dvfsTaken, Dev.fld]
  · simp [Dev.dvfsTaken, Dev.fld, Dev.point]; omega
  · exact (d.keepsRegs_setFld _ _ _ _ _ _ (by simp)).trans (Dev.keepsRegs_setFld _ _ _ _ _ _ _ (by simp))

theorem effAlignLost_regsOnly (d : Dev) : d.regsOnly (effAlignLost d) :=
  (d.setFld_regsOnly ..).trans (Dev.sticky_regsOnly ..)

theorem Dev.relockBegun_shape (d : Dev) :
    d.relockBegun = { d with rg := d.relockBegun.rg, pwr := { d.pwr with relock := some d.tim.tick } } :=
  have h (e : Dev) : e.regsOnly (effAlignLost (((e.setFld .pwr 0 0x104 31 31 1).setFld .cru 0 0x100 0 0 0).bump .cru 0 0x104 1)) :=
    ((e.setFld_regsOnly ..).trans (Dev.setFld_regsOnly ..)).trans ((Dev.bump_regsOnly ..).trans (effAlignLost_regsOnly _))
  h _

theorem Dev.relockBegun_regs (d : Dev) :
    d.relockBegun.fld .pwr 0 0x104 11 8 = d.fld .pwr 0 0x104 11 8 ∧ d.relockBegun.point = d.point ∧
    d.relockBegun.flag .pwr 0 0x104 31 = true ∧ d.relockBegun.flag .cru 0 0x100 0 = false ∧
    d.relockBegun.flag .det 0 0x104 0 = false ∧ d.relockBegun.reg .cru 0 0x104 = satAdd (d.reg .cru 0 0x104) 1 := by
  simp [Dev.relockBegun, effAlignLost, Dev.fld, Dev.flag, Dev.point]

/-- 150 µs after its start a relock is complete (R565). -/
theorem effRelockDone_done {d : Dev} {k : Nat} (hk : d.pwr.relock = some k) (he : d.elapsed k 150000 = true) :
    effRelockDone d = { d with rg := ((d.setFld .pwr 0 0x104 31 31 0).setFld .cru 0 0x100 0 0 1).rg
                               pwr := { d.pwr with relock := none } } := by
  simp only [effRelockDone, hk, he, if_true]
  exact ((d.setFld_regsOnly ..).trans (Dev.setFld_regsOnly ..)).with_pwr _

/-! ## VDD_CORE (R566) -/

/-- A sample of VDD_CORE that is low or not. -/
def Dev.sampled (d : Dev) (mv : Nat) (low : Bool) : Dev :=
  { d.setReg .pwr 0 0x110 mv with pwr := { d.pwr with uvRun := if low then d.pwr.uvRun + 1 else 0 } }

theorem effVcoreSample_eq {d : Dev} {mv : Nat} (hmv : mv < 4096) (hheld : d.pwr.held = false) : effVcoreSample mv d =
    let low := decide (100 * mv < 97 * pointMv d.point)
    if low = true ∧ d.pwr.uvRun = 9 then (d.sampled mv low).sticky .pwr 0 2 else d.sampled mv low := by
  have hpt : (d.setReg .pwr 0 0x110 mv).point = d.point := by simp [Dev.point, Dev.fld]
  simp only [effVcoreSample, hheld, Bool.false_eq_true, if_false, Nat.mod_eq_of_lt hmv, hpt]
  by_cases hl : 100 * mv < 97 * pointMv d.point
  · by_cases h9 : d.pwr.uvRun = 9 <;> simp [hl, h9, Dev.sampled]
  · simp [hl, Dev.sampled]

theorem Dev.sampled_shape (d : Dev) (mv : Nat) (low : Bool) : d.sampled mv low =
    { d with rg := (d.setReg .pwr 0 0x110 mv).rg
             pwr := { d.pwr with uvRun := if low then d.pwr.uvRun + 1 else 0 } } := rfl

/-! ## Ballast (R570) -/

/-- Core `c` with its ballast lit or not. -/
def Dev.light (d : Dev) (c : Nat) (on : Bool) : Dev :=
  d.modCore c fun y => { y with plate := { y.plate with ballast := on } }

/-- The first core of the list gets what it can take, and the rest of the ballast goes on. -/
theorem placeBallast_cons (bm c : Nat) (cs : List Nat) (b : Nat) (d : Dev) : ∃ (on : Bool) (n x : Nat) (e : Dev),
    placeBallast bm (c :: cs) b d = placeBallast bm cs x (e.bump .plt c 0x124 n) ∧ e.rg = d.rg ∧
      e.cores = (d.light c on).cores := by
  rw [placeBallast]
  dsimp only
  cases hon : decide (0 < min b (bm - d.running c)) with
  | true => exact ⟨true, _, _, _, rfl, rfl, rfl⟩
  | false => exact ⟨false, _, _, _, rfl, rfl, rfl⟩

theorem placeBallast_regs (bm : Nat) (l : List Nat) (hl : ∀ c ∈ l, c < 8) : ∀ (b : Nat) (d : Dev),
    d.keepsRegs (placeBallast bm l b d) ((List.range 8).map (.plt, ·, 0x124)) := by
  induction l with
  | nil => intro b d; exact .refl d _
  | cons c cs ih =>
    intro b d
    have hc : (Page.plt, c, 0x124) ∈ (List.range 8).map fun k => (Page.plt, k, 0x124) :=
      List.mem_map.2 ⟨c, List.mem_range.2 (hl c (by simp)), rfl⟩
    obtain ⟨on, n, x, e, h, hr, -⟩ := placeBallast_cons bm c cs b d
    rw [h]
    exact ((Dev.keepsRegs_of_rg hr _).trans (e.keepsRegs_bump _ _ _ _ hc)).trans (ih (fun k hk => hl k (by simp [hk])) _ _)

/-- Ballast is lit on the cores of the list alone, and of a core nothing else changes. -/
theorem placeBallast_core (bm : Nat) (l : List Nat) (hl : ∀ c ∈ l, c < 8) : ∀ (b : Nat) (d : Dev) (k : Nat),
    (placeBallast bm l b d).core k =
      { d.core k with plate := { (d.core k).plate with ballast := ((placeBallast bm l b d).core k).plate.ballast } } ∧
    (k ∉ l → (placeBallast bm l b d).core k = d.core k) := by
  induction l with
  | nil => intro b d k; exact ⟨rfl, fun _ => rfl⟩
  | cons c cs ih =>
    intro b d k
    obtain ⟨on, n, x, e, h, -, hcores⟩ := placeBallast_cons bm c cs b d
    have he : (e.bump .plt c 0x124 n).core k =
        if k = c then { d.core c with plate := { (d.core c).plate with ballast := on } } else d.core k := by
      rw [Dev.core_eq_of_cores (Dev.bump_cores ..), Dev.core_eq_of_cores hcores]
      exact d.core_modCore c k _ (hl c (by simp))
    obtain ⟨h1, h2⟩ := ih (fun k hk => hl k (by simp [hk])) x (e.bump .plt c 0x124 n) k
    rw [h]
    rw [he] at h1 h2
    constructor
    · rw [h1]
      split
      next hk => subst hk; rfl
      next => rfl
    · intro hk
      rw [h2 fun hm => hk (List.mem_cons_of_mem _ hm), if_neg fun hkc => hk (List.mem_cons.2 (.inl hkc))]

/-- The level `lv` and the charges `want` are shown (R568). -/
def Dev.showLevel (d : Dev) (lv want : Nat) : Dev := (d.setFld .pwr 0 0x10C 12 0 lv).setFld .pwr 0 0x10C 28 16 want

theorem Dev.showLevel_regs (d : Dev) (lv want : Nat) :
    (d.showLevel lv want).fld .pwr 0 0x10C 12 0 = lv % 8192 ∧ (d.showLevel lv want).fld .pwr 0 0x10C 28 16 = want % 8192 ∧
    d.keepsRegs (d.showLevel lv want) [(.pwr, 0, 0x10C)] := by
  refine ⟨?_, ?_, ?_⟩
  · simp [Dev.showLevel, Dev.fld]
  · simp [Dev.showLevel, Dev.fld]
  · exact (d.keepsRegs_setFld _ _ _ _ _ _ (by simp)).trans (Dev.keepsRegs_setFld _ _ _ _ _ _ _ (by simp))

/-- A quantum without throttling: the level is shown, what it has over the charges becomes ballast, and a quantum with
ballast is counted (R568, R570). -/
theorem effGovernorQuantum_eq {lk : Locked} {d : Dev} (hheld : d.pwr.held = false) (hthr : d.flag .pwr 0 0x108 0 = false) :
    effGovernorQuantum lk d =
      let l := d.fld .pwr 0 0x10C 12 0
      let slew := d.fld .pwr 0 0x100 8 0
      let want := d.runningAll + (List.range 8).foldl (fun a c => a + ((d.core c).govWait.getD 0)) 0
      let lv := min (min (l + slew) (max want (l - slew))) ((enabledCores lk).length * bmax d.point)
      (placeBallast (bmax d.point) (enabledCores lk) (lv - d.runningAll) (d.showLevel lv want)).bump .pwr 0 0x114
        (if d.runningAll < lv then 1 else 0) := by
  simp only [effGovernorQuantum, hheld, hthr, Bool.false_eq_true, if_false]
  split
  next h => rw [if_pos (by omega)]; rfl
  next h => rw [if_neg (by omega)]; rfl

theorem enabledCores_lt {lk : Locked} {c : Nat} (h : c ∈ enabledCores lk) : c < 8 ∧ bit lk.coreEn c = true := by
  simpa [enabledCores] using h

end Sys2Proof.Machine

open Sys2Proof Sys2Proof.Machine

/-- Settles O52: a write of PWR_DVFS is refused at the first of its three checks that fails. -/
theorem powerPoints : Obligations.PowerPoints := by
  unfold Obligations.PowerPoints
  refine ⟨?dvfs, ?relock, ?gov, ?vcore, ?quantum⟩
  case dvfs =>
    intro s v p low why h
    have hx : exec (.pwrDvfs .secure v) s = .next { s with d := s.d.blockWrite s.lk .pwr 0 0x104 v.toNat } :=
      exec_blockWrite rfl h rfl v.isLt (by decide) nofun (by simp) (by simp)
    rw [Dev.blockWrite_dvfs] at hx
    have hp : p < 8 := bits_lt v.toNat 2 0
    obtain ⟨hval, hsch, hlow, htake⟩ := s.d.pwrDvfs_cases v.toNat
    have hcases : (∃ r code, r < 16 ∧ r ≠ 0 ∧ why = r ∧ s.d.pwrDvfs v.toNat = s.d.dvfsRefused r code) ∨
        (why = 0 ∧ s.d.pwrDvfs v.toNat =
          if pointMhz s.d.point = pointMhz p then s.d.dvfsTaken p else (s.d.dvfsTaken p).relockBegun) := by
      by_cases h5 : 5 ≤ p
      · exact .inl ⟨3, _, by decide, by decide, if_pos h5, hval h5⟩
      have h5' : p < 5 := by omega
      cases hs : s.d.flag .sch 0 0x100 0 with
      | true => exact .inl ⟨2, _, by decide, by decide, by simp [why, h5, hs], hsch h5' hs⟩
      | false =>
        by_cases hl : low
        · exact .inl ⟨1, _, by decide, by decide, by simp [why, h5, hs, hl], hlow h5' hs hl⟩
        · exact .inr ⟨by simp [why, h5, hs, hl], htake h5' hs hl⟩
    refine ⟨_, hx, ?_⟩
    obtain ⟨r, code, hr, h0, hw, he⟩ | ⟨hw, he⟩ := hcases
    · obtain ⟨hf, hpt, hcount, hkeep⟩ := s.d.dvfsRefused_regs code hr
      have hsame := s.d.dvfsRefused_regsOnly r code
      rw [he, hw]
      generalize s.d.dvfsRefused r code = e at *
      obtain ⟨rg, rfl⟩ : ∃ rg, e = { s.d with rg := rg } := ⟨_, hsame⟩
      exact ⟨rfl, hf, fun _ => ⟨hpt, rfl, hcount, hkeep⟩, fun h => absurd h h0, fun h => absurd h h0⟩
    · obtain ⟨hf, hpt, hkeep⟩ := s.d.dvfsTaken_regs hp
      have hsame : s.d.regsOnly (s.d.dvfsTaken p) := (s.d.setFld_regsOnly ..).trans (Dev.setFld_regsOnly ..)
      rw [he, hw]
      split
      next hm =>
        generalize s.d.dvfsTaken p = e at *
        obtain ⟨rg, rfl⟩ : ∃ rg, e = { s.d with rg := rg } := ⟨_, hsame⟩
        exact ⟨rfl, hf, nofun, fun _ _ => ⟨hpt, rfl, hkeep⟩, fun _ h => absurd hm h⟩
      next hm =>
        have hcru : (s.d.dvfsTaken p).reg .cru 0 0x104 = s.d.reg .cru 0 0x104 :=
          hkeep .cru 0 0x104 (by simp [RegAt.addr])
        obtain ⟨bf, bpt, b31, bcru, bdet, bcount⟩ := (s.d.dvfsTaken p).relockBegun_regs
        have hshape := (s.d.dvfsTaken p).relockBegun_shape
        rw [hf] at bf
        rw [hpt] at bpt
        rw [hcru] at bcount
        generalize (s.d.dvfsTaken p).relockBegun = f at *
        generalize s.d.dvfsTaken p = e at *
        obtain ⟨rg, rfl⟩ : ∃ rg, e = { s.d with rg := rg } := ⟨_, hsame⟩
        obtain ⟨rg', rfl⟩ : ∃ rg', f = { s.d with rg := rg', pwr := { s.d.pwr with relock := some s.d.tim.tick } } := ⟨_, hshape⟩
        exact ⟨rfl, bf, nofun, fun _ h => absurd h hm, fun _ _ => ⟨bpt, rfl, b31, bcru, bdet, bcount⟩⟩
  case relock =>
    intro s k hk he
    have hx : exec .relockDone s = .next { s with d := effRelockDone s.d } := rfl
    rw [effRelockDone_done hk he] at hx
    refine ⟨_, hx, rfl, ?_, ?_, ?_⟩
    · simp [Dev.flag]
    · simp [Dev.flag]
    · exact (s.d.keepsRegs_setFld _ _ _ _ _ _ (by simp)).trans (.rg_right (Dev.keepsRegs_setFld _ _ _ _ _ _ _ (by simp)) rfl)
  case gov =>
    intro s v on h
    have hx : exec (.pwrGov .secure v) s = .next { s with d := s.d.blockWrite s.lk .pwr 0 0x100 v.toNat } :=
      exec_blockWrite rfl h rfl v.isLt (by decide) nofun (by simp) (by simp)
    rw [Dev.blockWrite_gov] at hx
    refine ⟨_, hx, ?_⟩
    have hsame : s.d.regsOnly (s.d.pwrGov v.toNat) := by
      unfold Dev.pwrGov
      dsimp only
      split_ifs
      exacts [Dev.err_regsOnly .., Dev.err_regsOnly .., Dev.setReg_regsOnly ..]
    have hstate : { s with d := s.d.pwrGov v.toNat } = { s with d := { s.d with rg := (s.d.pwrGov v.toNat).rg } } :=
      congrArg (fun e => { s with d := e }) hsame
    refine ⟨hstate, fun hoff hcap => ?_, fun hno => ?_⟩
    · have he : s.d.pwrGov v.toNat = s.d.setReg .pwr 0 0x100 (v.toNat % 512) := by
        simp only [Dev.pwrGov, hcap, show s.d.flag .sch 0 0x100 0 = false from hoff, Bool.false_eq_true, if_false, Bool.not_true]
      rw [he]
      exact ⟨by rw [Dev.reg_setReg_self]; omega, s.d.keepsRegs_setReg _ _ _ _ (by simp)⟩
    · have he : ∃ code, s.d.pwrGov v.toNat = s.d.err .pwr 0 code 0x100 := by
        cases hs : s.d.flag .sch 0 0x100 0 with
        | true => exact ⟨errState, by simp only [Dev.pwrGov, hs, if_true]⟩
        | false =>
          have hcap : capOk (v.toNat % 512) = false := hno.resolve_left (by simp [on, hs])
          exact ⟨errValue, by simp only [Dev.pwrGov, hs, hcap, Bool.false_eq_true, if_false, Bool.not_false, if_true]⟩
      obtain ⟨code, he⟩ := he
      rw [he]
      exact ⟨Dev.reg_err_2C .., s.d.keepsRegs_err _ _ _ _ (by simp) (by simp)⟩
  case vcore =>
    intro s mv hmv hheld low
    have hx : exec (.vcoreSample mv) s = .next { s with d := effVcoreSample mv s.d } := rfl
    rw [effVcoreSample_eq hmv hheld] at hx
    dsimp only at hx
    have hreg : (s.d.sampled mv (decide low)).reg .pwr 0 0x110 = mv := by
      simp only [Dev.sampled_shape, Dev.reg_mk, Dev.reg_setReg_self]; omega
    have hkeep : s.d.keepsRegs (s.d.sampled mv (decide low)) [(.pwr, 0, 0x110)] :=
      (s.d.keepsRegs_setReg _ _ _ _ (by simp)).rg_right rfl
    have hshape := s.d.sampled_shape mv (decide low)
    simp only [decide_eq_true_eq] at hshape
    split at hx
    next h9 =>
      obtain ⟨hl, h9⟩ := h9
      have hl : low := by simpa using hl
      have hf := (s.d.sampled mv (decide low)).flag_sticky_self .pwr 0 (b := 2) (by decide) 2
      have hreg' : ((s.d.sampled mv (decide low)).sticky .pwr 0 2).reg .pwr 0 0x110 = mv := by simp [hreg]
      refine ⟨_, hx, ?_, hreg', fun _ _ => by simpa using hf, fun h => absurd h (by simp [hl, h9])⟩
      have hs := (s.d.sampled mv (decide low)).sticky_regsOnly .pwr 0 2
      generalize (s.d.sampled mv (decide low)).sticky .pwr 0 2 = f at *
      generalize s.d.sampled mv (decide low) = e at *
      subst hshape
      rw [hs]
    next h9 =>
      refine ⟨_, hx, ?_, hreg, fun hl h => absurd ⟨by simpa using hl, h⟩ h9, fun _ => hkeep⟩
      generalize s.d.sampled mv (decide low) = e at *
      rw [hshape]
  case quantum =>
    intro s l slew want n lv hheld hthr
    have hx : exec .governorQuantum s = .next { s with d := effGovernorQuantum s.lk s.d } := rfl
    rw [effGovernorQuantum_eq hheld hthr] at hx
    refine ⟨_, hx, ?_⟩
    dsimp only
    change ({ s with d := ((placeBallast (bmax s.d.point) (enabledCores s.lk) (lv - s.d.runningAll) (s.d.showLevel lv want)).bump
      .pwr 0 0x114 (if s.d.runningAll < lv then 1 else 0)) } : State) = _ ∧ _
    have hlt : ∀ c ∈ enabledCores s.lk, c < 8 := fun c hc => (enabledCores_lt hc).1
    have hregs := placeBallast_regs (bmax s.d.point) _ hlt (lv - s.d.runningAll) (s.d.showLevel lv want)
    have hcore := placeBallast_core (bmax s.d.point) _ hlt (lv - s.d.runningAll) (s.d.showLevel lv want)
    have hshape := placeBallast_shape (bmax s.d.point) (enabledCores s.lk) (lv - s.d.runningAll) (s.d.showLevel lv want)
    obtain ⟨hlv, hwant, hkeep⟩ := s.d.showLevel_regs lv want
    have hplt : ∀ o, o < 0x1000 → (placeBallast (bmax s.d.point) (enabledCores s.lk) (lv - s.d.runningAll)
        (s.d.showLevel lv want)).reg .pwr 0 o = (s.d.showLevel lv want).reg .pwr 0 o :=
      fun o ho => hregs .pwr 0 o (by simp [RegAt.addr]; omega)
    have hsame : s.d.regsOnly (s.d.showLevel lv want) := (s.d.setFld_regsOnly ..).trans (Dev.setFld_regsOnly ..)
    have hrun : (s.d.showLevel lv want).reg .pwr 0 0x114 = s.d.reg .pwr 0 0x114 := hkeep .pwr 0 0x114 (by simp [RegAt.addr])
    generalize s.d.showLevel lv want = w at *
    generalize placeBallast _ _ _ w = e at *
    refine ⟨?_, ?_, ?_, ?_, ?_, fun c hc => ?_⟩
    · rw [Dev.bump_regs]
      obtain ⟨r1, rfl⟩ : ∃ r, w = { s.d with rg := r } := ⟨_, hsame⟩
      obtain ⟨r2, cs, k, rfl⟩ : ∃ r cs k, e = { s.d with rg := r, cores := cs, fresh := k } := ⟨_, _, _, hshape⟩
      rfl
    · rw [Dev.fld, Dev.reg_bump_ne _ _ (by simp), hplt _ (by decide)]
      exact hlv
    · rw [Dev.fld, Dev.reg_bump_ne _ _ (by simp), hplt _ (by decide)]
      exact hwant
    · rw [Dev.reg_bump_self, hplt _ (by decide), hrun]
    · refine ((hkeep.mono ?_).trans (hregs.mono ?_)).trans (Dev.keepsRegs_bump _ _ _ _ _ (by simp))
      · simp
      · exact List.subset_append_right _ _
    · have hw : w.core c = s.d.core c := by rw [hsame]; rfl
      have hb : ∀ k, (e.bump .pwr 0 0x114 k).core c = e.core c := fun k => Dev.core_eq_of_cores (Dev.bump_cores ..) c
      obtain ⟨h1, h2⟩ := hcore c
      rw [hw] at h1 h2
      rw [hb]
      exact ⟨h1, fun hoff => h2 fun hm => by simp [(enabledCores_lt hm).2] at hoff⟩

end

section
/-! SUPPORT. Sensors (R579). -/

namespace Sys2Proof.Machine

/-! ## The hottest reading (R579) -/

theorem hottest_foldl (l : List (Int × Nat)) : ∀ b : Nat × Int,
    let r := l.foldl (fun b t => if b.2 < t.1 then (t.2, t.1) else b) b
    b.2 ≤ r.2 ∧ (∀ t ∈ l, t.1 ≤ r.2) ∧ (r.1 = b.1 ∨ r.1 ∈ l.map (·.2)) := by
  induction l with
  | nil => intro b; simp
  | cons t l ih =>
    intro b
    have hb : let c := if b.2 < t.1 then (t.2, t.1) else b
        b.2 ≤ c.2 ∧ t.1 ≤ c.2 ∧ (c.1 = b.1 ∨ c.1 = t.2) := by
      dsimp only
      split
      next hlt => exact ⟨hlt.le, le_rfl, .inr rfl⟩
      next hle => exact ⟨le_rfl, not_lt.1 hle, .inl rfl⟩
    rw [List.foldl_cons]
    dsimp only at hb
    generalize (if b.2 < t.1 then (t.2, t.1) else b) = c at hb
    obtain ⟨hbc, htc, hc⟩ := hb
    obtain ⟨h1, h2, h3⟩ := ih c
    refine ⟨hbc.trans h1, ?_, ?_⟩
    · intro u hu
      obtain rfl | hu := List.mem_cons.1 hu
      · exact htc.trans h1
      · exact h2 u hu
    · rw [List.map_cons, List.mem_cons]
      obtain h3 | h3 := h3
      · rw [h3]; tauto
      · exact .inr (.inr h3)

/-- No sensor is hotter, and the sensor named is one of them. -/
theorem hottest_spec (ts : List Int) (h : ts.length = 24) :
    (hottest ts).1 < 24 ∧ ∀ i < 24, ts.getD i 0 ≤ (hottest ts).2 := by
  obtain ⟨-, h2, h3⟩ := hottest_foldl ts.zipIdx (0, ts.headD 0)
  constructor
  · obtain h3 | h3 := h3
    · rw [hottest, h3]; exact (by decide : 0 < 24)
    · rw [List.zipIdx_map_snd, List.mem_range'_1] at h3
      rw [hottest]; omega
  · intro i hi
    have hi' : i < ts.length := by omega
    have := h2 (ts[i], i) (List.mem_zipIdx_iff_getElem?.2 (by simp [hi']))
    rwa [List.getD_eq_getElem _ _ hi']

/-! ## Registers in a row -/

/-- Registers `o`, `o + 4`, … of a page, written in order. -/
theorem Dev.setRegs_spec (p : Page) (m o : Nat) (f : Nat → Nat) (n : Nat) (d : Dev) :
    let e := (List.range n).foldl (fun d i => d.setReg p m (o + 4 * i) (f i)) d
    d.regsOnly e ∧ (∀ j < n, e.reg p m (o + 4 * j) = f j % 2 ^ 32) ∧
    ∀ q k i, (∀ j < n, q.base k + i ≠ p.base m + (o + 4 * j)) → e.reg q k i = d.reg q k i := by
  induction n with
  | zero => exact ⟨.refl d, fun _ h => absurd h (Nat.not_lt_zero _), fun _ _ _ _ => rfl⟩
  | succ n ih =>
    obtain ⟨h1, h2, h3⟩ := ih
    rw [List.range_succ, List.foldl_append]
    refine ⟨h1.trans (Dev.setReg_regsOnly ..), fun j hj => ?_, fun q k i hi => ?_⟩
    · rw [List.foldl_cons, List.foldl_nil, Dev.reg_setReg]
      split
      next h => rw [show j = n by omega]
      next h => exact h2 j (by omega)
    · rw [List.foldl_cons, List.foldl_nil, Dev.reg_setReg_ne _ _ (hi n (Nat.lt_succ_self n))]
      exact h3 q k i fun j hj => hi j (by omega)

/-! ## SENSOR_READ (R579) -/

/-- The readings are shown, and the hottest of them with its sensor. -/
def Dev.showTemps (d : Dev) (ts : List Int) : Dev :=
  ((List.range 24).foldl (fun d i => d.setReg .pwr 0 (0x180 + 4 * i) (ofS 16 (ts.getD i 0))) d).setReg .pwr 0 0x144
    (65536 * (hottest ts).1 + ofS 16 (hottest ts).2)

/-- WARN comes and goes with its hysteresis. -/
def Dev.warnAt (d : Dev) (warn h : Int) : Dev :=
  if warn ≤ h then if d.pwr.warned then d else Dev.sticky { d with pwr := { d.pwr with warned := true } } .pwr 0 0
  else if h < warn - 12 then { d with pwr := { d.pwr with warned := false } } else d

/-- Throttling comes and goes with its hysteresis. -/
def Dev.throttleAt (d : Dev) (thr h : Int) : Dev :=
  if thr ≤ h then if d.flag .pwr 0 0x108 0 then d else (d.setReg .pwr 0 0x108 1).sticky .pwr 0 1
  else if h < thr - 12 then d.setReg .pwr 0 0x108 0 else d

theorem effSensorRead_eq {ts : List Int} {d : Dev} (hheld : d.pwr.held = false) : effSensorRead ts d =
    let e := Dev.showTemps { d with pwr := { d.pwr with hottest := (hottest ts).2 } } ts
    (e.warnAt (4 * (e.fld .pwr 0 0x140 7 0 : Nat)) (hottest ts).2).throttleAt (4 * (e.fld .pwr 0 0x140 15 8 : Nat)) (hottest ts).2 := by
  simp only [effSensorRead, hheld, Bool.false_eq_true, if_false]
  rfl

theorem ofS_lt (w : Nat) (x : Int) : ofS w x < 2 ^ w := by
  unfold ofS
  have h1 : 0 ≤ x % ((2 ^ w : Nat) : Int) := Int.emod_nonneg _ (by positivity)
  have h2 : x % ((2 ^ w : Nat) : Int) < ((2 ^ w : Nat) : Int) := Int.emod_lt_of_pos _ (by positivity)
  omega

theorem Dev.showTemps_regs (d : Dev) (ts : List Int) (h : ts.length = 24) :
    d.regsOnly (d.showTemps ts) ∧ (∀ i < 24, (d.showTemps ts).reg .pwr 0 (0x180 + 4 * i) = ofS 16 (ts.getD i 0)) ∧
    (d.showTemps ts).reg .pwr 0 0x144 = 65536 * (hottest ts).1 + ofS 16 (hottest ts).2 ∧
    ∀ o ∈ [0x108, 0x140, 0x148], (d.showTemps ts).reg .pwr 0 o = d.reg .pwr 0 o := by
  obtain ⟨h1, h2, h3⟩ := d.setRegs_spec .pwr 0 0x180 (fun i => ofS 16 (ts.getD i 0)) 24
  have hlt := (hottest_spec ts h).1
  have h16 := ofS_lt 16 (hottest ts).2
  refine ⟨h1.trans (Dev.setReg_regsOnly ..), fun i hi => ?_, ?_, fun o ho => ?_⟩
  · rw [Dev.showTemps, Dev.reg_setReg_ne _ _ (by simp; omega), h2 i hi]
    exact Nat.mod_eq_of_lt ((ofS_lt 16 _).trans (by decide))
  · rw [Dev.showTemps, Dev.reg_setReg_self]
    omega
  · have : o < 0x144 ∨ o = 0x148 := by simp at ho; omega
    rw [Dev.showTemps, Dev.reg_setReg_ne _ _ (by simp; omega), h3 _ _ _ fun j hj => by simp; omega]

theorem Dev.warnAt_spec (d : Dev) (warn h : Int) :
    (∃ r b, d.warnAt warn h = { d with rg := r, pwr := { d.pwr with warned := b } }) ∧
    d.keepsRegs (d.warnAt warn h) [(.pwr, 0, 0x148), (.pwr, 0, 0x020)] := by
  unfold Dev.warnAt
  split
  · split
    · exact ⟨⟨d.rg, d.pwr.warned, rfl⟩, .refl d _⟩
    · refine ⟨⟨_, true, Dev.sticky_regs _ .pwr 0 0⟩, ?_⟩
      exact (Dev.keepsRegs_of_rg (e := { d with pwr := { d.pwr with warned := true } }) rfl _).trans
        (Dev.keepsRegs_sticky _ _ _ _ (by simp) (by simp))
  · split
    · exact ⟨⟨d.rg, false, rfl⟩, Dev.keepsRegs_of_rg rfl _⟩
    · exact ⟨⟨d.rg, d.pwr.warned, rfl⟩, .refl d _⟩

theorem Dev.throttleAt_spec (d : Dev) (thr h : Int) :
    d.regsOnly (d.throttleAt thr h) ∧
    d.keepsRegs (d.throttleAt thr h) [(.pwr, 0, 0x108), (.pwr, 0, 0x148), (.pwr, 0, 0x020)] ∧
    (d.throttleAt thr h).flag .pwr 0 0x108 0 = (if thr ≤ h then true else if h < thr - 12 then false else d.flag .pwr 0 0x108 0) ∧
    (thr ≤ h → d.flag .pwr 0 0x108 0 = false → (d.throttleAt thr h).flag .pwr 0 0x148 1 = true) := by
  unfold Dev.throttleAt
  by_cases ht : thr ≤ h
  · cases hf : d.flag .pwr 0 0x108 0 with
    | true => simpa [ht, hf] using Dev.keepsRegs.refl d _
    | false =>
      simp only [ht, if_true, Bool.false_eq_true, if_false]
      refine ⟨(d.setReg_regsOnly ..).trans (Dev.sticky_regsOnly ..), ?_, ?_, fun _ _ => ?_⟩
      · exact (d.keepsRegs_setReg _ _ _ _ (by simp)).trans (Dev.keepsRegs_sticky _ _ _ _ (by simp) (by simp))
      · simp [Dev.flag]; rfl
      · have := (d.setReg .pwr 0 0x108 1).flag_sticky_self .pwr 0 (b := 1) (by decide) 1
        simpa using this
  · by_cases hl : h < thr - 12
    · simp only [ht, hl, if_true, if_false]
      refine ⟨d.setReg_regsOnly .., d.keepsRegs_setReg _ _ _ _ (by simp), ?_, False.elim⟩
      simp [Dev.flag]; rfl
    · simpa [ht, hl] using Dev.keepsRegs.refl d _

/-! ## Board management (R582 to R584) -/

theorem effAlertN_changes {d : Dev} (h : (d.irqHigh .pwr 0 && !d.pwr.held) ≠ d.pwr.alertLow) : effAlertN d =
    let low := d.irqHigh .pwr 0 && !d.pwr.held
    { d with pwr := { d.pwr with alertLow := low }
             out := d.out ++ [.pin "ALERT_N" !low] ++ if low then [.pin "I3C_IBI" true] else [] } := by
  have hb : ((d.irqHigh .pwr 0 && !d.pwr.held) == d.pwr.alertLow) = false := by simpa using h
  simp only [effAlertN, hb, Bool.false_eq_true, if_false]
  split
  · rfl
  · simp [Dev.emit]

/-- Outside a reset by RST_N, EXTEST and CLAMP do nothing (R584). -/
theorem effBoundaryScan_idle {i : Fin 6} {bs : List Bool} {d : Dev} (hi : i = 3 ∨ i = 4)
    (ha : ¬(d.pwr.held = true ∧ d.pwr.rstLow = true)) : effBoundaryScan i.val bs d = d := by
  have ha : (d.pwr.held && d.pwr.rstLow) = false := by simpa using ha
  obtain rfl | rfl := hi <;> simp [effBoundaryScan, ha]

/-- What instruction `i` shifts out (R584). -/
def Dev.scanOut (d : Dev) (i : Fin 6) (bs : List Bool) : List Out :=
  match i with
  | 1 => [.scan (bitsOf 32 0x1483A2C7)]
  | 2 => [.scan (bitsOf bs.length (Config.freeNat d.fresh))]
  | 3 => [.scan (bitsOf bs.length (Config.freeNat d.fresh)), .pin "BOUNDARY" true]
  | _ => [.scan ((false :: bs).take bs.length)]

theorem effBoundaryScan_acts {i : Fin 6} {bs : List Bool} {d : Dev}
    (hi : (i ≠ 3 ∧ i ≠ 4) ∨ (d.pwr.held = true ∧ d.pwr.rstLow = true)) : effBoundaryScan i.val bs d =
      { d with
        pwr := { d.pwr with jtag := i.val, bsr := if i = 2 ∨ i = 3 then bs else d.pwr.bsr }
        fresh := if i = 2 ∨ i = 3 then d.fresh + 1 else d.fresh
        out := d.out ++ d.scanOut i bs } := by
  have hgo : ((i.val == 3 || i.val == 4) && !(d.pwr.held && d.pwr.rstLow)) = false := by
    obtain ⟨h3, h4⟩ | ⟨h1, h2⟩ := hi
    · have : i.val ≠ 3 ∧ i.val ≠ 4 := ⟨fun h => h3 (Fin.ext h), fun h => h4 (Fin.ext h)⟩
      simp [this]
    · simp [h1, h2]
  unfold effBoundaryScan
  dsimp only
  rw [hgo]
  fin_cases i <;> simp [Dev.emit, Dev.draw, Dev.scanOut]

end Sys2Proof.Machine

open Sys2Proof Sys2Proof.Machine

/-- Settles O53: the readings are shown before WARN and THR are compared with the hottest of them. -/
theorem sensorsAndManagement : Obligations.SensorsAndManagement := by
  unfold Obligations.SensorsAndManagement
  refine ⟨?sensors, ?i3cWrite, ?i3cRead, ?alert, ?scan⟩
  case sensors =>
    intro s ts hlen hheld h thr
    have hx : exec (.sensorRead ts) s = .next { s with d := effSensorRead ts s.d } := rfl
    rw [effSensorRead_eq hheld] at hx
    dsimp only at hx
    obtain ⟨h0, htemps, hhot, hkeep⟩ := Dev.showTemps_regs { s.d with pwr := { s.d.pwr with hottest := h } } ts hlen
    have hthr : thr = 4 * ((Dev.showTemps { s.d with pwr := { s.d.pwr with hottest := h } } ts).fld .pwr 0 0x140 15 8 : Nat) := by
      rw [Dev.fld, hkeep _ (by simp)]; rfl
    have h108 : (Dev.showTemps { s.d with pwr := { s.d.pwr with hottest := h } } ts).flag .pwr 0 0x108 0 =
        s.d.flag .pwr 0 0x108 0 := by
      rw [Dev.flag, hkeep _ (by simp)]; rfl
    rw [← hthr] at hx
    refine ⟨_, hx, ?_⟩
    generalize Dev.showTemps { s.d with pwr := { s.d.pwr with hottest := h } } ts = e at *
    obtain ⟨⟨r1, b, hw⟩, hwk⟩ := e.warnAt_spec (4 * (e.fld .pwr 0 0x140 7 0 : Nat)) h
    change ({ s with d := (e.warnAt (4 * (e.fld .pwr 0 0x140 7 0 : Nat)) h).throttleAt thr h } : State) = _ ∧ _
    generalize e.warnAt (4 * (e.fld .pwr 0 0x140 7 0 : Nat)) h = f at *
    obtain ⟨ht, htk, hflag, hsticky⟩ := f.throttleAt_spec thr h
    have hf108 : f.flag .pwr 0 0x108 0 = s.d.flag .pwr 0 0x108 0 := by
      rw [← h108, Dev.flag, Dev.flag, hwk _ _ _ (by simp [RegAt.addr])]
    rw [hf108] at hflag hsticky
    have hreg : ∀ o, o ≠ 0x108 → o ≠ 0x148 → o ≠ 0x020 → (f.throttleAt thr h).reg .pwr 0 o = e.reg .pwr 0 o := by
      intro o h1 h2 h3
      rw [htk _ _ _ (by simp [RegAt.addr]; omega), hwk _ _ _ (by simp [RegAt.addr]; omega)]
    refine ⟨?_, fun i hi => ?_, ?_, hflag, hsticky, (hottest_spec ts hlen).2⟩
    · generalize f.throttleAt thr h = g at *
      obtain ⟨r2, rfl⟩ : ∃ r, e = { s.d with rg := r, pwr := { s.d.pwr with hottest := h } } := ⟨_, h0⟩
      subst hw
      obtain ⟨r3, rfl⟩ : ∃ r, g = { s.d with rg := r, pwr := { s.d.pwr with hottest := h, warned := b } } := ⟨_, ht⟩
      rfl
    · exact (hreg _ (by omega) (by omega) (by omega)).trans (htemps i hi)
    · exact (hreg _ (by decide) (by decide) (by decide)).trans hhot
  case i3cWrite =>
    intro s bs hheld
    have hx : exec (.i3cWrite bs) s = .next { s with d := effI3cWrite bs s.d } := rfl
    refine ⟨_, hx, ?_⟩
    by_cases hl : bs.length = 2
    · simp [effI3cWrite, hheld, hl]
    · have he : effI3cWrite bs s.d = s.d := by simp [effI3cWrite, hl]
      rw [he, if_neg hl]
  case i3cRead =>
    intro s o hheld ho h4 hlt
    have hx : exec .i3cRead s = .next { s with d := effI3cRead s.lk s.d } := rfl
    refine ⟨_, hx, ?_⟩
    simp [effI3cRead, hheld, ho, h4, hlt, Dev.emit]
  case alert =>
    intro s low hlow
    have hx : exec .alertN s = .next { s with d := effAlertN s.d } := rfl
    exact ⟨_, hx, by rw [effAlertN_changes hlow]⟩
  case scan =>
    intro s i bs acts
    have hx : exec (.boundaryScan i bs) s = .next { s with d := effBoundaryScan i.val bs s.d } := rfl
    refine ⟨_, hx, fun hi ha => ?_, fun hi => ?_⟩
    · rw [effBoundaryScan_idle hi ha]
    · rw [effBoundaryScan_acts hi]
      refine ⟨rfl, fun h1 => ?_, fun h045 => ?_⟩
      · subst h1; rfl
      · obtain rfl | rfl | rfl := h045 <;> rfl

end

section
/-! SUPPORT. The resets of the device, of the PCI page and of the PLLs (O54). -/

namespace Sys2Proof.Machine

/-! ## A reset of the device (R562, R577) -/

/-- The device that a reset of `d` starts from: what stays is what has gone out and the state of the balls. -/
def Dev.afterReset (d : Dev) : Dev :=
  { Dev.fresh0 d.fresh with
    out := d.out
    pwr := { held := true, auxLost := d.pwr.auxLost, rstLow := d.pwr.rstLow, perstLow := d.pwr.perstLow
             refclk := d.pwr.refclk, tripped := d.pwr.tripped, hottest := d.pwr.hottest } }

theorem deviceReset_zero (d : Dev) : deviceReset 0 d = ({}, d.afterReset) := rfl

theorem deviceReset_pos {c : Nat} (hc : c ≠ 0) (d : Dev) : deviceReset c d =
    ({}, (d.afterReset.setReg .pwr 0 0x120 (d.reg .pwr 0 0x120 ||| 2 ^ c)).setReg .pwr 0 0x124 (d.reg .pwr 0 0x124)) := by
  simp only [deviceReset, hc, if_false]
  rfl

theorem Dev.reg_afterReset (d : Dev) (p : Page) (n o : Nat) : d.afterReset.reg p n o = (regReset (p.base n + o)).toNat := by
  unfold Dev.reg
  rfl

/-- What each source of reset but POR leaves (R562, R577): the causes that were counted, PWR_RSTCFG and what went out. -/
def State.ResetBy (s : State) (k : Nat) (t : State) : Prop :=
  t.pending = s.pending ∧ t.lk = {} ∧
  t.d = { Dev.fresh0 s.d.fresh with rg := t.d.rg, pwr := t.d.pwr, out := t.d.out } ∧ t.d.pwr.held = true ∧
  t.d.reg .pwr 0 0x120 = s.d.reg .pwr 0 0x120 ||| 2 ^ k ∧ t.d.reg .pwr 0 0x124 = s.d.reg .pwr 0 0x124 ∧
  (∀ p n o, p.base n + o ≠ 0x2120 → p.base n + o ≠ 0x2124 → t.d.reg p n o = (regReset (p.base n + o)).toNat) ∧
  s.d.out <+: t.d.out

/-- A device that differs from that of `s` in what went out and in the balls alone is reset as `s` says. -/
theorem deviceReset_resetBy {s : State} {k : Nat} {e : Dev} (hk : 0 < k ∧ k < 32) (hrg : e.rg = s.d.rg)
    (hf : e.fresh = s.d.fresh) (hout : s.d.out <+: e.out) :
    s.ResetBy k { s with lk := (deviceReset k e).1, d := (deviceReset k e).2 } := by
  rw [deviceReset_pos (by omega), Dev.reg_congr hrg, Dev.reg_congr hrg]
  have h120 : s.d.reg .pwr 0 0x120 ||| 2 ^ k < 2 ^ 32 :=
    Nat.or_lt_two_pow (s.d.reg_lt ..) (Nat.pow_lt_pow_right (by decide) hk.2)
  have h124 := s.d.reg_lt .pwr 0 0x124
  unfold State.ResetBy
  generalize s.d.reg .pwr 0 0x120 ||| 2 ^ k = a at *
  have h0 := (e.afterReset.setReg_regsOnly .pwr 0 0x120 a).trans (Dev.setReg_regsOnly _ .pwr 0 0x124 (s.d.reg .pwr 0 0x124))
  have ha : ((e.afterReset.setReg .pwr 0 0x120 a).setReg .pwr 0 0x124 (s.d.reg .pwr 0 0x124)).reg .pwr 0 0x120 = a := by
    rw [Dev.reg_setReg_off _ _ _ _ (by decide), Dev.reg_setReg_self, Nat.mod_eq_of_lt h120]
  have hc : ((e.afterReset.setReg .pwr 0 0x120 a).setReg .pwr 0 0x124 (s.d.reg .pwr 0 0x124)).reg .pwr 0 0x124 =
      s.d.reg .pwr 0 0x124 := by rw [Dev.reg_setReg_self, Nat.mod_eq_of_lt h124]
  have hr (p : Page) (n o : Nat) (h1 : p.base n + o ≠ 0x2120) (h2 : p.base n + o ≠ 0x2124) :
      ((e.afterReset.setReg .pwr 0 0x120 a).setReg .pwr 0 0x124 (s.d.reg .pwr 0 0x124)).reg p n o =
        (regReset (p.base n + o)).toNat := by
    rw [Dev.reg_setReg_ne _ _ h2, Dev.reg_setReg_ne _ _ h1, Dev.reg_afterReset]
  dsimp only
  generalize (e.afterReset.setReg .pwr 0 0x120 a).setReg .pwr 0 0x124 (s.d.reg .pwr 0 0x124) = t at *
  obtain ⟨r, rfl⟩ : ∃ r, t = { e.afterReset with rg := r } := ⟨_, h0⟩
  refine ⟨rfl, rfl, ?_, rfl, ha, hc, hr, hout⟩
  unfold Dev.afterReset
  rw [hf]

/-- The release of THERMTRIP_N changes that ball alone (R580). -/
theorem Dev.untrip_shape (d : Dev) : d.untrip.rg = d.rg ∧ d.untrip.fresh = d.fresh ∧ d.out <+: d.untrip.out := by
  unfold Dev.untrip
  split_ifs
  · exact ⟨rfl, rfl, List.prefix_append ..⟩
  · exact ⟨rfl, rfl, List.prefix_rfl⟩

theorem effRstPin_long {ns : Nat} (h : 1000 ≤ ns) (lk : Locked) (d : Dev) :
    effRstPin ns lk d = deviceReset 2 { d.untrip with pwr := { d.untrip.pwr with rstLow := true } } := by
  unfold effRstPin
  rw [if_neg (by omega), if_pos h]

/-- PERST_N of device scope resets the device (R578). -/
theorem effPerst_device {lk : Locked} {d : Dev} (h : d.flag .pwr 0 0x124 0 = false) :
    effPerst lk d = deviceReset 3 { d with pwr := { d.pwr with perstLow := true } } := by
  have h' : ({ d with pwr := { d.pwr with perstLow := true } } : Dev).flag .pwr 0 0x124 0 = false := h
  unfold effPerst
  simp only [h', Bool.false_eq_true, if_false]

theorem writeReg_swrst {v : Nat} {s : State} (h : s.d.takesWrite s.lk .secure .pwr 0) (hv : v < 2 ^ 32) :
    writeReg .secure .pwr 0 0x128 v s.lk s.d = pwrSwrst v s.lk s.d := by
  rw [writeReg_reaches rfl (by decide) h, Nat.mod_eq_of_lt hv]
  simp [regWrite]

/-- A reset after which the rails may have cycled (R562, R577). -/
theorem afterReset_shape {d e : Dev} (hf : e.fresh = d.fresh) (hout : d.out <+: e.out) :
    e.afterReset = { Dev.fresh0 d.fresh with pwr := e.afterReset.pwr, out := e.afterReset.out } ∧
    e.afterReset.pwr.held = true ∧ e.afterReset.pwr.auxLost = e.pwr.auxLost ∧ d.out <+: e.afterReset.out := by
  refine ⟨?_, rfl, rfl, hout⟩
  unfold Dev.afterReset
  rw [hf]

/-! ## A reset of the PCI page (R578) -/

theorem amGet_filter {α : Type} (q : Nat → Bool) (m : List (Nat × α)) (a : Nat) :
    amGet (m.filter fun x => q x.1) a = if q a then amGet m a else none := by
  induction m with
  | nil => simp [amGet]
  | cons x m ih =>
    rw [List.filter_cons]
    by_cases hx : q x.1 = true
    · rw [if_pos hx]
      by_cases ha : x.1 = a
      · subst ha; simp [amGet, hx]
      · simp [amGet, ha, ih]
    · rw [if_neg hx, ih]
      by_cases ha : x.1 = a
      · subst ha; simp [hx]
      · simp [amGet, ha]

theorem RegMap.get_filter (q : Nat → Bool) (m : RegMap) (a : Nat) :
    RegMap.get (m.filter fun x => q x.1) a = if q a then m.get a else regReset a := by
  unfold RegMap.get
  rw [amGet_filter]
  split_ifs <;> rfl

/-- The device with the PCI page at its reset values and the link down. -/
def Dev.pciCleared (d : Dev) : Dev :=
  { d with
    rg := d.rg.filter fun (x : Nat × W32) => !(decide (Page.base .pci 0 ≤ x.1) && decide (x.1 < Page.base .pci 0 + 0x1000))
    pci := { events := d.pci.events, records := d.pci.records, evSeq := d.pci.evSeq, ulSeq := d.pci.ulSeq, linkUp := false } }

theorem Dev.reg_pciCleared (d : Dev) (p : Page) (n o : Nat) : d.pciCleared.reg p n o =
    if 0xC0000 ≤ p.base n + o ∧ p.base n + o < 0xC1000 then (regReset (p.base n + o)).toNat else d.reg p n o := by
  unfold Dev.reg Dev.pciCleared
  simp only [RegMap.get_filter fun a => !(decide (Page.base .pci 0 ≤ a) && decide (a < Page.base .pci 0 + 0x1000))]
  by_cases h : 0xC0000 ≤ p.base n + o ∧ p.base n + o < 0xC1000
  · obtain ⟨h1, h2⟩ := h
    simp [h1, h2]
  · have hb : (decide (Page.base .pci 0 ≤ p.base n + o) && decide (p.base n + o < Page.base .pci 0 + 0x1000)) = false := by
      simpa using h
    rw [hb, if_neg h]
    rfl

theorem Dev.pcieReset_eq (d : Dev) : d.pcieReset = ((d.pciCleared.setReg .pci 0 0x008 (d.reg .pci 0 0x008)).setReg .pci 0 0x010
    (d.reg .pci 0 0x010)).setReg .pci 0 0x01C (d.reg .pci 0 0x01C) := rfl

theorem Dev.reg_pcieReset (d : Dev) {p : Page} {n o : Nat} (h8 : p.base n + o ≠ 0xC0008) (h10 : p.base n + o ≠ 0xC0010)
    (h1c : p.base n + o ≠ 0xC001C) : d.pcieReset.reg p n o =
    if 0xC0000 ≤ p.base n + o ∧ p.base n + o < 0xC1000 then (regReset (p.base n + o)).toNat else d.reg p n o := by
  rw [Dev.pcieReset_eq, Dev.reg_setReg_ne _ _ h1c, Dev.reg_setReg_ne _ _ h10, Dev.reg_setReg_ne _ _ h8, Dev.reg_pciCleared]

theorem Dev.pcieReset_shape (d : Dev) : d.pcieReset = { d.pciCleared with rg := d.pcieReset.rg } :=
  ((Dev.setReg_regsOnly ..).trans (Dev.setReg_regsOnly ..)).trans (Dev.setReg_regsOnly ..)

/-- PERST_N of PCIe scope resets the PCI page alone (R578). -/
theorem effPerst_pcie {lk : Locked} {d : Dev} (h : d.flag .pwr 0 0x124 0 = true) (hh : d.pwr.held = false) :
    effPerst lk d = (lk, { ({ d with pwr := { d.pwr with perstLow := true } } : Dev).pcieReset with
      pwr := { d.pwr with perstLow := true, pcieHeld := true } }) := by
  have h' : ({ d with pwr := { d.pwr with perstLow := true } } : Dev).flag .pwr 0 0x124 0 = true := h
  unfold effPerst
  dsimp only
  rw [if_pos h', hh]
  rfl

/-! ## The end of a reset, and the locks of the PLLs (R562, R575, R576) -/

theorem effResetRelease_go {d : Dev} (hh : d.pwr.held = true) (ha : d.pwr.auxLost = false) (ht : d.pwr.tripped = false)
    (hp : d.pwr.perstLow = true → d.flag .pwr 0 0x124 0 = true) : effResetRelease d =
      { d with
        pwr := { d.pwr with held := false, rstLow := false, refclk := true, pcieHeld := d.pwr.perstLow }
        pci := { d.pci with linkUp := !d.pwr.perstLow } } := by
  have hb : (!d.pwr.held || d.pwr.auxLost || d.pwr.tripped || (d.pwr.perstLow && !d.flag .pwr 0 0x124 0)) = false := by
    cases hl : d.pwr.perstLow
    · simp [hh, ha, ht]
    · simp [hh, ha, ht, hp hl]
  unfold effResetRelease
  rw [hb]
  rfl

theorem removeAll_of_notMem {a : Nat} {l : List Nat} (h : a ∉ l) : removeAll a l = l := by
  refine List.filter_eq_self.2 fun b hb => ?_
  have : b ≠ a := fun he => h (he ▸ hb)
  simpa using this

theorem mem_insertSorted_self (a : Nat) (l : List Nat) : a ∈ insertSorted a l := by
  induction l with
  | nil => simp [insertSorted]
  | cons b l ih =>
    unfold insertSorted
    split_ifs with h1 h2
    · simp
    · simp [h2]
    · simp [ih]

/-- A PLL that had lost lock has relocked: the relock is counted and alignment is lost (R509, R576). -/
def Dev.relocked (d : Dev) (i : Nat) : Dev :=
  effAlignLost (Dev.bump { d with pwr := { d.pwr with lost := removeAll i d.pwr.lost } } .cru 0 0x104 1)

theorem effPllLock_eq {i : Nat} {d : Dev} (hi : i < 9) (hh : d.pwr.held = false) : effPllLock i d =
    if i ∈ d.pwr.lost then (d.setFld .cru 0 0x100 i i 1).relocked i else d.setFld .cru 0 0x100 i i 1 := by
  unfold effPllLock
  rw [if_neg (by simp [hh]; omega)]
  dsimp only
  change (if d.pwr.lost.contains i = true then _ else _) = _
  simp only [List.contains_iff_mem]
  rfl

theorem Dev.relocked_shape (d : Dev) (i : Nat) :
    d.relocked i = { d with rg := (d.relocked i).rg, pwr := { d.pwr with lost := removeAll i d.pwr.lost } } := by
  have h (e : Dev) : e.regsOnly (effAlignLost (e.bump .cru 0 0x104 1)) :=
    (e.bump_regsOnly ..).trans (effAlignLost_regsOnly _)
  exact h _

theorem Dev.relocked_regs (d : Dev) (i : Nat) : (d.relocked i).reg .cru 0 0x100 = d.reg .cru 0 0x100 ∧
    (d.relocked i).flag .det 0 0x104 0 = false ∧ (d.relocked i).reg .cru 0 0x104 = satAdd (d.reg .cru 0 0x104) 1 := by
  simp [Dev.relocked, effAlignLost, Dev.flag]

/-- A locked-family PLL that has lock loses it (R576). -/
theorem effLosesLock_eq {i : Nat} {d : Dev} (hi : i < 4) (hl : d.flag .cru 0 0x100 i = true) : effLosesLock i d =
    { d.setFld .cru 0 0x100 i i 0 with pwr := { d.pwr with lost := insertSorted i d.pwr.lost } } := by
  unfold effLosesLock
  rw [if_neg (by simp [hl]; omega)]

end Sys2Proof.Machine

open Sys2Proof Sys2Proof.Machine

/-- Settles O54: every source resets by deviceReset, on a device whose registers are as they were. -/
theorem resets : Obligations.Resets := by
  unfold Obligations.Resets
  refine ⟨?causes, ?por, ?short, ?other, ?pcie, ?perstRelease, ?resetRelease, ?pllLock, ?losesLock⟩
  case causes =>
    rintro s k i (⟨rfl, rfl⟩ | ⟨rfl, ns, hns, rfl⟩ | ⟨rfl, rfl, hscope⟩ | ⟨rfl, rfl⟩ | ⟨rfl, rfl, hhot⟩ | ⟨rfl, rfl, hw⟩)
    · obtain ⟨hrg, hf, hout⟩ := s.d.untrip_shape
      exact ⟨_, rfl, deviceReset_resetBy (by decide) hrg hf hout⟩
    · obtain ⟨hrg, hf, hout⟩ := s.d.untrip_shape
      have hx : exec (.rstPin ns) s = .next (s.onAll (effRstPin ns)) := rfl
      rw [State.onAll, effRstPin_long hns] at hx
      exact ⟨_, hx, deviceReset_resetBy (by decide) hrg hf hout⟩
    · have hx : exec .perst s = .next (s.onAll effPerst) := rfl
      rw [State.onAll, effPerst_device hscope] at hx
      exact ⟨_, hx, deviceReset_resetBy (by decide) rfl rfl List.prefix_rfl⟩
    · exact ⟨_, rfl, deviceReset_resetBy (by decide) rfl rfl List.prefix_rfl⟩
    · have hx : exec .thermtrip s = .next (s.onAll effThermtrip) := rfl
      rw [State.onAll, effThermtrip, if_neg (by omega)] at hx
      exact ⟨_, hx, deviceReset_resetBy (by decide) rfl rfl (List.prefix_append ..)⟩
    · have hx : exec (.swrst .secure 0xA55A) s = .next (s.onAll (writeReg .secure .pwr 0 0x128 0xA55A)) := rfl
      rw [State.onAll, writeReg_swrst hw (by decide), pwrSwrst, if_pos rfl] at hx
      exact ⟨_, hx, deviceReset_resetBy (by decide) rfl rfl List.prefix_rfl⟩
  case por =>
    rintro s i (rfl | rfl)
    · obtain ⟨hrg, hf, hout⟩ := s.d.untrip_shape
      have hx : exec .por s = .next { s with lk := {}, d := Dev.afterReset { s.d.untrip with pwr := { s.d.untrip.pwr with auxLost := false } } } := rfl
      obtain ⟨h1, h2, h3, h4⟩ := afterReset_shape (d := s.d)
        (e := { s.d.untrip with pwr := { s.d.untrip.pwr with auxLost := false } }) hf hout
      exact ⟨_, hx, rfl, rfl, h1, h2, h3.trans (by simp), h4⟩
    · have hx : exec (.brownout false) s = .next { s with lk := {}, d := Dev.afterReset { s.d with pwr := { s.d.pwr with auxLost := true } } } := rfl
      obtain ⟨h1, h2, h3, h4⟩ := afterReset_shape (d := s.d)
        (e := { s.d with pwr := { s.d.pwr with auxLost := true } }) rfl List.prefix_rfl
      exact ⟨_, hx, rfl, rfl, h1, h2, h3.trans (by simp), h4⟩
  case short =>
    rintro s i (⟨ns, hns, rfl⟩ | ⟨rfl, hhot⟩)
    · exact exec_onAll (f := effRstPin ns) rfl (by simp [effRstPin, hns])
    · exact exec_onAll (f := effThermtrip) rfl (by simp [effThermtrip, hhot])
  case other =>
    intro s v hv hw
    have hne : v.toNat ≠ 0xA55A := fun h => hv (BitVec.eq_of_toNat_eq h)
    have hx : exec (.swrst .secure v) s = .next { s with d := s.d.err .pwr 0 errValue 0x128 } :=
      exec_onAll (f := writeReg .secure .pwr 0 0x128 v.toNat) rfl (by rw [writeReg_swrst hw v.isLt, pwrSwrst, if_neg hne])
    refine ⟨_, hx, ?_, s.d.reg_err_2C ..  , Dev.keepsRegs_err _ _ _ _ _ (by simp) (by simp)⟩
    exact congrArg (fun e => ({ s with d := e } : State)) (s.d.err_regsOnly ..)
  case pcie =>
    intro s hscope hheld
    have hx := exec_onAll (s := s) (i := .perst) rfl (effPerst_pcie (lk := s.lk) hscope hheld)
    refine ⟨_, hx, ?_⟩
    have h0 := Dev.pcieReset_shape { s.d with pwr := { s.d.pwr with perstLow := true } }
    have hr := @Dev.reg_pcieReset { s.d with pwr := { s.d.pwr with perstLow := true } }
    generalize Dev.pcieReset { s.d with pwr := { s.d.pwr with perstLow := true } } = e at *
    obtain ⟨r, rfl⟩ : ∃ r, e = { Dev.pciCleared { s.d with pwr := { s.d.pwr with perstLow := true } } with rg := r } := ⟨_, h0⟩
    refine ⟨rfl, rfl, rfl, rfl, fun o h1 h2 => ?_, fun p n o h => ?_⟩
    · have := hr (p := .pci) (n := 0) (o := o) (by simp; omega) (by simp; omega) (by simp; omega)
      rw [if_pos (by simp; omega)] at this
      exact this
    · have := hr (p := p) (n := n) (o := o) (by omega) (by omega) (by omega)
      rw [if_neg (by omega)] at this
      exact this
  case perstRelease =>
    intro s
    refine ⟨_, rfl, ?_⟩
    cases hp : s.d.pwr.pcieHeld <;> simp [State.onDev, effPerstRelease, hp]
  case resetRelease =>
    intro s hh ha ht hp
    exact ⟨_, exec_onDev (f := effResetRelease) rfl (effResetRelease_go hh ha ht hp), rfl⟩
  case pllLock =>
    intro s i hh
    have hx := exec_onDev (s := s) (i := .pllLock i) (f := effPllLock i.val) rfl (effPllLock_eq i.isLt hh)
    refine ⟨_, hx, ?_⟩
    have h1 : (s.d.setFld .cru 0 0x100 i i 1).flag .cru 0 0x100 i = true := by
      rw [Dev.flag_setFld_self _ _ _ _ _ _ _ _ (by omega) (by omega)]; simp
    have hk : s.d.keepsRegs (s.d.setFld .cru 0 0x100 i i 1) [(.cru, 0, 0x100)] := s.d.keepsRegs_setFld _ _ _ _ _ _ (by simp)
    have h0 := s.d.setFld_regsOnly .cru 0 0x100 i i 1
    have h104 : (s.d.setFld .cru 0 0x100 i i 1).reg .cru 0 0x104 = s.d.reg .cru 0 0x104 := by simp
    generalize s.d.setFld .cru 0 0x100 i i 1 = e at *
    by_cases hm : i.val ∈ s.d.pwr.lost
    · simp only [hm, if_true, forall_const, not_true_eq_false, false_implies, and_true]
      obtain ⟨r1, r2, r3⟩ := e.relocked_regs i
      have hs := e.relocked_shape i
      generalize e.relocked i = f at *
      refine ⟨?_, ?_, r2, r3.trans (by rw [h104])⟩
      · obtain ⟨r, rfl⟩ : ∃ r, e = { s.d with rg := r } := ⟨_, h0⟩
        obtain ⟨r', rfl⟩ : ∃ r', f = { s.d with rg := r', pwr := { s.d.pwr with lost := removeAll i.val s.d.pwr.lost } } := ⟨_, hs⟩
        rfl
      · rw [Dev.flag, r1]; exact h1
    · simp only [hm, if_false, false_implies, not_false_eq_true, forall_const, true_and, removeAll_of_notMem hm]
      refine ⟨?_, h1, hk⟩
      obtain ⟨r, rfl⟩ : ∃ r, e = { s.d with rg := r } := ⟨_, h0⟩
      rfl
  case losesLock =>
    intro s i hl
    have hx := exec_onDev (s := s) (i := .losesLock i) (f := effLosesLock i.val) rfl (effLosesLock_eq i.isLt hl)
    refine ⟨_, hx, ?_⟩
    have h1 : (s.d.setFld .cru 0 0x100 i i 0).flag .cru 0 0x100 i = false := by
      rw [Dev.flag_setFld_self _ _ _ _ _ _ _ _ (by omega) (by omega)]; simp
    have hk : s.d.keepsRegs (s.d.setFld .cru 0 0x100 i i 0) [(.cru, 0, 0x100)] := s.d.keepsRegs_setFld _ _ _ _ _ _ (by simp)
    have h0 := s.d.setFld_regsOnly .cru 0 0x100 i i 0
    generalize s.d.setFld .cru 0 0x100 i i 0 = e at *
    obtain ⟨r, rfl⟩ : ∃ r, e = { s.d with rg := r } := ⟨_, h0⟩
    exact ⟨rfl, h1, mem_insertSorted_self .., hk⟩

end

section
/-! SUPPORT. The frame of the traffic classes, MEM_SHARE and crossing accesses (O30, O33, O34). -/

namespace Sys2Proof.Machine

/-! ## The frame (R238)

The credits sum to 0 before every slot, and the class that is picked has at least the mean, so no credit falls to -20. After
20 slots every credit is a multiple of 20, hence none is negative, and all are 0. -/

/-- A class with the largest credit. -/
theorem topClass_spec (a b c : Int) :
    (topClass [a, b, c] = 0 ∧ b ≤ a ∧ c ≤ a) ∨ (topClass [a, b, c] = 1 ∧ a ≤ b ∧ c ≤ b) ∨
      (topClass [a, b, c] = 2 ∧ a ≤ c ∧ b ≤ c) := by
  simp only [topClass, List.range, List.range.loop, List.foldl_cons, List.foldl_nil, List.getD_cons_zero,
    List.getD_cons_succ]
  by_cases h1 : a < b
  · by_cases h2 : b < c
    · exact .inr (.inr ⟨by simp [h1, h2], by omega, by omega⟩)
    · exact .inr (.inl ⟨by simp [h1, h2], by omega, by omega⟩)
  · by_cases h2 : a < c
    · exact .inr (.inr ⟨by simp [h1, h2], by omega, by omega⟩)
    · exact .inl ⟨by simp [h1, h2], by omega, by omega⟩

theorem length_frameFrom (sh c : List Int) (k : Nat) : (frameFrom sh k c).length = k := by
  induction k generalizing c with
  | zero => rfl
  | succ k ih => simp [frameFrom, ih]

/-- What a run of slots has owed and given out leaves credits that sum to 0 and stay above -20. -/
theorem frameFrom_counts (x y z : Int) (hs : x + y + z = 20) (hx : 0 ≤ x) (hy : 0 ≤ y) (hz : 0 ≤ z) (k : Nat) :
    ∀ a b c : Int, a + b + c = 0 → -20 < a → -20 < b → -20 < c →
      let f := frameFrom [x, y, z] k [a, b, c]
      let a' := a + k * x - 20 * f.count 0
      let b' := b + k * y - 20 * f.count 1
      let c' := c + k * z - 20 * f.count 2
      a' + b' + c' = 0 ∧ -20 < a' ∧ -20 < b' ∧ -20 < c' := by
  induction k with
  | zero => simp [frameFrom]; omega
  | succ k ih =>
    intro a b c h ha hb hc
    simp only [frameFrom, List.zipWith_cons_cons, List.zipWith_nil_left]
    have hk (n : Int) : ((k + 1 : Nat) : Int) * n = n + k * n := by push_cast; ring
    obtain ⟨ht, h1, h2⟩ | ⟨ht, h1, h2⟩ | ⟨ht, h1, h2⟩ := topClass_spec (a + x) (b + y) (c + z)
    · have := ih (a + x - 20) (b + y) (c + z) (by omega) (by omega) (by omega) (by omega)
      rw [ht]
      simp only [List.modify_zero_cons, List.count_cons, hk] at this ⊢
      simp
      omega
    · have := ih (a + x) (b + y - 20) (c + z) (by omega) (by omega) (by omega) (by omega)
      rw [ht]
      simp only [List.modify_succ_cons, List.modify_zero_cons, List.count_cons, hk] at this ⊢
      simp
      omega
    · have := ih (a + x) (b + y) (c + z - 20) (by omega) (by omega) (by omega) (by omega)
      rw [ht]
      simp only [List.modify_succ_cons, List.modify_zero_cons, List.count_cons, hk] at this ⊢
      simp
      omega

/-! ## MEM_SHARE (R240) -/

theorem sharesValid_iff (sh : Nat × Nat × Nat) :
    sharesValid sh = true ↔ 1 ≤ sh.1 ∧ 1 ≤ sh.2.1 ∧ 1 ≤ sh.2.2 ∧ sh.1 + sh.2.1 + sh.2.2 = 20 := by
  simp [sharesValid, and_assoc]

theorem memShare_refused {v : Nat} {lk : Locked} {d : Dev}
    (h : lk.isLocked = true ∨ (bit v 31 = true ∧ ¬sharesValid (shareOf v) = true)) :
    memShare v lk d = (lk, d.err .mem 0 (if lk.isLocked then errState else errValue) 0x180) := by
  unfold memShare
  by_cases hl : lk.isLocked = true
  · simp [hl]
  · have := h.resolve_left hl
    simp [hl, this]

theorem memShare_taken {v : Nat} {lk : Locked} {d : Dev} (hl : lk.isLocked = false)
    (h : bit v 31 = true → sharesValid (shareOf v) = true) :
    memShare v lk d = ({ lk with share := BitVec.ofNat 32 (v &&& 0x801F1F1F) }, d) := by
  unfold memShare
  cases hb : bit v 31
  · simp [hl]
  · simp [hl, h hb]

theorem writeReg_memShare {v : Nat} {s : State} (h : s.d.takesWrite s.lk .secure .mem 0) (hv : v < 2 ^ 32) :
    writeReg .secure .mem 0 0x180 v s.lk s.d = memShare v s.lk s.d := by
  rw [writeReg_reaches rfl (by decide) h, Nat.mod_eq_of_lt hv]
  simp [regWrite]

/-- The first error of a page gives its code (R594). -/
theorem Dev.fld_err_code {d : Dev} {p : Page} {n c o : Nat} (h : d.flag p n 0x028 31 = false) (hc : c < 16) :
    (d.err p n c o).fld p n 0x028 27 24 = c := by
  have hf : (d.bump p n 0x02C 1).flag p n 0x028 31 = false := by
    rw [← h, Dev.flag, Dev.flag, Dev.reg_bump_ne _ _ (by omega)]
  unfold Dev.err
  simp only [hf, Bool.false_eq_true, if_false, Dev.fld, Dev.reg_setReg_self]
  rw [Nat.mod_eq_of_lt hc]
  simp only [bits, Nat.shiftRight_eq_div_pow]
  split_ifs <;> omega

/-! ## Crossing accesses (R519, R520) -/

theorem Req.code_reqOfCode (q : Fin 17) : (reqOfCode q.val).code = q.val := by
  fin_cases q <;> rfl

theorem reqOfCode_host (q : Fin 17) : reqOfCode q.val = .host ↔ q.val = 0 := by
  fin_cases q <;> simp [reqOfCode]

/-- A crossing access is counted and sets XWORLD (R520). -/
def Dev.crossCounted (d : Dev) : Dev := (d.bump .sec 0 0x150 1).sticky .sec 0 0

/-- The first crossing access since VALID was cleared is captured (R520, R540). -/
def Dev.crossCaptured (d : Dev) (q : Req) (wr : Bool) (lo hi : Nat) : Dev :=
  ((d.setReg .sec 0 0x154 (2 ^ 31 + 256 * b2n wr + q.code)).setReg .sec 0 0x158 lo).setReg .sec 0 0x15C hi

theorem Dev.cross_eq (d : Dev) (q : Req) (wr bar0 : Bool) (a : Nat) : d.cross q wr bar0 a =
    let lo := a % 2 ^ 32
    let hi := (if bar0 then 2 ^ 31 else 0) + a / 2 ^ 32 % 256
    if d.flag .sec 0 0x154 31 then d.crossCounted
    else (d.crossCounted.crossCaptured q wr lo hi).post .sec 0 0x0A 1 0
      (layout 20 [(0, 1, q.code), (1, 1, b2n wr), (8, 4, lo), (12, 4, hi)]) := by
  have h : ((d.bump .sec 0 0x150 1).sticky .sec 0 0).flag .sec 0 0x154 31 = d.flag .sec 0 0x154 31 := by simp [Dev.flag]
  unfold Dev.cross
  dsimp only
  rw [h]
  rfl

theorem Dev.crossCounted_regsOnly (d : Dev) : d.regsOnly d.crossCounted := (d.bump_regsOnly ..).trans (Dev.sticky_regsOnly ..)

theorem Dev.crossCaptured_regsOnly (d : Dev) (q : Req) (wr : Bool) (lo hi : Nat) : d.regsOnly (d.crossCaptured q wr lo hi) :=
  ((d.setReg_regsOnly ..).trans (Dev.setReg_regsOnly ..)).trans (Dev.setReg_regsOnly ..)

/-- The registers that a crossing access may change. -/
def crossRegs : List RegAt :=
  [(.sec, 0, 0x150), (.sec, 0, 0x160), (.sec, 0, 0x020), (.sec, 0, 0x154), (.sec, 0, 0x158), (.sec, 0, 0x15C)] ++ evtRegs

theorem Dev.keepsRegs_crossCounted (d : Dev) : d.keepsRegs d.crossCounted crossRegs :=
  (d.keepsRegs_bump _ _ _ _ (by simp [crossRegs])).trans
    (Dev.keepsRegs_sticky _ _ _ _ (by simp [crossRegs]) (by simp [crossRegs]))

theorem Dev.keepsRegs_crossCaptured (d : Dev) (q : Req) (wr : Bool) (lo hi : Nat) :
    d.keepsRegs (d.crossCaptured q wr lo hi) crossRegs :=
  ((d.keepsRegs_setReg _ _ _ _ (by simp [crossRegs])).trans (Dev.keepsRegs_setReg _ _ _ _ _ (by simp [crossRegs]))).trans
    (Dev.keepsRegs_setReg _ _ _ _ _ (by simp [crossRegs]))

/-- What a crossing access leaves: its counts, its capture when none is held, and nothing of its target. -/
theorem Dev.cross_spec (d : Dev) (q : Req) (wr bar0 : Bool) (a : Nat) :
    d.cross q wr bar0 a = { d with rg := (d.cross q wr bar0 a).rg, pci := (d.cross q wr bar0 a).pci } ∧
    d.keepsPci (d.cross q wr bar0 a) ∧ d.keepsRegs (d.cross q wr bar0 a) crossRegs ∧
    (d.cross q wr bar0 a).reg .sec 0 0x150 = satAdd (d.reg .sec 0 0x150) 1 ∧
    (d.cross q wr bar0 a).flag .sec 0 0x160 0 = true := by
  have h0 := d.crossCounted_regsOnly
  have hk := d.keepsRegs_crossCounted
  have h150 : d.crossCounted.reg .sec 0 0x150 = satAdd (d.reg .sec 0 0x150) 1 := by simp [Dev.crossCounted]
  have h160 : d.crossCounted.flag .sec 0 0x160 0 = true := by
    have := (d.bump .sec 0 0x150 1).flag_sticky_self .sec 0 (b := 0) (by decide) 0
    simpa [Dev.crossCounted] using this
  rw [Dev.cross_eq]
  dsimp only
  generalize d.crossCounted = e at *
  by_cases hf : d.flag .sec 0 0x154 31 = true
  · rw [if_pos hf]
    obtain ⟨r, rfl⟩ : ∃ r, e = { d with rg := r } := ⟨_, h0⟩
    exact ⟨rfl, Dev.keepsPci_of_pci rfl, hk, h150, h160⟩
  · rw [if_neg hf]
    generalize a % 2 ^ 32 = lo
    generalize (if bar0 = true then 2 ^ 31 else 0) + a / 2 ^ 32 % 256 = hi
    have h0' := e.crossCaptured_regsOnly q wr lo hi
    have hk' := hk.trans (e.keepsRegs_crossCaptured q wr lo hi)
    have h150' : (e.crossCaptured q wr lo hi).reg .sec 0 0x150 = e.reg .sec 0 0x150 := by simp [Dev.crossCaptured]
    have h160' : (e.crossCaptured q wr lo hi).reg .sec 0 0x160 = e.reg .sec 0 0x160 := by simp [Dev.crossCaptured]
    generalize e.crossCaptured q wr lo hi = f at *
    generalize layout 20 [(0, 1, q.code), (1, 1, b2n wr), (8, 4, lo), (12, 4, hi)] = bs
    have hp := f.post_shape .sec 0 0x0A 1 0 bs
    have hpci := f.keepsPci_post .sec 0 0x0A 1 0 bs
    have hr := f.keepsRegs_post .sec 0 0x0A 1 0 bs (List.Subset.refl evtRegs)
    generalize f.post .sec 0 0x0A 1 0 bs = g at *
    have hg150 : g.reg .sec 0 0x150 = f.reg .sec 0 0x150 := hr _ _ _ (by simp [evtRegs, RegAt.addr])
    have hg160 : g.reg .sec 0 0x160 = f.reg .sec 0 0x160 := hr _ _ _ (by simp [evtRegs, RegAt.addr])
    refine ⟨?_, ?_, hk'.trans (hr.mono (List.subset_append_right ..)), ?_, ?_⟩
    · obtain ⟨r, rfl⟩ : ∃ r, e = { d with rg := r } := ⟨_, h0⟩
      obtain ⟨r', rfl⟩ : ∃ r', f = { d with rg := r' } := ⟨_, h0'⟩
      exact hp
    · obtain ⟨r, rfl⟩ : ∃ r, e = { d with rg := r } := ⟨_, h0⟩
      obtain ⟨r', rfl⟩ : ∃ r', f = { d with rg := r' } := ⟨_, h0'⟩
      exact hpci
    · rw [hg150, h150', h150]
    · rw [← h160, Dev.flag, Dev.flag, hg160, h160']

/-- While a capture is held it stays (R520). -/
theorem Dev.cross_held {d : Dev} (h : d.flag .sec 0 0x154 31 = true) (q : Req) (wr bar0 : Bool) (a : Nat) {o : Nat}
    (ho : o ∈ [0x154, 0x158, 0x15C]) : (d.cross q wr bar0 a).reg .sec 0 o = d.reg .sec 0 o := by
  rw [Dev.cross_eq]
  dsimp only
  rw [if_pos h]
  simp only [List.mem_cons, List.not_mem_nil, or_false] at ho
  obtain rfl | rfl | rfl := ho <;> simp [Dev.crossCounted]

/-- Without a capture the access is captured (R520, R540). -/
theorem Dev.cross_captures {d : Dev} (h : d.flag .sec 0 0x154 31 = false) (q : Req) (wr bar0 : Bool) (a : Nat) :
    (d.cross q wr bar0 a).reg .sec 0 0x154 = (2 ^ 31 + 256 * b2n wr + q.code) % 2 ^ 32 ∧
    (d.cross q wr bar0 a).reg .sec 0 0x158 = a % 2 ^ 32 ∧
    (d.cross q wr bar0 a).reg .sec 0 0x15C = ((if bar0 then 2 ^ 31 else 0) + a / 2 ^ 32 % 256) % 2 ^ 32 := by
  rw [Dev.cross_eq]
  simp only [h, Bool.false_eq_true, if_false]
  generalize layout 20 _ = bs
  simp [Dev.crossCaptured]

/-- No RWS register is one that a crossing access changes. -/
theorem notMem_crossRegs {p : Page} {n o : Nat} (h : p.isRws n o = true)
    (hp : pageAtIndex ((p.base n + o) / 4096) = some (p, n)) (ho : (p.base n + o) % 4096 = o) :
    p.base n + o ∉ crossRegs.map RegAt.addr := by
  have key : ∀ a ∈ crossRegs.map RegAt.addr, ∀ q, pageAtIndex (a / 4096) = some q → q.1.isRws q.2 (a % 4096) = false := by
    decide
  intro hm
  have := key _ hm _ hp
  rw [ho, h] at this
  exact absurd this (by decide)

/-- An answered crossing access of the device map (R519). -/
theorem effCrossingAccess_map {q : Req} {wr : Bool} {a : Nat} {lk : Locked} {d : Dev} (hw : d.worldOf q = .nonsecure)
    (ha : d.secureAddr (d.target lk q a) = true) : effCrossingAccess q wr false a lk d =
      { d.cross q wr false a with
        out := if q = .host ∧ wr = false then (d.cross q wr false a).out ++ [.readData [0, 0, 0, 0] false]
          else (d.cross q wr false a).out } := by
  have hans (e : Dev) : (if wr || q != .host then e else e.emit (.readData [0, 0, 0, 0] false)) =
      { e with out := if q = .host ∧ wr = false then e.out ++ [.readData [0, 0, 0, 0] false] else e.out } := by
    by_cases hq : q = .host <;> cases wr <;> simp [hq, Dev.emit]
  unfold effCrossingAccess
  simp only [Bool.false_eq_true, if_false, hw, ha, beq_self_eq_true, Bool.and_self, if_true]
  exact hans _

end Sys2Proof.Machine

open Sys2Proof Sys2Proof.Machine

/-- Settles O30: the credits after a whole frame are multiples of 20 that sum to 0 and lie above -20. -/
theorem frameOwnsShares : Obligations.FrameOwnsShares := by
  unfold Obligations.FrameOwnsShares
  intro rd wr rm h
  obtain ⟨h1, h2, h3, hsum⟩ := (sharesValid_iff _).1 h
  have := frameFrom_counts rd wr rm (by simp at hsum; omega) (by omega) (by omega) (by omega) 20 0 0 0
    (by decide) (by decide) (by decide) (by decide)
  refine ⟨length_frameFrom .., ?_⟩
  dsimp only at this
  unfold frameOf
  omega

/-- Settles O33: a refused write is counted, and a taken one is LOCK and the three shares. -/
theorem memShareWrite : Obligations.MemShareWrite := by
  unfold Obligations.MemShareWrite
  intro s v hw sh ok
  have hok : sharesValid sh = true ↔ ok := sharesValid_iff _
  by_cases hr : s.lk.isLocked = true ∨ (bit v.toNat 31 = true ∧ ¬ok)
  · have hx := exec_onAll (s := s) (i := .memShareWrite .secure v) rfl
      ((writeReg_memShare hw v.isLt).trans (memShare_refused (by rwa [hok])))
    refine ⟨_, hx, ?_, fun _ => ⟨rfl, ?_, fun hf => ?_⟩, fun hl hb => ?_⟩
    · exact congrArg (fun e => ({ s with d := e } : State)) (s.d.err_regsOnly ..)
    · exact s.d.reg_err_2C ..
    · refine (Dev.fld_err_code hf (by split_ifs <;> decide)).trans ?_
      split_ifs <;> rfl
    · rcases hr with hr | ⟨hb1, hb2⟩
      · simp [hl] at hr
      · exact absurd (hb hb1) hb2
  · simp only [not_or, not_and, not_not, Bool.not_eq_true] at hr
    obtain ⟨hl, hb⟩ := hr
    have hx : exec (.memShareWrite .secure v) s =
        .next { s with lk := { s.lk with share := BitVec.ofNat 32 (v.toNat &&& 0x801F1F1F) } } := by
      have h0 : exec (.memShareWrite .secure v) s = .next (s.onAll (writeReg .secure .mem 0 0x180 v.toNat)) := rfl
      rw [State.onAll, writeReg_memShare hw v.isLt, memShare_taken hl fun h => hok.2 (hb h)] at h0
      exact h0
    refine ⟨_, hx, rfl, fun h => ?_, fun _ _ => ⟨rfl, toNat_share _, ?_⟩⟩
    · rcases h with h | ⟨h1, h2⟩
      · simp [hl] at h
      · exact absurd (hb h1) h2
    · simp only [Locked.shares, Locked.isLocked, toNat_share, bit31_share, shareOf_and]
      rfl

/-- Settles O34: a crossing access is counted and captured by `Dev.cross`, which changes no register of a target. -/
theorem crossingAccess : Obligations.CrossingAccess := by
  unfold Obligations.CrossingAccess
  refine ⟨fun s p n o v hw hrws hp ho => ?_, fun s q wr a hworld hsec ha => ?_⟩
  · have hx : writeReg .nonsecure p n o v s.lk s.d = (s.lk, s.d.cross .host true true (p.base n + o)) := by
      obtain ⟨h1, h2, h3, h4⟩ := hw
      simp only [writeReg, wordWrite, hp, ho, Dev.pageWrite, h1, h2, h3 rfl, h4, regWrite_rws hrws]
      simp
    obtain ⟨hs, -, hk, h150, h160⟩ := s.d.cross_spec .host true true (p.base n + o)
    exact ⟨_, hx, hs, hk _ _ _ (notMem_crossRegs hrws hp ho), h150, h160⟩
  · have hx := exec_onLk (s := s) (i := .crossingAccess q wr false a) rfl (effCrossingAccess_map (wr := wr) hworld hsec)
    refine ⟨_, hx, ?_⟩
    obtain ⟨hs, hpci, -, h150, h160⟩ := s.d.cross_spec (reqOfCode q) wr false a
    have hcap := fun h => s.d.cross_captures h (reqOfCode q) wr false a
    have hheld := fun h o => s.d.cross_held (o := o) h (reqOfCode q) wr false a
    generalize s.d.cross (reqOfCode q) wr false a = e at *
    obtain ⟨r, u, rfl⟩ : ∃ r u, e = { s.d with rg := r, pci := u } := ⟨_, _, hs⟩
    refine ⟨rfl, hpci, h150, h160, ?_, fun hf => ?_, hheld⟩
    · simp only [reqOfCode_host]
    · obtain ⟨h1, h2, h3⟩ := hcap hf
      refine ⟨h1.trans ?_, h2, h3.trans ?_⟩
      · rw [Req.code_reqOfCode]
        have hq := q.isLt
        have hb : b2n wr ≤ 1 := by cases wr <;> decide
        clear * - hq hb
        omega
      · simp only [Bool.false_eq_true, if_false]
        clear * - ha
        omega

end

section
/-! SUPPORT. The counterexample to O49. -/

namespace Sys2Proof.Machine

/-- The memory controller refreshes at the faster timing because of temperature: MEM_STATUS holds bit 1 alone. -/
def hotState : State := { d := { rg := [(0x70104, 2)] } }

/-- A block reset of the MEM page leaves that bit of MEM_STATUS set. -/
theorem blkReset_hotState : ∀ t, exec (.blkReset .secure 0x70 1) hotState = .next t → t.d.reg .mem 0 0x104 = 2 := by
  have h : (match exec (.blkReset .secure 0x70 1) hotState with | .next t => t.d.reg .mem 0 0x104 | _ => 0) = 2 := by
    decide +kernel
  intro t ht
  rw [ht] at h
  exact h

end Sys2Proof.Machine

open Sys2Proof Sys2Proof.Machine

/-- Refutes O49: while the faster refresh because of temperature is in force, a block reset of the MEM page keeps
MEM_STATUS bit 1, so MEM_STATUS does not return to its reset value. -/
theorem not_blockRegisters : ¬ Obligations.BlockRegisters := by
  unfold Obligations.BlockRegisters
  rintro ⟨-, h, -⟩
  obtain ⟨t, ht, -, -, -, hdone⟩ := h hotState .secure 0x70 1 .mem 0 (by decide) (by decide +kernel) (by decide)
  obtain ⟨-, hregs, -⟩ := hdone rfl
  have h1 := hregs 0x104 (by decide) (by decide) (by decide)
  rw [blkReset_hotState t ht] at h1
  exact absurd h1 (by decide +kernel)

end

section
/-! SUPPORT. What an access through the device map leaves alone (R418 to R441, R494 to R496, R519). -/

namespace Sys2Proof.Machine

/-! ## Frames of the bus -/

/-- The registers in which accesses through the device map count and capture. -/
def busRegs : List RegAt :=
  crossRegs ++ [(.mem, 0, 0x110), (.mem, 0, 0x114), (.mem, 0, 0x118), (.mem, 0, 0x11C), (.mem, 0, 0x020),
    (.cmn, 0, 0x110), (.cmn, 0, 0x114), (.cmn, 0, 0x118), (.cmn, 0, 0x11C), (.cmn, 0, 0x120), (.cmn, 0, 0x020),
    (.rxc, 0, 0x148), (.rxc, 0, 0x020), (.rxc, 0, 0x028), (.rxc, 0, 0x02C),
    (.txc, 0, 0x140), (.txc, 0, 0x020), (.txc, 0, 0x028), (.txc, 0, 0x02C),
    (.kvp, 0, 0x028), (.kvp, 0, 0x02C), (.fec, 0, 0x028), (.fec, 0, 0x02C), (.rsv, 0, 0x028), (.rsv, 0, 0x02C)] ++
  (List.range 16).flatMap (fun k => [(.mch, k, 0x100), (.mch, k, 0x104), (.mch, k, 0x108), (.mch, k, 0x10C)]) ++
  (List.range 8).flatMap (fun c => [(.spd, c, 0x104), (.spd, c, 0x108), (.spd, c, 0x10C), (.spd, c, 0x020)])

theorem mem_busRegs_mch {k : Nat} (h : k < 16) : (.mch, k, 0x100) ∈ busRegs ∧ (.mch, k, 0x104) ∈ busRegs ∧
    (.mch, k, 0x108) ∈ busRegs ∧ (.mch, k, 0x10C) ∈ busRegs := by
  simp [busRegs, h]

theorem mem_busRegs_spd {c : Nat} (h : c < 8) : (.spd, c, 0x104) ∈ busRegs ∧ (.spd, c, 0x108) ∈ busRegs ∧
    (.spd, c, 0x10C) ∈ busRegs ∧ (.spd, c, 0x020) ∈ busRegs := by
  simp [busRegs, h]

theorem evtRegs_subset_busRegs : evtRegs ⊆ busRegs := by
  intro x hx
  simp only [busRegs, crossRegs, List.mem_append]
  exact .inl (.inl (.inl (.inr hx)))

theorem crossRegs_subset_busRegs : crossRegs ⊆ busRegs := by
  intro x hx
  simp only [busRegs, List.mem_append]
  exact .inl (.inl (.inl hx))

/-- No access through the device map changes a BLK_WORLD. -/
theorem busRegs_world : ∀ a ∈ busRegs.map RegAt.addr, a % 4096 ≠ 0x008 := by decide +kernel

/-- What reads of the device map, and what they cause, leave alone. -/
structure Dev.readKeeps (d e : Dev) : Prop where
  shape : e = { d with rg := e.rg, ms := e.ms, pci := e.pci, wtn := e.wtn }
  regs : d.keepsRegs e busRegs
  pci : d.keepsPci e
  ms : e.ms = { d.ms with lp := e.ms.lp, win := e.ms.win, cm := e.ms.cm, lines := e.ms.lines, bursts := e.ms.bursts }
  wtn : e.wtn = { d.wtn with mirq := e.wtn.mirq, full := e.wtn.full, wid := e.wtn.wid }

/-- What any access through the device map leaves alone. -/
structure Dev.busKeeps (d e : Dev) : Prop where
  shape : e = { d with rg := e.rg, cores := e.cores, ms := e.ms, tbl := e.tbl, streams := e.streams, pci := e.pci
                       wtn := e.wtn, fresh := e.fresh }
  regs : d.keepsRegs e busRegs
  pci : d.keepsPci e
  ms : e.ms = { d.ms with lp := e.ms.lp, win := e.ms.win, cm := e.ms.cm, lines := e.ms.lines, bursts := e.ms.bursts }
  wtn : e.wtn = { d.wtn with mirq := e.wtn.mirq, full := e.wtn.full, wid := e.wtn.wid }
  cores : ∀ c, e.core c = { d.core c with mem := (e.core c).mem }

theorem Dev.readKeeps.refl (d : Dev) : d.readKeeps d := ⟨rfl, .refl d _, Dev.keepsPci_of_pci rfl, rfl, rfl⟩

theorem Dev.readKeeps.trans {a b c : Dev} (h : a.readKeeps b) (k : b.readKeeps c) : a.readKeeps c := by
  refine ⟨?_, h.regs.trans k.regs, h.pci.trans k.pci, ?_, ?_⟩
  · rw [k.shape, h.shape]
  · rw [k.ms, h.ms]
  · rw [k.wtn, h.wtn]

theorem Dev.busKeeps.trans {a b c : Dev} (h : a.busKeeps b) (k : b.busKeeps c) : a.busKeeps c := by
  refine ⟨?_, h.regs.trans k.regs, h.pci.trans k.pci, ?_, ?_, fun i => ?_⟩
  · rw [k.shape, h.shape]
  · rw [k.ms, h.ms]
  · rw [k.wtn, h.wtn]
  · rw [k.cores, h.cores]

theorem Dev.readKeeps.cores {d e : Dev} (h : d.readKeeps e) : e.cores = d.cores := by rw [h.shape]

theorem Dev.readKeeps.bus {d e : Dev} (h : d.readKeeps e) : d.busKeeps e := by
  refine ⟨?_, h.regs, h.pci, h.ms, h.wtn, fun c => ?_⟩
  · rw [h.shape]
  · rw [Dev.core_eq_of_cores h.cores]

theorem Dev.busKeeps.refl (d : Dev) : d.busKeeps d := (Dev.readKeeps.refl d).bus

/-- Counts and captures alone. -/
theorem Dev.readKeeps_of_regs {d e : Dev} (h : d.regsOnly e) (hk : d.keepsRegs e busRegs) : d.readKeeps e := by
  refine ⟨?_, hk, Dev.keepsPci_of_pci ?_, ?_, ?_⟩ <;> rw [h]

/-- The arrays alone. -/
theorem Dev.readKeeps_ms (d : Dev) {m : MemSys}
    (h : m = { d.ms with lp := m.lp, win := m.win, cm := m.cm, lines := m.lines, bursts := m.bursts }) :
    d.readKeeps { d with ms := m } :=
  ⟨rfl, Dev.keepsRegs_of_rg rfl _, Dev.keepsPci_of_pci rfl, h, rfl⟩

theorem Dev.readKeeps_wtn (d : Dev) {w : WtnSt} (h : w = { d.wtn with mirq := w.mirq, full := w.full, wid := w.wid }) :
    d.readKeeps { d with wtn := w } :=
  ⟨rfl, Dev.keepsRegs_of_rg rfl _, Dev.keepsPci_of_pci rfl, rfl, h⟩

theorem Dev.readKeeps_bump (d : Dev) {p : Page} {n o : Nat} (k : Nat) (h : (p, n, o) ∈ busRegs) : d.readKeeps (d.bump p n o k) :=
  Dev.readKeeps_of_regs (d.bump_regsOnly ..) (d.keepsRegs_bump _ _ _ _ h)

theorem Dev.readKeeps_setReg (d : Dev) {p : Page} {n o : Nat} (v : Nat) (h : (p, n, o) ∈ busRegs) :
    d.readKeeps (d.setReg p n o v) :=
  Dev.readKeeps_of_regs (d.setReg_regsOnly ..) (d.keepsRegs_setReg _ _ _ _ h)

theorem Dev.readKeeps_sticky (d : Dev) {p : Page} {n : Nat} (b : Nat) (h : (p, n, p.sticky.1) ∈ busRegs)
    (h20 : (p, n, 0x020) ∈ busRegs) : d.readKeeps (d.sticky p n b) :=
  Dev.readKeeps_of_regs (d.sticky_regsOnly ..) (d.keepsRegs_sticky _ _ _ h h20)

theorem Dev.readKeeps_err (d : Dev) {p : Page} {n : Nat} (c o : Nat) (h : (p, n, 0x028) ∈ busRegs)
    (h2c : (p, n, 0x02C) ∈ busRegs) : d.readKeeps (d.err p n c o) :=
  Dev.readKeeps_of_regs (d.err_regsOnly ..) (d.keepsRegs_err _ _ _ _ h h2c)

/-- An event, and a crossing access, change registers and the queue of events. -/
theorem Dev.readKeeps_of_pci {d e : Dev} (hs : e = { d with rg := e.rg, pci := e.pci }) (hp : d.keepsPci e)
    (hk : d.keepsRegs e busRegs) : d.readKeeps e := by
  refine ⟨?_, hk, hp, ?_, ?_⟩ <;> rw [hs]

theorem Dev.readKeeps_post (d : Dev) (p : Page) (n src sub inst : Nat) (bs : List Byte) :
    d.readKeeps (d.post p n src sub inst bs) :=
  Dev.readKeeps_of_pci (d.post_shape ..) (d.keepsPci_post ..) (d.keepsRegs_post _ _ _ _ _ _ evtRegs_subset_busRegs)

theorem Dev.readKeeps_cross (d : Dev) (q : Req) (wr b : Bool) (a : Nat) : d.readKeeps (d.cross q wr b a) := by
  obtain ⟨hs, hp, hk, -, -⟩ := d.cross_spec q wr b a
  exact Dev.readKeeps_of_pci hs hp (hk.mono crossRegs_subset_busRegs)

theorem Dev.readKeeps_foldl {α : Type} (f : Dev → α → Dev) (hf : ∀ d x, Dev.readKeeps d (f d x)) (l : List α) (d : Dev) :
    d.readKeeps (l.foldl f d) := by
  induction l generalizing d with
  | nil => exact .refl d
  | cons x l ih => exact (hf d x).trans (ih _)

/-! ## The LPDDR5X array (R433, R438, R494) -/

theorem Dev.channel_lt (d : Dev) (a : Nat) : d.channel a < 16 := by
  unfold Dev.channel
  have h1 := bits_lt a 35 34
  have h2 := bits_lt a 9 8
  have h3 := bits_lt a 11 8
  split_ifs <;> omega

theorem Dev.readKeeps_memUe (d : Dev) (k : Nat) : d.readKeeps (d.memUe k) := by
  obtain ⟨-, h104, h108, h10C⟩ := mem_busRegs_mch (d.channel_lt (64 * k))
  have h0 : d.readKeeps (((d.bump .mem 0 0x114 1).sticky .mem 0 1).bump .mch (d.channel (64 * k)) 0x104 1) :=
    ((d.readKeeps_bump _ (by simp [busRegs])).trans (Dev.readKeeps_sticky _ _ (by simp [busRegs]) (by simp [busRegs]))).trans
      (Dev.readKeeps_bump _ _ h104)
  unfold Dev.memUe
  dsimp only
  split_ifs
  · exact h0
  · exact ((h0.trans (Dev.readKeeps_setReg _ _ h108)).trans (Dev.readKeeps_setReg _ _ h10C)).trans (Dev.readKeeps_post ..)

theorem Dev.readKeeps_memEcc (d : Dev) (k : Nat) : d.readKeeps (d.memEcc k) := by
  obtain ⟨h100, -, -, -⟩ := mem_busRegs_mch (d.channel_lt (64 * k))
  unfold Dev.memEcc Dev.memCe
  split_ifs
  · exact d.readKeeps_memUe k
  · exact ((d.readKeeps_bump _ (by simp [busRegs])).trans (Dev.readKeeps_sticky _ _ (by simp [busRegs]) (by simp [busRegs]))).trans
      (Dev.readKeeps_bump _ _ h100)
  · exact .refl d

theorem Dev.readKeeps_owe (d : Dev) (wr : Bool) (cls k : Nat) : d.readKeeps (d.owe wr cls k) := d.readKeeps_ms rfl

theorem Dev.readKeeps_arrRead (d : Dev) (cls k : Nat) : d.readKeeps (d.arrRead cls k).2.2 :=
  (d.readKeeps_owe false cls k).trans (Dev.readKeeps_memEcc _ k)

theorem Dev.readKeeps_mirror (d : Dev) (k : Nat) : d.readKeeps (d.mirror k) := by
  unfold Dev.mirror
  split_ifs
  · exact .refl d
  · exact d.readKeeps_wtn rfl
  · exact d.readKeeps_wtn rfl

theorem Dev.readKeeps_newWrite (d : Dev) : d.readKeeps d.newWrite := d.readKeeps_wtn rfl

/-- A write of the array up to the bytes: the burst, the errors found, and the poison counted. -/
def Dev.arrFound (d : Dev) (cls a n : Nat) (pois : Bool) : Dev :=
  let d := d.owe true cls (a / 64)
  let d := if (d.ms.lp.mergeUe 64 a n).contains (a / 64) || (d.ms.lp.mergeCe 64 a n).contains (a / 64) then d.memEcc (a / 64)
    else d
  if pois then d.bump .mem 0 0x118 1 else d

theorem Dev.arrWrite_eq (d : Dev) (cls a : Nat) (bs : List Byte) (pois : Bool) : d.arrWrite cls a bs pois =
    Dev.mirror { d.arrFound cls a bs.length pois with
      ms := { (d.arrFound cls a bs.length pois).ms with
        lp := (d.arrFound cls a bs.length pois).ms.lp.storeBeat a bs pois } } (a / 64) := rfl

theorem Dev.readKeeps_arrFound (d : Dev) (cls a n : Nat) (pois : Bool) : d.readKeeps (d.arrFound cls a n pois) := by
  have h0 := d.readKeeps_owe true cls (a / 64)
  unfold Dev.arrFound
  dsimp only
  have h1 : d.readKeeps (if ((d.owe true cls (a / 64)).ms.lp.mergeUe 64 a n).contains (a / 64) ||
      ((d.owe true cls (a / 64)).ms.lp.mergeCe 64 a n).contains (a / 64) then (d.owe true cls (a / 64)).memEcc (a / 64)
      else d.owe true cls (a / 64)) := by
    split
    · exact h0.trans (Dev.readKeeps_memEcc ..)
    · exact h0
  cases pois
  · exact h1
  · exact h1.trans (Dev.readKeeps_bump (p := .mem) (n := 0) (o := 0x118) _ 1 (by simp [busRegs]))

theorem Dev.readKeeps_arrWrite (d : Dev) (cls a : Nat) (bs : List Byte) (pois : Bool) : d.readKeeps (d.arrWrite cls a bs pois) := by
  rw [Dev.arrWrite_eq]
  exact ((d.readKeeps_arrFound ..).trans (Dev.readKeeps_ms _ rfl)).trans (Dev.readKeeps_mirror ..)

/-! ## The Commons (R422 to R424) -/

theorem Dev.readKeeps_cmnErr (d : Dev) (ue ce : Nat) : d.readKeeps (d.cmnErr ue ce) := by
  unfold Dev.cmnErr
  split_ifs
  · exact (d.readKeeps_bump _ (by simp [busRegs])).trans (Dev.readKeeps_sticky _ _ (by simp [busRegs]) (by simp [busRegs]))
  · exact (d.readKeeps_bump _ (by simp [busRegs])).trans (Dev.readKeeps_sticky _ _ (by simp [busRegs]) (by simp [busRegs]))
  · exact .refl d

theorem Dev.readKeeps_evict (d : Dev) (l : CLine) : d.readKeeps (d.evict l) := by
  unfold Dev.evict
  dsimp only
  refine Dev.readKeeps.trans ?_ (Dev.readKeeps_ms _ rfl)
  have h0 : d.readKeeps { d with ms := { d.ms with lines := d.ms.lines.filter (·.line != l.line) } } := d.readKeeps_ms rfl
  split
  · exact h0
  · refine (h0.trans (Dev.readKeeps_newWrite _)).trans (Dev.readKeeps_foldl _ (fun e k => ?_) _ _)
    exact (Dev.readKeeps_cmnErr e _ _).trans (Dev.readKeeps_arrWrite ..)

theorem Dev.readKeeps_touch (d : Dev) (ln : Nat) (b : Bool) : d.readKeeps (d.touch ln b) := by
  unfold Dev.touch
  split
  · exact .refl d
  · exact d.readKeeps_ms rfl

theorem Dev.readKeeps_makeRoom {d e : Dev} {n ln w : Nat} (he : d.makeRoom n ln = some (w, e)) : d.readKeeps e := by
  unfold Dev.makeRoom at he
  dsimp only at he
  split at he
  · cases he; exact .refl d
  · obtain ⟨l, -, hl⟩ := Option.map_eq_some_iff.1 he
    cases hl; exact d.readKeeps_evict l

theorem Dev.readKeeps_lookup (d : Dev) (q : Req) (part cls k : Nat) (whole : Bool) :
    d.readKeeps (d.lookup q part cls k whole).2 := by
  have hb (o : Nat) (h : (.cmn, 0, o) ∈ busRegs) : d.readKeeps (d.bump .cmn 0 o 1) := d.readKeeps_bump 1 h
  unfold Dev.lookup
  dsimp only
  split
  · exact .refl d
  · split
    · exact (hb _ (by simp [busRegs])).trans (Dev.readKeeps_touch ..)
    · split
      · exact hb _ (by simp [busRegs])
      · rename_i he
        obtain ⟨p, -, hp⟩ := Option.bind_eq_some_iff.1 he
        have h2 := (hb 0x114 (by simp [busRegs])).trans (Dev.readKeeps_makeRoom hp)
        split
        · exact h2.trans (Dev.readKeeps_ms _ rfl)
        · refine Dev.readKeeps.trans ?_ (Dev.readKeeps_foldl _ (fun e b => ?_) _ _)
          · exact h2.trans (Dev.readKeeps_ms _ rfl)
          · exact (Dev.readKeeps_arrRead e cls b).trans (Dev.readKeeps_ms _ rfl)

/-! ## The core windows and the chain tables (R284, R419, R420) -/

theorem Dev.readKeeps_spdUe (d : Dev) {c : Nat} (hc : c < 8) (l : List Nat) : d.readKeeps (d.spdUe c l) := by
  obtain ⟨h104, h108, h10C, h20⟩ := mem_busRegs_spd hc
  unfold Dev.spdUe
  cases l with
  | nil => exact .refl d
  | cons a l =>
    have h0 := d.readKeeps_bump (a :: l).length h104
    dsimp only
    split_ifs
    · exact h0.trans (Dev.readKeeps_sticky _ _ h10C h20)
    · exact (h0.trans (Dev.readKeeps_setReg _ _ h108)).trans (Dev.readKeeps_sticky _ _ h10C h20)

/-- The core whose window a target lies in. -/
def Target.core? : Target → Option Nat
  | .spad c _ | .accm c _ => some c
  | _ => none

theorem Target.core_ite {p : Prop} [Decidable p] {t e : Target} (ht : ∀ c ∈ t.core?, c < 8) (he : ∀ c ∈ e.core?, c < 8) :
    ∀ c ∈ (if p then t else e).core?, c < 8 := by
  split
  · exact ht
  · exact he

/-- The core window that an address reaches is one of the eight (R418). -/
theorem Dev.target_core_lt (lk : Locked) (d : Dev) (q : Req) (a : Nat) : ∀ c ∈ (d.target lk q a).core?, c < 8 := by
  have h0 (t : Target) (h : t.core? = none) : ∀ c ∈ t.core?, c < 8 := by simp [h]
  unfold Dev.target
  dsimp only
  refine Target.core_ite (Target.core_ite (h0 _ rfl) (h0 _ rfl)) (Target.core_ite (Target.core_ite (h0 _ rfl) (h0 _ rfl)) ?_)
  iterate 8 refine Target.core_ite (h0 _ rfl) ?_
  by_cases ha : 0x1810000000 ≤ a ∧ a < 0x1820000000
  · have hc : (a - 0x1810000000) / 0x2000000 < 8 := by omega
    generalize (a - 0x1810000000) / 0x2000000 = k at *
    have h1 (t : Target) (h : t.core? = some k) : ∀ c ∈ t.core?, c < 8 := by simpa [h] using hc
    exact Target.core_ite (Target.core_ite (h0 _ rfl) (Target.core_ite (h1 _ rfl) (Target.core_ite (h1 _ rfl) (h0 _ rfl))))
      (h0 _ rfl)
  · rw [if_neg (by simpa using ha)]
    exact h0 _ rfl

theorem Dev.target_core {lk : Locked} {d : Dev} {q : Req} {a c o : Nat}
    (h : d.target lk q a = .spad c o ∨ d.target lk q a = .accm c o) : c < 8 := by
  refine d.target_core_lt lk q a c ?_
  obtain h | h := h <;> rw [h] <;> rfl

theorem Dev.readKeeps_beatRead (lk : Locked) (d : Dev) (q : Req) (part a n : Nat) (direct : Bool) :
    d.readKeeps (d.beatRead lk q part a n direct).2.2.2 := by
  have hl (k : Nat) := d.readKeeps_lookup q part (q.cls false) k false
  have ht (p : Page) (h : p = .rxc ∨ p = .txc) : d.readKeeps (d.err p 0 errEcc 0) :=
    d.readKeeps_err _ _ (by obtain rfl | rfl := h <;> simp [busRegs]) (by obtain rfl | rfl := h <;> simp [busRegs])
  have hpg (b : Bool) : (if b then Page.rxc else Page.txc) = .rxc ∨ (if b then Page.rxc else Page.txc) = .txc := by
    cases b <;> simp
  unfold Dev.beatRead
  dsimp only
  split
  · exact d.readKeeps_cross ..
  · split
    case h_1 => exact .refl d
    case h_2 a _ =>
      split
      · split
        · exact d.readKeeps_cmnErr ..
        · exact d.readKeeps_arrRead ..
      · split
        · exact (hl _).trans (Dev.readKeeps_cmnErr ..)
        · exact (hl _).trans (Dev.readKeeps_arrRead ..)
    case h_3 => exact d.readKeeps_cmnErr ..
    case h_12 c o hc => exact d.readKeeps_spdUe (Dev.target_core (.inl hc)) _
    case h_13 c o hc => exact d.readKeeps_spdUe (Dev.target_core (.inr hc)) _
    case h_8 | h_9 | h_10 | h_11 => exact .refl d
    all_goals
      split
      · exact ht _ (by split <;> simp)
      · exact .refl d

/-- A read through the device map. -/
theorem Dev.readKeeps_busRead (lk : Locked) (d : Dev) (q : Req) (part a n : Nat) (direct : Bool) :
    d.readKeeps (d.busRead lk q part a n direct).2.2.2 := by
  unfold Dev.busRead
  suffices hk : ∀ (l : List (Nat × Nat)) (x : List Byte × List Bool × Nat × Dev), d.readKeeps x.2.2.2 →
      d.readKeeps (l.foldl (fun (x : List Byte × List Bool × Nat × Dev) (y : Nat × Nat) =>
        let r := x.2.2.2.beatRead lk q part y.1 y.2 direct
        (x.1 ++ r.1, x.2.1 ++ [r.2.1], x.2.2.1 + b2n r.2.2.1, r.2.2.2)) x).2.2.2 from hk _ _ (.refl d)
  intro l
  induction l with
  | nil => exact fun _ hx => hx
  | cons y l ih => exact fun x hx => ih _ (hx.trans (Dev.readKeeps_beatRead ..))

theorem Dev.busKeeps_tbl (d : Dev) (t : Mem) : d.busKeeps { d with tbl := t } :=
  ⟨rfl, Dev.keepsRegs_of_rg rfl _, Dev.keepsPci_of_pci rfl, rfl, rfl, fun _ => rfl⟩

theorem Dev.busKeeps_errFree (d : Dev) {p : Page} {n : Nat} (c : Nat) (h : (p, n, 0x028) ∈ busRegs)
    (h2c : (p, n, 0x02C) ∈ busRegs) : d.busKeeps (d.errFree p n c) := by
  have h0 : d.busKeeps { d with fresh := d.fresh + 1 } :=
    ⟨rfl, Dev.keepsRegs_of_rg rfl _, Dev.keepsPci_of_pci rfl, rfl, rfl, fun _ => rfl⟩
  exact h0.trans (Dev.readKeeps_err _ _ _ h h2c).bus

theorem Dev.busKeeps_tblWrite (d : Dev) (o : Nat) (bs : List Byte) (pois : Bool) : d.busKeeps (d.tblWrite o bs pois) := by
  unfold Dev.tblWrite
  dsimp only
  split
  · exact d.busKeeps_tbl _
  · cases decide (0x4000 ≤ o)
    · exact ((d.busKeeps_tbl _).trans (Dev.readKeeps_sticky (p := .rxc) (n := 0) _ 7 (by simp [busRegs]) (by simp [busRegs])).bus).trans
        (Dev.busKeeps_errFree _ _ (by simp [busRegs]) (by simp [busRegs]))
    · exact ((d.busKeeps_tbl _).trans (Dev.readKeeps_sticky (p := .txc) (n := 0) _ 5 (by simp [busRegs]) (by simp [busRegs])).bus).trans
        (Dev.busKeeps_errFree _ _ (by simp [busRegs]) (by simp [busRegs]))

theorem Dev.busKeeps_windowWrite (d : Dev) (q : Req) (w o : Nat) {p : Page} (bs : List Byte) (ps : List Bool)
    (h : (p, 0, 0x028) ∈ busRegs) (h2c : (p, 0, 0x02C) ∈ busRegs) : d.busKeeps (d.windowWrite q w o p bs ps) := by
  unfold Dev.windowWrite
  split
  · exact ⟨rfl, Dev.keepsRegs_of_rg rfl _, Dev.keepsPci_of_pci rfl, rfl, rfl, fun _ => rfl⟩
  · exact (d.readKeeps_err _ _ h h2c).bus

/-- A write to the memories of a core. -/
theorem Dev.busKeeps_mem (d : Dev) {c : Nat} (hc : c < 8) (f : CoreMem → CoreMem) :
    d.busKeeps (d.modCore c fun x => { x with mem := f x.mem }) := by
  refine ⟨rfl, Dev.keepsRegs_of_rg rfl _, Dev.keepsPci_of_pci rfl, rfl, rfl, fun i => ?_⟩
  rw [Dev.core_modCore _ _ _ _ hc]
  split_ifs with h
  · rw [h]
  · rfl

theorem Dev.busKeeps_beatWrite (lk : Locked) (d : Dev) (q : Req) (part a : Nat) (bs : List Byte) (pois direct whole : Bool) :
    d.busKeeps (d.beatWrite lk q part a bs pois direct whole).2 := by
  have hl (k : Nat) := d.readKeeps_lookup q part (q.cls true) k whole
  unfold Dev.beatWrite
  dsimp only
  split
  · exact (d.readKeeps_cross ..).bus
  · split
    case h_1 => exact .refl d
    case h_2 a _ =>
      have hc (e : Dev) : e.readKeeps (Dev.touch { e.cmnMerge e.ms.cm a bs.length with
          ms := { (e.cmnMerge e.ms.cm a bs.length).ms with
            cm := (e.cmnMerge e.ms.cm a bs.length).ms.cm.store a bs pois } } (a / 128) true) :=
        ((e.readKeeps_cmnErr _ _).trans (Dev.readKeeps_ms _ rfl)).trans (Dev.readKeeps_touch ..)
      split
      · split
        · exact (hc d).bus
        · exact (d.readKeeps_arrWrite ..).bus
      · split
        · exact ((hl _).trans (hc _)).bus
        · exact ((hl _).trans (Dev.readKeeps_arrWrite ..)).bus
    case h_3 => exact ((d.readKeeps_cmnErr _ _).trans (Dev.readKeeps_ms _ rfl)).bus
    case h_12 c o hc =>
      have h8 := Dev.target_core (.inl hc)
      exact (d.readKeeps_spdUe h8 _).bus.trans (Dev.busKeeps_mem _ h8 fun m => { m with spad := m.spad.store o bs pois })
    case h_13 c o hc =>
      have h8 := Dev.target_core (.inr hc)
      exact (d.readKeeps_spdUe h8 _).bus.trans (Dev.busKeeps_mem _ h8 fun m => { m with accm := m.accm.store o bs pois })
    case h_8 o hw => simp only [hw, Target.window]; exact d.busKeeps_windowWrite _ _ _ _ _ (by simp [busRegs]) (by simp [busRegs])
    case h_9 o hw => simp only [hw, Target.window]; exact d.busKeeps_windowWrite _ _ _ _ _ (by simp [busRegs]) (by simp [busRegs])
    case h_10 o hw => simp only [hw, Target.window]; exact d.busKeeps_windowWrite _ _ _ _ _ (by simp [busRegs]) (by simp [busRegs])
    case h_11 o hw => simp only [hw, Target.window]; exact d.busKeeps_windowWrite _ _ _ _ _ (by simp [busRegs]) (by simp [busRegs])
    all_goals exact d.busKeeps_tblWrite ..

/-- A write through the device map. -/
theorem Dev.busKeeps_busWrite (lk : Locked) (d : Dev) (q : Req) (part a : Nat) (bs : List Byte) (ps : List Bool) (direct : Bool) :
    d.busKeeps (d.busWrite lk q part a bs ps direct).2 := by
  unfold Dev.busWrite
  suffices hk : ∀ (l : List ((Nat × Nat) × Nat)) (x : Nat × Dev), d.busKeeps x.2 →
      d.busKeeps (l.foldl (fun (x : Nat × Dev) (y : (Nat × Nat) × Nat) =>
        let ln := y.1.1 / 128 * 128
        let r := x.2.beatWrite lk q part y.1.1 (slice bs (y.1.1 - a) y.1.2) (ps.getD y.2 false) direct
          (decide (a ≤ ln) && decide (ln + 128 ≤ a + bs.length))
        (x.1 + b2n r.1, r.2)) x).2 from hk _ _ d.readKeeps_newWrite.bus
  intro l
  induction l with
  | nil => exact fun _ hx => hx
  | cons y l ih => exact fun x hx => ih _ (hx.trans (Dev.busKeeps_beatWrite ..))

end Sys2Proof.Machine
end

section
/-! SUPPORT. Stores to LPDDR5X with the Commons off, and the registers of the memory system (O32, O35). -/

namespace Sys2Proof.Machine

/-! ## What a frame of the bus keeps readable -/

theorem Dev.busKeeps.secure {d e : Dev} (h : d.busKeeps e) (p : Page) (n : Nat) : e.secure p n = d.secure p n := by
  have hb : p.base n % 4096 = 0 := by cases p <;> simp <;> omega
  have hr : e.reg p n 0x008 = d.reg p n 0x008 := h.regs _ _ _ fun hm => busRegs_world _ hm (by omega)
  rw [Dev.secure, Dev.secure, Dev.flag, Dev.flag, hr]

theorem Dev.busKeeps.worldOf {d e : Dev} (h : d.busKeeps e) (q : Req) : e.worldOf q = d.worldOf q := by
  unfold Dev.worldOf
  simp only [h.secure]

theorem busRegs_ctrl : Page.base .mem 0 + 0x100 ∉ busRegs.map RegAt.addr ∧ Page.base .cmn 0 + 0x100 ∉ busRegs.map RegAt.addr := by
  decide +kernel

theorem busRegs_rgn : ∀ r < 32, Page.base .mem 0 + (0x400 + 16 * r + 8) ∉ busRegs.map RegAt.addr := by
  decide +kernel

/-! ## One store to LPDDR5X (R418, R424) -/

@[simp] theorem Dev.memEcc_ms (d : Dev) (k : Nat) : (d.memEcc k).ms = d.ms := by
  unfold Dev.memEcc Dev.memUe Dev.memCe
  dsimp only
  split
  · split <;> simp
  · split <;> simp

theorem Dev.arrFound_lp (d : Dev) (cls a n : Nat) (pois : Bool) : (d.arrFound cls a n pois).ms.lp = d.ms.lp := by
  unfold Dev.arrFound
  dsimp only
  cases pois
  · simp only [Bool.false_eq_true, if_false]
    split
    · simp [Dev.owe]
    · rfl
  · simp only [if_true, Dev.bump_ms]
    split
    · simp [Dev.owe]
    · rfl

theorem Dev.mirror_ms (d : Dev) (k : Nat) : (d.mirror k).ms = d.ms := by
  unfold Dev.mirror
  split_ifs <;> rfl

theorem Dev.arrWrite_lp (d : Dev) (cls a : Nat) (bs : List Byte) (pois : Bool) :
    (d.arrWrite cls a bs pois).ms.lp = d.ms.lp.storeBeat a bs pois := by
  rw [Dev.arrWrite_eq, Dev.mirror_ms, Dev.arrFound_lp]

/-- LPDDR5X takes the stores of a requester as they are: the controller is on, the Commons off, and nothing keeps the
requester out. -/
structure Dev.lpOpen (d : Dev) (q : Req) : Prop where
  mem : d.flag .mem 0 0x100 0 = true
  cmn : d.flag .cmn 0 0x100 0 = false
  world : d.worldOf q = .nonsecure → ∀ r, r < 32 → d.flag .mem 0 (0x400 + 16 * r + 8) 31 = false

theorem Dev.lpOpen.keeps {d e : Dev} {q : Req} (h : d.lpOpen q) (k : d.busKeeps e) : e.lpOpen q := by
  refine ⟨?_, ?_, fun hw r hr => ?_⟩
  · rw [Dev.flag, k.regs _ _ _ busRegs_ctrl.1]; exact h.mem
  · rw [Dev.flag, k.regs _ _ _ busRegs_ctrl.2]; exact h.cmn
  · rw [Dev.flag, k.regs _ _ _ (busRegs_rgn r hr)]
    exact h.world (by rwa [k.worldOf] at hw) r hr

theorem Dev.region_none {d : Dev} {p : Page} {n : Nat} (h : ∀ r, r < n → d.flag p 0 (0x400 + 16 * r + 8) 31 = false) (a : Nat) :
    d.region p n a = none := by
  unfold Dev.region
  rw [Option.map_eq_none_iff, List.find?_eq_none]
  intro r hr
  simp [h r (List.mem_range.1 hr)]

/-- A store of one beat. -/
theorem Dev.beatWrite_lp {lk : Locked} {d : Dev} {q : Req} (h : d.lpOpen q) {a : Nat} (ha : a < 2 ^ 36) (bs : List Byte)
    (pois direct whole : Bool) : d.beatWrite lk q 0 a bs pois direct whole = (false, d.arrWrite (q.cls true) a bs pois) := by
  have ht : d.target lk q a = .lp a := by
    unfold Dev.target
    rw [if_pos (by omega), if_pos h.mem]
  have hs : (d.secureAddr (.lp a) && d.worldOf q == .nonsecure) = false := by
    by_cases hw : d.worldOf q = .nonsecure
    · simp [Dev.secureAddr, Dev.region_none (h.world hw)]
    · simp [hw]
  have hl (part cls k : Nat) : d.lookup q part cls k whole = (false, d) := by simp [Dev.lookup, h.cmn]
  unfold Dev.beatWrite
  simp only [ht, hs, hl, Bool.false_eq_true, if_false, ite_self]

/-! ## A store of several beats -/

theorem getD_slice (bs : List Byte) {off n i : Nat} (h : i < n) : (slice bs off n).getD i 0 = bs.getD (off + i) 0 := by
  simp [slice, h]

@[simp] theorem length_slice (bs : List Byte) (off n : Nat) : (slice bs off n).length = n := by simp [slice]

theorem mem_zipIdx_of_mem {α : Type} {l : List α} {x : α} (h : x ∈ l) : ∃ i, (x, i) ∈ l.zipIdx := by
  obtain ⟨i, hi, rfl⟩ := List.mem_iff_getElem.1 h
  exact ⟨i, List.mem_iff_getElem.2 ⟨i, by simpa using hi, by simp⟩⟩

/-- The parts of an access lie inside it. -/
theorem beatParts_inside {a n : Nat} {x : Nat × Nat} (h : x ∈ beatParts a n) : a ≤ x.1 ∧ x.1 + x.2 ≤ a + n := by
  unfold beatParts beatsOf at h
  obtain ⟨k, hk, rfl⟩ := List.mem_map.1 h
  by_cases hn : n = 0
  · simp [hn] at hk
  · rw [if_neg hn] at hk
    obtain ⟨j, hj, rfl⟩ := List.mem_map.1 hk
    have := List.mem_range.1 hj
    dsimp only
    omega

/-- The parts of an access cover it. -/
theorem beatParts_covers {a n b : Nat} (h : a ≤ b) (h' : b < a + n) : ∃ x ∈ beatParts a n, x.1 ≤ b ∧ b < x.1 + x.2 := by
  refine ⟨_, List.mem_map.2 ⟨b / 64, ?_, rfl⟩, ?_⟩
  · unfold beatsOf
    rw [if_neg (by omega)]
    exact List.mem_map.2 ⟨b / 64 - a / 64, List.mem_range.2 (by omega), by omega⟩
  · dsimp only
    omega

/-- What the beats of a store leave in LPDDR5X. -/
theorem Dev.lp_of_parts (lk : Locked) (q : Req) (a : Nat) (bs : List Byte) (ps : List Bool) (direct : Bool) (ha : a + bs.length ≤ 2 ^ 36)
    (l : List ((Nat × Nat) × Nat)) : (∀ y ∈ l, a ≤ y.1.1 ∧ y.1.1 + y.1.2 ≤ a + bs.length ∧ 0 < y.1.2) →
    ∀ x : Nat × Dev, x.2.lpOpen q → ∀ b,
      (l.foldl (fun (x : Nat × Dev) (y : (Nat × Nat) × Nat) =>
        let ln := y.1.1 / 128 * 128
        let r := x.2.beatWrite lk q 0 y.1.1 (slice bs (y.1.1 - a) y.1.2) (ps.getD y.2 false) direct
          (decide (a ≤ ln) && decide (ln + 128 ≤ a + bs.length))
        (x.1 + b2n r.1, r.2)) x).2.ms.lp.byte b =
      if ∃ y ∈ l, y.1.1 ≤ b ∧ b < y.1.1 + y.1.2 then bs.getD (b - a) 0 else x.2.ms.lp.byte b := by
  induction l with
  | nil => simp
  | cons y l ih =>
    intro hl x hx b
    obtain ⟨h1, h2, h3⟩ := hl y List.mem_cons_self
    have he := Dev.beatWrite_lp (lk := lk) hx (a := y.1.1) (by omega) (slice bs (y.1.1 - a) y.1.2) (ps.getD y.2 false) direct
      (decide (a ≤ y.1.1 / 128 * 128) && decide (y.1.1 / 128 * 128 + 128 ≤ a + bs.length))
    rw [List.foldl_cons, ih (fun z hz => hl z (List.mem_cons_of_mem _ hz)) _ (hx.keeps (Dev.busKeeps_beatWrite ..))]
    dsimp only
    rw [he, Dev.arrWrite_lp, Mem.byte_storeBeat, length_slice]
    by_cases hm : ∃ z ∈ l, z.1.1 ≤ b ∧ b < z.1.1 + z.1.2
    · rw [if_pos hm, if_pos (by obtain ⟨z, hz, h⟩ := hm; exact ⟨z, List.mem_cons_of_mem _ hz, h⟩)]
    · rw [if_neg hm]
      by_cases hy : y.1.1 ≤ b ∧ b < y.1.1 + y.1.2
      · rw [if_pos hy, if_pos ⟨y, List.mem_cons_self, hy⟩, getD_slice _ (by omega)]
        congr 1; omega
      · rw [if_neg hy, if_neg]
        rintro ⟨z, hz, h⟩
        obtain rfl | hz := List.mem_cons.1 hz
        · exact hy h
        · exact hm ⟨z, hz, h⟩

/-- A store leaves its bytes in LPDDR5X and no other. -/
theorem Dev.busWrite_lp {lk : Locked} {d : Dev} {q : Req} (h : d.lpOpen q) {a : Nat} {bs : List Byte} (ha : a + bs.length ≤ 2 ^ 36)
    (ps : List Bool) (direct : Bool) (b : Nat) : (d.busWrite lk q 0 a bs ps direct).2.ms.lp.byte b =
      if a ≤ b ∧ b < a + bs.length then bs.getD (b - a) 0 else d.ms.lp.byte b := by
  have hin : ∀ y ∈ (beatParts a bs.length).zipIdx, y.1 ∈ beatParts a bs.length := fun y hy =>
    (List.mem_zipIdx' hy).2 ▸ List.getElem_mem _
  have hpos : ∀ x ∈ beatParts a bs.length, 0 < x.2 := by
    intro x hx
    unfold beatParts beatsOf at hx
    obtain ⟨k, hk, rfl⟩ := List.mem_map.1 hx
    by_cases hn : bs.length = 0
    · simp [hn] at hk
    · rw [if_neg hn] at hk
      obtain ⟨j, hj, rfl⟩ := List.mem_map.1 hk
      have := List.mem_range.1 hj
      dsimp only
      omega
  have := Dev.lp_of_parts lk q a bs ps direct ha (beatParts a bs.length).zipIdx
    (fun y hy => ⟨(beatParts_inside (hin y hy)).1, (beatParts_inside (hin y hy)).2, hpos _ (hin y hy)⟩)
    (0, d.newWrite) (h.keeps d.readKeeps_newWrite.bus) b
  refine this.trans (if_congr ⟨?_, ?_⟩ rfl rfl)
  · rintro ⟨y, hy, hb⟩
    have := beatParts_inside (hin y hy)
    omega
  · rintro ⟨h1, h2⟩
    obtain ⟨x, hx, hb⟩ := beatParts_covers h1 h2
    obtain ⟨i, hi⟩ := mem_zipIdx_of_mem hx
    exact ⟨_, hi, hb⟩

end Sys2Proof.Machine

open Sys2Proof Sys2Proof.Machine

/-- Settles O35: each beat of the store is stored in its turn, and the beats cover the bytes. -/
theorem storeReadsBack : Obligations.StoreReadsBack := by
  unfold Obligations.StoreReadsBack
  intro lk d q a bs direct hmem hcmn ha hw
  have hb := Dev.busWrite_lp (lk := lk) (Dev.lpOpen.mk hmem hcmn hw) ha (List.replicate (bs.length / 64 + 2) false) direct
  have hs : d.busStore lk q a bs false direct = (d.busWrite lk q 0 a bs (List.replicate (bs.length / 64 + 2) false) direct).2 := rfl
  rw [hs]
  refine ⟨List.ext_getElem (by simp) fun i h1 h2 => ?_, fun b h => ?_⟩
  · simp only [Mem.read, List.getElem_map, List.getElem_range, hb]
    rw [if_pos (by omega)]
    simp [h2]
  · rw [hb, if_neg (by omega)]

end

section
/-! SUPPORT. The registers of the memory system that act (O32). -/

namespace Sys2Proof.Machine

/-! ## MEM_CTRL and CMN_CTRL (R423, R437, R439) -/

theorem Dev.blockWrite_memCtrl (d : Dev) (lk : Locked) (v : Nat) : d.blockWrite lk .mem 0 0x100 v = d.memCtrl lk v := by
  simp only [Dev.blockWrite]
  rfl

theorem Dev.blockWrite_cmnCtrl (d : Dev) (lk : Locked) (v : Nat) : d.blockWrite lk .cmn 0 0x100 v = d.cmnCtrl v := by
  simp only [Dev.blockWrite]
  rfl

/-- The controller as an enable with locked shares leaves it (R431, R437). -/
def MemSys.started (m : MemSys) (tick : Nat) : MemSys :=
  { m with refStart := tick, refNext := none, refFrame := (false, 0), refDone := 0 }

theorem Dev.memCtrl_locked {d : Dev} {lk : Locked} {v : Nat} (h : d.flag .mem 0 0x100 0 = false) (hv : bit v 0 = true)
    (hl : lk.isLocked = true) : d.memCtrl lk v =
      { (d.setFld .mem 0 0x100 2 1 (bits v 2 1)).setFld .mem 0 0x100 0 0 1 with ms := d.ms.started d.tim.tick } := by
  simp only [Dev.memCtrl, h, hv, hl, Bool.not_true, Bool.false_eq_true, if_false]
  rfl

theorem Dev.memCtrl_unlocked {d : Dev} {lk : Locked} {v : Nat} (h : d.flag .mem 0 0x100 0 = false) (hv : bit v 0 = true)
    (hl : lk.isLocked = false) : d.memCtrl lk v = (d.setFld .mem 0 0x100 2 1 (bits v 2 1)).err .mem 0 errState 0x100 := by
  simp only [Dev.memCtrl, h, hv, hl, Bool.not_true, Bool.not_false, Bool.false_eq_true, if_false, if_true]

theorem Dev.cmnCtrl_enable {d : Dev} {v : Nat} (h : d.flag .cmn 0 0x100 0 = false) (hv : bit v 0 = true) :
    d.cmnCtrl v = { d.setReg .cmn 0 0x100 1 with ms := { d.ms with win := {}, cm := {}, lines := [] } } := by
  simp only [Dev.cmnCtrl, h, hv, Bool.not_false, Bool.and_self, if_true]

/-! ## MEM_READY (R419, R534) -/

/-- The registers in which an access through BAR2 may count. -/
def bar2Regs : List RegAt := (.pci, 0, 0x190) :: busRegs ++ [(.pci, 0, 0x194), (.pci, 0, 0x020)]

/-- A BAR2 access up to the count of what lies outside the map: the beats outside it and the device. -/
def Dev.bar2Access (lk : Locked) (d : Dev) (x : Bar2Req) : Nat × Dev :=
  if x.wr then d.busWrite lk .host 0 x.addr x.bytes (List.replicate (x.bytes.length / 64 + 2) x.poison)
  else
    let r := d.busRead lk .host 0 x.addr x.len
    (r.2.2.1, r.2.2.2.emit (.readData r.1 (decide (r.2.2.1 < (r.2.1.filter id).length))))

theorem Dev.bar2_eq (lk : Locked) (d : Dev) (x : Bar2Req) : d.bar2 lk x =
    if (d.bar2Access lk x).1 = 0 then (d.bar2Access lk x).2
    else ((d.bar2Access lk x).2.bump .pci 0 0x190 1).sticky .pci 0 4 := rfl

theorem busRegs_subset_bar2Regs : busRegs ⊆ bar2Regs := fun x hx => by
  simp only [bar2Regs, List.cons_append, List.mem_cons, List.mem_append]
  exact .inr (.inl hx)

theorem Dev.bar2Access_keeps (lk : Locked) (d : Dev) (x : Bar2Req) :
    d.keepsRegs (d.bar2Access lk x).2 busRegs ∧ d.keepsPci (d.bar2Access lk x).2 := by
  unfold Dev.bar2Access
  split
  · have h := d.busKeeps_busWrite lk .host 0 x.addr x.bytes (List.replicate (x.bytes.length / 64 + 2) x.poison) false
    exact ⟨h.regs, h.pci⟩
  · have h := d.readKeeps_busRead lk .host 0 x.addr x.len false
    exact ⟨h.regs.trans (Dev.keepsRegs_of_rg rfl _), h.pci.trans (Dev.keepsPci_of_pci rfl)⟩

theorem Dev.bar2_keeps (lk : Locked) (d : Dev) (x : Bar2Req) :
    d.keepsRegs (d.bar2 lk x) bar2Regs ∧ d.keepsPci (d.bar2 lk x) := by
  obtain ⟨h1, h2⟩ := d.bar2Access_keeps lk x
  have h1 := h1.mono busRegs_subset_bar2Regs
  rw [Dev.bar2_eq]
  split
  · exact ⟨h1, h2⟩
  · refine ⟨(h1.trans (Dev.keepsRegs_bump _ _ _ _ _ (by simp [bar2Regs]))).trans
      (Dev.keepsRegs_sticky _ _ _ _ (by simp [bar2Regs]) (by simp [bar2Regs])), h2.trans (Dev.keepsPci_of_pci (by simp))⟩

theorem Dev.bar2s_keep (lk : Locked) (l : List Bar2Req) (d : Dev) :
    d.keepsRegs (l.foldl (fun d x => d.bar2 lk x) d) bar2Regs ∧ d.keepsPci (l.foldl (fun d x => d.bar2 lk x) d) := by
  induction l generalizing d with
  | nil => exact ⟨.refl d _, Dev.keepsPci_of_pci rfl⟩
  | cons x l ih =>
    obtain ⟨h1, h2⟩ := d.bar2_keeps lk x
    obtain ⟨k1, k2⟩ := ih (d.bar2 lk x)
    exact ⟨h1.trans k1, h2.trans k2⟩

theorem Dev.keepsPci.bar2 {d e : Dev} (h : d.keepsPci e) : e.pci.bar2 = d.pci.bar2 := by
  obtain ⟨h, -⟩ := h
  rw [h]

/-- Training is complete: READY is set, and a firmware that waits for it goes on to RUN (R419, R534). -/
def Dev.trained (d : Dev) : Dev :=
  let d := d.setFld .mem 0 0x104 0 0 1
  if d.stage == 1 then d.setFld .sec 0 0x100 2 0 2 else d

theorem effMemReady_eq {lk : Locked} {d : Dev} (h : d.flag .mem 0 0x100 0 = true) : effMemReady lk d =
    d.trained.pci.bar2.foldl (fun d x => d.bar2 lk x) { d.trained with pci := { d.trained.pci with bar2 := [] } } := by
  unfold effMemReady
  rw [if_pos h]
  rfl

theorem Dev.trained_regsOnly (d : Dev) : d.regsOnly d.trained := by
  unfold Dev.trained
  dsimp only
  split
  · exact (d.setFld_regsOnly ..).trans (Dev.setFld_regsOnly ..)
  · exact d.setFld_regsOnly ..

theorem Dev.trained_regs (d : Dev) : d.trained.flag .mem 0 0x104 0 = true ∧
    d.trained.stage = (if d.stage = 1 then 2 else d.stage) ∧ d.keepsRegs d.trained [(.mem, 0, 0x104), (.sec, 0, 0x100)] := by
  have hs : (d.setFld .mem 0 0x104 0 0 1).stage = d.stage := by simp [Dev.stage, Dev.fld]
  have hr : (d.setFld .mem 0 0x104 0 0 1).flag .mem 0 0x104 0 = true := by simp [Dev.flag]
  have hk : d.keepsRegs (d.setFld .mem 0 0x104 0 0 1) [(.mem, 0, 0x104), (.sec, 0, 0x100)] :=
    d.keepsRegs_setFld _ _ _ _ _ _ (by simp)
  unfold Dev.trained
  dsimp only
  rw [hs]
  by_cases h1 : d.stage = 1
  · simp only [h1, beq_self_eq_true, if_true]
    refine ⟨?_, ?_, hk.trans (Dev.keepsRegs_setFld _ _ _ _ _ _ _ (by simp))⟩
    · rw [Dev.flag, Dev.reg_setFld_ne _ _ _ _ (by decide)]; exact hr
    · rw [Dev.stage, Dev.fld_setFld_self _ _ _ _ _ _ _ (by decide) (by decide)]; decide
  · rw [if_neg (by simpa using h1), if_neg h1]
    exact ⟨hr, hs, hk⟩

theorem bar2Regs_trained : Page.base .mem 0 + 0x104 ∉ bar2Regs.map RegAt.addr ∧
    Page.base .sec 0 + 0x100 ∉ bar2Regs.map RegAt.addr := by decide +kernel

theorem Dev.with_no_bar2 {d : Dev} (h : d.pci.bar2 = []) : ({ d with pci := { d.pci with bar2 := [] } } : Dev) = d := by
  rw [← h]

/-! ## Region descriptors (R425) -/

theorem Dev.blockWrite_rgn (d : Dev) (lk : Locked) (cmn : Bool) {r k : Nat} (v : Nat) (hk : k < 3)
    (hr : r < if cmn then 8 else 32) : d.blockWrite lk (if cmn then .cmn else .mem) 0 (0x400 + 16 * r + 4 * k) v =
      d.rgnWrite (if cmn then .cmn else .mem) r k v := by
  have h1 : (0x400 + 16 * r + 4 * k) % 16 = 4 * k := by omega
  have h2 : (0x400 + 16 * r + 4 * k - 0x400) / 16 = r := by omega
  have h3 : (0x400 + 16 * r + 4 * k) % 16 / 4 = k := by omega
  cases cmn
  · simp only [Bool.false_eq_true, if_false] at hr ⊢
    simp only [Dev.blockWrite]
    rw [if_neg (by omega), if_neg (by omega), if_pos (by omega), if_neg (by omega), h2, h3]
  · simp only [if_true] at hr ⊢
    simp only [Dev.blockWrite]
    rw [if_neg (by omega), if_neg (by omega), if_pos (by omega), if_neg (by omega), h2, h3]

theorem Dev.rgnWrite_free {d : Dev} {p : Page} {r k v : Nat} (h : d.flag p 0 0x100 0 = false) : d.rgnWrite p r k v =
    d.setReg p 0 (0x400 + 16 * r + 4 * k) (if k = 2 then v &&& 0x80000003 else v % 2 ^ 28) := by
  simp only [Dev.rgnWrite, h, Bool.not_false, if_true]
  split_ifs <;> rfl

end Sys2Proof.Machine

open Sys2Proof Sys2Proof.Machine

/-- Settles O32: an enable is `memCtrl` or `cmnCtrl`, and the accesses that waited for MEM_READY change neither READY nor the
stage. -/
theorem memoryRegisters : Obligations.MemoryRegisters := by
  unfold Obligations.MemoryRegisters
  refine ⟨?enable, ?ready, ?commons, ?region⟩
  case enable =>
    intro s v hw hen hv
    have hx : exec (.memEnable .secure v) s = .next { s with d := s.d.blockWrite s.lk .mem 0 0x100 v.toNat } :=
      exec_blockWrite rfl hw rfl v.isLt (by decide) nofun (by simp) (by simp)
    rw [Dev.blockWrite_memCtrl] at hx
    have hf : (s.d.setFld .mem 0 0x100 2 1 (bits v.toNat 2 1)).fld .mem 0 0x100 2 1 = bits v.toNat 2 1 := by
      rw [Dev.fld_setFld_self _ _ _ _ _ _ _ (by decide) (by decide)]
      exact Nat.mod_eq_of_lt (bits_lt v.toNat 2 1)
    have hk : s.d.keepsRegs (s.d.setFld .mem 0 0x100 2 1 (bits v.toNat 2 1)) [(.mem, 0, 0x100)] :=
      s.d.keepsRegs_setFld _ _ _ _ _ _ (by simp)
    have h0 := s.d.setFld_regsOnly .mem 0 0x100 2 1 (bits v.toNat 2 1)
    have hb : (s.d.setFld .mem 0 0x100 2 1 (bits v.toNat 2 1)).flag .mem 0 0x100 0 = false := by
      rw [Dev.flag_setFld_self _ _ _ _ _ _ _ _ (by decide) (by decide)]; simpa using hen
    cases hl : s.lk.isLocked
    · rw [Dev.memCtrl_unlocked hen hv hl] at hx
      have h2C : (s.d.setFld .mem 0 0x100 2 1 (bits v.toNat 2 1)).reg .mem 0 0x02C = s.d.reg .mem 0 0x02C := by simp
      refine ⟨_, hx, ?_⟩
      generalize s.d.setFld .mem 0 0x100 2 1 (bits v.toNat 2 1) = e at *
      have h1 := e.err_regsOnly .mem 0 errState 0x100
      have h100 : (e.err .mem 0 errState 0x100).reg .mem 0 0x100 = e.reg .mem 0 0x100 := by simp
      have hcount := e.reg_err_2C .mem 0 errState 0x100
      have hk1 := (hk.mono (m := [(.mem, 0, 0x100), (.mem, 0, 0x028), (.mem, 0, 0x02C)]) (by simp)).trans
        (e.keepsRegs_err .mem 0 errState 0x100 (by simp) (by simp))
      generalize e.err .mem 0 errState 0x100 = f at *
      obtain ⟨r, rfl⟩ : ∃ r, e = { s.d with rg := r } := ⟨_, h0⟩
      obtain ⟨r', rfl⟩ : ∃ r', f = { s.d with rg := r' } := ⟨_, h1⟩
      refine ⟨rfl, ?_, ?_, fun h => (by simp at h), fun _ => ⟨rfl, hcount.trans (by rw [h2C]), hk1⟩⟩
      · rw [← hf, Dev.fld, Dev.fld, h100]
      · rw [← hb, Dev.flag, Dev.flag, h100]
    · rw [Dev.memCtrl_locked hen hv hl] at hx
      refine ⟨_, hx, ?_⟩
      generalize s.d.setFld .mem 0 0x100 2 1 (bits v.toNat 2 1) = e at *
      have h1 := h0.trans (e.setFld_regsOnly .mem 0 0x100 0 0 1)
      have hf1 : (e.setFld .mem 0 0x100 0 0 1).fld .mem 0 0x100 2 1 = e.fld .mem 0 0x100 2 1 := by simp [Dev.fld]
      have hb1 : (e.setFld .mem 0 0x100 0 0 1).flag .mem 0 0x100 0 = true := by simp [Dev.flag]
      have hk1 := hk.trans (e.keepsRegs_setFld .mem 0 0x100 0 0 1 (by simp))
      generalize e.setFld .mem 0 0x100 0 0 1 = f at *
      obtain ⟨r', rfl⟩ : ∃ r', f = { s.d with rg := r' } := ⟨_, h1⟩
      exact ⟨rfl, hf1.trans hf, hb1, fun _ => ⟨rfl, hk1⟩, fun h => by simp at h⟩
  case ready =>
    intro s hen
    have hx := exec_onLk (s := s) (i := .memReady) rfl (effMemReady_eq (lk := s.lk) hen)
    refine ⟨_, hx, rfl, rfl, ?_⟩
    obtain ⟨hready, hstage, hk⟩ := s.d.trained_regs
    have h0 := s.d.trained_regsOnly
    generalize s.d.trained = e at *
    obtain ⟨h104, h100⟩ := bar2Regs_trained
    obtain ⟨hregs, hpci⟩ := Dev.bar2s_keep s.lk e.pci.bar2 { e with pci := { e.pci with bar2 := [] } }
    refine ⟨hpci.bar2, ?_, ?_, fun hnone => ?_⟩
    · rw [← hready, Dev.flag, hregs _ _ _ h104]
      rfl
    · rw [← hstage, Dev.stage, Dev.fld, hregs _ _ _ h100]
      rfl
    · obtain ⟨r, rfl⟩ : ∃ r, e = { s.d with rg := r } := ⟨_, h0⟩
      have he : (({ s.d with rg := r } : Dev).pci.bar2.foldl (fun d x => d.bar2 s.lk x)
          ({ s.d with rg := r, pci := { s.d.pci with bar2 := [] } } : Dev)) = { s.d with rg := r } := by
        have hn : ({ s.d with rg := r } : Dev).pci.bar2 = [] := hnone
        rw [hn]
        exact Dev.with_no_bar2 hn
      dsimp only at he ⊢
      rw [he]
      exact ⟨rfl, hk⟩
  case commons =>
    intro s v hw hen hv
    have hx : exec (.cmnEnable .secure v) s = .next { s with d := s.d.blockWrite s.lk .cmn 0 0x100 v.toNat } :=
      exec_blockWrite rfl hw rfl v.isLt (by decide) nofun (by simp) (by simp)
    rw [Dev.blockWrite_cmnCtrl, Dev.cmnCtrl_enable hen hv] at hx
    refine ⟨_, hx, ?_⟩
    have h0 := s.d.setReg_regsOnly .cmn 0 0x100 1
    have h1 : (s.d.setReg .cmn 0 0x100 1).reg .cmn 0 0x100 = 1 := Dev.reg_setReg_self ..
    have hk : s.d.keepsRegs (s.d.setReg .cmn 0 0x100 1) [(.cmn, 0, 0x100)] := s.d.keepsRegs_setReg _ _ _ _ (by simp)
    generalize s.d.setReg .cmn 0 0x100 1 = e at *
    obtain ⟨r, rfl⟩ : ∃ r, e = { s.d with rg := r } := ⟨_, h0⟩
    exact ⟨rfl, h1, hk, rfl, fun a => ⟨rfl, rfl⟩⟩
  case region =>
    intro s cmn r k v p o hw hr hen
    have hlt : r.val < if cmn then 8 else 32 := by
      cases cmn
      · exact r.isLt
      · exact hr rfl
    have ho : 0x100 ≤ o ∧ o < 0x1000 := by have := r.isLt; have := k.isLt; omega
    have hx : exec (.regionWrite .secure cmn r k v) s = .next { s with d := s.d.blockWrite s.lk p 0 o v.toNat } :=
      exec_blockWrite rfl hw (by cases cmn <;> rfl) v.isLt ho nofun (by have := r.isLt; have := k.isLt; rintro ⟨-, h⟩; omega)
        (by cases cmn <;> simp [p])
    rw [Dev.blockWrite_rgn s.d s.lk cmn v.toNat k.isLt hlt, Dev.rgnWrite_free hen] at hx
    refine ⟨_, hx, rfl, ?_, s.d.keepsRegs_setReg _ _ _ _ (by simp [o, p])⟩
    have h32 : (if k.val = 2 then v.toNat &&& 0x80000003 else v.toNat % 2 ^ 28) < 2 ^ 32 := by
      split_ifs
      · exact Nat.and_le_right.trans_lt (by decide)
      · omega
    refine (Dev.reg_setReg_self ..).trans ((Nat.mod_eq_of_lt h32).trans (if_congr ?_ rfl rfl))
    exact ⟨fun h => Fin.ext h, fun h => congrArg Fin.val h⟩

end

section
/-! SUPPORT. Reads and writes of BAR0 and BAR4 (O50). -/

namespace Sys2Proof.Machine

/-! ## One word (R10) -/

theorem wordsOf_word {a : Nat} (h : a % 4 = 0) : wordsOf a 4 = [(a, true)] := by
  have h1 : (a + 4 + 3) / 4 - a / 4 = 1 := by omega
  have h2 : 4 * (a / 4) = a := by omega
  simp [wordsOf, rangeFrom, h1, h2]

theorem wordsOf_part {a n : Nat} (h : a % 4 = 0) (h0 : 0 < n) (h4 : n < 4) : wordsOf a n = [(a, false)] := by
  have h1 : (a + n + 3) / 4 - a / 4 = 1 := by omega
  have h2 : 4 * (a / 4) = a := by omega
  have h3 : ¬4 ≤ n := by omega
  simp [wordsOf, rangeFrom, h1, h2, h3]

theorem slice_leBytes (v : Nat) : slice (leBytes 4 v) 0 4 = leBytes 4 v := by
  refine List.ext_getElem (by simp) fun i h1 h2 => ?_
  simp only [slice, List.getElem_map, List.getElem_range, Nat.zero_add]
  rw [List.getD_eq_getElem _ _ h2]

/-- The four bytes of a whole word. -/
theorem leAt_whole {bs : List Byte} (h : bs.length = 4) : leAt bs 0 4 = leNat bs := by
  have : slice bs 0 4 = bs := by
    refine List.ext_getElem (by simp [slice, h]) fun i h1 h2 => ?_
    simp [slice, h2]
  rw [leAt, this]

theorem barRead_word {d : Dev} {lk : Locked} {w : World} {a : Nat} (hw : d.answers w = true) (ha : a % 4 = 0) :
    d.barRead lk w a 4 = (d.wordRead lk w a true).2.emit (.readData (leBytes 4 (d.wordRead lk w a true).1) false) := by
  unfold Dev.barRead
  simp only [hw, wordsOf_word ha, List.foldl_cons, List.foldl_nil, List.nil_append, ha, slice_leBytes]
  rfl

theorem wordRead_here {d : Dev} {lk : Locked} {w : World} {a n : Nat} {p : Page} {full : Bool}
    (hp : pageAtIndex (a / 4096) = some (p, n)) (ht : pageThere lk p n = true) (ho : d.openTo w p = true)
    (hs : w = .nonsecure → d.secure p n = false ∨ headerReads (a % 4096) = true) :
    d.wordRead lk w a full = (d.regValue lk p n (a % 4096), d.readEffect p n (a % 4096) full) := by
  have hc : (w == .nonsecure && d.secure p n && !headerReads (a % 4096)) = false := by
    cases w
    · obtain h | h := hs rfl <;> simp [h]
    · rfl
  simp [Dev.wordRead, hp, ht, ho, hc, Option.filter]

theorem wordRead_unmapped {d : Dev} {lk : Locked} {w : World} {a : Nat} {full : Bool} (hp : pageAtIndex (a / 4096) = none) :
    d.wordRead lk w a full = (0, if d.stage == 3 && w == .nonsecure then d else d.err .dev 0 errUnmapped a) := by
  simp [Dev.wordRead, hp, Option.filter]

/-- Where a page is open the endpoint answers. -/
theorem Dev.answers_of_openTo {d : Dev} {w : World} {p : Page} (h : d.openTo w p = true) : d.answers w = true := by
  unfold Dev.openTo at h
  unfold Dev.answers
  simp only [Bool.and_eq_true, Bool.or_eq_true] at h ⊢
  obtain ⟨h1, h2⟩ := h
  refine ⟨h1, h2.imp id fun ⟨⟨h3, h4⟩, h5⟩ => ⟨⟨h3, h4⟩, h5.imp id fun h6 => h6.1⟩⟩

/-- A whole read of a register that latches nothing clears its RC bits (R12). -/
theorem Dev.readEffect_whole {d : Dev} {p : Page} {n o : Nat} {r : RegRow} (hr : p.row n o = some r) (h1 : (p, o) ≠ (.tim, 0x100))
    (h2 : (p, o) ≠ (.core, 0x118)) (he : p = .eth → d.ethPresent n = true) :
    d.readEffect p n o true = d ∧ r.rc = 0 ∨ d.readEffect p n o true = d.setReg p n o (d.reg p n o &&& (0xFFFFFFFF - r.rc)) := by
  have hb : (p == .eth && decide (0x100 ≤ o) && !d.ethPresent n) = false := by
    by_cases hp : p = .eth
    · simp [he hp]
    · simp [hp]
  have hd : d.readEffect p n o true = if !true || r.rc = 0 || (p == .eth && decide (0x100 ≤ o) && !d.ethPresent n) then d
      else d.setReg p n o (d.reg p n o &&& (0xFFFFFFFF - r.rc)) := by
    unfold Dev.readEffect
    split
    · exact absurd rfl h1
    · exact absurd rfl h2
    · rw [hr]
  rw [hd, hb]
  by_cases h0 : r.rc = 0
  · exact .inl ⟨by simp [h0], h0⟩
  · exact .inr (by simp [h0])

theorem Dev.readEffect_regsOnly {d : Dev} {p : Page} {n o : Nat} (h1 : (p, o) ≠ (.tim, 0x100)) (full : Bool) :
    d.regsOnly (d.readEffect p n o full) := by
  unfold Dev.readEffect
  split
  · exact absurd rfl h1
  · exact d.setReg_regsOnly ..
  · split
    · exact .refl d
    · split_ifs
      · exact .refl d
      · exact d.setReg_regsOnly ..

theorem Dev.readEffect_reg {d : Dev} {p : Page} {n o : Nat} {r : RegRow} (hr : p.row n o = some r) (h1 : (p, o) ≠ (.tim, 0x100))
    (h2 : (p, o) ≠ (.core, 0x118)) (he : p = .eth → d.ethPresent n = true) :
    (d.readEffect p n o true).reg p n o = d.reg p n o &&& (0xFFFFFFFF - r.rc) ∧
    ∀ q m i, q.base m + i ≠ p.base n + o → (d.readEffect p n o true).reg q m i = d.reg q m i := by
  obtain ⟨h, h0⟩ | h := Dev.readEffect_whole hr h1 h2 he
  · rw [h]
    refine ⟨?_, fun _ _ _ _ => rfl⟩
    rw [h0]
    exact (Nat.and_two_pow_sub_one_of_lt_two_pow (d.reg_lt p n o)).symm
  · rw [h]
    refine ⟨?_, fun q m i hi => Dev.reg_setReg_ne _ _ hi⟩
    rw [Dev.reg_setReg_self]
    exact Nat.mod_eq_of_lt (Nat.and_le_left.trans_lt (d.reg_lt ..))

/-! ## Writes (R10, R12, R594) -/

theorem barWrite_word {w : World} {a : Nat} {bs : List Byte} {lk : Locked} {d : Dev} (ha : a % 4 = 0) (h : bs.length = 4) :
    barWrite w a bs lk d = wordWrite w a (some (leNat bs)) (lk, d) := by
  simp [barWrite, wordParts, h, wordsOf_word ha, leAt_whole h]

theorem barWrite_part {w : World} {a : Nat} {bs : List Byte} {lk : Locked} {d : Dev} (ha : a % 4 = 0) (h0 : 0 < bs.length)
    (h4 : bs.length < 4) : barWrite w a bs lk d = wordWrite w a none (lk, d) := by
  simp [barWrite, wordParts, wordsOf_part ha h0 h4]

theorem leNat_lt (bs : List Byte) : leNat bs < 256 ^ bs.length := by
  induction bs with
  | nil => simp [leNat]
  | cons b bs ih =>
    have := b.isLt
    simp only [leNat, List.length_cons, Nat.pow_succ]
    omega

theorem leNat_lt_word {bs : List Byte} (h : bs.length = 4) : leNat bs < 2 ^ 32 := by
  have := leNat_lt bs
  rwa [h] at this

/-- A write that the page takes, by its BAR0 offset. -/
theorem wordWrite_reaches {w : World} {a v n : Nat} {p : Page} {lk : Locked} {d : Dev} (hp : pageAtIndex (a / 4096) = some (p, n))
    (h : d.takesWrite lk w p n) : wordWrite w a (some v) (lk, d) = regWrite lk w p n (a % 4096) v d := by
  obtain ⟨h1, h2, h3, h4⟩ := h
  have h5 : (w == .nonsecure && d.secure p n) = false := by
    cases w
    · simp [h3 rfl]
    · rfl
  simp [wordWrite, hp, Dev.pageWrite, h1, h2, h4, h5]

/-- The sticky register of every page takes plain writes. -/
theorem Dev.blockWrite_sticky {d : Dev} {lk : Locked} {p : Page} {n v : Nat} (h : 0x100 ≤ p.sticky.1)
    (he : p = .eth → d.ethPresent n = true) : d.blockWrite lk p n p.sticky.1 v = d.plainWrite p n p.sticky.1 v := by
  cases p
  case eth => simp [Dev.blockWrite, he rfl]
  case irq | dev | cru | sem | mch | dbg | stl => simp [Page.sticky] at h
  all_goals simp [Dev.blockWrite, wtnFrozen]

/-- A plain write reaches its register alone. -/
theorem Dev.plainWrite_keeps (d : Dev) (p : Page) (n o v : Nat) : d.keepsRegs (d.plainWrite p n o v) [(p, n, o)] := by
  unfold Dev.plainWrite
  split
  · exact .refl d _
  · exact d.keepsRegs_setReg _ _ _ _ (by simp)

/-- A plain write of a register without RWS bits (R12). -/
theorem Dev.reg_plainWrite_rw {d : Dev} {p : Page} {n o v : Nat} {r : RegRow} (h : p.row n o = some r) (hw : r.rws = 0)
    (hv : v < 2 ^ 32) : (d.plainWrite p n o v).reg p n o =
      (d.reg p n o &&& (0xFFFFFFFF - r.rw) &&& (0xFFFFFFFF - (v &&& r.w1c))) ||| (v &&& r.rw) := by
  rw [Dev.reg_plainWrite h, hw, Nat.or_zero]
  refine Nat.mod_eq_of_lt (Nat.or_lt_two_pow ?_ ?_)
  · exact Nat.and_le_left.trans_lt (Nat.and_le_left.trans_lt (d.reg_lt ..))
  · exact Nat.and_le_left.trans_lt hv

/-- What the first error of a page captures (R594). -/
theorem Dev.reg_err_028 {d : Dev} {p : Page} {n : Nat} (h : d.flag p n 0x028 31 = false) (c o : Nat) :
    (d.err p n c o).reg p n 0x028 =
      (2 ^ 31 + c % 16 * 2 ^ 24 + (if c = 5 || c = 6 then 0 else (p.base n + o) % 2 ^ 24)) % 2 ^ 32 := by
  have hf : (d.bump p n 0x02C 1).flag p n 0x028 31 = false := by
    rw [← h, Dev.flag, Dev.flag, Dev.reg_bump_ne _ _ (by omega)]
  unfold Dev.err
  dsimp only
  rw [if_neg (by rw [hf]; decide)]
  exact Dev.reg_setReg_self ..

theorem pageAtIndex_lt {k : Nat} {x : Page × Nat} (h : pageAtIndex k = some x) : k < 0x180 := by
  unfold pageAtIndex at h
  split_ifs at h with h1 h2 h3
  · omega
  · omega
  · omega
  · split at h
    any_goals omega
    cases h

/-- A doorbell changes registers alone. -/
theorem Dev.doorbell_regsOnly (d : Dev) (r v : Nat) : d.regsOnly (d.doorbell r v) := by
  unfold Dev.doorbell
  dsimp only
  generalize (d.flag .pci 0 0x100 0 && _) = ok
  split
  · exact .refl d
  · split
    · exact d.setReg_regsOnly ..
    · exact (d.bump_regsOnly ..).trans (Dev.sticky_regsOnly ..)

theorem bar4Write_doorbell {d : Dev} {r : Fin 5} {bs : List Byte} (h : bs.length = 4) (ho : d.openTo .nonsecure .pci = true) :
    d.bar4Write (0x1000 * r.val) bs = d.doorbell r (leNat bs) := by
  have ha := Dev.answers_of_openTo ho
  have h3 : d.stage ≠ 3 := by
    intro h3
    simp [Dev.openTo, h3] at ho
  have hr : 0x1000 * r.val < 0x5000 := by omega
  unfold Dev.bar4Write
  simp [ha, h3, wordParts, h, wordsOf_word (a := 0x1000 * r.val) (by omega), leAt_whole h, hr]

/-- Below the MSI-X table BAR4 reads zero (R555). -/
theorem bar4Read_zero {d : Dev} {a n : Nat} (h : d.answers .nonsecure = true) (ha : a + n ≤ 0xF0000) :
    d.bar4Read a n = d.emit (.readData (List.replicate n 0) false) := by
  unfold Dev.bar4Read
  simp only [h, Bool.not_true, Bool.false_eq_true, if_false]
  congr 2
  refine List.ext_getElem (by simp [rangeFrom]) fun i h1 h2 => ?_
  have hi : i < n := by simpa using h2
  simp only [rangeFrom, List.map_map, List.getElem_map, List.getElem_range, Function.comp, List.getElem_replicate]
  by_cases h3 : (d.stage == 3) = true
  · rw [if_pos h3]
  · rw [if_neg h3, if_neg (by omega), if_neg (by omega)]

end Sys2Proof.Machine

open Sys2Proof Sys2Proof.Machine

/-- Settles O50: an access of one word is one `wordRead` or `wordWrite`, and a sticky register takes plain writes. -/
theorem registerAccess : Obligations.RegisterAccess := by
  unfold Obligations.RegisterAccess
  refine ⟨?read, ?bar4, ?cyc, ?write, ?doorbell⟩
  case read =>
    intro s w a ha hw
    have hx := exec_onLk (s := s) (i := .rcRead w false a 4) rfl (barRead_word (lk := s.lk) hw ha)
    refine ⟨_, hx, fun p n hp ht ho hs => ?_, fun hp => ?_⟩
    · rw [wordRead_here hp ht ho hs]
      dsimp only
      by_cases htim : (p, a % 4096) = (.tim, 0x100)
      · refine ⟨?_, fun r _ h => absurd htim h⟩
        obtain ⟨rfl, h2⟩ := Prod.mk.injEq .. ▸ htim
        rw [h2]
        rfl
      · have h0 := s.d.readEffect_regsOnly (n := n) htim true
        refine ⟨?_, fun r hr h1 h2 he => ?_⟩
        · generalize s.d.readEffect p n (a % 4096) true = e at *
          obtain ⟨r, rfl⟩ : ∃ r, e = { s.d with rg := r } := ⟨_, h0⟩
          rfl
        · obtain ⟨hr1, hr2⟩ := Dev.readEffect_reg hr h1 h2 he
          generalize s.d.readEffect p n (a % 4096) true = e at *
          obtain ⟨r, rfl⟩ : ∃ r, e = { s.d with rg := r } := ⟨_, h0⟩
          exact ⟨rfl, hr1, hr2⟩
    · rw [wordRead_unmapped hp]
      dsimp only
      have h0 := s.d.err_regsOnly .dev 0 errUnmapped a
      have hc := s.d.reg_err_2C .dev 0 errUnmapped a
      generalize s.d.err .dev 0 errUnmapped a = e at *
      obtain ⟨r, rfl⟩ : ∃ r, e = { s.d with rg := r } := ⟨_, h0⟩
      by_cases h3 : (s.d.stage == 3 && w == .nonsecure) = true
      · rw [if_pos h3]
        refine ⟨rfl, rfl, fun h => absurd ?_ h⟩
        simp only [Bool.and_eq_true, beq_iff_eq] at h3
        exact h3.1
      · rw [if_neg h3]
        exact ⟨rfl, rfl, fun _ => hc⟩
  case bar4 =>
    intro s w a n hw ha
    exact ⟨_, exec_onLk (f := effRcRead w true a n) rfl (bar4Read_zero hw ha), rfl⟩
  case cyc =>
    intro s w c ho hen hs
    have hp : pageAtIndex ((Page.base .core c + 0x118) / 4096) = some (.core, c.val) ∧
        (Page.base .core c + 0x118) % 4096 = 0x118 := pageAtIndex_base .core c.val 0x118 (by decide) c.isLt
    have hx := exec_onLk (s := s) (i := .coreCycLoRead w c) rfl
      (barRead_word (a := Page.base .core c + 0x118) (lk := s.lk) (Dev.answers_of_openTo ho) (by simp; omega))
    rw [wordRead_here hp.1 hen ho fun h => .inl (hs h), hp.2] at hx
    refine ⟨_, hx, ?_⟩
    have he : s.d.readEffect .core c 0x118 true = s.d.setReg .core c 0x11C ((s.d.core c).cyc / 2 ^ 32 % 2 ^ 32) := rfl
    have hv : s.d.regValue s.lk .core c 0x118 = (s.d.core c).cyc % 2 ^ 32 := rfl
    dsimp only
    rw [he, hv]
    have h0 := s.d.setReg_regsOnly .core c 0x11C ((s.d.core c).cyc / 2 ^ 32 % 2 ^ 32)
    have h1 : (s.d.setReg .core c 0x11C ((s.d.core c).cyc / 2 ^ 32 % 2 ^ 32)).reg .core c 0x11C =
        (s.d.core c).cyc / 2 ^ 32 % 2 ^ 32 := by rw [Dev.reg_setReg_self, Nat.mod_mod]
    have hk : s.d.keepsRegs (s.d.setReg .core c 0x11C ((s.d.core c).cyc / 2 ^ 32 % 2 ^ 32)) [(.core, c.val, 0x11C)] :=
      s.d.keepsRegs_setReg _ _ _ _ (by simp)
    generalize s.d.setReg .core c 0x11C ((s.d.core c).cyc / 2 ^ 32 % 2 ^ 32) = e at *
    obtain ⟨r, rfl⟩ : ∃ r, e = { s.d with rg := r } := ⟨_, h0⟩
    exact ⟨rfl, rfl, h1, hk⟩
  case write =>
    intro s w a bs p n r o hp hr hrws ha ho he hw
    refine ⟨fun h4 => ?_, fun h0 h4 => ?_⟩
    · have hb : regWrite s.lk w p n o (leNat bs) s.d = (s.lk, s.d.plainWrite p n o (leNat bs)) := by
        have hs : w = .nonsecure → p.isRws n o = false := fun _ => by simp [Page.isRws, hr, hrws]
        have hm : ¬(p = .mem ∧ o = 0x180) := by
          rintro ⟨rfl, h⟩
          rw [h] at ho
          revert ho
          decide
        have hpw : ¬(p = .pwr ∧ o = 0x128) := by
          rintro ⟨rfl, h⟩
          rw [h] at ho
          revert ho
          decide
        rw [regWrite_block hs hm hpw]
        obtain h1c | ⟨hst, hge⟩ := ho
        · rw [if_pos (by omega), h1c]
          rfl
        · rw [if_neg (by omega), hst, Dev.blockWrite_sticky (by omega) he]
      have hx : exec (.registerWrite w false a bs) s = .next { s with d := s.d.plainWrite p n o (leNat bs) } :=
        exec_onAll (f := effRegisterWrite w false a bs) rfl ((barWrite_word ha h4).trans ((wordWrite_reaches hp hw).trans hb))
      exact ⟨_, hx, congrArg (fun e => ({ s with d := e } : State)) (s.d.plainWrite_regsOnly ..), s.d.plainWrite_keeps _ _ _ _,
        Dev.reg_plainWrite_rw hr hrws (leNat_lt_word h4)⟩
    · have hb : wordWrite w a none (s.lk, s.d) = (s.lk, s.d.err .dev 0 errPartial a) := by
        simp [wordWrite, hp, hw.1]
      have hx : exec (.registerWrite w false a bs) s = .next { s with d := s.d.err .dev 0 errPartial a } :=
        exec_onAll (f := effRegisterWrite w false a bs) rfl ((barWrite_part ha h0 h4).trans hb)
      refine ⟨_, hx, congrArg (fun e => ({ s with d := e } : State)) (s.d.err_regsOnly ..), s.d.reg_err_2C ..,
        s.d.keepsRegs_err _ _ _ _ (by simp) (by simp), fun hf => ?_⟩
      have hlt := pageAtIndex_lt hp
      refine (Dev.reg_err_028 hf errPartial a).trans ?_
      clear * - hlt
      have h24 : Page.base .dev 0 + a = a := Nat.zero_add a
      rw [if_neg (by decide), h24, show errPartial % 16 = 3 from rfl]
      omega
  case doorbell =>
    intro s w r bs h4 ho
    have hx : exec (.registerWrite w true (0x1000 * r.val) bs) s = .next { s with d := s.d.doorbell r (leNat bs) } :=
      exec_onAll (f := effRegisterWrite w true (0x1000 * r.val) bs) rfl
        (congrArg (Prod.mk s.lk) (bar4Write_doorbell h4 ho))
    exact ⟨_, hx, congrArg (fun e => ({ s with d := e } : State)) (s.d.doorbell_regsOnly ..), rfl⟩

end

section
/-! SUPPORT. Refresh, hot refresh, burst slots and soft errors (O31). -/

namespace Sys2Proof.Machine

/-! ## Hot refresh (R431, R438) -/

/-- The four channels of package `k` read temperature `t`. -/
def Dev.showHot (d : Dev) (k t : Nat) : Dev := (List.range 4).foldl (fun d i => d.setReg .mch (4 * k + i) 0x110 (t % 256)) d

/-- The controller takes up the RATE 1 timing because of temperature `t` of package `k`. -/
def Dev.takeHot (d : Dev) (k t : Nat) : Dev :=
  ((d.setFld .mem 0 0x104 1 1 1).sticky .mem 0 2).post .mem 0 0x07 1 0 (layout 20 [(0, 1, k), (1, 1, t)])

theorem effHotref_eq {k t : Nat} {d : Dev} (h : d.pwr.held = false) : effHotref k t d =
    if (d.showHot k t).flag .mem 0 0x100 0 && !(d.showHot k t).fastRefresh && decide (85 < toS 8 t) && (d.showHot k t).frameStarts
    then (d.showHot k t).takeHot k t else d.showHot k t := by
  unfold effHotref
  rw [if_neg (by rw [h]; decide)]
  rfl

theorem Dev.showHot_spec (d : Dev) (k : Fin 4) (v : BitVec 8) : d.regsOnly (d.showHot k v.toNat) ∧
    (∀ i, i < 4 → (d.showHot k v.toNat).reg .mch (4 * k + i) 0x110 = v.toNat) ∧
    d.keepsRegs (d.showHot k v.toNat) ((List.range 4).map fun i => (.mch, 4 * k.val + i, 0x110)) := by
  have hv := v.isLt
  refine ⟨?_, fun i hi => ?_, ?_⟩
  · exact ((d.setReg_regsOnly ..).trans (Dev.setReg_regsOnly ..)).trans ((Dev.setReg_regsOnly ..).trans (Dev.setReg_regsOnly ..))
  · simp only [Dev.showHot, List.range, List.range.loop, List.foldl_cons, List.foldl_nil, Dev.reg_setReg, Page.base_at]
    have hm : v.toNat % 256 % 2 ^ 32 = v.toNat := by omega
    rw [hm]
    split_ifs
    · rfl
    · rfl
    · rfl
    · rfl
    · omega
  · exact (((d.keepsRegs_setReg _ _ _ _ (by simp)).trans (Dev.keepsRegs_setReg _ _ _ _ _ (by simp))).trans
      (Dev.keepsRegs_setReg _ _ _ _ _ (by simp))).trans (Dev.keepsRegs_setReg _ _ _ _ _ (by simp))

theorem Dev.frameStarts_congr {d e : Dev} (h120 : e.reg .tim 0 0x120 = d.reg .tim 0 0x120)
    (h110 : e.reg .tim 0 0x110 = d.reg .tim 0 0x110) (ht : e.tim = d.tim) (hm : e.ms = d.ms) : e.frameStarts = d.frameStarts := by
  unfold Dev.frameStarts Dev.sinceSub Dev.freeStart Dev.gridOn Dev.ns Dev.flag
  rw [h120, h110, ht, hm]

theorem Dev.takeHot_spec (d : Dev) (k t : Nat) : d.takeHot k t = { d with rg := (d.takeHot k t).rg, pci := (d.takeHot k t).pci } ∧
    d.keepsPci (d.takeHot k t) ∧ d.keepsRegs (d.takeHot k t) (evtRegs ++ [(.mem, 0, 0x104), (.mem, 0, 0x11C), (.mem, 0, 0x020)]) ∧
    (d.takeHot k t).flag .mem 0 0x104 1 = true := by
  have h0 := (d.setFld_regsOnly .mem 0 0x104 1 1 1).trans (Dev.sticky_regsOnly _ .mem 0 2)
  have hk : d.keepsRegs ((d.setFld .mem 0 0x104 1 1 1).sticky .mem 0 2)
      (evtRegs ++ [(.mem, 0, 0x104), (.mem, 0, 0x11C), (.mem, 0, 0x020)]) :=
    (d.keepsRegs_setFld _ _ _ _ _ _ (by simp)).trans (Dev.keepsRegs_sticky _ _ _ _ (by simp) (by simp))
  have hf : ((d.setFld .mem 0 0x104 1 1 1).sticky .mem 0 2).flag .mem 0 0x104 1 = true := by simp [Dev.flag]
  unfold Dev.takeHot
  generalize (d.setFld .mem 0 0x104 1 1 1).sticky .mem 0 2 = e at *
  generalize layout 20 [(0, 1, k), (1, 1, t)] = bs
  have hs := e.post_shape .mem 0 0x07 1 0 bs
  have hp := e.keepsPci_post .mem 0 0x07 1 0 bs
  have hr := e.keepsRegs_post .mem 0 0x07 1 0 bs (List.Subset.refl evtRegs)
  have h104 : (e.post .mem 0 0x07 1 0 bs).reg .mem 0 0x104 = e.reg .mem 0 0x104 := by simp
  generalize e.post .mem 0 0x07 1 0 bs = f at *
  refine ⟨?_, ?_, hk.trans (hr.mono (List.subset_append_left ..)), ?_⟩
  · obtain ⟨r, rfl⟩ : ∃ r, e = { d with rg := r } := ⟨_, h0⟩
    exact hs
  · obtain ⟨r, rfl⟩ : ∃ r, e = { d with rg := r } := ⟨_, h0⟩
    exact hp
  · rw [Dev.flag, h104]; exact hf

/-! ## Soft errors (R422, R433, R434) -/

/-- What soft errors leave alone: they strike what is stored, without a byte of it, and count. -/
structure Dev.softKeeps (d e : Dev) : Prop where
  cores : e.cores = d.cores
  pos : e.ms.pos = d.ms.pos
  bursts : e.ms.bursts = d.ms.bursts
  lp : ∀ a, e.ms.lp.byte a = d.ms.lp.byte a
  regs : d.keepsRegs e [(.fec, 0, 0x12C), (.fec, 0, 0x140), (.fec, 0, 0x020), (.fec, 0, 0x028), (.fec, 0, 0x02C)]

theorem Dev.softKeeps.refl (d : Dev) : d.softKeeps d := ⟨rfl, rfl, rfl, fun _ => rfl, .refl d _⟩

theorem Dev.softKeeps.trans {a b c : Dev} (h : a.softKeeps b) (k : b.softKeeps c) : a.softKeeps c :=
  ⟨k.cores.trans h.cores, k.pos.trans h.pos, k.bursts.trans h.bursts, fun x => (k.lp x).trans (h.lp x), h.regs.trans k.regs⟩

theorem Mem.byte_strike (m : Mem) (w n : Nat) (bad : Bool) (a : Nat) : (m.strike w n bad).byte a = m.byte a := by
  cases bad <;> exact Mem.byte_congr rfl rfl a

theorem Dev.softKeeps_of_regs {d e : Dev} (h : d.regsOnly e)
    (k : d.keepsRegs e [(.fec, 0, 0x12C), (.fec, 0, 0x140), (.fec, 0, 0x020), (.fec, 0, 0x028), (.fec, 0, 0x02C)]) :
    d.softKeeps e := by
  refine ⟨?_, ?_, ?_, fun a => ?_, k⟩ <;> rw [h]

theorem Dev.softKeeps_errFree (d : Dev) (c : Nat) : d.softKeeps (d.errFree .fec 0 c) := by
  have h0 : d.softKeeps { d with fresh := d.fresh + 1 } := ⟨rfl, rfl, rfl, fun _ => rfl, Dev.keepsRegs_of_rg rfl _⟩
  exact h0.trans (Dev.softKeeps_of_regs (Dev.err_regsOnly ..) (Dev.keepsRegs_err _ _ _ _ _ (by simp) (by simp)))

/-- A soft error that marks a staged block: the first of the block is counted (R434, R368). -/
theorem Dev.softKeeps_staged (d : Dev) (fec : FecSt) (fresh : Bool) : d.softKeeps
    (Dev.errFree (if fresh then (Dev.bump { d with fec := fec } .fec 0 0x12C 1).sticky .fec 0 0 else { d with fec := fec })
      .fec 0 errEcc) := by
  have h0 : d.softKeeps { d with fec := fec } := ⟨rfl, rfl, rfl, fun _ => rfl, Dev.keepsRegs_of_rg rfl _⟩
  refine Dev.softKeeps.trans ?_ (Dev.softKeeps_errFree _ _)
  cases fresh
  · exact h0
  · exact (h0.trans (Dev.softKeeps_of_regs (Dev.bump_regsOnly _ .fec 0 0x12C 1) (Dev.keepsRegs_bump _ .fec 0 0x12C 1 (by simp)))).trans
      (Dev.softKeeps_of_regs (Dev.sticky_regsOnly _ .fec 0 0) (Dev.keepsRegs_sticky _ .fec 0 0 (by simp) (by simp)))

theorem Dev.softKeeps_softError (d : Dev) (e : Nat × Nat × Bool) : d.softKeeps (d.softError e) := by
  obtain ⟨arr, w, bad⟩ := e
  unfold Dev.softError
  dsimp only
  split
  · exact ⟨rfl, rfl, rfl, fun a => Mem.byte_strike .., Dev.keepsRegs_of_rg rfl _⟩
  · exact ⟨rfl, rfl, rfl, fun _ => rfl, Dev.keepsRegs_of_rg rfl _⟩
  · exact ⟨rfl, rfl, rfl, fun _ => rfl, Dev.keepsRegs_of_rg rfl _⟩
  · exact ⟨rfl, rfl, rfl, fun _ => rfl, Dev.keepsRegs_of_rg rfl _⟩
  · split
    · exact .refl d
    · exact ⟨rfl, rfl, rfl, fun _ => rfl, Dev.keepsRegs_of_rg rfl _⟩
  · split
    · exact .refl d
    · split
      · exact .refl d
      · exact d.softKeeps_staged _ _

theorem Dev.softKeeps_softErrors (l : List (Nat × Nat × Bool)) (d : Dev) : d.softKeeps (l.foldl (fun d e => d.softError e) d) := by
  induction l generalizing d with
  | nil => exact .refl d
  | cons e l ih => exact (d.softKeeps_softError e).trans (ih _)

/-! ## Burst slots (R238, R239) -/

/-- The owner's burst is one of its class on the channel. -/
theorem nextBurst_spec {ch cls : Nat} {b : Burst} {rest : List Burst} (l : List Burst) :
    ∀ before, nextBurst ch cls before l = some (b, rest) → b.chan = ch ∧ b.cls = cls := by
  induction l with
  | nil => simp [nextBurst]
  | cons c l ih =>
    intro before h
    unfold nextBurst at h
    split at h
    · rename_i hc
      cases h
      simp only [Bool.and_eq_true, beq_iff_eq] at hc
      exact hc.1
    · exact ih _ h

/-- One slot of a channel passes to its owner. -/
def Dev.slotPassed (d : Dev) (lk : Locked) (ch : Nat) : Dev :=
  { d with ms := { d.ms with
      pos := d.ms.pos.setIfInBounds ch ((d.ms.pos.toList.getD ch 0 + 1) % 20)
      bursts := ((nextBurst ch (d.owner lk ch) [] d.ms.bursts).map (·.2)).getD d.ms.bursts } }

theorem effMemoryBurst_on {ch : Nat} {errs : List (Nat × Nat × Bool)} {lk : Locked} {d : Dev}
    (h : (errs.foldl (fun d e => d.softError e) d).flag .mem 0 0x100 0 = true)
    (h4 : (errs.foldl (fun d e => d.softError e) d).flag .mem 0 0x104 0 = true) :
    effMemoryBurst ch errs lk d = (errs.foldl (fun d e => d.softError e) d).slotPassed lk ch := by
  unfold effMemoryBurst
  simp only [h, h4, Bool.and_self, Bool.not_true, Bool.false_eq_true, if_false]
  unfold Dev.slotPassed
  cases nextBurst ch ((errs.foldl (fun d e => d.softError e) d).owner lk ch) []
    (errs.foldl (fun d e => d.softError e) d).ms.bursts <;> rfl

/-- Whether a slot passes or not, the arrays stay. -/
theorem effMemoryBurst_lp (ch : Nat) (errs : List (Nat × Nat × Bool)) (lk : Locked) (d : Dev) :
    (effMemoryBurst ch errs lk d).ms.lp = (errs.foldl (fun d e => d.softError e) d).ms.lp ∧
    (effMemoryBurst ch errs lk d).rg = (errs.foldl (fun d e => d.softError e) d).rg := by
  unfold effMemoryBurst
  generalize errs.foldl (fun d e => d.softError e) d = e
  dsimp only
  split
  · exact ⟨rfl, rfl⟩
  · split <;> exact ⟨rfl, rfl⟩

/-- The words that a strike marks are those of one beat. -/
theorem mem_strike {l : List Nat} (ws : List Nat) (x : Nat) :
    x ∈ ws.foldl (fun l w => insertSorted w l) l ↔ x ∈ ws ∨ x ∈ l := by
  induction ws generalizing l with
  | nil => simp
  | cons w ws ih =>
    rw [List.foldl_cons, ih, List.mem_cons]
    have : x ∈ insertSorted w l ↔ x = w ∨ x ∈ l := by
      refine ⟨mem_insertSorted, ?_⟩
      rintro (rfl | h)
      · exact mem_insertSorted_self ..
      · induction l with
        | nil => simp at h
        | cons y l ihl =>
          unfold insertSorted
          split_ifs with h1 h2
          · exact List.mem_cons_of_mem _ h
          · exact h
          · obtain rfl | h := List.mem_cons.1 h
            · exact List.mem_cons_self
            · exact List.mem_cons_of_mem _ (ihl h)
    rw [this]
    tauto

theorem Mem.hit_strike (m : Mem) (k : Nat) : (m.strike (8 * k) 8 true).hit (64 * k) 64 = true := by
  simp only [Mem.hit, List.any_eq_true]
  refine ⟨8 * k, (mem_strike _ _).2 (.inl (List.mem_map.2 ⟨0, by simp, by omega⟩)), ?_⟩
  simp
  omega

theorem Mem.fixes_strike {m : Mem} {k : Nat} (h : m.hit (64 * k) 64 = false) : (m.strike (8 * k) 8 false).fixes k = true := by
  have hh : (m.strike (8 * k) 8 false).hit (64 * k) 64 = false := h
  simp only [Mem.fixes, hh, Bool.not_false, Bool.and_true, List.any_eq_true]
  exact ⟨8 * k, (mem_strike _ _).2 (.inl (List.mem_map.2 ⟨0, by simp, by omega⟩)), by simp⟩

/-- The registers of the controller are not those of a channel (R590). -/
theorem base_mem_ne_mch (ch o : Nat) {i : Nat} (h : i < 0x1000) : Page.base .mem 0 + i ≠ Page.base .mch ch + o := by
  simp
  omega

/-- A read of a beat in which an uncorrectable error is found (R433). -/
theorem Dev.arrRead_hit {d : Dev} {cls k : Nat} (h : d.ms.lp.hit (64 * k) 64 = true) :
    (d.arrRead cls k).2.1 = true ∧ (d.arrRead cls k).2.2.reg .mem 0 0x114 = satAdd (d.reg .mem 0 0x114) 1 := by
  have ho : (d.owe false cls k).ms.lp = d.ms.lp := rfl
  have h1 : (d.arrRead cls k).2.1 = d.ms.lp.bad k := by simp [Dev.arrRead, ho]
  refine ⟨by rw [h1]; simp [Mem.bad, h], ?_⟩
  have hr : (d.owe false cls k).reg .mem 0 0x114 = d.reg .mem 0 0x114 := rfl
  have he : (d.arrRead cls k).2.2 = (d.owe false cls k).memUe k := by simp [Dev.arrRead, Dev.memEcc, ho, h]
  rw [he, ← hr]
  unfold Dev.memUe
  generalize (d.owe false cls k).channel (64 * k) = ch at *
  have hne (o : Nat) := base_mem_ne_mch ch o (i := 0x114) (by decide)
  have h0 : ((((d.owe false cls k).bump .mem 0 0x114 1).sticky .mem 0 1).bump .mch ch 0x104 1).reg .mem 0 0x114 =
      satAdd ((d.owe false cls k).reg .mem 0 0x114) 1 := by
    rw [Dev.reg_bump_ne _ _ (hne _)]
    simp
  dsimp only
  split_ifs
  · exact h0
  · rw [Dev.reg_post_ne _ _ _ _ _ (by decide) (by decide) (by decide), Dev.reg_setReg_ne _ _ (hne _), Dev.reg_setReg_ne _ _ (hne _)]
    exact h0

/-- A read of a beat in which an error is corrected (R433). -/
theorem Dev.arrRead_fixes {d : Dev} {cls k : Nat} (h : d.ms.lp.fixes k = true) (h0 : d.ms.lp.hit (64 * k) 64 = false) :
    (d.arrRead cls k).2.1 = d.ms.lp.bad k ∧ (d.arrRead cls k).2.2.reg .mem 0 0x110 = satAdd (d.reg .mem 0 0x110) 1 ∧
    (d.arrRead cls k).1 = d.ms.lp.read (64 * k) 64 := by
  have ho : (d.owe false cls k).ms.lp = d.ms.lp := rfl
  have hr : (d.owe false cls k).reg .mem 0 0x110 = d.reg .mem 0 0x110 := rfl
  have he : (d.arrRead cls k).2.2 = (d.owe false cls k).memCe k := by simp [Dev.arrRead, Dev.memEcc, ho, h, h0]
  refine ⟨by simp [Dev.arrRead, ho], ?_, by simp [Dev.arrRead, ho]⟩
  rw [he, ← hr]
  unfold Dev.memCe
  rw [Dev.reg_bump_ne _ _ (base_mem_ne_mch _ _ (by decide))]
  simp

end Sys2Proof.Machine

open Sys2Proof Sys2Proof.Machine

/-- Settles O31: a slot passes on the device that the soft errors left, of which they changed no byte and no burst. -/
theorem memoryTiming : Obligations.MemoryTiming := by
  unfold Obligations.MemoryTiming
  refine ⟨?refresh, ?hotref, ?burst, ?soft⟩
  case refresh =>
    intro s f k hen hk hat
    have he : effRefresh s.d = { s.d with ms := { s.d.ms with refFrame := f.1, refDone := k + 1 } } := by
      unfold effRefresh
      simp only [hen, Bool.not_true, Bool.false_eq_true, if_false]
      exact if_pos (by simpa [k, f] using ⟨hk, hat⟩)
    exact ⟨_, exec_onDev (f := effRefresh) rfl he, rfl⟩
  case hotref =>
    intro s k v hheld
    have hx := exec_onDev (s := s) (i := .hotref k v) rfl (effHotref_eq (k := k.val) (t := v.toNat) hheld)
    refine ⟨_, hx, ?_⟩
    obtain ⟨h0, hmch, hk⟩ := s.d.showHot_spec k v
    have h100 : (s.d.showHot k v.toNat).reg .mem 0 0x100 = s.d.reg .mem 0 0x100 := hk _ _ _ (by simp [RegAt.addr]; omega)
    have h104 : (s.d.showHot k v.toNat).reg .mem 0 0x104 = s.d.reg .mem 0 0x104 := hk _ _ _ (by simp [RegAt.addr]; omega)
    have hfs : (s.d.showHot k v.toNat).frameStarts = s.d.frameStarts :=
      Dev.frameStarts_congr (hk _ _ _ (by simp [RegAt.addr]; omega)) (hk _ _ _ (by simp [RegAt.addr]; omega)) (by rw [h0]) (by rw [h0])
    have hfast : (s.d.showHot k v.toNat).fastRefresh = (s.d.flag .mem 0 0x100 2 || s.d.flag .mem 0 0x104 1) := by
      rw [Dev.fastRefresh, Dev.flag, Dev.flag, h100, h104]; rfl
    have hen : (s.d.showHot k v.toNat).flag .mem 0 0x100 0 = s.d.flag .mem 0 0x100 0 := by rw [Dev.flag, h100]; rfl
    rw [hfs, hfast, hen]
    have hold : (s.d.showHot k v.toNat).flag .mem 0 0x104 1 = s.d.flag .mem 0 0x104 1 := by rw [Dev.flag, h104]; rfl
    generalize s.d.showHot k v.toNat = e at *
    have hk' := hk.mono (m := evtRegs ++ (List.range 4).map (fun i => (.mch, 4 * k.val + i, 0x110)) ++
        [(.mem, 0, 0x104), (.mem, 0, 0x11C), (.mem, 0, 0x020)])
      (fun x hx => List.mem_append_left _ (List.mem_append_right _ hx))
    by_cases hc : (s.d.flag .mem 0 0x100 0 && !(s.d.flag .mem 0 0x100 2 || s.d.flag .mem 0 0x104 1) &&
        decide (85 < toS 8 v.toNat) && s.d.frameStarts) = true
    · rw [if_pos hc]
      obtain ⟨hs, hp, hr, hflag⟩ := e.takeHot_spec k v.toNat
      have hmch' (i : Nat) : (e.takeHot k v.toNat).reg .mch (4 * k + i) 0x110 = e.reg .mch (4 * k + i) 0x110 :=
        hr _ _ _ (by simp [evtRegs, RegAt.addr]; omega)
      generalize e.takeHot k v.toNat = f at *
      obtain ⟨r, rfl⟩ : ∃ r, e = { s.d with rg := r } := ⟨_, h0⟩
      refine ⟨congrArg (fun e => ({ s with d := e } : State)) hs, hp, fun i hi => (hmch' i).trans (hmch i hi), hk'.trans (hr.mono ?_), ?_⟩
      · intro x hx
        simp only [List.mem_append] at hx ⊢
        tauto
      · refine hflag.trans ?_
        simp only [Bool.and_eq_true, Bool.not_eq_true', Bool.or_eq_false_iff] at hc
        obtain ⟨⟨⟨h1, h2, h3⟩, h4⟩, h5⟩ := hc
        simp only [h1, h2, h4, h5]
        simp
    · rw [if_neg hc]
      obtain ⟨r, rfl⟩ : ∃ r, e = { s.d with rg := r } := ⟨_, h0⟩
      refine ⟨rfl, Dev.keepsPci_of_pci rfl, hmch, hk', hold.trans ?_⟩
      cases h1 : s.d.flag .mem 0 0x104 1
      · simp only [h1, Bool.or_false, Bool.not_eq_true] at hc
        rw [hc]
        rfl
      · rfl
  case burst =>
    intro s c errs hen hrdy
    have hk := Dev.softKeeps_softErrors (errs.map fun e => (e.1.val, e.2)) s.d
    have hx : exec (.memoryBurst c errs) s = .next (s.onLk (effMemoryBurst c.val (errs.map fun e => (e.1.val, e.2)))) := rfl
    rw [State.onLk] at hx
    have heff (hon) (hrd) := effMemoryBurst_on (ch := c.val) (errs := errs.map fun e => (e.1.val, e.2)) (lk := s.lk) (d := s.d) hon hrd
    have hnil : errs = [] → (errs.map fun e => (e.1.val, e.2)).foldl (fun d e => d.softError e) s.d = s.d := fun h => by rw [h]; rfl
    generalize (errs.map fun e => (e.1.val, e.2)).foldl (fun d e => d.softError e) s.d = e at *
    have hf (o : Nat) (h : o = 0x100 ∨ o = 0x104) : e.flag .mem 0 o 0 = s.d.flag .mem 0 o 0 := by
      obtain rfl | rfl := h <;> rw [Dev.flag, hk.regs _ _ _ (by simp [RegAt.addr])] <;> rfl
    have hown : e.owner s.lk c = s.d.owner s.lk c := by rw [Dev.owner, Dev.owner, hk.pos]
    have hb : (e.slotPassed s.lk c).ms.bursts =
        ((nextBurst c (s.d.owner s.lk c) [] s.d.ms.bursts).map (·.2)).getD s.d.ms.bursts := by
      rw [← hown, ← hk.bursts]
      rfl
    rw [heff ((hf _ (.inl rfl)).trans hen) ((hf _ (.inr rfl)).trans hrdy)] at hx
    refine ⟨_, hx, rfl, rfl, hk.cores, ?_, hk.lp, fun h => ?_,
      fun hn => ?_, fun b rest hn => ⟨?_, nextBurst_spec _ _ hn⟩⟩
    · change e.ms.pos.setIfInBounds c.val ((e.ms.pos.toList.getD c.val 0 + 1) % 20) = _
      rw [hk.pos]
      have hc : c.val < s.d.ms.pos.toList.length := by simp
      rw [List.getD_eq_getElem _ _ hc]
      exact Vector.ext fun i hi => by simp [Vector.getElem_set, Vector.getElem_setIfInBounds]
    · rw [hnil h]
      rfl
    · exact hb.trans (by rw [hn]; rfl)
    · exact hb.trans (by rw [hn]; rfl)
  case soft =>
    intro s c w cls bad h
    refine ⟨_, rfl, ?_⟩
    obtain ⟨hlp, hrg⟩ := effMemoryBurst_lp c.val [(0, w, bad)] s.lk s.d
    have hlp' : (effMemoryBurst c.val [(0, w, bad)] s.lk s.d).ms.lp = s.d.ms.lp.strike (8 * (w / 8)) 8 bad := by
      rw [hlp, Nat.mul_comm 8]
      rfl
    have hreg (o : Nat) : (effMemoryBurst c.val [(0, w, bad)] s.lk s.d).reg .mem 0 o = s.d.reg .mem 0 o := by
      rw [Dev.reg, hrg]
      rfl
    change (bad = true → ((effMemoryBurst c.val [(0, w, bad)] s.lk s.d).arrRead cls (w / 8)).2.1 = true ∧
        ((effMemoryBurst c.val [(0, w, bad)] s.lk s.d).arrRead cls (w / 8)).2.2.reg .mem 0 0x114 = _) ∧
      (bad = false → ((effMemoryBurst c.val [(0, w, bad)] s.lk s.d).arrRead cls (w / 8)).2.1 = _ ∧
        ((effMemoryBurst c.val [(0, w, bad)] s.lk s.d).arrRead cls (w / 8)).2.2.reg .mem 0 0x110 = _ ∧
        ((effMemoryBurst c.val [(0, w, bad)] s.lk s.d).arrRead cls (w / 8)).1 = _)
    generalize effMemoryBurst c.val [(0, w, bad)] s.lk s.d = e at *
    refine ⟨fun hb => ?_, fun hb => ?_⟩
    · subst hb
      have := Dev.arrRead_hit (d := e) (cls := cls) (k := w / 8) (by rw [hlp']; exact Mem.hit_strike ..)
      rwa [hreg] at this
    · subst hb
      have := Dev.arrRead_fixes (d := e) (cls := cls) (k := w / 8) (by rw [hlp']; exact Mem.fixes_strike h) (by rw [hlp']; exact h)
      rwa [hreg, hlp'] at this

end

section
/-! SUPPORT. Links of the ports, and the Waten messages that a lost link drops (O36). -/

namespace Sys2Proof.Machine

/-! ## Messages that no port can take (R484, R488) -/

/-- The settling of requests changes the requests and the credits that they hold. -/
structure Dev.settles (d e : Dev) : Prop where
  shape : e = { d with wtn := { d.wtn with reqs := e.wtn.reqs }, sch := { d.sch with credits := e.sch.credits } }

theorem Dev.settles.refl (d : Dev) : d.settles d := ⟨rfl⟩

theorem Dev.settles.trans {a b c : Dev} (h : a.settles b) (k : b.settles c) : a.settles c := by
  refine ⟨?_⟩
  rw [k.shape, h.shape]

theorem Dev.settles_foldl {α : Type} (f : Dev → α → Dev) (hf : ∀ d x, Dev.settles d (f d x)) (l : List α) (d : Dev) :
    d.settles (l.foldl f d) := by
  induction l generalizing d with
  | nil => exact .refl d
  | cons x l ih => exact (hf d x).trans (ih _)

theorem Dev.settles_settleReqs (d : Dev) : d.settles d.settleReqs := by
  unfold Dev.settleReqs
  exact Dev.settles_foldl _ (fun d r => ⟨rfl⟩) _ d

theorem Dev.settles_reqStep (d : Dev) (r : Option Nat) : d.settles (d.reqStep r) := by
  cases r with
  | none => exact .refl d
  | some k =>
    unfold Dev.reqStep
    dsimp only
    exact Dev.settles.trans ⟨rfl⟩ (Dev.settles_settleReqs _)

/-- A sweep keeps the messages that a port can take. -/
theorem Dev.wtnSweep_shape (d : Dev) : d.wtnSweep = { d with
    wtn := { d.wtn with tx := d.wtn.tx.filter fun m => !(d.usable m.link).isEmpty, reqs := d.wtnSweep.wtn.reqs
                        mirq := d.wtnSweep.wtn.mirq, full := d.wtnSweep.wtn.full }
    sch := { d.sch with credits := d.wtnSweep.sch.credits } } := by
  have hs := Dev.settles_foldl (fun d (m : WtnTx) => d.reqStep m.req) (fun d m => d.settles_reqStep m.req)
    (d.wtn.tx.filter fun m => (d.usable m.link).isEmpty)
    { d with wtn := { d.wtn with tx := d.wtn.tx.filter fun m => !(d.usable m.link).isEmpty } }
  unfold Dev.wtnSweep
  dsimp only
  generalize ((d.wtn.tx.filter fun m => (d.usable m.link).isEmpty).foldl (fun d (m : WtnTx) => d.reqStep m.req)
    ({ d with wtn := { d.wtn with tx := d.wtn.tx.filter fun m => !(d.usable m.link).isEmpty } } : Dev)) = e at *
  obtain ⟨q, c, rfl⟩ : ∃ q c, e = { d with
      wtn := { d.wtn with tx := d.wtn.tx.filter fun m => !(d.usable m.link).isEmpty, reqs := q }
      sch := { d.sch with credits := c } } := ⟨_, _, hs.shape⟩
  split
  · split_ifs <;> rfl
  · rfl

/-- The messages that a sweep leaves can leave. -/
theorem Dev.usable_congr {d e : Dev} (hr : e.rg = d.rg) (hl : e.wtn.links = d.wtn.links) (i : Nat) : e.usable i = d.usable i := by
  unfold Dev.usable Dev.link Dev.linkOn Dev.ethPresent Dev.ethMode Dev.fld Dev.flag Dev.reg
  rw [hr, hl]

/-- With the engine on, the messages that no port can take are dropped. -/
def Dev.sweptIfOn (d : Dev) : Dev := if d.wtnOn then d.wtnSweep else d

theorem Dev.sweptIfOn_shape (d : Dev) : d.sweptIfOn =
    { d with wtn := d.sweptIfOn.wtn, sch := { d.sch with credits := d.sweptIfOn.sch.credits } } ∧
    (d.wtnOn = false → d.sweptIfOn = d) ∧
    (d.wtnOn = true → ∀ m ∈ d.sweptIfOn.wtn.tx, m ∈ d.wtn.tx ∧ d.sweptIfOn.usable m.link ≠ []) := by
  unfold Dev.sweptIfOn
  by_cases h : d.wtnOn = true
  · rw [if_pos h]
    have hs := d.wtnSweep_shape
    refine ⟨by rw [hs], fun h' => by simp [h] at h', fun _ m hm => ?_⟩
    have hu := Dev.usable_congr (d := d) (e := d.wtnSweep) (by rw [hs]) (by rw [hs]) m.link
    have hm' : m ∈ d.wtn.tx.filter fun m => !(d.usable m.link).isEmpty := by
      rw [hs] at hm
      exact hm
    obtain ⟨h1, h2⟩ := List.mem_filter.1 hm'
    exact ⟨h1, by rw [hu]; simpa using h2⟩
  · rw [if_neg h]
    exact ⟨rfl, fun _ => rfl, fun h' => absurd h' h⟩

/-! ## Links (R443, R470, R471) -/

/-- A sticky bit that IRQ_RAW shows sets its bit of IRQ_STATUS (R592). -/
theorem Dev.flag_irq_sticky (d : Dev) {p : Page} {n b i : Nat} (h : p.sticky.2.findIdx? (· == b) = some i) (hi : i < 32) :
    (d.sticky p n b).flag p n 0x020 i = true := by
  unfold Dev.sticky
  dsimp only
  rw [h]
  dsimp only
  generalize d.setReg p n p.sticky.1 (d.reg p n p.sticky.1 ||| 2 ^ b) = e
  have hlt : e.reg p n 0x020 ||| 2 ^ i < 2 ^ 32 := Nat.or_lt_two_pow (e.reg_lt ..) (Nat.pow_lt_pow_right (by decide) hi)
  rw [Dev.flag, Dev.reg_setReg_self, Nat.mod_eq_of_lt hlt, bit_or_two_pow]
  simp

/-- The registers of a port after its link has gone down. -/
def Dev.linkLost (d : Dev) (n : Nat) : Dev := (d.setFld .eth n 0x104 2 0 0).sticky .eth n 0

/-- SYNCE_OUT follows when its running has changed (R470). -/
def Dev.syncPin (d : Dev) (was : Bool) : Dev := if was == d.syncRuns then d else d.emit (.pin "SYNCE_OUT" d.syncRuns)

theorem effLinkDown_off {n : Nat} {d : Dev} (h : d.flag .eth n 0x104 0 = false) : effLinkDown n d = d := by
  simp [effLinkDown, h]

theorem effLinkDown_on {n : Nat} {d : Dev} (h : d.flag .eth n 0x104 0 = true) :
    effLinkDown n d = (d.linkLost n).sweptIfOn.syncPin d.syncRuns := by
  unfold effLinkDown
  rw [if_neg (by rw [h]; decide)]
  rfl

theorem effLinkUp_on {n : Nat} {d : Dev} (hp : d.ethPresent n = true) (h : d.flag .eth n 0x100 0 = true) :
    effLinkUp n d = (d.setFld .eth n 0x104 2 0 7).syncPin d.syncRuns := by
  unfold effLinkUp
  rw [if_pos (by rw [hp, h]; decide)]
  rfl

theorem Dev.syncPin_out (d : Dev) (was : Bool) : d.syncPin was = { d with out := (d.syncPin was).out } := by
  unfold Dev.syncPin
  split <;> rfl

/-- The registers of a port whose link goes down (R471). -/
def linkRegs (n : Nat) : List RegAt := [(.eth, n, 0x104), (.eth, n, 0x13C), (.eth, n, 0x020)]

theorem Dev.linkLost_spec (d : Dev) (n : Nat) : d.regsOnly (d.linkLost n) ∧ d.keepsRegs (d.linkLost n) (linkRegs n) ∧
    (d.linkLost n).fld .eth n 0x104 2 0 = 0 ∧ (d.linkLost n).flag .eth n 0x104 0 = false ∧
    (d.linkLost n).flag .eth n 0x13C 0 = true ∧ (d.linkLost n).flag .eth n 0x020 0 = true := by
  refine ⟨(d.setFld_regsOnly ..).trans (Dev.sticky_regsOnly ..), (d.keepsRegs_setFld _ _ _ _ _ _ (by simp [linkRegs])).trans
    (Dev.keepsRegs_sticky _ _ _ _ (by simp [linkRegs]) (by simp [linkRegs])), ?_, ?_, ?_, ?_⟩
  · unfold Dev.linkLost
    rw [Dev.fld, Dev.reg_sticky_ne _ _ (by simp) (by simp)]
    exact Dev.fld_setFld_self _ _ _ _ _ _ _ (by decide) (by decide)
  · unfold Dev.linkLost
    rw [Dev.flag, Dev.reg_sticky_ne _ _ (by simp) (by simp)]
    exact Dev.flag_setFld_self _ _ _ _ _ _ _ _ (by decide) (by decide)
  · have := (d.setFld .eth n 0x104 2 0 0).flag_sticky_self .eth n (b := 0) (by decide) 0
    simpa [Dev.linkLost] using this
  · exact Dev.flag_irq_sticky _ (p := .eth) (i := 0) (by decide) (by decide)

/-- Whether SYNCE_OUT runs once the link of port `n` is down. -/
theorem Dev.linkLost_syncRuns (d : Dev) {n : Nat} (hn : n < 8) :
    (d.linkLost n).syncRuns = (d.syncRuns && decide (d.fld .eth 0 0x184 2 0 ≠ n)) := by
  obtain ⟨h0, hk, -, h104, -, -⟩ := d.linkLost_spec n
  have h184 : (d.linkLost n).reg .eth 0 0x184 = d.reg .eth 0 0x184 := hk _ _ _ (by simp [linkRegs, RegAt.addr]; omega)
  have hport : d.fld .eth 0 0x184 2 0 < 8 := bits_lt _ _ _
  have hf : (d.linkLost n).fld .eth 0 0x184 2 0 = d.fld .eth 0 0x184 2 0 := by rw [Dev.fld, h184]; rfl
  have ht : (d.linkLost n).tim = d.tim := by rw [h0]
  unfold Dev.syncRuns
  rw [hf, ht, Dev.flag, h184]
  generalize d.fld .eth 0 0x184 2 0 = m at *
  by_cases hm : m = n
  · subst hm
    rw [h104]
    simp
  · have hm' : (d.linkLost n).flag .eth m 0x104 0 = d.flag .eth m 0x104 0 := by
      rw [Dev.flag, hk _ _ _ (by simp [linkRegs, RegAt.addr]; omega)]
      rfl
    rw [hm']
    simp [hm, Dev.flag]

theorem Dev.syncRuns_congr {d e : Dev} (hr : e.rg = d.rg) (ht : e.tim = d.tim) : e.syncRuns = d.syncRuns := by
  unfold Dev.syncRuns Dev.fld Dev.flag Dev.reg
  rw [hr, ht]

/-- What a lost link leaves (R470, R471, R484). -/
theorem effLinkDown_spec {n : Nat} (hn : n < 8) {d : Dev} (h : d.flag .eth n 0x104 0 = true) :
    effLinkDown n d = { d with
      rg := (d.linkLost n).rg, wtn := (effLinkDown n d).wtn, sch := { d.sch with credits := (effLinkDown n d).sch.credits }
      out := if d.syncRuns = true ∧ d.fld .eth 0 0x184 2 0 = n then d.out ++ [.pin "SYNCE_OUT" false] else d.out } ∧
    (d.wtnOn = false → (effLinkDown n d).wtn = d.wtn ∧ (effLinkDown n d).sch = d.sch) ∧
    (d.wtnOn = true → ∀ m ∈ (effLinkDown n d).wtn.tx, m ∈ d.wtn.tx ∧ (effLinkDown n d).usable m.link ≠ []) := by
  rw [effLinkDown_on h]
  obtain ⟨h0, hk, -, -, -, -⟩ := d.linkLost_spec n
  have hsync := d.linkLost_syncRuns hn
  have hon : (d.linkLost n).wtnOn = d.wtnOn := by
    unfold Dev.wtnOn
    rw [Dev.flag, hk _ _ _ (by simp [linkRegs, RegAt.addr]; omega)]
    rfl
  generalize d.linkLost n = e at *
  obtain ⟨r, rfl⟩ : ∃ r, e = { d with rg := r } := ⟨_, h0⟩
  obtain ⟨h1, hoff, htx⟩ := Dev.sweptIfOn_shape { d with rg := r }
  rw [hon] at hoff htx
  generalize Dev.sweptIfOn { d with rg := r } = f at *
  have hsync' : f.syncRuns = (d.syncRuns && decide (d.fld .eth 0 0x184 2 0 ≠ n)) := by
    rw [← hsync]
    exact Dev.syncRuns_congr (by rw [h1]) (by rw [h1])
  have hpin : f.syncPin d.syncRuns = { f with
      out := if d.syncRuns = true ∧ d.fld .eth 0 0x184 2 0 = n then f.out ++ [.pin "SYNCE_OUT" false] else f.out } := by
    unfold Dev.syncPin
    rw [hsync']
    by_cases hm : d.fld .eth 0 0x184 2 0 = n
    · cases d.syncRuns <;> simp [hm, Dev.emit]
    · cases d.syncRuns <;> simp [hm]
  rw [hpin]
  refine ⟨?_, fun ho => ?_, fun ho m hm => ?_⟩
  · dsimp only
    obtain ⟨w, c, rfl⟩ : ∃ w c, f = { d with rg := r, wtn := w, sch := { d.sch with credits := c } } := ⟨_, _, h1⟩
    rfl
  · rw [hoff ho]
    exact ⟨rfl, rfl⟩
  · obtain ⟨h2, h3⟩ := htx ho m hm
    exact ⟨h2, fun he => h3 ((Dev.usable_congr (d := f) rfl rfl m.link).symm.trans he)⟩

/-! ## ETH_CTRL (R444, R471) -/

theorem Dev.blockWrite_ethCtrl {d : Dev} {lk : Locked} {n v : Nat} (hp : d.ethPresent n = true) :
    d.blockWrite lk .eth n 0x100 v = d.ethCtrl n v := by
  simp only [Dev.blockWrite, hp, Bool.not_true, Bool.false_eq_true, if_false]

theorem ethCtrl_notRws (n : Fin 8) : Page.isRws .eth n 0x100 = false := by
  revert n
  decide

/-- The other fields of ETH_CTRL take what is written. -/
def Dev.ethFields (d : Dev) (n v : Nat) : Dev := d.setFld .eth n 0x100 2 1 (v / 2)

theorem Dev.ethCtrl_eq {d : Dev} {n v : Nat} (hp : d.ethPresent n = true) : d.ethCtrl n v =
    if bit v 0 then
      if (d.ethFields n v).flag .eth 0 0x180 31 then (d.ethFields n v).setFld .eth n 0x100 0 0 1
      else (d.ethFields n v).err .eth n errState 0x100
    else (effLinkDown n (d.ethFields n v)).setFld .eth n 0x100 0 0 0 := by
  unfold Dev.ethCtrl
  rw [if_neg (by rw [hp]; decide)]
  by_cases hb : bit v 0 = true
  · simp only [hb, Bool.not_true, Bool.false_eq_true, if_false, if_true]
    rfl
  · simp only [hb, Bool.not_false, if_true]
    rfl

theorem Dev.ethFields_spec (d : Dev) (n v : Nat) : d.regsOnly (d.ethFields n v) ∧
    d.keepsRegs (d.ethFields n v) [(.eth, n, 0x100)] ∧ (d.ethFields n v).fld .eth n 0x100 2 1 = bits v 2 1 ∧
    (d.ethFields n v).flag .eth n 0x100 0 = d.flag .eth n 0x100 0 := by
  refine ⟨d.setFld_regsOnly .., d.keepsRegs_setFld _ _ _ _ _ _ (by simp), ?_, ?_⟩
  · rw [Dev.ethFields, Dev.fld_setFld_self _ _ _ _ _ _ _ (by decide) (by decide)]
    simp [bits, Nat.shiftRight_eq_div_pow]
  · rw [Dev.ethFields, Dev.flag_setFld_self _ _ _ _ _ _ _ _ (by decide) (by decide)]
    simp

end Sys2Proof.Machine

open Sys2Proof Sys2Proof.Machine

/-- Settles O36: a port loses its link by `effLinkDown`, whether its cable or its ENABLE goes. -/
theorem ethLinks : Obligations.EthLinks := by
  unfold Obligations.EthLinks
  refine ⟨?enable, ?up, ?down⟩
  case enable =>
    intro s w n v hw hp
    have hx : exec (.ethEnable w n v) s = .next { s with d := s.d.blockWrite s.lk .eth n 0x100 v.toNat } :=
      exec_blockWrite rfl hw n.isLt v.isLt (by decide) (fun _ => ethCtrl_notRws n) (by simp) (by simp)
    rw [Dev.blockWrite_ethCtrl hp, Dev.ethCtrl_eq hp] at hx
    refine ⟨_, hx, ?_⟩
    obtain ⟨h0, hk, hfld, hen⟩ := s.d.ethFields_spec n v.toNat
    have h180 : (s.d.ethFields n v.toNat).flag .eth 0 0x180 31 = s.d.flag .eth 0 0x180 31 := by
      rw [Dev.flag, hk _ _ _ (by simp [RegAt.addr]; omega)]
      rfl
    have h104 : (s.d.ethFields n v.toNat).flag .eth n 0x104 0 = s.d.flag .eth n 0x104 0 := by
      rw [Dev.flag, hk _ _ _ (by simp [RegAt.addr])]
      rfl
    have h2C : (s.d.ethFields n v.toNat).reg .eth n 0x02C = s.d.reg .eth n 0x02C := hk _ _ _ (by simp [RegAt.addr])
    have hon : (s.d.ethFields n v.toNat).wtnOn = s.d.wtnOn := by
      rw [Dev.wtnOn, Dev.flag, hk _ _ _ (by simp [RegAt.addr]; omega)]
      rfl
    rw [h180]
    generalize s.d.ethFields n v.toNat = e at *
    cases hb : bit v.toNat 0
    case true =>
      simp only [if_true, Bool.true_eq_false, false_implies, and_true, forall_const, or_true]
      cases hl : s.d.flag .eth 0 0x180 31
      case true =>
        have h1 := h0.trans (e.setFld_regsOnly .eth n 0x100 0 0 1)
        have hf1 : (e.setFld .eth n 0x100 0 0 1).fld .eth n 0x100 2 1 = e.fld .eth n 0x100 2 1 := by simp [Dev.fld]
        have hb1 : (e.setFld .eth n 0x100 0 0 1).flag .eth n 0x100 0 = true := by simp [Dev.flag]
        have hk1 := hk.trans (e.keepsRegs_setFld .eth n 0x100 0 0 1 (by simp))
        simp only [if_true, Bool.true_eq_false, false_implies, and_true, forall_const]
        generalize e.setFld .eth n 0x100 0 0 1 = f at *
        obtain ⟨r, rfl⟩ : ∃ r, f = { s.d with rg := r } := ⟨_, h1⟩
        exact ⟨rfl, ⟨rfl, rfl⟩, hf1.trans hfld, hb1, rfl, hk1⟩
      case false =>
        have h1 := h0.trans (e.err_regsOnly .eth n errState 0x100)
        have h100 : (e.err .eth n errState 0x100).reg .eth n 0x100 = e.reg .eth n 0x100 := by simp
        have hcount := e.reg_err_2C .eth n errState 0x100
        have hk1 := (hk.mono (m := [(.eth, n.val, 0x100), (.eth, n.val, 0x028), (.eth, n.val, 0x02C)]) (by simp)).trans
          (e.keepsRegs_err .eth n errState 0x100 (by simp) (by simp))
        simp only [Bool.false_eq_true, if_false, false_implies, true_and, forall_const]
        generalize e.err .eth n errState 0x100 = f at *
        obtain ⟨r, rfl⟩ : ∃ r, f = { s.d with rg := r } := ⟨_, h1⟩
        refine ⟨rfl, ⟨rfl, rfl⟩, ?_, ?_, rfl, hcount.trans (by rw [h2C]), hk1⟩
        · rw [← hfld, Dev.fld, Dev.fld, h100]
        · rw [← hen, Dev.flag, Dev.flag, h100]
    case false =>
      simp only [Bool.false_eq_true, if_false, or_false, false_implies, true_and, forall_const]
      have hk1 (f : Dev) := f.keepsRegs_setFld .eth n 0x100 0 0 0 (l := [(.eth, n.val, 0x100), (.eth, n.val, 0x104),
        (.eth, n.val, 0x13C), (.eth, n.val, 0x020)]) (by simp)
      have hk0 := hk.mono (m := [(.eth, n.val, 0x100), (.eth, n.val, 0x104), (.eth, n.val, 0x13C), (.eth, n.val, 0x020)]) (by simp)
      have hf1 (f : Dev) : (f.setFld .eth n 0x100 0 0 0).fld .eth n 0x100 2 1 = f.fld .eth n 0x100 2 1 := by simp [Dev.fld]
      have hb1 (f : Dev) : (f.setFld .eth n 0x100 0 0 0).flag .eth n 0x100 0 = false := by simp [Dev.flag]
      have hl1 (f : Dev) : (f.setFld .eth n 0x100 0 0 0).flag .eth n 0x104 0 = f.flag .eth n 0x104 0 := by simp [Dev.flag]
      cases hl : s.d.flag .eth n 0x104 0
      case false =>
        rw [effLinkDown_off (h104.trans hl)]
        have h1 := h0.trans (e.setFld_regsOnly .eth n 0x100 0 0 0)
        have hf1 := hf1 e
        have hb1 := hb1 e
        have hl1 := hl1 e
        have hk1 := hk0.trans (hk1 e)
        generalize e.setFld .eth n 0x100 0 0 0 = f at *
        obtain ⟨r, rfl⟩ : ∃ r, f = { s.d with rg := r } := ⟨_, h1⟩
        exact ⟨rfl, fun _ => ⟨rfl, rfl⟩, hf1.trans hfld, hb1, hl1.trans (h104.trans hl), hk1⟩
      case true =>
        obtain ⟨hs, hoff, -⟩ := effLinkDown_spec n.isLt (h104.trans hl)
        obtain ⟨-, hk2, -, hz, -, -⟩ := e.linkLost_spec n
        have hf2 : (effLinkDown n e).fld .eth n 0x100 2 1 = e.fld .eth n 0x100 2 1 := by
          rw [Dev.fld, Dev.fld, Dev.reg_congr (d := e.linkLost n) (by rw [hs]), hk2 _ _ _ (by simp [linkRegs, RegAt.addr])]
        have hz2 : (effLinkDown n e).flag .eth n 0x104 0 = false := by
          rw [Dev.flag_congr (d := e.linkLost n) (by rw [hs])]
          exact hz
        have hk2' : e.keepsRegs (effLinkDown n e)
            [(.eth, n.val, 0x100), (.eth, n.val, 0x104), (.eth, n.val, 0x13C), (.eth, n.val, 0x020)] :=
          (hk2.mono (by simp [linkRegs])).rg_right (by rw [hs])
        rw [hon] at hoff
        generalize effLinkDown n e = g at *
        have hf1 := hf1 g
        have hb1 := hb1 g
        have hl1 := hl1 g
        have hk1 := (hk0.trans hk2').trans (hk1 g)
        have h1 := g.setFld_regsOnly .eth n 0x100 0 0 0
        generalize g.setFld .eth n 0x100 0 0 0 = f at *
        obtain ⟨r, rfl⟩ : ∃ r, f = { g with rg := r } := ⟨_, h1⟩
        refine ⟨?_, fun ho => ?_, hf1.trans (hf2.trans hfld), hb1, hl1.trans hz2, hk1⟩
        · obtain ⟨r0, rfl⟩ : ∃ r0, e = { s.d with rg := r0 } := ⟨_, h0⟩
          obtain ⟨r1, w1, c1, o1, rfl⟩ : ∃ r1 w1 c1 o1, g = { s.d with rg := r1, wtn := w1, sch := { s.d.sch with credits := c1 }, out := o1 } :=
            ⟨_, _, _, _, hs⟩
          rfl
        · obtain ⟨r0, rfl⟩ : ∃ r0, e = { s.d with rg := r0 } := ⟨_, h0⟩
          exact hoff ho
  case up =>
    intro s n hp hen
    have hx := exec_onDev (s := s) (i := .linkUp n) (f := effLinkUp n.val) rfl (effLinkUp_on hp hen)
    refine ⟨_, hx, ?_⟩
    have h0 := s.d.setFld_regsOnly .eth n 0x104 2 0 7
    have hk : s.d.keepsRegs (s.d.setFld .eth n 0x104 2 0 7) [(.eth, n.val, 0x104)] := s.d.keepsRegs_setFld _ _ _ _ _ _ (by simp)
    have hf : (s.d.setFld .eth n 0x104 2 0 7).fld .eth n 0x104 2 0 = 7 :=
      Dev.fld_setFld_self _ _ _ _ _ _ _ (by decide) (by decide)
    generalize s.d.setFld .eth n 0x104 2 0 7 = e at *
    have hpin := e.syncPin_out s.d.syncRuns
    generalize e.syncPin s.d.syncRuns = f at *
    obtain ⟨o, rfl⟩ : ∃ o, f = { e with out := o } := ⟨_, hpin⟩
    obtain ⟨r, rfl⟩ : ∃ r, e = { s.d with rg := r } := ⟨_, h0⟩
    exact ⟨rfl, hf, hk⟩
  case down =>
    intro s n hl
    refine ⟨_, exec_onDev (i := .linkDown n) (f := effLinkDown n.val) rfl rfl, ?_⟩
    obtain ⟨hs, hoff, htx⟩ := effLinkDown_spec n.isLt hl
    obtain ⟨h0, hk, hz, -, hst, hirq⟩ := s.d.linkLost_spec n
    have hr : (effLinkDown n s.d).rg = (s.d.linkLost n).rg := by rw [hs]
    refine ⟨?_, hoff, htx, ?_, ?_, ?_, hk.rg_right hr, ?_⟩
    · generalize effLinkDown n s.d = g at *
      obtain ⟨w1, c1, rfl⟩ : ∃ w1 c1, g = { s.d with
        rg := (s.d.linkLost n).rg, wtn := w1, sch := { s.d.sch with credits := c1 }
        out := if s.d.syncRuns = true ∧ s.d.fld .eth 0 0x184 2 0 = n then s.d.out ++ [.pin "SYNCE_OUT" false] else s.d.out } :=
        ⟨_, _, hs⟩
      rfl
    · exact (Dev.fld_congr hr ..).trans hz
    · exact (Dev.flag_congr hr ..).trans hst
    · exact (Dev.flag_congr hr ..).trans hirq
    · exact congrArg Dev.out hs

end

section
/-! SUPPORT. The time unit: the counter, the grid, the servo and the pulses (O38, O39). -/

namespace Sys2Proof.Machine

/-! ## A write of TIM_CTRL (R461, R462, R466) -/

theorem Dev.blockWrite_timCtrl (d : Dev) (lk : Locked) (v : Nat) : d.blockWrite lk .tim 0 0x110 v = d.timCtrl v := by
  simp only [Dev.blockWrite]

theorem Dev.blockWrite_timOffset (d : Dev) (lk : Locked) (v : Nat) : d.blockWrite lk .tim 0 0x140 v = effTimOffsetNs v d := by
  simp only [Dev.blockWrite]

/-- The end of a write of TIM_CTRL: the fields that act on nothing else. -/
def Dev.timFields (d : Dev) (v : Nat) : Dev :=
  { d.setFld .tim 0 0x110 2 1 (v / 2) with tim := { d.tim with corr := if bit v 1 then d.tim.corr else 0 } }

theorem Dev.timCtrl_eq (d : Dev) (v : Nat) :
    d.timCtrl v = (effGridEn (bit v 0) (if bit v 3 then effSet d else d)).timFields v := by
  have h (e : Dev) : (if bit v 1 then e.setFld .tim 0 0x110 2 1 (v / 2)
      else { e.setFld .tim 0 0x110 2 1 (v / 2) with tim := { (e.setFld .tim 0 0x110 2 1 (v / 2)).tim with corr := 0 } }) =
      e.timFields v := by
    have h0 := e.setFld_regsOnly .tim 0 0x110 2 1 (v / 2)
    unfold Dev.timFields
    generalize e.setFld .tim 0 0x110 2 1 (v / 2) = f at *
    obtain ⟨r, rfl⟩ : ∃ r, f = { e with rg := r } := ⟨_, h0⟩
    cases bit v 1 <;> rfl
  exact h _

theorem Dev.timFields_spec (d : Dev) (v : Nat) :
    d.timFields v = { d with rg := (d.timFields v).rg, tim := { d.tim with corr := if bit v 1 then d.tim.corr else 0 } } ∧
    d.keepsRegs (d.timFields v) [(.tim, 0, 0x110)] ∧ (d.timFields v).fld .tim 0 0x110 2 1 = bits v 2 1 ∧
    (d.timFields v).gridOn = d.gridOn := by
  have h0 := d.setFld_regsOnly .tim 0 0x110 2 1 (v / 2)
  have hk : d.keepsRegs (d.setFld .tim 0 0x110 2 1 (v / 2)) [(.tim, 0, 0x110)] := d.keepsRegs_setFld _ _ _ _ _ _ (by simp)
  have hf : (d.setFld .tim 0 0x110 2 1 (v / 2)).fld .tim 0 0x110 2 1 = bits v 2 1 := by
    rw [Dev.fld_setFld_self _ _ _ _ _ _ _ (by decide) (by decide)]
    simp [bits, Nat.shiftRight_eq_div_pow]
  have hg : (d.setFld .tim 0 0x110 2 1 (v / 2)).flag .tim 0 0x110 0 = d.flag .tim 0 0x110 0 := by simp [Dev.flag]
  unfold Dev.timFields
  generalize d.setFld .tim 0 0x110 2 1 (v / 2) = e at *
  obtain ⟨r, rfl⟩ : ∃ r, e = { d with rg := r } := ⟨_, h0⟩
  exact ⟨rfl, hk, hf, hg⟩

/-- A SET (R461). -/
theorem effSet_spec (d : Dev) : (effSet d).gridOn = d.gridOn ∧
    (d.gridOn = false → effSet d = { d with tim := { d.tim with ns := d.reg .tim 0 0x114, frac := 0 } }) ∧
    (d.gridOn = true → effSet d = d.err .tim 0 errState 0x110) := by
  unfold effSet
  cases hg : d.gridOn
  · refine ⟨?_, fun _ => by simp, fun h => by simp at h⟩
    rw [if_neg (by decide), ← hg]
    rfl
  · refine ⟨?_, fun h => by simp at h, fun _ => by simp⟩
    rw [if_pos rfl, ← hg, Dev.gridOn, Dev.flag, Dev.reg_err_ne _ _ _ (by decide) (by decide)]
    rfl

theorem effGridEn_same {b : Bool} {d : Dev} (h : b = d.gridOn) : effGridEn b d = d := by
  simp [effGridEn, h]

/-- The grid starts with its anchor 1 ms to 1 s ahead (R466). -/
theorem effGridEn_start {d : Dev} (h : d.gridOn = false) : effGridEn true d =
    if 1000000 ≤ (d.reg .tim 0 0x120 + 2 ^ 32 - d.ns) % 2 ^ 32 ∧ (d.reg .tim 0 0x120 + 2 ^ 32 - d.ns) % 2 ^ 32 ≤ 1000000000 then
      { d.setFld .tim 0 0x110 0 0 1 with tim := { d.tim with sub := 0 } }
    else d.err .tim 0 errState 0x110 := by
  unfold effGridEn
  rw [if_neg (by rw [h]; decide), if_pos rfl]
  dsimp only
  simp only [Bool.and_eq_true, decide_eq_true_eq]

/-- What the end of the grid takes away, before GRID_EN clears (R284, R333, R466). -/
def Dev.gridDropped (d : Dev) : Dev :=
  let wait := ((d.next125 + 2 ^ 32 - d.ns) % 2 ^ 32 * 100 + 127) / 128
  let ms := if d.tim.sub = 0 then { d.ms with refNext := some (d.tim.tick + wait) }
    else { d.ms with refStart := d.tim.tick + wait, refNext := none }
  [false, true].foldl (fun d tx => d.endSlots tx)
    ({ d with tim := { d.tim with sub := 0 }, ms := ms, txc := { d.txc with frames := [] } } : Dev)

/-- With the grid goes an alignment request whose strobe has not come (R508). -/
def Dev.alignCancelled (d : Dev) : Dev :=
  if d.det.asked.isSome && d.det.strobe.isNone then
    (Dev.setFld { d with det := { d.det with asked := none } } .det 0 0x104 1 1 0).err .det 0 errState 0x100
  else d

theorem effGridEn_stop {d : Dev} (h : d.gridOn = true) : effGridEn false d =
    if d.anyCell then d.err .tim 0 errState 0x110
    else (d.gridDropped.setFld .tim 0 0x110 0 0 0).alignCancelled := by
  unfold effGridEn
  rw [if_neg (by rw [h]; decide), if_neg (by decide)]
  rfl

theorem Dev.gridDropped_spec (d : Dev) : d.gridDropped.tim = { d.tim with sub := 0 } ∧ d.gridDropped.txc.frames = [] :=
  ⟨rfl, rfl⟩

theorem Dev.alignCancelled_spec (d : Dev) : d.alignCancelled.tim = d.tim ∧ d.alignCancelled.txc = d.txc ∧
    d.alignCancelled.gridOn = d.gridOn := by
  unfold Dev.alignCancelled
  split
  · refine ⟨by simp, by simp, ?_⟩
    rw [Dev.gridOn, Dev.flag, Dev.reg_err_ne _ _ _ (by decide) (by decide), Dev.reg_setFld_ne _ _ _ _ (by decide)]
    rfl
  · exact ⟨rfl, rfl, rfl⟩

/-! ## The servo (R462, R463) -/

/-- A servo update with the offset `e` (R462). -/
def Dev.servo (d : Dev) (e : Int) : Dev :=
  let lim : Int := (d.reg .tim 0 0x138 : Nat)
  let integ := clampI (-lim) lim (d.tim.integ + divPow2Round ((d.reg .tim 0 0x134 : Nat) * e) 32)
  { d with tim := { d.tim with
    integ := integ, corr := clampI (-lim) lim (-(divPow2Round ((d.reg .tim 0 0x130 : Nat) * e) 32 + integ)) } }

/-- The offset that a write of TIM_OFFSET_NS gives, in 2⁻¹⁶ ns. -/
def Dev.offset (d : Dev) (v : Nat) : Int := toS 32 v * 65536 + (d.reg .tim 0 0x13C % 65536 : Nat)

theorem effTimOffsetNs_small {d : Dev} {v : Nat} (h : (d.offset v).natAbs < d.reg .tim 0 0x12C * 65536) :
    effTimOffsetNs v d = if d.flag .tim 0 0x110 1 then d.servo (d.offset v) else d := by
  unfold effTimOffsetNs
  dsimp only
  rw [if_pos (by exact h)]
  rfl

/-- A step that is held while the grid runs, or taken, with its event. -/
theorem effTimOffsetNs_step {d : Dev} {v : Nat} (h : ¬(d.offset v).natAbs < d.reg .tim 0 0x12C * 65536) :
    ∃ bs, effTimOffsetNs v d = if d.gridOn then (d.sticky .tim 0 2).post .tim 0 0x08 2 0 bs
      else ((Dev.bump { d with tim := { d.tim with step := some (d.tim.step.getD 0 + d.offset v * 65536) } } .tim 0 0x154 1).sticky
        .tim 0 1).post .tim 0 0x08 1 0 bs := by
  refine ⟨layout 20 [(0, 4, v), (4, 2, d.reg .tim 0 0x13C % 65536)], ?_⟩
  unfold effTimOffsetNs
  dsimp only
  rw [if_neg (by exact h)]
  rfl

/-- Counts and events change registers and the queue of events. -/
theorem Dev.postAfter_spec {d e : Dev} (h : d.regsOnly e) (p : Page) (n src sub inst : Nat) (bs : List Byte) :
    e.post p n src sub inst bs =
      { d with rg := (e.post p n src sub inst bs).rg, pci := (e.post p n src sub inst bs).pci } ∧
    d.keepsPci (e.post p n src sub inst bs) := by
  have hs := e.post_shape p n src sub inst bs
  have hp := e.keepsPci_post p n src sub inst bs
  obtain ⟨r, rfl⟩ : ∃ r, e = { d with rg := r } := ⟨_, h⟩
  exact ⟨hs, hp⟩

/-! ## Pulses (R468 to R470) -/

theorem effPpsOut_rises {d : Dev} (h : d.flag .tim 0 0x110 2 = true) (hh : d.tim.ppsHigh = none)
    (hr : reached d.ns (d.reg .tim 0 0x124) = true) : effPpsOut d =
      { d.setReg .tim 0 0x124 ((d.reg .tim 0 0x124 + 1000000000) % 2 ^ 32) with
        tim := { d.tim with ppsHigh := some (d.reg .tim 0 0x124) }, out := d.out ++ [.pin "PPS_OUT" true] } := by
  have h0 := d.setReg_regsOnly .tim 0 0x124 ((d.reg .tim 0 0x124 + 1000000000) % 2 ^ 32)
  unfold effPpsOut
  dsimp only
  rw [if_pos (by rw [h, hh, hr]; rfl)]
  generalize d.setReg .tim 0 0x124 ((d.reg .tim 0 0x124 + 1000000000) % 2 ^ 32) = e at *
  obtain ⟨r, rfl⟩ : ∃ r, e = { d with rg := r } := ⟨_, h0⟩
  rfl

theorem effPpsOutFall_falls {d : Dev} {p : Nat} (hh : d.tim.ppsHigh = some p)
    (hr : reached d.ns ((p + d.reg .tim 0 0x128) % 2 ^ 32) = true) : effPpsOutFall d =
      { d with tim := { d.tim with ppsHigh := none }, out := d.out ++ [.pin "PPS_OUT" false] } := by
  simp only [effPpsOutFall, hh, hr, if_true, Dev.emit]

/-- A rising edge of PPS_IN is counted, while its last capture was not cleared, and captured (R469). -/
def Dev.ppsCaptured (d : Dev) (n : Nat) : Dev :=
  ((((if d.flag .tim 0 0x15C 0 then d.bump .tim 0 0x158 1 else d).setReg .tim 0 0x108 (n % 2 ^ 32)).setReg
    .tim 0 0x10C (n / 2 ^ 32)).sticky .tim 0 0)

theorem effPpsIn_eq {d : Dev} (h : d.pwr.held = false) :
    let n := (d.tim.ns * 2 ^ 32 + d.tim.frac + 2 ^ 64 - 10307921510) % 2 ^ 64
    effPpsIn d = (d.ppsCaptured n).post .tim 0 0x08 3 0 (layout 20 [(0, 4, n / 2 ^ 32), (4, 4, n % 2 ^ 32)]) := by
  unfold effPpsIn
  rw [if_neg (by rw [h]; decide)]
  rfl

theorem Dev.ppsCaptured_spec (d : Dev) {n : Nat} (hn : n < 2 ^ 64) : d.regsOnly (d.ppsCaptured n) ∧
    d.keepsRegs (d.ppsCaptured n) [(.tim, 0, 0x108), (.tim, 0, 0x10C), (.tim, 0, 0x158), (.tim, 0, 0x15C), (.tim, 0, 0x020)] ∧
    (d.ppsCaptured n).reg .tim 0 0x108 = n % 2 ^ 32 ∧ (d.ppsCaptured n).reg .tim 0 0x10C = n / 2 ^ 32 ∧
    (d.ppsCaptured n).flag .tim 0 0x15C 0 = true ∧
    (d.ppsCaptured n).reg .tim 0 0x158 =
      (if d.flag .tim 0 0x15C 0 then satAdd (d.reg .tim 0 0x158) 1 else d.reg .tim 0 0x158) := by
  have hcount : d.regsOnly (if d.flag .tim 0 0x15C 0 then d.bump .tim 0 0x158 1 else d) ∧
      d.keepsRegs (if d.flag .tim 0 0x15C 0 then d.bump .tim 0 0x158 1 else d)
        [(.tim, 0, 0x108), (.tim, 0, 0x10C), (.tim, 0, 0x158), (.tim, 0, 0x15C), (.tim, 0, 0x020)] ∧
      (if d.flag .tim 0 0x15C 0 then d.bump .tim 0 0x158 1 else d).reg .tim 0 0x158 =
        (if d.flag .tim 0 0x15C 0 then satAdd (d.reg .tim 0 0x158) 1 else d.reg .tim 0 0x158) := by
    split
    · exact ⟨d.bump_regsOnly .., d.keepsRegs_bump _ _ _ _ (by simp), Dev.reg_bump_self ..⟩
    · exact ⟨.refl d, .refl d _, rfl⟩
  unfold Dev.ppsCaptured
  generalize (if d.flag .tim 0 0x15C 0 then d.bump .tim 0 0x158 1 else d) = e at *
  obtain ⟨h0, hk, h158⟩ := hcount
  have hs := ((e.setReg .tim 0 0x108 (n % 2 ^ 32)).setReg .tim 0 0x10C (n / 2 ^ 32)).flag_sticky_self .tim 0 (b := 0) (by decide) 0
  refine ⟨((h0.trans (Dev.setReg_regsOnly ..)).trans (Dev.setReg_regsOnly ..)).trans (Dev.sticky_regsOnly ..),
    ((hk.trans (Dev.keepsRegs_setReg _ _ _ _ _ (by simp))).trans (Dev.keepsRegs_setReg _ _ _ _ _ (by simp))).trans
      (Dev.keepsRegs_sticky _ _ _ _ (by simp) (by simp)), ?_, ?_, ?_, ?_⟩
  · simp
  · simp
    omega
  · simpa using hs
  · simpa using h158

theorem Dev.blockWrite_synce {d : Dev} {lk : Locked} {v : Nat} (hp : d.ethPresent 0 = true) :
    d.blockWrite lk .eth 0 0x184 v = effSynceChange v d := by
  simp only [Dev.blockWrite, hp, Bool.not_true, Bool.false_eq_true, if_false, if_true]

/-- A change of PORT or DIV holds the output (R470). -/
def Dev.synceSet (d : Dev) (v : Nat) : Dev :=
  if d.reg .eth 0 0x184 &&& 0x27 ≠ v &&& 0x27 then
    { d.setReg .eth 0 0x184 (v &&& 0x37) with tim := { d.tim with syncHeld := some d.tim.tick } }
  else d.setReg .eth 0 0x184 (v &&& 0x37)

theorem effSynceChange_eq (d : Dev) (v : Nat) : effSynceChange v d = (d.synceSet v).syncPin d.syncRuns := by
  have hm : (v &&& 0x37) &&& 0x27 = v &&& 0x27 := by rw [Nat.and_assoc]; rfl
  have hs : d.synceSet v = (if d.reg .eth 0 0x184 &&& 0x27 != (v &&& 0x37) &&& 0x27 then
      { d.setReg .eth 0 0x184 (v &&& 0x37) with tim := { d.tim with syncHeld := some d.tim.tick } }
    else d.setReg .eth 0 0x184 (v &&& 0x37)) := by
    rw [hm]
    simp only [Dev.synceSet, ne_eq, bne_iff_ne]
  rw [hs]
  rfl

end Sys2Proof.Machine

open Sys2Proof Sys2Proof.Machine

/-- Settles O38: a write of TIM_CTRL sets the counter, changes the grid and ends with the servo's fields; an offset is a servo
update or a step. -/
theorem counterWrites : Obligations.CounterWrites := by
  unfold Obligations.CounterWrites
  refine ⟨?set, ?grid, ?offset, ?read⟩
  case set =>
    intro s w v hw hset hgrid
    have hx : exec (.setCounter w v) s = .next { s with d := s.d.blockWrite s.lk .tim 0 0x110 v.toNat } :=
      exec_blockWrite rfl hw rfl v.isLt (by decide) (fun _ => by decide) (by simp) (by simp)
    obtain ⟨hg, hoff, hon⟩ := effSet_spec s.d
    rw [Dev.blockWrite_timCtrl, Dev.timCtrl_eq, if_pos hset, effGridEn_same (hgrid.trans hg.symm)] at hx
    refine ⟨_, hx, ?_⟩
    cases hb : s.d.gridOn
    · rw [hoff hb]
      obtain ⟨h1, h2, h3, h4⟩ := Dev.timFields_spec { s.d with tim := { s.d.tim with ns := s.d.reg .tim 0 0x114, frac := 0 } } v.toNat
      generalize Dev.timFields { s.d with tim := { s.d.tim with ns := s.d.reg .tim 0 0x114, frac := 0 } } v.toNat = e at *
      obtain ⟨r, rfl⟩ : ∃ r, e = { s.d with rg := r, tim := { s.d.tim with
        ns := s.d.reg .tim 0 0x114, frac := 0, corr := if bit v.toNat 1 then s.d.tim.corr else 0 } } := ⟨_, h1⟩
      exact ⟨rfl, h3, h4.trans hb, fun _ => ⟨h2, rfl⟩, fun h => by simp at h⟩
    · rw [hon hb]
      have h0 := s.d.err_regsOnly .tim 0 errState 0x110
      have hc := s.d.reg_err_2C .tim 0 errState 0x110
      have hk : s.d.keepsRegs (s.d.err .tim 0 errState 0x110) [(.tim, 0, 0x110), (.tim, 0, 0x028), (.tim, 0, 0x02C)] :=
        s.d.keepsRegs_err _ _ _ _ (by simp) (by simp)
      rw [hon hb] at hg
      generalize s.d.err .tim 0 errState 0x110 = f at *
      obtain ⟨h1, h2, h3, h4⟩ := f.timFields_spec v.toNat
      have hc2 : (f.timFields v.toNat).reg .tim 0 0x02C = f.reg .tim 0 0x02C := h2 _ _ _ (by simp [RegAt.addr])
      generalize f.timFields v.toNat = e at *
      obtain ⟨r0, rfl⟩ : ∃ r0, f = { s.d with rg := r0 } := ⟨_, h0⟩
      obtain ⟨r, rfl⟩ : ∃ r, e = { s.d with rg := r, tim := { s.d.tim with corr := if bit v.toNat 1 then s.d.tim.corr else 0 } } := ⟨_, h1⟩
      exact ⟨rfl, h3, h4.trans (hg.trans hb), fun h => by simp at h, fun _ => ⟨hc2.trans hc, hk.trans (h2.mono (by simp)), rfl⟩⟩
  case grid =>
    intro s w v x hw hset
    have hx : exec (.gridEn w v) s = .next { s with d := s.d.blockWrite s.lk .tim 0 0x110 v.toNat } :=
      exec_blockWrite rfl hw rfl v.isLt (by decide) (fun _ => by decide) (by simp) (by simp)
    rw [Dev.blockWrite_timCtrl, Dev.timCtrl_eq, if_neg (by rw [hset]; decide)] at hx
    refine ⟨_, hx, rfl, rfl, ?_⟩
    obtain ⟨h1, h2, -, h4⟩ := Dev.timFields_spec (effGridEn (bit v.toNat 0) s.d) v.toNat
    have hfr : ((effGridEn (bit v.toNat 0) s.d).timFields v.toNat).txc = (effGridEn (bit v.toNat 0) s.d).txc := by rw [h1]
    have htim : ((effGridEn (bit v.toNat 0) s.d).timFields v.toNat).tim =
      { (effGridEn (bit v.toNat 0) s.d).tim with corr := if bit v.toNat 1 then (effGridEn (bit v.toNat 0) s.d).tim.corr else 0 } := by rw [h1]
    have h2C : ((effGridEn (bit v.toNat 0) s.d).timFields v.toNat).reg .tim 0 0x02C =
        (effGridEn (bit v.toNat 0) s.d).reg .tim 0 0x02C := h2 _ _ _ (by simp [RegAt.addr])
    dsimp only
    rw [htim, h4, h2C, hfr]
    clear htim h1 h2 h4 h2C hfr hx
    dsimp only
    have herr : (s.d.err .tim 0 errState 0x110).tim = s.d.tim ∧ (s.d.err .tim 0 errState 0x110).gridOn = s.d.gridOn ∧
        (s.d.err .tim 0 errState 0x110).reg .tim 0 0x02C = satAdd (s.d.reg .tim 0 0x02C) 1 := by
      refine ⟨by simp, ?_, by simp⟩
      rw [Dev.gridOn, Dev.flag, Dev.reg_err_ne _ _ _ (by decide) (by decide)]
      rfl
    cases hg : s.d.gridOn
    · cases hb : bit v.toNat 0
      · rw [effGridEn_same hg.symm]
        simp
      · rw [effGridEn_start hg]
        by_cases hr : 1000000 ≤ x ∧ x ≤ 1000000000
        · rw [if_pos hr]
          have hon : (s.d.setFld .tim 0 0x110 0 0 1).flag .tim 0 0x110 0 = true := by simp [Dev.flag]
          have h2C : (s.d.setFld .tim 0 0x110 0 0 1).reg .tim 0 0x02C = s.d.reg .tim 0 0x02C := by simp
          generalize s.d.setFld .tim 0 0x110 0 0 1 = e at *
          refine ⟨rfl, rfl, fun _ _ _ => ⟨hon, rfl, h2C⟩, fun _ _ h => absurd hr h, fun h => by simp at h, fun h => by simp at h⟩
        · rw [if_neg hr]
          obtain ⟨ht, hgo, hc⟩ := herr
          rw [ht, hgo, hc]
          exact ⟨rfl, rfl, fun _ _ h => absurd h hr, fun _ _ _ => ⟨hg, rfl⟩, fun h => by simp at h, fun h => by simp at h⟩
    · cases hb : bit v.toNat 0
      · rw [effGridEn_stop hg]
        cases hc : s.d.anyCell
        · rw [if_neg (by decide)]
          obtain ⟨ht, htx, hgo⟩ := (s.d.gridDropped.setFld .tim 0 0x110 0 0 0).alignCancelled_spec
          obtain ⟨hd1, hd2⟩ := s.d.gridDropped_spec
          have hoff : (s.d.gridDropped.setFld .tim 0 0x110 0 0 0).gridOn = false := by simp [Dev.gridOn, Dev.flag]
          rw [ht, hgo, htx, hoff]
          simp [hd1, hd2]
        · rw [if_pos rfl]
          obtain ⟨ht, hgo, hc⟩ := herr
          rw [ht, hgo, hc]
          simp [hg]
      · rw [effGridEn_same hg.symm]
        simp
  case offset =>
    intro s w v e thr lim integ hw
    have hx : exec (.timOffsetNs w v) s = .next { s with d := s.d.blockWrite s.lk .tim 0 0x140 v.toNat } :=
      exec_blockWrite rfl hw rfl v.isLt (by decide) (fun _ => by decide) (by simp) (by simp)
    rw [Dev.blockWrite_timOffset] at hx
    refine ⟨_, hx, ?_⟩
    by_cases hlt : e.natAbs < thr
    · rw [effTimOffsetNs_small hlt]
      cases hs : s.d.flag .tim 0 0x110 1
      · exact ⟨rfl, Dev.keepsPci_of_pci rfl, fun _ => ⟨rfl, rfl, rfl⟩, fun h => absurd hlt (by omega), fun h => absurd hlt (by omega)⟩
      · exact ⟨rfl, Dev.keepsPci_of_pci rfl, fun _ => ⟨rfl, rfl, rfl⟩, fun h => absurd hlt (by omega), fun h => absurd hlt (by omega)⟩
    · obtain ⟨bs, he⟩ := effTimOffsetNs_step hlt
      rw [he]
      cases hg : s.d.gridOn
      · rw [if_neg (by decide)]
        have hst (d : Dev) : d.regsOnly ((d.bump .tim 0 0x154 1).sticky .tim 0 1) := (d.bump_regsOnly ..).trans (Dev.sticky_regsOnly ..)
        obtain ⟨h1, h2⟩ := Dev.postAfter_spec (hst { s.d with tim := { s.d.tim with
          step := some (s.d.tim.step.getD 0 + s.d.offset v.toNat * 65536) } }) .tim 0 0x08 1 0 bs
        have hfl (d : Dev) : (((d.bump .tim 0 0x154 1).sticky .tim 0 1).post .tim 0 0x08 1 0 bs).flag .tim 0 0x15C 1 = true := by
          have := (d.bump .tim 0 0x154 1).flag_sticky_self .tim 0 (b := 1) (by decide) 1
          rw [Dev.flag, Dev.reg_post_ne _ _ _ _ _ (by decide) (by decide) (by decide)]
          exact this.trans (by simp)
        have hct (d : Dev) : (((d.bump .tim 0 0x154 1).sticky .tim 0 1).post .tim 0 0x08 1 0 bs).reg .tim 0 0x154 =
            satAdd (d.reg .tim 0 0x154) 1 := by simp
        have hfl := hfl { s.d with tim := { s.d.tim with step := some (s.d.tim.step.getD 0 + s.d.offset v.toNat * 65536) } }
        have hct := hct { s.d with tim := { s.d.tim with step := some (s.d.tim.step.getD 0 + s.d.offset v.toNat * 65536) } }
        generalize Dev.post (Dev.sticky (Dev.bump { s.d with tim := { s.d.tim with
          step := some (s.d.tim.step.getD 0 + s.d.offset v.toNat * 65536) } } .tim 0 0x154 1) .tim 0 1) .tim 0 0x08 1 0 bs = f at *
        obtain ⟨r, p, rfl⟩ : ∃ r p, f = { s.d with rg := r, pci := p, tim := { s.d.tim with
          step := some (s.d.tim.step.getD 0 + s.d.offset v.toNat * 65536) } } := ⟨_, _, h1⟩
        exact ⟨rfl, h2, fun h => absurd h hlt, fun _ h => by simp at h, fun _ _ => ⟨hfl, hct, rfl⟩⟩
      · rw [if_pos rfl]
        obtain ⟨h1, h2⟩ := Dev.postAfter_spec (s.d.sticky_regsOnly .tim 0 2) .tim 0 0x08 2 0 bs
        have hfl : ((s.d.sticky .tim 0 2).post .tim 0 0x08 2 0 bs).flag .tim 0 0x15C 2 = true := by
          have := s.d.flag_sticky_self .tim 0 (b := 2) (by decide) 2
          rw [Dev.flag, Dev.reg_post_ne _ _ _ _ _ (by decide) (by decide) (by decide)]
          exact this.trans (by simp)
        have hct : ((s.d.sticky .tim 0 2).post .tim 0 0x08 2 0 bs).reg .tim 0 0x154 = s.d.reg .tim 0 0x154 := by simp
        generalize (s.d.sticky .tim 0 2).post .tim 0 0x08 2 0 bs = f at *
        obtain ⟨r, p, rfl⟩ : ∃ r p, f = { s.d with rg := r, pci := p } := ⟨_, _, h1⟩
        exact ⟨rfl, h2, fun h => absurd h hlt, fun _ _ => ⟨rfl, hfl, hct⟩, fun _ h => by simp at h⟩
  case read =>
    intro s w ho hs
    have hx := exec_onLk (s := s) (i := .timNowFracRead w) (f := effTimNowFracRead w) rfl
      (barRead_word (a := Page.base .tim 0 + 0x100) (lk := s.lk) (Dev.answers_of_openTo ho) (by decide))
    rw [wordRead_here (p := .tim) (n := 0) (by decide) rfl ho fun h => .inl (hs h)] at hx
    exact ⟨_, hx, rfl⟩

/-- Settles O39: each pulse and each write of ETH_SYNCE is one update of its registers and of the time unit. -/
theorem gridAndPulses : Obligations.GridAndPulses := by
  unfold Obligations.GridAndPulses
  refine ⟨?event, ?rise, ?fall, ?capture, ?synce⟩
  case event =>
    intro s hon hr
    have he : effGridEvent s.d = { s.d with tim := { s.d.tim with sub := s.d.tim.sub + 1 } } := by
      rw [effGridEvent, if_pos (by rw [hon, hr]; rfl)]
    exact ⟨_, exec_onDev (f := effGridEvent) rfl he, rfl⟩
  case rise =>
    intro s p h hh hr
    have hx := exec_onDev (s := s) (i := .ppsOut) (f := effPpsOut) rfl (effPpsOut_rises h hh hr)
    refine ⟨_, hx, ?_⟩
    have h0 := s.d.setReg_regsOnly .tim 0 0x124 ((p + 1000000000) % 2 ^ 32)
    have h1 : (s.d.setReg .tim 0 0x124 ((p + 1000000000) % 2 ^ 32)).reg .tim 0 0x124 = (p + 1000000000) % 2 ^ 32 := by
      rw [Dev.reg_setReg_self, Nat.mod_mod]
    have hk : s.d.keepsRegs (s.d.setReg .tim 0 0x124 ((p + 1000000000) % 2 ^ 32)) [(.tim, 0, 0x124)] :=
      s.d.keepsRegs_setReg _ _ _ _ (by simp)
    change ({ s with d := { s.d.setReg .tim 0 0x124 ((p + 1000000000) % 2 ^ 32) with
        tim := { s.d.tim with ppsHigh := some p }, out := s.d.out ++ [.pin "PPS_OUT" true] } } : State) = _ ∧ _
    generalize s.d.setReg .tim 0 0x124 ((p + 1000000000) % 2 ^ 32) = e at *
    obtain ⟨r, rfl⟩ : ∃ r, e = { s.d with rg := r } := ⟨_, h0⟩
    exact ⟨rfl, h1, hk⟩
  case fall =>
    intro s p hh hr
    exact ⟨_, exec_onDev (f := effPpsOutFall) rfl (effPpsOutFall_falls hh hr), rfl⟩
  case capture =>
    intro s n hheld
    have hx := exec_onDev (s := s) (i := .ppsIn) (f := effPpsIn) rfl (effPpsIn_eq hheld)
    refine ⟨_, hx, ?_⟩
    obtain ⟨h0, hk, h108, h10C, hfl, h158⟩ := s.d.ppsCaptured_spec (n := n) (Nat.mod_lt _ (by decide))
    change ({ s with d := (s.d.ppsCaptured n).post .tim 0 0x08 3 0 (layout 20 [(0, 4, n / 2 ^ 32), (4, 4, n % 2 ^ 32)]) } : State) = _ ∧ _
    generalize layout 20 [(0, 4, n / 2 ^ 32), (4, 4, n % 2 ^ 32)] = bs
    generalize s.d.ppsCaptured n = e at *
    obtain ⟨h1, h2⟩ := Dev.postAfter_spec h0 .tim 0 0x08 3 0 bs
    have hp := e.keepsRegs_post .tim 0 0x08 3 0 bs (List.Subset.refl evtRegs)
    generalize e.post .tim 0 0x08 3 0 bs = f at *
    have hpr (o : Nat) (ho : o < 0x1000) : f.reg .tim 0 o = e.reg .tim 0 o := hp _ _ _ (by simp [evtRegs, RegAt.addr]; omega)
    refine ⟨congrArg (fun d => ({ s with d := d } : State)) h1, h2, (hpr _ (by decide)).trans h108, (hpr _ (by decide)).trans h10C,
      ?_, (hpr _ (by decide)).trans h158, (hk.mono (List.subset_append_right ..)).trans (hp.mono (List.subset_append_left ..))⟩
    change f.flag .tim 0 0x15C 0 = true
    rw [Dev.flag, hpr _ (by decide)]
    exact hfl
  case synce =>
    intro s w v same hw hp
    have hx : exec (.synceChange w v) s = .next { s with d := s.d.blockWrite s.lk .eth 0 0x184 v.toNat } :=
      exec_blockWrite rfl hw (by decide) v.isLt (by decide) (fun _ => by decide) (by simp) (by simp)
    rw [Dev.blockWrite_synce hp, effSynceChange_eq] at hx
    refine ⟨_, hx, ?_⟩
    have h0 := s.d.setReg_regsOnly .eth 0 0x184 (v.toNat &&& 0x37)
    have h1 : (s.d.setReg .eth 0 0x184 (v.toNat &&& 0x37)).reg .eth 0 0x184 = v.toNat &&& 0x37 := by
      rw [Dev.reg_setReg_self]
      exact Nat.mod_eq_of_lt (Nat.and_le_left.trans_lt v.isLt)
    have hk : s.d.keepsRegs (s.d.setReg .eth 0 0x184 (v.toNat &&& 0x37)) [(.eth, 0, 0x184)] := s.d.keepsRegs_setReg _ _ _ _ (by simp)
    have hpin (e : Dev) (he : e.out = s.d.out) : e.syncPin s.d.syncRuns = { e with
        out := if s.d.syncRuns = e.syncRuns then s.d.out else s.d.out ++ [.pin "SYNCE_OUT" e.syncRuns] } := by
      unfold Dev.syncPin
      by_cases h : s.d.syncRuns = e.syncRuns
      · rw [if_pos (by simpa using h), if_pos h, ← he]
      · rw [if_neg (by simpa using h), if_neg h, ← he]
        rfl
    unfold Dev.synceSet
    generalize s.d.setReg .eth 0 0x184 (v.toNat &&& 0x37) = e at *
    obtain ⟨r, rfl⟩ : ∃ r, e = { s.d with rg := r } := ⟨_, h0⟩
    by_cases hsame : same
    · rw [if_neg (by simpa using hsame), hpin { s.d with rg := r } rfl]
      exact ⟨rfl, h1, hk, fun h => absurd hsame h, fun _ => rfl, rfl⟩
    · rw [if_pos hsame, hpin { s.d with rg := r, tim := { s.d.tim with syncHeld := some s.d.tim.tick } } rfl]
      refine ⟨rfl, h1, hk, fun _ => ⟨rfl, ?_⟩, fun h => absurd h hsame, rfl⟩
      simp [Dev.syncRuns]

end

section
/-! SUPPORT. The host rings: doorbells, fetched entries and entries in error (O47). -/

namespace Sys2Proof.Machine

/-! ## Doorbells (R547, R555) -/

/-- Does a doorbell with value `v` move the index of its ring (R547)? -/
def Dev.doorbellOk (d : Dev) (r v : Nat) : Prop :=
  d.flag .pci 0 0x100 0 = true ∧ (if r < 3 then idxDiff (d.ringReg r 0x0C) (d.ringReg r 0x10) ≤ idxDiff v (d.ringReg r 0x10) ∧
    idxDiff v (d.ringReg r 0x10) ≤ 2 ^ bits (d.ringReg r 8) 4 0
  else idxDiff v (d.ringReg r 0x10) ≤ idxDiff (d.ringReg r 0x0C) (d.ringReg r 0x10))

theorem Dev.doorbell_moves {d : Dev} {r v : Nat} (ho : d.openTo .nonsecure .pci = true) (h : d.doorbellOk r v) :
    d.doorbell r v = d.setReg .pci 0 (0x200 + 32 * r + (if r < 3 then 0x0C else 0x10)) v := by
  obtain ⟨hen, hr⟩ := h
  unfold Dev.doorbell
  rw [if_neg (by rw [ho]; decide)]
  dsimp only
  by_cases h3 : r < 3
  · rw [if_pos h3] at hr
    rw [if_pos (by simp [hen, h3, hr.1, hr.2])]
    simp [h3]
  · rw [if_neg h3] at hr
    rw [if_pos (by simp [hen, h3, hr])]
    simp [h3]

theorem Dev.doorbell_ignored {d : Dev} {r v : Nat} (ho : d.openTo .nonsecure .pci = true) (h : ¬ d.doorbellOk r v) :
    d.doorbell r v = (d.bump .pci 0 0x188 1).sticky .pci 0 2 := by
  unfold Dev.doorbell
  rw [if_neg (by rw [ho]; decide)]
  dsimp only
  rw [if_neg]
  intro hc
  refine h ?_
  rw [Bool.and_eq_true] at hc
  obtain ⟨hen, hr⟩ := hc
  refine ⟨hen, ?_⟩
  by_cases h3 : r < 3
  · simpa [h3] using hr
  · simpa [h3] using hr

theorem exec_doorbell {v : W32} {c : Nat × Instr}
    (hc : c ∈ [(0, Instr.jobRingDoorbell v), (1, .intakeRingDoorbell v), (2, .payloadRingDoorbell v),
      (3, .deliveryRingDoorbell v), (4, .eventRingDoorbell v)]) (s : State) :
    exec c.2 s = .next { s with d := s.d.doorbell c.1 v.toNat } := by
  fin_cases hc <;> rfl

/-! ## Entries (R543, R549, R550) -/

/-- A flag of PCI_STICKY that is set stays set when an event is posted. -/
theorem Dev.flag_post_pciSticky {d : Dev} {b : Nat} (h : d.flag .pci 0 0x194 b = true) (p : Page) (n src sub inst : Nat)
    (bs : List Byte) : (d.post p n src sub inst bs).flag .pci 0 0x194 b = true := by
  obtain he | ⟨k, he⟩ | ⟨k, r, he⟩ := d.post_cases p n src sub inst bs
  · rw [he, h]
  · have hs := (Dev.bump { d with pci := { d.pci with evSeq := k } } .pci 0 0x184 1).flag_sticky_self .pci 0 (b := 1) (by decide) b
    have hb : (Dev.bump { d with pci := { d.pci with evSeq := k } } .pci 0 0x184 1).flag .pci 0 0x194 b = d.flag .pci 0 0x194 b := by
      simp [Dev.flag]
    rw [he]
    exact hs.trans (by rw [Page.sticky_at.2.2.2.2.2.2.2.2.2.2.2.2.2.2.2.2.1, hb, h]; rfl)
  · rw [he]
    exact h

theorem Dev.entryErr_spec (d : Dev) (r i : Nat) :
    d.entryErr r i = { d with rg := (d.entryErr r i).rg, pci := (d.entryErr r i).pci } ∧ d.keepsPci (d.entryErr r i) ∧
    (d.entryErr r i).reg .pci 0 0x18C = satAdd (d.reg .pci 0 0x18C) 1 ∧ (d.entryErr r i).flag .pci 0 0x194 3 = true ∧
    d.keepsRegs (d.entryErr r i) (evtRegs ++ [(.pci, 0, 0x18C)]) := by
  have hreg : d.regsOnly ((d.bump .pci 0 0x18C 1).sticky .pci 0 3) := (d.bump_regsOnly ..).trans (Dev.sticky_regsOnly ..)
  have hs := (d.bump .pci 0 0x18C 1).flag_sticky_self .pci 0 (b := 3) (by decide) 3
  have hk : d.keepsRegs ((d.bump .pci 0 0x18C 1).sticky .pci 0 3) (evtRegs ++ [(.pci, 0, 0x18C)]) :=
    (d.keepsRegs_bump _ _ _ _ (by simp)).trans (Dev.keepsRegs_sticky _ _ _ _ (by simp [evtRegs]) (by simp [evtRegs]))
  unfold Dev.entryErr
  obtain ⟨h1, h2⟩ := Dev.postAfter_spec hreg .pci 0 0x0B 2 0 (layout 20 [(0, 1, r), (4, 4, i)])
  refine ⟨h1, h2, by simp, Dev.flag_post_pciSticky (hs.trans (by simp)) .., hk.trans (Dev.keepsRegs_post _ _ _ _ _ _ _ ?_)⟩
  exact List.subset_append_left ..

/-- The entry that ENTRY_FETCH and ENTRY_ERR hold. -/
def Dev.fetchedEntry (d : Dev) (r : Nat) (bs : List Byte) (bad : Bool) : InEntry :=
  { ring := r, idx := d.pci.fetchIdx.toList.getD r 0, stamp := d.tim.tick, bytes := slice bs 0 (entrySize r), bad := bad }

theorem Dev.holdEntry_eq (d : Dev) (r : Nat) (bs : List Byte) (bad : Bool) : d.holdEntry r bs bad =
    { d with pci := { d.pci with fetched := d.pci.fetched ++ [d.fetchedEntry r bs bad],
                                 fetchIdx := d.pci.fetchIdx.setIfInBounds r ((d.pci.fetchIdx.toList.getD r 0 + 1) % 2 ^ 32) } } := rfl

theorem effEntryFetch_eq {d : Dev} {r : Nat} (h : d.canFetch r = true) (bs : List Byte) :
    effEntryFetch r bs d =
      if r == 1 && !intakeOk (slice bs 0 32) then (d.holdEntry r bs true).entryErr r (d.pci.fetchIdx.toList.getD r 0)
      else d.holdEntry r bs false := by
  unfold effEntryFetch
  rw [if_neg (by rw [h]; decide)]
  cases r == 1 && !intakeOk (slice bs 0 32) <;> rfl

theorem effEntryErr_held {d : Dev} {r : Nat} (h : d.canFetch r = true) :
    effEntryErr r false d = (d.holdEntry r [] true).entryErr r (d.pci.fetchIdx.toList.getD r 0) := by
  unfold effEntryErr
  rw [if_neg (by decide), if_pos h]

/-- The index block goes out, and nothing else changes. -/
theorem Dev.writeIdx_spec (d : Dev) : d.writeIdx = { d with out := d.writeIdx.out } ∧ d.out <+: d.writeIdx.out := by
  unfold Dev.writeIdx
  split
  · exact ⟨rfl, List.prefix_rfl⟩
  · exact ⟨rfl, List.prefix_append ..⟩

theorem Dev.noteEntry_shape (d : Dev) (r : Nat) : d.noteEntry r =
    { d with pci := { d.pci with since := (d.noteEntry r).pci.since, firstTick := (d.noteEntry r).pci.firstTick } } := rfl

/-- RD of the ring moves on by one; of the rest, the counts for the message of the ring and what goes out. -/
theorem Dev.consume_shape (d : Dev) (r : Nat) : d.consume r =
    { d with rg := (d.setReg .pci 0 (0x210 + 32 * r) ((d.reg .pci 0 (0x210 + 32 * r) + 1) % 2 ^ 32)).rg,
             pci := { d.pci with since := (d.consume r).pci.since, firstTick := (d.consume r).pci.firstTick },
             out := (d.consume r).out } ∧ d.out <+: (d.consume r).out := by
  have hb : 0x200 + 32 * r + 0x10 = 0x210 + 32 * r := by omega
  unfold Dev.consume
  dsimp only
  rw [hb]
  have h0 := d.setReg_regsOnly .pci 0 (0x210 + 32 * r) ((d.reg .pci 0 (0x210 + 32 * r) + 1) % 2 ^ 32)
  generalize d.setReg .pci 0 (0x210 + 32 * r) ((d.reg .pci 0 (0x210 + 32 * r) + 1) % 2 ^ 32) = e at *
  obtain ⟨g, rfl⟩ : ∃ g, e = { d with rg := g } := ⟨_, h0⟩
  obtain ⟨h1, h2⟩ := Dev.writeIdx_spec { d with rg := g }
  generalize Dev.writeIdx { d with rg := g } = f at *
  obtain ⟨o, rfl⟩ : ∃ o, f = { d with rg := g, out := o } := ⟨_, h1⟩
  exact ⟨rfl, h2⟩

theorem Dev.reg_consume (d : Dev) (r : Nat) (p : Page) (n o : Nat) :
    (d.consume r).reg p n o = (d.setReg .pci 0 (0x210 + 32 * r) ((d.reg .pci 0 (0x210 + 32 * r) + 1) % 2 ^ 32)).reg p n o := by
  rw [(d.consume_shape r).1]
  rfl

/-- An entry at the head that is to be kept stays. -/
theorem Dev.dropBad_keeps {d : Dev} (h : ∀ y, d.pci.intake.head? = some y → y.bad = false) (n : Nat) : d.dropBad n = d := by
  cases n with
  | zero => rfl
  | succ n =>
    unfold Dev.dropBad
    cases hi : d.pci.intake with
    | nil => rfl
    | cons y l =>
      dsimp only
      rw [if_neg (by rw [h y (by rw [hi]; rfl)]; decide)]

/-- The intake entry that is being copied is discarded (R543). -/
def Dev.discardCopy (d : Dev) (x : InEntry) (rest : List InEntry) : Dev :=
  ({ d with pci := { d.pci with intake := rest } }.entryErr 1 x.idx).consume 1

theorem Dev.discardCopy_spec (d : Dev) (x : InEntry) (rest : List InEntry) :
    d.discardCopy x rest =
      { d with rg := (d.discardCopy x rest).rg, pci := (d.discardCopy x rest).pci, out := (d.discardCopy x rest).out } ∧
    (d.discardCopy x rest).pci.intake = rest ∧
    (d.discardCopy x rest).reg .pci 0 0x18C = satAdd (d.reg .pci 0 0x18C) 1 ∧
    (d.discardCopy x rest).reg .pci 0 0x230 = (d.reg .pci 0 0x230 + 1) % 2 ^ 32 := by
  unfold Dev.discardCopy
  obtain ⟨h1, h2, h3, -, h5⟩ := Dev.entryErr_spec { d with pci := { d.pci with intake := rest } } 1 x.idx
  generalize Dev.entryErr { d with pci := { d.pci with intake := rest } } 1 x.idx = e at *
  have h230 : e.reg .pci 0 0x230 = d.reg .pci 0 0x230 := (h5 _ _ _ (by simp [evtRegs, RegAt.addr])).trans (by simp)
  have h18C : e.reg .pci 0 0x18C = satAdd (d.reg .pci 0 0x18C) 1 := h3.trans (by simp)
  have hin : e.pci.intake = rest := by rw [h2.1]
  refine ⟨?_, ?_, ?_, ?_⟩
  · rw [(e.consume_shape 1).1]
    generalize e.consume 1 = f
    obtain ⟨g, p, rfl⟩ : ∃ g p, e = { d with rg := g, pci := p } := ⟨_, _, h1⟩
    rfl
  · rw [(e.consume_shape 1).1]
    exact hin
  · rw [Dev.reg_consume, Dev.reg_setReg_ne _ _ (by simp), h18C]
  · rw [Dev.reg_consume, Dev.reg_setReg_self, Nat.mod_mod, h230]

theorem effEntryErr_copy {d : Dev} {r : Nat} {x : InEntry} {rest : List InEntry} (hi : d.pci.intake = x :: rest)
    (hb : ∀ y, rest.head? = some y → y.bad = false) : effEntryErr r true d = d.discardCopy x rest := by
  obtain ⟨-, hin, -⟩ := d.discardCopy_spec x rest
  unfold effEntryErr
  rw [if_pos rfl, hi]
  exact Dev.dropBad_keeps (d := d.discardCopy x rest) (by rw [hin]; exact hb) _

end Sys2Proof.Machine

open Sys2Proof Sys2Proof.Machine

/-- Settles O47: a doorbell is one register or one count, and each form of an entry in error is one held or discarded entry. -/
theorem hostRings : Obligations.HostRings := by
  unfold Obligations.HostRings
  refine ⟨?doorbell, ?fetch, ?held, ?copy⟩
  case doorbell =>
    intro s v c hc ho wr rd good
    refine ⟨_, exec_doorbell hc s, congrArg (fun e => ({ s with d := e } : State)) (s.d.doorbell_regsOnly ..), ?_, ?_⟩
    · intro hg
      dsimp only
      rw [Dev.doorbell_moves ho hg]
      refine ⟨?_, s.d.keepsRegs_setReg _ _ _ _ (by simp)⟩
      rw [Dev.ringReg, Dev.reg_setReg_self]
      exact Nat.mod_eq_of_lt v.isLt
    · intro hg
      dsimp only
      rw [Dev.doorbell_ignored ho hg]
      have hs := (s.d.bump .pci 0 0x188 1).flag_sticky_self .pci 0 (b := 2) (by decide) 2
      exact ⟨by simp, hs.trans (by simp),
        (s.d.keepsRegs_bump _ _ _ _ (by simp)).trans (Dev.keepsRegs_sticky _ _ _ _ (by simp) (by simp))⟩
  case fetch =>
    intro s r bs hcan i bad x
    have hx := exec_onDev (s := s) (i := .entryFetch r bs) (f := effEntryFetch r.val bs) rfl (effEntryFetch_eq hcan bs)
    refine ⟨_, hx, ?_⟩
    by_cases hb : bad
    · have hc : (r.val == 1 && !intakeOk (slice bs 0 32)) = true := by simpa [bad] using hb
      rw [if_pos hc]
      dsimp only
      obtain ⟨h1, h2, h3, -, -⟩ := (s.d.holdEntry r.val bs true).entryErr_spec r.val (s.d.pci.fetchIdx.toList.getD r.val 0)
      rw [Dev.holdEntry_eq] at *
      generalize Dev.entryErr _ r.val (s.d.pci.fetchIdx.toList.getD r.val 0) = e at *
      obtain ⟨g, p, rfl⟩ : ∃ g p, e = { s.d with rg := g, pci := p } := ⟨_, _, h1⟩
      obtain ⟨h2, -⟩ := h2
      have hx : s.d.fetchedEntry r.val bs true = x := by simp [Dev.fetchedEntry, x, i, hb]
      refine ⟨rfl, ?_, ?_, ?_, fun h => absurd hb h⟩
      · rw [h2, ← hx]
      · rw [h2]
      · rw [if_pos hb, h3]
        simp
    · have hc : ¬(r.val == 1 && !intakeOk (slice bs 0 32)) = true := by simpa [bad] using hb
      rw [if_neg hc, Dev.holdEntry_eq]
      have hx : s.d.fetchedEntry r.val bs false = x := by simp [Dev.fetchedEntry, x, i, hb]
      rw [hx, if_neg hb]
      exact ⟨rfl, rfl, rfl, rfl, fun _ => rfl⟩
  case held =>
    intro s r hcan i
    have hx := exec_onDev (s := s) (i := .entryErr r false) (f := effEntryErr r.val false) rfl (effEntryErr_held hcan)
    refine ⟨_, hx, ?_⟩
    obtain ⟨h1, h2, h3, h4, -⟩ := (s.d.holdEntry r.val [] true).entryErr_spec r.val (s.d.pci.fetchIdx.toList.getD r.val 0)
    rw [Dev.holdEntry_eq] at *
    generalize Dev.entryErr _ r.val (s.d.pci.fetchIdx.toList.getD r.val 0) = e at *
    obtain ⟨g, p, rfl⟩ : ∃ g p, e = { s.d with rg := g, pci := p } := ⟨_, _, h1⟩
    obtain ⟨h2, -⟩ := h2
    refine ⟨rfl, h3.trans (by simp), h4, ?_⟩
    rw [h2]
    simp [Dev.fetchedEntry, i]
  case copy =>
    intro s r x rest hi hb
    have hx := exec_onDev (s := s) (i := .entryErr r true) (f := effEntryErr r.val true) rfl (effEntryErr_copy hi hb)
    refine ⟨_, hx, ?_⟩
    obtain ⟨h1, h2, h3, h4⟩ := s.d.discardCopy_spec x rest
    exact ⟨congrArg (fun e => ({ s with d := e } : State)) h1, h2, h3, h4⟩

end

section
/-! SUPPORT. SPDM messages and their answers (O46). -/

namespace Sys2Proof.Machine

/-- `e` is `d` after the one answer `r`; of the rest, the connection and the free values may have changed. -/
def Dev.answered (d e : Dev) (r : List Byte) : Prop :=
  e = { d with sec := { d.sec with spdm := e.sec.spdm }, fresh := e.fresh, out := d.out ++ [.doe r] }

theorem Dev.answered_doe (d : Dev) (r : List Byte) : d.answered (d.doe r) r := rfl

/-- An answer after the connection and the free values have changed. -/
theorem Dev.answered_of {d e : Dev} (h : e = { d with sec := { d.sec with spdm := e.sec.spdm }, fresh := e.fresh }) (r : List Byte) :
    d.answered (e.doe r) r := by
  generalize e.sec.spdm = x at h
  generalize e.fresh = y at h
  subst h
  rfl

/-- The code of the ERROR that a request meets before it is looked at: Busy, InvalidRequest, VersionMismatch or
UnexpectedRequest, in this order (R538). -/
def Dev.spdmRefusal (d : Dev) (code version phase : Nat) (req : List Byte) : Option Nat :=
  if d.flag .sec 0 0x14C 31 then some 0x03
  else if leAt req 1 1 != code || decide (req.length < 4) then some 0x01
  else if leAt req 0 1 != version then some 0x41
  else if d.sec.spdm.phase < phase then some 0x04
  else none

theorem Dev.spdm_eq (d : Dev) (code version phase : Nat) (req : List Byte) (f : Dev → Dev) :
    d.spdm code version phase req f =
      if d.doeOpen then (match d.spdmRefusal code version phase req with
        | some e => d.doe (spdmError e)
        | none => f d)
      else d := by
  unfold Dev.spdm Dev.spdmRefusal
  cases d.doeOpen
  · rfl
  · rw [if_neg (by decide), if_pos rfl]
    split_ifs <;> rfl

/-- A request that names the ERROR that it meets. -/
theorem Dev.spdmRefusal_of {d : Dev} {code version phase : Nat} {req : List Byte} {e : Nat}
    (h : (e = 0x03 ∧ d.flag .sec 0 0x14C 31 = true) ∨
      (e = 0x01 ∧ d.flag .sec 0 0x14C 31 = false ∧ (leAt req 1 1 ≠ code ∨ req.length < 4)) ∨
      (e = 0x41 ∧ d.flag .sec 0 0x14C 31 = false ∧ leAt req 1 1 = code ∧ 4 ≤ req.length ∧ leAt req 0 1 ≠ version) ∨
      (e = 0x04 ∧ d.flag .sec 0 0x14C 31 = false ∧ leAt req 1 1 = code ∧ 4 ≤ req.length ∧ leAt req 0 1 = version ∧
        d.sec.spdm.phase < phase)) : d.spdmRefusal code version phase req = some e := by
  unfold Dev.spdmRefusal
  obtain ⟨rfl, hb⟩ | ⟨rfl, hb, hc⟩ | ⟨rfl, hb, hc, hl, hv⟩ | ⟨rfl, hb, hc, hl, hv, hp⟩ := h
  · simp [hb]
  · simp only [hb, Bool.false_eq_true, if_false]
    rw [if_pos (by simpa using hc)]
  · simp [hb, hc, hv, hl]
  · simp [hb, hc, hv, hl, hp]

/-- The first two bytes of a request as one number. -/
theorem leAt_two (req : List Byte) : leAt req 0 2 = leAt req 0 1 + 256 * leAt req 1 1 := by
  simp [leAt, slice, List.range_succ, leNat]

theorem leAt_one_lt (req : List Byte) (o : Nat) : leAt req o 1 < 256 := by
  simpa [leAt, slice] using leNat_lt (slice req o 1)

/-- A request of the right code and version in the right phase is looked at. -/
theorem Dev.spdm_passes {d : Dev} {code version phase : Nat} {req : List Byte} (ho : d.doeOpen = true)
    (hb : d.flag .sec 0 0x14C 31 = false) (hl : 4 ≤ req.length) (hw : leAt req 0 2 = version + 256 * code)
    (hv : version < 256) (hp : phase ≤ d.sec.spdm.phase) (f : Dev → Dev) : d.spdm code version phase req f = f d := by
  have h0 := leAt_one_lt req 0
  rw [leAt_two] at hw
  have h1 : leAt req 1 1 = code := by omega
  have h2 : leAt req 0 1 = version := by omega
  have hr : d.spdmRefusal code version phase req = none := by
    unfold Dev.spdmRefusal
    rw [if_neg (by rw [hb]; decide), if_neg (by simpa [h1] using hl), if_neg (by simp [h2]), if_neg (by omega)]
  rw [Dev.spdm_eq, if_pos ho, hr]

/-- What every request does: nothing while the mailbox is closed, the ERROR that it meets, or one answer of its own. -/
structure Dev.spdmRule (d e : Dev) (code version phase : Nat) (req : List Byte) : Prop where
  shape : e = { d with sec := { d.sec with spdm := e.sec.spdm }, fresh := e.fresh, out := e.out }
  closed : d.doeOpen = false → e = d
  refused : d.doeOpen = true → ∀ x, d.spdmRefusal code version phase req = some x → e = d.doe (spdmError x)
  answers : d.doeOpen = true → ∃ r, e.out = d.out ++ [.doe r]

theorem Dev.spdm_rule (d : Dev) (code version phase : Nat) (req : List Byte) {f : Dev → Dev}
    (hf : ∀ d, ∃ r, Dev.answered d (f d) r) : d.spdmRule (d.spdm code version phase req f) code version phase req := by
  rw [Dev.spdm_eq]
  cases ho : d.doeOpen
  · rw [if_neg (by decide)]
    exact ⟨rfl, fun _ => rfl, fun h => absurd (ho.symm.trans h) (by decide), fun h => absurd (ho.symm.trans h) (by decide)⟩
  · rw [if_pos rfl]
    cases hr : d.spdmRefusal code version phase req with
    | some x => exact ⟨rfl, fun h => absurd (ho.symm.trans h) (by decide), 
        fun _ y hy => by rw [← Option.some_inj.mp (hr.symm.trans hy)], fun _ => ⟨_, rfl⟩⟩
    | none =>
      obtain ⟨r, h⟩ := hf d
      dsimp only
      generalize f d = e at *
      unfold Dev.answered at h
      refine ⟨?_, fun h => absurd (ho.symm.trans h) (by decide), 
        fun _ y hy => absurd (hr.symm.trans hy) (by simp), fun _ => ⟨r, ?_⟩⟩
      · rw [h]
      · rw [h]

theorem effChallenge_answers (req : List Byte) {d : Dev} (h0 : leAt req 2 1 = 0) (hc : d.sec.cert ≠ []) (hp : d.sec.pub ≠ [])
    (ho : d.doeOpen = true) (hb : d.flag .sec 0 0x14C 31 = false) (hl : 4 ≤ req.length) (hw : leAt req 0 2 = 0x8312)
    (hph : 3 ≤ d.sec.spdm.phase) : ∃ r, d.answered (effChallenge req d) r ∧ [0x12, 0x03, 0, 1] ++ sha384 d.sec.cert <+: r ∧
      (effChallenge req d).sec.spdm = { d.sec.spdm with certs := [], meas := [] } := by
  unfold effChallenge
  rw [Dev.spdm_passes ho hb hl hw (by decide) hph, if_neg (by simp [h0, Dev.hasCert, hc, hp])]
  refine ⟨_, rfl, ?_, rfl⟩
  exact List.prefix_append_of_prefix (List.prefix_append_of_prefix (List.prefix_append_of_prefix (List.prefix_append ..)))

/-- The measurement blocks that a request asks for, with their number (R539). -/
def Dev.asked (d : Dev) (op : Nat) : Nat × List Byte :=
  if op = 0 then (0, []) else if op = 0xFF then (5, d.measBlocks) else (1, d.measBlock op)

/-- The head of the answer to GET_MEASUREMENTS. -/
def measHead (op : Nat) (k : Nat × List Byte) : List Byte :=
  [0x12, 0x60] ++ leBytes 1 (if op = 0 then 5 else 0) ++ [0] ++ leBytes 1 k.1 ++ leBytes 3 k.2.length ++ k.2

theorem effGetMeasurements_answers (req : List Byte) {d : Dev} (hop : leAt req 3 1 ≤ 5 ∨ leAt req 3 1 = 0xFF) (hp : d.sec.pub ≠ [])
    (ho : d.doeOpen = true) (hb : d.flag .sec 0 0x14C 31 = false) (hl : 4 ≤ req.length) (hw : leAt req 0 2 = 0xE012)
    (hph : 3 ≤ d.sec.spdm.phase) : ∃ r, d.answered (effGetMeasurements req d) r ∧
      measHead (leAt req 3 1) (d.asked (leAt req 3 1)) <+: r := by
  have hok : ¬((decide (5 < leAt req 3 1) && leAt req 3 1 != 0xFF) || (bit (leAt req 2 1) 0 && d.sec.pub.isEmpty)) = true := by
    simp [hp]
    omega
  unfold effGetMeasurements
  rw [Dev.spdm_passes ho hb hl hw (by decide) hph, if_neg hok]
  have hk : (if leAt req 3 1 = 0 then (0, []) else if leAt req 3 1 = 0xFF then (5, d.measBlocks) else (1, d.measBlock (leAt req 3 1))) =
    d.asked (leAt req 3 1) := rfl
  dsimp only
  rw [hk]
  generalize d.asked (leAt req 3 1) = k
  cases bit (leAt req 2 1) 0
  · exact ⟨_, rfl, List.prefix_append_of_prefix (List.prefix_append ..)⟩
  · exact ⟨_, rfl, List.prefix_append_of_prefix (List.prefix_append_of_prefix (List.prefix_append ..))⟩

/-- Each request with its code, version and phase (R538). -/
theorem spdm_requests {req : List Byte} {m : Instr × Nat × Nat × Nat}
    (hm : m ∈ [(Instr.getVersion req, 0x84, 0x10, 0), (.getCapabilities req, 0xE1, 0x12, 1), (.negotiateAlgorithms req, 0xE3, 0x12, 2),
      (.getDigests req, 0x81, 0x12, 3), (.getCertificate req, 0x82, 0x12, 3), (.challenge req, 0x83, 0x12, 3),
      (.getMeasurements req, 0xE0, 0x12, 3)]) (s : State) :
    ∃ e, exec m.1 s = .next { s with d := e } ∧ s.d.spdmRule e m.2.1 m.2.2.1 m.2.2.2 req := by
  simp only [List.mem_cons, List.not_mem_nil, or_false] at hm
  obtain rfl | rfl | rfl | rfl | rfl | rfl | rfl := hm
  · exact ⟨_, rfl, Dev.spdm_rule _ _ _ _ _ fun d => ⟨_, rfl⟩⟩
  · exact ⟨_, rfl, Dev.spdm_rule _ _ _ _ _ fun d => ⟨_, rfl⟩⟩
  · exact ⟨_, rfl, Dev.spdm_rule _ _ _ _ _ fun d => ⟨_, rfl⟩⟩
  · exact ⟨_, rfl, Dev.spdm_rule _ _ _ _ _ fun d => ⟨_, rfl⟩⟩
  · refine ⟨_, rfl, Dev.spdm_rule _ _ _ _ _ fun d => ?_⟩
    dsimp only
    split
    · exact ⟨_, Dev.answered_of rfl _⟩
    · exact ⟨_, Dev.answered_of rfl _⟩
  · refine ⟨_, rfl, Dev.spdm_rule _ _ _ _ _ fun d => ?_⟩
    dsimp only
    split
    · exact ⟨_, Dev.answered_of rfl _⟩
    · exact ⟨_, Dev.answered_of rfl _⟩
  · refine ⟨_, rfl, Dev.spdm_rule _ _ _ _ _ fun d => ?_⟩
    dsimp only
    split
    · exact ⟨_, Dev.answered_of rfl _⟩
    · cases bit (leAt req 2 1) 0
      · exact ⟨_, Dev.answered_of rfl _⟩
      · exact ⟨_, Dev.answered_of rfl _⟩

end Sys2Proof.Machine

open Sys2Proof Sys2Proof.Machine

/-- Settles O46: each request is refused or answered once, and each answer is written out. -/
theorem spdmMessages : Obligations.SpdmMessages := by
  unfold Obligations.SpdmMessages
  refine ⟨?rule, ?answers⟩
  case rule =>
    intro s req m hm
    obtain ⟨e, hx, hshape, hclosed, hrefused, hanswers⟩ := spdm_requests hm s
    refine ⟨_, hx, congrArg (fun d => ({ s with d := d } : State)) hshape, fun ho => by rw [hclosed ho], fun ho x h => ?_, hanswers⟩
    rw [hrefused ho x (Dev.spdmRefusal_of h)]
    rfl
  case answers =>
    intro s req ho hb hl op
    refine ⟨?version, ?caps, ?algs, ?digests, ?cert, ?challenge, ?meas⟩
    case version =>
      intro hw
      have hx := exec_onDev (s := s) (i := .getVersion req) (f := effGetVersion req) rfl
        (Dev.spdm_passes ho hb hl hw (by decide) (Nat.zero_le _) _)
      exact ⟨_, hx, rfl, rfl⟩
    case caps =>
      intro hw hp
      have hx := exec_onDev (s := s) (i := .getCapabilities req) (f := effGetCapabilities req) rfl
        (Dev.spdm_passes ho hb hl hw (by decide) hp _)
      exact ⟨_, _, hx, rfl, ⟨_, rfl⟩, rfl⟩
    case algs =>
      intro hw hp
      have hx := exec_onDev (s := s) (i := .negotiateAlgorithms req) (f := effNegotiateAlgorithms req) rfl
        (Dev.spdm_passes ho hb hl hw (by decide) hp _)
      exact ⟨_, _, hx, rfl, ⟨_, rfl⟩, rfl⟩
    case digests =>
      intro hw hp hc
      have hx := exec_onDev (s := s) (i := .getDigests req) (f := effGetDigests req) rfl
        (Dev.spdm_passes ho hb hl hw (by decide) hp _)
      have hcert : s.d.hasCert = true := by simpa [Dev.hasCert] using hc
      refine ⟨_, hx, ?_⟩
      dsimp only
      rw [hcert]
      rfl
    case cert =>
      intro hw hp h0 hc n
      have hx := exec_onDev (s := s) (i := .getCertificate req) (f := effGetCertificate req) rfl
        (Dev.spdm_passes ho hb hl hw (by decide) hp _)
      have hne : s.d.sec.cert ≠ [] := fun h => by simp [h] at hc
      refine ⟨_, hx, ?_⟩
      dsimp only
      rw [if_neg (by simp [h0, Dev.hasCert, hne, hc])]
      rfl
    case challenge =>
      intro hw hp h0 hc hpub
      obtain ⟨r, ha, hr, hsp⟩ := effChallenge_answers req h0 hc hpub ho hb hl hw hp
      exact ⟨_, r, exec_onDev (f := effChallenge req) rfl rfl, by rw [ha], hr, hsp⟩
    case meas =>
      intro hw hp hop hpub b
      obtain ⟨r, ha, hr⟩ := effGetMeasurements_answers req hop hpub ho hb hl hw hp
      refine ⟨_, r, exec_onDev (f := effGetMeasurements req) rfl rfl, by rw [ha], ?_⟩
      have hk : s.d.asked op = (if op = 0 then 0 else if op = 0xFF then 5 else 1, b) := by
        unfold Dev.asked
        simp only [b]
        split_ifs <;> rfl
      rw [hk] at hr
      exact hr

end

section
/-! SUPPORT. The commands of SEC_HCMD and their ends (O45). -/

namespace Sys2Proof.Machine

/-! ## Commands that are taken (R536, R537, R540) -/

theorem Dev.blockWrite_secHcmd (d : Dev) (lk : Locked) (v : Nat) : d.blockWrite lk .sec 0 0x148 v = d.secHcmd lk v := by
  simp only [Dev.blockWrite]
  rfl

/-- A command in progress, with BUSY. -/
def Dev.secStart (d : Dev) (c : SecCmd) : Dev := { d.setReg .sec 0 0x14C (2 ^ 31) with sec := { d.sec with cmd := some c } }

/-- The checks read the firmware's world and three registers. -/
theorem Dev.secCheck_congr {d e : Dev} (hs : e.sec = d.sec) (h100 : e.reg .sec 0 0x100 = d.reg .sec 0 0x100)
    (h104 : e.reg .sec 0 0x104 = d.reg .sec 0 0x104) (h108 : e.reg .sec 0 0x108 = d.reg .sec 0 0x108) (op : Nat) (x : List Byte) :
    e.secCheck op x = d.secCheck op x := by
  have hv (t : List Nat) : e.fwVerifies x t = d.fwVerifies x t := by
    rw [Dev.fwVerifies, Dev.fwSigners, Dev.idDigest, hs]
    rfl
  have hd : e.idDigest = d.idDigest := by rw [Dev.idDigest, hs, Dev.idDigest]
  have hf : e.flag .sec 0 0x100 3 = d.flag .sec 0 0x100 3 := by rw [Dev.flag, h100, Dev.flag]
  unfold Dev.secCheck
  rw [hf, hd, hs, h104, h108]
  simp only [hv]

/-- The address of the item that a command names. -/
def Dev.mailAddr (d : Dev) (op : Nat) : Nat := if op = 4 then 0 else d.reg .sec 0 0x140 + 2 ^ 32 * d.reg .sec 0 0x144

/-- The RESULT that a command will give, unless its item does not read back (R536, R537). -/
def Dev.secResult (d : Dev) (lk : Locked) (op len : Nat) : Nat :=
  if d.secAllowed op = false then 4
  else match (d.mailItem lk (d.mailAddr op) len).1 with
    | none => 1
    | some x => d.secCheck op x

theorem Dev.mailItem_keeps (d : Dev) (lk : Locked) (a n : Nat) : d.readKeeps (d.mailItem lk a n).2 :=
  Dev.readKeeps_busRead lk d .imond 0 a n _

theorem Dev.readKeeps.secCheck {d e : Dev} (h : d.readKeeps e) (op : Nat) (x : List Byte) : e.secCheck op x = d.secCheck op x :=
  Dev.secCheck_congr (by rw [h.shape]) (h.regs _ _ _ (by decide +kernel)) (h.regs _ _ _ (by decide +kernel))
    (h.regs _ _ _ (by decide +kernel)) op x

/-- The flash offset is read, or is a free value. -/
theorem Dev.flashOff_spec (d : Dev) (t : Nat) : (d.flashOff t).2 = { d with fresh := (d.flashOff t).2.fresh } := by
  unfold Dev.flashOff
  split <;> rfl

theorem Dev.secHcmd_busy {d : Dev} (h : d.flag .sec 0 0x14C 31 = true) (lk : Locked) (v : Nat) :
    d.secHcmd lk v = d.err .sec 0 errState 0x148 := by
  unfold Dev.secHcmd
  rw [if_pos h]

theorem Dev.secHcmd_long {d : Dev} {v : Nat} (h : d.flag .sec 0 0x14C 31 = false) (hl : 0x800000 < bits v 23 0) (lk : Locked) :
    d.secHcmd lk v = d.err .sec 0 errValue 0x148 := by
  unfold Dev.secHcmd
  dsimp only
  rw [if_neg (by rw [h]; decide), if_pos (by simp [hl])]

/-- A command that is neither too long nor met by another is taken with its RESULT. -/
theorem Dev.secHcmd_taken {d : Dev} {v : Nat} (h : d.flag .sec 0 0x14C 31 = false) (hop : 1 ≤ bits v 31 28 ∧ bits v 31 28 ≤ 4)
    (hl : bits v 23 0 ≤ 0x800000) (lk : Locked) : ∃ (e : Dev) (c : SecCmd), d.secHcmd lk v = e.secStart c ∧ e.sec = d.sec ∧ c.op = bits v 31 28 ∧
      c.result = d.secResult lk (bits v 31 28) (bits v 23 0) := by
  unfold Dev.secHcmd
  dsimp only
  rw [if_neg (by rw [h]; decide), if_neg (by simp; omega)]
  cases ha : d.secAllowed (bits v 31 28)
  · exact ⟨d, _, rfl, rfl, rfl, by simp [Dev.secResult, ha]⟩
  · rw [if_neg (by decide)]
    have hk := d.mailItem_keeps lk (d.mailAddr (bits v 31 28)) (bits v 23 0)
    have hr : d.secResult lk (bits v 31 28) (bits v 23 0) = (match (d.mailItem lk (d.mailAddr (bits v 31 28)) (bits v 23 0)).1 with
      | none => 1 | some x => d.secCheck (bits v 31 28) x) := by
      unfold Dev.secResult
      rw [if_neg (by rw [ha]; decide)]
    rw [hr]
    have hm : (if bits v 31 28 = 4 then 0 else d.reg .sec 0 0x140 + 2 ^ 32 * d.reg .sec 0 0x144) = d.mailAddr (bits v 31 28) := rfl
    rw [hm]
    generalize d.mailItem lk (d.mailAddr (bits v 31 28)) (bits v 23 0) = m at *
    obtain ⟨x, e⟩ := m
    have hk : d.readKeeps e := hk
    have hsec : e.sec = d.sec := by rw [hk.shape]
    cases x with
    | none => exact ⟨e, _, rfl, hsec, rfl, rfl⟩
    | some x =>
      dsimp only
      by_cases h4 : bits v 31 28 = 4
      · rw [if_pos h4]
        exact ⟨e, _, rfl, hsec, rfl, hk.secCheck _ x⟩
      · rw [if_neg h4]
        generalize (if bits v 31 28 = 1 then if e.flag .sec 0 0x100 3 = true then 5 else 6
          else if bits v 31 28 = 2 then 4 else 7) = t
        have hf := e.flashOff_spec t
        generalize e.flashOff t = f at *
        obtain ⟨o, f⟩ := f
        obtain ⟨k, rfl⟩ : ∃ k, f = { e with fresh := k } := ⟨_, hf⟩
        exact ⟨{ e with fresh := k }, _, rfl, hsec, rfl, hk.secCheck _ x⟩

/-- The word of SEC_HCMD with an operation and a length. -/
theorem secWord_bits {op len : Nat} (hop : op ≤ 4) (hl : len < 2 ^ 24) :
    bits (op * 2 ^ 28 + len % 2 ^ 24) 31 28 = op ∧ bits (op * 2 ^ 28 + len % 2 ^ 24) 23 0 = len ∧
      op * 2 ^ 28 + len % 2 ^ 24 < 2 ^ 32 := by
  have h28 : (2 : Nat) ^ 28 = 268435456 := rfl
  have h24 : (2 : Nat) ^ 24 = 16777216 := rfl
  have h32 : (2 : Nat) ^ 32 = 4294967296 := rfl
  simp only [bits, Nat.shiftRight_eq_div_pow]
  rw [h28, h24, h32] at *
  norm_num
  omega

/-! ## The end of a command (R537) -/

/-- The RESULT of a command that ends: 3 where its item did not read back as it was written. -/
def SecCmd.final (c : SecCmd) (ok : Bool) : Nat := if (c.result == 0 && c.op != 4) && !ok then 3 else c.result

/-- A command has ended: the flash is written, the RESULT and the event stand, and a raised floor is in force. -/
def Dev.cmdEnded (d : Dev) (c : SecCmd) (ok : Bool) : Dev :=
  let d := { d with sec := { d.sec with cmd := none } }
  let d := if c.result == 0 && c.op != 4 then d.emit (.flashWrite c.off c.item) else d
  let d := ((d.setReg .sec 0 0x14C (c.final ok)).sticky .sec 0 2).post .sec 0 0x0A 2 0 (layout 20 [(0, 1, c.op), (1, 1, c.final ok)])
  if c.op = 2 && c.final ok = 0 then d.setReg .sec 0 0x108 c.floor else d

theorem effCmdDone_eq {d : Dev} {c : SecCmd} (h : d.sec.cmd = some c) (ok : Bool) (lk : Locked) :
    effCmdDone ok lk d = if c.op = 4 && c.final ok = 0 then startFirmware c.item lk ((d.cmdEnded c ok).setFld .sec 0 0x100 4 4 1)
      else (lk, d.cmdEnded c ok) := by
  simp only [effCmdDone, h]
  rfl

/-- What the end of a command leaves of the rest. -/
def Dev.ended (d : Dev) (c : SecCmd) : Dev :=
  { d with sec := { d.sec with cmd := none }
           out := if c.result == 0 && c.op != 4 then d.out ++ [.flashWrite c.off c.item] else d.out }

theorem Dev.cmdEnded_spec (d : Dev) (c : SecCmd) (ok : Bool) (hr : c.final ok < 16) :
    d.cmdEnded c ok = { d.ended c with rg := (d.cmdEnded c ok).rg, pci := (d.cmdEnded c ok).pci } ∧ d.keepsPci (d.cmdEnded c ok) ∧
    (d.cmdEnded c ok).reg .sec 0 0x14C = c.final ok ∧ (d.cmdEnded c ok).flag .sec 0 0x160 2 = true ∧
    (d.cmdEnded c ok).reg .sec 0 0x108 = (if c.op = 2 ∧ c.final ok = 0 then c.floor % 2 ^ 32 else d.reg .sec 0 0x108) ∧
    d.keepsRegs (d.cmdEnded c ok) (evtRegs ++ [(.sec, 0, 0x14C), (.sec, 0, 0x160), (.sec, 0, 0x020), (.sec, 0, 0x108)]) := by
  have he : (if c.result == 0 && c.op != 4 then Dev.emit { d with sec := { d.sec with cmd := none } } (.flashWrite c.off c.item)
      else { d with sec := { d.sec with cmd := none } }) = d.ended c := by
    unfold Dev.ended
    split <;> rfl
  have hrg : d.keepsRegs (d.ended c) (evtRegs ++ [(.sec, 0, 0x14C), (.sec, 0, 0x160), (.sec, 0, 0x020), (.sec, 0, 0x108)]) :=
    Dev.keepsRegs_of_rg rfl _
  have hpci : d.keepsPci (d.ended c) := Dev.keepsPci_of_pci rfl
  unfold Dev.cmdEnded
  dsimp only
  rw [he]
  have h108 : (d.ended c).reg .sec 0 0x108 = d.reg .sec 0 0x108 := Dev.reg_congr rfl _ _ _
  generalize d.ended c = e at *
  have hreg : e.regsOnly ((e.setReg .sec 0 0x14C (c.final ok)).sticky .sec 0 2) := (e.setReg_regsOnly ..).trans (Dev.sticky_regsOnly ..)
  have hfl := (e.setReg .sec 0 0x14C (c.final ok)).flag_sticky_self .sec 0 (b := 2) (by decide) 2
  have hk : e.keepsRegs ((e.setReg .sec 0 0x14C (c.final ok)).sticky .sec 0 2)
      (evtRegs ++ [(.sec, 0, 0x14C), (.sec, 0, 0x160), (.sec, 0, 0x020), (.sec, 0, 0x108)]) :=
    (e.keepsRegs_setReg _ _ _ _ (by simp)).trans (Dev.keepsRegs_sticky _ _ _ _ (by simp) (by simp))
  have h14C : ((e.setReg .sec 0 0x14C (c.final ok)).sticky .sec 0 2).reg .sec 0 0x14C = c.final ok := by
    rw [Dev.reg_sticky_ne _ _ (by simp) (by simp), Dev.reg_setReg_self]
    exact Nat.mod_eq_of_lt (hr.trans (by decide))
  have h108' : ((e.setReg .sec 0 0x14C (c.final ok)).sticky .sec 0 2).reg .sec 0 0x108 = e.reg .sec 0 0x108 := by simp
  generalize (e.setReg .sec 0 0x14C (c.final ok)).sticky .sec 0 2 = f at *
  obtain ⟨h1, h2⟩ := Dev.postAfter_spec hreg .sec 0 0x0A 2 0 (layout 20 [(0, 1, c.op), (1, 1, c.final ok)])
  have hp := f.keepsRegs_post .sec 0 0x0A 2 0 (layout 20 [(0, 1, c.op), (1, 1, c.final ok)]) (List.Subset.refl evtRegs)
  have hfl2 : (f.post .sec 0 0x0A 2 0 (layout 20 [(0, 1, c.op), (1, 1, c.final ok)])).flag .sec 0 0x160 2 = true := by
    rw [Dev.flag, Dev.reg_post_ne _ _ _ _ _ (by decide) (by decide) (by decide)]
    exact hfl.trans (by simp)
  generalize f.post .sec 0 0x0A 2 0 (layout 20 [(0, 1, c.op), (1, 1, c.final ok)]) = g at *
  have g14C : g.reg .sec 0 0x14C = c.final ok := (hp _ _ _ (by simp [evtRegs, RegAt.addr])).trans h14C
  have g108 : g.reg .sec 0 0x108 = d.reg .sec 0 0x108 :=
    (hp _ _ _ (by simp [evtRegs, RegAt.addr])).trans (h108'.trans h108)
  have hg := (hrg.trans hk).trans (hp.mono (List.subset_append_left _ _))
  by_cases hc : c.op = 2 ∧ c.final ok = 0
  · rw [if_pos (by simpa using hc), if_pos hc]
    have hs := g.setReg_regsOnly .sec 0 0x108 c.floor
    have hs' := hg.trans (g.keepsRegs_setReg .sec 0 0x108 c.floor (by simp))
    have hs14C : (g.setReg .sec 0 0x108 c.floor).reg .sec 0 0x14C = c.final ok := by simpa using g14C
    have hsfl : (g.setReg .sec 0 0x108 c.floor).flag .sec 0 0x160 2 = true := by simpa [Dev.flag] using hfl2
    have hs108 := g.reg_setReg_self .sec 0 0x108 c.floor
    generalize g.setReg .sec 0 0x108 c.floor = x at *
    obtain ⟨r, p, rfl⟩ : ∃ r p, g = { e with rg := r, pci := p } := ⟨_, _, h1⟩
    obtain ⟨r', rfl⟩ : ∃ r', x = { e with rg := r', pci := p } := ⟨_, hs⟩
    exact ⟨rfl, hpci.trans h2, hs14C, hsfl, hs108, hs'⟩
  · rw [if_neg (by simpa using hc), if_neg hc]
    exact ⟨h1, hpci.trans h2, g14C, hfl2, g108, hg⟩

/-! ## A firmware that starts without a configuration record (R534, R536) -/

theorem Dev.withFirmware_spec (d : Dev) (fw : List Byte) :
    d.withFirmware fw = { d with rg := (d.withFirmware fw).rg, sec := { d.sec with meas := (d.withFirmware fw).sec.meas } } ∧
    d.keepsRegs (d.withFirmware fw) [(.sec, 0, 0x104), (.sec, 0, 0x100)] ∧
    (d.withFirmware fw).reg .sec 0 0x104 = itemVersion fw % 2 ^ 32 ∧
    (d.withFirmware fw).stage = 1 ∧ ∀ hi lo, 2 < lo → (d.withFirmware fw).fld .sec 0 0x100 hi lo = d.fld .sec 0 0x100 hi lo := by
  have h0 := (d.setReg_regsOnly .sec 0 0x104 (itemVersion fw)).trans (Dev.setFld_regsOnly _ .sec 0 0x100 2 0 1)
  have hk : d.keepsRegs ((d.setReg .sec 0 0x104 (itemVersion fw)).setFld .sec 0 0x100 2 0 1) [(.sec, 0, 0x104), (.sec, 0, 0x100)] :=
    (d.keepsRegs_setReg _ _ _ _ (by simp)).trans (Dev.keepsRegs_setFld _ _ _ _ _ _ _ (by simp))
  have hv : ((d.setReg .sec 0 0x104 (itemVersion fw)).setFld .sec 0 0x100 2 0 1).reg .sec 0 0x104 = itemVersion fw % 2 ^ 32 := by simp
  have hs : ((d.setReg .sec 0 0x104 (itemVersion fw)).setFld .sec 0 0x100 2 0 1).stage = 1 := by simp [Dev.stage, Dev.fld]
  have hf (hi lo : Nat) (h : 2 < lo) : ((d.setReg .sec 0 0x104 (itemVersion fw)).setFld .sec 0 0x100 2 0 1).fld .sec 0 0x100 hi lo =
      d.fld .sec 0 0x100 hi lo := by
    rw [Dev.fld, Dev.reg_setFld_same _ _ _ _ _ _ _ (by decide) (by decide), bits_putBits_other _ _ (by decide) (.inr h),
      Dev.reg_setReg_ne _ _ (by simp), Dev.fld]
  unfold Dev.withFirmware
  dsimp only
  generalize (d.setReg .sec 0 0x104 (itemVersion fw)).setFld .sec 0 0x100 2 0 1 = e at *
  generalize e.measure fw = m
  obtain ⟨r, rfl⟩ : ∃ r, e = { d with rg := r } := ⟨_, h0⟩
  exact ⟨rfl, hk, hv, hs, hf⟩

theorem Dev.cfgVerifies_congr {d e : Dev} (hc : e.sec.cfg = d.sec.cfg) (hp : e.sec.pub = d.sec.pub)
    (ho : e.sec.ownerKeys = d.sec.ownerKeys) : e.cfgVerifies = d.cfgVerifies := by
  rw [Dev.cfgVerifies, Dev.cfgVerifies, Dev.idDigest, Dev.idDigest, hc, hp, ho]

theorem startFirmware_plain {d : Dev} (fw : List Byte) (lk : Locked) (hc : d.cfgVerifies = false) (hh : d.pwr.held = false) :
    startFirmware fw lk d = (lk, ((d.withFirmware fw).sticky .sec 0 1).toRun lk) := by
  obtain ⟨hs, -⟩ := d.withFirmware_spec fw
  have hcfg : (d.withFirmware fw).cfgVerifies = false := by
    rw [← hc]
    exact Dev.cfgVerifies_congr (by rw [hs]) (by rw [hs]) (by rw [hs])
  have hp : ((d.withFirmware fw).sticky .sec 0 1).pwr.held = false := by
    rw [Dev.sticky_pwr, hs]
    exact hh
  have ha : (d.withFirmware fw).applyConfig lk = (lk, (d.withFirmware fw).sticky .sec 0 1) := by
    unfold Dev.applyConfig
    dsimp only
    rw [if_neg (by rw [hcfg]; decide)]
  rw [startFirmware_eq, ha]
  dsimp only
  rw [if_neg (by rw [hp]; decide)]

/-- The end of a boot: the memory controller is enabled when its shares are locked, and the firmware goes on to RUN unless it
waits for it (R534, R437). -/
theorem Dev.toRun_spec (d : Dev) (lk : Locked) (h1 : d.stage = 1) :
    d.toRun lk = { d with rg := (d.toRun lk).rg, ms := (d.toRun lk).ms } ∧
    d.keepsRegs (d.toRun lk) [(.mem, 0, 0x100), (.mem, 0, 0x028), (.mem, 0, 0x02C), (.sec, 0, 0x100)] ∧
    (d.toRun lk).stage =
      (if lk.isLocked = false ∧ d.flag .mem 0 0x100 0 = false ∨ d.flag .mem 0 0x104 0 = true then 2 else 1) ∧
    ∀ hi lo, 2 < lo → (d.toRun lk).fld .sec 0 0x100 hi lo = d.fld .sec 0 0x100 hi lo := by
  have hbit : bit (d.reg .mem 0 0x100 ||| 1) 0 = true := by
    have := bit_or_two_pow (d.reg .mem 0 0x100) 0 0
    simpa using this
  have hm : d.memCtrl lk (d.reg .mem 0 0x100 ||| 1) = { d with
        rg := (d.memCtrl lk (d.reg .mem 0 0x100 ||| 1)).rg, ms := (d.memCtrl lk (d.reg .mem 0 0x100 ||| 1)).ms } ∧
      d.keepsRegs (d.memCtrl lk (d.reg .mem 0 0x100 ||| 1)) [(.mem, 0, 0x100), (.mem, 0, 0x028), (.mem, 0, 0x02C)] ∧
      (d.memCtrl lk (d.reg .mem 0 0x100 ||| 1)).flag .mem 0 0x100 0 = !(!lk.isLocked && !d.flag .mem 0 0x100 0) := by
    generalize d.reg .mem 0 0x100 ||| 1 = v at *
    cases hf : d.flag .mem 0 0x100 0
    · cases hl : lk.isLocked
      · rw [Dev.memCtrl_unlocked hf hbit hl]
        have h2 := (d.setFld_regsOnly .mem 0 0x100 2 1 (bits v 2 1)).trans (Dev.err_regsOnly _ .mem 0 errState 0x100)
        have hk : d.keepsRegs ((d.setFld .mem 0 0x100 2 1 (bits v 2 1)).err .mem 0 errState 0x100)
            [(.mem, 0, 0x100), (.mem, 0, 0x028), (.mem, 0, 0x02C)] :=
          (d.keepsRegs_setFld _ _ _ _ _ _ (by simp)).trans (Dev.keepsRegs_err _ _ _ _ _ (by simp) (by simp))
        have hfl : ((d.setFld .mem 0 0x100 2 1 (bits v 2 1)).err .mem 0 errState 0x100).flag .mem 0 0x100 0 = false := by
          rw [← hf]; simp [Dev.flag]
        generalize (d.setFld .mem 0 0x100 2 1 (bits v 2 1)).err .mem 0 errState 0x100 = e at *
        obtain ⟨r, rfl⟩ : ∃ r, e = { d with rg := r } := ⟨_, h2⟩
        exact ⟨rfl, hk, hfl⟩
      · rw [Dev.memCtrl_locked hf hbit hl]
        have hk : d.keepsRegs ((d.setFld .mem 0 0x100 2 1 (bits v 2 1)).setFld .mem 0 0x100 0 0 1)
            [(.mem, 0, 0x100), (.mem, 0, 0x028), (.mem, 0, 0x02C)] :=
          (d.keepsRegs_setFld _ _ _ _ _ _ (by simp)).trans (Dev.keepsRegs_setFld _ _ _ _ _ _ _ (by simp))
        have hfl : ((d.setFld .mem 0 0x100 2 1 (bits v 2 1)).setFld .mem 0 0x100 0 0 1).flag .mem 0 0x100 0 = true := by
          simp [Dev.flag]
        have h2 := (d.setFld_regsOnly .mem 0 0x100 2 1 (bits v 2 1)).trans (Dev.setFld_regsOnly _ .mem 0 0x100 0 0 1)
        generalize (d.setFld .mem 0 0x100 2 1 (bits v 2 1)).setFld .mem 0 0x100 0 0 1 = e at *
        obtain ⟨r, rfl⟩ : ∃ r, e = { d with rg := r } := ⟨_, h2⟩
        exact ⟨rfl, hk, hfl⟩
    · have he : d.memCtrl lk v = d.err .mem 0 errState 0x100 := by simp [Dev.memCtrl, hf]
      rw [he]
      have h2 := d.err_regsOnly .mem 0 errState 0x100
      have hk : d.keepsRegs (d.err .mem 0 errState 0x100) [(.mem, 0, 0x100), (.mem, 0, 0x028), (.mem, 0, 0x02C)] :=
        d.keepsRegs_err _ _ _ _ (by simp) (by simp)
      have hfl : (d.err .mem 0 errState 0x100).flag .mem 0 0x100 0 = true := by
        rw [← hf]; simp [Dev.flag]
      generalize d.err .mem 0 errState 0x100 = e at *
      obtain ⟨r, rfl⟩ : ∃ r, e = { d with rg := r } := ⟨_, h2⟩
      exact ⟨rfl, hk, by rw [hfl]; simp⟩
  unfold Dev.toRun
  dsimp only
  generalize d.memCtrl lk (d.reg .mem 0 0x100 ||| 1) = m at *
  obtain ⟨hs, hk, hfl⟩ := hm
  have h104 : m.flag .mem 0 0x104 0 = d.flag .mem 0 0x104 0 := by
    rw [Dev.flag, hk _ _ _ (by simp [RegAt.addr]), Dev.flag]
  have h100 : m.reg .sec 0 0x100 = d.reg .sec 0 0x100 := hk _ _ _ (by simp [RegAt.addr])
  rw [hfl, h104]
  have hiff : (!(!(!lk.isLocked && !d.flag .mem 0 0x100 0)) || d.flag .mem 0 0x104 0) = true ↔
      (lk.isLocked = false ∧ d.flag .mem 0 0x100 0 = false ∨ d.flag .mem 0 0x104 0 = true) := by simp
  have hsub : [(.mem, 0, 0x100), (.mem, 0, 0x028), (.mem, 0, 0x02C)] ⊆
      ([(.mem, 0, 0x100), (.mem, 0, 0x028), (.mem, 0, 0x02C), (.sec, 0, 0x100)] : List RegAt) := by simp
  by_cases hc : (!(!(!lk.isLocked && !d.flag .mem 0 0x100 0)) || d.flag .mem 0 0x104 0) = true
  · rw [if_pos hc, if_pos (hiff.mp hc)]
    refine ⟨?_, (hk.mono hsub).trans (m.keepsRegs_setFld _ _ _ _ _ _ (by simp)), ?_, fun hi lo h => ?_⟩
    · have h2 := m.setFld_regsOnly .sec 0 0x100 2 0 2
      generalize m.setFld .sec 0 0x100 2 0 2 = e at *
      obtain ⟨r, x, rfl⟩ : ∃ r x, m = { d with rg := r, ms := x } := ⟨_, _, hs⟩
      obtain ⟨r', rfl⟩ : ∃ r', e = { d with rg := r', ms := x } := ⟨_, h2⟩
      rfl
    · simp [Dev.stage, Dev.fld]
    · rw [Dev.fld, Dev.reg_setFld_same _ _ _ _ _ _ _ (by decide) (by decide), bits_putBits_other _ _ (by decide) (.inr h), h100,
        Dev.fld]
  · rw [if_neg hc, if_neg (fun h => hc (hiff.mpr h))]
    exact ⟨hs, hk.mono hsub, by rw [Dev.stage, Dev.fld, h100]; exact h1, fun hi lo _ => by rw [Dev.fld, h100, Dev.fld]⟩

end Sys2Proof.Machine

open Sys2Proof Sys2Proof.Machine

/-- Settles O45: a command is refused or taken once, and its end is one write of the flash and one RESULT. -/
theorem secCommands : Obligations.SecCommands := by
  unfold Obligations.SecCommands
  refine ⟨?taken, ?done⟩
  case taken =>
    intro s w len c hc hl hw m
    have hop : 1 ≤ c.1 ∧ c.1 ≤ 4 := by fin_cases hc <;> simp
    obtain ⟨b1, b2, b3⟩ := secWord_bits hop.2 hl
    have he : exec c.2 s = .next (s.onAll (writeReg w .sec 0 0x148 (c.1 * 2 ^ 28 + len % 2 ^ 24))) := by
      fin_cases hc <;> rfl
    have hx := exec_blockWrite he hw rfl b3 (by decide) (fun _ => by decide) (by simp) (by simp)
    rw [Dev.blockWrite_secHcmd] at hx
    generalize c.1 * 2 ^ 28 + len % 2 ^ 24 = v at *
    have herr (code : Nat) : s.d.keepsRegs (s.d.err .sec 0 code 0x148) [(.sec, 0, 0x028), (.sec, 0, 0x02C)] :=
      s.d.keepsRegs_err _ _ _ _ (by simp) (by simp)
    refine ⟨_, hx, rfl, rfl, fun hb => ?_, fun hb hlong => ?_, fun hb hlen => ?_⟩
    · rw [Dev.secHcmd_busy hb]
      exact ⟨congrArg (fun d => ({ s with d := d } : State)) (s.d.err_regsOnly ..), by simp, herr _⟩
    · rw [Dev.secHcmd_long hb (by omega)]
      exact ⟨congrArg (fun d => ({ s with d := d } : State)) (s.d.err_regsOnly ..), by simp, herr _⟩
    · obtain ⟨e, k, h1, h2, h3, h4⟩ := Dev.secHcmd_taken (v := v) hb (by omega) (by omega) s.lk
      rw [h1]
      refine ⟨?_, ?_, ?_⟩
      · change (e.setReg .sec 0 0x14C (2 ^ 31)).reg .sec 0 0x14C = 2 ^ 31
        simp
      · simp only [Dev.secStart, h2]
      · rw [b1, b2] at h4
        simp only [Dev.secStart, Option.map_some, h3, h4, b1]
        rfl
  case done =>
    intro s ok k hk hr wrote r
    have hwrote : (k.result == 0 && k.op != 4) = decide wrote := by
      by_cases h1 : k.result = 0 <;> by_cases h2 : k.op = 4 <;> simp [wrote, h1, h2]
    have hr' : k.final ok = r := by simp [SecCmd.final, r, hwrote]
    have hx : exec (.cmdDone ok) s = .next (s.onAll (effCmdDone ok)) := rfl
    obtain ⟨h1, h2, h3, h4, h5, h6⟩ := s.d.cmdEnded_spec k ok (by rw [hr']; simp only [r]; split <;> omega)
    rw [hr'] at h3 h5
    have hend : s.d.ended k = { s.d with
        sec := { s.d.sec with cmd := none }
        out := if wrote then s.d.out ++ [.flashWrite k.off k.item] else s.d.out } := by
      simp [Dev.ended, hwrote]
    rw [hend] at h1
    by_cases hc : k.op = 4 ∧ r = 0
    · have he : effCmdDone ok s.lk s.d = startFirmware k.item s.lk ((s.d.cmdEnded k ok).setFld .sec 0 0x100 4 4 1) := by
        rw [effCmdDone_eq hk, if_pos (by simpa [hr'] using hc)]
      refine ⟨_, hx, rfl, fun h => absurd hc h, fun _ hcfg hheld => ?_⟩
      rw [State.onAll, he]
      have hs := (s.d.cmdEnded k ok).setFld_regsOnly .sec 0 0x100 4 4 1
      have hfl : ((s.d.cmdEnded k ok).setFld .sec 0 0x100 4 4 1).fld .sec 0 0x100 4 4 = 1 := by
        rw [Dev.fld_setFld_self _ _ _ _ _ _ _ (by decide) (by decide)]
        rfl
      have hkm : s.d.keepsRegs ((s.d.cmdEnded k ok).setFld .sec 0 0x100 4 4 1)
          (evtRegs ++ [(.sec, 0, 0x14C), (.sec, 0, 0x160), (.sec, 0, 0x020), (.sec, 0, 0x108), (.sec, 0, 0x100)]) :=
        (h6.mono (by simp [evtRegs])).trans (Dev.keepsRegs_setFld _ _ _ _ _ _ _ (by simp))
      generalize (s.d.cmdEnded k ok).setFld .sec 0 0x100 4 4 1 = d at *
      generalize s.d.cmdEnded k ok = f at *
      obtain ⟨g, p, rfl⟩ : ∃ g p, f = { s.d with
        rg := g, pci := p, sec := { s.d.sec with cmd := none }
        out := if wrote then s.d.out ++ [.flashWrite k.off k.item] else s.d.out } := ⟨_, _, h1⟩
      have hsec : d.sec = { s.d.sec with cmd := none } := by rw [hs]
      have hcfg' : d.cfgVerifies = false := by
        rw [← hcfg]
        exact Dev.cfgVerifies_congr (by rw [hsec]) (by rw [hsec]) (by rw [hsec])
      rw [startFirmware_plain _ _ hcfg' (by rw [hs]; exact hheld)]
      obtain ⟨w1, w2, w3, w4, w5⟩ := d.withFirmware_spec k.item
      have wsec : (d.withFirmware k.item).sec.cmd = none := by rw [w1, hsec]
      generalize d.withFirmware k.item = e at *
      have hst : (e.sticky .sec 0 1).stage = 1 := by rw [← w4]; simp [Dev.stage, Dev.fld]
      obtain ⟨r1, r2, r3, r4⟩ := (e.sticky .sec 0 1).toRun_spec s.lk hst
      have hsf := e.flag_sticky_self .sec 0 (b := 1) (by decide) 1
      have hmem (o : Nat) (ho : o = 0x100 ∨ o = 0x104) : (e.sticky .sec 0 1).reg .mem 0 o = s.d.reg .mem 0 o := by
        obtain rfl | rfl := ho
        · rw [Dev.reg_sticky_ne _ _ (by simp) (by simp), w2 _ _ _ (by simp [RegAt.addr]), hkm _ _ _ (by simp [evtRegs, RegAt.addr])]
        · rw [Dev.reg_sticky_ne _ _ (by simp) (by simp), w2 _ _ _ (by simp [RegAt.addr]), hkm _ _ _ (by simp [evtRegs, RegAt.addr])]
      refine ⟨rfl, ?_, ?_, ?_, ?_, ?_⟩
      · have h4 := (r4 4 4 (by decide)).trans ((show (e.sticky .sec 0 1).fld .sec 0 0x100 4 4 = e.fld .sec 0 0x100 4 4 by
          simp [Dev.fld]).trans ((w5 4 4 (by decide)).trans hfl))
        rw [Dev.flag, bit]
        simpa [Dev.fld, bits, Nat.testBit, Nat.one_and_eq_mod_two, Nat.shiftRight_eq_div_pow] using h4
      · rw [r2 _ _ _ (by simp [RegAt.addr]), Dev.reg_sticky_ne _ _ (by simp) (by simp), w3]
      · rw [Dev.flag, r2 _ _ _ (by simp [RegAt.addr])]
        exact hsf.trans (by simp)
      · rw [r1]
        simpa using wsec
      · rw [r3, Dev.flag, Dev.flag, hmem _ (.inl rfl), hmem _ (.inr rfl), Dev.flag, Dev.flag]
    · have he : effCmdDone ok s.lk s.d = (s.lk, s.d.cmdEnded k ok) := by
        rw [effCmdDone_eq hk, if_neg (by simpa [hr'] using hc)]
      refine ⟨_, hx, rfl, fun _ => ?_, fun h => absurd h hc⟩
      rw [State.onAll, he]
      exact ⟨congrArg (fun d => ({ s with d := d } : State)) h1, h2, h3, h4, h5, h6⟩

end

section
/-! SUPPORT. Mirror pairs: binding, unbinding, taking over and the copy (O43). -/

namespace Sys2Proof.Machine

/-- A field of a register that has not changed. -/
theorem Dev.fld_of_reg {d e : Dev} {p : Page} {n o : Nat} (h : e.reg p n o = d.reg p n o) (hi lo : Nat) :
    e.fld p n o hi lo = d.fld p n o hi lo := by rw [Dev.fld, h, Dev.fld]

/-! ## WTN_HCMD (R498) -/

theorem Dev.blockWrite_wtnHcmd (d : Dev) (lk : Locked) (v : Nat) : d.blockWrite lk .wtn 0 0x144 v = d.wtnHcmd v := by
  simp only [Dev.blockWrite]
  rfl

/-- A command that ends with the RESULT `v`, where nothing but registers has changed. -/
theorem Dev.wtnResult_spec (d : Dev) {v : Nat} (hv : v < 16) : d.regsOnly (d.wtnResult v) ∧
    d.keepsRegs (d.wtnResult v) [(.wtn, 0, 0x148)] ∧ (d.wtnResult v).fld .wtn 0 0x148 3 0 = v ∧
    (d.wtnResult v).fld .wtn 0 0x148 17 16 = d.fld .wtn 0 0x148 17 16 := by
  unfold Dev.wtnResult
  refine ⟨(d.setFld_regsOnly ..).trans (Dev.setFld_regsOnly ..),
    (d.keepsRegs_setFld _ _ _ _ _ _ (by simp)).trans (Dev.keepsRegs_setFld _ _ _ _ _ _ _ (by simp)), ?_, ?_⟩
  · rw [Dev.fld_setFld_self _ _ _ _ _ _ _ (by decide) (by decide)]
    exact Nat.mod_eq_of_lt hv
  · simp [Dev.fld]

/-- The PAIR field of WTN_HCMD_STATUS. -/
theorem Dev.setPair_spec (d : Dev) {v : Nat} (hv : v < 4) : d.regsOnly (d.setPair v) ∧
    d.keepsRegs (d.setPair v) [(.wtn, 0, 0x148)] ∧ (d.setPair v).fld .wtn 0 0x148 17 16 = v := by
  unfold Dev.setPair
  refine ⟨d.setFld_regsOnly .., d.keepsRegs_setFld _ _ _ _ _ _ (by simp), ?_⟩
  rw [Dev.fld_setFld_self _ _ _ _ _ _ _ (by decide) (by decide)]
  exact Nat.mod_eq_of_lt hv

/-- A command that changes the pair: PAIR shows `k`, RESULT is 0, and the engine is `w`. -/
def Dev.pairEnd (d : Dev) (w : WtnSt) (k : Nat) : Dev := (Dev.setPair { d with wtn := w } k).wtnResult 0

theorem Dev.pairEnd_spec (d : Dev) (w : WtnSt) {k : Nat} (hk : k < 4) :
    d.pairEnd w k = { d with rg := (d.pairEnd w k).rg, wtn := w } ∧ d.keepsRegs (d.pairEnd w k) [(.wtn, 0, 0x148)] ∧
    (d.pairEnd w k).fld .wtn 0 0x148 3 0 = 0 ∧ (d.pairEnd w k).fld .wtn 0 0x148 17 16 = k := by
  obtain ⟨p1, p2, p3⟩ := Dev.setPair_spec { d with wtn := w } hk
  have h0 : d.keepsRegs { d with wtn := w } [(.wtn, 0, 0x148)] := Dev.keepsRegs_of_rg rfl _
  unfold Dev.pairEnd
  generalize Dev.setPair { d with wtn := w } k = e at *
  obtain ⟨r1, r2, r3, r4⟩ := e.wtnResult_spec (v := 0) (by decide)
  generalize e.wtnResult 0 = f at *
  obtain ⟨g, rfl⟩ : ∃ g, e = { d with rg := g, wtn := w } := ⟨_, p1⟩
  exact ⟨r1, (h0.trans p2).trans r2, r3, r4.trans p3⟩

theorem effUnbind_eq (d : Dev) : effUnbind d = if d.wtn.pair.isNone then d.wtnResult 2
    else d.pairEnd { d.wtn with pair := none, copy := none, mirq := [], full := false } 0 := rfl

/-- The engine after a BIND. -/
def WtnSt.bound (w : WtnSt) (i peer : Nat) : WtnSt :=
  { w with pair := some (i, peer), copy := some 0, mirq := [], full := false, cut := removeAll i w.cut }

theorem effBind_eq (d : Dev) (peer : Nat) : effBind peer d = if d.wtn.pair.isSome then d.wtnResult 3
    else match d.linkTo peer with
      | none => d.wtnResult 1
      | some i => d.pairEnd (d.wtn.bound i peer) 1 := by
  unfold effBind
  split
  · rfl
  · cases d.linkTo peer <;> rfl

/-- The effect of the operation `op` of WTN_HCMD with operand `a`. -/
def Dev.wtnCommand (d : Dev) (op a : Nat) : Dev :=
  match op with
  | 1 => effBind a d
  | 2 => effUnbind d
  | 3 => effTakeover d
  | _ => d.err .wtn 0 errValue 0x144

/-- WTN_HCMD takes a command while no other is in progress. -/
theorem exec_wtnHcmd {s : State} {i : Instr} {w : World} {op a : Nat} (hop : op < 4) (ha : a < 2 ^ 14)
    (hx : exec i s = .next (s.onAll (writeReg w .wtn 0 0x144 (op * 2 ^ 28 + a))))
    (hw : s.d.takesWrite s.lk w .wtn 0) (hb : s.d.flag .wtn 0 0x148 31 = false) :
    exec i s = .next { s with d := s.d.wtnCommand op a } := by
  have hv : bits (op * 2 ^ 28 + a) 31 28 = op ∧ bits (op * 2 ^ 28 + a) 13 0 = a ∧ op * 2 ^ 28 + a < 2 ^ 32 := by
    have h28 : (2 : Nat) ^ 28 = 268435456 := rfl
    have h14 : (2 : Nat) ^ 14 = 16384 := rfl
    have h32 : (2 : Nat) ^ 32 = 4294967296 := rfl
    simp only [bits, Nat.shiftRight_eq_div_pow]
    rw [h28, h32]
    rw [h14] at ha
    norm_num
    omega
  obtain ⟨b1, b2, b3⟩ := hv
  rw [exec_blockWrite hx hw rfl b3 (by decide) (fun _ => by decide) (by simp) (by simp), Dev.blockWrite_wtnHcmd]
  unfold Dev.wtnHcmd
  rw [if_neg (by rw [hb]; decide), b1, b2]
  rfl

/-! ## TAKEOVER (R497) -/

theorem Dev.usable_setReg_tko (d : Dev) (v i : Nat) : (d.setReg .wtn 0 0x14C v).usable i = d.usable i := by
  have hl (p : Nat) (hp : p < 8) : (d.setReg .wtn 0 0x14C v).linkOn p = d.linkOn p := by
    unfold Dev.linkOn Dev.ethPresent Dev.ethMode Dev.flag Dev.fld
    rw [Dev.reg_setReg_ne _ _ (by simp), Dev.reg_setReg_ne _ _ (by simp; omega), Dev.reg_setReg_ne _ _ (by simp; omega)]
  unfold Dev.usable
  dsimp only
  refine List.filter_congr fun p hp => ?_
  rw [hl p (List.mem_range.1 hp), Dev.reg_setReg_ne _ _ (by simp)]
  rfl

/-- The survivor cuts the link and drops the messages of its partner that wait. -/
def Dev.tkoCut (d : Dev) (i : Nat) : Dev :=
  { d with wtn := { d.wtn with
      wait := d.wtn.wait.filter fun m => !(leAt m.msg 0 1 % 16 == 3 && d.linkTo (leAt m.msg 2 2) == some i)
      cut := insertSorted i d.wtn.cut } }

/-- The last message applied, or a free value where there was none. -/
def Dev.tkoValue (d : Dev) (i : Nat) : Nat × Dev :=
  match (d.link i).applied with
  | some v => (v, d)
  | none => d.draw

/-- WTN_TKO_SEQ shows the last message applied. -/
def Dev.tkoStart (d : Dev) (i v : Nat) : Dev := (d.tkoCut i).setReg .wtn 0 0x14C v

/-- The end of a pair on the survivor. -/
def Dev.tkoEnd (d : Dev) (i peer v : Nat) : Dev :=
  ((d.wtnQueue { link := i, cls := 4 }).unpair.wtnResult 0).post .wtn 0 0x09 8 0 (layout 20 [(0, 2, peer), (4, 4, v)])

theorem effTakeover_paired {d : Dev} {i peer : Nat} (hp : d.wtn.pair = some (i, peer)) : effTakeover d =
    Dev.tkoEnd (((d.tkoCut i).tkoValue i).2.setReg .wtn 0 0x14C ((d.tkoCut i).tkoValue i).1) i peer ((d.tkoCut i).tkoValue i).1 := by
  unfold effTakeover
  split
  next h => exact absurd (hp.symm.trans h) (by simp)
  next i' peer' h =>
    obtain ⟨rfl, rfl⟩ := Prod.mk.inj (Option.some_inj.1 (hp.symm.trans h))
    rfl

theorem effTakeover_eq {d : Dev} {i peer a : Nat} (hp : d.wtn.pair = some (i, peer)) (ha : (d.link i).applied = some a) :
    effTakeover d = (d.tkoStart i a).tkoEnd i peer a := by
  have hl : ((d.tkoCut i).link i).applied = some a := ha
  have hv : (d.tkoCut i).tkoValue i = (a, d.tkoCut i) := by simp only [Dev.tkoValue, hl]
  rw [effTakeover_paired hp, hv]
  rfl

/-- A partner of which no message was applied leaves a free value. -/
theorem effTakeover_free {d : Dev} {i peer : Nat} (hp : d.wtn.pair = some (i, peer)) (ha : (d.link i).applied = none) :
    ∃ v, effTakeover d = (Dev.tkoStart { d with fresh := d.fresh + 1 } i v).tkoEnd i peer v := by
  have hl : ((d.tkoCut i).link i).applied = none := ha
  have hv : (d.tkoCut i).tkoValue i = (d.tkoCut i).draw := by simp only [Dev.tkoValue, hl]
  refine ⟨Config.freeNat d.fresh, ?_⟩
  rw [effTakeover_paired hp, hv]
  rfl

/-- A message that a port can take joins those that wait. -/
theorem Dev.wtnQueue_spec (d : Dev) (m : WtnTx) :
    d.wtnQueue m = { d with wtn := (d.wtnQueue m).wtn, sch := (d.wtnQueue m).sch } ∧
    (d.usable m.link ≠ [] → m ∈ (d.wtnQueue m).wtn.tx) := by
  have hq := ({ d with wtn := { d.wtn with tx := d.wtn.tx ++ [m] } } : Dev).wtnSweep_shape
  have hu : (Dev.usable { d with wtn := { d.wtn with tx := d.wtn.tx ++ [m] } } m.link) = d.usable m.link := Dev.usable_congr rfl rfl _
  unfold Dev.wtnQueue
  generalize Dev.wtnSweep { d with wtn := { d.wtn with tx := d.wtn.tx ++ [m] } } = e at *
  generalize e.wtn.reqs = a at hq
  generalize e.wtn.mirq = b at hq
  generalize e.wtn.full = c at hq
  generalize e.sch.credits = x at hq
  subst hq
  refine ⟨rfl, fun h => List.mem_filter.2 ⟨List.mem_append_right _ (by simp), ?_⟩⟩
  rw [hu]
  simpa using h

theorem Dev.tkoEnd_spec (d : Dev) (i peer v : Nat) :
    d.tkoEnd i peer v = { d with rg := (d.tkoEnd i peer v).rg, pci := (d.tkoEnd i peer v).pci, wtn := (d.tkoEnd i peer v).wtn
                                 sch := (d.tkoEnd i peer v).sch } ∧ d.keepsPci (d.tkoEnd i peer v) ∧
    d.keepsRegs (d.tkoEnd i peer v) (evtRegs ++ [(.wtn, 0, 0x148)]) ∧ (d.tkoEnd i peer v).fld .wtn 0 0x148 3 0 = 0 ∧
    (d.tkoEnd i peer v).wtn.pair = none ∧ (d.tkoEnd i peer v).wtn.copy = none ∧ (d.tkoEnd i peer v).wtn.mirq = [] ∧
    (d.usable i ≠ [] → { link := i, cls := 4 } ∈ (d.tkoEnd i peer v).wtn.tx) := by
  obtain ⟨hq', hu⟩ := d.wtnQueue_spec { link := i, cls := 4 }
  have hend : (d.wtnQueue { link := i, cls := 4 }).unpair.wtnResult 0 = (d.wtnQueue { link := i, cls := 4 }).pairEnd
      { (d.wtnQueue { link := i, cls := 4 }).wtn with pair := none, copy := none, mirq := [], full := false } 0 := rfl
  unfold Dev.tkoEnd
  rw [hend]
  generalize d.wtnQueue { link := i, cls := 4 } = q at *
  obtain ⟨e1, e2, e3, -⟩ := q.pairEnd_spec { q.wtn with pair := none, copy := none, mirq := [], full := false } (k := 0) (by decide)
  generalize q.pairEnd { q.wtn with pair := none, copy := none, mirq := [], full := false } 0 = e at *
  have hp := e.post_shape .wtn 0 0x09 8 0 (layout 20 [(0, 2, peer), (4, 4, v)])
  have hk := e.keepsPci_post .wtn 0 0x09 8 0 (layout 20 [(0, 2, peer), (4, 4, v)])
  have hr := e.keepsRegs_post .wtn 0 0x09 8 0 (layout 20 [(0, 2, peer), (4, 4, v)]) (List.Subset.refl evtRegs)
  generalize e.post .wtn 0 0x09 8 0 (layout 20 [(0, 2, peer), (4, 4, v)]) = f at *
  have h3 : f.fld .wtn 0 0x148 3 0 = 0 := (Dev.fld_of_reg (hr _ _ _ (by simp [evtRegs, RegAt.addr])) 3 0).trans e3
  obtain ⟨w, c, rfl⟩ : ∃ w c, q = { d with wtn := w, sch := c } := ⟨_, _, hq'⟩
  obtain ⟨g, rfl⟩ : ∃ g, e = { d with rg := g, sch := c, wtn := { w with pair := none, copy := none, mirq := [], full := false } } :=
    ⟨_, e1⟩
  have he2 : d.keepsRegs { d with rg := g, sch := c, wtn := { w with pair := none, copy := none, mirq := [], full := false } }
      [(.wtn, 0, 0x148)] := e2
  obtain ⟨g', x, rfl⟩ : ∃ g' x, f = { d with
    rg := g', pci := x, sch := c, wtn := { w with pair := none, copy := none, mirq := [], full := false } } := ⟨_, _, hp⟩
  exact ⟨rfl, hk, (he2.mono (List.subset_append_right ..)).trans (hr.mono (List.subset_append_left ..)), h3, rfl, rfl, rfl, hu⟩

theorem Dev.tkoStart_spec (d : Dev) (i v : Nat) :
    d.tkoStart i v = { d with rg := (d.tkoStart i v).rg, wtn := (d.tkoStart i v).wtn } ∧
    (d.tkoStart i v).reg .wtn 0 0x14C = v % 2 ^ 32 ∧ (d.tkoStart i v).usable i = d.usable i := by
  unfold Dev.tkoStart
  exact ⟨rfl, Dev.reg_setReg_self .., (Dev.usable_setReg_tko _ v i).trans (Dev.usable_congr rfl rfl i)⟩

theorem Dev.takeover_spec (d : Dev) (i peer v : Nat) :
    ((d.tkoStart i v).tkoEnd i peer v).cores = d.cores ∧ d.keepsPci ((d.tkoStart i v).tkoEnd i peer v) ∧
    ((d.tkoStart i v).tkoEnd i peer v).fld .wtn 0 0x148 3 0 = 0 ∧ ((d.tkoStart i v).tkoEnd i peer v).wtn.pair = none ∧
    ((d.tkoStart i v).tkoEnd i peer v).wtn.copy = none ∧ ((d.tkoStart i v).tkoEnd i peer v).wtn.mirq = [] ∧
    ((d.tkoStart i v).tkoEnd i peer v).reg .wtn 0 0x14C = v % 2 ^ 32 ∧
    (d.usable i ≠ [] → { link := i, cls := 4 } ∈ ((d.tkoStart i v).tkoEnd i peer v).wtn.tx) := by
  obtain ⟨s1, s2, s3⟩ := d.tkoStart_spec i v
  obtain ⟨e1, e2, e3, e4, e5, e6, e7, e8⟩ := (d.tkoStart i v).tkoEnd_spec i peer v
  refine ⟨by rw [e1, s1], ?_, e4, e5, e6, e7, (e3 _ _ _ (by simp [evtRegs, RegAt.addr])).trans s2, fun h => e8 (by rwa [s3])⟩
  exact (Dev.keepsPci_of_pci (by rw [s1])).trans e2

/-! ## The copy (R494, R496) -/

theorem effMirrorSynced_eq {d : Dev} {i peer k : Nat} (hp : d.wtn.pair = some (i, peer)) (hc : d.wtn.copy = some k)
    (hn : d.nextMirror k = none) (hf : d.wtn.full = false) :
    effMirrorSynced d = (Dev.setPair { d with wtn := { d.wtn with copy := none } } 2).post .wtn 0 0x09 5 0 (layout 20 [(0, 2, peer)]) := by
  unfold effMirrorSynced
  split
  next i' peer' k' h h' =>
    obtain ⟨rfl, rfl⟩ := Prod.mk.inj (Option.some_inj.1 (hp.symm.trans h))
    obtain rfl := Option.some_inj.1 (hc.symm.trans h')
    rw [if_pos (by rw [hn, hf]; rfl)]
  next h => exact absurd hc (h i peer k hp)

theorem effMirrorResync_eq {d : Dev} {i peer : Nat} (hp : d.wtn.pair = some (i, peer)) (hf : d.wtn.full = true) :
    effMirrorResync d = (((Dev.setPair { d with wtn := { d.wtn with copy := some 0, full := false } } 1).bump .wtn 0 0x168 1).sticky
      .wtn 0 2).post .wtn 0 0x09 6 0 (layout 20 [(0, 2, peer)]) := by
  unfold effMirrorResync
  split
  next i' peer' h =>
    obtain ⟨rfl, rfl⟩ := Prod.mk.inj (Option.some_inj.1 (hp.symm.trans h))
    rw [if_pos hf]
    rfl
  next h => exact absurd (hp.symm.trans h) (by simp)

end Sys2Proof.Machine

open Sys2Proof Sys2Proof.Machine

/-- Settles O43: each host command is one change of the pair with its RESULT, and the copy ends and starts again with an event. -/
theorem mirrorPair : Obligations.MirrorPair := by
  unfold Obligations.MirrorPair
  refine ⟨?bind, ?unbind, ?takeover, ?synced, ?resync⟩
  case bind =>
    intro s w peer hw hb
    have hx := exec_wtnHcmd (s := s) (i := .bind w peer) (op := 1) (a := peer.val) (by decide) peer.isLt
      (by rw [one_mul]; rfl) hw hb
    rw [show s.d.wtnCommand 1 peer.val = effBind peer.val s.d from rfl, effBind_eq] at hx
    refine ⟨_, hx, ?_⟩
    dsimp only
    have hplain (v : Nat) (hv : v < 16) := s.d.wtnResult_spec hv
    cases hp : s.d.wtn.pair with
    | some p =>
      obtain ⟨h1, h2, h3, -⟩ := hplain 3 (by decide)
      simp only [Option.isSome_some, if_true]
      generalize s.d.wtnResult 3 = e at *
      obtain ⟨g, rfl⟩ : ∃ g, e = { s.d with rg := g } := ⟨_, h1⟩
      exact ⟨rfl, h2, h3, fun _ => rfl, fun i h => absurd h (by simp)⟩
    | none =>
      simp only [Option.isSome_none, Bool.false_eq_true, if_false]
      cases hl : s.d.linkTo peer with
      | none =>
        obtain ⟨h1, h2, h3, -⟩ := hplain 1 (by decide)
        dsimp only
        generalize s.d.wtnResult 1 = e at *
        obtain ⟨g, rfl⟩ : ∃ g, e = { s.d with rg := g } := ⟨_, h1⟩
        exact ⟨rfl, h2, h3, fun _ => rfl, fun i _ h => absurd h (by simp)⟩
      | some i =>
        obtain ⟨h1, h2, h3, h4⟩ := s.d.pairEnd_spec (s.d.wtn.bound i peer) (k := 1) (by decide)
        dsimp only
        generalize s.d.pairEnd (s.d.wtn.bound i peer) 1 = e at *
        obtain ⟨g, rfl⟩ : ∃ g, e = { s.d with rg := g, wtn := s.d.wtn.bound i peer } := ⟨_, h1⟩
        refine ⟨rfl, h2, h3, fun h => absurd h3 h, fun j _ h => ⟨h4, ?_⟩⟩
        obtain rfl := Option.some_inj.1 h
        rfl
  case unbind =>
    intro s w hw hb
    have hx := exec_wtnHcmd (s := s) (i := .unbind w) (op := 2) (a := 0) (by decide) (by decide) rfl hw hb
    rw [show s.d.wtnCommand 2 0 = effUnbind s.d from rfl, effUnbind_eq] at hx
    refine ⟨_, hx, ?_⟩
    dsimp only
    cases hp : s.d.wtn.pair with
    | none =>
      obtain ⟨h1, h2, h3, -⟩ := s.d.wtnResult_spec (v := 2) (by decide)
      simp only [Option.isNone_none, if_true]
      generalize s.d.wtnResult 2 = e at *
      obtain ⟨g, rfl⟩ : ∃ g, e = { s.d with rg := g } := ⟨_, h1⟩
      exact ⟨rfl, h2, h3, fun h => absurd h (by simp)⟩
    | some p =>
      obtain ⟨h1, h2, h3, h4⟩ := s.d.pairEnd_spec { s.d.wtn with pair := none, copy := none, mirq := [], full := false }
        (k := 0) (by decide)
      simp only [Option.isNone_some, Bool.false_eq_true, if_false]
      generalize s.d.pairEnd { s.d.wtn with pair := none, copy := none, mirq := [], full := false } 0 = e at *
      obtain ⟨g, rfl⟩ : ∃ g, e = { s.d with
        rg := g, wtn := { s.d.wtn with pair := none, copy := none, mirq := [], full := false } } := ⟨_, h1⟩
      exact ⟨rfl, h2, h3, fun _ => ⟨h4, rfl⟩⟩
  case takeover =>
    intro s w hw hb
    have hx := exec_wtnHcmd (s := s) (i := .takeover w) (op := 3) (a := 0) (by decide) (by decide) rfl hw hb
    rw [show s.d.wtnCommand 3 0 = effTakeover s.d from rfl] at hx
    refine ⟨_, hx, rfl, rfl, ?_⟩
    dsimp only
    cases hp : s.d.wtn.pair with
    | none =>
      have he : effTakeover s.d = s.d.wtnResult 2 := by simp [effTakeover, hp]
      rw [he]
      obtain ⟨h1, h2, h3, -⟩ := s.d.wtnResult_spec (v := 2) (by decide)
      generalize s.d.wtnResult 2 = e at *
      obtain ⟨g, rfl⟩ : ∃ g, e = { s.d with rg := g } := ⟨_, h1⟩
      exact ⟨rfl, Dev.keepsPci_of_pci rfl, h3, fun _ => rfl, fun _ _ _ h => absurd h (by simp)⟩
    | some p =>
      obtain ⟨i, peer⟩ := p
      cases ha : (s.d.link i).applied with
      | some a =>
        rw [effTakeover_eq hp ha]
        obtain ⟨h1, h2, h3, h4, h5, h6, h7, h8⟩ := s.d.takeover_spec i peer a
        refine ⟨h1, h2, h3, fun h => absurd h (by simp), fun i' peer' a' h h' => ?_⟩
        obtain ⟨rfl, rfl⟩ := Prod.mk.inj (Option.some_inj.1 h)
        obtain rfl := Option.some_inj.1 (ha.symm.trans h')
        exact ⟨h4, h5, h6, h7, h8⟩
      | none =>
        obtain ⟨v, he⟩ := effTakeover_free hp ha
        rw [he]
        obtain ⟨h1, h2, h3, -⟩ := Dev.takeover_spec { s.d with fresh := s.d.fresh + 1 } i peer v
        refine ⟨h1, h2, h3, fun h => absurd h (by simp), fun i' peer' a' h h' => ?_⟩
        obtain ⟨rfl, rfl⟩ := Prod.mk.inj (Option.some_inj.1 h)
        exact absurd (ha.symm.trans h') (by simp)
  case synced =>
    intro s i peer k hp hc hn hf
    have hx := exec_onDev (s := s) (i := .mirrorSynced) (f := effMirrorSynced) rfl (effMirrorSynced_eq hp hc hn hf)
    refine ⟨_, hx, ?_⟩
    obtain ⟨p1, p2, p3⟩ := Dev.setPair_spec { s.d with wtn := { s.d.wtn with copy := none } } (v := 2) (by decide)
    dsimp only
    generalize Dev.setPair { s.d with wtn := { s.d.wtn with copy := none } } 2 = e at *
    have hs := e.post_shape .wtn 0 0x09 5 0 (layout 20 [(0, 2, peer)])
    have hk := e.keepsPci_post .wtn 0 0x09 5 0 (layout 20 [(0, 2, peer)])
    have hr := e.keepsRegs_post .wtn 0 0x09 5 0 (layout 20 [(0, 2, peer)]) (List.Subset.refl evtRegs)
    generalize e.post .wtn 0 0x09 5 0 (layout 20 [(0, 2, peer)]) = f at *
    have h17 : f.fld .wtn 0 0x148 17 16 = 2 := (Dev.fld_of_reg (hr _ _ _ (by simp [evtRegs, RegAt.addr])) 17 16).trans p3
    obtain ⟨g, rfl⟩ : ∃ g, e = { s.d with rg := g, wtn := { s.d.wtn with copy := none } } := ⟨_, p1⟩
    have hp2 : s.d.keepsRegs { s.d with rg := g, wtn := { s.d.wtn with copy := none } } [(.wtn, 0, 0x148)] := p2
    exact ⟨congrArg (fun d => ({ s with d := d } : State)) hs, hk, h17,
      (hp2.mono (List.subset_append_right ..)).trans (hr.mono (List.subset_append_left ..))⟩
  case resync =>
    intro s i peer hp hf
    have hx := exec_onDev (s := s) (i := .mirrorResync) (f := effMirrorResync) rfl (effMirrorResync_eq hp hf)
    refine ⟨_, hx, ?_⟩
    obtain ⟨p1, p2, p3⟩ := Dev.setPair_spec { s.d with wtn := { s.d.wtn with copy := some 0, full := false } } (v := 1) (by decide)
    have h168 : (Dev.setPair { s.d with wtn := { s.d.wtn with copy := some 0, full := false } } 1).reg .wtn 0 0x168 =
        s.d.reg .wtn 0 0x168 := (p2 _ _ _ (by simp [RegAt.addr])).trans (Dev.reg_congr rfl _ _ _)
    dsimp only
    generalize Dev.setPair { s.d with wtn := { s.d.wtn with copy := some 0, full := false } } 1 = e at *
    have b1 : e.regsOnly ((e.bump .wtn 0 0x168 1).sticky .wtn 0 2) := (e.bump_regsOnly ..).trans (Dev.sticky_regsOnly ..)
    have b2 : e.keepsRegs ((e.bump .wtn 0 0x168 1).sticky .wtn 0 2) [(.wtn, 0, 0x168), (.wtn, 0, 0x174), (.wtn, 0, 0x020)] :=
      (e.keepsRegs_bump _ _ _ _ (by simp)).trans (Dev.keepsRegs_sticky _ _ _ _ (by simp) (by simp))
    have b3 : ((e.bump .wtn 0 0x168 1).sticky .wtn 0 2).reg .wtn 0 0x168 = satAdd (e.reg .wtn 0 0x168) 1 := by simp
    have b4 := (e.bump .wtn 0 0x168 1).flag_sticky_self .wtn 0 (b := 2) (by decide) 2
    generalize (e.bump .wtn 0 0x168 1).sticky .wtn 0 2 = f at *
    have hs := f.post_shape .wtn 0 0x09 6 0 (layout 20 [(0, 2, peer)])
    have hk := f.keepsPci_post .wtn 0 0x09 6 0 (layout 20 [(0, 2, peer)])
    have hr := f.keepsRegs_post .wtn 0 0x09 6 0 (layout 20 [(0, 2, peer)]) (List.Subset.refl evtRegs)
    generalize f.post .wtn 0 0x09 6 0 (layout 20 [(0, 2, peer)]) = x at *
    have h17 : x.fld .wtn 0 0x148 17 16 = 1 :=
      (Dev.fld_of_reg ((hr _ _ _ (by simp [evtRegs, RegAt.addr])).trans (b2 _ _ _ (by simp [RegAt.addr]))) 17 16).trans p3
    have x168 : x.reg .wtn 0 0x168 = satAdd (s.d.reg .wtn 0 0x168) 1 := by
      rw [hr _ _ _ (by simp [evtRegs, RegAt.addr]), b3, h168]
    have x174 : x.flag .wtn 0 0x174 2 = true := by
      rw [Dev.flag, hr _ _ _ (by simp [evtRegs, RegAt.addr])]
      exact b4.trans (by simp)
    obtain ⟨g, rfl⟩ : ∃ g, e = { s.d with rg := g, wtn := { s.d.wtn with copy := some 0, full := false } } := ⟨_, p1⟩
    have hp2 : s.d.keepsRegs { s.d with rg := g, wtn := { s.d.wtn with copy := some 0, full := false } }
      [(.wtn, 0, 0x148), (.wtn, 0, 0x168), (.wtn, 0, 0x174), (.wtn, 0, 0x020)] := Dev.keepsRegs.mono p2 (by simp)
    obtain ⟨g', rfl⟩ : ∃ g', f = { s.d with rg := g', wtn := { s.d.wtn with copy := some 0, full := false } } := ⟨_, b1⟩
    exact ⟨congrArg (fun d => ({ s with d := d } : State)) hs, hk, h17, x168, x174,
      ((hp2.trans (b2.mono (by simp))).mono (List.subset_append_right ..)).trans (hr.mono (List.subset_append_left ..))⟩

end

section
/-! SUPPORT. Writes of the blocks through the device map, and the commands of the receiver supervisor (O26). -/

namespace Sys2Proof.Machine

/-! ## Writes of a block: they reach neither a core nor a stream (R419, R420) -/

/-- What a write of a block through the device map leaves alone. -/
structure Dev.blkKeeps (d e : Dev) : Prop where
  bus : d.busKeeps e
  cores : e.cores = d.cores
  streams : e.streams = d.streams

theorem Dev.blkKeeps.refl (d : Dev) : d.blkKeeps d := ⟨.refl d, rfl, rfl⟩

theorem Dev.blkKeeps.trans {a b c : Dev} (h : a.blkKeeps b) (k : b.blkKeeps c) : a.blkKeeps c :=
  ⟨h.bus.trans k.bus, k.cores.trans h.cores, k.streams.trans h.streams⟩

theorem Dev.readKeeps.blk {d e : Dev} (h : d.readKeeps e) : d.blkKeeps e := ⟨h.bus, h.cores, by rw [h.shape]⟩

theorem Dev.blkKeeps.shape {d e : Dev} (h : d.blkKeeps e) :
    e = { d with rg := e.rg, ms := e.ms, tbl := e.tbl, pci := e.pci, wtn := e.wtn, fresh := e.fresh } := by
  have h1 := h.bus.shape
  rw [h.cores, h.streams] at h1
  exact h1

/-- Is the requester a block: neither the host nor a core? -/
def Req.isBlock (q : Req) : Prop := q.isHost = false ∧ ∀ c, q ≠ .core c

/-- Only the host reaches the core windows (R419). -/
theorem Dev.target_core_none {lk : Locked} {d : Dev} {q : Req} {a : Nat} (hq : q.isHost = false) :
    (d.target lk q a).core? = none := by
  have hite {p : Prop} [Decidable p] {t e : Target} (ht : t.core? = none) (he : e.core? = none) : (if p then t else e).core? = none := by
    split
    · exact ht
    · exact he
  unfold Dev.target
  dsimp only
  rw [hq]
  simp only [Bool.not_false, Bool.or_true, if_true]
  refine hite (hite rfl rfl) (hite (hite rfl rfl) ?_)
  iterate 8 refine hite rfl ?_
  exact hite rfl rfl

/-- A write inside a beat goes to an array, to the chain tables, to a window, or to a core window. -/
theorem Dev.beatWrite_cases (lk : Locked) (d : Dev) (q : Req) (part a : Nat) (bs : List Byte) (pois direct whole : Bool) :
    d.readKeeps (d.beatWrite lk q part a bs pois direct whole).2 ∨
    (∃ o, (d.beatWrite lk q part a bs pois direct whole).2 = d.tblWrite o bs pois) ∨
    (∃ w o p, (d.beatWrite lk q part a bs pois direct whole).2 = d.windowWrite q w o p bs [pois] ∧
      (p = .kvp ∨ p = .rxc ∨ p = .fec ∨ p = .rsv)) ∨
    (d.target lk q a).core? ≠ none := by
  have hl (k : Nat) := d.readKeeps_lookup q part (q.cls true) k whole
  unfold Dev.beatWrite
  dsimp only
  split
  · exact .inl (d.readKeeps_cross ..)
  · split
    case h_1 => exact .inl (.refl d)
    case h_2 a _ =>
      have hc (e : Dev) : e.readKeeps (Dev.touch { e.cmnMerge e.ms.cm a bs.length with
          ms := { (e.cmnMerge e.ms.cm a bs.length).ms with
            cm := (e.cmnMerge e.ms.cm a bs.length).ms.cm.store a bs pois } } (a / 128) true) :=
        ((e.readKeeps_cmnErr _ _).trans (Dev.readKeeps_ms _ rfl)).trans (Dev.readKeeps_touch ..)
      left
      split
      · split
        · exact hc d
        · exact d.readKeeps_arrWrite ..
      · split
        · exact (hl _).trans (hc _)
        · exact (hl _).trans (Dev.readKeeps_arrWrite ..)
    case h_3 => exact .inl ((d.readKeeps_cmnErr _ _).trans (Dev.readKeeps_ms _ rfl))
    case h_12 c o hc => exact .inr (.inr (.inr (by rw [hc]; simp [Target.core?])))
    case h_13 c o hc => exact .inr (.inr (.inr (by rw [hc]; simp [Target.core?])))
    case h_8 o hw => simp only [hw, Target.window]; exact .inr (.inr (.inl ⟨_, _, _, rfl, .inl rfl⟩))
    case h_9 o hw => simp only [hw, Target.window]; exact .inr (.inr (.inl ⟨_, _, _, rfl, .inr (.inl rfl)⟩))
    case h_10 o hw => simp only [hw, Target.window]; exact .inr (.inr (.inl ⟨_, _, _, rfl, .inr (.inr (.inl rfl))⟩))
    case h_11 o hw => simp only [hw, Target.window]; exact .inr (.inr (.inl ⟨_, _, _, rfl, .inr (.inr (.inr rfl))⟩))
    all_goals exact .inr (.inl ⟨_, rfl⟩)

theorem Dev.tblWrite_blk (d : Dev) (o : Nat) (bs : List Byte) (pois : Bool) : d.blkKeeps (d.tblWrite o bs pois) := by
  refine ⟨d.busKeeps_tblWrite .., ?_, ?_⟩
  · unfold Dev.tblWrite
    dsimp only
    split
    · rfl
    · simp
  · unfold Dev.tblWrite
    dsimp only
    split
    · rfl
    · simp

theorem Dev.blkKeeps_beatWrite (lk : Locked) (d : Dev) {q : Req} (hq : q.isBlock) (part a : Nat) (bs : List Byte)
    (pois direct whole : Bool) : d.blkKeeps (d.beatWrite lk q part a bs pois direct whole).2 := by
  obtain h | ⟨o, h⟩ | ⟨w, o, p, h, hp⟩ | h := d.beatWrite_cases lk q part a bs pois direct whole
  · exact h.blk
  · rw [h]
    exact d.tblWrite_blk ..
  · have he : d.windowWrite q w o p bs [pois] = d.err p 0 errWindow 0 := by
      unfold Dev.windowWrite
      split
      · exact absurd rfl (hq.2 _)
      · rfl
    rw [h, he]
    obtain rfl | rfl | rfl | rfl := hp
    · exact (d.readKeeps_err _ _ (by simp [busRegs]) (by simp [busRegs])).blk
    · exact (d.readKeeps_err _ _ (by simp [busRegs]) (by simp [busRegs])).blk
    · exact (d.readKeeps_err _ _ (by simp [busRegs]) (by simp [busRegs])).blk
    · exact (d.readKeeps_err _ _ (by simp [busRegs]) (by simp [busRegs])).blk
  · exact absurd (Dev.target_core_none hq.1) h

theorem Dev.blkKeeps_busWrite (lk : Locked) (d : Dev) {q : Req} (hq : q.isBlock) (part a : Nat) (bs : List Byte) (ps : List Bool)
    (direct : Bool) : d.blkKeeps (d.busWrite lk q part a bs ps direct).2 := by
  unfold Dev.busWrite
  suffices hk : ∀ (l : List ((Nat × Nat) × Nat)) (x : Nat × Dev), d.blkKeeps x.2 →
      d.blkKeeps (l.foldl (fun (x : Nat × Dev) (y : (Nat × Nat) × Nat) =>
        let ln := y.1.1 / 128 * 128
        let r := x.2.beatWrite lk q part y.1.1 (slice bs (y.1.1 - a) y.1.2) (ps.getD y.2 false) direct
          (decide (a ≤ ln) && decide (ln + 128 ≤ a + bs.length))
        (x.1 + b2n r.1, r.2)) x).2 from hk _ _ d.readKeeps_newWrite.blk
  intro l
  induction l with
  | nil => exact fun _ hx => hx
  | cons y l ih => exact fun x hx => ih _ (hx.trans (Dev.blkKeeps_beatWrite lk _ hq ..))

theorem Dev.blkKeeps_busStore (lk : Locked) (d : Dev) {q : Req} (hq : q.isBlock) (a : Nat) (bs : List Byte) (pois direct : Bool) :
    d.blkKeeps (d.busStore lk q a bs pois direct) := d.blkKeeps_busWrite lk hq ..

theorem Dev.readKeeps_busBytes (lk : Locked) (d : Dev) (q : Req) (a n : Nat) (direct : Bool) :
    d.readKeeps (d.busBytes lk q a n direct).2.2 := d.readKeeps_busRead lk q 0 a n direct

/-! ## RSV_HCMD (R385, R390) -/

theorem Dev.blockWrite_rsvHcmd (d : Dev) (lk : Locked) (v : Nat) :
    d.blockWrite lk .rsv 0 0x118 v = d.rsvHcmd (bits v 31 28) (bits v 27 26) (bits v 25 17) (bits v 13 0) := by
  simp only [Dev.blockWrite]
  rfl

/-- The word of RSV_HCMD. -/
theorem rsvWord_bits {op p a h : Nat} (hop : op < 16) (hp : p < 4) (ha : a < 512) (hh : h < 16384) :
    bits (op * 2 ^ 28 + p * 2 ^ 26 + a * 2 ^ 17 + h) 31 28 = op ∧ bits (op * 2 ^ 28 + p * 2 ^ 26 + a * 2 ^ 17 + h) 27 26 = p ∧
    bits (op * 2 ^ 28 + p * 2 ^ 26 + a * 2 ^ 17 + h) 25 17 = a ∧ bits (op * 2 ^ 28 + p * 2 ^ 26 + a * 2 ^ 17 + h) 13 0 = h ∧
    op * 2 ^ 28 + p * 2 ^ 26 + a * 2 ^ 17 + h < 2 ^ 32 := by
  simp only [bits, Nat.shiftRight_eq_div_pow]
  norm_num
  omega

/-- The command that waits, with BUSY set. -/
def Dev.rsvWaits (d : Dev) (c : Nat × Nat × Nat × Nat) : Dev :=
  { d.setReg .rsv 0 0x11C (2 ^ 31) with rsv := { d.rsv with cmd := some c } }

theorem Dev.rsvHcmd_busy {d : Dev} (h : d.flag .rsv 0 0x11C 31 = true) (op p a hist : Nat) :
    d.rsvHcmd op p a hist = d.err .rsv 0 errState 0x118 := by
  unfold Dev.rsvHcmd
  rw [if_pos h]

theorem Dev.rsvHcmd_bad {d : Dev} {a : Nat} (h : d.flag .rsv 0 0x11C 31 = false) (ha : a = 0 ∨ 255 < a) (hist : Nat) :
    d.rsvHcmd 1 3 a hist = d.setReg .rsv 0 0x11C 1 := by
  unfold Dev.rsvHcmd
  rw [if_neg (by rw [h]; decide), if_pos (by decide), if_pos (by simpa using ha)]

theorem Dev.rsvHcmd_waits {d : Dev} {op p a : Nat} (h : d.flag .rsv 0 0x11C 31 = false) (hop : op = 1 ∨ op = 2)
    (hok : ¬(op = 1 ∧ p = 3 ∧ (a = 0 ∨ 255 < a))) (hist : Nat) : d.rsvHcmd op p a hist = d.rsvWaits (op, p, a, hist) := by
  unfold Dev.rsvHcmd
  rw [if_neg (by rw [h]; decide), if_pos (by simpa using hop), if_neg (by simpa [and_assoc] using hok)]
  rfl

theorem Dev.rsvWaits_spec (d : Dev) (c : Nat × Nat × Nat × Nat) :
    d.rsvWaits c = { d with rg := (d.rsvWaits c).rg, rsv := { d.rsv with cmd := some c } } ∧
    (d.rsvWaits c).reg .rsv 0 0x11C = 2 ^ 31 ∧ d.keepsRegs (d.rsvWaits c) [(.rsv, 0, 0x11C)] := by
  have h0 := d.setReg_regsOnly .rsv 0 0x11C (2 ^ 31)
  have hk : d.keepsRegs (d.setReg .rsv 0 0x11C (2 ^ 31)) [(.rsv, 0, 0x11C)] := d.keepsRegs_setReg _ _ _ _ (by simp)
  have hr : (d.setReg .rsv 0 0x11C (2 ^ 31)).reg .rsv 0 0x11C = 2 ^ 31 := Dev.reg_setReg_self ..
  unfold Dev.rsvWaits
  generalize d.setReg .rsv 0 0x11C (2 ^ 31) = e at *
  obtain ⟨g, rfl⟩ : ∃ g, e = { d with rg := g } := ⟨_, h0⟩
  exact ⟨rfl, hr, hk⟩

/-! ## Reports (R379, R380) -/

/-- The stream of a core moves on past a report. -/
def Dev.reportTaken (d : Dev) (c : Nat) (rest : List (Nat × List Byte × List Bool)) : Dev :=
  { d with streams := d.streams.setIfInBounds (24 + c) rest }

theorem Dev.badReport_spec (d : Dev) : d.regsOnly d.badReport ∧ d.badReport.reg .rsv 0 0x144 = satAdd (d.reg .rsv 0 0x144) 1 ∧
    d.badReport.flag .rsv 0 0x148 4 = true := by
  have hs := (d.bump .rsv 0 0x144 1).flag_sticky_self .rsv 0 (b := 4) (by decide) 4
  unfold Dev.badReport
  exact ⟨(d.bump_regsOnly ..).trans (Dev.sticky_regsOnly ..), by simp, hs.trans (by simp)⟩

/-- What the supervisor's own writes and counts leave of the device: all but its plans, the memory and the registers. -/
structure Dev.rsvKeeps (d e : Dev) : Prop where
  cores : e.cores = d.cores
  streams : e.streams = d.streams

theorem Dev.writeDec_spec (lk : Locked) (d : Dev) (c s : Nat) (x : DecEntry) :
    d.rsvKeeps (Dev.writeDec lk d c s x) ∧ (Dev.writeDec lk d c s x).rsv = d.rsv := by
  have h0 : d.rsvKeeps (if d.decHolds c s then d.busStore lk .rsv (d.decAddr c s x.grant) x.bytes else d) ∧
      (if d.decHolds c s then d.busStore lk .rsv (d.decAddr c s x.grant) x.bytes else d).rsv = d.rsv := by
    split
    · have hb := d.blkKeeps_busStore lk (q := .rsv) ⟨rfl, fun _ => by simp⟩ (d.decAddr c s x.grant) x.bytes false false
      exact ⟨⟨hb.cores, hb.streams⟩, by rw [hb.shape]⟩
    · exact ⟨⟨rfl, rfl⟩, rfl⟩
  unfold Dev.writeDec
  generalize (if d.decHolds c s then d.busStore lk .rsv (d.decAddr c s x.grant) x.bytes else d) = e at *
  obtain ⟨⟨h1, h2⟩, h3⟩ := h0
  dsimp only
  split
  · unfold Dev.countFinal
    exact ⟨⟨by simpa using h1, by simpa using h2⟩, by simpa using h3⟩
  · exact ⟨⟨h1, h2⟩, h3⟩

/-- A final entry takes the place of its grant. -/
theorem Dev.setDec_final (d : Dev) (c s : Nat) {e : DecEntry} (he : e.final = true) :
    ∀ p ∈ (d.setDec c s e).rsv.plans, p.cell = c → p.slot = s → ∀ x ∈ p.entries, x.grant = e.grant → x.final = true := by
  intro p hp hc hs x hx hg
  obtain ⟨q, -, rfl⟩ := List.mem_map.1 hp
  by_cases hq : (q.cell == c && q.slot == s) = true
  · rw [if_pos hq] at hx
    obtain ⟨y, -, rfl⟩ := List.mem_map.1 hx
    by_cases hy : (y.grant == e.grant) = true
    · rw [if_pos hy, he]
    · rw [if_neg hy] at hg
      exact absurd (beq_iff_eq.2 hg) hy
  · rw [if_neg hq] at hc hs
    exact absurd (by simp [hc, hs]) hq

theorem Dev.finalise_spec (lk : Locked) (d : Dev) (c s : Nat) (e : DecEntry) (path reason alpha conf : Nat) :
    d.rsvKeeps (d.finalise lk c s e path reason alpha conf) ∧
    ∀ p ∈ (d.finalise lk c s e path reason alpha conf).rsv.plans, p.cell = c → p.slot = s →
      ∀ x ∈ p.entries, x.grant = e.grant → x.final = true := by
  have hf (e' : DecEntry) (he : e'.final = true) (hg : e'.grant = e.grant) :
      d.rsvKeeps (Dev.writeDec lk (d.setDec c s e') c s e') ∧ ∀ p ∈ (Dev.writeDec lk (d.setDec c s e') c s e').rsv.plans,
        p.cell = c → p.slot = s → ∀ x ∈ p.entries, x.grant = e.grant → x.final = true := by
    obtain ⟨⟨h1, h2⟩, h3⟩ := Dev.writeDec_spec lk (d.setDec c s e') c s e'
    rw [h3, ← hg]
    exact ⟨⟨h1, h2⟩, d.setDec_final c s he⟩
  exact hf { e with final := true, path := path, reason := reason, alpha := alpha, conf := conf } rfl rfl

theorem Dev.finalDecision_spec (lk : Locked) (d : Dev) (c s : Nat) (e : DecEntry) (excl : Bool) (conf : Nat) :
    d.rsvKeeps (d.finalDecision lk c s e excl conf) ∧
    ∀ p ∈ (d.finalDecision lk c s e excl conf).rsv.plans, p.cell = c → p.slot = s →
      ∀ x ∈ p.entries, x.grant = e.grant → x.final = true := by
  have hf (path reason alpha : Nat) := d.finalise_spec lk c s e path reason alpha conf
  unfold Dev.finalDecision
  dsimp only
  split_ifs
  · exact hf ..
  · exact hf ..
  · exact hf ..
  · exact hf ..
  · exact hf ..
  · exact hf ..
  · exact hf ..

/-- Does a report set a bit that is reserved (R379)? -/
def reportReserved (bs : List Byte) : Bool :=
  bits (leAt bs 0 1) 7 5 != 0 || bits (leAt bs 1 1) 7 6 != 0 || bits (leAt bs 2 1) 7 1 != 0 || leAt bs 3 1 != 0 || leAt bs 10 6 != 0

/-- A report of the right form and place (R379, R380). -/
def Dev.reported (d : Dev) (lk : Locked) (bs : List Byte) : Dev :=
  let c := bits (leAt bs 0 1) 4 0
  if d.rsvSplit c = 2 then d
  else
    match d.rsv.plans.find? fun p => p.cell == c && d.decHolds c p.slot && p.slot % 2 ^ 32 == leAt bs 4 4 with
    | none => d.badReport
    | some p =>
      match p.entries.find? (·.grant == bits (leAt bs 1 1) 5 0) with
      | none => d.badReport
      | some e => if e.final then d.badReport else d.finalDecision lk c p.slot e (bit (leAt bs 2 1) 0) (leAt bs 8 2)

theorem effConfidenceReport_eq {d : Dev} {c o : Nat} {bs : List Byte} {po : List Bool} {rest : List (Nat × List Byte × List Bool)}
    (h : d.streams.toList.getD (24 + c) [] = (o, bs, po) :: rest) (lk : Locked) : effConfidenceReport c lk d =
      if o ≠ 0 || bs.length ≠ 16 || reportReserved bs then (d.reportTaken c rest).badReport
      else (d.reportTaken c rest).reported lk bs := by
  unfold effConfidenceReport
  rw [h]
  rfl

theorem Dev.reported_keeps (d : Dev) (lk : Locked) (bs : List Byte) : d.rsvKeeps (d.reported lk bs) := by
  have hb : d.rsvKeeps d.badReport := by
    obtain ⟨h, -⟩ := d.badReport_spec
    exact ⟨by rw [h], by rw [h]⟩
  unfold Dev.reported
  dsimp only
  split
  · exact ⟨rfl, rfl⟩
  · split
    · exact hb
    · split
      · exact hb
      · split
        · exact hb
        · exact (d.finalDecision_spec ..).1

end Sys2Proof.Machine

open Sys2Proof Sys2Proof.Machine

/-- Settles O26: RSV_HCMD refuses, ends or holds one command, and a report is counted or makes its entry final. -/
theorem supervisorCommands : Obligations.SupervisorCommands := by
  unfold Obligations.SupervisorCommands
  refine ⟨?policy, ?reset, ?report⟩
  case policy =>
    intro s w p a h hw bad
    obtain ⟨b1, b2, b3, b4, b5⟩ := rsvWord_bits (op := 1) (by decide) p.isLt a.isLt h.isLt
    rw [one_mul] at b1 b2 b3 b4 b5
    have hx : exec (.setPolicy w p a h) s =
        .next { s with d := s.d.blockWrite s.lk .rsv 0 0x118 (2 ^ 28 + p.val * 2 ^ 26 + a.val * 2 ^ 17 + h.val) } :=
      exec_blockWrite rfl hw rfl b5 (by decide) (fun _ => by decide) (by simp) (by simp)
    rw [Dev.blockWrite_rsvHcmd, b1, b2, b3, b4] at hx
    refine ⟨_, hx, ?_⟩
    cases hb : s.d.flag .rsv 0 0x11C 31
    · by_cases hbad : bad
      · rw [show p.val = 3 from hbad.1, Dev.rsvHcmd_bad hb hbad.2]
        have h0 := s.d.setReg_regsOnly .rsv 0 0x11C 1
        have hk : s.d.keepsRegs (s.d.setReg .rsv 0 0x11C 1) [(.rsv, 0, 0x11C)] := s.d.keepsRegs_setReg _ _ _ _ (by simp)
        have hr : (s.d.setReg .rsv 0 0x11C 1).reg .rsv 0 0x11C = 1 := Dev.reg_setReg_self ..
        generalize s.d.setReg .rsv 0 0x11C 1 = e at *
        obtain ⟨g, rfl⟩ : ∃ g, e = { s.d with rg := g } := ⟨_, h0⟩
        exact ⟨rfl, fun _ h => absurd hbad h, fun _ _ => ⟨rfl, hr, hk⟩, fun h => by simp at h⟩
      · rw [Dev.rsvHcmd_waits hb (.inl rfl) (fun h => hbad h.2)]
        obtain ⟨h1, h2, h3⟩ := s.d.rsvWaits_spec (1, p.val, a.val, h.val)
        generalize s.d.rsvWaits (1, p.val, a.val, h.val) = e at *
        obtain ⟨g, rfl⟩ : ∃ g, e = { s.d with rg := g, rsv := { s.d.rsv with cmd := some (1, p.val, a.val, h.val) } } := ⟨_, h1⟩
        exact ⟨rfl, fun _ _ => ⟨rfl, h2, h3⟩, fun _ h => absurd h hbad, fun h => by simp at h⟩
    · rw [Dev.rsvHcmd_busy hb]
      have h0 := s.d.err_regsOnly .rsv 0 errState 0x118
      have hk : s.d.keepsRegs (s.d.err .rsv 0 errState 0x118) [(.rsv, 0, 0x028), (.rsv, 0, 0x02C)] :=
        s.d.keepsRegs_err _ _ _ _ (by simp) (by simp)
      have hr := s.d.reg_err_2C .rsv 0 errState 0x118
      generalize s.d.err .rsv 0 errState 0x118 = e at *
      obtain ⟨g, rfl⟩ : ∃ g, e = { s.d with rg := g } := ⟨_, h0⟩
      exact ⟨rfl, fun h => by simp at h, fun h => by simp at h, fun _ => ⟨rfl, hr, hk⟩⟩
  case reset =>
    intro s w h hw hb
    obtain ⟨b1, b2, b3, b4, b5⟩ := rsvWord_bits (op := 2) (p := 0) (a := 0) (by decide) (by decide) (by decide) h.isLt
    simp only [Nat.zero_mul, Nat.add_zero] at b1 b2 b3 b4 b5
    have hx : exec (.resetLoop w h) s = .next { s with d := s.d.blockWrite s.lk .rsv 0 0x118 (2 * 2 ^ 28 + h.val) } :=
      exec_blockWrite rfl hw rfl b5 (by decide) (fun _ => by decide) (by simp) (by simp)
    rw [Dev.blockWrite_rsvHcmd, b1, b2, b3, b4, Dev.rsvHcmd_waits hb (.inr rfl) (by simp)] at hx
    refine ⟨_, hx, ?_⟩
    obtain ⟨h1, h2, h3⟩ := s.d.rsvWaits_spec (2, 0, 0, h.val)
    generalize s.d.rsvWaits (2, 0, 0, h.val) = e at *
    obtain ⟨g, rfl⟩ : ∃ g, e = { s.d with rg := g, rsv := { s.d.rsv with cmd := some (2, 0, 0, h.val) } } := ⟨_, h1⟩
    exact ⟨rfl, rfl, h2, h3⟩
  case report =>
    intro s c o bs po rest hst cell bad
    have hx := exec_onLk (s := s) (i := .confidenceReport c) (f := effConfidenceReport c.val) rfl (effConfidenceReport_eq hst s.lk)
    refine ⟨_, hx, rfl, rfl, ?_⟩
    obtain ⟨hb, hb1, hb2⟩ := (s.d.reportTaken c.val rest).badReport_spec
    by_cases hbad : bad
    · rw [if_pos (by obtain h | h := hbad <;> simp [h])]
      dsimp only
      generalize (s.d.reportTaken c.val rest).badReport = e at *
      obtain ⟨g, rfl⟩ : ∃ g, e = { s.d.reportTaken c.val rest with rg := g } := ⟨_, hb⟩
      exact ⟨rfl, rfl, fun _ => ⟨rfl, hb1, hb2⟩, fun pl e h => absurd hbad h⟩
    · by_cases hres : reportReserved bs = true
      · rw [if_pos (by simp [hres])]
        dsimp only
        generalize (s.d.reportTaken c.val rest).badReport = e at *
        obtain ⟨g, rfl⟩ : ∃ g, e = { s.d.reportTaken c.val rest with rg := g } := ⟨_, hb⟩
        refine ⟨rfl, rfl, fun h => absurd h hbad, fun pl e _ h3 h10 h0 h1 h2 => ?_⟩
        exact absurd hres (by simp [reportReserved, h3, h10, h0, h1, h2])
      · rw [if_neg (by simp only [bad, not_or, not_not] at hbad; simp [hbad, hres])]
        dsimp only
        obtain ⟨k1, k2⟩ := (s.d.reportTaken c.val rest).reported_keeps s.lk bs
        refine ⟨k1, k2, fun h => absurd h hbad, fun pl e _ _ _ _ _ _ hsp hpl he hfin => ?_⟩
        have hr : (s.d.reportTaken c.val rest).reported s.lk bs =
            (s.d.reportTaken c.val rest).finalDecision s.lk cell pl.slot e (bit (leAt bs 2 1) 0) (leAt bs 8 2) := by
          unfold Dev.reported
          rw [if_neg (by exact hsp)]
          have hpl' : ((s.d.reportTaken c.val rest).rsv.plans.find? fun p => p.cell == bits (leAt bs 0 1) 4 0 &&
            (s.d.reportTaken c.val rest).decHolds (bits (leAt bs 0 1) 4 0) p.slot && p.slot % 2 ^ 32 == leAt bs 4 4) = some pl := hpl
          simp only [hpl', he, hfin]
          rfl
        rw [hr]
        exact ((s.d.reportTaken c.val rest).finalDecision_spec ..).2

end

section
/-! SUPPORT. The job scheduler: jobs by number, standing decisions, and the end of a job (O29). -/

namespace Sys2Proof.Machine

/-! ## Jobs by number -/

/-- A change of the jobs that keeps their numbers. -/
theorem find?_map_num {f : Job → Job} (hf : ∀ x, (f x).num = x.num) (l : List Job) (n : Nat) :
    ((l.map f).find? fun x => x.num == n) = (l.find? fun x => x.num == n).map f := by
  rw [List.find?_map]
  congr 2
  funext x
  simp [hf]

theorem Dev.job?_num {d : Dev} {n : Nat} {j : Job} (h : d.job? n = some j) : j.num = n := by
  simpa using List.find?_some h

theorem Dev.job?_congr {d e : Dev} (h : e.sch.jobs = d.sch.jobs) (n : Nat) : e.job? n = d.job? n := by
  rw [Dev.job?, h, Dev.job?]

theorem Dev.job?_modJob {f : Job → Job} (hf : ∀ x, (f x).num = x.num) (d : Dev) (n : Nat) :
    (d.modJob n f).job? n = (d.job? n).map f := by
  have hg (x : Job) : (if x.num = n then f x else x).num = x.num := by split <;> simp [hf]
  unfold Dev.modJob Dev.job?
  dsimp only
  rw [find?_map_num hg]
  cases h : d.sch.jobs.find? fun x => x.num == n with
  | none => rfl
  | some x =>
    have hx : x.num = n := by simpa using List.find?_some h
    simp [hx]

/-- A change of the pre-emption requests alone. -/
def Job.asksOnly (f : Job → Job) : Prop := ∀ x, f x = { x with asks := (f x).asks }

/-- `e` is `d` after requests to pre-empt jobs. -/
def Dev.asked' (d e : Dev) : Prop :=
  ∃ f, Job.asksOnly f ∧ e = { d with sch := { d.sch with jobs := d.sch.jobs.map f } }

theorem Dev.asked'.refl (d : Dev) : d.asked' d := ⟨id, fun _ => rfl, by simp⟩

theorem Dev.asked'.trans {a b c : Dev} (h : a.asked' b) (k : b.asked' c) : a.asked' c := by
  obtain ⟨f, hf, rfl⟩ := h
  obtain ⟨g, hg, rfl⟩ := k
  refine ⟨g ∘ f, fun x => ?_, by simp⟩
  change g (f x) = { x with asks := (g (f x)).asks }
  rw [hg (f x), hf x]

theorem Dev.asked'_askPreempt (d : Dev) (j sem : Nat) (w : Bool) : d.asked' (d.askPreempt j sem w) := by
  refine ⟨_, fun x => ?_, rfl⟩
  dsimp only
  split_ifs <;> rfl

theorem Dev.asked'_schedule (d : Dev) (lk : Locked) : d.asked' (Dev.schedule lk d) := by
  have hl (l : List Nat) (b : Job) (e : Dev) (he : d.asked' e) :
      d.asked' (l.foldl (fun d v => d.askPreempt v (jobSemneed b.desc) (jobWneed b.desc)) e) := by
    induction l generalizing e with
    | nil => exact he
    | cons v l ih => exact ih _ (he.trans (Dev.asked'_askPreempt ..))
  unfold Dev.schedule
  split
  · exact .refl d
  · exact hl _ _ _ (.refl d)

/-- What a request leaves of a job. -/
theorem Dev.asked'.job? {d e : Dev} (h : d.asked' e) (n : Nat) {α : Type} (g : Job → α)
    (hg : ∀ (x : Job) (l : List (Nat × Bool)), g { x with asks := l } = g x) : (e.job? n).map g = (d.job? n).map g := by
  obtain ⟨f, hf, rfl⟩ := h
  have hnum (x : Job) : (f x).num = x.num := by rw [hf x]
  unfold Dev.job?
  dsimp only
  rw [find?_map_num hnum, Option.map_map]
  congr 1
  funext x
  change g (f x) = g x
  rw [hf x, hg]

theorem Dev.asked'.shape {d e : Dev} (h : d.asked' e) : e = { d with sch := { d.sch with jobs := e.sch.jobs } } := by
  obtain ⟨f, -, rfl⟩ := h
  rfl

theorem Dev.asked'.core {d e : Dev} (h : d.asked' e) (c : Nat) : e.core c = d.core c := by
  rw [h.shape]
  rfl

theorem Dev.asked'.reg {d e : Dev} (h : d.asked' e) (p : Page) (n o : Nat) : e.reg p n o = d.reg p n o :=
  Dev.reg_congr (by rw [h.shape]) p n o

/-! ## The end of a job (R406 to R408) -/

/-- STATUS and REASON of a job that ends: completed before faulted before aborted. -/
def Job.verdict (j : Job) : Nat × Nat :=
  if j.ends.contains .completed then (0, 0)
  else match j.ends.findSome? fun e => match e with | .faulted f => some f | _ => none,
      j.ends.findSome? fun e => match e with | .aborted r => some r | _ => none with
    | some f, _ => (2, f)
    | none, some r => (1, r)
    | none, none => (1, 0)

/-- Has one of the requests to end a job found a fault? -/
def Job.hasFault (j : Job) : Bool := j.ends.any fun e => match e with | .faulted _ => true | _ => false

theorem Job.verdict_status (j : Job) :
    j.verdict.1 = if j.ends.contains .completed then 0 else if j.hasFault then 2 else 1 := by
  have hf : j.hasFault = (j.ends.findSome? fun e => match e with | .faulted f => some f | _ => none).isSome := by
    unfold Job.hasFault
    induction j.ends with
    | nil => rfl
    | cons e l ih => cases e <;> simp [ih]
  unfold Job.verdict
  rw [hf]
  cases j.ends.contains .completed
  · cases j.ends.findSome? fun e => match e with | .faulted f => some f | _ => none with
    | some f => rfl
    | none => cases j.ends.findSome? fun e => match e with | .aborted r => some r | _ => none <;> rfl
  · rfl

/-- The counts of a job that ends (R406, R408, R414). -/
def Dev.countVerdict (d : Dev) (status : Nat) (late abortLate : Bool) : Dev :=
  match status with
  | 0 => ((d.bump .sch 0 0x138 1).bump .sch 0 0x148 (b2n late)).bump .sch 0 0x14C (b2n abortLate)
  | 1 => d.bump .sch 0 0x13C 1
  | _ => (d.bump .sch 0 0x140 1).sticky .sch 0 1

/-- The counts and sticky bits of a job that ends (R406, R408, R414). -/
def Dev.countEnd (d : Dev) (status reason : Nat) (late abortLate : Bool) : Dev :=
  let d := d.countVerdict status late abortLate
  let d := if late || (status == 1 && reason == 2) then d.sticky .sch 0 2 else d
  let d := if status == 1 && reason == 3 then d.sticky .sch 0 4 else d
  if status == 1 && reason == 4 then d.sticky .sch 0 3 else d

/-- The semaphores that the job waits for or holds are given up (R409). -/
def Dev.quitSems (d : Dev) (num status : Nat) : Dev :=
  let quit (s : SemSt) : SemSt := { s with waiters := s.waiters.filter fun w => w.1 != num }
  let d := { d with sems := d.sems.map quit }
  let d := if status = 0 then d
    else (List.range 64).foldl (fun d k =>
      match (d.sems.toList.getD k {}).holder with
      | some h => if h.1 = num then d.breakSem k else d
      | none => d) d
  { d with sch := { d.sch with credits := d.sch.credits.filter fun (x : Nat × Nat × Nat) => x.2.1 != num } }

/-- A core that holds the job leaves it (R407). -/
def Dev.leaveCore (num status : Nat) (d : Dev) (c : Nat) : Dev :=
  if (d.core c).job ≠ some num then d
  else if status = 0 then d.endCore c
  else if (d.core c).state = 6 then d.retireCore c
  else d.stopCore c

/-- The job leaves the scheduler and its barriers (R408). -/
def Dev.dropJob (d : Dev) (num : Nat) (j : Job) (done : Bool) : Dev :=
  { d with
    bars := d.bars.filter fun b => b.job != num
    sch := { d.sch with
      jobs := d.sch.jobs.filter fun x => x.num != num
      notices := if j.src = 0 then d.sch.notices ++ [(jobCell j.desc, jobSlot j.desc, done)] else d.sch.notices } }

/-- Did a NEAR job complete after its deadline? -/
def Dev.endsLate (d : Dev) (j : Job) : Bool := j.ends.contains .completed && j.cls == 1 && laterThan d.ns (jobDeadline j.desc)

/-- Did an abort come too late for a job that had completed? -/
def Job.abortLate (j : Job) : Bool :=
  j.ends.contains .completed && (j.ends.findSome? fun e => match e with | .aborted r => some r | _ => none).isSome

/-- The device when the job has left it, before the event and the standing decisions. -/
def Dev.leftBy (d : Dev) (num : Nat) (j : Job) : Dev :=
  ((List.range 8).foldl (Dev.leaveCore num j.verdict.1)
    ((d.countEnd j.verdict.1 j.verdict.2 (d.endsLate j) j.abortLate).quitSems num j.verdict.1)).dropJob num j
      (j.ends.contains .completed)

theorem effJobEnd_eq {d : Dev} {num : Nat} {j : Job} (h : d.job? num = some j) (he : j.ends ≠ []) (lk : Locked) :
    effJobEnd num lk d = Dev.schedule lk ((((d.leftBy num j).postJobEnd j.desc j.verdict.1 j.verdict.2 j.abortLate
      (d.endsLate j)).tsig (((d.leftBy num j).postJobEnd j.desc j.verdict.1 j.verdict.2 j.abortLate
      (d.endsLate j)).beatsSince j.admitTick))) := by
  unfold effJobEnd
  split
  next h' => exact absurd (h.symm.trans h') (by simp)
  next j' h' =>
    obtain rfl := Option.some_inj.1 (h.symm.trans h')
    rw [if_neg (by simpa using he)]
    extract_lets done abort fault late
    split
    next status reason hv =>
      have hj : j.verdict = (status, reason) := hv
      extract_lets d1 d2 d3 d4 d5 d6 d7 d8 d9 d10 d11 d12
      have e4 : d4 = d.countEnd status reason late j.abortLate := rfl
      clear_value d4
      have e8 : d8 = d4.quitSems num status := rfl
      clear_value d8
      have e9 : d9 = (List.range 8).foldl (Dev.leaveCore num status) d8 := rfl
      clear_value d9
      have e11 : d11 = d9.dropJob num j done := rfl
      clear_value d11
      have hd : d.leftBy num j = d11 := by
        unfold Dev.leftBy
        rw [hj, e11, e9, e8, e4]
        rfl
      rw [hd, hj]
      rfl

/-- What the end of a job leaves alone on its way: the cores, the barriers, the jobs and the registers of SCH. -/
structure Dev.endKeeps (d e : Dev) : Prop where
  cores : e.cores = d.cores
  bars : e.bars = d.bars
  jobs : e.sch.jobs = d.sch.jobs
  regs : ∀ o < 0x1000, e.reg .sch 0 o = d.reg .sch 0 o

theorem Dev.endKeeps.refl (d : Dev) : d.endKeeps d := ⟨rfl, rfl, rfl, fun _ _ => rfl⟩

theorem Dev.endKeeps.trans {a b c : Dev} (h : a.endKeeps b) (k : b.endKeeps c) : a.endKeeps c :=
  ⟨k.cores.trans h.cores, k.bars.trans h.bars, k.jobs.trans h.jobs, fun o ho => (k.regs o ho).trans (h.regs o ho)⟩

theorem Dev.endKeeps_post (d : Dev) (p : Page) (n src sub inst : Nat) (bs : List Byte) : d.endKeeps (d.post p n src sub inst bs) :=
  ⟨by simp, by simp, by simp, fun o ho => Dev.reg_post_ne _ _ _ _ _ (by simp; omega) (by simp; omega) (by simp; omega)⟩

theorem Dev.endKeeps_tsig (d : Dev) (v : Nat) : d.endKeeps (d.tsig v) := by
  unfold Dev.tsig
  split
  · exact ⟨rfl, rfl, rfl, fun o ho => Dev.reg_setReg_ne _ _ (by simp; omega)⟩
  · exact .refl d

/-- The registers of a broken semaphore (R409). -/
def Dev.semBrokenRegs (d : Dev) (k : Nat) : Dev :=
  let off := 0x108 + 4 * (k / 32)
  let d := d.setReg .sem 0 off (d.reg .sem 0 off ||| 2 ^ (k % 32))
  (d.setReg .sem 0 0x020 (d.reg .sem 0 0x020 ||| 1)).bump .sem 0 0x110 1

theorem Dev.semBrokenRegs_regsOnly (d : Dev) (k : Nat) : d.regsOnly (d.semBrokenRegs k) :=
  ((d.setReg_regsOnly ..).trans (Dev.setReg_regsOnly ..)).trans (Dev.bump_regsOnly ..)

/-- A semaphore that is held is taken from its holder, with its event. -/
theorem Dev.breakSem_eq {d : Dev} {k : Nat} {h : Nat × Nat × Nat} (hh : (d.sems.toList.getD k {}).holder = some h) :
    d.breakSem k = (Dev.semBrokenRegs { d with sems := d.sems.setIfInBounds k { d.sems.toList.getD k {} with holder := none } } k).post
      .sch 0 0x02 2 0 (layout 20 [(0, 2, k), (4, 4, ((d.job? h.1).map fun b => leAt b.desc 0 4).getD 0)]) := by
  unfold Dev.breakSem
  dsimp only
  split
  next h' => exact absurd (hh.symm.trans h') (by simp)
  next h' hs =>
    obtain rfl := Option.some_inj.1 (hh.symm.trans hs)
    rfl

theorem Dev.endKeeps_breakSem (d : Dev) (k : Nat) : d.endKeeps (d.breakSem k) := by
  cases hh : (d.sems.toList.getD k {}).holder with
  | none =>
    have he : d.breakSem k = d := by simp only [Dev.breakSem, hh]
    rw [he]
    exact .refl d
  | some h =>
    rw [Dev.breakSem_eq hh]
    refine Dev.endKeeps.trans (b := Dev.semBrokenRegs { d with sems := d.sems.setIfInBounds k { d.sems.toList.getD k {} with
      holder := none } } k) ?_ (Dev.endKeeps_post ..)
    generalize d.sems.setIfInBounds k { d.sems.toList.getD k {} with holder := none } = x
    refine ⟨?_, ?_, ?_, fun o ho => ?_⟩
    · rw [Dev.semBrokenRegs_regsOnly]
    · rw [Dev.semBrokenRegs_regsOnly]
    · rw [Dev.semBrokenRegs_regsOnly]
    · unfold Dev.semBrokenRegs
      dsimp only
      rw [Dev.reg_bump_ne _ _ (by simp; omega), Dev.reg_setReg_ne _ _ (by simp; omega), Dev.reg_setReg_ne _ _ (by simp; omega)]
      exact Dev.reg_congr rfl _ _ _

theorem Dev.endKeeps_quitSems (d : Dev) (num status : Nat) : d.endKeeps (d.quitSems num status) := by
  have hstep (e : Dev) (k : Nat) : Dev.endKeeps e (match (e.sems.toList.getD k {}).holder with
      | some h => if h.1 = num then e.breakSem k else e
      | none => e) := by
    split
    · split
      · exact e.endKeeps_breakSem k
      · exact .refl e
    · exact .refl e
  have hfold (l : List Nat) (e : Dev) (he : d.endKeeps e) : d.endKeeps (l.foldl (fun d k =>
      match (d.sems.toList.getD k {}).holder with
      | some h => if h.1 = num then d.breakSem k else d
      | none => d) e) := by
    induction l generalizing e with
    | nil => exact he
    | cons k l ih =>
      exact ih _ (he.trans (hstep e k))
  have h0 (s : Vector SemSt 64) : d.endKeeps { d with sems := s } := ⟨rfl, rfl, rfl, fun o _ => Dev.reg_congr rfl _ _ _⟩
  have h1 (e : Dev) (cr : List (Nat × Nat × Nat)) : e.endKeeps { e with sch := { e.sch with credits := cr } } :=
    ⟨rfl, rfl, rfl, fun o _ => Dev.reg_congr rfl _ _ _⟩
  unfold Dev.quitSems
  dsimp only
  refine Dev.endKeeps.trans ?_ (h1 _ _)
  split
  · exact h0 _
  · exact hfold _ _ (h0 _)

/-- The counts of a job that ends are those of its STATUS. -/
theorem Dev.countEnd_spec (d : Dev) {status : Nat} (hs : status ≤ 2) (reason : Nat) (late abortLate : Bool) :
    d.regsOnly (d.countEnd status reason late abortLate) ∧
    (d.countEnd status reason late abortLate).reg .sch 0 0x138 = satAdd (d.reg .sch 0 0x138) (if status = 0 then 1 else 0) ∧
    (d.countEnd status reason late abortLate).reg .sch 0 0x13C = satAdd (d.reg .sch 0 0x13C) (if status = 1 then 1 else 0) ∧
    (d.countEnd status reason late abortLate).reg .sch 0 0x140 = satAdd (d.reg .sch 0 0x140) (if status = 2 then 1 else 0) := by
  have h0 (o : Nat) : satAdd (d.reg .sch 0 o) 0 = d.reg .sch 0 o := satAdd_zero (d.reg_lt ..)
  have hst (e : Dev) (b : Bool) (k : Nat) : e.regsOnly (if b then e.sticky .sch 0 k else e) ∧ ∀ o, o ≠ 0x150 → o ≠ 0x020 →
      (if b then e.sticky .sch 0 k else e).reg .sch 0 o = e.reg .sch 0 o := by
    split
    · exact ⟨e.sticky_regsOnly .., fun o h1 h2 => Dev.reg_sticky_ne _ _ (by simp; omega) (by simp; omega)⟩
    · exact ⟨.refl e, fun _ _ _ => rfl⟩
  have hcount : d.regsOnly (d.countVerdict status late abortLate) ∧
      (d.countVerdict status late abortLate).reg .sch 0 0x138 = satAdd (d.reg .sch 0 0x138) (if status = 0 then 1 else 0) ∧
      (d.countVerdict status late abortLate).reg .sch 0 0x13C = satAdd (d.reg .sch 0 0x13C) (if status = 1 then 1 else 0) ∧
      (d.countVerdict status late abortLate).reg .sch 0 0x140 = satAdd (d.reg .sch 0 0x140) (if status = 2 then 1 else 0) := by
    obtain rfl | rfl | rfl : status = 0 ∨ status = 1 ∨ status = 2 := by omega
    · exact ⟨((d.bump_regsOnly ..).trans (Dev.bump_regsOnly ..)).trans (Dev.bump_regsOnly ..), by simp [Dev.countVerdict],
        by simp [Dev.countVerdict, h0], by simp [Dev.countVerdict, h0]⟩
    · exact ⟨d.bump_regsOnly .., by simp [Dev.countVerdict, h0], by simp [Dev.countVerdict], by simp [Dev.countVerdict, h0]⟩
    · exact ⟨(d.bump_regsOnly .sch 0 0x140 1).trans (Dev.sticky_regsOnly _ .sch 0 1), by simp [Dev.countVerdict, h0], by simp [Dev.countVerdict, h0],
        by simp [Dev.countVerdict]⟩
  obtain ⟨he, r1, r2, r3⟩ := hcount
  unfold Dev.countEnd
  dsimp only
  generalize d.countVerdict status late abortLate = e at *
  obtain ⟨k1, q1⟩ := hst e (late || (status == 1 && reason == 2)) 2
  generalize (if late || (status == 1 && reason == 2) then e.sticky .sch 0 2 else e) = f at *
  obtain ⟨k2, q2⟩ := hst f (status == 1 && reason == 3) 4
  generalize (if status == 1 && reason == 3 then f.sticky .sch 0 4 else f) = g at *
  obtain ⟨k3, q3⟩ := hst g (status == 1 && reason == 4) 3
  have hq (o : Nat) (h1 : o ≠ 0x150) (h2 : o ≠ 0x020) := (q3 o h1 h2).trans ((q2 o h1 h2).trans (q1 o h1 h2))
  exact ⟨((he.trans k1).trans k2).trans k3, (hq _ (by decide) (by decide)).trans r1, (hq _ (by decide) (by decide)).trans r2,
    (hq _ (by decide) (by decide)).trans r3⟩

theorem busRegs_sch : ∀ a ∈ busRegs.map RegAt.addr, a < 0x6000 ∨ 0x7000 ≤ a := by decide +kernel

/-- A write of a block through the device map reaches nothing of the scheduler. -/
theorem Dev.blkKeeps.ending {d e : Dev} (h : d.blkKeeps e) : d.endKeeps e := by
  refine ⟨h.cores, ?_, ?_, fun o ho => h.bus.regs _ _ _ fun hm => ?_⟩
  · rw [h.shape]
  · rw [h.shape]
  · have := busRegs_sch _ hm
    simp at this
    omega

theorem Dev.endKeeps_writeDec (lk : Locked) (d : Dev) (c s : Nat) (x : DecEntry) : d.endKeeps (Dev.writeDec lk d c s x) := by
  have h0 : d.endKeeps (if d.decHolds c s then d.busStore lk .rsv (d.decAddr c s x.grant) x.bytes else d) := by
    split
    · exact (d.blkKeeps_busStore lk (q := .rsv) ⟨rfl, fun _ => by simp⟩ ..).ending
    · exact .refl d
  unfold Dev.writeDec
  generalize (if d.decHolds c s then d.busStore lk .rsv (d.decAddr c s x.grant) x.bytes else d) = e at *
  dsimp only
  split
  · refine h0.trans ⟨by simp [Dev.countFinal], by simp [Dev.countFinal], by simp [Dev.countFinal], fun o ho => ?_⟩
    unfold Dev.countFinal
    simp (disch := simp; omega)
  · exact h0

theorem Dev.endKeeps_finalise (lk : Locked) (d : Dev) (c s : Nat) (e : DecEntry) (path reason alpha conf : Nat) :
    d.endKeeps (d.finalise lk c s e path reason alpha conf) := by
  have hset (x : DecEntry) : d.endKeeps (d.setDec c s x) := ⟨rfl, rfl, rfl, fun _ _ => rfl⟩
  unfold Dev.finalise
  exact (hset _).trans (Dev.endKeeps_writeDec ..)

theorem Dev.endKeeps_foldl {α : Type} (f : Dev → α → Dev) (hf : ∀ d x, Dev.endKeeps d (f d x)) (l : List α) (d : Dev) :
    d.endKeeps (l.foldl f d) := by
  induction l generalizing d with
  | nil => exact .refl d
  | cons x l ih => exact (hf d x).trans (ih _)

theorem Dev.endKeeps_submitTemplate (lk : Locked) (d : Dev) (src a cell slot ref : Nat) :
    d.endKeeps (d.submitTemplate lk .rsv src a cell slot ref) := by
  unfold Dev.submitTemplate
  split
  · exact .refl d
  · have h := (d.readKeeps_busBytes lk .rsv a 128 false).blk.ending
    exact ⟨h.cores, h.bars, h.jobs, h.regs⟩

/-- A count, a sticky bit and an event of the supervisor. -/
theorem Dev.endKeeps_note (d : Dev) (o k b sub inst n : Nat) (bs : List Byte) :
    d.endKeeps (((d.bump .rsv 0 o k).sticky .rsv 0 b).post .rsv n 0x06 sub inst bs) := by
  refine Dev.endKeeps.trans (b := (d.bump .rsv 0 o k).sticky .rsv 0 b) ⟨by simp, by simp, by simp, fun a ha => ?_⟩
    (Dev.endKeeps_post ..)
  rw [Dev.reg_sticky_ne _ _ (by simp; omega) (by simp; omega), Dev.reg_bump_ne _ _ (by simp; omega)]

theorem Dev.endKeeps_jobNotice (lk : Locked) (d : Dev) (n : Nat × Nat × Bool) : d.endKeeps (d.jobNotice lk n) := by
  unfold Dev.jobNotice
  extract_lets c member fb
  split
  · split
    · exact .refl d
    · exact Dev.endKeeps_note ..
  next p hp =>
    extract_lets e es d1 es' d2 d3
    split
    · have hfin : d.endKeeps d1 := Dev.endKeeps_foldl _ (fun d x => d.endKeeps_finalise ..) es d
      split
      · exact hfin
      · exact hfin.trans (Dev.endKeeps_note ..)
    · have hfin : d.endKeeps d2 := Dev.endKeeps_foldl _ (fun d x => d.endKeeps_finalise ..) es' d
      have htmp : d2.endKeeps d3 := by
        unfold d3
        split
        · exact .refl _
        · exact Dev.endKeeps_submitTemplate ..
      exact (hfin.trans htmp).trans (Dev.endKeeps_note ..)

theorem Dev.endKeeps_takeNotices (lk : Locked) (d : Dev) : d.endKeeps (d.takeNotices lk) :=
  Dev.endKeeps.trans (b := { d with sch := { d.sch with notices := [] } }) ⟨rfl, rfl, rfl, fun _ _ => rfl⟩
    (Dev.endKeeps_foldl _ (fun d n => d.endKeeps_jobNotice lk n) _ _)

/-- With no end of a job to hear of, the supervisor hears nothing. -/
theorem Dev.takeNotices_nil {d : Dev} (h : d.sch.notices = []) (lk : Locked) : d.takeNotices lk = d := by
  unfold Dev.takeNotices
  rw [h]
  show { d with sch := { d.sch with notices := [] } } = d
  rw [← h]

/-! ## The cores of a job that ends (R407) -/

/-- A core that is ending is free, or goes on ending. -/
theorem Dev.freeCore_spec (d : Dev) {c : Nat} (hc : c < 8) (he : (d.core c).ending = true) :
    d.freeCore c = { d with cores := (d.freeCore c).cores, fresh := (d.freeCore c).fresh } ∧
    (∀ e, e ≠ c → (d.freeCore c).core e = d.core e) ∧
    (((d.freeCore c).core c).job = none ∨ ((d.freeCore c).core c).ending = true) := by
  unfold Dev.freeCore
  dsimp only
  split
  · refine ⟨rfl, fun e hne => ?_, .inl ?_⟩
    · exact (Dev.core_setCore d c e _ hc).trans (if_neg hne)
    · exact congrArg CoreSt.job ((Dev.core_setCore d c c _ hc).trans (if_pos rfl))
  · exact ⟨rfl, fun _ _ => rfl, .inr he⟩

/-- A core that holds the job ends, with every other core as it was. -/
theorem Dev.leaveCore_spec (num status : Nat) (d : Dev) {c : Nat} (hc : c < 8) :
    Dev.leaveCore num status d c = { d with cores := (Dev.leaveCore num status d c).cores
                                            fresh := (Dev.leaveCore num status d c).fresh } ∧
    (∀ e, e ≠ c → (Dev.leaveCore num status d c).core e = d.core e) ∧
    ((d.core c).job ≠ some num → Dev.leaveCore num status d c = d) ∧
    (((Dev.leaveCore num status d c).core c).job = some num → ((Dev.leaveCore num status d c).core c).ending = true) := by
  have hmod (f : CoreSt → CoreSt) (hf : ∀ x, (f x).ending = true) :
      (d.modCore c f).freeCore c = { d with cores := ((d.modCore c f).freeCore c).cores
                                            fresh := ((d.modCore c f).freeCore c).fresh } ∧
      (∀ e, e ≠ c → ((d.modCore c f).freeCore c).core e = d.core e) ∧
      ((((d.modCore c f).freeCore c).core c).job = some num → (((d.modCore c f).freeCore c).core c).ending = true) := by
    have hself : (d.modCore c f).core c = f (d.core c) := (Dev.core_modCore d c c f hc).trans (if_pos rfl)
    obtain ⟨h1, h2, h3⟩ := (d.modCore c f).freeCore_spec hc (by rw [hself, hf])
    refine ⟨h1, fun e he => (h2 e he).trans ((Dev.core_modCore d c e f hc).trans (if_neg he)), fun h => ?_⟩
    obtain h3 | h3 := h3
    · rw [h3] at h
      simp at h
    · exact h3
  unfold Dev.leaveCore
  by_cases hj : (d.core c).job ≠ some num
  · rw [if_pos hj]
    exact ⟨rfl, fun _ _ => rfl, fun _ => rfl, fun h => absurd h hj⟩
  · rw [if_neg hj]
    split_ifs
    · obtain ⟨h1, h2, h3⟩ := hmod (fun x => { x with state := 7, ending := true }) fun _ => rfl
      exact ⟨h1, h2, fun h => absurd h hj, h3⟩
    · obtain ⟨h1, h2, h3⟩ := hmod (fun x => { x with
        ending := true, wipe := true, leaving := false, switchTo := none, spill := []
        lcs := x.lcs.map fun l => { l with gln := l.gln.halt true } }) fun _ => rfl
      exact ⟨h1, h2, fun h => absurd h hj, h3⟩
    · obtain ⟨h1, h2, h3⟩ := hmod (fun x => { x with
        ending := true, wipe := true, leaving := false, state := 7, stall := 0, stallSince := none, govWait := none
        switchTo := none, spill := [], htb := [], wash := {}, poisonLoads := []
        lcs := x.lcs.map fun l => { pc := l.pc, gln := l.gln.halt false }
        plate := { ballast := x.plate.ballast } }) fun _ => rfl
      exact ⟨h1, h2, fun h => absurd h hj, h3⟩

theorem Dev.leaveCores_spec (num status : Nat) (l : List Nat) (hl : ∀ c ∈ l, c < 8) (d : Dev) :
    l.foldl (Dev.leaveCore num status) d = { d with cores := (l.foldl (Dev.leaveCore num status) d).cores
                                                    fresh := (l.foldl (Dev.leaveCore num status) d).fresh } ∧
    (∀ c, (d.core c).job ≠ some num → (l.foldl (Dev.leaveCore num status) d).core c = d.core c) ∧
    (∀ c, (c ∈ l ∨ ((d.core c).job = some num → (d.core c).ending = true)) →
      ((l.foldl (Dev.leaveCore num status) d).core c).job = some num →
      ((l.foldl (Dev.leaveCore num status) d).core c).ending = true) := by
  induction l generalizing d with
  | nil =>
    refine ⟨rfl, fun _ _ => rfl, fun c hc h => ?_⟩
    obtain hc | hc := hc
    · exact absurd hc (by simp)
    · exact hc h
  | cons a l ih =>
    have ha := hl a List.mem_cons_self
    obtain ⟨s1, s2, s3, s4⟩ := Dev.leaveCore_spec num status d ha
    obtain ⟨i1, i2, i3⟩ := ih (fun c hc => hl c (List.mem_cons_of_mem _ hc)) (Dev.leaveCore num status d a)
    rw [List.foldl_cons]
    refine ⟨?_, fun c hc => ?_, fun c hc h => ?_⟩
    · generalize l.foldl (Dev.leaveCore num status) (Dev.leaveCore num status d a) = f at *
      generalize Dev.leaveCore num status d a = e at *
      obtain ⟨x, y, rfl⟩ : ∃ x y, e = { d with cores := x, fresh := y } := ⟨_, _, s1⟩
      exact i1
    · have hstep : (Dev.leaveCore num status d a).core c = d.core c := by
        by_cases hca : c = a
        · rw [hca, s3 (hca ▸ hc)]
        · exact s2 c hca
      rw [i2 c (by rw [hstep]; exact hc), hstep]
    · refine i3 c ?_ h
      by_cases hca : c = a
      · exact .inr (by rw [hca]; exact s4)
      · obtain hc | hc := hc
        · exact .inl (by simpa [hca] using hc)
        · exact .inr (by rw [s2 c hca]; exact hc)

/-! ## All of it -/

theorem Dev.core_past (d : Dev) {c : Nat} (h : ¬ c < 8) : d.core c = {} := by
  rw [Dev.core, dif_neg h]

theorem Dev.leftBy_spec (d : Dev) (num : Nat) (j : Job) :
    (d.leftBy num j).job? num = none ∧ (∀ b ∈ (d.leftBy num j).bars, b.job ≠ num) ∧
    (∀ c, ((d.leftBy num j).core c).job = some num → ((d.leftBy num j).core c).ending = true) ∧
    (∀ c, (d.core c).job ≠ some num → (d.leftBy num j).core c = d.core c) ∧
    (d.leftBy num j).reg .sch 0 0x138 = satAdd (d.reg .sch 0 0x138) (if j.verdict.1 = 0 then 1 else 0) ∧
    (d.leftBy num j).reg .sch 0 0x13C = satAdd (d.reg .sch 0 0x13C) (if j.verdict.1 = 1 then 1 else 0) ∧
    (d.leftBy num j).reg .sch 0 0x140 = satAdd (d.reg .sch 0 0x140) (if j.verdict.1 = 2 then 1 else 0) := by
  have hst : j.verdict.1 ≤ 2 := by
    rw [Job.verdict_status]
    split_ifs <;> decide
  obtain ⟨c1, c2, c3, c4⟩ := d.countEnd_spec hst j.verdict.2 (d.endsLate j) j.abortLate
  have hq := (d.countEnd j.verdict.1 j.verdict.2 (d.endsLate j) j.abortLate).endKeeps_quitSems num j.verdict.1
  obtain ⟨l1, l2, l3⟩ := Dev.leaveCores_spec num j.verdict.1 (List.range 8) (fun c hc => List.mem_range.1 hc)
    ((d.countEnd j.verdict.1 j.verdict.2 (d.endsLate j) j.abortLate).quitSems num j.verdict.1)
  unfold Dev.leftBy
  generalize d.countEnd j.verdict.1 j.verdict.2 (d.endsLate j) j.abortLate = e at *
  generalize e.quitSems num j.verdict.1 = f at *
  have hcore (c : Nat) : f.core c = d.core c := Dev.core_eq_of_cores (hq.cores.trans (by rw [c1])) c
  generalize (List.range 8).foldl (Dev.leaveCore num j.verdict.1) f = g at *
  have hreg (o : Nat) (ho : o < 0x1000) : (g.dropJob num j (j.ends.contains .completed)).reg .sch 0 o = e.reg .sch 0 o := by
    rw [← hq.regs o ho]
    exact Dev.reg_congr (by rw [l1]; rfl) _ _ _
  have hgc (c : Nat) : (g.dropJob num j (j.ends.contains .completed)).core c = g.core c := rfl
  refine ⟨?_, fun b hb => ?_, fun c h => ?_, fun c h => ?_, (hreg _ (by decide)).trans c2, (hreg _ (by decide)).trans c3,
    (hreg _ (by decide)).trans c4⟩
  · unfold Dev.job? Dev.dropJob
    simp
  · simpa using (List.mem_filter.1 hb).2
  · rw [hgc] at h ⊢
    by_cases hc : c < 8
    · exact l3 c (.inl (List.mem_range.2 hc)) h
    · rw [g.core_past hc] at h
      simp at h
  · rw [hgc, l2 c (by rw [hcore]; exact h), hcore]

theorem effJobEnd_spec {d : Dev} {num : Nat} {j : Job} (h : d.job? num = some j) (he : j.ends ≠ []) (lk : Locked) :
    (effJobEnd num lk d).job? num = none ∧ (∀ b ∈ (effJobEnd num lk d).bars, b.job ≠ num) ∧
    (∀ c, ((effJobEnd num lk d).core c).job = some num → ((effJobEnd num lk d).core c).ending = true) ∧
    (∀ c, (d.core c).job ≠ some num → (effJobEnd num lk d).core c = d.core c) ∧
    (effJobEnd num lk d).reg .sch 0 0x138 = satAdd (d.reg .sch 0 0x138) (if j.verdict.1 = 0 then 1 else 0) ∧
    (effJobEnd num lk d).reg .sch 0 0x13C = satAdd (d.reg .sch 0 0x13C) (if j.verdict.1 = 1 then 1 else 0) ∧
    (effJobEnd num lk d).reg .sch 0 0x140 = satAdd (d.reg .sch 0 0x140) (if j.verdict.1 = 2 then 1 else 0) := by
  obtain ⟨l1, l2, l3, l4, l5, l6, l7⟩ := d.leftBy_spec num j
  rw [effJobEnd_eq h he]
  have hp : (d.leftBy num j).endKeeps ((d.leftBy num j).postJobEnd j.desc j.verdict.1 j.verdict.2 j.abortLate (d.endsLate j)) :=
    Dev.endKeeps_post ..
  generalize (d.leftBy num j).postJobEnd j.desc j.verdict.1 j.verdict.2 j.abortLate (d.endsLate j) = p at *
  have hk := hp.trans (p.endKeeps_tsig (p.beatsSince j.admitTick))
  generalize p.tsig (p.beatsSince j.admitTick) = e at *
  have ha := e.asked'_schedule lk
  generalize Dev.schedule lk e = f at *
  have hjob : (f.job? num).map (fun _ => ()) = none := by
    rw [ha.job? num (fun _ => ()) fun _ _ => rfl, Dev.job?_congr hk.jobs, l1]
    rfl
  have hcore (c : Nat) : f.core c = (d.leftBy num j).core c := (ha.core c).trans (Dev.core_eq_of_cores hk.cores c)
  have hbars : f.bars = (d.leftBy num j).bars := by rw [ha.shape]; exact hk.bars
  have hreg (o : Nat) (ho : o < 0x1000) : f.reg .sch 0 o = (d.leftBy num j).reg .sch 0 o := (ha.reg ..).trans (hk.regs o ho)
  exact ⟨by simpa using hjob, by rw [hbars]; exact l2, fun c => by rw [hcore]; exact l3 c, fun c hc => by rw [hcore]; exact l4 c hc,
    (hreg _ (by decide)).trans l5, (hreg _ (by decide)).trans l6, (hreg _ (by decide)).trans l7⟩

end Sys2Proof.Machine

open Sys2Proof Sys2Proof.Machine

/-- Settles O29: an abort is a request to end the job, and the end of a job is its counts, its cores and its leaving. -/
theorem jobsEnd : Obligations.JobsEnd := by
  unfold Obligations.JobsEnd
  refine ⟨?deadline, ?watchdog, ?ends⟩
  case deadline =>
    intro s n j hj hcls hr hends hnot
    have hnum := Dev.job?_num hj
    have he : effDeadlineAbort n s.lk s.d = s.d.abortJob s.lk j 2 := by
      unfold effDeadlineAbort
      rw [hj]
      dsimp only
      rw [if_pos (by simp [Job.cls, hcls, hr, hends])]
    have hx := exec_onLk (s := s) (i := .deadlineAbort n) (f := fun lk d => (effDeadlineAbort n lk d).takeNotices lk) rfl
      (congrArg (Dev.takeNotices s.lk) he)
    refine ⟨_, hx, fun hp => ?_, fun hp => ?_⟩
    · have ha : s.d.abortJob s.lk j 2 = s.d.askEnd n (.aborted 2) := by
        unfold Dev.abortJob
        rw [hnum]
        exact if_pos hp
      rw [ha, Dev.takeNotices_nil (show (s.d.askEnd n (.aborted 2)).sch.notices = [] from hnot)]
      exact ⟨rfl, rfl⟩
    · have ha : s.d.abortJob s.lk j 2 = effJobEnd n s.lk (s.d.askEnd n (.aborted 2)) := by
        unfold Dev.abortJob
        rw [hnum]
        exact if_neg hp
      have hj' : (s.d.askEnd n (.aborted 2)).job? n = some { j with ends := j.ends ++ [.aborted 2] } := by
        unfold Dev.askEnd
        rw [Dev.job?_modJob (f := fun x => { x with ends := x.ends ++ [.aborted 2] }) (fun _ => rfl), hj]
        rfl
      obtain ⟨h1, -, -, h4, -, h6, -⟩ := effJobEnd_spec hj' (by simp) s.lk
      rw [ha]
      generalize effJobEnd n s.lk (s.d.askEnd n (.aborted 2)) = e at *
      have hk := e.endKeeps_takeNotices s.lk
      refine ⟨rfl, rfl, (Dev.job?_congr hk.jobs n).trans h1, fun c hc => (Dev.core_eq_of_cores hk.cores c).trans (h4 c hc),
        (hk.regs _ (by decide)).trans (h6.trans ?_)⟩
      rw [if_pos]
      · rfl
      · rw [Job.verdict_status]
        simp [hends, Job.hasFault]
  case watchdog =>
    intro s c n since lim hjob hst hstate hlim hlong
    have he : effWatchdog c.val s.d = s.d.askEnd n (.aborted 3) := by
      unfold effWatchdog
      dsimp only
      rw [hjob, hst]
      dsimp only
      rw [if_pos ⟨hlim, hstate, hlong⟩]
    exact ⟨_, exec_onDev (s := s) (i := .watchdog c) (f := effWatchdog c.val) rfl he, rfl, rfl⟩
  case ends =>
    intro s n j hj he done fault
    obtain ⟨h1, h2, h3, h4, h5, h6, h7⟩ := effJobEnd_spec hj he s.lk
    have hst := j.verdict_status
    have hf : j.hasFault = fault := rfl
    rw [hf] at hst
    have hd : j.ends.contains .completed = done := rfl
    rw [hd] at hst
    have hx := exec_onLk (s := s) (i := .jobEnd n) (f := fun lk d => (effJobEnd n lk d).takeNotices lk) rfl rfl
    refine ⟨_, hx, ?_⟩
    dsimp only
    generalize effJobEnd n s.lk s.d = e at *
    have hk := e.endKeeps_takeNotices s.lk
    have hcore (c : Nat) : (e.takeNotices s.lk).core c = e.core c := Dev.core_eq_of_cores hk.cores c
    refine ⟨rfl, rfl, (Dev.job?_congr hk.jobs n).trans h1, fun b hb => h2 b (hk.bars ▸ hb), fun c => by rw [hcore]; exact h3 c,
      fun c hc => (hcore c).trans (h4 c hc), ?_, ?_, ?_⟩
    · rw [hk.regs _ (by decide), h5, hst]
      cases done <;> cases fault <;> rfl
    · rw [hk.regs _ (by decide), h6, hst]
      cases done <;> cases fault <;> rfl
    · rw [hk.regs _ (by decide), h7, hst]
      cases done <;> cases fault <;> rfl

end

section
/-! SUPPORT. What a core's own writes leave alone, and pre-emption and the slices of the job scheduler (O28). -/

namespace Sys2Proof.Machine

/-! ## Writes of a core through the device map (R100, R233, R419) -/

/-- The registers in which the moves of a core count. -/
def moveRegs : List RegAt :=
  busRegs ++ (List.range 8).flatMap fun c => [(.gln, c, 0x10C), (.gln, c, 0x110), (.gln, c, 0x11C), (.gln, c, 0x020)]

theorem mem_moveRegs_gln {c : Nat} (h : c < 8) : (.gln, c, 0x10C) ∈ moveRegs ∧ (.gln, c, 0x110) ∈ moveRegs ∧
    (.gln, c, 0x11C) ∈ moveRegs ∧ (.gln, c, 0x020) ∈ moveRegs := by
  simp [moveRegs, h]

theorem busRegs_subset_moveRegs : busRegs ⊆ moveRegs := fun _ h => List.mem_append_left _ h

theorem moveRegs_sch : ∀ a ∈ moveRegs.map RegAt.addr, a < 0x6000 ∨ 0x7000 ≤ a := by decide +kernel

/-- What the moves of a core to and from the device map leave alone: the cores among them. -/
structure Dev.moveKeeps (d e : Dev) : Prop where
  shape : e = { d with rg := e.rg, ms := e.ms, tbl := e.tbl, streams := e.streams, pci := e.pci, wtn := e.wtn, fresh := e.fresh }
  regs : d.keepsRegs e moveRegs

theorem Dev.moveKeeps.refl (d : Dev) : d.moveKeeps d := ⟨rfl, .refl d _⟩

theorem Dev.moveKeeps.trans {a b c : Dev} (h : a.moveKeeps b) (k : b.moveKeeps c) : a.moveKeeps c := by
  refine ⟨?_, h.regs.trans k.regs⟩
  rw [k.shape, h.shape]

theorem Dev.moveKeeps.cores {d e : Dev} (h : d.moveKeeps e) : e.cores = d.cores := by rw [h.shape]

theorem Dev.moveKeeps.sch {d e : Dev} (h : d.moveKeeps e) : e.sch = d.sch := by rw [h.shape]

theorem Dev.moveKeeps.schReg {d e : Dev} (h : d.moveKeeps e) {o : Nat} (ho : o < 0x1000) : e.reg .sch 0 o = d.reg .sch 0 o :=
  h.regs _ _ _ fun hm => by
    have := moveRegs_sch _ hm
    simp at this
    omega

theorem Dev.moveKeeps_of_bus {d e : Dev} (h : d.busKeeps e) (hc : e.cores = d.cores) : d.moveKeeps e := by
  refine ⟨?_, h.regs.mono busRegs_subset_moveRegs⟩
  have hs := h.shape
  rw [hc] at hs
  exact hs

theorem Dev.readKeeps.move {d e : Dev} (h : d.readKeeps e) : d.moveKeeps e := Dev.moveKeeps_of_bus h.bus h.cores

/-- Only the host writes to the memories of the cores (R419). -/
theorem Dev.cores_beatWrite (lk : Locked) (d : Dev) {q : Req} (hq : q.isHost = false) (part a : Nat) (bs : List Byte)
    (pois direct whole : Bool) : (d.beatWrite lk q part a bs pois direct whole).2.cores = d.cores := by
  obtain h | ⟨o, h⟩ | ⟨w, o, p, h, -⟩ | h := d.beatWrite_cases lk q part a bs pois direct whole
  · exact h.cores
  · rw [h]
    exact (d.tblWrite_blk ..).cores
  · rw [h]
    unfold Dev.windowWrite
    split
    · rfl
    · simp
  · exact absurd (Dev.target_core_none hq) h

theorem Dev.moveKeeps_busWrite (lk : Locked) (d : Dev) {q : Req} (hq : q.isHost = false) (part a : Nat) (bs : List Byte)
    (ps : List Bool) (direct : Bool) : d.moveKeeps (d.busWrite lk q part a bs ps direct).2 := by
  refine Dev.moveKeeps_of_bus (d.busKeeps_busWrite ..) ?_
  unfold Dev.busWrite
  suffices hk : ∀ (l : List ((Nat × Nat) × Nat)) (x : Nat × Dev), x.2.cores = d.cores →
      (l.foldl (fun (x : Nat × Dev) (y : (Nat × Nat) × Nat) =>
        let ln := y.1.1 / 128 * 128
        let r := x.2.beatWrite lk q part y.1.1 (slice bs (y.1.1 - a) y.1.2) (ps.getD y.2 false) direct
          (decide (a ≤ ln) && decide (ln + 128 ≤ a + bs.length))
        (x.1 + b2n r.1, r.2)) x).2.cores = d.cores from hk _ _ d.readKeeps_newWrite.cores
  intro l
  induction l with
  | nil => exact fun _ hx => hx
  | cons y l ih => exact fun x hx => ih _ ((Dev.cores_beatWrite lk _ hq ..).trans hx)

theorem Dev.moveKeeps_of_regs {d e : Dev} (h : d.regsOnly e) (hk : d.keepsRegs e moveRegs) : d.moveKeeps e := by
  refine ⟨?_, hk⟩
  rw [h]

theorem Dev.moveKeeps_countBeats (d : Dev) {c : Nat} (hc : c < 8) (bad oor : Nat) : d.moveKeeps (d.countBeats c bad oor) := by
  obtain ⟨h10C, h110, h11C, h20⟩ := mem_moveRegs_gln hc
  have hb (e : Dev) (o b n : Nat) (h : (.gln, c, o) ∈ moveRegs) :
      e.moveKeeps (if n = 0 then e else (e.bump .gln c o n).sticky .gln c b) := by
    split
    · exact .refl e
    · exact Dev.moveKeeps_of_regs ((e.bump_regsOnly ..).trans (Dev.sticky_regsOnly ..))
        ((e.keepsRegs_bump _ _ _ _ h).trans (Dev.keepsRegs_sticky _ _ _ _ h11C h20))
  exact (hb d 0x10C 1 bad h10C).trans (hb _ 0x110 2 oor h110)

theorem Dev.moveKeeps_foldl {α : Type} (f : Dev → α → Dev) (hf : ∀ d x, Dev.moveKeeps d (f d x)) (l : List α) (d : Dev) :
    d.moveKeeps (l.foldl f d) := by
  induction l generalizing d with
  | nil => exact .refl d
  | cons x l ih => exact (hf d x).trans (ih _)

theorem Dev.moveKeeps_writeSave (lk : Locked) (d : Dev) {c : Nat} (hc : c < 8) (s : Spill) : d.moveKeeps (d.writeSave lk c s) := by
  have h0 : d.moveKeeps { d with fresh := d.fresh + 1 } := ⟨rfl, Dev.keepsRegs_of_rg rfl _⟩
  have hcore (k : Nat) : Req.isHost (.core k) = false := rfl
  unfold Dev.writeSave
  extract_lets x d1 regs
  clear_value regs
  split
  next oor d2 hw =>
  have hd2 : d1.moveKeeps d2 := by
    have h := Dev.moveKeeps_busWrite lk d1 (hcore c) (d1.partOf c) (x.spillAddr s.lc) regs (List.replicate (regBlock / 64) false) false
    rw [hw] at h
    exact h
  refine (h0.trans hd2).trans ((Dev.moveKeeps_countBeats d2 hc 0 oor).trans (Dev.moveKeeps_foldl _ (fun e r => ?_) _ _))
  extract_lets ps e1
  have he1 : e.moveKeeps e1 := (e.readKeeps_spdUe hc _).move
  clear_value e1
  split
  next oor' e2 hw' =>
  have he2 := Dev.moveKeeps_busWrite lk e1 (hcore c) (e1.partOf c) r.2.2 (x.mem.read r.1 r.2.1) ps false
  rw [hw'] at he2
  exact (he1.trans he2).trans (Dev.moveKeeps_countBeats _ hc ..)

/-! ## Pre-emption (R403, R404) -/

/-- A core that a pre-empted job has left: free, with its memories (R404). -/
def CoreSt.left (x : CoreSt) : CoreSt :=
  { state := 0, imem := x.imem, loaded := x.loaded, mem := x.mem, evq := x.evq, ovc := x.ovc, cyc := x.cyc
    plate := { ballast := x.plate.ballast } }

/-- Core `c` is free; its job goes on waiting when it has left its last core. -/
def Dev.freePreempted (d : Dev) (c : Nat) (j : Job) (lk : Locked) : Dev :=
  let e := d.setCore c (d.core c).left
  if (List.range 8).any fun k => (e.core k).job == some j.num then e
  else e.preempted lk ((e.job? j.num).getD j)

/-- Where a pre-empted job stands after core `c` is free. -/
def Dev.phaseLeft (d : Dev) (c n : Nat) (j : Job) : JobPhase :=
  if (List.range 8).any fun e => e != c && (d.core e).job == some n then j.phase
  else if jobClass j.desc < 2 then .reserved else .queued

theorem Dev.job?_append_new {l : List Job} {n : Nat} {j : Job} (hj : j.num = n) :
    ((l.filter fun y => y.num != n) ++ [j]).find? (fun x => x.num == n) = some j := by
  rw [List.find?_append, List.find?_eq_none.2]
  · simp [hj]
  · intro x hx
    simpa using (List.mem_filter.1 hx).2

theorem Dev.preempted_spec {d : Dev} {n : Nat} {j : Job} (hj : d.job? n = some j) (lk : Locked) :
    d.preempted lk j = { d with sch := (d.preempted lk j).sch } ∧
    ((d.preempted lk j).job? n).map (·.phase) = some (if jobClass j.desc < 2 then .reserved else .queued) := by
  have hnum := Dev.job?_num hj
  have hsch (e : Dev) (he : (e.job? n).map (·.phase) = some (if jobClass j.desc < 2 then .reserved else .queued)) :
      Dev.schedule lk e = { e with sch := (Dev.schedule lk e).sch } ∧
      ((Dev.schedule lk e).job? n).map (·.phase) = some (if jobClass j.desc < 2 then .reserved else .queued) := by
    have ha := e.asked'_schedule lk
    refine ⟨?_, (ha.job? n _ fun _ _ => rfl).trans he⟩
    rw [ha.shape]
  unfold Dev.preempted
  extract_lets ovr j1 jobs
  obtain ⟨h1, h2⟩ := hsch { d with sch := { d.sch with jobs := jobs } } (by
    unfold Dev.job?
    dsimp only [jobs]
    split
    · rw [hnum, Dev.job?_append_new (by exact hnum)]
      rfl
    · have hf (x : Job) : (if x.num = j.num then j1 else x).num = x.num := by
        split
        next h => exact h.symm
        · rfl
      rw [find?_map_num hf]
      unfold Dev.job? at hj
      rw [hj]
      simp only [Option.map_some, if_true]
      rfl)
  refine ⟨?_, h2⟩
  generalize Dev.schedule lk { d with sch := { d.sch with jobs := jobs } } = e at *
  rw [h1]

theorem Dev.freePreempted_spec {d : Dev} {c n : Nat} {j : Job} (hc : c < 8) (hj : d.job? n = some j) {i : Job} (hi : i.num = n)
    (lk : Locked) :
    d.freePreempted c i lk = { d with cores := (d.freePreempted c i lk).cores, sch := (d.freePreempted c i lk).sch } ∧
    d.keepsCores (d.freePreempted c i lk) c ∧ (d.freePreempted c i lk).core c = (d.core c).left ∧
    ((d.freePreempted c i lk).job? n).map (·.phase) = some (d.phaseLeft c n j) := by
  have hany : ((List.range 8).any fun k => ((d.setCore c (d.core c).left).core k).job == some n) =
      (List.range 8).any fun e => e != c && (d.core e).job == some n := by
    congr 1
    funext k
    rw [Dev.core_setCore _ _ _ _ hc]
    by_cases h : k = c
    · rw [if_pos h]
      simp [h, CoreSt.left]
    · rw [if_neg h]
      simp [h]
  unfold Dev.freePreempted Dev.phaseLeft
  dsimp only
  rw [hi, hany]
  have hset : (d.setCore c (d.core c).left).job? n = some j := hj
  split
  · exact ⟨rfl, d.keepsCores_setCore hc _, (Dev.core_setCore d c c _ hc).trans (if_pos rfl), by rw [hset]; rfl⟩
  · rw [hset]
    obtain ⟨h1, h2⟩ := Dev.preempted_spec hset lk
    rw [Option.getD_some]
    generalize Dev.preempted (d.setCore c (d.core c).left) lk j = e at *
    obtain ⟨x, rfl⟩ : ∃ x, e = { (d.setCore c (d.core c).left) with sch := x } := ⟨_, h1⟩
    exact ⟨rfl, d.keepsCores_setCore hc _, (Dev.core_setCore d c c _ hc).trans (if_pos rfl), h2⟩

/-- The logical cores that a pre-emption saves now: the one that runs, when it has not ended and has no save (R404). -/
def CoreSt.toSave (x : CoreSt) : List Spill :=
  if x.run.ended || x.spill.any (fun s => s.lc == x.runLc) then [] else [x.save x.runLc (x.run.barrier.getD 0)]

/-- The logical cores that the job takes with it, with their saves. -/
def CoreSt.savedLcs (x : CoreSt) : List SavedLc :=
  (bitList 8 x.hosted).map fun lc =>
    { st := x.lcs.toList.getD lc {}
      spill := ((x.spill ++ x.toSave).find? fun s => s.lc == lc).getD
        { lc := lc, ranges := [], tiles := Vector.replicate 16 {}, slots := Vector.replicate 4 .reset } }

/-- Is the core at a pre-emption point (R404)? -/
def CoreSt.atPoint (x : CoreSt) : Bool :=
  (x.run.barrier.isSome && x.state == 3) || x.state == 5 || (x.run.ended && x.switchTo.isSome)

/-- The core shows its save (log 110). -/
def CoreSt.showSave (x : CoreSt) : CoreSt :=
  { x with leaving := true, state := 4, stall := 0, stallSince := none, govWait := none, switchTo := none }

/-- The count of a pre-emption, and what the job takes with it. -/
def Dev.countYield (d : Dev) (n : Nat) (l : List SavedLc) : Dev :=
  (d.bump .sch 0 0x144 1).modJob n fun y => { y with saved := y.saved ++ l }

theorem effPreemption_leaving {d : Dev} {c n : Nat} {j : Job} (hn : (d.core c).job = some n) (hj : d.job? n = some j)
    (hl : (d.core c).leaving = true) (lk : Locked) : effPreemption c lk d = d.freePreempted c j lk := by
  unfold effPreemption
  extract_lets x l point cur spills saved
  rw [show x.job.bind d.job? = some j by rw [show x.job = some n from hn]; exact hj]
  dsimp only
  rw [if_pos (show x.leaving = true from hl)]
  rfl

theorem effPreemption_point {d : Dev} {c n : Nat} {j : Job} (hn : (d.core c).job = some n) (hj : d.job? n = some j)
    (hl : (d.core c).leaving = false) (hp : (d.core c).atPoint = true) (hd : d.deferred j = false) (he : j.ends = [])
    (hm : d.memWaits = false) (lk : Locked) : effPreemption c lk d =
      if (d.core c).toSave.isEmpty then (((d.core c).toSave.foldl (fun d s => d.writeSave lk c s) d).countYield j.num
        (d.core c).savedLcs).freePreempted c j lk
      else (((d.core c).toSave.foldl (fun d s => d.writeSave lk c s) d).countYield j.num (d.core c).savedLcs).modCore c
        CoreSt.showSave := by
  unfold effPreemption
  extract_lets x l point cur spills saved
  rw [show x.job.bind d.job? = some j by rw [show x.job = some n from hn]; exact hj]
  dsimp only
  rw [if_neg (show ¬ x.leaving = true by rw [show x.leaving = false from hl]; decide),
    if_neg (show ¬ (!point || d.deferred j || !j.ends.isEmpty) = true by
      rw [show point = true from hp, hd, he]; decide), if_neg (by rw [hm]; simp)]
  rfl

theorem Dev.countYield_spec (d : Dev) {n : Nat} {j : Job} (hj : d.job? n = some j) (l : List SavedLc) :
    d.countYield n l = { d with rg := (d.countYield n l).rg, sch := (d.countYield n l).sch } ∧
    d.keepsRegs (d.countYield n l) [(.sch, 0, 0x144)] ∧
    (d.countYield n l).reg .sch 0 0x144 = satAdd (d.reg .sch 0 0x144) 1 ∧
    (d.countYield n l).job? n = some { j with saved := j.saved ++ l } := by
  have hb := d.bump_regsOnly .sch 0 0x144 1
  have hk := d.keepsRegs_bump .sch 0 0x144 1 (l := [(.sch, 0, 0x144)]) (by simp)
  have hr := d.reg_bump_self .sch 0 0x144 1
  unfold Dev.countYield
  generalize d.bump .sch 0 0x144 1 = e at *
  obtain ⟨r, rfl⟩ : ∃ r, e = { d with rg := r } := ⟨_, hb⟩
  refine ⟨rfl, hk, hr, ?_⟩
  rw [Dev.job?_modJob (f := fun y => { y with saved := y.saved ++ l }) (fun _ => rfl)]
  exact congrArg (Option.map _) hj

/-- A core whose job has nothing to save there is free at once. -/
theorem yield_free {d : Dev} {c n : Nat} {j : Job} (hc : c < 8) (hj : d.job? n = some j) (l : List SavedLc) (lk : Locked) :
    ∃ e, e = (d.countYield n l).freePreempted c j lk ∧
      e = { d with rg := e.rg, cores := e.cores, sch := e.sch } ∧ d.keepsCores e c ∧ e.core c = (d.core c).left ∧
      d.keepsRegs e [(.sch, 0, 0x144)] ∧ e.reg .sch 0 0x144 = satAdd (d.reg .sch 0 0x144) 1 ∧
      (e.job? n).map (·.phase) = some (d.phaseLeft c n j) := by
  obtain ⟨c1, c2, c3, c4⟩ := d.countYield_spec hj l
  generalize d.countYield n l = f at *
  obtain ⟨r, x, rfl⟩ : ∃ r x, f = { d with rg := r, sch := x } := ⟨_, _, c1⟩
  obtain ⟨f1, f2, f3, f4⟩ := Dev.freePreempted_spec hc c4 (Dev.job?_num hj) lk
  refine ⟨_, rfl, ?_, f2, f3, ?_, ?_, f4⟩
  · generalize Dev.freePreempted _ c _ lk = e at *
    rw [f1]
  · exact c2.rg_right (by rw [f1])
  · exact (Dev.reg_congr (by rw [f1]) _ _ _).trans c3

end Sys2Proof.Machine

open Sys2Proof Sys2Proof.Machine

/-- Settles O28: a pre-emption point with nothing to save frees its core, another shows its save first. -/
theorem jobsYield : Obligations.JobsYield := by
  unfold Obligations.JobsYield
  refine ⟨?point, ?leaving, ?slice⟩
  case point =>
    intro s c n j x hn hj hp hl hd he hm none'
    have hnum := Dev.job?_num hj
    have hpoint : x.atPoint = true := by simpa [CoreSt.atPoint, or_assoc] using hp
    have heff := effPreemption_point hn hj hl hpoint hd he hm s.lk
    rw [hnum] at heff
    have hx (e : Dev) (h : effPreemption c.val s.lk s.d = e) : exec (.preemption c) s = .next { s with d := e } :=
      exec_onLk (s := s) (i := .preemption c) (f := effPreemption c.val) rfl h
    cases hnone : none' with
    | true =>
      have hsave : x.toSave = [] := if_pos hnone
      obtain ⟨e, he, e1, e2, e3, e4, e5, e6⟩ := yield_free c.isLt hj x.savedLcs s.lk
      rw [show s.d.core c = x from rfl, hsave, List.isEmpty_nil, if_pos rfl, List.foldl_nil, ← he] at heff
      refine ⟨_, hx e heff, rfl, rfl, e2, e5, by rw [e3]; rfl, fun _ => ⟨?_, e4, e3, e6⟩, fun h => absurd h (by decide)⟩
      exact congrArg (fun e : Dev => ({ s with d := e } : State)) e1
    | false =>
      have hsave : x.toSave = [x.save x.runLc (x.run.barrier.getD 0)] := if_neg (show ¬ none' = true by rw [hnone]; decide)
      rw [show s.d.core c = x from rfl, hsave, List.isEmpty_cons, if_neg (by decide), List.foldl_cons, List.foldl_nil] at heff
      have hw := s.d.moveKeeps_writeSave s.lk c.isLt (x.save x.runLc (x.run.barrier.getD 0))
      generalize Dev.writeSave s.lk s.d c (x.save x.runLc (x.run.barrier.getD 0)) = e at *
      obtain ⟨c1, -, c3, c4⟩ := e.countYield_spec ((Dev.job?_congr (by rw [hw.sch]) n).trans hj) x.savedLcs
      generalize e.countYield n x.savedLcs = f at *
      have hcores : f.cores = s.d.cores := by rw [c1, ← hw.cores]
      have hcore : (f.modCore c CoreSt.showSave).core c = x.showSave := by
        rw [Dev.core_modCore_self, Dev.core_eq_of_cores hcores]
      refine ⟨_, hx _ heff, rfl, rfl, (Dev.keepsCores_of_cores hcores c).trans (f.keepsCores_modCore c.isLt _), ?_, ?_,
        fun h => absurd h (by decide), fun _ => ⟨hcore, ?_⟩⟩
      · exact (Dev.reg_congr rfl _ _ _).trans (c3.trans (by rw [hw.schReg (by decide)]))
      · rw [hcore]
        rfl
      · exact (congrArg (Option.map Job.phase) c4).trans rfl
  case leaving =>
    intro s c n j x hn hj hl
    obtain ⟨f1, f2, f3, f4⟩ := Dev.freePreempted_spec c.isLt hj (Dev.job?_num hj) s.lk
    refine ⟨_, exec_onLk (s := s) (i := .preemption c) (f := effPreemption c.val) rfl (effPreemption_leaving hn hj hl s.lk),
      ?_, f2, f3, f4⟩
    exact congrArg (fun e : Dev => ({ s with d := e } : State)) f1
  case slice =>
    intro s n j hj hp hcls ha hel
    have hgo : ¬ (j.phase ≠ .placed ∨ j.cls ≠ 2 ∨ j.sliceAsk ∨ !s.d.elapsed j.since (50000 - j.debit)) := by
      simp [hp, ha, hel, Job.cls, hcls]
    have hx (e : Dev) (h : effSliceEnd n s.d = e) : exec (.sliceEnd n) s = .next { s with d := e } :=
      exec_onDev (s := s) (i := .sliceEnd n) (f := effSliceEnd n) rfl h
    cases hf : s.d.fifoHead 2 with
    | some b =>
      have he : effSliceEnd n s.d = (s.d.askPreempt n (jobSemneed b.desc) (jobWneed b.desc)).modJob n fun x =>
          { x with sliceAsk := true, overFrom := some s.d.tim.tick } := by
        unfold effSliceEnd
        simp only [hj, if_neg hgo, hf]
      refine ⟨_, hx _ he, rfl, rfl, ?_, fun h => absurd h (by simp)⟩
      dsimp only
      rw [Dev.job?_modJob (f := fun x => { x with sliceAsk := true, overFrom := some s.d.tim.tick }) (fun _ => rfl)]
      have hask := (s.d.asked'_askPreempt n (jobSemneed b.desc) (jobWneed b.desc)).job? n (fun _ => ()) fun _ _ => rfl
      rw [hj] at hask
      obtain ⟨y, hy, -⟩ := Option.map_eq_some_iff.1 hask
      rw [hy]
      rfl
    | none =>
      have he : effSliceEnd n s.d = s.d.modJob n fun x => { x with since := s.d.tim.tick, debit := 0 } := by
        unfold effSliceEnd
        simp only [hj, if_neg hgo, hf]
      have hjob := Dev.job?_modJob (f := fun x => { x with since := s.d.tim.tick, debit := 0 }) (fun _ => rfl) s.d n
      rw [hj] at hjob
      exact ⟨_, hx _ he, rfl, rfl, congrArg (Option.map fun x => (x.sliceAsk, x.overFrom)) hjob |>.trans (by simp [ha]),
        fun _ => congrArg (Option.map fun x => (x.since, x.debit)) hjob⟩

end

section
/-! SUPPORT. Placement of a job and the load of its image (O27). -/

namespace Sys2Proof.Machine

/-! ## Placement (R402, R403) -/

/-- A core taken for a job holds it, with its memories as they were. -/
theorem Dev.takeCore_spec (d : Dev) (j : Job) {c : Nat} (hc : c < 8) (i : Nat) :
    d.takeCore j c i = { d with rg := (d.takeCore j c i).rg, cores := (d.takeCore j c i).cores } ∧
    d.keepsCores (d.takeCore j c i) c ∧ ((d.takeCore j c i).core c).job = some j.num ∧
    ((d.takeCore j c i).core c).jobid = j.id ∧ ((d.takeCore j c i).core c).mem = (d.core c).mem := by
  have hset (e : Dev) (x : CoreSt) (h : d.regsOnly e) (hx : x.job = some j.num) (hid : x.jobid = j.id) (hm : x.mem = (d.core c).mem) :
      e.setCore c x = { d with rg := (e.setCore c x).rg, cores := (e.setCore c x).cores } ∧
      d.keepsCores (e.setCore c x) c ∧ ((e.setCore c x).core c).job = some j.num ∧
      ((e.setCore c x).core c).jobid = j.id ∧ ((e.setCore c x).core c).mem = (d.core c).mem := by
    obtain ⟨r, rfl⟩ : ∃ r, e = { d with rg := r } := ⟨_, h⟩
    have hcore := (Dev.core_setCore { d with rg := r } c c x hc).trans (if_pos rfl)
    exact ⟨rfl, d.keepsCores_setCore hc x, by rw [hcore, hx], by rw [hcore, hid], by rw [hcore, hm]⟩
  have hr := (d.setReg_regsOnly .core c 0x108 0).trans (Dev.setReg_regsOnly _ .core c 0x10C 0)
  unfold Dev.takeCore
  extract_lets x q hosted lcs d1 base st live first
  split
  · exact hset _ _ hr rfl rfl rfl
  · exact hset _ _ hr rfl rfl rfl

/-- The cores of a placed job hold it, and no other core has changed. -/
theorem Dev.takeCores_spec (j : Job) (l : List (Nat × Nat)) (hl : ∀ p ∈ l, p.1 < 8) (d : Dev) :
    l.foldl (fun d c => d.takeCore j c.1 c.2) d = { d with rg := (l.foldl (fun d c => d.takeCore j c.1 c.2) d).rg
                                                           cores := (l.foldl (fun d c => d.takeCore j c.1 c.2) d).cores } ∧
    (∀ c, c ∉ l.map (·.1) → (l.foldl (fun d c => d.takeCore j c.1 c.2) d).core c = d.core c) ∧
    (∀ c, (l.foldl (fun d c => d.takeCore j c.1 c.2) d).core c = d.core c ∨
      (((l.foldl (fun d c => d.takeCore j c.1 c.2) d).core c).job = some j.num ∧
        ((l.foldl (fun d c => d.takeCore j c.1 c.2) d).core c).jobid = j.id)) ∧
    (∀ c, ((l.foldl (fun d c => d.takeCore j c.1 c.2) d).core c).mem = (d.core c).mem) ∧
    ∀ c ∈ l.map (·.1), ((l.foldl (fun d c => d.takeCore j c.1 c.2) d).core c).job = some j.num ∧
      ((l.foldl (fun d c => d.takeCore j c.1 c.2) d).core c).jobid = j.id := by
  induction l generalizing d with
  | nil => exact ⟨rfl, fun _ _ => rfl, fun _ => .inl rfl, fun _ => rfl, fun _ h => absurd h (by simp)⟩
  | cons p l ih =>
    obtain ⟨s1, s2, s3, s4, s5⟩ := d.takeCore_spec j (hl p List.mem_cons_self) p.2
    obtain ⟨i1, i2, i3, i4, i5⟩ := ih (fun c hc => hl c (List.mem_cons_of_mem _ hc)) (d.takeCore j p.1 p.2)
    rw [List.foldl_cons]
    generalize l.foldl (fun d c => d.takeCore j c.1 c.2) (d.takeCore j p.1 p.2) = f at *
    generalize d.takeCore j p.1 p.2 = e at *
    obtain ⟨x, y, rfl⟩ : ∃ x y, e = { d with rg := x, cores := y } := ⟨_, _, s1⟩
    have hp (c : Nat) (hc : c = p.1) : (f.core c).job = some j.num ∧ (f.core c).jobid = j.id := by
      subst hc
      obtain h | h := i3 p.1
      · rw [h]
        exact ⟨s3, s4⟩
      · exact h
    refine ⟨i1, fun c hc => ?_, fun c => ?_, fun c => ?_, fun c hc => ?_⟩
    · obtain ⟨hc1, hc2⟩ : c ≠ p.1 ∧ c ∉ l.map (·.1) := by simpa using hc
      rw [i2 c hc2, s2 c hc1]
    · by_cases hc : c = p.1
      · exact .inr (hp c hc)
      · obtain h | h := i3 c
        · exact .inl (h.trans (s2 c hc))
        · exact .inr h
    · rw [i4 c]
      by_cases hc : c = p.1
      · rw [hc, s5]
      · rw [s2 c hc]
    · obtain hc | hc := List.mem_cons.1 hc
      · exact hp c hc
      · exact i5 c hc

/-- A placed job, with its cores. -/
def Dev.placed' (d : Dev) (j : Job) (cs : List Nat) : Job :=
  { j with phase := .placed, cores := cs, order := d.sch.nextOrder, since := d.tim.tick, asks := []
           sliceAsk := false, overFrom := none }

/-- The device with job `num` on its cores. -/
def Dev.placeOn (d : Dev) (num : Nat) (j : Job) : Dev :=
  (j.cores.zipIdx.foldl (fun (d : Dev) c => d.takeCore j c.1 c.2)
    { d with sch := { d.sch with nextOrder := d.sch.nextOrder + 1 } }).modJob num fun _ => { j with saved := [] }

theorem effJobPlacement_spec {d : Dev} {n : Nat} {j : Job} {cs : List Nat} {lk : Locked} (hj : d.job? n = some j)
    (hp : d.placeCores lk j = some cs) : (d.placeOn n (d.placed' j cs)).asked' (effJobPlacement n lk d) := by
  unfold effJobPlacement
  split
  next h => exact absurd (hj.symm.trans h) (by simp)
  next i h =>
  obtain rfl := Option.some_inj.1 (hj.symm.trans h)
  split
  next h' => exact absurd (hp.symm.trans h') (by simp)
  next cs' h' =>
  obtain rfl := Option.some_inj.1 (hp.symm.trans h')
  extract_lets full victim j' sch d1 d2 d3 d4
  have h3 : d3 = d.placeOn n (d.placed' j cs) := rfl
  rw [← h3]
  refine Dev.asked'.trans (b := d4) ?_ (Dev.asked'_schedule ..)
  clear_value victim
  unfold d4
  cases victim with
  | none => exact .refl _
  | some v => exact Dev.asked'_askPreempt ..

theorem Dev.placeOn_spec {d : Dev} {n : Nat} {i : Job} (hi : d.job? n = some i) {j : Job} (hn : j.num = n) (hc : ∀ c ∈ j.cores, c < 8) :
    d.placeOn n j = { d with rg := (d.placeOn n j).rg, cores := (d.placeOn n j).cores, sch := (d.placeOn n j).sch } ∧
    (∀ c ∈ j.cores, ((d.placeOn n j).core c).job = some n ∧ ((d.placeOn n j).core c).jobid = j.id ∧
      ((d.placeOn n j).core c).mem = (d.core c).mem) ∧
    (∀ c, c ∉ j.cores → (d.placeOn n j).core c = d.core c) ∧
    (d.placeOn n j).job? n = some { j with saved := [] } := by
  have hmap : j.cores.zipIdx.map (·.1) = j.cores := by simp
  obtain ⟨h1, h2, -, h4, h5⟩ := Dev.takeCores_spec j j.cores.zipIdx (fun p hp => hc p.1 (by
    rw [← hmap]
    exact List.mem_map_of_mem hp)) { d with sch := { d.sch with nextOrder := d.sch.nextOrder + 1 } }
  rw [hmap] at h2 h5
  unfold Dev.placeOn
  generalize j.cores.zipIdx.foldl (fun d c => d.takeCore j c.1 c.2) { d with sch := { d.sch with nextOrder := d.sch.nextOrder + 1 } } = e at *
  obtain ⟨x, y, rfl⟩ : ∃ x y, e = { d with sch := { d.sch with nextOrder := d.sch.nextOrder + 1 }, rg := x, cores := y } := ⟨_, _, h1⟩
  refine ⟨rfl, fun c hc' => ⟨(h5 c hc').1.trans (by rw [hn]), (h5 c hc').2, h4 c⟩, fun c hc' => h2 c hc', ?_⟩
  have hf (x : Job) : (if x.num = n then { j with saved := [] } else x).num = x.num := by
    split
    next h => exact hn.trans h.symm
    · rfl
  unfold Dev.job? at hi ⊢
  unfold Dev.modJob
  dsimp only
  rw [find?_map_num hf, hi, Option.map_some, if_pos (Dev.job?_num hi)]

/-! ## The load of an image (R395) -/

/-- What the load of one core's part of an image leaves alone. -/
structure Dev.loadKeeps (d e : Dev) (c : Nat) : Prop where
  sch : e.sch = d.sch
  others : d.keepsCores e c
  job : (e.core c).job = (d.core c).job
  state : (e.core c).state = (d.core c).state

theorem Dev.loadKeeps.refl (d : Dev) (c : Nat) : d.loadKeeps d c := ⟨rfl, .refl d c, rfl, rfl⟩

theorem Dev.loadKeeps.trans {a b d : Dev} {c : Nat} (h : a.loadKeeps b c) (k : b.loadKeeps d c) : a.loadKeeps d c :=
  ⟨k.sch.trans h.sch, h.others.trans k.others, k.job.trans h.job, k.state.trans h.state⟩

theorem Dev.loadKeeps_modCore (d : Dev) {c : Nat} (hc : c < 8) (f : CoreSt → CoreSt) (hj : (f (d.core c)).job = (d.core c).job)
    (hs : (f (d.core c)).state = (d.core c).state) : d.loadKeeps (d.modCore c f) c := by
  have hcore := (Dev.core_modCore d c c f hc).trans (if_pos rfl)
  exact ⟨rfl, d.keepsCores_modCore hc f, by rw [hcore, hj], by rw [hcore, hs]⟩

theorem Dev.readKeeps.sch {d e : Dev} (h : d.readKeeps e) : e.sch = d.sch := by rw [h.shape]

theorem Dev.readKeeps.load {d e : Dev} (h : d.readKeeps e) (c : Nat) : d.loadKeeps e c := by
  refine ⟨by rw [h.shape], Dev.keepsCores_of_cores h.cores c, ?_, ?_⟩
  · rw [Dev.core_eq_of_cores h.cores]
  · rw [Dev.core_eq_of_cores h.cores]

theorem Dev.loadKeeps_loadImem (lk : Locked) (d : Dev) {c : Nat} (hc : c < 8) (lc : Nat) : d.loadKeeps (d.loadImem lk c lc) c := by
  unfold Dev.loadImem
  extract_lets x im
  split
  · exact .refl d c
  · split
    next bs ps oor e he =>
    have h := (d.readKeeps_busRead lk (.core c) (d.partOf c) im.prog (64 * im.len) false).load c
    rw [he] at h
    exact h.trans (Dev.loadKeeps_modCore e hc _ rfl rfl)

theorem Dev.loadKeeps_loadInit (lk : Locked) (d : Dev) {c : Nat} (hc : c < 8) (lc : Nat) : d.loadKeeps (d.loadInit lk c lc) c := by
  unfold Dev.loadInit
  extract_lets im
  split
  next bs ps oor e he =>
  have h := (d.readKeeps_busRead lk (.core c) (d.partOf c) im.initAddr im.initLen false).load c
  rw [he] at h
  exact h.trans (Dev.loadKeeps_modCore e hc _ rfl rfl)

theorem Dev.readKeeps_readLive (lk : Locked) (c n a : Nat) (d : Dev) : d.readKeeps (Dev.readLive lk c n a d).2 := by
  induction n generalizing a d with
  | zero => exact .refl d
  | succ n ih =>
    unfold Dev.readLive
    split
    next bs ps oor e he =>
    have h := d.readKeeps_busRead lk (.core c) (d.partOf c) a 8 false
    rw [he] at h
    extract_lets len
    split
    · exact h
    · exact h.trans (ih ..)

/-- The images of the logical cores that are used. -/
def Dev.readImages (lk : Locked) (c0 base : Nat) (h : List Byte) (r : List (Nat × LcImage) × Dev) (k : Nat) :
    List (Nat × LcImage) × Dev :=
  let e := slice h (64 + 32 * k) 32
  let (live, d) := if leAt e 20 4 = 0 then ([], r.2) else r.2.readLive lk c0 (2 ^ 40) (base + leAt e 20 4)
  (r.1 ++ [(k, { prog := base + leAt e 0 4, len := leAt e 4 2, initAddr := base + leAt e 8 4, initLen := leAt e 12 4,
                 initDst := leAt e 16 4, live := live })], d)

theorem Dev.readKeeps_readImages (lk : Locked) (c0 base : Nat) (h : List Byte) (l : List Nat) (r : List (Nat × LcImage) × Dev) :
    r.2.readKeeps (l.foldl (Dev.readImages lk c0 base h) r).2 := by
  have hone (r : List (Nat × LcImage) × Dev) (k : Nat) : r.2.readKeeps (Dev.readImages lk c0 base h r k).2 := by
    unfold Dev.readImages
    dsimp only
    split
    · exact .refl _
    · exact Dev.readKeeps_readLive ..
  induction l generalizing r with
  | nil => exact .refl _
  | cons k l ih => exact (hone r k).trans (ih _)

/-- The cores that hold the job have its image. -/
def Dev.giveImage (num : Nat) (image : Vector LcImage 8) (d : Dev) (c : Nat) : Dev :=
  d.modCore c fun x => if x.job = some num then { x with image := image } else x

/-- A core that waits for the image of the job starts (R66, R395). -/
def Dev.startImage (lk : Locked) (num : Nat) (d : Dev) (c : Nat) : Dev :=
  let x := d.core c
  if x.job ≠ some num ∨ x.state ≠ 1 then d
  else ((d.loadImem lk c x.runLc).loadInit lk c x.runLc).modCore c fun x =>
    { (x.setRun { x.run with started := true }) with state := 2 }

theorem Dev.giveImages_spec (num : Nat) (image : Vector LcImage 8) (l : List Nat) (hl : ∀ c ∈ l, c < 8) (d : Dev) :
    (l.foldl (Dev.giveImage num image) d).sch = d.sch ∧
    (∀ c, (d.core c).job ≠ some num → (l.foldl (Dev.giveImage num image) d).core c = d.core c) ∧
    ∀ c, ((l.foldl (Dev.giveImage num image) d).core c).job = (d.core c).job ∧
      ((l.foldl (Dev.giveImage num image) d).core c).state = (d.core c).state := by
  induction l generalizing d with
  | nil => exact ⟨rfl, fun _ _ => rfl, fun _ => ⟨rfl, rfl⟩⟩
  | cons a l ih =>
    have hcore (c : Nat) : (d.giveImage num image a).core c =
        if c = a ∧ (d.core c).job = some num then { d.core c with image := image } else d.core c := by
      unfold Dev.giveImage
      rw [Dev.core_modCore d a c _ (hl a List.mem_cons_self)]
      by_cases hc : c = a
      · subst hc
        simp
      · simp [hc]
    obtain ⟨i1, i2, i3⟩ := ih (fun c hc => hl c (List.mem_cons_of_mem _ hc)) (Dev.giveImage num image d a)
    rw [List.foldl_cons]
    refine ⟨i1, fun c hc => ?_, fun c => ?_⟩
    · have hsame : (d.giveImage num image a).core c = d.core c := by rw [hcore, if_neg fun h => hc h.2]
      rw [i2 c (by rw [hsame]; exact hc), hsame]
    · obtain ⟨k1, k2⟩ := i3 c
      rw [k1, k2, hcore]
      split
      · exact ⟨rfl, rfl⟩
      · exact ⟨rfl, rfl⟩

theorem Dev.startImage_spec (lk : Locked) (num : Nat) (d : Dev) (a : Nat) :
    (d.startImage lk num a).sch = d.sch ∧
    (∀ c, (d.core c).job ≠ some num ∨ c ≠ a → (d.startImage lk num a).core c = d.core c) ∧
    (∀ c, ((d.startImage lk num a).core c).job = (d.core c).job) ∧
    ∀ c, (d.core c).job = some num → (d.core c).state = 2 ∨ ((d.core c).state = 1 ∧ c = a) →
      ((d.startImage lk num a).core c).state = 2 := by
  unfold Dev.startImage
  dsimp only
  by_cases hno : (d.core a).job ≠ some num ∨ (d.core a).state ≠ 1
  · rw [if_pos hno]
    refine ⟨rfl, fun _ _ => rfl, fun _ => rfl, fun c hj hs => hs.elim id fun h => ?_⟩
    obtain ⟨h1, rfl⟩ := h
    exact absurd hno (by simp [hj, h1])
  · rw [if_neg hno]
    have hja : (d.core a).job = some num := by
      by_contra h
      exact hno (.inl h)
    have ha : a < 8 := by
      by_contra h
      rw [d.core_past h] at hja
      simp at hja
    have hk := (Dev.loadKeeps_loadImem lk d ha (d.core a).runLc).trans (Dev.loadKeeps_loadInit lk _ ha (d.core a).runLc)
    generalize Dev.loadInit lk (d.loadImem lk a (d.core a).runLc) a (d.core a).runLc = e at *
    have hcore (c : Nat) := Dev.core_modCore e a c (fun x => { (x.setRun { x.run with started := true }) with state := 2 }) ha
    refine ⟨hk.sch, fun c hc => ?_, fun c => ?_, fun c hj hs => ?_⟩
    · have hne : c ≠ a := hc.elim (fun h hca => h (hca ▸ hja)) id
      rw [hcore, if_neg hne, hk.others c hne]
    · rw [hcore]
      split
      next h => rw [h]; exact hk.job
      next h => rw [hk.others c h]
    · rw [hcore]
      split
      · rfl
      next h =>
        rw [hk.others c h]
        exact hs.elim id fun h' => absurd h'.2 h

theorem Dev.startImages_spec (lk : Locked) (num : Nat) (l : List Nat) (d : Dev) :
    (l.foldl (Dev.startImage lk num) d).sch = d.sch ∧
    (∀ c, (d.core c).job ≠ some num → (l.foldl (Dev.startImage lk num) d).core c = d.core c) ∧
    ∀ c, (d.core c).job = some num → (d.core c).state = 2 ∨ ((d.core c).state = 1 ∧ c ∈ l) →
      ((l.foldl (Dev.startImage lk num) d).core c).state = 2 := by
  induction l generalizing d with
  | nil => exact ⟨rfl, fun _ _ => rfl, fun c _ h => h.elim id fun h => absurd h.2 (by simp)⟩
  | cons a l ih =>
    obtain ⟨s1, s2, s3, s4⟩ := Dev.startImage_spec lk num d a
    obtain ⟨i1, i2, i3⟩ := ih (Dev.startImage lk num d a)
    rw [List.foldl_cons]
    refine ⟨i1.trans s1, fun c hc => (i2 c (by rw [s3]; exact hc)).trans (s2 c (.inl hc)), fun c hj hs => i3 c ((s3 c).trans hj) ?_⟩
    obtain h | ⟨h, hm⟩ := hs
    · exact .inl (s4 c hj (.inl h))
    · by_cases hca : c = a
      · exact .inl (s4 c hj (.inr ⟨h, hca⟩))
      · exact .inr ⟨by rw [s2 c (.inr hca), h], by simpa [hca] using hm⟩

/-- Does the image break R395? -/
def imageBad (j : Job) (r : List Byte × List Bool × Nat × Dev) : Bool :=
  r.2.1.any id || decide (0 < r.2.2.1) || decide (leAt r.1 0 4 ≠ 0x00010000) || ((slice r.1 8 56).any (· != 0)) ||
    (bitList 8 (jobLmask j.desc)).any fun k => imageEntryBad (slice r.1 (64 + 32 * k) 32)

/-- The device with the image `ims` of job `num` on its cores. -/
def Dev.startJob (lk : Locked) (num : Nat) (j : Job) (ims : List (Nat × LcImage)) (d : Dev) : Dev :=
  let image : Vector LcImage 8 := ims.foldl (fun v p => v.setIfInBounds p.1 p.2) (Vector.replicate 8 {})
  j.cores.foldl (Dev.startImage lk num)
    (((List.range 8).foldl (Dev.giveImage num image) d).modJob num fun x => { x with loaded := true, image := image })

theorem effImageLoad_eq {d : Dev} {n : Nat} {j : Job} {lk : Locked} (hj : d.job? n = some j) (hp : j.phase = .placed)
    (hl : j.loaded = false) (he : j.ends = []) (hw : d.lpWaits (jobImage j.desc) = false) :
    let r := d.busRead lk (.core (j.cores.headD 0)) (d.partOf (j.cores.headD 0)) (jobImage j.desc) 320
    effImageLoad n lk d = if imageBad j r then r.2.2.2.askEnd n (.aborted 5)
      else
        let ims := (bitList 8 (jobLmask j.desc)).foldl (Dev.readImages lk (j.cores.headD 0) (jobImage j.desc) r.1) ([], r.2.2.2)
        Dev.startJob lk n j ims.1 ims.2 := by
  intro r
  unfold effImageLoad
  split
  next h => exact absurd (hj.symm.trans h) (by simp)
  next i h =>
  obtain rfl := Option.some_inj.1 (hj.symm.trans h)
  rw [if_neg (by simp [hp, hl, he, hw])]
  extract_lets c0 base
  have hr : d.busRead lk (.core c0) (d.partOf c0) base 320 = r := rfl
  rw [hr]
  clear_value r
  rfl

theorem Dev.startJob_spec {d : Dev} {n : Nat} {j : Job} (hj : d.job? n = some j) (lk : Locked) (ims : List (Nat × LcImage)) :
    ((Dev.startJob lk n j ims d).job? n).map (·.loaded) = some true ∧
    (∀ c ∈ j.cores, (d.core c).job = some n → (d.core c).state = 1 → ((Dev.startJob lk n j ims d).core c).state = 2) ∧
    ∀ c, (d.core c).job ≠ some n → (Dev.startJob lk n j ims d).core c = d.core c := by
  unfold Dev.startJob
  extract_lets image
  clear_value image
  obtain ⟨g1, g2, g3⟩ := Dev.giveImages_spec n image (List.range 8) (fun c hc => List.mem_range.1 hc) d
  generalize (List.range 8).foldl (Dev.giveImage n image) d = e at *
  have hjob := Dev.job?_modJob (f := fun x => { x with loaded := true, image := image }) (fun _ => rfl) e n
  have hje : e.job? n = some j := (Dev.job?_congr (by rw [g1]) n).trans hj
  rw [hje] at hjob
  have hcore (c : Nat) : (e.modJob n fun x => { x with loaded := true, image := image }).core c = e.core c := rfl
  generalize e.modJob n (fun x => { x with loaded := true, image := image }) = f at *
  obtain ⟨s1, s2, s3⟩ := Dev.startImages_spec lk n j.cores f
  refine ⟨?_, fun c hm hc hst => ?_, fun c hc => ?_⟩
  · rw [Dev.job?_congr (congrArg SchSt.jobs s1) n, hjob]
    rfl
  · exact s3 c (by rw [hcore, (g3 c).1, hc]) (.inr ⟨by rw [hcore, (g3 c).2, hst], hm⟩)
  · rw [s2 c (by rw [hcore, g2 c hc]; exact hc), hcore, g2 c hc]

end Sys2Proof.Machine

open Sys2Proof Sys2Proof.Machine

/-- Settles O27: a placement takes the chosen cores alone, and an image that keeps R395 starts those that wait for it. -/
theorem jobsStart : Obligations.JobsStart := by
  unfold Obligations.JobsStart
  refine ⟨?placement, ?image⟩
  case placement =>
    intro s n j cs hj hp hc
    have hnum := Dev.job?_num hj
    obtain ⟨p1, p2, p3, p4⟩ := Dev.placeOn_spec hj (j := s.d.placed' j cs) hnum hc
    have ha := effJobPlacement_spec hj hp
    refine ⟨_, exec_onLk (s := s) (i := .jobPlacement n) (f := effJobPlacement n) rfl rfl, ?_, fun c hm => ?_, fun c hm => ?_, ?_⟩
    · dsimp only
      obtain ⟨g, -, hg⟩ := ha
      rw [hg]
      generalize s.d.placeOn n (s.d.placed' j cs) = f at p1 ⊢
      obtain ⟨x, y, z, rfl⟩ : ∃ x y z, f = { s.d with rg := x, cores := y, sch := z } := ⟨_, _, _, p1⟩
      rfl
    · rw [ha.core]
      exact p2 c hm
    · rw [ha.core]
      exact p3 c hm
    · rw [ha.job? n (fun x => (x.phase, x.cores, x.order, x.since)) fun _ _ => rfl, p4]
      rfl
  case image =>
    intro s n j hj hp hl he hw c0 r bad
    have heff := effImageLoad_eq (lk := s.lk) hj hp hl he hw
    have hk : s.d.readKeeps r.2.2.2 := s.d.readKeeps_busRead ..
    change effImageLoad n s.lk s.d = if imageBad j r then r.2.2.2.askEnd n (.aborted 5) else _ at heff
    have hbad : imageBad j r = bad := rfl
    rw [hbad] at heff
    have hjr : r.2.2.2.job? n = some j := (Dev.job?_congr (congrArg SchSt.jobs hk.sch) n).trans hj
    have hx (e : Dev) (h : effImageLoad n s.lk s.d = e) : exec (.imageLoad n) s = .next { s with d := e } :=
      exec_onLk (s := s) (i := .imageLoad n) (f := effImageLoad n) rfl h
    cases hb : bad with
    | true =>
      rw [hb, if_pos rfl] at heff
      refine ⟨_, hx _ heff, rfl, rfl, fun _ => ⟨hk.cores, ?_⟩, fun h => absurd h (by decide)⟩
      have hjob := Dev.job?_modJob (f := fun x => { x with ends := x.ends ++ [.aborted 5] }) (fun _ => rfl) r.2.2.2 n
      rw [hjr] at hjob
      exact (congrArg (Option.map Job.ends) hjob).trans (by simp [he])
    | false =>
      rw [hb, if_neg (by decide)] at heff
      have hki := hk.trans (Dev.readKeeps_readImages s.lk c0 (jobImage j.desc) r.1 (bitList 8 (jobLmask j.desc)) ([], r.2.2.2))
      have hji := (Dev.job?_congr (congrArg SchSt.jobs hki.sch) n).trans hj
      obtain ⟨s1, s2, s3⟩ := Dev.startJob_spec hji s.lk
        ((bitList 8 (jobLmask j.desc)).foldl (Dev.readImages s.lk c0 (jobImage j.desc) r.1) ([], r.2.2.2)).1
      have hcore (c : Nat) := Dev.core_eq_of_cores hki.cores c
      refine ⟨_, hx _ heff, rfl, rfl, fun h => absurd h (by decide), fun _ => ⟨s1, fun c hm _ hc hst => ?_, fun c hc => ?_⟩⟩
      · exact s2 c hm ((congrArg CoreSt.job (hcore c)).trans hc) ((congrArg CoreSt.state (hcore c)).trans hst)
      · exact (s3 c (by rw [hcore]; exact hc)).trans (hcore c)

end

section
/-! SUPPORT. Switches of the logical cores of a core (O7). -/

namespace Sys2Proof.Machine

/-! ## What fills the memories of a core -/

/-- `e` differs from `d` in the memories and the Plate state of core `c` alone, as far as the cores go. -/
structure Dev.fills (d e : Dev) (c : Nat) : Prop where
  others : d.keepsCores e c
  core : e.core c = { d.core c with mem := (e.core c).mem, plate := (e.core c).plate }

theorem Dev.fills.trans {a b d : Dev} {c : Nat} (h : a.fills b c) (k : b.fills d c) : a.fills d c := by
  refine ⟨h.others.trans k.others, ?_⟩
  rw [k.core, h.core]

theorem Dev.fills_of_cores {d e : Dev} (h : e.cores = d.cores) (c : Nat) : d.fills e c := by
  refine ⟨Dev.keepsCores_of_cores h c, ?_⟩
  rw [Dev.core_eq_of_cores h]

theorem Dev.fills.refl (d : Dev) (c : Nat) : d.fills d c := Dev.fills_of_cores rfl c

theorem Dev.fills_setCore (d : Dev) {c : Nat} (hc : c < 8) (m : CoreMem) (p : PlateSt) :
    d.fills (d.setCore c { d.core c with mem := m, plate := p }) c := by
  refine ⟨d.keepsCores_setCore hc _, ?_⟩
  rw [(Dev.core_setCore d c c _ hc).trans (if_pos rfl)]

theorem Dev.fills_foldl {α : Type} {c : Nat} (f : Dev → α → Dev) (hf : ∀ d x, Dev.fills d (f d x) c) (l : List α) (d : Dev) :
    d.fills (l.foldl f d) c := by
  induction l generalizing d with
  | nil => exact .refl d c
  | cons x l ih => exact (hf d x).trans (ih _)

theorem Dev.spdUe_cores (d : Dev) (c : Nat) (l : List Nat) : (d.spdUe c l).cores = d.cores := by
  cases l with
  | nil => rfl
  | cons a l =>
    unfold Dev.spdUe
    dsimp only
    split <;> simp

theorem Dev.fills_takeMerged (d : Dev) {c : Nat} (hc : c < 8) : d.fills (d.takeMerged c) c := by
  unfold Dev.takeMerged
  dsimp only
  split
  · exact .refl d c
  · exact (d.fills_setCore hc _ _).trans (Dev.fills_of_cores (Dev.spdUe_cores ..) c)

/-! ## The totals of a barrier (R141, R504, R505) -/

/-- `e` differs from `d` in registers, in the cores and in the count of free values alone. -/
def Dev.coresFresh (d e : Dev) : Prop := e = { d with rg := e.rg, cores := e.cores, fresh := e.fresh }

theorem Dev.coresFresh.trans {a b c : Dev} (h : a.coresFresh b) (k : b.coresFresh c) : a.coresFresh c := by
  unfold Dev.coresFresh at *
  rw [k, h]

theorem Dev.coresFresh.refl (d : Dev) : d.coresFresh d := rfl

theorem Dev.coresOnly.fresh {d e : Dev} (h : d.coresOnly e) : d.coresFresh e := by
  unfold Dev.coresFresh
  rw [h]

theorem Dev.regsOnly.fresh {d e : Dev} (h : d.regsOnly e) : d.coresFresh e := by
  unfold Dev.coresFresh
  rw [h]

/-- A poisoned pass changes registers and the count of free values alone. -/
theorem Dev.passPoison_shape (d : Dev) (c : Nat) (p : PassRec) (src : List Nat) :
    d.passPoison c p src = { d with rg := (d.passPoison c p src).rg, fresh := (d.passPoison c p src).fresh } := by
  have hset (e : Dev) (v f : Nat) (he : d.regsOnly e) : ({ e with fresh := f } : Dev).setReg .plt c 0x11C v =
      { d with rg := (({ e with fresh := f } : Dev).setReg .plt c 0x11C v).rg
               fresh := (({ e with fresh := f } : Dev).setReg .plt c 0x11C v).fresh } := by
    obtain ⟨r, rfl⟩ : ∃ r, e = { d with rg := r } := ⟨_, he⟩
    rfl
  unfold Dev.passPoison
  extract_lets d1 d2
  have h2 : d.regsOnly d2 := by
    have h1 := (d.bump_regsOnly .plt c 0x118 1).trans (Dev.sticky_regsOnly _ .plt c 2)
    unfold d2
    split
    · exact h1.trans (Dev.sticky_regsOnly ..)
    · exact h1
  clear_value d2
  split
  · rw [h2]
  · split
    next s d3 h3 =>
    split at h3
    · obtain ⟨rfl, rfl⟩ := Prod.mk.inj h3
      exact hset d2 _ _ h2
    · obtain ⟨rfl, rfl⟩ := Prod.mk.inj h3
      exact hset d2 _ d2.fresh h2

theorem Dev.deliverTotal_fills (d : Dev) {c : Nat} (hc : c < 8) (t : WideTotal) :
    d.coresFresh (d.deliverTotal c t) ∧ d.fills (d.deliverTotal c t) c := by
  have hset (m : CoreMem) : d.coresFresh (d.setCore c { d.core c with mem := m }) ∧
      d.fills (d.setCore c { d.core c with mem := m }) c := ⟨rfl, d.fills_setCore hc m _⟩
  have hregs {a b : Dev} (h : d.coresFresh a ∧ d.fills a c) (k : a.regsOnly b) : d.coresFresh b ∧ d.fills b c :=
    ⟨h.1.trans k.fresh, h.2.trans (Dev.fills_of_cores (by rw [k]) c)⟩
  unfold Dev.deliverTotal
  extract_lets x src n
  split
  · split
    · exact ⟨rfl, .refl d c⟩
    · extract_lets o d1
      have h1 : d.coresFresh d1 ∧ d.fills d1 c := by
        have h := hregs (hset { x.mem with spad := o.spad }) (Dev.num_regsOnly _ .plt c o.ev)
        exact ⟨h.1.trans (Dev.spdUe_coresOnly ..).fresh, h.2.trans (Dev.fills_of_cores (Dev.spdUe_cores ..) c)⟩
      split
      · have hs (p : PassRec) (l : List Nat) := d1.passPoison_shape c p l
        refine ⟨h1.1.trans ?_, h1.2.trans (Dev.fills_of_cores (by rw [hs]) c)⟩
        unfold Dev.coresFresh
        rw [hs]
      · exact h1
  · extract_lets m d1 d2 d3
    have h2 : d.coresFresh d2 ∧ d.fills d2 c := by
      have h1 := hregs (hset m) (Dev.bump_regsOnly _ .wsh c 0x10C n)
      unfold d2
      split
      · exact hregs h1 (Dev.sticky_regsOnly ..)
      · exact h1
    clear_value d2
    split
    · have h3 := hregs h2 (Dev.sticky_regsOnly d2 .wsh c 3)
      split
      · exact h3
      · exact hregs h3 (Dev.setReg_regsOnly ..)
    · exact h2
  · exact ⟨rfl, .refl d c⟩

theorem Dev.deliverTotals_fills {c : Nat} (hc : c < 8) (l : List WideTotal) (d : Dev) :
    d.coresFresh (l.foldl (fun d t => d.deliverTotal c t) d) ∧ d.fills (l.foldl (fun d t => d.deliverTotal c t) d) c := by
  refine ⟨?_, Dev.fills_foldl _ (fun d t => (d.deliverTotal_fills hc t).2) l d⟩
  induction l generalizing d with
  | nil => exact .refl d
  | cons t l ih => exact (d.deliverTotal_fills hc t).1.trans (ih _)

/-- A core with everything delivered that its logical core `lc` is owed, but for its memories. -/
def CoreSt.delivered (x : CoreSt) (lc : Nat) : CoreSt :=
  { x with lcs := x.lcs.setIfInBounds lc { x.lcs.toList.getD lc {} with deliver := [] } }

theorem Dev.deliverAll_spec (d : Dev) {c : Nat} (hc : c < 8) (lc : Nat) :
    d.coresFresh (d.deliverAll c lc) ∧ d.keepsCores (d.deliverAll c lc) c ∧
    (d.deliverAll c lc).core c = { (d.core c).delivered lc with
      mem := ((d.deliverAll c lc).core c).mem, plate := ((d.deliverAll c lc).core c).plate } := by
  obtain ⟨h1, h2⟩ := Dev.deliverTotals_fills hc ((d.core c).lcs.toList.getD lc {}).deliver d
  unfold Dev.deliverAll
  dsimp only
  generalize ((d.core c).lcs.toList.getD lc {}).deliver.foldl (fun d t => d.deliverTotal c t) d = e at *
  have hcore := (Dev.core_modCore e c c (fun x => { x with
    lcs := x.lcs.setIfInBounds lc { x.lcs.toList.getD lc {} with deliver := [] } }) hc).trans (if_pos rfl)
  refine ⟨h1.trans rfl, h2.others.trans (e.keepsCores_modCore hc _), ?_⟩
  rw [hcore, h2.core]
  rfl

/-! ## A save read back (R99, R100) -/

theorem Dev.fills_readSave (lk : Locked) (d : Dev) {c : Nat} (hc : c < 8) (s : Spill) : d.fills (d.readSave lk c s) c := by
  have hbeats (e : Dev) (bad oor : Nat) : e.fills (e.countBeats c bad oor) c :=
    Dev.fills_of_cores (e.moveKeeps_countBeats hc bad oor).cores c
  have hread (e : Dev) (a n : Nat) : e.fills (e.busRead lk (.core c) (e.partOf c) a n).2.2.2 c :=
    Dev.fills_of_cores (e.readKeeps_busRead ..).cores c
  have hstep (e : Dev) (r : Nat × Nat × Nat) : e.fills (
      let (bs, ps, oor, d) := e.busRead lk (.core c) (e.partOf c) r.2.2 r.2.1
      let d := d.countBeats c (ps.filter id).length oor
      (d.modCore c fun x => { x with mem := (List.range (r.2.1 / 64)).foldl (fun m i =>
        m.store (r.1 + 64 * i) (slice bs (64 * i) 64) (ps.getD i false)) x.mem }).takeMerged c) c := by
    split
    next bs ps oor f hf =>
    have h := hread e r.2.2 r.2.1
    rw [hf] at h
    extract_lets g
    have hg := h.trans (hbeats f (ps.filter id).length oor)
    exact (hg.trans (g.fills_setCore hc _ _)).trans (Dev.fills_takeMerged _ hc)
  unfold Dev.readSave
  split
  next bs ps oor f hf =>
  have h := hread d ((d.core c).spillAddr s.lc) regBlock
  rw [hf] at h
  extract_lets g1 g2
  have h1 : d.fills g1 c := h.trans (hbeats f (ps.filter id).length oor)
  have h2 : g1.fills g2 c := Dev.fills_foldl _ (fun e r => hstep e r) s.ranges g1
  exact (h1.trans h2).trans (g2.fills_setCore hc _ _)

theorem Dev.fills_loadInit (lk : Locked) (d : Dev) {c : Nat} (hc : c < 8) (lc : Nat) : d.fills (d.loadInit lk c lc) c := by
  unfold Dev.loadInit
  extract_lets im
  split
  next bs ps oor e he =>
  have h := Dev.fills_of_cores (d.readKeeps_busRead lk (.core c) (d.partOf c) im.initAddr im.initLen false).cores c
  rw [he] at h
  exact h.trans (e.fills_setCore hc _ _)

/-- The program of a logical core is in IMEM, and of the core nothing else has changed. -/
theorem Dev.loadImem_spec (lk : Locked) (d : Dev) {c : Nat} (hc : c < 8) (lc : Nat) :
    d.keepsCores (d.loadImem lk c lc) c ∧
    (d.loadImem lk c lc).core c = { d.core c with
      imem := ((d.loadImem lk c lc).core c).imem
      loaded := some (((d.core c).image.toList.getD lc {}).prog, ((d.core c).image.toList.getD lc {}).len) } := by
  unfold Dev.loadImem
  extract_lets x im
  split
  next h => exact ⟨.refl d c, by rw [← h]⟩
  · split
    next bs ps oor e he =>
    have hk := (d.readKeeps_busRead lk (.core c) (d.partOf c) im.prog (64 * im.len) false).cores
    rw [he] at hk
    have hcore := (Dev.core_modCore e c c (fun x => { x with imem := ({} : Mem).write 0 bs, loaded := some (im.prog, im.len) })
      hc).trans (if_pos rfl)
    refine ⟨(Dev.keepsCores_of_cores hk c).trans (e.keepsCores_modCore hc _), ?_⟩
    rw [hcore, Dev.core_eq_of_cores hk]

/-! ## The two commands (R66, R99, R100, R105) -/

theorem moveRegs_switches : ∀ c < 8, Page.base .core c + 0x120 ∉ moveRegs.map RegAt.addr := by decide +kernel

/-- What a core has saved when logical core `n` is taken up. -/
def CoreSt.switchSpill (x : CoreSt) (n : Nat) : List Spill :=
  if n == x.runLc then x.spill
  else if x.run.ended then x.spill.filter fun s => s.lc ≠ x.runLc
  else (x.spill.filter fun s => s.lc ≠ x.runLc) ++ [x.save x.runLc (x.run.barrier.getD 0)]

/-- A core that takes up logical core `n`. -/
def CoreSt.switched (x : CoreSt) (n : Nat) (spill : List Spill) : CoreSt :=
  { x with spill := spill, runLc := n, switchTo := none, state := 4, stall := 0, stallSince := none, govWait := none }

theorem effSwitch_eq {d : Dev} {c n : Nat} (h : (d.core c).switchTo = some n) (h6 : (d.core c).state ≠ 6) (h7 : (d.core c).state ≠ 7)
    (ha : (((d.core c).job.bind d.job?).map fun j => !j.asks.isEmpty).getD false = false)
    (hr : (((d.core c).lcs.toList.getD n {}).started && !((d.core c).lcs.toList.getD n {}).released) = false)
    (hm : d.memWaits = false) (lk : Locked) :
    effSwitch c lk d = ((if (d.core c).run.ended || n == (d.core c).runLc then d
      else d.writeSave lk c ((d.core c).save (d.core c).runLc ((d.core c).run.barrier.getD 0))).modCore c fun x =>
        x.switched n ((d.core c).switchSpill n)).bump .core c 0x120 1 := by
  unfold effSwitch
  extract_lets x
  split
  next h' => exact absurd (h.symm.trans h') (by simp)
  next n' h' =>
  obtain rfl := Option.some_inj.1 (h.symm.trans h')
  rw [if_neg]
  · rfl
  · rintro (h | h | h | h | h)
    · exact h6 h
    · exact h7 h
    · exact Bool.noConfusion (h.symm.trans ha)
    · exact Bool.noConfusion (h.symm.trans hr)
    · rw [hm] at h
      simp at h

/-- The running logical core that resumes. -/
def CoreSt.resumed (x : CoreSt) : CoreSt := { (x.setRun { x.run with started := true }) with state := 2 }

/-- The save of the running logical core, or its initial contents, are in the memories. -/
def Dev.restoreRun (lk : Locked) (d : Dev) (c : Nat) (x : CoreSt) : Dev :=
  match x.spill.find? fun s => s.lc == x.runLc with
  | some s => (d.readSave lk c s).modCore c fun x => { x with spill := x.spill.filter fun s => s.lc ≠ x.runLc }
  | none => d.loadInit lk c x.runLc

theorem effRestoreDone_eq {d : Dev} {c : Nat} (hs : (d.core c).state = 4) (hl : (d.core c).leaving = false) (hm : d.memWaits = false)
    (cc : Nat) (lk : Locked) : effRestoreDone c cc lk d =
      ((((d.setCore c { d.core c with cyc := ((d.core c).cyc + cc) % 2 ^ 64 }).loadImem lk c (d.core c).runLc).restoreRun lk c
        (d.core c)).modCore c CoreSt.resumed).deliverAll c (d.core c).runLc := by
  unfold effRestoreDone
  extract_lets x
  rw [if_neg]
  · rfl
  · rintro (h | h | h)
    · exact h hs
    · rw [show x.leaving = false from hl] at h
      exact absurd h (by decide)
    · rw [hm] at h
      exact absurd h (by decide)

theorem Dev.restoreRun_spec (lk : Locked) (d : Dev) {c : Nat} (hc : c < 8) {x : CoreSt} (hs : (d.core c).spill = x.spill)
    (hr : (d.core c).runLc = x.runLc) :
    d.keepsCores (d.restoreRun lk c x) c ∧
    (d.restoreRun lk c x).core c = { d.core c with
      mem := ((d.restoreRun lk c x).core c).mem
      plate := ((d.restoreRun lk c x).core c).plate
      spill := x.spill.filter fun s => s.lc ≠ x.runLc } := by
  unfold Dev.restoreRun
  split
  next s h =>
    have hf := d.fills_readSave lk hc s
    generalize d.readSave lk c s = e at *
    have hcore := (Dev.core_modCore e c c (fun x => { x with spill := x.spill.filter fun s => s.lc ≠ x.runLc }) hc).trans (if_pos rfl)
    refine ⟨hf.others.trans (e.keepsCores_modCore hc _), ?_⟩
    rw [hcore, hf.core]
    dsimp only
    rw [hs, hr]
  next h =>
    have hf := d.fills_loadInit lk hc x.runLc
    have hno : (x.spill.filter fun s => s.lc ≠ x.runLc) = x.spill := List.filter_eq_self.2 fun s hs => by
      simpa using List.find?_eq_none.1 h s hs
    refine ⟨hf.others, ?_⟩
    rw [hno, ← hs]
    exact hf.core

end Sys2Proof.Machine

open Sys2Proof Sys2Proof.Machine

/-- Settles O7: a switch saves what the running logical core has, and a restore takes up the save or the initial contents. -/
theorem switchCommands : Obligations.SwitchCommands := by
  unfold Obligations.SwitchCommands
  refine ⟨?switch, ?restore⟩
  case switch =>
    intro s c n x hn h6 h7 ha hr hm
    have heff := effSwitch_eq hn h6 h7 ha (by
      cases h : (x.lcs.toList.getD n {}).started with
      | false => rfl
      | true => rw [hr h]; rfl) hm s.lk
    refine ⟨_, exec_onLk (s := s) (i := .logicalCoreSwitch c) (f := effSwitch c.val) rfl heff, rfl, rfl, ?_⟩
    dsimp only
    have hw : s.d.moveKeeps (if (s.d.core c).run.ended || n == (s.d.core c).runLc then s.d
        else s.d.writeSave s.lk c ((s.d.core c).save (s.d.core c).runLc ((s.d.core c).run.barrier.getD 0))) := by
      split
      · exact .refl _
      · exact s.d.moveKeeps_writeSave s.lk c.isLt _
    have hsame (h : x.run.ended = true ∨ n = x.runLc) : (if (s.d.core c).run.ended || n == (s.d.core c).runLc then s.d
        else s.d.writeSave s.lk c ((s.d.core c).save (s.d.core c).runLc ((s.d.core c).run.barrier.getD 0))) = s.d :=
      if_pos (by simpa using h)
    generalize (if (s.d.core c).run.ended || n == (s.d.core c).runLc then s.d
        else s.d.writeSave s.lk c ((s.d.core c).save (s.d.core c).runLc ((s.d.core c).run.barrier.getD 0))) = e at *
    have hcores := hw.cores
    have hcore : ((e.modCore c fun y => y.switched n (x.switchSpill n)).bump .core c 0x120 1).core c =
        x.switched n (x.switchSpill n) := by
      rw [Dev.core_eq_of_cores (Dev.bump_cores ..), Dev.core_modCore_self, Dev.core_eq_of_cores hcores]
    refine ⟨?_, ?_, fun h => ⟨?_, ?_⟩, ?_, fun h1 h2 => ?_⟩
    · rw [Dev.reg_bump_self, Dev.reg_modCore, hw.regs _ _ _ (moveRegs_switches c c.isLt)]
    · exact ((Dev.keepsCores_of_cores hcores c).trans (e.keepsCores_modCore c.isLt _)).trans
        (Dev.keepsCores_of_cores (Dev.bump_cores ..) c)
    · rw [hsame h, Dev.bump_regs]
      rfl
    · rw [hsame h]
      exact Dev.keepsRegs.trans (Dev.keepsRegs_of_rg rfl _) (Dev.keepsRegs_bump _ _ _ _ _ (by simp))
    · rw [hcore]
      rfl
    · rw [hcore]
      show x.switchSpill n = _
      unfold CoreSt.switchSpill
      rw [if_neg (by simpa using h2), if_neg (by simp [h1])]
  case restore =>
    intro s c cc x im hs hl hlc hm
    refine ⟨_, exec_onLk (s := s) (i := .switchRestoreDone c cc) (f := effRestoreDone c.val cc) rfl
      (effRestoreDone_eq hs hl hm cc s.lk), rfl, rfl, ?_⟩
    dsimp only
    have hset := (Dev.core_setCore s.d c c { x with cyc := (x.cyc + cc) % 2 ^ 64 } c.isLt).trans (if_pos rfl)
    have hk0 := s.d.keepsCores_setCore c.isLt { x with cyc := (x.cyc + cc) % 2 ^ 64 }
    rw [show s.d.core c = x from rfl]
    generalize s.d.setCore c { x with cyc := (x.cyc + cc) % 2 ^ 64 } = d1 at *
    obtain ⟨hk2, hc2⟩ := Dev.loadImem_spec s.lk d1 c.isLt x.runLc
    rw [hset] at hc2
    generalize d1.loadImem s.lk c x.runLc = d2 at *
    obtain ⟨hk3, hc3⟩ := Dev.restoreRun_spec s.lk d2 c.isLt (x := x) (by rw [hc2]) (by rw [hc2])
    rw [hc2] at hc3
    generalize d2.restoreRun s.lk c x = d3 at *
    have hk4 := d3.keepsCores_modCore c.isLt CoreSt.resumed
    have hc4 : (d3.modCore c CoreSt.resumed).core c = (d3.core c).resumed := d3.core_modCore_self c _
    generalize d3.modCore c CoreSt.resumed = d4 at *
    obtain ⟨-, hk5, hc5⟩ := d4.deliverAll_spec c.isLt x.runLc
    refine ⟨(((hk0.trans hk2).trans hk3).trans hk4).trans hk5, ?_⟩
    rw [hc5, hc4, hc3]
    refine ⟨rfl, rfl, rfl, rfl, ?_, fun sp hsp => ?_⟩
    · show ((x.lcs.setIfInBounds x.runLc { x.run with started := true }).setIfInBounds x.runLc
        { (x.lcs.setIfInBounds x.runLc { x.run with started := true }).toList.getD x.runLc {} with deliver := [] }).toList.getD
        x.runLc {} = _
      simp [hlc]
    · have h := List.mem_filter.1 (show sp ∈ x.spill.filter fun s => s.lc ≠ x.runLc from hsp)
      exact ⟨h.1, by simpa using h.2⟩

end

section
/-! SUPPORT. The release of a barrier (O5). -/

namespace Sys2Proof.Machine

/-! ## Logical cores of a job that is on its cores (R96, R99) -/

/-- Core `c` hosts logical core `lc` of job `j`. -/
def Dev.homeOf (d : Dev) (j lc c : Nat) : Bool := (d.core c).job == some j && bit (d.core c).hosted lc

/-- Logical core `lc` of job `j` is on a core. -/
def Dev.hasHome (d : Dev) (j lc : Nat) : Prop := ∃ c, c < 8 ∧ (d.core c).job = some j ∧ bit (d.core c).hosted lc = true

theorem Dev.hasHome.find {d : Dev} {j lc : Nat} (h : d.hasHome j lc) :
    ∃ c, (List.range 8).find? (d.homeOf j lc) = some c ∧ c < 8 ∧ (d.core c).job = some j := by
  obtain ⟨c, hc, hj, hb⟩ := h
  have hsome : ((List.range 8).find? (d.homeOf j lc)).isSome = true :=
    List.find?_isSome.2 ⟨c, List.mem_range.2 hc, by simp [Dev.homeOf, hj, hb]⟩
  obtain ⟨k, hk⟩ := Option.isSome_iff_exists.1 hsome
  have hm := List.mem_range.1 (List.mem_of_find?_eq_some hk)
  have hp := List.find?_some hk
  refine ⟨k, hk, hm, ?_⟩
  have hp' : (d.core k).job == some j := by
    unfold Dev.homeOf at hp
    exact (Bool.and_eq_true_iff.1 hp).1
  exact beq_iff_eq.1 hp'

/-- What the release of a barrier of job `j` leaves alone. -/
structure Dev.phaseKeeps (j : Nat) (d e : Dev) : Prop where
  fresh : d.coresFresh e
  job : ∀ c, (e.core c).job = (d.core c).job
  hosted : ∀ c, (e.core c).hosted = (d.core c).hosted
  others : ∀ c, (d.core c).job ≠ some j → e.core c = d.core c

theorem Dev.phaseKeeps.refl (j : Nat) (d : Dev) : d.phaseKeeps j d := ⟨rfl, fun _ => rfl, fun _ => rfl, fun _ _ => rfl⟩

theorem Dev.phaseKeeps.trans {j : Nat} {a b c : Dev} (h : a.phaseKeeps j b) (k : b.phaseKeeps j c) : a.phaseKeeps j c :=
  ⟨h.fresh.trans k.fresh, fun i => (k.job i).trans (h.job i), fun i => (k.hosted i).trans (h.hosted i),
    fun i hi => (k.others i (by rw [h.job]; exact hi)).trans (h.others i hi)⟩

theorem Dev.phaseKeeps_of_cores {d e : Dev} (h : d.coresFresh e) (hc : e.cores = d.cores) (j : Nat) : d.phaseKeeps j e := by
  have hcore (c : Nat) := Dev.core_eq_of_cores hc c
  exact ⟨h, fun c => by rw [hcore], fun c => by rw [hcore], fun c _ => hcore c⟩

theorem Dev.phaseKeeps.homeOf {j : Nat} {d e : Dev} (h : d.phaseKeeps j e) (lc : Nat) : e.homeOf j lc = d.homeOf j lc := by
  funext c
  rw [Dev.homeOf, h.job, h.hosted, Dev.homeOf]

theorem Dev.phaseKeeps.hasHome {j : Nat} {d e : Dev} (h : d.phaseKeeps j e) {lc : Nat} (hh : d.hasHome j lc) : e.hasHome j lc := by
  obtain ⟨c, hc, hj, hb⟩ := hh
  exact ⟨c, hc, (h.job c).trans hj, by rw [h.hosted, hb]⟩

theorem Dev.lcState_home {d : Dev} {j lc c : Nat} (h : (List.range 8).find? (d.homeOf j lc) = some c) :
    d.lcState j lc = (d.core c).lcs.toList.getD lc {} := by
  unfold Dev.lcState
  change (match (List.range 8).find? (d.homeOf j lc) with | some c => _ | none => _) = _
  rw [h]

theorem Dev.modLc_home {d : Dev} {j lc c : Nat} (h : (List.range 8).find? (d.homeOf j lc) = some c) (f : LcSt → LcSt) :
    d.modLc j lc f = d.modCore c fun x => { x with lcs := x.lcs.setIfInBounds lc (f (x.lcs.toList.getD lc {})) } := by
  unfold Dev.modLc
  change (match (List.range 8).find? (d.homeOf j lc) with | some c => _ | none => _) = _
  rw [h]

theorem Dev.modLc_spec {d : Dev} {j lc : Nat} (h : d.hasHome j lc) (f : LcSt → LcSt) :
    d.phaseKeeps j (d.modLc j lc f) ∧
    ∀ k, k < 8 → lc < 8 → d.hasHome j k →
      (d.modLc j lc f).lcState j k = if k = lc then f (d.lcState j lc) else d.lcState j k := by
  obtain ⟨c, hfind, hc, hjob⟩ := h.find
  rw [Dev.modLc_home hfind]
  have hcore (i : Nat) := Dev.core_modCore d c i (fun x => { x with lcs := x.lcs.setIfInBounds lc (f (x.lcs.toList.getD lc {})) }) hc
  generalize hm : d.modCore c (fun x => { x with lcs := x.lcs.setIfInBounds lc (f (x.lcs.toList.getD lc {})) }) = e at *
  have hk : d.phaseKeeps j e := by
    refine ⟨hm ▸ rfl, fun i => ?_, fun i => ?_, fun i hi => ?_⟩
    · rw [hcore]
      split
      next h => rw [h]
      · rfl
    · rw [hcore]
      split
      next h => rw [h]
      · rfl
    · rw [hcore, if_neg]
      rintro rfl
      exact hi hjob
  refine ⟨hk, fun k hk8 hl8 hh => ?_⟩
  obtain ⟨i, hi, -, -⟩ := hh.find
  rw [Dev.lcState_home (c := i) (by rw [hk.homeOf]; exact hi), Dev.lcState_home hi, Dev.lcState_home hfind, hcore]
  by_cases hkl : k = lc
  · subst hkl
    obtain rfl := Option.some_inj.1 (hi.symm.trans hfind)
    simp [hk8]
  · rw [if_neg hkl]
    split
    next h =>
      rw [h]
      simp only [Vector.toList_setIfInBounds, List.getD_eq_getElem?_getD]
      rw [List.getElem?_set_ne (fun h => hkl h.symm)]
    · rfl

theorem Dev.phaseKeeps_of_regs {d e : Dev} (h : d.regsOnly e) (j : Nat) : d.phaseKeeps j e :=
  Dev.phaseKeeps_of_cores h.fresh (by rw [h]) j

theorem Dev.phaseKeeps_foldl {α : Type} {j : Nat} (f : Dev → α → Dev) (l : List α) (P : Dev → Prop)
    (hP : ∀ d e, Dev.phaseKeeps j d e → P d → P e) (hf : ∀ d, P d → ∀ x ∈ l, Dev.phaseKeeps j d (f d x)) (d : Dev) (hd : P d) :
    d.phaseKeeps j (l.foldl f d) := by
  induction l generalizing d with
  | nil => exact .refl j d
  | cons x l ih =>
    have h := hf d hd x List.mem_cons_self
    exact h.trans (ih (fun d hd y hy => hf d hd y (List.mem_cons_of_mem _ hy)) _ (hP _ _ h hd))

/-! ## The totals of a phase (R504 to R506) -/

theorem Dev.wideTotal_keeps (lk : Locked) {d : Dev} {j : Nat} (k : Nat) {lcs : List Nat} (h : ∀ lc ∈ lcs, d.hasHome j lc) :
    d.phaseKeeps j (d.wideTotal lk j k lcs) := by
  unfold Dev.wideTotal
  extract_lets es q lost
  clear_value lost es
  split
  · exact .refl j d
  next e0 rest =>
    extract_lets mismatch d1 open' rv pv d2
    have h2 : d.phaseKeeps j d2 := by
      have h1 : d.regsOnly d1 := by
        unfold d1
        split
        · exact Dev.sticky_regsOnly ..
        · exact .refl d
      exact Dev.phaseKeeps_of_regs (h1.trans (Dev.bump_regsOnly ..)) j
    clear_value d2 rv pv
    refine h2.trans (Dev.phaseKeeps_foldl _ lcs (fun e => ∀ lc ∈ lcs, e.hasHome j lc)
      (fun a b hk hh lc hm => hk.hasHome (hh lc hm)) (fun e he lc hm => ?_) d2 fun lc hm => h2.hasHome (h lc hm))
    split
    · exact .refl j e
    · extract_lets base fr used e1 t home e2
      have h1 : e.phaseKeeps j e1 := Dev.phaseKeeps_of_cores (Eq.refl e1) rfl j
      have hn (a : Dev) (p : Page) (n : Nat) (v : NumEv) (hd : e1.regsOnly a) (b : Bool) :
          e1.regsOnly (if b then a.num p n v else a) := by
        split
        · exact hd.trans (Dev.num_regsOnly ..)
        · exact hd
      have hr : e1.regsOnly e2 := by
        unfold e2
        clear_value e1 home
        split
        · exact hn _ _ _ _ (.refl e1) _
        · exact (hn _ _ _ _ (.refl e1) _).trans (Dev.num_regsOnly ..)
        · exact .refl e1
      have he2 := h1.trans (Dev.phaseKeeps_of_regs hr j)
      exact he2.trans (Dev.modLc_spec (he2.hasHome (he lc hm)) _).1

/-! ## The release itself (R96, R98, R201) -/

/-- A logical core whose barrier has been released: it may issue, has nothing left of the phase, and clear traceback buffers. -/
structure LcSt.freed (l : LcSt) : Prop where
  released : l.released = true
  wide : l.wide = []
  wideOps : l.wideOps = 0
  clear : l.hatch.clearTb = l.hatch

/-- A logical core takes the release of its barrier. -/
def LcSt.release (l : LcSt) : LcSt := { l with released := true, wide := [], wideOps := 0, hatch := l.hatch.clearTb }

theorem LcSt.freed_release (l : LcSt) : l.release.freed := ⟨rfl, rfl, rfl, rfl⟩

theorem LcSt.freed.delivered {l : LcSt} (h : l.freed) : ({ l with deliver := [] } : LcSt).freed :=
  ⟨h.released, h.wide, h.wideOps, h.clear⟩

theorem Dev.releases_spec {j : Nat} (l : List Nat) (hl : ∀ lc ∈ l, lc < 8) (d : Dev) (hh : ∀ lc ∈ l, d.hasHome j lc) :
    d.phaseKeeps j (l.foldl (fun d lc => d.modLc j lc LcSt.release) d) ∧
    ∀ k, k < 8 → d.hasHome j k → (d.lcState j k).freed ∨ k ∈ l →
      ((l.foldl (fun d lc => d.modLc j lc LcSt.release) d).lcState j k).freed := by
  induction l generalizing d with
  | nil => exact ⟨.refl j d, fun k _ _ h => h.elim id fun h => absurd h (by simp)⟩
  | cons a l ih =>
    obtain ⟨hk, hs⟩ := Dev.modLc_spec (hh a List.mem_cons_self) LcSt.release
    obtain ⟨i1, i2⟩ := ih (fun lc h => hl lc (List.mem_cons_of_mem _ h)) (d.modLc j a LcSt.release)
      fun lc h => hk.hasHome (hh lc (List.mem_cons_of_mem _ h))
    rw [List.foldl_cons]
    refine ⟨hk.trans i1, fun k hk8 hhk h => i2 k hk8 (hk.hasHome hhk) ?_⟩
    rw [hs k hk8 (hl a List.mem_cons_self) hhk]
    by_cases hka : k = a
    · rw [if_pos hka]
      exact .inl (LcSt.freed_release _)
    · rw [if_neg hka]
      exact h.imp id fun h => by simpa [hka] using h

/-- A core that waits at the barrier gets what it is owed (R505). -/
def Dev.deliverWaiting (j members : Nat) (d : Dev) (c : Nat) : Dev :=
  let x := d.core c
  if x.job = some j && bit members x.runLc && x.state == 3 && x.switchTo.isNone then d.deliverAll c x.runLc else d

theorem Dev.deliverWaiting_spec (j members : Nat) (d : Dev) {c : Nat} (hc : c < 8) :
    d.phaseKeeps j (d.deliverWaiting j members c) ∧
    ∀ k, k < 8 → d.hasHome j k → (d.lcState j k).freed → ((d.deliverWaiting j members c).lcState j k).freed := by
  unfold Dev.deliverWaiting
  dsimp only
  split
  next h =>
    have hj : (d.core c).job = some j := by
      simp only [Bool.and_eq_true, decide_eq_true_eq] at h
      exact h.1.1.1
    obtain ⟨h1, h2, h3⟩ := d.deliverAll_spec hc (d.core c).runLc
    generalize d.deliverAll c (d.core c).runLc = e at *
    have hk : d.phaseKeeps j e := by
      refine ⟨h1, fun i => ?_, fun i => ?_, fun i hi => h2 i fun h => hi (h ▸ hj)⟩
      · by_cases hic : i = c
        · rw [hic, h3]
          rfl
        · rw [h2 i hic]
      · by_cases hic : i = c
        · rw [hic, h3]
          rfl
        · rw [h2 i hic]
    refine ⟨hk, fun k hk8 hhk hf => ?_⟩
    obtain ⟨i, hi, -, -⟩ := hhk.find
    rw [Dev.lcState_home hi] at hf
    rw [Dev.lcState_home (c := i) (by rw [hk.homeOf]; exact hi)]
    by_cases hic : i = c
    · subst hic
      rw [h3]
      show (((d.core i).lcs.setIfInBounds (d.core i).runLc _).toList.getD k {}).freed
      by_cases hkr : (d.core i).runLc = k
      · subst hkr
        simpa [hk8] using hf.delivered
      · simp only [Vector.toList_setIfInBounds, List.getD_eq_getElem?_getD]
        rw [List.getElem?_set_ne hkr]
        simpa using hf
    · rw [h2 i hic]
      exact hf
  · exact ⟨.refl j d, fun _ _ _ h => h⟩

theorem Dev.deliverWaitings_spec (j members : Nat) (l : List Nat) (hl : ∀ c ∈ l, c < 8) (d : Dev) :
    d.phaseKeeps j (l.foldl (Dev.deliverWaiting j members) d) ∧
    ∀ k, k < 8 → d.hasHome j k → (d.lcState j k).freed → ((l.foldl (Dev.deliverWaiting j members) d).lcState j k).freed := by
  induction l generalizing d with
  | nil => exact ⟨.refl j d, fun _ _ _ h => h⟩
  | cons a l ih =>
    obtain ⟨h1, h2⟩ := d.deliverWaiting_spec j members (hl a List.mem_cons_self)
    obtain ⟨i1, i2⟩ := ih (fun c h => hl c (List.mem_cons_of_mem _ h)) (d.deliverWaiting j members a)
    exact ⟨h1.trans i1, fun k hk hh hf => i2 k hk (h1.hasHome hh) (h2 k hk hh hf)⟩

theorem effBarrierRelease_spec {d : Dev} {j seq : Nat} {b : BarSt} (hb : d.bar? j seq true = some b)
    (hh : ∀ lc ∈ bitList 8 b.members, d.hasHome j lc) (lk : Locked) :
    Dev.phaseKeeps j { d with bars := d.bars.erase b } (effBarrierRelease j seq lk d) ∧
    ∀ lc ∈ bitList 8 b.members, ((effBarrierRelease j seq lk d).lcState j lc).freed := by
  have hlc (lc : Nat) (h : lc ∈ bitList 8 b.members) : lc < 8 := List.mem_range.1 (List.mem_filter.1 h).1
  unfold effBarrierRelease
  split
  next h => exact absurd (hb.symm.trans h) (by simp)
  next b' h =>
  obtain rfl := Option.some_inj.1 (hb.symm.trans h)
  extract_lets lcs top d1 d2 d3
  have h2 : d1.phaseKeeps j d2 := Dev.phaseKeeps_foldl _ (List.range top) (fun e => ∀ lc ∈ lcs, e.hasHome j lc)
    (fun a b hk hh lc hm => hk.hasHome (hh lc hm)) (fun e he k _ => Dev.wideTotal_keeps lk k he) d1 hh
  have hh2 (lc : Nat) (h : lc ∈ lcs) : d2.hasHome j lc := h2.hasHome (hh lc h)
  clear_value d2
  obtain ⟨h3, hf3⟩ := Dev.releases_spec lcs hlc d2 hh2
  change d2.phaseKeeps j d3 at h3
  change ∀ k, k < 8 → d2.hasHome j k → (d2.lcState j k).freed ∨ k ∈ lcs → (d3.lcState j k).freed at hf3
  clear_value d3
  obtain ⟨h4, hf4⟩ := Dev.deliverWaitings_spec j b.members (List.range 8) (fun c h => List.mem_range.1 h) d3
  exact ⟨(h2.trans h3).trans h4, fun lc h => hf4 lc (hlc lc h) (h3.hasHome (hh2 lc h)) (hf3 lc (hlc lc h) (hh2 lc h) (.inr h))⟩

end Sys2Proof.Machine

open Sys2Proof Sys2Proof.Machine

/-- Settles O5: every member is on a core, where the release frees it. -/
theorem barrierReleaseFreesMembers : Obligations.BarrierReleaseFreesMembers := by
  unfold Obligations.BarrierReleaseFreesMembers
  intro s j seq b hb hh
  obtain ⟨hk, hf⟩ := effBarrierRelease_spec hb hh s.lk
  refine ⟨_, exec_onLk (s := s) (i := .barrierRelease j seq) (f := effBarrierRelease j seq) rfl rfl, ?_, fun lc h => ?_, hk.others⟩
  · exact congrArg (fun e : Dev => ({ s with d := e } : State)) hk.fresh
  · obtain ⟨h1, h2, h3, h4⟩ := hf lc h
    exact ⟨h1, h2, h3, h4⟩

end

section
/-! SUPPORT. Semaphores granted and broken (O6). -/

namespace Sys2Proof.Machine

theorem SemSt.toList_getD (v : Vector SemSt 64) (k : Nat) (hk : k < 64) : v.toList.getD k {} = v[k] := by
  simp [hk]

theorem Vector.setIfInBounds_eq_set {α : Type} {n k : Nat} (v : Vector α n) (hk : k < n) (x : α) : v.setIfInBounds k x = v.set k x := by
  ext i hi
  rw [Vector.getElem_setIfInBounds, Vector.getElem_set]

theorem effSemGrant_eq {d : Dev} {k : Nat} (hk : k < 64) {h : Nat × Nat × Nat × Nat} {q : List (Nat × Nat × Nat × Nat)}
    (hh : d.sems[k].holder = none) (hw : d.sems[k].waiters = h :: q) :
    effSemGrant k d = ({ d with
      sems := d.sems.set k { holder := some (h.1, h.2.1, h.2.2.1), since := d.tim.tick, waiters := q } }).modCore h.2.2.1 fun x =>
        { x with lcs := x.lcs.setIfInBounds h.2.1 { x.lcs.toList.getD h.2.1 {} with semGot := some k } } := by
  unfold effSemGrant
  rw [SemSt.toList_getD _ k hk]
  dsimp only
  split
  next h' q' _ hw' =>
    obtain ⟨rfl, rfl⟩ := List.cons.inj (hw.symm.trans hw')
    rw [Vector.setIfInBounds_eq_set d.sems hk]
  next hno => exact absurd hw (hno h q hh)

theorem Dev.semBrokenRegs_keeps (d : Dev) (k : Nat) : d.keepsRegs (d.semBrokenRegs k)
    [(.sem, 0, 0x108 + 4 * (k / 32)), (.sem, 0, 0x020), (.sem, 0, 0x110)] :=
  ((d.keepsRegs_setReg _ _ _ _ (by simp)).trans (Dev.keepsRegs_setReg _ _ _ _ _ (by simp))).trans
    (Dev.keepsRegs_bump _ _ _ _ _ (by simp))

theorem Dev.semBrokenRegs_flag (d : Dev) {k : Nat} (hk : k < 64) :
    (d.semBrokenRegs k).flag .sem 0 (0x108 + 4 * (k / 32)) (k % 32) = true ∧
    (d.semBrokenRegs k).reg .sem 0 0x110 = satAdd (d.reg .sem 0 0x110) 1 := by
  have hk' : k / 32 < 2 := by omega
  have h110 : Page.base .sem 0 + 0x110 ≠ Page.base .sem 0 + (0x108 + 4 * (k / 32)) := by omega
  have h020 : Page.base .sem 0 + 0x020 ≠ Page.base .sem 0 + (0x108 + 4 * (k / 32)) := by omega
  unfold Dev.semBrokenRegs
  dsimp only
  constructor
  · unfold Dev.flag
    rw [Dev.reg_bump_ne _ _ h110.symm, Dev.reg_setReg_ne _ _ h020.symm, Dev.reg_setReg_self]
    rw [Nat.mod_eq_of_lt (Nat.or_lt_two_pow (d.reg_lt ..) (Nat.pow_lt_pow_right (by decide) (by omega))), bit_or_two_pow]
    simp
  · rw [Dev.reg_bump_self, Dev.reg_setReg_ne _ _ (by simp), Dev.reg_setReg_ne _ _ h110]

theorem effSemBroken_eq {d : Dev} {k : Nat} (hk : k < 64) {h : Nat × Nat × Nat} (hh : d.sems[k].holder = some h)
    (he : d.elapsed d.sems[k].since 10000 = true) : effHoldBroken k d = (d.breakSem k).askEnd h.1 (.aborted 4) := by
  unfold effHoldBroken effSemBroken
  rw [if_pos hk, SemSt.toList_getD _ k hk]
  dsimp only
  split
  next hn => exact absurd (hh.symm.trans hn) (by simp)
  next h' hn =>
    obtain rfl := Option.some_inj.1 (hh.symm.trans hn)
    rw [he]
    rfl

theorem Dev.breakSem_spec {d : Dev} {k : Nat} (hk : k < 64) {h : Nat × Nat × Nat} (hh : d.sems[k].holder = some h) :
    d.breakSem k = { d with rg := (d.breakSem k).rg, sems := d.sems.set k { d.sems[k] with holder := none }
                            pci := (d.breakSem k).pci } ∧
    (d.breakSem k).flag .sem 0 (0x108 + 4 * (k / 32)) (k % 32) = true ∧
    (d.breakSem k).reg .sem 0 0x110 = satAdd (d.reg .sem 0 0x110) 1 ∧
    d.keepsRegs (d.breakSem k) (evtRegs ++ [(.sem, 0, 0x108 + 4 * (k / 32)), (.sem, 0, 0x020), (.sem, 0, 0x110)]) ∧
    d.keepsPci (d.breakSem k) := by
  have hk' : k / 32 < 2 := by omega
  have hget := SemSt.toList_getD d.sems k hk
  have hoff {o : Nat} (ho : o < 0x1000) (bs : List Byte) (e : Dev) : (e.post .sch 0 0x02 2 0 bs).reg .sem 0 o = e.reg .sem 0 o :=
    Dev.reg_post_ne _ _ _ _ _ (by simp; omega) (by simp; omega) (by simp; omega)
  rw [Dev.breakSem_eq (h := h) (by rw [hget]; exact hh), hget, Vector.setIfInBounds_eq_set _ hk]
  generalize hf : ({ d with sems := d.sems.set k { d.sems[k] with holder := none } } : Dev) = f
  have hreg (p : Page) (n o : Nat) : f.reg p n o = d.reg p n o := Dev.reg_congr (by rw [← hf]) p n o
  have hpci : f.pci = d.pci := by rw [← hf]
  obtain ⟨b1, b2⟩ := f.semBrokenRegs_flag hk
  have hr := f.semBrokenRegs_regsOnly k
  have hkeep := f.semBrokenRegs_keeps k
  generalize f.semBrokenRegs k = g at *
  generalize layout 20 _ = bs
  have hs := g.post_shape .sch 0 0x02 2 0 bs
  have hp := g.keepsPci_post .sch 0 0x02 2 0 bs
  have hkr := g.keepsRegs_post .sch 0 0x02 2 0 bs (l := evtRegs) (List.Subset.refl _)
  refine ⟨?_, ?_, (hoff (by decide) _ _).trans (b2.trans (by rw [hreg])), ?_, ?_⟩
  · generalize g.post .sch 0 0x02 2 0 bs = e at *
    obtain ⟨r, rfl⟩ : ∃ r, g = { f with rg := r } := ⟨_, hr⟩
    rw [hs, ← hf]
  · unfold Dev.flag at b1 ⊢
    rw [hoff (by omega)]
    exact b1
  · refine Dev.keepsRegs.trans (Dev.keepsRegs_of_rg (by rw [← hf]) _) ((hkeep.mono ?_).trans (hkr.mono ?_))
    · exact List.subset_append_right _ _
    · exact List.subset_append_left _ _
  · refine Dev.keepsPci.trans (Dev.keepsPci_of_pci (by rw [hr, ← hf])) hp

end Sys2Proof.Machine

open Sys2Proof Sys2Proof.Machine

/-- Settles O6: a grant and a break each change their one semaphore. -/
theorem semaphoreCommands : Obligations.SemaphoreCommands := by
  unfold Obligations.SemaphoreCommands
  refine ⟨?grant, ?broken⟩
  case grant =>
    intro s k h q hh hw hlc hc
    have hx := exec_onDev (s := s) (i := .semGrant k) (f := effSemGrant k.val) rfl (effSemGrant_eq k.isLt hh hw)
    refine ⟨_, hx, rfl, rfl, Dev.keepsCores_modCore { s.d with sems := _ } hc _, ?_⟩
    exact (Dev.core_modCore _ _ _ _ hc).trans (if_pos rfl)
  case broken =>
    intro s k h hk hh he
    obtain ⟨h1, h2, h3, h4, h5⟩ := Dev.breakSem_spec hk hh
    have hx := exec_onDev (s := s) (i := .semBroken k) (f := effHoldBroken k.val) rfl (effSemBroken_eq hk hh he)
    refine ⟨_, hx, ?_⟩
    dsimp only
    generalize s.d.breakSem k.val = e at *
    obtain ⟨r, x, rfl⟩ : ∃ r x, e = { s.d with rg := r, sems := s.d.sems.set k.val { s.d.sems[k.val] with holder := none }
                                               pci := x } := ⟨_, _, h1⟩
    exact ⟨rfl, rfl, h2, h3, h4, h5, rfl⟩

end

section
/-! SUPPORT. A scalar load of poison and the fault it gives (O4). -/

namespace Sys2Proof.Machine

/-- The events of a core's queue are delivered: they change its queue, and what events change. -/
structure Dev.evtKeeps (d e : Dev) (c : Nat) : Prop where
  shape : e = { d with rg := e.rg, cores := e.cores, pci := e.pci }
  regs : d.keepsRegs e evtRegs
  pci : d.keepsPci e
  others : d.keepsCores e c

theorem Dev.evtKeeps.refl (d : Dev) (c : Nat) : d.evtKeeps d c := ⟨rfl, .refl d _, Dev.keepsPci_of_pci rfl, .refl d c⟩

theorem Dev.evtKeeps.trans {a b d : Dev} {c : Nat} (h : a.evtKeeps b c) (k : b.evtKeeps d c) : a.evtKeeps d c := by
  refine ⟨?_, h.regs.trans k.regs, h.pci.trans k.pci, h.others.trans k.others⟩
  rw [k.shape, h.shape]

theorem Dev.evtKeeps_post (d : Dev) (c : Nat) (p : Page) (n src sub inst : Nat) (bs : List Byte) :
    d.evtKeeps (d.post p n src sub inst bs) c := by
  refine ⟨?_, d.keepsRegs_post _ _ _ _ _ _ (List.Subset.refl _), d.keepsPci_post .., fun k _ => Dev.core_post ..⟩
  rw [Dev.post_shape]

theorem Dev.deliverEvt_spec (d : Dev) {c : Nat} (hc : c < 8) {v : CoreEvt} {l : List CoreEvt}
    (h : (d.core c).evq ++ (d.core c).ovc.toList = v :: l) :
    d.evtKeeps (d.deliverEvt c) c ∧ (d.deliverEvt c).core c = { d.core c with evq := l, ovc := none } := by
  have he : d.deliverEvt c = (d.setCore c { d.core c with evq := l, ovc := none }).post .core c 0x01 v.subtype c v.payload := by
    unfold Dev.deliverEvt
    dsimp only
    split
    next hn => exact absurd (h.symm.trans hn) (by simp)
    next v' l' hn =>
      obtain ⟨rfl, rfl⟩ := List.cons.inj (h.symm.trans hn)
      rfl
  rw [he]
  refine ⟨Dev.evtKeeps.trans (b := d.setCore c { d.core c with evq := l, ovc := none })
    ⟨rfl, Dev.keepsRegs_of_rg rfl _, Dev.keepsPci_of_pci rfl, d.keepsCores_setCore hc _⟩ (Dev.evtKeeps_post ..), ?_⟩
  rw [Dev.core_post, Dev.core_setCore _ _ _ _ hc, if_pos rfl]

/-- Every event of the queue is delivered. -/
theorem Dev.deliverEvts_spec {c : Nat} (hc : c < 8) (l : List CoreEvt) (d : Dev) (h : (d.core c).evq ++ (d.core c).ovc.toList = l) :
    d.evtKeeps (l.foldl (fun d _ => d.deliverEvt c) d) c ∧
    (l.foldl (fun d _ => d.deliverEvt c) d).core c = { d.core c with evq := [], ovc := none } := by
  induction l generalizing d with
  | nil =>
    obtain ⟨h1, h2⟩ := List.append_eq_nil_iff.1 h
    have h3 : (d.core c).ovc = none := by
      cases ho : (d.core c).ovc with
      | none => rfl
      | some v => simp [ho] at h2
    refine ⟨.refl d c, ?_⟩
    show d.core c = { d.core c with evq := [], ovc := none }
    rw [← h1, ← h3]
  | cons v l ih =>
    obtain ⟨h1, h2⟩ := d.deliverEvt_spec hc h
    obtain ⟨i1, i2⟩ := ih (d.deliverEvt c) (by rw [h2]; simp)
    exact ⟨h1.trans i1, i2.trans (by rw [h2])⟩

theorem Dev.takeMerged_spec (d : Dev) {c : Nat} (hc : c < 8) :
    d.coresOnly (d.takeMerged c) ∧ d.keepsCores (d.takeMerged c) c ∧
    (d.takeMerged c).core c = { d.core c with mem := { (d.core c).mem with merged := [] } } ∧
    d.keepsRegs (d.takeMerged c) [(.spd, c, 0x104), (.spd, c, 0x108), (.spd, c, 0x10C), (.spd, c, 0x020)] := by
  refine ⟨d.takeMerged_coresOnly c, (d.fills_takeMerged hc).others, ?_, ?_⟩
  · unfold Dev.takeMerged
    dsimp only
    split
    next h => rw [← List.isEmpty_iff.1 h]
    · rw [Dev.core_spdUe, Dev.core_setCore _ _ _ _ hc, if_pos rfl]
  · have hue (e : Dev) (l : List Nat) : e.keepsRegs (e.spdUe c l) [(.spd, c, 0x104), (.spd, c, 0x108), (.spd, c, 0x10C), (.spd, c, 0x020)] := by
      cases l with
      | nil => exact .refl e _
      | cons a l =>
        have hb := e.keepsRegs_bump .spd c 0x104 (a :: l).length
          (l := [(.spd, c, 0x104), (.spd, c, 0x108), (.spd, c, 0x10C), (.spd, c, 0x020)]) (by simp)
        unfold Dev.spdUe
        dsimp only
        split
        · exact hb.trans (Dev.keepsRegs_sticky _ _ _ _ (by simp) (by simp))
        · exact (hb.trans (Dev.keepsRegs_setReg _ _ _ _ _ (by simp))).trans (Dev.keepsRegs_sticky _ _ _ _ (by simp) (by simp))
    unfold Dev.takeMerged
    dsimp only
    split
    · exact .refl d _
    · exact Dev.keepsRegs.trans (Dev.keepsRegs_of_rg rfl _) (hue _ _)

/-- The core in FAULT (R102). -/
def CoreSt.faulted (x : CoreSt) (pc : Nat) : CoreSt :=
  { (x.setRun { x.run with pc := pc, hatch := (x.run.hatch.advance x.mem 4).1 }) with
    mem := { (x.run.hatch.advance x.mem 4).2 with merged := [] }, state := 6, stall := 0, stallSince := none, govWait := none
    evq := [], ovc := none }

/-- The request of a core to end its job. -/
def Dev.askFault (d : Dev) (job : Option Nat) (code : Nat) : Dev :=
  match job with
  | none => d
  | some j => d.askEnd j (.faulted code)

theorem Dev.askFault_shape (d : Dev) (job : Option Nat) (code : Nat) :
    d.askFault job code = { d with sch := (d.askFault job code).sch } := by
  cases job <;> rfl

theorem Dev.coreFault_spec (d : Dev) {c : Nat} (hc : c < 8) (slot code info pc : Nat) :
    ∃ e : Dev, d.coreFault c slot code info pc = e.askFault (d.core c).job code ∧
      e = { d with rg := e.rg, cores := e.cores, pci := e.pci } ∧
      e.reg .core c 0x108 = (slot * 65536 + (d.core c).runLc * 256 + code) % 2 ^ 32 ∧ e.reg .core c 0x10C = info % 2 ^ 32 ∧
      d.keepsRegs e (evtRegs ++ [(.core, c, 0x108), (.core, c, 0x10C), (.spd, c, 0x104), (.spd, c, 0x108), (.spd, c, 0x10C),
        (.spd, c, 0x020)]) ∧ d.keepsCores e c ∧ d.keepsPci e ∧ e.core c = (d.core c).faulted pc := by
  unfold Dev.coreFault
  extract_lets x d1 d2
  split
  next h m hadv =>
  extract_lets y d3 d4
  have hy : (d.core c).faulted pc = { ({ y with mem := m, state := 6, stall := 0, stallSince := none, govWait := none } : CoreSt) with
      mem := { m with merged := [] }, evq := [], ovc := none } := by
    unfold CoreSt.faulted
    change ({ x.setRun { x.run with pc := pc, hatch := (x.run.hatch.advance x.mem 4).1 } with
      mem := { (x.run.hatch.advance x.mem 4).2 with merged := [] }, state := 6, stall := 0, stallSince := none, govWait := none
      evq := [], ovc := none } : CoreSt) = _
    rw [hadv]
  have hset := (Dev.core_setCore d2 c c { y with mem := m, state := 6, stall := 0, stallSince := none, govWait := none } hc).trans
    (if_pos rfl)
  have hk := d2.keepsCores_setCore hc { y with mem := m, state := 6, stall := 0, stallSince := none, govWait := none }
  obtain ⟨t1, t2, t3, t4⟩ := Dev.takeMerged_spec (d2.setCore c { y with mem := m, state := 6, stall := 0, stallSince := none
                                                                        govWait := none }) hc
  rw [hset] at t3
  change Dev.coresOnly _ d3 at t1
  change Dev.keepsCores _ d3 c at t2
  change d3.core c = _ at t3
  change Dev.keepsRegs _ d3 _ at t4
  clear_value d3
  obtain ⟨v1, v2⟩ := Dev.deliverEvts_spec hc (x.evq ++ x.ovc.toList) d3 (by rw [t3]; rfl)
  have hp := Dev.evtKeeps_post ((x.evq ++ x.ovc.toList).foldl (fun d _ => d.deliverEvt c) d3) c .core c 0x01 3 c
    (layout 20 [(0, 4, x.jobid), (4, 1, x.runLc), (5, 1, code), (6, 1, slot), (8, 4, info)])
  have hcp : d4.core c = (d.core c).faulted pc := by
    rw [hy]
    exact (Dev.core_post ..).trans (v2.trans (by rw [t3]))
  have hk4 := v1.trans hp
  change d3.evtKeeps d4 c at hk4
  clear_value d4
  have hcore_evt : ∀ o < 0x1000, d4.reg .core c o = d2.reg .core c o := by
    intro o ho
    rw [hk4.regs _ _ _ (by simp [evtRegs, RegAt.addr]; omega), t4 _ _ _ (by simp [RegAt.addr]; omega)]
    rfl
  refine ⟨d4, ?_, ?_, ?_, ?_, ?_, ?_, ?_, hcp⟩
  · show _ = d4.askFault x.job code
    cases x.job <;> rfl
  · rw [hk4.shape, t1]
    rfl
  · rw [hcore_evt _ (by decide)]
    exact (Dev.reg_setReg_ne _ _ (by simp)).trans (Dev.reg_setReg_self ..)
  · rw [hcore_evt _ (by decide)]
    exact Dev.reg_setReg_self ..
  · have h2 : d.keepsRegs d2 [(.core, c, 0x108), (.core, c, 0x10C)] :=
      (d.keepsRegs_setReg _ _ _ _ (by simp)).trans (Dev.keepsRegs_setReg _ _ _ _ _ (by simp))
    refine (h2.mono ?_).trans ((Dev.keepsRegs.trans (Dev.keepsRegs_of_rg rfl _) (t4.mono ?_)).trans (hk4.regs.mono ?_))
    · intro a ha
      simp at ha ⊢
      tauto
    · intro a ha
      simp at ha ⊢
      tauto
    · exact List.subset_append_left _ _
  · exact ((Dev.keepsCores_of_cores (d := d) (e := d2) rfl c).trans hk).trans (t2.trans hk4.others)
  · exact Dev.keepsPci.trans (Dev.keepsPci_of_pci (by rw [t1]; rfl)) hk4.pci

end Sys2Proof.Machine

open Sys2Proof Sys2Proof.Machine

/-- Settles O4: the fault of the load is the fault of its core, with the loads that are left dropped. -/
theorem poisonScalarFaults : Obligations.PoisonScalarFaults := by
  unfold Obligations.PoisonScalarFaults
  intro s c pc slot a rd rest hp h6 h7 hlc a4
  have heff : effPoisonScalar c.val s.d = (s.d.setCore c { s.d.core c with poisonLoads := [] }).coreFault c slot 0x13 a pc := by
    unfold effPoisonScalar
    dsimp only
    split
    next h => exact absurd (hp.symm.trans h) (by simp)
    next h =>
      obtain ⟨h, -⟩ := List.cons.inj (hp.symm.trans h)
      obtain ⟨rfl, rfl, rfl, rfl⟩ := by simpa using h
      rw [if_neg (by simp [h6, h7])]
  have hset := s.d.core_setCore_self c { s.d.core c with poisonLoads := [] }
  have hk := s.d.keepsCores_setCore c.isLt { s.d.core c with poisonLoads := [] }
  obtain ⟨e, he, h1, h2, h3, h4, h5, h6, h7⟩ := Dev.coreFault_spec (s.d.setCore c { s.d.core c with poisonLoads := [] }) c.isLt
    slot 0x13 a pc
  rw [hset] at he h2 h7
  have hsh := e.askFault_shape (s.d.core c).job 0x13
  refine ⟨_, exec_onDev (s := s) (i := .poisonScalar c) (f := effPoisonScalar c.val) rfl (heff.trans he), ?_⟩
  have hsch : (e.askFault (s.d.core c).job 0x13).sch = (match (s.d.core c).job with
      | none => s.d.sch
      | some j => (s.d.askEnd j (.faulted 0x13)).sch) := by
    have hes : e.sch = s.d.sch := by rw [h1]; rfl
    cases (s.d.core c).job with
    | none => exact hes
    | some j =>
      unfold Dev.askFault Dev.askEnd Dev.modJob
      dsimp only
      rw [hes]
  generalize e.askFault (s.d.core c).job 0x13 = f at *
  obtain ⟨x, rfl⟩ : ∃ x, f = { e with sch := x } := ⟨_, hsh⟩
  refine ⟨?_, h2, h3, Dev.keepsRegs.trans (Dev.keepsRegs_of_rg rfl _) h4, hk.trans h5, ?_, ?_, hsch⟩
  · obtain ⟨r, y, z, rfl⟩ : ∃ r y z, e = { s.d with rg := r, cores := y, pci := z } := ⟨_, _, _, h1⟩
    rfl
  · exact h6
  · exact h7

end

section
/-! SUPPORT. A bundle of one scalar slot issues whole (O3). -/

namespace Sys2Proof.Machine

/-- The slots of a bundle with `w` in S0 alone. -/
def soloSlots (w : Nat) : List Nat := [w, 0, 0, 0, 0, 0, 0, 0]

/-- What the scalar operation of `w` leaves in the logical core (R69, R72). -/
def LcSt.scalarStep (l : LcSt) (w : Nat) : LcSt :=
  if l.executes w then
    l.setG (bits w 49 45) (alu (opcOf w % 16) (l.greg (bits w 44 40))
      (if opcOf w ≤ 0x0F then l.greg (bits w 39 35) else bits w 31 0))
  else l

theorem LcSt.executes_opc {l : LcSt} {w : Nat} (h : l.executes w = true) : opcOf w ≠ 0 := by
  unfold LcSt.executes at h
  simpa using (Bool.and_eq_true_iff.1 h).1

/-- A slot that decodes has an operation of its table (R90). -/
theorem scalarUsed_of_decodes {w pc : Nat} (h : encFaults pc (soloSlots w) = []) (h0 : opcOf w ≠ 0) :
    scalarUsed (opcOf w) ≠ none := by
  have hs : scalarEnc 0 pc w = [] := by
    unfold encFaults at h
    simp only [List.append_eq_nil_iff] at h
    exact h.1.1.1.1.1.1.1.1
  intro hn
  unfold scalarEnc at hs
  rw [if_neg h0, hn] at hs
  simp at hs

/-- The scalar operations up to 0x1F compute one value for `rd`. -/
theorem scalarRun_arith {l : LcSt} {w : Nat} (hex : l.executes w = true) (hop : opcOf w ≤ 0x1F) (hu : scalarUsed (opcOf w) ≠ none)
    (x : CoreSt) (c : Nat) : scalarRun x c 0 l w { l := l } = { l := l.scalarStep w } := by
  have h0 := LcSt.executes_opc hex
  have h10 : opcOf w ≠ 0x10 := fun h => hu (by rw [h]; rfl)
  unfold scalarRun LcSt.scalarStep
  dsimp only
  rw [if_pos hex]
  by_cases hlow : opcOf w ≤ 0x0F
  · rw [if_pos ⟨by omega, hlow⟩, if_pos hlow, Nat.mod_eq_of_lt (by omega)]
  · rw [if_neg (by omega), if_pos (by omega), if_neg hlow, show opcOf w - 0x10 = opcOf w % 16 by omega]

theorem LcSt.scalarStep_fields (l : LcSt) (w : Nat) : l.scalarStep w = { l with g := (l.scalarStep w).g } := by
  unfold LcSt.scalarStep LcSt.setG
  split_ifs <;> rfl

theorem LcSt.scalarOnly_solo (l : LcSt) (w : Nat) : l.scalarOnly (soloSlots w) := by
  intro i hi h1
  obtain rfl | rfl | rfl | rfl | rfl | rfl : i = 2 ∨ i = 3 ∨ i = 4 ∨ i = 5 ∨ i = 6 ∨ i = 7 := by omega
  all_goals exact LcSt.executes_zero l

theorem Dev.num_none (d : Dev) (p : Page) (n : Nat) : d.num p n {} = d := by
  simp [Dev.num, Dev.bump, b2n]

/-- No Hatch slot executes, so Hatch does nothing. -/
theorem hRun_idle (d : Dev) (c : Nat) {l : LcSt} {ws : List Nat} (h5 : l.executes (ws.getD 5 0) = false)
    (h6 : l.executes (ws.getD 6 0) = false) (x : CoreSt) (t : LcSt) : hRun d c l ws x t = ({ x with freeze := 0 }, t, d) := by
  have hact : ([5, 6].filter fun i => l.executes (ws.getD i 0)) = [] := by
    simp only [List.filter_cons, h5, h6, List.filter_nil]
    rfl
  unfold hRun
  rw [hact]
  simp [Dev.bump, Dev.spdUe, Dev.num_none]

theorem Dev.takeMerged_none {d : Dev} {c : Nat} (h : (d.core c).mem.merged = []) : d.takeMerged c = d := by
  simp [Dev.takeMerged, h]

/-- After the cycles before a bundle no merge is left to count. -/
theorem Dev.passCycles_merged (d : Dev) {c : Nat} (hc : c < 8) (cc fr : Nat) :
    ((d.passCycles c cc fr).core c).mem.merged = [] := by
  unfold Dev.passCycles
  extract_lets x fz
  split
  next h m hadv =>
  rw [Dev.core_eq_of_cores (Dev.bump_cores ..), (Dev.takeMerged_spec _ hc).2.2.1]

/-- What the scalar slots of a bundle compute. -/
def CoreSt.scalarOut (x : CoreSt) (c : Nat) (ws : List Nat) : ScalarOut :=
  [0, 1].foldl (fun (o : ScalarOut) i =>
    if x.run.executes (ws.getD i 0) then scalarRun x c i x.run (ws.getD i 0) o else o) { l := x.run }

/-- The core after a bundle of scalar slots, but for merges. -/
def CoreSt.scalarIssued (x : CoreSt) (so : ScalarOut) (f : Flow) : CoreSt :=
  ({ x with
    mem := so.stores.foldl (fun m s => m.store s.1 s.2 false) x.mem, state := 2, stall := 0, stallSince := none, govWait := none
    issued := x.issued + 1, freeze := 0
    poisonLoads := x.poisonLoads ++ so.poison.map fun (p : Nat × Nat × Nat) => (x.run.pc, p) } : CoreSt).setRun
    { so.l with pc := f.pc, loops := f.loops, rstack := f.rstack, ovcWait := false, gln := so.l.gln.settle }

/-- A bundle whose slots from G on do nothing issues its scalar slots. -/
theorem Dev.issueAll_scalarOnly (d : Dev) (c : Nat) {ws : List Nat} (h : (d.core c).run.scalarOnly ws) : d.issueAll c ws =
    (((d.spdUe c ((d.core c).scalarOut c ws).ue)).setCore c ((d.core c).scalarIssued ((d.core c).scalarOut c ws)
      (flowOf (d.core c).run (ws.getD 1 0) false))).takeMerged c := by
  unfold Dev.issueAll
  simp only [h 2 (by decide) (by decide), h 3 (by decide) (by decide), h 4 (by decide) (by decide), h 7 (by decide) (by decide),
    Bool.false_and, Bool.false_eq_true, if_false, hRun_idle _ c (h 5 (by decide) (by decide)) (h 6 (by decide) (by decide))]
  rfl

theorem CoreSt.scalarOut_solo (x : CoreSt) (c : Nat) {w : Nat} (hop : opcOf w ≤ 0x1F) (hu : opcOf w ≠ 0 → scalarUsed (opcOf w) ≠ none) :
    x.scalarOut c (soloSlots w) = { l := x.run.scalarStep w } := by
  have h1 : ¬ x.run.executes ((soloSlots w).getD 1 0) = true := by simp [soloSlots]
  unfold CoreSt.scalarOut
  rw [List.foldl_cons, List.foldl_cons, List.foldl_nil, if_neg h1]
  change (if x.run.executes w = true then scalarRun x c 0 x.run w { l := x.run } else { l := x.run }) = _
  by_cases hex : x.run.executes w = true
  · rw [if_pos hex, scalarRun_arith hex hop (hu (LcSt.executes_opc hex))]
  · rw [if_neg hex, LcSt.scalarStep, if_neg hex]

/-- A bundle of one scalar slot issues: its result, the loop levels that end, and the pc. -/
theorem Dev.issueAll_solo (d : Dev) {c : Nat} (hc : c < 8) {w : Nat} (hop : opcOf w ≤ 0x1F)
    (hu : opcOf w ≠ 0 → scalarUsed (opcOf w) ≠ none) (hm : (d.core c).mem.merged = []) :
    d.issueAll c (soloSlots w) = d.setCore c { (d.core c).setRun { (d.core c).run.scalarStep w with
        pc := (loopBack (d.core c).run.pc (d.core c).run.loops).2, loops := (loopBack (d.core c).run.pc (d.core c).run.loops).1
        ovcWait := false, gln := (d.core c).run.gln.settle } with
      state := 2, stall := 0, stallSince := none, govWait := none, issued := (d.core c).issued + 1, freeze := 0 } := by
  have hflow : flowOf (d.core c).run ((soloSlots w).getD 1 0) false =
      ⟨(loopBack (d.core c).run.pc (d.core c).run.loops).2, (loopBack (d.core c).run.pc (d.core c).run.loops).1,
        (d.core c).run.rstack, [(loopBack (d.core c).run.pc (d.core c).run.loops).2]⟩ := by
    show flowOf (d.core c).run 0 false = _
    unfold flowOf
    rw [LcSt.executes_zero]
    rfl
  rw [Dev.issueAll_scalarOnly d c (LcSt.scalarOnly_solo _ w), CoreSt.scalarOut_solo _ c hop hu, hflow, Dev.takeMerged_none]
  · unfold CoreSt.scalarIssued Dev.spdUe
    rw [List.map_nil, List.append_nil, LcSt.scalarStep_fields]
    rfl
  · rw [Dev.core_setCore _ _ _ _ hc, if_pos rfl]
    exact hm

/-- A bundle of one scalar slot has no operand that faults. -/
theorem valueFaults_solo (x : CoreSt) (l : LcSt) (sems : List SemSt) {w : Nat} (hop : opcOf w ≤ 0x1F) :
    valueFaults x l sems (soloSlots w) = [] := by
  have hacc : scalarAccess l w = none := by
    unfold scalarAccess
    dsimp only
    split
    case h_9 => rfl
    all_goals omega
  have hs : scalarFaults l 0 w = [] := by
    unfold scalarFaults
    simp [hacc]
    omega
  have h0 : isControl (opcOf 0) = false := rfl
  unfold valueFaults soloSlots
  simp [hs, h0]

theorem dualFaults_solo (l : LcSt) (w : Nat) : dualFaults l (soloSlots w) = [] := by
  unfold dualFaults soloSlots
  simp [List.range_succ]

theorem rangeFaults_solo {l : LcSt} {w len : Nat} (h : (loopBack l.pc l.loops).2 < len) : rangeFaults l (soloSlots w) len = [] := by
  unfold rangeFaults
  show (match ((flowOf l 0 (l.executes 0 && _)).checks.find? fun a => decide (len ≤ a)) with | some a => _ | none => _) = _
  rw [LcSt.executes_zero, Bool.false_and]
  unfold flowOf
  rw [LcSt.executes_zero]
  simp [h]

/-- A bundle of one scalar slot that decodes issues. -/
theorem Dev.tryBundle_solo (d : Dev) (c cc : Nat) {w : Nat} (hws : slotsOf (d.core c).imem (d.core c).run.pc = soloSlots w)
    (hop : opcOf w ≤ 0x1F) (henc : encFaults (d.core c).run.pc (soloSlots w) = []) (hp : (d.core c).poisonLoads = [])
    (hr : (loopBack (d.core c).run.pc (d.core c).run.loops).2 < ((d.core c).image.toList.getD (d.core c).runLc {}).len) :
    d.tryBundle c cc false = d.issueAll c (soloSlots w) := by
  have hscalar := LcSt.scalarOnly_solo (d.core c).run w
  have h7 : (d.core c).run.executes ((soloSlots w).getD 7 0) = false := LcSt.executes_zero _
  have hvs : ((soloSlots w).zipIdx.map fun p => if ([] : List SlotFault).any (fun f => f.slot == p.2) then 0 else p.1) = soloSlots w := by
    simp [soloSlots]
  simp only [Dev.tryBundle, hws, henc, CoreSt.interlocked_of_noPoison hp, hvs, bundleCharge_scalarOnly hscalar, Dev.govOk_zero,
    stallCodes_scalarOnly hscalar, valueFaults_solo _ _ _ hop, dualFaults_solo, rangeFaults_solo hr, h7]
  rfl

end Sys2Proof.Machine

open Sys2Proof Sys2Proof.Machine

/-- Settles O3: nothing holds or faults the bundle, and it issues whole. -/
theorem bundleIssueScalar : Obligations.BundleIssueScalar := by
  unfold Obligations.BundleIssueScalar
  intro s c cc fr cor bad w0 d x l r ws b l' hstate hswitch hfrozen hws hop henc hp hr
  have hm : x.mem.merged = [] := Dev.passCycles_merged _ c.isLt cc fr
  have hu (h0 : opcOf w0 ≠ 0) := scalarUsed_of_decodes (pc := l.pc) henc h0
  have heff : effBundleIssue c cc fr { imem := false, corrected := cor, bad := bad } s.d = d.issueAll c (soloSlots w0) :=
    (effBundleIssue_tries _ hstate hswitch hfrozen).trans (Dev.tryBundle_solo d c cc hws hop henc hp hr)
  refine ⟨_, exec_onDev (s := s) (i := .bundleIssue c cc fr false cor bad)
    (f := effBundleIssue c cc fr { imem := false, corrected := cor, bad := bad }) rfl
    (heff.trans (Dev.issueAll_solo d c.isLt hop hu hm)), rfl⟩

end

section
/-! SUPPORT. Plate passes and Wash commands start and retire (O8, O10). -/

namespace Sys2Proof.Machine

/-- A core whose job goes on stays. -/
theorem Dev.freeCore_going {d : Dev} {c : Nat} (h : (d.core c).ending = false) : d.freeCore c = d := by
  simp [Dev.freeCore, h]

/-- The registers in which uncorrectable SPAD words of core `c` are counted. -/
def spdRegs (c : Nat) : List RegAt := [(.spd, c, 0x104), (.spd, c, 0x108), (.spd, c, 0x10C), (.spd, c, 0x020)]

theorem Dev.keepsRegs_spdUe (d : Dev) (c : Nat) (l : List Nat) : d.keepsRegs (d.spdUe c l) (spdRegs c) := by
  cases l with
  | nil => exact .refl d _
  | cons a l =>
    have hb := d.keepsRegs_bump .spd c 0x104 (a :: l).length (l := spdRegs c) (by simp [spdRegs])
    unfold Dev.spdUe
    dsimp only
    split
    · exact hb.trans (Dev.keepsRegs_sticky _ _ _ _ (by simp [spdRegs]) (by simp [spdRegs]))
    · exact (hb.trans (Dev.keepsRegs_setReg _ _ _ _ _ (by simp [spdRegs]))).trans
        (Dev.keepsRegs_sticky _ _ _ _ (by simp [spdRegs]) (by simp [spdRegs]))

/-! ## Plate passes (R118, R121, R122, R125) -/

theorem PlateSt.startable_eq {s : PlateSt} {half : Bool} {p : PassRec}
    (h : s.passes.find? (fun p => decide (p.phase = .pending) && (!p.cmd.tand || p.cmd.half == half)) = some p)
    (hb : ∀ q ∈ s.passes, q.id < p.id → q.phase = .pending → q.apart p = true) : s.startable half = some p := by
  unfold PlateSt.startable
  rw [h]
  show (if _ then none else some p) = some p
  rw [if_neg]
  intro hany
  obtain ⟨q, hq, hc⟩ := List.any_eq_true.1 hany
  simp only [Bool.and_eq_true, decide_eq_true_eq, Bool.not_eq_true'] at hc
  obtain ⟨⟨hlt, hp⟩, ha⟩ := hc
  rw [hb q hq hlt hp] at ha
  exact absurd ha (by decide)

/-- What a start leaves of each pass. -/
def PassRec.started (q : PassRec) (spad : Mem) (p : PassRec) : PassRec :=
  if p.id = q.id then p.capture spad
  else if decide (p.phase = .array) && (!q.cmd.tand || !p.cmd.tand || p.cmd.half == q.cmd.half) then { p with phase := .draining } else p

theorem PassRec.started_id (q : PassRec) (spad : Mem) (p : PassRec) : (q.started spad p).id = p.id := by
  unfold PassRec.started
  split_ifs <;> rfl

theorem PassRec.started_phase {q : PassRec} {spad : Mem} {p : PassRec} (h : p.id = q.id) : (q.started spad p).phase = .array := by
  unfold PassRec.started
  rw [if_pos h]
  rfl

theorem PassRec.started_drains {q : PassRec} {spad : Mem} {p : PassRec} (ht : q.cmd.tand = false)
    (h : (q.started spad p).phase = .array) : p.id = q.id := by
  by_contra hne
  unfold PassRec.started at h
  rw [if_neg hne, ht] at h
  by_cases hp : p.phase = .array
  · rw [if_pos (by simp [hp])] at h
    simp at h
  · rw [if_neg (by simp [hp])] at h
    exact hp h

theorem PlateSt.start_eq {s : PlateSt} {half : Bool} {q : PassRec} (h : s.startable half = some q) (spad : Mem) :
    s.start half spad = { s with tandem := q.cmd.tand, group := pairGroup q.cmd.fmov, passes := s.passes.map (q.started spad) } := by
  unfold PlateSt.start
  rw [h]
  rfl

/-- Core `c` has become `x`, and no other core has changed. -/
structure Dev.setsCore (d e : Dev) (c : Nat) (x : CoreSt) : Prop where
  shape : d.coresFresh e
  others : d.keepsCores e c
  core : e.core c = x

theorem Dev.setsCore_setCore (d : Dev) {c : Nat} (hc : c < 8) (x : CoreSt) : d.setsCore (d.setCore c x) c x :=
  ⟨rfl, d.keepsCores_setCore hc x, (Dev.core_setCore d c c x hc).trans (if_pos rfl)⟩

theorem Dev.setsCore.then {d e f : Dev} {c : Nat} {x : CoreSt} (h : d.setsCore e c x) (hf : f.cores = e.cores) (k : e.coresFresh f) :
    d.setsCore f c x :=
  ⟨h.shape.trans k, h.others.trans (Dev.keepsCores_of_cores hf c), (Dev.core_eq_of_cores hf c).trans h.core⟩

theorem Dev.setsCore.regs {d e f : Dev} {c : Nat} {x : CoreSt} (h : d.setsCore e c x) (k : e.regsOnly f) : d.setsCore f c x :=
  h.then (by rw [k]) k.fresh

theorem Dev.setsCore.ue {d e : Dev} {c : Nat} {x : CoreSt} (h : d.setsCore e c x) (n : Nat) (l : List Nat) :
    d.setsCore (e.spdUe n l) c x := h.then (Dev.spdUe_cores ..) (Dev.spdUe_coresOnly ..).fresh

/-- How many of its rows' cycles a pass shares with the other tandem half: an open number where a pass is there (log 109). -/
theorem passShare_spec (d : Dev) (s : PlateSt) (p : PassRec) :
    ∃ k f, (if s.passes.any fun q => decide (q.phase = .array) && q.apart p then d.drawBelow (p.n + 1) else (0, d)) =
        (k, { d with fresh := f }) ∧ k ≤ p.n ∧ ((∀ q ∈ s.passes, q.phase = .array → q.apart p = false) → k = 0) := by
  split
  next h =>
    refine ⟨_, _, rfl, ?_, fun hno => ?_⟩
    · have : Config.freeNat d.fresh % max 1 (p.n + 1) < p.n + 1 := by
        rw [Nat.max_eq_right (by omega)]
        exact Nat.mod_lt _ (by omega)
      omega
    · obtain ⟨q, hq, hc⟩ := List.any_eq_true.1 h
      simp only [Bool.and_eq_true, decide_eq_true_eq] at hc
      rw [hno q hq hc.1] at hc
      exact absurd hc.2 (by decide)
  · exact ⟨0, d.fresh, rfl, Nat.zero_le _, fun _ => rfl⟩

theorem effPassStart_spec {d : Dev} {c : Nat} (hc : c < 8) {half : Bool} {p : PassRec} (h : (d.core c).plate.startable half = some p) :
    d.setsCore (effPassStart c half d) c { d.core c with plate := (d.core c).plate.start half (d.core c).mem.spad } ∧
    (∃ k ≤ p.n, ((∀ q ∈ (d.core c).plate.passes, q.phase = .array → q.apart p = false) → k = 0) ∧
      (effPassStart c half d).reg .plt c 0x124 = satAdd (d.reg .plt c 0x124) (p.n - k)) ∧
    d.keepsRegs (effPassStart c half d) ((.plt, c, 0x124) :: spdRegs c) := by
  obtain ⟨k, f, hk, h1, h2⟩ := passShare_spec d (d.core c).plate p
  have he : effPassStart c half d = ((({ d with fresh := f } : Dev).setCore c { d.core c with
      plate := (d.core c).plate.start half (d.core c).mem.spad }).bump .plt c 0x124 (p.n - k)).spdUe c
        (p.captureUe (d.core c).mem.spad) := by
    unfold effPassStart
    dsimp only
    rw [h]
    dsimp only
    rw [hk]
  have hset := Dev.setsCore_setCore { d with fresh := f } hc { d.core c with plate := (d.core c).plate.start half (d.core c).mem.spad }
  have hd : d.setsCore (({ d with fresh := f } : Dev).setCore c { d.core c with
      plate := (d.core c).plate.start half (d.core c).mem.spad }) c { d.core c with
        plate := (d.core c).plate.start half (d.core c).mem.spad } := ⟨rfl, hset.others, hset.core⟩
  rw [he]
  generalize he1 : (({ d with fresh := f } : Dev).setCore c { d.core c with
      plate := (d.core c).plate.start half (d.core c).mem.spad }) = e at *
  have hreg (q : Page) (n o : Nat) : e.reg q n o = d.reg q n o := Dev.reg_congr (by rw [← he1]; rfl) q n o
  have hue := (e.bump .plt c 0x124 (p.n - k)).keepsRegs_spdUe c (p.captureUe (d.core c).mem.spad)
  refine ⟨(hd.regs (e.bump_regsOnly ..)).ue c _, ⟨k, h1, h2, ?_⟩, ?_⟩
  · rw [hue _ _ _ (by simp [spdRegs, RegAt.addr]; omega), Dev.reg_bump_self, hreg]
  · refine Dev.keepsRegs.trans (Dev.keepsRegs_of_rg (by rw [← he1]; rfl) _) (((e.keepsRegs_bump _ _ _ _ ?_)).trans (hue.mono ?_))
    · simp
    · exact List.subset_cons_self _ _

/-- The counts of number events of a page (R42). -/
def numRegs (p : Page) (n : Nat) : List RegAt := [(p, n, 0x1C4), (p, n, 0x1C8), (p, n, 0x1D0), (p, n, 0x1CC)]

theorem Dev.keepsRegs_num (d : Dev) (p : Page) (n : Nat) (e : NumEv) : d.keepsRegs (d.num p n e) (numRegs p n) := by
  have hb := (((d.keepsRegs_bump p n 0x1C4 e.sat (l := numRegs p n) (by simp [numRegs])).trans
    (Dev.keepsRegs_bump _ p n 0x1C8 e.nan (by simp [numRegs]))).trans (Dev.keepsRegs_bump _ p n 0x1D0 e.clamp (by simp [numRegs])))
  unfold Dev.num
  split
  · exact .refl d _
  · extract_lets d1 f
    split
    · exact hb
    · exact hb.trans (Dev.keepsRegs_setReg _ _ _ _ _ (by simp [numRegs]))

theorem Dev.keepsRegs_passPoison (d : Dev) (c : Nat) (p : PassRec) (src : List Nat) :
    d.keepsRegs (d.passPoison c p src) [(.plt, c, 0x118), (.plt, c, 0x120), (.plt, c, 0x020), (.plt, c, 0x11C)] := by
  unfold Dev.passPoison
  extract_lets d1 d2
  have h1 : d.keepsRegs d1 [(.plt, c, 0x118), (.plt, c, 0x120), (.plt, c, 0x020), (.plt, c, 0x11C)] :=
    (d.keepsRegs_bump _ _ _ _ (by simp)).trans (Dev.keepsRegs_sticky _ _ _ _ (by simp) (by simp))
  have h2 : d.keepsRegs d2 [(.plt, c, 0x118), (.plt, c, 0x120), (.plt, c, 0x020), (.plt, c, 0x11C)] := by
    unfold d2
    split
    · exact h1.trans (Dev.keepsRegs_sticky _ _ _ _ (by simp) (by simp))
    · exact h1
  clear_value d2
  split
  · exact h2
  · split
    next s d3 h3 =>
    have h23 : d3.rg = d2.rg := by
      split at h3
      · obtain ⟨-, rfl⟩ := Prod.mk.inj h3
        rfl
      · obtain ⟨-, rfl⟩ := Prod.mk.inj h3
        rfl
    exact (h2.rg_right h23).trans (Dev.keepsRegs_setReg _ _ _ _ _ (by simp))

theorem Dev.passPoison_cores (d : Dev) (c : Nat) (p : PassRec) (src : List Nat) : (d.passPoison c p src).cores = d.cores := by
  rw [d.passPoison_shape]

theorem Dev.passPoison_coresFresh (d : Dev) (c : Nat) (p : PassRec) (src : List Nat) : d.coresFresh (d.passPoison c p src) := by
  unfold Dev.coresFresh
  rw [d.passPoison_shape]

/-- A contribution is kept with its logical core. -/
theorem CoreSt.deposit_fst (x : CoreSt) (lc : Nat) (e : WideEntry) : (x.deposit lc e).1 = { x with lcs := (x.deposit lc e).1.lcs } := rfl

/-- A core whose pass `p` has written `o`. -/
def CoreSt.passOut (x : CoreSt) (p : PassRec) (o : PassOut) : CoreSt :=
  { x with
    mem := { x.mem with spad := o.spad, accm := o.accm }
    plate := { x.plate with passes := x.plate.passes.filter fun q => q.id ≠ p.id } }

/-- The core with the contribution of a WIDE pass, and whether that is lost. -/
def CoreSt.passDone (x : CoreSt) (p : PassRec) (o : PassOut) : CoreSt × Bool :=
  if p.cmd.wide then (x.passOut p o).deposit p.lc { seq := p.seq, pass := some p, words := p.accmRows o.accm, src := o.src }
  else (x.passOut p o, false)

theorem CoreSt.passDone_spec (x : CoreSt) (p : PassRec) (o : PassOut) :
    (x.passDone p o).1 = { x.passOut p o with lcs := (x.passDone p o).1.lcs } ∧
    (p.cmd.wide = false → (x.passDone p o).1 = x.passOut p o) := by
  unfold CoreSt.passDone
  split
  next h => exact ⟨rfl, fun hn => absurd (h.symm.trans hn) (by decide)⟩
  · exact ⟨rfl, fun _ => rfl⟩

/-- The counts and records of a pass that retires. -/
def Dev.passCounts (d : Dev) (c : Nat) (p : PassRec) (o : PassOut) (lost : Bool) : Dev :=
  let d := ((d.bump .plt c 0x110 1).num .plt c o.ev).spdUe c o.ue
  let d := if lost then d.sticky .det 0 2 else d
  if o.poisoned || (p.cmd.drain && p.slot.bad) then d.passPoison c p o.src else d

theorem effPassRetire_eq {d : Dev} {c : Nat} {half : Bool} {p : PassRec} (h : (d.core c).plate.oldest half = some p)
    (parity : List Nat) :
    let o := p.run parity (d.core c).mem.spad (d.core c).mem.accm
    effPassRetire c half parity d =
      ((d.setCore c ((d.core c).passDone p o).1).passCounts c p o ((d.core c).passDone p o).2).freeCore c := by
  unfold effPassRetire
  dsimp only
  rw [h]
  rfl

theorem Dev.passCounts_spec (d : Dev) {c : Nat} (hc : c < 8) (p : PassRec) (o : PassOut) (lost : Bool) :
    (d.passCounts c p o lost).cores = d.cores ∧ d.coresFresh (d.passCounts c p o lost) ∧
    (d.passCounts c p o lost).reg .plt c 0x110 = satAdd (d.reg .plt c 0x110) 1 := by
  have hb := d.reg_bump_self .plt c 0x110 1
  have hbr := d.bump_regsOnly .plt c 0x110 1
  have hn := (d.bump .plt c 0x110 1).keepsRegs_num .plt c o.ev
  have hnr := (d.bump .plt c 0x110 1).num_regsOnly .plt c o.ev
  have hu := ((d.bump .plt c 0x110 1).num .plt c o.ev).keepsRegs_spdUe c o.ue
  have huc := ((d.bump .plt c 0x110 1).num .plt c o.ev).spdUe_cores c o.ue
  have huf := ((d.bump .plt c 0x110 1).num .plt c o.ev).spdUe_coresOnly c o.ue
  unfold Dev.passCounts
  extract_lets d1 d2
  have h1 : d1.cores = d.cores ∧ d.coresFresh d1 ∧ d1.reg .plt c 0x110 = satAdd (d.reg .plt c 0x110) 1 := by
    refine ⟨huc.trans (by rw [hnr, hbr]), (hbr.trans hnr).fresh.trans huf.fresh, ?_⟩
    rw [hu _ _ _ (by simp [spdRegs, RegAt.addr]; omega), hn _ _ _ (by simp [numRegs, RegAt.addr]), hb]
  have h2 : d2.cores = d.cores ∧ d.coresFresh d2 ∧ d2.reg .plt c 0x110 = satAdd (d.reg .plt c 0x110) 1 := by
    obtain ⟨a1, a2, a3⟩ := h1
    unfold d2
    split
    · exact ⟨by simpa using a1, a2.trans (Dev.sticky_regsOnly ..).fresh,
        (Dev.reg_sticky_ne _ _ (by simp; omega) (by simp; omega)).trans a3⟩
    · exact ⟨a1, a2, a3⟩
  clear_value d2
  obtain ⟨a1, a2, a3⟩ := h2
  split
  · exact ⟨(d2.passPoison_cores ..).trans a1, a2.trans (d2.passPoison_coresFresh ..),
      (d2.keepsRegs_passPoison c p o.src _ _ _ (by simp [RegAt.addr])).trans a3⟩
  · exact ⟨a1, a2, a3⟩

theorem effPassRetire_spec {d : Dev} {c : Nat} (hc : c < 8) {half : Bool} {p : PassRec} (h : (d.core c).plate.oldest half = some p)
    (he : (d.core c).ending = false) (parity : List Nat) :
    let o := p.run parity (d.core c).mem.spad (d.core c).mem.accm
    d.setsCore (effPassRetire c half parity d) c ((d.core c).passDone p o).1 ∧
    (effPassRetire c half parity d).reg .plt c 0x110 = satAdd (d.reg .plt c 0x110) 1 := by
  intro o
  obtain ⟨hs, -⟩ := (d.core c).passDone_spec p o
  have hset := d.setsCore_setCore hc ((d.core c).passDone p o).1
  obtain ⟨k1, k2, k3⟩ := (d.setCore c ((d.core c).passDone p o).1).passCounts_spec hc p o ((d.core c).passDone p o).2
  rw [effPassRetire_eq h parity, Dev.freeCore_going]
  · exact ⟨hset.then k1 k2, k3⟩
  · rw [(hset.then k1 k2).core, hs]
    exact he

end Sys2Proof.Machine

open Sys2Proof Sys2Proof.Machine

/-- Settles O8: each command changes the Plate of its core, as the start, the output and the release of a pass do. -/
theorem plateCommands : Obligations.PlateCommands := by
  unfold Obligations.PlateCommands
  refine ⟨?start, ?retire, ?free⟩
  case start =>
    intro s c half p x hfind hbefore
    have hst := PlateSt.startable_eq hfind hbefore
    obtain ⟨⟨h1, h2, h3⟩, ⟨k, k1, k2, k3⟩, h4⟩ := effPassStart_spec c.isLt hst
    rw [PlateSt.start_eq hst] at h3
    refine ⟨_, exec_onDev (s := s) (i := .passStart c half) (f := effPassStart c.val half) rfl rfl,
      congrArg (fun e : Dev => ({ s with d := e } : State)) h1, h2, ?_, ?_⟩
    · dsimp only
      rw [h3]
    · dsimp only
      rw [h3]
      refine ⟨rfl, rfl, rfl, rfl, ?_, fun q hq hid => ?_, fun ht q hq hp => ?_, ⟨k, k1, k2, k3⟩, h4⟩
      · dsimp only
        rw [List.map_map]
        exact List.map_congr_left fun q _ => p.started_id _ q
      · obtain ⟨r, -, rfl⟩ := List.mem_map.1 hq
        exact PassRec.started_phase ((p.started_id _ r).symm.trans hid)
      · obtain ⟨r, -, rfl⟩ := List.mem_map.1 hq
        exact (p.started_id _ r).trans (PassRec.started_drains ht hp)
  case retire =>
    intro s c half parity p x o hold he
    obtain ⟨⟨h1, h2, h3⟩, h4⟩ := effPassRetire_spec c.isLt hold he parity
    obtain ⟨hd1, hd2⟩ := x.passDone_spec p o
    refine ⟨_, exec_onDev (s := s) (i := .passRetire c half parity) (f := effPassRetire c.val half parity) rfl rfl,
      congrArg (fun e : Dev => ({ s with d := e } : State)) h1, h2, ?_, fun hw => ?_, h4⟩
    · dsimp only
      rw [h3]
      exact hd1
    · dsimp only
      rw [h3]
      exact (congrArg CoreSt.lcs (hd2 hw)).trans rfl
  case free =>
    intro s c k x hf
    have he : x.plate.free k = { x.plate with tiles := x.plate.tiles.set k.val {} } := by
      unfold PlateSt.free
      rw [if_pos hf, Vector.setIfInBounds_eq_set _ k.isLt]
    refine ⟨_, exec_onDev (s := s) (i := .tileFree c k) (f := effTileFree c.val k.val) rfl rfl, rfl,
      s.d.keepsCores_modCore c.isLt _, ?_⟩
    exact (s.d.core_modCore_self c _).trans (by rw [show (s.d.core c).plate.free k = _ from he])

namespace Sys2Proof.Machine

/-! ## Wash commands (R174, R177, R179, R503) -/

/-- The core with the partials of a WIDE command, and whether they are lost. -/
def CoreSt.washWide (x : CoreSt) (w : WashCmd) : CoreSt × Bool :=
  ({ x with wash := { x.wash with exec := none } } : CoreSt).deposit w.lc
    { seq := w.seq, wash := some w, parts := ((List.range w.r).map fun k => w.widePart x.mem k).map fun p => (p.1, p.2.2) }

/-- The counts of a WIDE command that retires. -/
def Dev.washWideCounts (d : Dev) (c : Nat) (w : WashCmd) (m : CoreMem) (lost : Bool) : Dev :=
  let d := ((d.bump .wsh c 0x104 1).num .wsh c (((List.range w.r).map fun k => w.widePart m k).foldl (fun e p => e.add p.2.1)
    ({} : NumEv))).spdUe c (w.ue m)
  if lost then d.sticky .det 0 2 else d

/-- The counts of a command that retires with results `o`. -/
def Dev.washCounts (d : Dev) (c : Nat) (ev : NumEv) (empty oor dom : Nat) (ue : List Nat) : Dev :=
  let d := (d.bump .wsh c 0x104 1).num .wsh c ev
  let d := ((d.bump .wsh c 0x10C empty).bump .wsh c 0x110 oor).bump .wsh c 0x114 dom
  let d := if 0 < empty then d.sticky .wsh c 0 else d
  let d := if 0 < oor then d.sticky .wsh c 1 else d
  let d := if 0 < dom then d.sticky .wsh c 2 else d
  d.spdUe c ue

/-- The record of a command with poisoned results. -/
def Dev.washPoison (d : Dev) (c : Nat) (w : WashCmd) (poisoned : Bool) : Dev :=
  if !poisoned then d
  else
    let d := d.sticky .wsh c 3
    if d.flag .wsh c 0x11C 31 then d
    else d.setReg .wsh c 0x11C (2 ^ 31 + w.opc * 65536 + w.lc * 8192 + w.pc)

theorem effWashRetire_wide {d : Dev} {c : Nat} {w : WashCmd} (h : (d.core c).wash.exec = some w) (hw : w.wide = true) :
    effWashRetire c d = ((d.setCore c ((d.core c).washWide w).1).washWideCounts c w (d.core c).mem ((d.core c).washWide w).2).freeCore c := by
  unfold effWashRetire
  dsimp only
  rw [h]
  dsimp only
  rw [if_pos hw]
  rfl

theorem effWashRetire_plain {d : Dev} {c : Nat} {w : WashCmd} (h : (d.core c).wash.exec = some w) (hw : w.wide = false) :
    let o := w.run (d.core c).mem
    effWashRetire c d = ((((d.setCore c { d.core c with wash := { (d.core c).wash with exec := none }, mem := o.mem }).washCounts c o.ev
      o.empty o.oor o.dom o.ue).takeMerged c).freeCore c).washPoison c w o.poisoned := by
  unfold effWashRetire
  dsimp only
  rw [h]
  dsimp only
  rw [if_neg (by rw [hw]; decide)]
  rfl

/-- A retiring command's own count, with its number events. -/
theorem Dev.washRetired_spec (d : Dev) (c : Nat) (ev : NumEv) :
    d.regsOnly ((d.bump .wsh c 0x104 1).num .wsh c ev) ∧
    ((d.bump .wsh c 0x104 1).num .wsh c ev).reg .wsh c 0x104 = satAdd (d.reg .wsh c 0x104) 1 ∧
    ∀ o, o = 0x10C ∨ o = 0x110 ∨ o = 0x114 → ((d.bump .wsh c 0x104 1).num .wsh c ev).reg .wsh c o = d.reg .wsh c o := by
  have hn := (d.bump .wsh c 0x104 1).keepsRegs_num .wsh c ev
  refine ⟨(d.bump_regsOnly ..).trans (Dev.num_regsOnly ..), ?_, ?_⟩
  · rw [hn _ _ _ (by simp [numRegs, RegAt.addr]), Dev.reg_bump_self]
  · rintro o (rfl | rfl | rfl)
    · rw [hn _ _ _ (by simp [numRegs, RegAt.addr]), Dev.reg_bump_ne _ _ (by simp)]
    · rw [hn _ _ _ (by simp [numRegs, RegAt.addr]), Dev.reg_bump_ne _ _ (by simp)]
    · rw [hn _ _ _ (by simp [numRegs, RegAt.addr]), Dev.reg_bump_ne _ _ (by simp)]

theorem Dev.washWideCounts_spec (d : Dev) {c : Nat} (hc : c < 8) (w : WashCmd) (m : CoreMem) (lost : Bool) :
    d.coresOnly (d.washWideCounts c w m lost) ∧ (d.washWideCounts c w m lost).cores = d.cores ∧
    (d.washWideCounts c w m lost).reg .wsh c 0x104 = satAdd (d.reg .wsh c 0x104) 1 := by
  obtain ⟨h1, h2, -⟩ := d.washRetired_spec c (((List.range w.r).map fun k => w.widePart m k).foldl (fun e p => e.add p.2.1)
    ({} : NumEv))
  unfold Dev.washWideCounts
  dsimp only
  generalize (d.bump .wsh c 0x104 1).num .wsh c (((List.range w.r).map fun k => w.widePart m k).foldl (fun e p => e.add p.2.1)
    ({} : NumEv)) = e at *
  have hu := e.keepsRegs_spdUe c (w.ue m) .wsh c 0x104 (by simp [spdRegs, RegAt.addr]; omega)
  have hs : d.coresOnly (e.spdUe c (w.ue m)) := Dev.coresOnly.trans (by rw [h1]) (e.spdUe_coresOnly c _)
  have hcores : (e.spdUe c (w.ue m)).cores = d.cores := (e.spdUe_cores c _).trans (by rw [h1])
  split
  · exact ⟨hs.trans (Dev.sticky_coresOnly ..), by simpa using hcores,
      (Dev.reg_sticky_ne _ _ (by simp; omega) (by simp; omega)).trans (hu.trans h2)⟩
  · exact ⟨hs, hcores, hu.trans h2⟩

theorem Dev.washCounts_spec (d : Dev) (c : Nat) (ev : NumEv) (empty oor dom : Nat) (ue : List Nat) :
    d.coresOnly (d.washCounts c ev empty oor dom ue) ∧ (d.washCounts c ev empty oor dom ue).cores = d.cores ∧
    (d.washCounts c ev empty oor dom ue).reg .wsh c 0x104 = satAdd (d.reg .wsh c 0x104) 1 ∧
    (d.washCounts c ev empty oor dom ue).reg .wsh c 0x10C = satAdd (d.reg .wsh c 0x10C) empty ∧
    (d.washCounts c ev empty oor dom ue).reg .wsh c 0x110 = satAdd (d.reg .wsh c 0x110) oor ∧
    (d.washCounts c ev empty oor dom ue).reg .wsh c 0x114 = satAdd (d.reg .wsh c 0x114) dom := by
  obtain ⟨h1, h2, h3⟩ := d.washRetired_spec c ev
  have hst (e : Dev) (p : Prop) [Decidable p] (b : Nat) : e.regsOnly (if p then e.sticky .wsh c b else e) ∧
      ∀ o, o ≠ 0x118 → o ≠ 0x020 → (if p then e.sticky .wsh c b else e).reg .wsh c o = e.reg .wsh c o := by
    split
    · exact ⟨e.sticky_regsOnly .., fun o h1 h2 => Dev.reg_sticky_ne _ _ (by simp; omega) (by simp; omega)⟩
    · exact ⟨.refl e, fun _ _ _ => rfl⟩
  unfold Dev.washCounts
  extract_lets d1 d2 d3 d4 d5
  change d.regsOnly d1 at h1
  change d1.reg .wsh c 0x104 = _ at h2
  change ∀ o, _ → d1.reg .wsh c o = d.reg .wsh c o at h3
  have hd2 : d1.regsOnly d2 := ((d1.bump_regsOnly ..).trans (Dev.bump_regsOnly ..)).trans (Dev.bump_regsOnly ..)
  have e104 : d2.reg .wsh c 0x104 = d1.reg .wsh c 0x104 := by
    simp only [d2]
    rw [Dev.reg_bump_ne _ _ (by simp), Dev.reg_bump_ne _ _ (by simp), Dev.reg_bump_ne _ _ (by simp)]
  have e10C : d2.reg .wsh c 0x10C = satAdd (d1.reg .wsh c 0x10C) empty := by
    simp only [d2]
    rw [Dev.reg_bump_ne _ _ (by simp), Dev.reg_bump_ne _ _ (by simp), Dev.reg_bump_self]
  have e110 : d2.reg .wsh c 0x110 = satAdd (d1.reg .wsh c 0x110) oor := by
    simp only [d2]
    rw [Dev.reg_bump_ne _ _ (by simp), Dev.reg_bump_self, Dev.reg_bump_ne _ _ (by simp)]
  have e114 : d2.reg .wsh c 0x114 = satAdd (d1.reg .wsh c 0x114) dom := by
    simp only [d2]
    rw [Dev.reg_bump_self, Dev.reg_bump_ne _ _ (by simp), Dev.reg_bump_ne _ _ (by simp)]
  clear_value d1 d2
  obtain ⟨s3, q3⟩ := hst d2 (0 < empty) 0
  change d2.regsOnly d3 at s3
  change ∀ o, _ → _ → d3.reg .wsh c o = _ at q3
  clear_value d3
  obtain ⟨s4, q4⟩ := hst d3 (0 < oor) 1
  change d3.regsOnly d4 at s4
  change ∀ o, _ → _ → d4.reg .wsh c o = _ at q4
  clear_value d4
  obtain ⟨s5, q5⟩ := hst d4 (0 < dom) 2
  change d4.regsOnly d5 at s5
  change ∀ o, _ → _ → d5.reg .wsh c o = _ at q5
  clear_value d5
  have hall : d.regsOnly d5 := (((h1.trans hd2).trans s3).trans s4).trans s5
  have hreg (o : Nat) (ho : o < 0x1000) (h118 : o ≠ 0x118) (h020 : o ≠ 0x020) : (d5.spdUe c ue).reg .wsh c o = d2.reg .wsh c o := by
    rw [d5.keepsRegs_spdUe c ue .wsh c o (by simp [spdRegs, RegAt.addr]; omega), q5 o h118 h020, q4 o h118 h020, q3 o h118 h020]
  refine ⟨Dev.coresOnly.trans (by rw [hall]) (d5.spdUe_coresOnly c ue), (d5.spdUe_cores c ue).trans (by rw [hall]), ?_, ?_, ?_, ?_⟩
  · rw [hreg _ (by decide) (by decide) (by decide), e104, h2]
  · rw [hreg _ (by decide) (by decide) (by decide), e10C, h3 _ (.inl rfl)]
  · rw [hreg _ (by decide) (by decide) (by decide), e110, h3 _ (.inr (.inl rfl))]
  · rw [hreg _ (by decide) (by decide) (by decide), e114, h3 _ (.inr (.inr rfl))]

theorem Dev.washPoison_spec (d : Dev) (c : Nat) (w : WashCmd) (b : Bool) : d.regsOnly (d.washPoison c w b) ∧
    ∀ o, o ≠ 0x118 → o ≠ 0x020 → o ≠ 0x11C → (d.washPoison c w b).reg .wsh c o = d.reg .wsh c o := by
  unfold Dev.washPoison
  split
  · exact ⟨.refl d, fun _ _ _ _ => rfl⟩
  · have hs (o : Nat) (h1 : o ≠ 0x118) (h2 : o ≠ 0x020) : (d.sticky .wsh c 3).reg .wsh c o = d.reg .wsh c o :=
      Dev.reg_sticky_ne _ _ (by simp; omega) (by simp; omega)
    extract_lets d1
    split
    · exact ⟨d.sticky_regsOnly .., fun o h1 h2 _ => hs o h1 h2⟩
    · exact ⟨(d.sticky_regsOnly .wsh c 3).trans (Dev.setReg_regsOnly ..),
        fun o h1 h2 h3 => (Dev.reg_setReg_ne _ _ (by simp; omega)).trans (hs o h1 h2)⟩

end Sys2Proof.Machine

open Sys2Proof Sys2Proof.Machine

/-- Settles O10: a command leaves its engine with its counts, and its results in memory unless it is WIDE. -/
theorem washCommands : Obligations.WashCommands := by
  unfold Obligations.WashCommands
  refine ⟨?start, ?retire⟩
  case start =>
    intro s c w q x hx hq
    have he : effWashStart c.val s.d = s.d.setCore c { x with wash := { exec := some w, queue := q } } := by
      unfold effWashStart
      dsimp only
      rw [show (s.d.core c).wash.exec = none from hx, show (s.d.core c).wash.queue = w :: q from hq]
    exact ⟨_, exec_onDev (s := s) (i := .washCommandStart c) (f := effWashStart c.val) rfl he, rfl, s.d.keepsCores_setCore c.isLt _,
      s.d.core_setCore_self c _⟩
  case retire =>
    intro s c w x hx he
    cases hw : w.wide with
    | true =>
      have hs := s.d.setsCore_setCore c.isLt (x.washWide w).1
      obtain ⟨k1, k2, k3⟩ := (s.d.setCore c (x.washWide w).1).washWideCounts_spec c.isLt w x.mem (x.washWide w).2
      have heff := effWashRetire_wide hx hw
      change _ = (((s.d.setCore c (x.washWide w).1).washWideCounts c w x.mem (x.washWide w).2).freeCore c) at heff
      have hcore := (hs.then k2 k1.fresh).core
      rw [Dev.freeCore_going (by rw [hcore]; exact he)] at heff
      refine ⟨_, exec_onDev (s := s) (i := .washCommandRetire c) (f := effWashRetire c.val) rfl heff,
        congrArg (fun e : Dev => ({ s with d := e } : State)) ((Dev.setCore_coresOnly ..).trans k1),
        (hs.then k2 k1.fresh).others, ?_, k3, fun _ => ?_, fun h => absurd h (by decide)⟩
      · dsimp only
        rw [hcore]
        rfl
      · dsimp only
        rw [hcore]
        rfl
    | false =>
      have heff := effWashRetire_plain hx hw
      have hs := s.d.setsCore_setCore c.isLt { x with wash := { x.wash with exec := none }, mem := (w.run x.mem).mem }
      obtain ⟨k1, k2, k3, k4, k5, k6⟩ := (s.d.setCore c { x with wash := { x.wash with exec := none }, mem := (w.run x.mem).mem }).washCounts_spec
        c (w.run x.mem).ev (w.run x.mem).empty (w.run x.mem).oor (w.run x.mem).dom (w.run x.mem).ue
      change effWashRetire c s.d = (((Dev.washCounts (s.d.setCore c { x with wash := { x.wash with exec := none }, mem := (w.run x.mem).mem })
        c (w.run x.mem).ev (w.run x.mem).empty (w.run x.mem).oor (w.run x.mem).dom (w.run x.mem).ue).takeMerged c).freeCore c).washPoison c w
          (w.run x.mem).poisoned at heff
      have hd1 := hs.then k2 k1.fresh
      have hc1 : s.d.coresOnly _ := Dev.coresOnly.trans (Dev.setCore_coresOnly ..) k1
      have hreg (o : Nat) : (s.d.setCore c { x with wash := { x.wash with exec := none }, mem := (w.run x.mem).mem }).reg .wsh c o =
        s.d.reg .wsh c o := Dev.reg_setCore ..
      rw [hreg] at k3 k4 k5 k6
      generalize Dev.washCounts (s.d.setCore c { x with wash := { x.wash with exec := none }, mem := (w.run x.mem).mem })
        c (w.run x.mem).ev (w.run x.mem).empty (w.run x.mem).oor (w.run x.mem).dom (w.run x.mem).ue = d1 at *
      obtain ⟨t1, t2, t3, t4⟩ := d1.takeMerged_spec c.isLt
      rw [hd1.core] at t3
      rw [Dev.freeCore_going (by rw [t3]; exact he)] at heff
      obtain ⟨p1, p2⟩ := (d1.takeMerged c).washPoison_spec c w (w.run x.mem).poisoned
      have hcore (i : Nat) : ((d1.takeMerged c).washPoison c w (w.run x.mem).poisoned).core i = (d1.takeMerged c).core i :=
        Dev.core_eq_of_cores (by rw [p1]) i
      have hfin (o : Nat) (ho : o < 0x1000) (h1 : o ≠ 0x118) (h2 : o ≠ 0x020) (h3 : o ≠ 0x11C) :
          ((d1.takeMerged c).washPoison c w (w.run x.mem).poisoned).reg .wsh c o = d1.reg .wsh c o := by
        rw [p2 o h1 h2 h3, t4 _ _ _ (by simp [RegAt.addr]; omega)]
      refine ⟨_, exec_onDev (s := s) (i := .washCommandRetire c) (f := effWashRetire c.val) rfl heff,
        congrArg (fun e : Dev => ({ s with d := e } : State)) (hc1.trans (t1.trans (by rw [p1]))), fun i hi => ?_, ?_,
        (hfin _ (by decide) (by decide) (by decide) (by decide)).trans k3, fun h => absurd h (by decide), fun _ => ⟨?_, ?_,
          (hfin _ (by decide) (by decide) (by decide) (by decide)).trans k4,
          (hfin _ (by decide) (by decide) (by decide) (by decide)).trans k5,
          (hfin _ (by decide) (by decide) (by decide) (by decide)).trans k6⟩⟩
      · dsimp only
        rw [hcore, t2 i hi, hd1.others i hi]
      · dsimp only
        rw [hcore, t3]
      · dsimp only
        rw [hcore, t3]
      · dsimp only
        rw [hcore, t3]

end

section
/-! SUPPORT. Cells written to the memories of a core, and tracebacks (O11). -/

namespace Sys2Proof.Machine

/-! ## Bytes that an access writes (R139, R205) -/

/-- A store of the bytes that are there changes no other byte. -/
theorem Mem.byte_writeSome_opt (bs : List (Option Byte)) (m : Mem) (a b : Nat) :
    (m.writeSome a bs).byte b = if a ≤ b ∧ b < a + bs.length then (bs.getD (b - a) none).getD (m.byte b) else m.byte b := by
  induction bs generalizing m a with
  | nil => simp [Mem.writeSome]
  | cons x bs ih =>
    unfold Mem.writeSome
    rw [ih]
    have hx (h1 : b ≠ a) : (Mem.byte (match x with | some v => m.setByte a v | none => m) b) = m.byte b := by
      cases x with
      | none => rfl
      | some v => exact (Mem.byte_setByte m a v b).trans (if_neg h1)
    by_cases h1 : b = a
    · subst h1
      rw [if_neg (by omega), if_pos ⟨le_refl _, by simp⟩]
      cases x with
      | none => simp
      | some v => simp [Mem.byte_setByte]
    · by_cases h2 : a ≤ b ∧ b < a + (x :: bs).length
      · have hs : b - a = (b - (a + 1)) + 1 := by omega
        rw [if_pos h2, if_pos (by simp at h2; omega), hs, List.getD_cons_succ]
        exact congrArg _ (hx h1)
      · rw [if_neg h2, if_neg (by simp at h2; omega)]
        exact hx h1

theorem Mem.byte_put_opt (g : Nat) (m : Mem) (a : Nat) (bs : List (Option Byte)) (p : Bool) (b : Nat) :
    (m.put g a bs p).byte b = if a ≤ b ∧ b < a + bs.length then (bs.getD (b - a) none).getD (m.byte b) else m.byte b := by
  unfold Mem.put
  rw [Mem.byte_writeSome_opt]
  have hm : ∀ {m1 : Mem}, m1.cells = m.cells → m1.undef = m.undef → m1.byte b = m.byte b := fun h1 h2 => Mem.byte_congr h1 h2 b
  rw [hm]
  · exact List.foldlRecOn (motive := fun m' : Mem => m'.cells = m.cells) _ _ rfl
      (fun m' h k _ => by split_ifs <;> exact h)
  · exact List.foldlRecOn (motive := fun m' : Mem => m'.undef = m.undef) _ _ rfl
      (fun m' h k _ => by split_ifs <;> exact h)

/-- The byte at a core-local address. -/
def CoreMem.byte (m : CoreMem) (a : Nat) : Byte := if accmBase ≤ a then m.accm.byte (a - accmBase) else m.spad.byte a

theorem CoreMem.read_one (m : CoreMem) (a : Nat) : m.read a 1 = [m.byte a] := by
  unfold CoreMem.read CoreMem.byte
  split <;> simp [Mem.read, List.range_succ]

/-- A beat's store changes the bytes that are there and no other. -/
theorem CoreMem.byte_put_beat (m : CoreMem) (k : Nat) {bs : List (Option Byte)} (hl : bs.length = 64) (p : Bool) (x : Nat) :
    (m.put (64 * k) bs p).byte x = if x / 64 = k then (bs.getD (x % 64) none).getD (m.byte x) else m.byte x := by
  have hidx : x / 64 = k → x - 64 * k = x % 64 := by omega
  have hbase : accmBase = 0x1000000 := rfl
  unfold CoreMem.put CoreMem.byte
  dsimp only
  by_cases hk : accmBase ≤ 64 * k
  · rw [if_pos hk]
    by_cases hx : accmBase ≤ x
    · rw [if_pos hx, if_pos hx, Mem.byte_put_opt, hl]
      by_cases hb : x / 64 = k
      · rw [if_pos (by omega), if_pos hb, show x - accmBase - (64 * k - accmBase) = x % 64 by omega]
      · rw [if_neg (by omega), if_neg hb]
    · rw [if_neg hx, if_neg hx]
      rw [if_neg (by omega)]
  · rw [if_neg hk]
    by_cases hx : accmBase ≤ x
    · rw [if_pos hx, if_pos hx]
      rw [if_neg (by omega)]
    · rw [if_neg hx, if_neg hx, Mem.byte_put_opt, hl]
      by_cases hb : x / 64 = k
      · rw [if_pos (by omega), if_pos hb, hidx hb]
      · rw [if_neg (by omega), if_neg hb]

/-- What single-byte elements leave at address `x`: the last of them there. -/
def lastAt (l : List (Nat × Byte)) (x : Nat) : Option Byte := ((l.filter fun b => b.1 == x).getLast?).map (·.2)

/-- Of two elements at one address the later stands. -/
theorem lastAt_of_last {l : List (Nat × Byte)} {i a : Nat} {b : Byte} (h : l[i]? = some (a, b))
    (hlast : ∀ j, i < j → ∀ c, l[j]? ≠ some (a, c)) : lastAt l a = some b := by
  obtain ⟨hi, hget⟩ := List.getElem?_eq_some_iff.1 h
  have hsplit : l = l.take i ++ (a, b) :: l.drop (i + 1) := by
    rw [← hget, List.getElem_cons_drop, List.take_append_drop]
  have hnone : (l.drop (i + 1)).filter (fun c => c.1 == a) = [] := by
    refine List.filter_eq_nil_iff.2 fun c hc => ?_
    obtain ⟨j, hj⟩ := List.getElem?_of_mem hc
    rw [List.getElem?_drop] at hj
    intro heq
    obtain ⟨c1, c2⟩ := c
    exact hlast (i + 1 + j) (by omega) c2 (by rw [hj, show c1 = a from beq_iff_eq.1 heq])
  unfold lastAt
  rw [hsplit, List.filter_append, List.filter_cons_of_pos (by simp), hnone]
  simp

theorem lastAt_eq_none {l : List (Nat × Byte)} {x : Nat} (h : ∀ p ∈ l, p.1 ≠ x) : lastAt l x = none := by
  unfold lastAt
  rw [List.filter_eq_nil_iff.2 fun p hp => by simpa using h p hp]
  rfl

/-- The single-byte elements of one beat. -/
theorem beatCells_bytes (l : List (Nat × Byte)) (p : Bool) (k : Nat) :
    (((l.map fun c => ((c.1, [c.2], p) : Nat × List Byte × Bool)).filter fun c => c.1 / 64 == k).flatMap fun c =>
      c.2.1.zipIdx.map fun b => (c.1 + b.2, b.1)) = l.filter fun c => c.1 / 64 == k := by
  induction l with
  | nil => rfl
  | cons c l ih =>
    simp only [List.map_cons, List.filter_cons]
    split
    · rw [List.flatMap_cons, ih]
      rfl
    · exact ih

theorem lastAt_beat (l : List (Nat × Byte)) (x : Nat) :
    (((l.filter fun c => c.1 / 64 == x / 64).filter fun b => b.1 == 64 * (x / 64) + x % 64).getLast?).map (·.2) = lastAt l x := by
  unfold lastAt
  rw [List.filter_filter]
  congr 2
  refine List.filter_congr fun c _ => ?_
  rw [Nat.div_add_mod]
  by_cases h : c.1 = x
  · simp [h]
  · simp [h]

/-- Single-byte elements leave at each address the last of them there, and elsewhere what stood there. -/
theorem CoreMem.byte_putCells (m : CoreMem) (l : List (Nat × Byte)) (p : Bool) (x : Nat) :
    (m.putCells (l.map fun c => (c.1, [c.2], p))).byte x = (lastAt l x).getD (m.byte x) := by
  have hput (m : CoreMem) (k : Nat) (bs : List (Option Byte)) (hb : bs = (List.range 64).map fun i =>
      (((l.filter fun c => c.1 / 64 == k).filter fun b => b.1 == 64 * k + i).getLast?).map (·.2)) (q : Bool) :
      (m.put (64 * k) bs q).byte x = if x / 64 = k then (lastAt l x).getD (m.byte x) else m.byte x := by
    rw [CoreMem.byte_put_beat m k (by rw [hb]; simp) q x]
    by_cases hk : x / 64 = k
    · rw [if_pos hk, if_pos hk, hb, ← lastAt_beat, ← hk]
      have hlt : x % 64 < 64 := Nat.mod_lt _ (by decide)
      rw [List.getD_eq_getElem _ _ (by simpa using hlt)]
      simp
    · rw [if_neg hk, if_neg hk]
  have hfold (ks : List Nat) (m : CoreMem) : (ks.foldl (fun m k =>
      let own := (l.map fun c => ((c.1, [c.2], p) : Nat × List Byte × Bool)).filter fun c => c.1 / 64 == k
      let bytes := own.flatMap fun c => c.2.1.zipIdx.map fun b => (c.1 + b.2, b.1)
      m.put (64 * k) ((List.range 64).map fun i => ((bytes.filter fun b => b.1 == 64 * k + i).getLast?).map (·.2))
        (own.any (·.2.2))) m).byte x = if x / 64 ∈ ks then (lastAt l x).getD (m.byte x) else m.byte x := by
    induction ks generalizing m with
    | nil => simp
    | cons k ks ih =>
      rw [List.foldl_cons, ih]
      dsimp only
      rw [hput m k _ (by rw [beatCells_bytes])]
      by_cases hk : x / 64 = k
      · rw [if_pos hk, if_pos (List.mem_cons.2 (.inl hk))]
        split
        · cases lastAt l x <;> rfl
        · rfl
      · rw [if_neg hk]
        exact if_congr (by simp [hk]) rfl rfl
  unfold CoreMem.putCells
  refine (hfold _ m).trans ?_
  by_cases hx : x / 64 ∈ ((l.map fun c => ((c.1, [c.2], p) : Nat × List Byte × Bool)).map fun c => c.1 / 64).eraseDups
  · rw [if_pos hx]
  · rw [if_neg hx, lastAt_eq_none]
    · rfl
    · intro c hc hcx
      refine hx (List.mem_eraseDups.2 ?_)
      rw [List.map_map]
      exact List.mem_map.2 ⟨c, hc, by simp [hcx]⟩

/-! ## Tracebacks (R202, R203, R205, R207) -/

/-- The record of a traceback that decoded poison. -/
def Dev.htbPoison (d : Dev) (c : Nat) (t : Htb) : Dev :=
  if t.pois && !t.addrs.isEmpty then
    let d := d.sticky .hch c 0
    if d.flag .hch c 0x118 31 then d
    else d.setReg .hch c 0x118 (2 ^ 31 + 0x22 * 65536 + t.lc * 8192 + t.pc)
  else d

theorem Dev.htbPoison_spec (d : Dev) (c : Nat) (t : Htb) : d.regsOnly (d.htbPoison c t) ∧
    (d.htbPoison c t).reg .hch c 0x110 = d.reg .hch c 0x110 := by
  have hs : (d.sticky .hch c 0).reg .hch c 0x110 = d.reg .hch c 0x110 := Dev.reg_sticky_ne _ _ (by simp) (by simp)
  unfold Dev.htbPoison
  split
  · extract_lets d1
    split
    · exact ⟨d.sticky_regsOnly .., hs⟩
    · exact ⟨(d.sticky_regsOnly .hch c 0).trans (Dev.setReg_regsOnly ..), (Dev.reg_setReg_ne _ _ (by simp)).trans hs⟩
  · exact ⟨.refl d, rfl⟩

/-- The memories with the decoded bytes of a traceback. -/
def CoreMem.decoded (m : CoreMem) (t : Htb) : CoreMem := m.putCells ((t.addrs.zip t.out).map fun a => (a.1, [a.2], t.pois))

theorem effHtbRetire_eq {d : Dev} {c : Nat} {t : Htb} {q : List Htb} (h : (d.core c).htb = t :: q) (hs : t.started = true) :
    effHtbRetire c d = ((((d.setCore c { d.core c with mem := (d.core c).mem.decoded t, htb := q }).bump .hch c 0x110 1).takeMerged
      c).freeCore c).htbPoison c t := by
  unfold effHtbRetire
  dsimp only
  rw [h]
  dsimp only
  rw [if_neg (by rw [hs]; decide)]
  rfl

theorem effHtbRetire_spec {d : Dev} {c : Nat} (hc : c < 8) {t : Htb} {q : List Htb} (h : (d.core c).htb = t :: q)
    (hs : t.started = true) (he : (d.core c).ending = false) :
    d.coresOnly (effHtbRetire c d) ∧ d.keepsCores (effHtbRetire c d) c ∧
    (effHtbRetire c d).core c = { d.core c with htb := q, mem := { (d.core c).mem.decoded t with merged := [] } } ∧
    (effHtbRetire c d).reg .hch c 0x110 = satAdd (d.reg .hch c 0x110) 1 := by
  have hset := d.setsCore_setCore hc { d.core c with mem := (d.core c).mem.decoded t, htb := q }
  have hreg := Dev.reg_setCore d c { d.core c with mem := (d.core c).mem.decoded t, htb := q } .hch c 0x110
  have hco := Dev.setCore_coresOnly d c { d.core c with mem := (d.core c).mem.decoded t, htb := q }
  rw [effHtbRetire_eq h hs]
  generalize d.setCore c { d.core c with mem := (d.core c).mem.decoded t, htb := q } = e at *
  have hb := hset.regs (e.bump_regsOnly .hch c 0x110 1)
  have hbr := e.reg_bump_self .hch c 0x110 1
  have hbo := hco.trans (e.bump_coresOnly .hch c 0x110 1)
  generalize e.bump .hch c 0x110 1 = f at *
  obtain ⟨t1, t2, t3, t4⟩ := f.takeMerged_spec hc
  rw [hb.core] at t3
  rw [Dev.freeCore_going (by rw [t3]; exact he)]
  obtain ⟨p1, p2⟩ := (f.takeMerged c).htbPoison_spec c t
  have hcore (i : Nat) : ((f.takeMerged c).htbPoison c t).core i = (f.takeMerged c).core i := Dev.core_eq_of_cores (by rw [p1]) i
  refine ⟨hbo.trans (t1.trans (by rw [p1])), fun i hi => ?_, ?_, ?_⟩
  · rw [hcore, t2 i hi, hb.others i hi]
  · rw [hcore, t3]
  · rw [p2, t4 _ _ _ (by simp [RegAt.addr]; omega), hbr, hreg]

end Sys2Proof.Machine

open Sys2Proof Sys2Proof.Machine

/-- Settles O11: the bytes of a traceback are single elements, of which the last at each address stands. -/
theorem tracebackCommands : Obligations.TracebackCommands := by
  unfold Obligations.TracebackCommands
  refine ⟨?start, ?retire⟩
  case start =>
    intro s c h q x hx hs
    have he : effHtbStart c.val s.d = s.d.setCore c { x with htb := h.walk (x.lcs.toList.getD h.lc {}).hatch :: q } := by
      unfold effHtbStart
      dsimp only
      rw [show (s.d.core c).htb = h :: q from hx]
      dsimp only
      rw [if_neg (by rw [hs]; decide)]
      rfl
    exact ⟨_, exec_onDev (s := s) (i := .htbStart c) (f := effHtbStart c.val) rfl he, rfl, s.d.keepsCores_setCore c.isLt _,
      s.d.core_setCore_self c _⟩
  case retire =>
    intro s c h q x hx hs he
    obtain ⟨h1, h2, h3, h4⟩ := effHtbRetire_spec c.isLt hx hs he
    have hread (a : Nat) : ((effHtbRetire c.val s.d).core c).mem.read a 1 = [(lastAt (h.addrs.zip h.out) a).getD (x.mem.byte a)] := by
      rw [h3, CoreMem.read_one]
      exact congrArg (fun b => [b]) (CoreMem.byte_putCells x.mem (h.addrs.zip h.out) h.pois a)
    refine ⟨_, exec_onDev (s := s) (i := .htbRetire c) (f := effHtbRetire c.val) rfl rfl,
      congrArg (fun e : Dev => ({ s with d := e } : State)) h1, h2, ?_, h4, fun i a b ha hb hlast => ?_, fun a ha => ?_⟩
    · dsimp only
      rw [h3]
    · rw [hread, lastAt_of_last (i := i) (b := b) (by rw [List.getElem?_zip_eq_some]; exact ⟨ha, hb⟩) fun j hj e hz =>
        hlast j hj (List.getElem?_zip_eq_some.1 hz).1]
      rfl
    · rw [hread, lastAt_eq_none (x := a) fun p hp hpa => ha (hpa ▸ (List.of_mem_zip (a := p.1) (b := p.2) hp).1),
        CoreMem.read_one]
      rfl

end

section
/-! SUPPORT. What the operations of a Gleaner's state change, and the requests, borrowed slots and returned buffers (O12). -/

namespace Sys2Proof.Machine

/-! ### Descriptors of a Gleaner -/

theorem GlnSt.desc_modDesc_self (g : GlnSt) {k : Nat} (hk : k < 32) (f : DescSt → DescSt) : (g.modDesc k f).desc k = f (g.desc k) := by
  simp [GlnSt.modDesc, GlnSt.desc, Vector.setIfInBounds_eq_set, hk]

theorem GlnSt.desc_settle (g : GlnSt) {k : Nat} (hk : k < 32) : g.settle.desc k = (g.desc k).relay.offer := by
  simp [GlnSt.settle, GlnSt.desc, hk]

theorem DescSt.relay_of_fresh {x : DescSt} (h : x.stale = false) : x.relay = x := by
  unfold DescSt.relay
  rw [if_neg (by simp [h])]

/-- A buffer in use keeps the ring as it is laid out (R223). -/
theorem DescSt.relay_of_used {x : DescSt} {b : GBuf} (hb : b ∈ x.bufs) (hf : b.st ≠ .free) (hp : b.st ≠ .popped) : x.relay = x := by
  unfold DescSt.relay
  rw [if_neg]
  intro h
  have hq := List.all_eq_true.1 (Bool.and_eq_true_iff.1 h).2 b hb
  simp [hf, hp] at hq

theorem DescSt.offer_of_inbound {x : DescSt} (h : dOut x.work = false) : x.offer = x := by
  unfold DescSt.offer
  rw [if_neg (by simp [h])]

/-- One buffer `b` offered as a token (R221). -/
def DescSt.offered (y : DescSt) (b : GBuf) : DescSt :=
  { (y.modBuf b.id fun x => { x with st := .token }).advance b with order := y.order ++ [b.id] }

theorem DescSt.bufs_advance (y : DescSt) (b : GBuf) : (y.advance b).bufs = y.bufs := by
  unfold DescSt.advance
  split <;> rfl

theorem DescSt.bufs_offered (y : DescSt) (b : GBuf) :
    (y.offered b).bufs = y.bufs.map fun x => if x.id = b.id then { x with st := .token } else x := DescSt.bufs_advance ..

theorem DescSt.nextFree_free {y : DescSt} {b : GBuf} (h : y.nextFree = some b) : b ∈ y.bufs ∧ b.st = .free := by
  unfold DescSt.nextFree at h
  split at h
  next c hc =>
    obtain rfl := Option.some.inj h
    have hp := List.find?_some hc
    exact ⟨List.mem_of_find?_eq_some hc, by simpa using (Bool.and_eq_true_iff.1 hp).1⟩
  next =>
    obtain ⟨i, -, hi⟩ := List.exists_of_findSome?_eq_some h
    have hp := List.find?_some hi
    exact ⟨List.mem_of_find?_eq_some hi, by simp at hp; exact hp.1.2⟩

/-- What holds of a descriptor and is kept when a free buffer is offered holds once its buffers are offered. -/
theorem DescSt.offer_induct {P : DescSt → Prop} (x : DescSt) (h0 : P x)
    (hs : ∀ y b, P y → b ∈ y.bufs → b.st = .free → P (y.offered b)) : P x.offer := by
  unfold DescSt.offer
  split
  · refine List.foldlRecOn x.bufs _ h0 fun y hy _ _ => ?_
    dsimp only
    split
    next b hb =>
      split
      · exact hs y b hy (DescSt.nextFree_free hb).1 (DescSt.nextFree_free hb).2
      · exact hy
    next => exact hy
  · exact h0

/-- Settling a descriptor touches its ring alone. -/
theorem DescSt.offer_shape (x : DescSt) : ∃ (bs : List GBuf) (o : List Nat) (r : Nat), x.offer = { x with bufs := bs, order := o, rptr := r } := by
  refine DescSt.offer_induct (P := fun y => ∃ (bs : List GBuf) (o : List Nat) (r : Nat), y = { x with bufs := bs, order := o, rptr := r })
    x ⟨_, _, _, rfl⟩ fun y b hy _ _ => ?_
  obtain ⟨bs, o, r, rfl⟩ := hy
  unfold DescSt.offered DescSt.advance
  split
  · exact ⟨_, _, _, rfl⟩
  · exact ⟨_, _, _, rfl⟩

theorem DescSt.relay_shape (x : DescSt) :
    ∃ (bs : List GBuf) (o : List Nat) (r : Nat) (l : Bool), x.relay = { x with bufs := bs, order := o, rptr := r, stale := l } := by
  unfold DescSt.relay
  split
  · exact ⟨_, _, _, _, rfl⟩
  · exact ⟨_, _, _, _, rfl⟩

/-- A descriptor whose ring is settled: relaid where it is quiet, its free buffers offered (R221, R223). -/
def DescSt.settled (x : DescSt) : DescSt := x.relay.offer

theorem DescSt.settled_shape (x : DescSt) :
    ∃ (bs : List GBuf) (o : List Nat) (r : Nat) (l : Bool), x.settled = { x with bufs := bs, order := o, rptr := r, stale := l } := by
  obtain ⟨bs, o, r, l, h⟩ := x.relay_shape
  obtain ⟨bs', o', r', h'⟩ := x.relay.offer_shape
  exact ⟨bs', o', r', l, by rw [DescSt.settled, h', h]⟩

theorem GlnSt.desc_settle_of_descs {g h : GlnSt} (hd : g.descs = h.descs) (k : Nat) : g.settle.desc k = h.settle.desc k := by
  simp only [GlnSt.desc, GlnSt.settle, hd]

@[simp] theorem GlnSt.lent_settle (g : GlnSt) : g.settle.lent = g.lent := by simp only [GlnSt.settle]

theorem GlnSt.desc_settle_modDesc (g : GlnSt) {k : Nat} (hk : k < 32) (f : DescSt → DescSt) :
    (g.modDesc k f).settle.desc k = (f (g.desc k)).settled := by
  rw [GlnSt.desc_settle _ hk, GlnSt.desc_modDesc_self g hk]
  rfl

/-! ### The running logical core -/

theorem CoreSt.run_setRun {x : CoreSt} (h : x.runLc < 8) (l : LcSt) : (x.setRun l).run = l := by
  simp [CoreSt.setRun, CoreSt.run, Vector.setIfInBounds_eq_set, h]

/-- A change of the Gleaner of the running logical core. -/
theorem Dev.modGln_spec (d : Dev) {c : Nat} (hc : c < 8) (f : GlnSt → GlnSt) :
    d.setsCore (d.modGln c f) c ((d.core c).setRun { (d.core c).run with gln := (f (d.core c).run.gln).settle }) :=
  d.setsCore_setCore hc _

/-- What an event that changes the Gleaner of the running logical core alone leaves. -/
theorem exec_modGln {s : State} (i : Instr) (c : Fin 8) {e : Dev → Dev} (f : GlnSt → GlnSt)
    (hx : exec i s = .next (s.onDev e)) (he : e s.d = s.d.modGln c f) :
    ∃ t, exec i s = .next t ∧ t = { s with d := { s.d with cores := t.d.cores } } ∧ s.d.keepsCores t.d c ∧
      t.d.core c = (s.d.core c).setRun { (s.d.core c).run with gln := (f (s.d.core c).run.gln).settle } :=
  ⟨_, exec_onDev (f := e) hx he, rfl, (s.d.modGln_spec c.isLt f).others, (s.d.modGln_spec c.isLt f).core⟩

/-! ### Borrowed slots and returned buffers -/

/-- The ring `x` with pool slot `n` at address `a` added (R219). -/
def DescSt.joined (x : DescSt) (n a : Nat) : DescSt :=
  { x with bufs := x.bufs ++ [{ id := x.nextId, addr := a, size := dBuf x.work, slot := some n }], nextId := x.nextId + 1 }

theorem GlnSt.borrow_eq {g : GlnSt} {k n p : Nat}
    (h : (List.range 32).findSome? (fun e => (g.mayBorrow e).map fun m => (e, m)) = some (k, n)) (hp : g.pool = some p) :
    g.borrow = { (g.modDesc k fun x => (x.joined n (dw (g.desc p).work 3 + n * dBuf (g.desc p).work)).offer) with
      lent := insertSorted n g.lent } := by
  unfold GlnSt.borrow
  rw [h]
  dsimp only
  rw [hp]
  rfl

/-- A ring borrows only when it is laid out (R219). -/
theorem GlnSt.mayBorrow_ready {g : GlnSt} {k n : Nat} (h : g.mayBorrow k = some n) : (g.desc k).stale = false := by
  unfold GlnSt.mayBorrow at h
  split at h
  · cases h
  · dsimp only at h
    split at h
    next hc =>
      simp only [Bool.and_eq_true, DescSt.ringReady] at hc
      simpa [hc.1.1.1.1.1.2] using hc.1.1.1.1.2
    next => cases h

/-- Offering keeps the place of every buffer. -/
theorem DescSt.offer_keeps_slot {x : DescSt} {n a : Nat} (h : ∃ b ∈ x.bufs, b.slot = some n ∧ b.addr = a) :
    ∃ b ∈ x.offer.bufs, b.slot = some n ∧ b.addr = a := by
  refine DescSt.offer_induct (P := fun y => ∃ b ∈ y.bufs, b.slot = some n ∧ b.addr = a) x h fun y e hy _ _ => ?_
  obtain ⟨b, hb, hn, ha⟩ := hy
  rw [DescSt.bufs_offered]
  refine ⟨_, List.mem_map_of_mem hb, ?_⟩
  split
  · exact ⟨hn, ha⟩
  · exact ⟨hn, ha⟩

theorem GlnSt.borrow_spec {g : GlnSt} {k n p : Nat}
    (h : (List.range 32).findSome? (fun e => (g.mayBorrow e).map fun m => (e, m)) = some (k, n)) (hp : g.pool = some p) :
    g.borrow.settle.lent = insertSorted n g.lent ∧
    ∃ b ∈ (g.borrow.settle.desc k).bufs, b.slot = some n ∧ b.addr = dw (g.desc p).work 3 + n * dBuf (g.desc p).work := by
  obtain ⟨e, he, hm⟩ := List.exists_of_findSome?_eq_some h
  obtain ⟨m, hb, hm⟩ := Option.map_eq_some_iff.1 hm
  obtain ⟨rfl, rfl⟩ := Prod.mk.inj hm
  have hk : e < 32 := List.mem_range.1 he
  have hstale := GlnSt.mayBorrow_ready hb
  rw [GlnSt.borrow_eq h hp]
  refine ⟨GlnSt.lent_settle _, ?_⟩
  rw [GlnSt.desc_settle_of_descs (h := g.modDesc e fun x => (x.joined m (dw (g.desc p).work 3 + m * dBuf (g.desc p).work)).offer) (by simp only),
    GlnSt.desc_settle_modDesc g hk]
  generalize dw (g.desc p).work 3 + m * dBuf (g.desc p).work = a
  have hin : ∃ b ∈ ((g.desc e).joined m a).bufs, b.slot = some m ∧ b.addr = a := ⟨_, List.mem_append_right _ (List.mem_singleton.2 rfl), rfl, rfl⟩
  obtain ⟨bs, o, r, ho⟩ := ((g.desc e).joined m a).offer_shape
  rw [DescSt.settled, DescSt.relay_of_fresh (by rw [ho]; exact hstale)]
  exact DescSt.offer_keeps_slot (DescSt.offer_keeps_slot hin)

theorem GlnSt.bufferReturn_eq {g : GlnSt} {q k : Nat} {b : GBuf} {l : List (Nat × GBuf)} {busy : GBuf → Bool}
    (h : g.popped q = (k, b) :: l) (hb : busy b = false) : g.bufferReturn q busy = g.giveBack k b := by
  unfold GlnSt.bufferReturn
  rw [h]
  simp [hb]

theorem mem_insertBy {α : Type} {le : α → α → Bool} {a b : α} : {l : List α} → (a ∈ insertBy le b l ↔ a = b ∨ a ∈ l)
  | [] => by simp [insertBy]
  | c :: l => by
    unfold insertBy
    split
    · rw [List.mem_cons, mem_insertBy, List.mem_cons]
      tauto
    · rw [List.mem_cons]

theorem mem_sortBy {α : Type} {le : α → α → Bool} {a : α} {l : List α} : a ∈ sortBy le l ↔ a ∈ l := by
  have hfold : ∀ (l acc : List α), a ∈ l.foldl (fun acc b => insertBy le b acc) acc ↔ a ∈ acc ∨ a ∈ l := by
    intro l
    induction l with
    | nil => simp
    | cons b l ih =>
      intro acc
      rw [List.foldl_cons, ih, mem_insertBy, List.mem_cons]
      tauto
  simpa [sortBy] using hfold l []

theorem GlnSt.popped_mem {g : GlnSt} {q k : Nat} {b : GBuf} {l : List (Nat × GBuf)} (h : g.popped q = (k, b) :: l) :
    b ∈ (g.desc k).bufs := by
  have hm : (k, b) ∈ g.popped q := h ▸ List.mem_cons_self
  unfold GlnSt.popped at hm
  obtain ⟨x, hx, hb⟩ := List.mem_flatMap.1 (mem_sortBy.1 hm)
  obtain ⟨b', hb', he⟩ := List.mem_map.1 hb
  obtain ⟨rfl, rfl⟩ := Prod.mk.inj he
  obtain ⟨-, hi, hx⟩ := List.mem_zipIdx hx
  have hd : g.desc x.2 = x.1 := by
    rw [hx]
    have hi : x.2 < g.descs.toList.length := by omega
    simp only [GlnSt.desc, List.getD_eq_getElem?_getD, List.getElem?_eq_getElem hi, Option.getD_some, Nat.sub_zero]
  rw [hd]
  exact List.mem_of_mem_filter hb'

theorem DescSt.mem_modBuf_of_id {x : DescSt} {i : Nat} {f : GBuf → GBuf} {z : GBuf}
    (hz : z ∈ (x.modBuf i f).bufs) (hi : z.id = i) : ∃ w, z = f w := by
  obtain ⟨w, -, rfl⟩ := List.mem_map.1 hz
  by_cases h : w.id = i
  · exact ⟨w, if_pos h⟩
  · rw [if_neg h] at hi
    exact absurd hi h

/-- A buffer of an outbound ring that passes back is ready, and stays so (R221). -/
theorem GlnSt.giveBack_ready {g : GlnSt} {k : Nat} {b : GBuf} (hk : k < 32) (hin : b ∈ (g.desc k).bufs)
    (ho : dOut (g.desc k).work = true) (hold : b.old = false) :
    ∀ z ∈ ((g.giveBack k b).settle.desc k).bufs, z.id = b.id → z.st = .ready := by
  have he : g.giveBack k b = g.modDesc k fun y => y.modBuf b.id fun b => { b with st := .ready } := by
    unfold GlnSt.giveBack
    rw [if_pos (by simp [ho, hold])]
  rw [he, GlnSt.desc_settle_modDesc g hk, DescSt.settled]
  generalize g.desc k = x at *
  have hused : ({ b with st := .ready } : GBuf) ∈ (x.modBuf b.id fun b => { b with st := .ready }).bufs :=
    List.mem_map.2 ⟨b, hin, by simp⟩
  rw [DescSt.relay_of_used hused (by simp) (by simp)]
  refine DescSt.offer_induct (P := fun y => ∀ z ∈ y.bufs, z.id = b.id → z.st = .ready) _ (fun z hz hid => ?_) fun y e hy he hf z hz hid => ?_
  · obtain ⟨w, rfl⟩ := DescSt.mem_modBuf_of_id hz hid
    rfl
  · rw [DescSt.bufs_offered] at hz
    obtain ⟨w, hw, rfl⟩ := List.mem_map.1 hz
    have hready : ∀ v ∈ y.bufs, v.id = b.id → v.id ≠ e.id := fun v hv hb heq => by
      have := hy e he (heq ▸ hb)
      rw [hf] at this
      cases this
    split
    next heq =>
      rw [if_pos heq] at hid
      exact absurd heq (hready w hw hid)
    next hne =>
      rw [if_neg hne] at hid
      exact hy w hw hid

/-- A reserved buffer of an inbound ring that passes back is free (R86). -/
theorem GlnSt.giveBack_free {g : GlnSt} {k : Nat} {b : GBuf} (hk : k < 32) (ho : dOut (g.desc k).work = false)
    (hold : b.old = false) (hs : b.slot = none) (hst : (g.desc k).stale = false) :
    ∀ z ∈ ((g.giveBack k b).settle.desc k).bufs, z.id = b.id → z.st = .free := by
  have he : g.giveBack k b = g.modDesc k fun y =>
      ({ (y.modBuf b.id fun b => { b with st := .free }) with order := removeAll b.id y.order }).relay := by
    unfold GlnSt.giveBack
    rw [if_neg (by simp [ho]), hs]
    dsimp only
    rw [if_neg (by simp [hold])]
  rw [he, GlnSt.desc_settle_modDesc g hk, DescSt.settled]
  generalize g.desc k = x at *
  rw [DescSt.relay_of_fresh (x := { (x.modBuf b.id fun b => { b with st := .free }) with order := removeAll b.id x.order }) hst,
    DescSt.relay_of_fresh (x := { (x.modBuf b.id fun b => { b with st := .free }) with order := removeAll b.id x.order }) hst,
    DescSt.offer_of_inbound (x := { (x.modBuf b.id fun b => { b with st := .free }) with order := removeAll b.id x.order }) ho]
  intro z hz hid
  obtain ⟨w, rfl⟩ := DescSt.mem_modBuf_of_id hz hid
  rfl

theorem not_mem_removeAll (n : Nat) (l : List Nat) : n ∉ removeAll n l := by simp [removeAll]

/-- A borrowed slot that passes back is in the pool again (R219). -/
theorem GlnSt.giveBack_slot {g : GlnSt} {k n : Nat} {b : GBuf} (h : dOut (g.desc k).work = false ∨ b.old = true)
    (hs : b.slot = some n) : n ∉ (g.giveBack k b).settle.lent := by
  unfold GlnSt.giveBack
  have hno : (dOut (g.desc k).work && !b.old) = false := by
    rcases h with h | h
    · rw [h, Bool.false_and]
    · rw [h, Bool.not_true, Bool.and_false]
  rw [if_neg (by rw [hno]; decide), hs]
  exact not_mem_removeAll n g.lent

end Sys2Proof.Machine

open Sys2Proof Sys2Proof.Machine

/-- Settles O12: each of the three events is a change of the running Gleaner, whose rings settle after it; offering tokens
keeps the place of a borrowed slot and what is ready. -/
theorem gleanerRequests : Obligations.GleanerRequests := by
  unfold Obligations.GleanerRequests
  refine ⟨?request, ?borrow, ?back⟩
  case request =>
    intro s c x
    exact exec_modGln (e := effGleanerRequest c.val) (.gleanerRequest c) c GlnSt.cycle rfl rfl
  case borrow =>
    intro s c k n p x g h hp hrun
    obtain ⟨t, hx, hst, hk, hc⟩ := exec_modGln (s := s) (e := effPoolBorrow c.val) (.poolBorrow c) c GlnSt.borrow rfl rfl
    have hg : (t.d.core c).run.gln = g.borrow.settle := by
      rw [hc, CoreSt.run_setRun hrun]
    obtain ⟨hl, hb⟩ := GlnSt.borrow_spec h hp
    refine ⟨t, hx, hst, hk, ?_, ?_, ?_⟩
    · rw [hg, hc]
    · rw [hg, hl]
    · rw [hg]
      exact hb
  case back =>
    intro s c q k b l x g h hb hrun hk32
    have he := GlnSt.bufferReturn_eq (busy := x.bufBusy) h hb
    obtain ⟨t, hx, hst, hk, hc⟩ := exec_modGln (s := s) (e := effBufferReturn c.val q.val) (.bufferReturn c q) c (fun g => g.bufferReturn q x.bufBusy)
      rfl rfl
    have hg : (t.d.core c).run.gln = (g.giveBack k b).settle := by
      rw [hc, CoreSt.run_setRun hrun, ← he]
    refine ⟨t, hx, hst, hk, ?_, fun ho hold => ?_, fun ho hold hs hstale => ?_, fun n ho hs => ?_⟩
    · rw [hg, hc, ← he]
    · rw [hg]
      exact GlnSt.giveBack_ready hk32 (GlnSt.popped_mem h) ho hold
    · rw [hg]
      exact GlnSt.giveBack_free hk32 ho hold hs hstale
    · rw [hg]
      exact GlnSt.giveBack_slot ho hs

end

section
/-! SUPPORT. What an access through the device map reads, what a store leaves in SPAD and ACCM, and the units, end records
and ends of a Gleaner's runs (O13, O14). -/

namespace Sys2Proof.Machine

/-! ### Lengths of accesses -/

theorem sum_beatParts_first (a n m : Nat) :
    ((rangeFrom (a / 64) m).map fun k => min (a + n) (64 * k + 64) - max a (64 * k)).sum = min (a + n) (64 * (a / 64 + m)) - a := by
  induction m with
  | zero => simp [rangeFrom]; omega
  | succ m ih =>
    simp only [rangeFrom, List.range_succ, List.map_append, List.sum_append, List.map_map] at ih ⊢
    rw [ih]
    simp
    omega

/-- The parts of an access have its length together. -/
theorem sum_beatParts (a n : Nat) : ((beatParts a n).map fun p => p.2).sum = n := by
  unfold beatParts beatsOf
  split
  next h => simp [h]
  next h =>
    rw [List.map_map]
    exact (sum_beatParts_first a n _).trans (by omega)

theorem Dev.length_beatRead (lk : Locked) (d : Dev) (q : Req) (part a n : Nat) (direct : Bool) :
    (d.beatRead lk q part a n direct).1.length = n := by
  unfold Dev.beatRead
  dsimp only
  split
  · simp
  · cases d.target lk q a with
    | lp b =>
      dsimp only
      generalize d.lookup q part (q.cls false) (b / 64) false = r
      split
      · split <;> exact Mem.length_read ..
      · split <;> exact Mem.length_read ..
    | outside => exact List.length_replicate ..
    | win o => exact Mem.length_read ..
    | cellTbl o => exact Mem.length_read ..
    | streamTbl o => exact Mem.length_read ..
    | txCellTbl o => exact Mem.length_read ..
    | txStreamTbl o => exact Mem.length_read ..
    | append o => exact List.length_replicate ..
    | llr o => exact List.length_replicate ..
    | polar o => exact List.length_replicate ..
    | conf o => exact List.length_replicate ..
    | spad c o => exact Mem.length_read ..
    | accm c o => exact Mem.length_read ..

theorem Dev.length_busRead (lk : Locked) (d : Dev) (q : Req) (part a n : Nat) (direct : Bool) :
    (d.busRead lk q part a n direct).1.length = n := by
  have hfold : ∀ (l : List (Nat × Nat)) (r : List Byte × List Bool × Nat × Dev),
      (l.foldl (fun (x : List Byte × List Bool × Nat × Dev) (p : Nat × Nat) =>
        (x.1 ++ (x.2.2.2.beatRead lk q part p.1 p.2 direct).1, x.2.1 ++ [(x.2.2.2.beatRead lk q part p.1 p.2 direct).2.1],
          x.2.2.1 + b2n (x.2.2.2.beatRead lk q part p.1 p.2 direct).2.2.1, (x.2.2.2.beatRead lk q part p.1 p.2 direct).2.2.2)) r).1.length =
      r.1.length + (l.map fun p => p.2).sum := by
    intro l
    induction l with
    | nil => simp
    | cons p l ih =>
      intro r
      rw [List.foldl_cons, ih]
      simp [Dev.length_beatRead]
      omega
  have h := hfold (beatParts a n) ([], [], 0, d)
  rw [sum_beatParts] at h
  exact h.trans (Nat.zero_add n)

/-! ### Stores to SPAD and ACCM -/

/-- A store changes no byte outside its span. -/
theorem CoreMem.byte_store_outside (m : CoreMem) {a x : Nat} (bs : List Byte) (p : Bool) (h : x < a ∨ a + bs.length ≤ x) :
    (m.store a bs p).byte x = m.byte x := by
  unfold CoreMem.store CoreMem.put CoreMem.byte
  dsimp only
  split
  · split
    · rw [Mem.byte_put_opt, if_neg (by simp; omega)]
    · rfl
  · split
    · rfl
    · rw [Mem.byte_put_opt, if_neg (by simp; omega)]

theorem Mem.read_put_self (g : Nat) (m : Mem) (a : Nat) (bs : List Byte) (p : Bool) :
    (m.put g a (bs.map some) p).read a bs.length = bs := by
  refine List.ext_getElem (by simp) fun i h1 h2 => ?_
  simp only [Mem.read, List.getElem_map, List.getElem_range, Mem.byte_put]
  rw [if_pos (by omega)]
  simp [h2]

/-- A span reads back what was stored to it. -/
theorem CoreMem.read_store_self (m : CoreMem) (a : Nat) (bs : List Byte) (p : Bool) : (m.store a bs p).read a bs.length = bs := by
  unfold CoreMem.store CoreMem.put CoreMem.read
  dsimp only
  split
  · exact Mem.read_put_self ..
  · exact Mem.read_put_self ..

/-- A store beat by beat changes no byte outside its span. -/
theorem CoreMem.byte_storeBeats_outside (m : CoreMem) {a x : Nat} (bs : List Byte) (ps : List Bool) (h : x < a ∨ a + bs.length ≤ x) :
    (m.storeBeats a bs ps).byte x = m.byte x := by
  unfold CoreMem.storeBeats
  refine List.foldlRecOn (motive := fun m' : CoreMem => m'.byte x = m.byte x) _ _ rfl fun m' hm i hi => ?_
  have hi' : 64 * i < bs.length := by
    have := List.mem_range.1 hi
    unfold ceilDiv at this
    omega
  rw [CoreMem.byte_store_outside, hm]
  rw [length_slice]
  omega

/-- A store of one beat's bytes is one store. -/
theorem CoreMem.storeBeats_one (m : CoreMem) (a : Nat) {bs : List Byte} (p : Bool) (h : bs.length = 64) :
    m.storeBeats a bs [p] = m.store a bs p := by
  have hs : slice bs 0 64 = bs := by
    refine List.ext_getElem (by simp [h]) fun i h1 h2 => ?_
    simp [slice, h2]
  unfold CoreMem.storeBeats
  rw [h]
  simp [ceilDiv, List.range_succ, hs]

/-! ### End records and ends of runs -/

/-- An event that stores to the memories of the core, takes up what its stores merged with, and changes its running Gleaner. -/
theorem Dev.storeGln_spec (d : Dev) {c : Nat} (hc : c < 8) (m : CoreMem) (f : GlnSt → GlnSt) :
    let e := ((d.modCore c fun y => { y with mem := m }).takeMerged c).modGln c f
    d.coresOnly e ∧ d.keepsCores e c ∧
    e.core c = { (d.core c).setRun { (d.core c).run with gln := (f (d.core c).run.gln).settle } with
      mem := { m with merged := [] } } := by
  intro e
  have h1 := d.setsCore_setCore hc { d.core c with mem := m }
  obtain ⟨t1, t2, t3, -⟩ := (d.modCore c fun y => { y with mem := m }).takeMerged_spec hc
  have h3 := ((d.modCore c fun y => { y with mem := m }).takeMerged c).modGln_spec hc f
  change d.setsCore (d.modCore c fun y => { y with mem := m }) c _ at h1
  refine ⟨((d.modCore_coresOnly ..).trans t1).trans (Dev.modCore_coresOnly ..), fun i hi => ?_, ?_⟩
  · rw [h3.others i hi, t2 i hi, h1.others i hi]
  · rw [h3.core, t3, h1.core]
    rfl

theorem length_endRecord (x : DescSt) : x.endRecord.length = 64 := by simp [DescSt.endRecord, layout]

/-- The ring after its end record has gone to buffer `b`. -/
def DescSt.recorded (y : DescSt) (b : GBuf) : DescSt :=
  { (y.modBuf b.id fun z => { z with st := .token }).advance b with order := y.order ++ [b.id], endDone := true }

/-- The Gleaner that the end record of descriptor `k` finds. -/
def GlnSt.ending (g : GlnSt) (k : Nat) : GlnSt := if (g.desc k).state = 2 then g.stopBuffers k else g

theorem effEndRecord_eq {d : Dev} {c k : Nat} {b : GBuf} (hs : ((d.core c).run.gln.desc k).state = 1 ∨ ((d.core c).run.gln.desc k).state = 2)
    (he : dEos ((d.core c).run.gln.desc k).work = true) (hd : ((d.core c).run.gln.desc k).endDone = false)
    (hr : ((d.core c).run.gln.desc k).ring = true) (hdr : ((d.core c).run.gln.desc k).drained = true)
    (hb : (((d.core c).run.gln.ending k).desc k).nextFree = some b) :
    effEndRecord c k d = ((d.modCore c fun y => { y with
      mem := y.mem.storeBeats b.addr (((d.core c).run.gln.ending k).desc k).endRecord [false] }).takeMerged c).modGln c
        fun _ => ((d.core c).run.gln.ending k).modDesc k fun y => y.recorded b := by
  have hno : (!((((d.core c).run.gln.desc k).state == 1 || ((d.core c).run.gln.desc k).state == 2) &&
      dEos ((d.core c).run.gln.desc k).work && !((d.core c).run.gln.desc k).endDone && ((d.core c).run.gln.desc k).ring &&
        ((d.core c).run.gln.desc k).drained)) = false := by
    rcases hs with hs | hs <;> simp [hs, he, hd, hr, hdr]
  have hb' := hb
  unfold GlnSt.ending at hb'
  unfold effEndRecord
  dsimp only
  rw [if_neg (by rw [hno]; decide), hb']
  rfl

/-- Settling its ring leaves the run of a descriptor as it is. -/
theorem DescSt.settled_run (x : DescSt) : x.settled.state = x.state ∧ x.settled.work = x.work ∧ x.settled.deliv = x.deliv ∧
    x.settled.real = x.real ∧ x.settled.stopped = x.stopped ∧ x.settled.endDone = x.endDone := by
  obtain ⟨bs, o, r, l, h⟩ := x.settled_shape
  rw [h]
  exact ⟨rfl, rfl, rfl, rfl, rfl, rfl⟩

/-- A run that ends starts its pending copy, or leaves its descriptor in `n` (R224, R225). -/
theorem DescSt.finish_spec (x : DescSt) (n : Nat) :
    (x.finish n).state = (if x.pend.isNone then n else 1) ∧
    (x.pend = none → x.finish n = { x with state := n }) ∧
    ∀ w, x.pend = some w → (x.finish n).work = w ∧ (x.finish n).deliv = 0 := by
  unfold DescSt.finish
  cases x.pend with
  | none => exact ⟨rfl, fun _ => rfl, fun w h => by cases h⟩
  | some w =>
    dsimp only
    unfold DescSt.startRun
    extract_lets ring same
    obtain ⟨bs, o, r, l, h⟩ := DescSt.relay_shape
      { x with
        work := w, state := 1, pend := none, deliv := 0, range := false, pois := false, stopped := false, short := false
        ring := ring, stale := ring && (x.stale || !same), bufs := if ring = true then x.bufs else x.oldPopped
        nextId := if dRes w < x.nextId then x.nextId else 16
        listSent := false, list := none, unit := 0, sent := 0, real := 0, pbeats := 0, endDone := false }
    exact ⟨congrArg DescSt.state h, fun hn => absurd hn (by simp), fun v hv =>
      ⟨(congrArg DescSt.work h).trans (Option.some.inj hv), congrArg DescSt.deliv h⟩⟩

theorem GlnSt.desc_of_descs {g h : GlnSt} (hd : g.descs = h.descs) (k : Nat) : g.desc k = h.desc k := by
  simp only [GlnSt.desc, hd]

theorem GlnSt.descs_takePool (g : GlnSt) (k : Nat) : (g.takePool k).descs = g.descs := by
  unfold GlnSt.takePool
  split <;> rfl

theorem GlnSt.desc_stopBuffers (g : GlnSt) {k : Nat} (hk : k < 32) :
    ∃ (bs : List GBuf) (o : List Nat) (r : Nat), (g.stopBuffers k).desc k = { g.desc k with bufs := bs, order := o, rptr := r } := by
  unfold GlnSt.stopBuffers
  extract_lets x gone back slots
  refine ⟨_, _, _, Eq.trans (GlnSt.desc_of_descs rfl k) (GlnSt.desc_modDesc_self g hk fun y =>
      { y with
        bufs := (y.bufs.filter fun b => !(gone b && b.slot.isSome)).map fun b => if gone b then { b with st := .free } else b
        order := y.order.filter (fun i => !(x.bufs.any fun b => b.id == i && gone b))
        rptr := back.getD y.rptr })⟩

/-- A stopping run ends IDLE with STOPPED set, or starts its pending copy (R224, R227). -/
theorem DescSt.stopped_spec (x : DescSt) :
    (x.pend = none → ({ x with stopped := true }.finish 0).settled.state = 0 ∧ ({ x with stopped := true }.finish 0).settled.stopped = true) ∧
    ∀ w, x.pend = some w →
      ({ x with stopped := true }.finish 0).settled.work = w ∧ ({ x with stopped := true }.finish 0).settled.state = 1 := by
  obtain ⟨f1, f2, f3⟩ := ({ x with stopped := true } : DescSt).finish_spec 0
  obtain ⟨r1, r2, -, -, r5, -⟩ := ({ x with stopped := true }.finish 0 : DescSt).settled_run
  refine ⟨fun hp => ?_, fun w hw => ?_⟩
  · rw [r1, r5, f2 hp]
    exact ⟨rfl, rfl⟩
  · rw [r1, r2, f1]
    exact ⟨(f3 w hw).1, if_neg (by simp [hw])⟩

/-- The run of a descriptor ends on a core that goes on. -/
theorem exec_endsRun {s : State} (i : Instr) (c : Fin 8) {k : Nat} (hk : k < 32) {e : Dev → Dev} (g : GlnSt → GlnSt) (f : DescSt → DescSt)
    (hx : exec i s = .next (s.onDev e)) (hrun : (s.d.core c).runLc < 8) (hend : (s.d.core c).ending = false)
    (he : e s.d = (s.d.modGln c fun x => ((g x).modDesc k f).takePool k).freeCore c) :
    ∃ t, exec i s = .next t ∧ t = { s with d := { s.d with cores := t.d.cores } } ∧ s.d.keepsCores t.d c ∧
      (t.d.core c).mem = (s.d.core c).mem ∧
      (t.d.core c).run.gln.desc k = (f ((g (s.d.core c).run.gln).desc k)).settled := by
  have hm := s.d.modGln_spec c.isLt fun x => ((g x).modDesc k f).takePool k
  rw [Dev.freeCore_going (by rw [hm.core]; exact hend)] at he
  obtain ⟨t, ht, hst, hkc, hc⟩ := exec_modGln i c _ hx he
  refine ⟨t, ht, hst, hkc, ?_, ?_⟩
  · rw [hc]
    rfl
  · rw [hc, CoreSt.run_setRun hrun, GlnSt.desc_settle_of_descs (GlnSt.descs_takePool ..), GlnSt.desc_settle_modDesc _ hk]

end Sys2Proof.Machine

open Sys2Proof Sys2Proof.Machine

/-- Settles O14: the end record is one store of 64 bytes, and a run that ends starts its pending copy or stands still;
settling the rings after it keeps all but the rings. -/
theorem gleanerRunEnds : Obligations.GleanerRunEnds := by
  unfold Obligations.GleanerRunEnds
  refine ⟨?record, ?done, ?stop⟩
  case record =>
    intro s c k b x0 g hrun hs he hd hr hdr hb
    obtain ⟨h1, h2, h3⟩ := s.d.storeGln_spec c.isLt ((s.d.core c).mem.storeBeats b.addr (g.desc k).endRecord [false])
      fun _ => g.modDesc k fun y => y.recorded b
    have heff : effEndRecord c.val k.val s.d = _ := effEndRecord_eq hs he hd hr hdr hb
    change effEndRecord c.val k.val s.d = ((s.d.modCore c fun y => { y with
      mem := y.mem.storeBeats b.addr (g.desc k).endRecord [false] }).takeMerged c).modGln c (fun _ => g.modDesc k fun y => y.recorded b) at heff
    refine ⟨_, exec_onDev (s := s) (i := .endRecord c k) (f := effEndRecord c.val k.val) rfl heff,
      congrArg (fun e : Dev => ({ s with d := e } : State)) h1, h2, ?_, ?_, fun a ha => ?_⟩
    · have hr : ((((s.d.modCore c fun y => { y with mem := y.mem.storeBeats b.addr (g.desc k).endRecord [false] }).takeMerged c).modGln c
          fun _ => g.modDesc k fun y => y.recorded b).core c).run =
          { (s.d.core c).run with gln := (g.modDesc k fun y => y.recorded b).settle } :=
        (congrArg CoreSt.run h3).trans (CoreSt.run_setRun hrun _)
      dsimp only
      rw [hr]
      dsimp only
      rw [GlnSt.desc_settle_modDesc g k.isLt]
      obtain ⟨-, -, -, -, -, hed⟩ := ((g.desc k).recorded b).settled_run
      exact hed
    · have h64 := length_endRecord (g.desc k)
      have hread := CoreMem.read_store_self (s.d.core c).mem b.addr (g.desc k).endRecord false
      rw [h64] at hread
      refine (congrArg (fun y : CoreSt => y.mem.read b.addr 64) h3).trans ?_
      rw [CoreMem.storeBeats_one _ _ _ h64]
      exact hread
    · refine (congrArg (fun y : CoreSt => y.mem.read a 1) h3).trans ?_
      unfold Dev.localByte
      rw [CoreMem.read_one, CoreMem.read_one]
      exact congrArg (fun v => [v]) (CoreMem.byte_storeBeats_outside _ _ _ (by rw [length_endRecord]; exact ha))
  case done =>
    intro s c k x hrun hend hs hm hdr heos
    have he : effRunDone c.val k.val s.d = (s.d.modGln c fun g => (g.modDesc k fun y => y.finish 3).takePool k).freeCore c := by
      unfold effRunDone
      dsimp only
      rw [if_pos]
      change (decide (x.state = 1) && dMode x.work != 2 && x.drained && (!dEos x.work || x.endDone)) = true
      cases hw : dEos x.work <;> simp_all
    obtain ⟨t, hx, hst, hkc, hmem, hdesc⟩ := exec_endsRun (s := s) (e := effRunDone c.val k.val) (.runDone c k) c k.isLt id
      (fun y => y.finish 3) rfl hrun hend he
    obtain ⟨r1, r2, r3, -⟩ := (x.finish 3).settled_run
    obtain ⟨f1, -, f3⟩ := x.finish_spec 3
    refine ⟨t, hx, hst, hkc, hmem, ?_, fun w hw => ?_⟩
    · rw [hdesc]
      exact r1.trans f1
    · rw [hdesc]
      exact ⟨r2.trans (f3 w hw).1, r3.trans (f3 w hw).2⟩
  case stop =>
    intro s c k x hrun hend hs hdr heos
    have he : effStopComplete c.val k.val s.d = (s.d.modGln c fun g =>
        ((g.stopBuffers k).modDesc k fun y => { y with stopped := true }.finish 0).takePool k).freeCore c := by
      unfold effStopComplete
      dsimp only
      rw [if_pos]
      change (decide (x.state = 2) && x.drained && (!dEos x.work || x.endDone || (s.d.core c).ending)) = true
      cases hw : dEos x.work <;> simp_all
    obtain ⟨t, hx, hst, hkc, hmem, hdesc⟩ := exec_endsRun (s := s) (e := effStopComplete c.val k.val) (.stopComplete c k) c k.isLt
      (fun g => g.stopBuffers k) (fun y => ({ y with stopped := true } : DescSt).finish 0) rfl hrun hend he
    obtain ⟨bs, o, r, hstop⟩ := (s.d.core c).run.gln.desc_stopBuffers k.isLt
    change _ = ({ x with bufs := bs, order := o, rptr := r } : DescSt) at hstop
    rw [hstop] at hdesc
    obtain ⟨f1, f2⟩ := ({ x with bufs := bs, order := o, rptr := r } : DescSt).stopped_spec
    refine ⟨t, hx, hst, hkc, hmem, fun hp => ?_, fun w hw => ?_⟩
    · rw [hdesc]
      exact f1 hp
    · rw [hdesc]
      exact f2 w hw

end

section
/-! SUPPORT. The units of a Gleaner's run: what arrives and what is drained (O13). -/

namespace Sys2Proof.Machine

/-! ### The size of a unit (R212, R213, R216) -/

/-- The rows of a unit hold its elements. -/
theorem length_dUnitRows (w : DWords) (u : Nat) : (dUnitRows w u).length * dDim w 0 = dUnitElems w := by
  have h4 : dUdim w < 4 := Nat.mod_lt _ (by decide)
  have hl : (dUnitRows w u).length =
      (if 3 ≤ dUdim w then dDim w 3 else 1) * ((if 2 ≤ dUdim w then dDim w 2 else 1) * (if 1 ≤ dUdim w then dDim w 1 else 1)) := by
    simp [dUnitRows, List.length_flatMap]
  have he : dUnitElems w = ((List.range 4).filter (fun k => k ≤ dUdim w)).foldl (fun n k => n * dDim w k) 1 := rfl
  rw [hl, he]
  generalize dUdim w = n at *
  interval_cases n
  · simp [List.range_succ]
  · simp [List.range_succ]; ring
  · simp [List.range_succ]; ring
  · simp [List.range_succ]; ring

theorem Dev.length_coreRead (lk : Locked) (d : Dev) (c a n : Nat) : (d.coreRead lk c a n).1.bytes.length = n :=
  Dev.length_busRead ..

/-- Rows read add up to no more than their number says. -/
theorem Dev.length_blockRead (lk : Locked) (d : Dev) (c : Nat) (w : DWords) (u lim : Nat) :
    (d.blockRead lk c w u lim).1.bytes.length ≤ dUnitElems w * dZs w := by
  have hfold : ∀ (l : List Int) (r : Moved × Dev), (l.foldl (fun (r : Moved × Dev) e =>
      (r.1.append (r.2.coreRead lk c (devAddr e) (min (dDim w 0 * dZs w) (64 * lim - r.1.bytes.length))).1,
        (r.2.coreRead lk c (devAddr e) (min (dDim w 0 * dZs w) (64 * lim - r.1.bytes.length))).2)) r).1.bytes.length ≤
      r.1.bytes.length + l.length * (dDim w 0 * dZs w) := by
    intro l
    induction l with
    | nil => simp
    | cons e l ih =>
      intro r
      rw [List.foldl_cons]
      refine (ih _).trans ?_
      have hlen : ((r.1.append (r.2.coreRead lk c (devAddr e) (min (dDim w 0 * dZs w) (64 * lim - r.1.bytes.length))).1).bytes).length ≤
          r.1.bytes.length + dDim w 0 * dZs w := by
        rw [Moved.append, List.length_append, Dev.length_coreRead]
        omega
      rw [List.length_cons, Nat.add_mul]
      dsimp only
      omega
  have h := hfold (dUnitRows w u) (.none, d)
  rw [← length_dUnitRows w u, Nat.mul_assoc]
  exact h.trans (by simp [Moved.none])

theorem length_convertBeats (src dst : Fmt) (bs : List Byte) (ps : List Bool) :
    (convertBeats src dst bs ps).1.length = bs.length / (src.width / 8) * (dst.width / 8) := by
  simp [convertBeats, List.length_flatten, Function.comp_def]

theorem Dev.length_pageRead (lk : Locked) (d : Dev) (c : Nat) (w : DWords) (p lim : Nat) :
    (d.pageRead lk c w p lim).1.bytes.length ≤ if dScl w then 8256 else 8192 := by
  unfold Dev.pageRead
  have hg (x : Moved) (e : Dev) (n : Nat) : ((if 0x1000000000 < dExt w + p * 8192 + 8192 then (beyond n, e)
      else e.coreRead lk c (dExt w + p * 8192) n).1).bytes.length = n := by
    split
    · exact List.length_replicate ..
    · exact Dev.length_coreRead ..
  cases hs : dScl w && decide (0 < lim) with
  | true =>
    have hl := d.length_coreRead lk c (dScale w + p * 64) 64
    dsimp only
    rw [if_pos rfl, if_pos (Bool.and_eq_true_iff.1 hs).1, Moved.append, List.length_append, hg .none, hl]
    omega
  | false =>
    dsimp only
    rw [if_neg (by decide), Moved.append, List.length_append, hg .none]
    simp only [Moved.none, List.length_nil]
    split <;> omega

/-! ### What arrives -/

/-- The entry of the page list for the next unit of a WALK (R216). -/
def DescSt.entry (x : DescSt) : Nat × Bool := (x.list.getD []).getD (dEntryIx x.work x.deliv) (0, false)

/-- The page it names (R215). -/
def DescSt.entryPage (x : DescSt) : Nat := x.entry.1 % 2 ^ 24

/-- Does unit `x.deliv` of a WALK find an invalid entry, or come after one (R216)? -/
def DescSt.runsShort (x : DescSt) : Bool :=
  dMode x.work == 1 && (x.short || (!x.entry.2 &&
    !bit x.entry.1 31))

/-- The first `lim` beats of the next unit of run `x` (R212, R216). -/
def Dev.unitMoved (lk : Locked) (d : Dev) (c : Nat) (x : DescSt) (lim : Nat) : Moved × Dev :=
  if !(dMode x.work == 1) then d.blockRead lk c x.work x.deliv lim
  else if x.runsShort then (⟨List.replicate (64 * lim) 0, List.replicate lim false, 0, 0⟩, d)
  else if x.entry.2 then
    (⟨List.replicate (64 * lim) 0, List.replicate lim true, lim, 0⟩, d)
  else d.pageRead lk c x.work x.entryPage lim

/-- The bytes that go to SPAD, with their poison (R214). -/
def DescSt.landed (x : DescSt) (m : Moved) : List Byte × List Bool :=
  if dCvt x.work then convertBeats (dFmtS x.work) (dFmtD x.work) m.bytes m.pois else (m.bytes, m.pois)

/-- The counts of run `x` after bytes `m` have arrived (R211). -/
def DescSt.counted (x : DescSt) (m : Moved) (whole : Bool) (y : DescSt) : DescSt :=
  { y with
    deliv := y.deliv + b2n whole
    short := y.short || x.runsShort
    real := y.real + b2n (whole && !x.runsShort && !(dMode x.work == 1 && x.entry.2))
    pbeats := y.pbeats + ((x.landed m).2.filter id).length
    range := y.range || decide (0 < m.oor), pois := y.pois || decide (0 < m.bad) || (x.landed m).2.any id }

/-- The counts and the sticky bit of what arrives (R233, R234). -/
def Dev.arriveCounts (d : Dev) (c : Nat) (x : DescSt) (m : Moved) : Dev :=
  if x.runsShort && !x.short then (d.countMoved c m).sticky .gln c 4 else d.countMoved c m

theorem Dev.beatsArrive_eq (lk : Locked) (d : Dev) (c k addr lim : Nat) (whole : Bool) :
    d.beatsArrive lk c k addr lim whole =
      let x := (d.core c).run.gln.desc k
      let r := d.unitMoved lk c x lim
      (((r.2.arriveCounts c x r.1).modCore c
        fun y => { y with mem := y.mem.storeBeats addr (x.landed r.1).1 (x.landed r.1).2 }).takeMerged c).modGln c
        fun g => g.modDesc k (x.counted r.1 whole) := by
  rfl

theorem DescSt.length_landed {lk : Locked} {d : Dev} {c : Nat} {x : DescSt} (hm : dMode x.work ≤ 1)
    (hc : dMode x.work = 1 → dCvt x.work = false) :
    (x.landed (d.unitMoved lk c x (dUnitBeats x.work)).1).1.length ≤ dUnitBytes x.work := by
  have h8 : Fmt.s8.width / 8 = 1 := rfl
  unfold DescSt.landed
  obtain hm | hm : dMode x.work = 0 ∨ dMode x.work = 1 := by omega
  · have hb := d.length_blockRead lk c x.work x.deliv (dUnitBeats x.work)
    have hr : d.unitMoved lk c x (dUnitBeats x.work) = d.blockRead lk c x.work x.deliv (dUnitBeats x.work) := by
      unfold Dev.unitMoved
      rw [hm]
      rfl
    have hbytes : dUnitBytes x.work = dUnitElems x.work * dZd x.work := by
      simp only [dUnitBytes, hm]
    rw [hr, hbytes]
    split
    · rw [length_convertBeats]
      refine Nat.mul_le_mul_right _ ?_
      rcases Nat.eq_zero_or_pos ((dFmtS x.work).width / 8) with hz | hz
      · rw [hz, Nat.div_zero]
        exact Nat.zero_le _
      · exact Nat.div_le_of_le_mul ((Nat.mul_comm _ _).symm ▸ hb)
    next hcv =>
      simpa [dZs, dZd, dFmtS, dFmtD, hcv, h8] using hb
  · have hbytes : dUnitBytes x.work = if dScl x.work then 8256 else 8192 := by
      simp only [dUnitBytes, hm]
    have hbeats : 64 * dUnitBeats x.work = if dScl x.work then 8256 else 8192 := by
      unfold dUnitBeats
      rw [if_pos hm]
      split <;> rfl
    unfold Dev.unitMoved
    rw [if_neg (by rw [hc hm]; decide), if_neg (by rw [hm]; decide), hbytes]
    split
    · rw [List.length_replicate, hbeats]
    · split
      · rw [List.length_replicate, hbeats]
      · dsimp only
        exact d.length_pageRead lk c x.work x.entryPage (dUnitBeats x.work)

/-- What an arrival outside the core leaves alone. -/
def Dev.arrives (d e : Dev) : Prop := e = { d with rg := e.rg, ms := e.ms, pci := e.pci, wtn := e.wtn }

theorem Dev.arrives.trans {a b c : Dev} (h : a.arrives b) (k : b.arrives c) : a.arrives c := by
  unfold Dev.arrives at *
  rw [k, h]

theorem Dev.readKeeps.arrives {d e : Dev} (h : d.readKeeps e) : d.arrives e := h.shape

theorem Dev.arrives_of_regs {d e : Dev} (h : d.regsOnly e) : d.arrives e := by
  unfold Dev.arrives
  rw [h]

theorem Dev.arrives.cores {d e : Dev} (h : d.arrives e) : e.cores = d.cores := by
  unfold Dev.arrives at h
  rw [h]

theorem Dev.readKeeps_coreRead (lk : Locked) (d : Dev) (c a n : Nat) : d.readKeeps (d.coreRead lk c a n).2 :=
  d.readKeeps_busRead ..

theorem Dev.readKeeps_blockRead (lk : Locked) (d : Dev) (c : Nat) (w : DWords) (u lim : Nat) :
    d.readKeeps (d.blockRead lk c w u lim).2 :=
  List.foldlRecOn (motive := fun r : Moved × Dev => d.readKeeps r.2) _ _ (.refl d) fun _ h _ _ =>
    h.trans (Dev.readKeeps_coreRead ..)

theorem Dev.readKeeps_pageRead (lk : Locked) (d : Dev) (c : Nat) (w : DWords) (p lim : Nat) :
    d.readKeeps (d.pageRead lk c w p lim).2 := by
  have hs : d.readKeeps (if dScl w && decide (0 < lim) then d.coreRead lk c (dScale w + p * 64) 64 else (.none, d)).2 := by
    split
    · exact Dev.readKeeps_coreRead ..
    · exact .refl d
  unfold Dev.pageRead
  generalize (if dScl w && decide (0 < lim) then d.coreRead lk c (dScale w + p * 64) 64 else (Moved.none, d)) = s at *
  dsimp only
  split
  · exact hs
  · exact hs.trans (Dev.readKeeps_coreRead ..)

theorem Dev.readKeeps_unitMoved (lk : Locked) (d : Dev) (c : Nat) (x : DescSt) (lim : Nat) :
    d.readKeeps (d.unitMoved lk c x lim).2 := by
  unfold Dev.unitMoved
  split
  · exact d.readKeeps_blockRead ..
  · split
    · exact .refl d
    · split
      · exact .refl d
      · exact d.readKeeps_pageRead ..

theorem Dev.countBeats_regsOnly (d : Dev) (c bad oor : Nat) : d.regsOnly (d.countBeats c bad oor) := by
  have hb (e : Dev) (o b n : Nat) : e.regsOnly (if n = 0 then e else (e.bump .gln c o n).sticky .gln c b) := by
    split
    · exact .refl e
    · exact (e.bump_regsOnly ..).trans (Dev.sticky_regsOnly ..)
  exact (hb d 0x10C 1 bad).trans (hb _ 0x110 2 oor)

theorem Dev.arriveCounts_regsOnly (d : Dev) (c : Nat) (x : DescSt) (m : Moved) : d.regsOnly (d.arriveCounts c x m) := by
  unfold Dev.arriveCounts
  split
  · exact (d.countBeats_regsOnly ..).trans (Dev.sticky_regsOnly ..)
  · exact d.countBeats_regsOnly ..

/-- What the arrival of a whole unit leaves: its bytes in SPAD or ACCM, and one more unit counted. -/
theorem Dev.beatsArrive_spec (lk : Locked) (d : Dev) {c k : Nat} (hc : c < 8) (addr lim : Nat) (whole : Bool) :
    let x := (d.core c).run.gln.desc k
    let m := (d.unitMoved lk c x lim).1
    let e := d.beatsArrive lk c k addr lim whole
    e = { d with rg := e.rg, cores := e.cores, ms := e.ms, pci := e.pci, wtn := e.wtn } ∧ d.keepsCores e c ∧
    e.core c = { (d.core c).setRun { (d.core c).run with gln := ((d.core c).run.gln.modDesc k (x.counted m whole)).settle } with
      mem := { (d.core c).mem.storeBeats addr (x.landed m).1 (x.landed m).2 with merged := [] } } := by
  intro x m e
  have ha : d.arrives ((d.unitMoved lk c x lim).2.arriveCounts c x m) :=
    (d.readKeeps_unitMoved lk c x lim).arrives.trans (Dev.arrives_of_regs (Dev.arriveCounts_regsOnly ..))
  have he : e = ((((d.unitMoved lk c x lim).2.arriveCounts c x m).modCore c
      fun y => { y with mem := y.mem.storeBeats addr (x.landed m).1 (x.landed m).2 }).takeMerged c).modGln c
        fun g => g.modDesc k (x.counted m whole) := d.beatsArrive_eq lk c k addr lim whole
  clear_value e
  generalize (d.unitMoved lk c x lim).2.arriveCounts c x m = d1 at *
  have hcore (i : Nat) : d1.core i = d.core i := Dev.core_eq_of_cores ha.cores i
  obtain ⟨h1, h2, h3⟩ := d1.storeGln_spec hc ((d1.core c).mem.storeBeats addr (x.landed m).1 (x.landed m).2)
    fun g => g.modDesc k (x.counted m whole)
  rw [hcore] at h1 h2 h3
  have he' : e = ((d1.modCore c fun y => { y with mem := (d.core c).mem.storeBeats addr (x.landed m).1 (x.landed m).2 }).takeMerged c).modGln c
      fun g => g.modDesc k (x.counted m whole) := by
    rw [he]
    unfold Dev.modCore
    rw [hcore]
  rw [← he'] at h1 h2 h3
  refine ⟨?_, fun i hi => (h2 i hi).trans (hcore i), h3⟩
  unfold Dev.coresOnly at h1
  rw [h1, ha]

/-- The buffer that a unit uses is one of the ring in that state. -/
theorem DescSt.unitAddr_buf {x : DescSt} {st : BufSt} {i addr : Nat} (h : x.unitAddr st = some (some i, addr)) :
    ∃ b ∈ x.bufs, b.id = i ∧ b.addr = addr ∧ b.st = st := by
  unfold DescSt.unitAddr at h
  split at h
  · obtain ⟨b, hb, he⟩ := Option.map_eq_some_iff.1 h
    obtain ⟨j, -, hj⟩ := List.mem_filterMap.1 (List.mem_of_mem_head? hb)
    obtain ⟨b', hf, hb'⟩ := Option.bind_eq_some_iff.1 hj
    split at hb'
    next hst =>
      obtain rfl := Option.some.inj hb'
      obtain ⟨hi, ha⟩ := Prod.mk.inj he
      exact ⟨b', List.mem_of_find?_eq_some hf, Option.some.inj hi, ha, hst⟩
    next => cases hb'
  · simp at h

/-- A ring with a buffer in use, whose run is inbound, is settled as it stands. -/
theorem DescSt.settled_of_used {x : DescSt} {b : GBuf} (hb : b ∈ x.bufs) (hf : b.st ≠ .free) (hp : b.st ≠ .popped)
    (ho : dOut x.work = false) : x.settled = x := by
  rw [DescSt.settled, DescSt.relay_of_used hb hf hp, DescSt.offer_of_inbound ho]

/-- The token that a delivered unit leaves (R221). -/
def DescSt.tokened (bid : Option Nat) (y : DescSt) : DescSt :=
  match bid with
  | some i => y.modBuf i fun b => { b with st := .token }
  | none => y

theorem DescSt.tokened_run (bid : Option Nat) (y : DescSt) : (y.tokened bid).deliv = y.deliv := by
  cases bid <;> rfl

/-- A delivered buffer is a token of its ring, which stands as it was. -/
theorem DescSt.token_of_delivered {x y : DescSt} {i addr : Nat} (hu : x.unitAddr .filling = some (some i, addr)) (hb : y.bufs = x.bufs)
    (hw : dOut y.work = false) :
    ∃ b ∈ (y.settled.tokened (some i)).settled.bufs, b.id = i ∧ b.addr = addr ∧ b.st = .token := by
  obtain ⟨b, hin, hid, ha, hst⟩ := DescSt.unitAddr_buf hu
  rw [← hb] at hin
  rw [DescSt.settled_of_used hin (by rw [hst]; decide) (by rw [hst]; decide) hw]
  have hin' : ({ b with st := .token } : GBuf) ∈ (y.tokened (some i)).bufs := List.mem_map.2 ⟨b, hin, if_pos hid⟩
  rw [DescSt.settled_of_used hin' (by simp) (by simp) hw]
  exact ⟨_, hin', hid, ha, rfl⟩

theorem effUnitDelivered_eq {lk : Locked} {d : Dev} {c k addr : Nat} {bid : Option Nat}
    (hs : ((d.core c).run.gln.desc k).state = 1 ∨ ((d.core c).run.gln.desc k).state = 2)
    (ho : dOut ((d.core c).run.gln.desc k).work = false) (hd : ((d.core c).run.gln.desc k).deliv < ((d.core c).run.gln.desc k).unit)
    (hn : ((d.core c).run.gln.desc k).needsList = false) (hw : d.lpWaits (dExt ((d.core c).run.gln.desc k).work) = false)
    (hu : ((d.core c).run.gln.desc k).unitAddr .filling = some (bid, addr)) :
    effUnitDelivered c k lk d =
      (d.beatsArrive lk c k addr (dUnitBeats ((d.core c).run.gln.desc k).work) true).modGln c fun g => g.modDesc k fun y => y.tokened bid := by
  have hgo : (!((((d.core c).run.gln.desc k).state == 1 || ((d.core c).run.gln.desc k).state == 2) &&
      !dOut ((d.core c).run.gln.desc k).work)) = false := by
    rcases hs with hs | hs <;> simp [hs, ho]
  unfold effUnitDelivered
  simp only [hgo, hn, hw, hu, hd, Bool.false_eq_true, Bool.or_self, if_false, if_true]
  rfl

/-- What a whole unit that arrives leaves: its bytes, one unit more, and a token. -/
theorem Dev.delivered_spec (lk : Locked) (d : Dev) {c k : Nat} (hc : c < 8) (hk : k < 32) (hrun : (d.core c).runLc < 8) (addr lim : Nat)
    (bid : Option Nat) :
    let x := (d.core c).run.gln.desc k
    let m := (d.unitMoved lk c x lim).1
    let e := (d.beatsArrive lk c k addr lim true).modGln c fun g => g.modDesc k fun y => y.tokened bid
    e = { d with rg := e.rg, cores := e.cores, ms := e.ms, wtn := e.wtn, pci := e.pci } ∧ d.keepsCores e c ∧
    (e.core c).run.gln.desc k = ((x.counted m true x).settled.tokened bid).settled ∧
    (e.core c).mem = { (d.core c).mem.storeBeats addr (x.landed m).1 (x.landed m).2 with merged := [] } := by
  intro x m e
  obtain ⟨b1, b2, b3⟩ := d.beatsArrive_spec (k := k) lk hc addr lim true
  have hm := (d.beatsArrive lk c k addr lim true).modGln_spec hc fun g => g.modDesc k fun y => y.tokened bid
  have he : e = (d.beatsArrive lk c k addr lim true).modGln c fun g => g.modDesc k fun y => y.tokened bid := rfl
  clear_value e
  generalize d.beatsArrive lk c k addr lim true = a at *
  rw [← he] at hm
  have hg : (a.core c).run.gln = ((d.core c).run.gln.modDesc k (x.counted m true)).settle := by
    rw [b3]
    exact congrArg LcSt.gln (CoreSt.run_setRun hrun _)
  have hal : (a.core c).runLc < 8 := by
    rw [b3]
    exact hrun
  refine ⟨?_, fun i hi => (hm.others i hi).trans (b2 i hi), ?_, ?_⟩
  · have hsh := hm.shape
    have hco : e = { a with cores := e.cores } := he ▸ rfl
    rw [hco, b1]
  · rw [hm.core, CoreSt.run_setRun hal, GlnSt.desc_settle_modDesc _ hk, hg, GlnSt.desc_settle_modDesc _ hk]
  · rw [hm.core]
    exact (congrArg CoreSt.mem b3)

/-- The run after one more unit is acknowledged, `bad` poisoned beats of it and `oor` outside the map; its buffer is free, or a
borrowed one gone (R221, R229). -/
def DescSt.unitDrained (bid : Option Nat) (lent : Bool) (bad oor : Nat) (y : DescSt) : DescSt :=
  let y := { y with
    deliv := y.deliv + 1, real := y.real + 1, pbeats := y.pbeats + bad
    range := y.range || decide (0 < oor), pois := y.pois || decide (0 < bad) }
  match bid with
  | none => y
  | some i =>
    if lent then { y with bufs := y.bufs.filter (fun b => b.id ≠ i), order := removeAll i y.order }
    else { (y.modBuf i fun b => { b with st := .free }) with order := removeAll i y.order }

theorem DescSt.unitDrained_run (bid : Option Nat) (lent : Bool) (bad oor : Nat) (y : DescSt) :
    (y.unitDrained bid lent bad oor).deliv = y.deliv + 1 ∧ (y.unitDrained bid lent bad oor).real = y.real + 1 := by
  unfold DescSt.unitDrained
  cases bid with
  | none => exact ⟨rfl, rfl⟩
  | some i => cases lent <;> exact ⟨rfl, rfl⟩

/-- The Gleaner after it, a borrowed slot back in the pool. -/
def GlnSt.unitDrained (g : GlnSt) (k : Nat) (bid slot : Option Nat) (bad oor : Nat) : GlnSt :=
  match slot with
  | some s => { g.modDesc k (fun y => y.unitDrained bid slot.isSome bad oor) with lent := removeAll s g.lent }
  | none => g.modDesc k fun y => y.unitDrained bid slot.isSome bad oor

theorem GlnSt.unitDrained_run (g : GlnSt) {k : Nat} (hk : k < 32) (bid slot : Option Nat) (bad oor : Nat) :
    ((g.unitDrained k bid slot bad oor).settle.desc k).deliv = (g.desc k).deliv + 1 ∧
    ((g.unitDrained k bid slot bad oor).settle.desc k).real = (g.desc k).real + 1 := by
  have hd : (g.unitDrained k bid slot bad oor).descs = (g.modDesc k fun y => y.unitDrained bid slot.isSome bad oor).descs := by
    cases slot <;> rfl
  obtain ⟨-, -, h1, h2, -⟩ := ((g.desc k).unitDrained bid slot.isSome bad oor).settled_run
  rw [GlnSt.desc_settle_of_descs hd, GlnSt.desc_settle_modDesc g hk, h1, h2]
  exact DescSt.unitDrained_run ..

/-- What the drain of a unit leaves: the cores as they are, but for the Gleaner's run. -/
theorem effOutboundDrain_spec {lk : Locked} {d : Dev} {c k addr : Nat} {bid : Option Nat} (hc : c < 8)
    (hs : ((d.core c).run.gln.desc k).state = 1 ∨ ((d.core c).run.gln.desc k).state = 2)
    (ho : dOut ((d.core c).run.gln.desc k).work = true) (hd : ((d.core c).run.gln.desc k).deliv < ((d.core c).run.gln.desc k).unit)
    (hw : d.lpWaits (dExt ((d.core c).run.gln.desc k).work) = false)
    (hu : ((d.core c).run.gln.desc k).unitAddr .draining = some (bid, addr)) :
    ∃ (e : Dev) (slot : Option Nat) (bad oor : Nat), e.cores = d.cores ∧
      effOutboundDrain c k lk d = e.modGln c fun g => g.unitDrained k bid slot bad oor := by
  have hgo : (!((((d.core c).run.gln.desc k).state == 1 || ((d.core c).run.gln.desc k).state == 2) &&
      dOut ((d.core c).run.gln.desc k).work && decide (((d.core c).run.gln.desc k).deliv < ((d.core c).run.gln.desc k).unit))) = false := by
    rcases hs with hs | hs <;> simp [hs, ho, hd]
  have hb (e : Dev) (q : List Int) (g : Nat × Nat × Dev → Int → Nat × Dev)
      (hg : ∀ r x, r.2.2.moveKeeps (g r x).2) (r0 : Nat × Nat × Dev) (h0 : e.moveKeeps r0.2.2) :
      e.moveKeeps (q.foldl (fun r x => (r.1 + (g r x).1, r.2.1 + 1, (g r x).2)) r0).2.2 :=
    List.foldlRecOn (motive := fun r : Nat × Nat × Dev => e.moveKeeps r.2.2) _ _ h0 fun r h x _ => h.trans (hg r x)
  unfold effOutboundDrain
  simp only [hgo, hw, hu, Bool.false_eq_true, Bool.or_self, if_false]
  refine ⟨_, _, _, _, ?_, rfl⟩
  exact ((Dev.moveKeeps_countBeats _ hc _ _).cores.trans (hb _ _ _ (fun r x => Dev.moveKeeps_busWrite lk _ rfl _ _ _ _ _) _
    (.refl _)).cores).trans (Dev.spdUe_cores ..)

end Sys2Proof.Machine
open Sys2Proof Sys2Proof.Machine

/-- Settles O13: what arrives lies in the unit's bytes of the buffer, whose token no settling of the ring moves; a drain
writes through the device map alone. -/
theorem gleanerUnits : Obligations.GleanerUnits := by
  unfold Obligations.GleanerUnits
  refine ⟨?delivered, ?drained⟩
  case delivered =>
    intro s c k bid addr x hrun hs ho hd hm hc hn hw hu
    obtain ⟨e1, e2, e3, e4⟩ := s.d.delivered_spec s.lk c.isLt k.isLt hrun addr (dUnitBeats x.work) bid
    have heff := effUnitDelivered_eq (lk := s.lk) hs ho hd hn hw hu
    rw [← heff] at e1 e2 e3 e4
    have hlen := DescSt.length_landed (lk := s.lk) (d := s.d) (c := c.val) (x := x) hm hc
    refine ⟨_, exec_onLk (s := s) (i := .unitDelivered c k) (f := effUnitDelivered c.val k.val) rfl rfl,
      congrArg (fun e : Dev => ({ s with d := e } : State)) e1, e2, ?_, fun i hi => ?_, fun a ha => ?_⟩
    · refine (congrArg DescSt.deliv e3).trans ?_
      obtain ⟨-, -, r1, -⟩ := (x.counted (s.d.unitMoved s.lk c x (dUnitBeats x.work)).1 true x).settled_run
      obtain ⟨-, -, r2, -⟩ := ((x.counted (s.d.unitMoved s.lk c x (dUnitBeats x.work)).1 true x).settled.tokened bid).settled_run
      exact r2.trans ((DescSt.tokened_run ..).trans r1)
    · subst hi
      dsimp only
      rw [e3]
      exact DescSt.token_of_delivered hu rfl ho
    · refine (congrArg (fun m : CoreMem => m.read a 1) e4).trans ?_
      unfold Dev.localByte
      rw [CoreMem.read_one, CoreMem.read_one]
      exact congrArg (fun v => [v]) (CoreMem.byte_storeBeats_outside _ _ _ (ha.imp_right (Nat.add_le_add_left hlen _).trans))
  case drained =>
    intro s c k bid addr x hrun hs ho hd hw hu
    obtain ⟨e, slot, bad, oor, hco, heff⟩ := effOutboundDrain_spec c.isLt hs ho hd hw hu
    have hm := e.modGln_spec c.isLt fun g => g.unitDrained k bid slot bad oor
    have hcore (i : Nat) : e.core i = s.d.core i := Dev.core_eq_of_cores hco i
    rw [hcore] at hm
    have hr : ((e.modGln c fun g => g.unitDrained k bid slot bad oor).core c).run.gln =
        ((s.d.core c).run.gln.unitDrained k bid slot bad oor).settle := by
      rw [hm.core, CoreSt.run_setRun hrun]
    obtain ⟨h1, h2⟩ := (s.d.core c).run.gln.unitDrained_run k.isLt bid slot bad oor
    refine ⟨_, exec_onLk (s := s) (i := .outboundDrain c k) (f := effOutboundDrain c.val k.val) rfl heff, rfl, rfl,
      fun i hi => (hm.others i hi).trans (hcore i), ?_, ?_, ?_⟩
    · dsimp only
      rw [hr]
      exact h1
    · dsimp only
      rw [hr]
      exact h2
    · dsimp only
      rw [hm.core]
      rfl

end

section
/-! SUPPORT. Stile transfers that complete, and the writes that windows take (O15). -/

namespace Sys2Proof.Machine

/-- No move of a core counts in a Stile page. -/
theorem moveRegs_stl : ∀ a ∈ moveRegs.map RegAt.addr, a < 0x100000 ∨ a % 0x10000 < 0x7000 := by decide +kernel

theorem Dev.moveKeeps.stlReg {d e : Dev} (h : d.moveKeeps e) {c : Nat} {o : Nat} (ho : o < 0x1000) : e.reg .stl c o = d.reg .stl c o :=
  h.regs _ _ _ fun hm => by
    have := moveRegs_stl _ hm
    simp at this
    omega

theorem Dev.moveKeeps_errBlk_kvp (d : Dev) : d.moveKeeps (d.errBlk .kvp 0) := by
  refine Dev.moveKeeps.trans (b := { d with fresh := d.fresh + 1 }) ⟨rfl, Dev.keepsRegs_of_rg rfl _⟩ ?_
  exact (Dev.readKeeps_err _ _ _ (by simp [busRegs]) (by simp [busRegs])).move

/-- What the data of a Stile write leave alone. -/
theorem Dev.moveKeeps_stileData (d : Dev) {c : Nat} (hc : c < 8) (t : Stile) : d.moveKeeps (d.stileData c t).2.2 :=
  (d.readKeeps_spdUe hc _).move

/-- The bytes of a Stile read in SPAD or ACCM, with the poison of their beats (R233, R235). -/
def CoreMem.stileIn (m : CoreMem) (t : Stile) (bs : List Byte) (ps : List Bool) : CoreMem :=
  let srcs := (beatParts t.ext t.len).zip ps
  (beatParts t.loc t.len).foldl (fun m p =>
    let lo := t.ext + (p.1 - t.loc)
    let bad := srcs.any fun s => s.2 && decide (s.1.1 < lo + p.2) && decide (lo < s.1.1 + s.1.2)
    m.store p.1 (slice bs (p.1 - t.loc) p.2) bad) m

/-- The data of a Stile transfer move (R233, R235, R254). -/
def Dev.stileMoves (lk : Locked) (d : Dev) (c : Nat) (t : Stile) : Dev :=
  if d.straddles lk c t then (d.stileData c t).2.2.errBlk .kvp 0
  else if t.out then
    let r := (d.stileData c t).2.2.busWrite lk (.core c) ((d.stileData c t).2.2.partOf c) t.ext (d.stileData c t).1 (d.stileData c t).2.1
    r.2.countMoved c ⟨[], [], ((d.stileData c t).2.1.filter id).length, r.1⟩
  else
    let r := d.busRead lk (.core c) (d.partOf c) t.ext t.len
    ((r.2.2.2.countMoved c ⟨[], [], (r.2.1.filter id).length, r.2.2.1⟩).modCore c fun x =>
      { x with mem := x.mem.stileIn t r.1 r.2.1 }).takeMerged c

/-- A Stile read changes no byte outside its span. -/
theorem CoreMem.byte_stileIn (m : CoreMem) {t : Stile} {x : Nat} (bs : List Byte) (ps : List Bool) (h : x < t.loc ∨ t.loc + t.len ≤ x) :
    (m.stileIn t bs ps).byte x = m.byte x := by
  refine List.foldlRecOn (motive := fun m' : CoreMem => m'.byte x = m.byte x) _ _ rfl fun m' hm p hp => ?_
  have := beatParts_inside hp
  rw [CoreMem.byte_store_outside, hm]
  rw [length_slice]
  omega

/-- A move of Stile data changes the memories of its core alone, a read inside its span and a write nowhere. -/
structure Dev.stileMoved (d e : Dev) (c : Nat) (t : Stile) : Prop where
  others : d.keepsCores e c
  core : e.core c = { d.core c with mem := (e.core c).mem }
  stl : ∀ o < 0x1000, e.reg .stl c o = d.reg .stl c o
  write : t.out = true → (e.core c).mem = (d.core c).mem
  bytes : ∀ a, a < t.loc ∨ t.loc + t.len ≤ a → (e.core c).mem.byte a = (d.core c).mem.byte a

theorem Dev.stileMoved_of_move {d e : Dev} (h : d.moveKeeps e) (c : Nat) (t : Stile) : d.stileMoved e c t := by
  have hc (i : Nat) : e.core i = d.core i := Dev.core_eq_of_cores h.cores i
  exact ⟨fun i _ => hc i, by rw [hc], fun _ => h.stlReg, fun _ => by rw [hc], fun a _ => by rw [hc]⟩

theorem Dev.stileMoves_spec (lk : Locked) (d : Dev) {c : Nat} (hc : c < 8) (t : Stile) : d.stileMoved (d.stileMoves lk c t) c t := by
  unfold Dev.stileMoves
  split
  · exact Dev.stileMoved_of_move ((d.moveKeeps_stileData hc t).trans (Dev.moveKeeps_errBlk_kvp _)) c t
  · split
    · exact Dev.stileMoved_of_move (((d.moveKeeps_stileData hc t).trans (Dev.moveKeeps_busWrite lk _ rfl _ _ _ _ _)).trans
        (Dev.moveKeeps_countBeats _ hc _ _)) c t
    next hout =>
      have hr := (d.readKeeps_busRead lk (.core c) (d.partOf c) t.ext t.len false).move
      generalize d.busRead lk (.core c) (d.partOf c) t.ext t.len = r at *
      have hk := hr.trans (Dev.moveKeeps_countBeats r.2.2.2 hc (r.2.1.filter id).length r.2.2.1)
      dsimp only
      change Dev.moveKeeps d (r.2.2.2.countMoved c ⟨[], [], (r.2.1.filter id).length, r.2.2.1⟩) at hk
      generalize r.2.2.2.countMoved c ⟨[], [], (r.2.1.filter id).length, r.2.2.1⟩ = e at *
      have hcore (i : Nat) : e.core i = d.core i := Dev.core_eq_of_cores hk.cores i
      have hset := e.setsCore_setCore hc { e.core c with mem := (e.core c).mem.stileIn t r.1 r.2.1 }
      change e.setsCore (e.modCore c fun x => { x with mem := x.mem.stileIn t r.1 r.2.1 }) c _ at hset
      obtain ⟨-, t2, t3, t4⟩ := (e.modCore c fun x => { x with mem := x.mem.stileIn t r.1 r.2.1 }).takeMerged_spec hc
      have hfin : ((e.modCore c fun x => { x with mem := x.mem.stileIn t r.1 r.2.1 }).takeMerged c).core c =
          { d.core c with mem := { (d.core c).mem.stileIn t r.1 r.2.1 with merged := [] } } := by
        rw [t3, hset.core, hcore]
      refine ⟨fun i hi => by rw [t2 i hi, hset.others i hi, hcore], by rw [hfin], fun o ho => ?_, fun h => absurd h hout, fun a ha => ?_⟩
      · rw [t4 _ _ _ (by simp [RegAt.addr]; omega)]
        exact hk.stlReg ho
      · rw [hfin]
        exact CoreMem.byte_stileIn _ _ _ ha

theorem effStileComplete_eq {lk : Locked} {d : Dev} {c lc : Nat} {t : Stile} (cc : Nat) (hh : d.headStile c = some (lc, t))
    (hd : t.done = true) (hg : t.given = false) (hw : d.lpWaits t.ext = false) (hno : d.windowOf lk c t = none)
    (hr : t.out = true → d.readyLine t.ext ((d.core c).mem.read t.loc t.len) = none) :
    effStileComplete c cc lk d =
      let e := (d.modStile c lc fun l => l.drop 1).stileMoves lk c t
      ((e.bump .stl c 0x104 1).setReg .stl c 0x108 (max (e.fld .stl c 0x108 15 0) (min cc 0xFFFF))).freeCore c := by
  have hgive : d.giveStile lk c none = d := by
    unfold Dev.giveStile
    rw [hh]
    dsimp only
    split
    · rfl
    next ho =>
      have hout : t.out = true := by
        by_contra hf
        exact ho (by simp [hf])
      rw [hno]
      dsimp only [Dev.stileData]
      rw [hr hout]
  unfold effStileComplete
  simp only [hh, Option.bind_some, hno, Option.map_none, hgive, hd, hg, hw, Bool.not_true, Bool.false_and, Bool.or_self,
    Bool.false_eq_true, if_false]
  rfl

/-- A logical core with its Stile transfers changed. -/
def LcSt.modStile (l : LcSt) (f : List Stile → List Stile) : LcSt := { l with gln := { l.gln with stile := f l.gln.stile } }

theorem Dev.modStile_spec (d : Dev) {c : Nat} (hc : c < 8) (lc : Nat) (f : List Stile → List Stile) :
    d.setsCore (d.modStile c lc f) c
      { d.core c with lcs := (d.core c).lcs.setIfInBounds lc (((d.core c).lcs.toList.getD lc {}).modStile f) } :=
  d.setsCore_setCore hc _

theorem getD_setIfInBounds_self {α : Type} {n i : Nat} (v : Vector α n) (x d : α) (h : i < n) :
    (v.setIfInBounds i x).toList.getD i d = x := by
  simp [Vector.setIfInBounds_eq_set, h]

/-! ### Windows -/

theorem effWindowWrite_eq {lk : Locked} {d : Dev} {w c lc o : Nat} {t : Stile} (hw0 : w ≠ 0) (hh : d.headStile c = some (lc, t))
    (hd : t.done = true) (hg : t.given = false) (ho : t.out = true) (hwin : d.windowOf lk c t = some (w, o))
    (hsec : d.worldOf (.core c) = .nonsecure → d.secureAddr (d.target lk (.core c) t.ext) = false) :
    effWindowWrite w c lk d =
      let n := ((d.stileData c t).2.1.filter id).length
      let e := ((d.stileData c t).2.2.countMoved c ⟨[], [], n, 0⟩).modStile c lc fun l => l.modify 0 fun s => { s with given := true }
      let l := e.streams.toList.getD (8 * w + c) [] ++ [(o, (d.stileData c t).1, (d.stileData c t).2.1)]
      { e with streams := e.streams.setIfInBounds (8 * w + c) l } := by
  have hcross : (d.worldOf (.core c) == .nonsecure && d.secureAddr (d.target lk (.core c) t.ext)) = false := by
    cases hw : d.worldOf (.core c) with
    | nonsecure => rw [hsec hw, Bool.and_false]
    | secure => rfl
  unfold effWindowWrite Dev.giveStile
  simp only [hh, hd, hg, ho, hwin, hcross, hw0, Bool.not_true, Bool.or_self, Bool.false_eq_true, if_false, ne_eq,
    not_true_eq_false]
  rfl

theorem Dev.spdUe_regsOnly (d : Dev) (c : Nat) (l : List Nat) : d.regsOnly (d.spdUe c l) := by
  have h := d.spdUe_coresOnly c l
  rw [Dev.coresOnly, Dev.spdUe_cores] at h
  exact h

theorem Dev.headStile_some {d : Dev} {c lc : Nat} {t : Stile} (h : d.headStile c = some (lc, t)) :
    ((d.core c).lcs.toList.getD lc {}).gln.stile.head? = some t := by
  unfold Dev.headStile at h
  dsimp only at h
  obtain ⟨s, hs, he⟩ := Option.map_eq_some_iff.1 h
  obtain ⟨rfl, rfl⟩ := Prod.mk.inj he
  exact hs

end Sys2Proof.Machine

open Sys2Proof Sys2Proof.Machine

/-- Settles O15: the data of a transfer move through the device map, which leaves the other cores, the Stile page and, for a
write, the memories alone. -/
theorem stileAndWindows : Obligations.StileAndWindows := by
  unfold Obligations.StileAndWindows
  refine ⟨?complete, ?window⟩
  case complete =>
    intro s c cc lc q hh hd hg hw hno hr hend hlc
    have hset := s.d.modStile_spec c.isLt lc fun l => l.drop 1
    have hreg0 (o : Nat) : (s.d.modStile c lc fun l => l.drop 1).reg .stl c o = s.d.reg .stl c o := Dev.reg_setCore ..
    have heff := effStileComplete_eq cc hh hd hg hw hno hr
    generalize s.d.modStile c lc (fun l => l.drop 1) = e at *
    have hmv := e.stileMoves_spec s.lk c.isLt q
    dsimp only at heff
    generalize e.stileMoves s.lk c q = f at *
    have hreg (o : Nat) (ho : o < 0x1000) : f.reg .stl c o = s.d.reg .stl c o := (hmv.stl o ho).trans (hreg0 o)
    have hcore (i : Nat) (v : Nat) : ((f.bump .stl c 0x104 1).setReg .stl c 0x108 v).core i = f.core i :=
      (Dev.core_setReg ..).trans (Dev.core_eq_of_cores (by rw [f.bump_regsOnly .stl c 0x104 1]) i)
    have hfc : f.core c = { s.d.core c with
        mem := (f.core c).mem
        lcs := (s.d.core c).lcs.setIfInBounds lc (((s.d.core c).lcs.toList.getD lc {}).modStile fun l => l.drop 1) } := by
      have hcr := hmv.core
      rw [hset.core] at hcr
      exact hcr
    rw [Dev.freeCore_going (by rw [hcore, hfc]; exact hend)] at heff
    refine ⟨_, exec_onLk (s := s) (i := .stileComplete c cc) (f := effStileComplete c.val cc) rfl heff, rfl, rfl,
      fun i hi => by rw [hcore, hmv.others i hi, hset.others i hi], ?_, ?_, ?_, fun ho => ?_, fun a ha => ?_⟩
    · dsimp only
      rw [Dev.reg_setReg_ne _ _ (by simp), Dev.reg_bump_self, hreg _ (by decide)]
    · have hfld : f.fld .stl c 0x108 15 0 = s.d.fld .stl c 0x108 15 0 := by simp only [Dev.fld, hreg 0x108 (by decide)]
      have hlt : s.d.fld .stl c 0x108 15 0 < 2 ^ 16 := Nat.mod_lt _ (by decide)
      dsimp only
      rw [Dev.reg_setReg_self, hfld, Nat.mod_eq_of_lt (by omega)]
    · dsimp only
      rw [hcore, hfc]
      dsimp only
      rw [getD_setIfInBounds_self _ _ _ hlc]
      exact List.drop_one
    · dsimp only
      rw [hcore, hmv.write ho, hset.core]
    · dsimp only [Dev.localByte]
      rw [hcore, CoreMem.read_one, CoreMem.read_one, hmv.bytes a ha, hset.core]
  case window =>
    intro s c w lc o q hw0 hh hd hg ho hlc hwin hsec
    have heff := effWindowWrite_eq (fun h => hw0 (Fin.ext h)) hh hd hg ho hwin hsec
    dsimp only at heff
    have h1 : s.d.regsOnly ((s.d.stileData c q).2.2.countMoved c ⟨[], [], ((s.d.stileData c q).2.1.filter id).length, 0⟩) :=
      Dev.regsOnly.trans (Dev.spdUe_regsOnly ..) (Dev.countBeats_regsOnly ..)
    generalize (s.d.stileData c q).2.2.countMoved c ⟨[], [], ((s.d.stileData c q).2.1.filter id).length, 0⟩ = e at *
    obtain ⟨r, rfl⟩ : ∃ r, e = { s.d with rg := r } := ⟨_, h1⟩
    have hset := ({ s.d with rg := r } : Dev).modStile_spec c.isLt lc fun l => l.modify 0 fun s => { s with given := true }
    have hcore : (effWindowWrite w.val c.val s.lk s.d).core c = _ := (congrArg (fun e : Dev => e.core c) heff).trans hset.core
    refine ⟨_, exec_onLk (s := s) (i := .windowWrite w c) (f := effWindowWrite w.val c.val) rfl rfl, ?_, ?_, ?_, ?_, ?_⟩
    · rw [heff]
      rfl
    · intro i hi
      exact (congrArg (fun e : Dev => e.core i) heff).trans (hset.others i hi)
    · rw [heff]
      rfl
    · have hmem := congrArg CoreSt.mem hcore
      exact hmem
    · dsimp only
      rw [hcore]
      dsimp only
      rw [getD_setIfInBounds_self _ _ _ hlc]
      have hhead := Dev.headStile_some hh
      dsimp only [LcSt.modStile]
      change (List.modify ((s.d.core c).lcs.toList.getD lc {}).gln.stile 0 _).head? = _
      cases hl : ((s.d.core c).lcs.toList.getD lc {}).gln.stile with
      | nil => rw [hl] at hhead; cases hhead
      | cons a l =>
        rw [hl] at hhead
        obtain rfl := Option.some.inj hhead
        rfl

end

section
/-! SUPPORT. Reads and writes of the cache page manager, its host commands and its commits (O16, O17). -/

namespace Sys2Proof.Machine

/-! ### Reads and writes of the page manager (R13, R14) -/

theorem Req.kvp_isBlock : Req.isBlock .kvp := ⟨rfl, fun _ h => by cases h⟩

theorem Dev.readKeeps_kvpRead (lk : Locked) (d : Dev) (a n : Nat) (direct : Bool) : d.readKeeps (d.kvpRead lk a n direct).2.2 :=
  d.readKeeps_busBytes ..

theorem Dev.readKeeps_kvpWord (lk : Locked) (d : Dev) (a : Nat) (direct : Bool) : d.readKeeps (d.kvpWord lk a direct).2 :=
  d.readKeeps_kvpRead ..

theorem Dev.readKeeps_histRec (lk : Locked) (d : Dev) (h : Nat) (direct : Bool) : d.readKeeps (d.histRec lk h direct).2 :=
  d.readKeeps_kvpRead ..

theorem Dev.blkKeeps_kvpWrite (lk : Locked) (d : Dev) (a : Nat) (bs : List Byte) (pois direct : Bool) :
    d.blkKeeps (d.kvpWrite lk a bs pois direct) := d.blkKeeps_busStore lk Req.kvp_isBlock ..

theorem Dev.blkKeeps_setNextLow (lk : Locked) (d : Dev) (h l next low : Nat) (direct : Bool) :
    d.blkKeeps (d.setNextLow lk h l next low direct) := d.blkKeeps_kvpWrite ..

theorem Dev.blkKeeps_foldl {α : Type} (f : Dev → α → Dev) (hf : ∀ d x, Dev.blkKeeps d (f d x)) (l : List α) (d : Dev) :
    d.blkKeeps (l.foldl f d) :=
  List.foldlRecOn (motive := fun e => d.blkKeeps e) _ _ (.refl d) fun _ h x _ => h.trans (hf _ x)

theorem Dev.blkKeeps_zeroPage (lk : Locked) (d : Dev) (pg : Nat) : d.blkKeeps (d.zeroPage lk pg) :=
  (d.blkKeeps_kvpWrite ..).trans (Dev.blkKeeps_kvpWrite ..)

/-- The registers that a commit writes: its counts, its sticky bits and the free count. -/
def kvpRegs : List RegAt :=
  busRegs ++ [(.kvp, 0, 0x130), (.kvp, 0, 0x148), (.kvp, 0, 0x14C), (.kvp, 0, 0x150), (.kvp, 0, 0x154), (.kvp, 0, 0x158),
    (.kvp, 0, 0x15C), (.kvp, 0, 0x020)]

/-- What the work of the page manager leaves alone, itself among it. -/
structure Dev.kvpStays (d e : Dev) : Prop where
  shape : e = { d with rg := e.rg, ms := e.ms, tbl := e.tbl, pci := e.pci, wtn := e.wtn, fresh := e.fresh }
  regs : d.keepsRegs e kvpRegs

theorem Dev.kvpStays.refl (d : Dev) : d.kvpStays d := ⟨rfl, .refl d _⟩

theorem Dev.kvpStays.trans {a b c : Dev} (h : a.kvpStays b) (k : b.kvpStays c) : a.kvpStays c := by
  refine ⟨?_, h.regs.trans k.regs⟩
  rw [k.shape, h.shape]

theorem Dev.kvpStays.kvp {d e : Dev} (h : d.kvpStays e) : e.kvp = d.kvp := by rw [h.shape]

theorem Dev.blkKeeps.kvpStays {d e : Dev} (h : d.blkKeeps e) : d.kvpStays e :=
  ⟨h.shape, h.bus.regs.mono (List.subset_append_left ..)⟩

theorem Dev.kvpStays_of_regs {d e : Dev} (h : d.regsOnly e) (hk : d.keepsRegs e kvpRegs) : d.kvpStays e := by
  refine ⟨?_, hk⟩
  rw [h]

theorem Dev.kvpStays_bump (d : Dev) {o : Nat} (n : Nat) (h : (.kvp, 0, o) ∈ kvpRegs) : d.kvpStays (d.bump .kvp 0 o n) :=
  Dev.kvpStays_of_regs (d.bump_regsOnly ..) (d.keepsRegs_bump _ _ _ _ h)

theorem Dev.kvpStays_setReg (d : Dev) {o : Nat} (v : Nat) (h : (.kvp, 0, o) ∈ kvpRegs) : d.kvpStays (d.setReg .kvp 0 o v) :=
  Dev.kvpStays_of_regs (d.setReg_regsOnly ..) (d.keepsRegs_setReg _ _ _ _ h)

theorem Dev.kvpStays_sticky (d : Dev) (b : Nat) : d.kvpStays (d.sticky .kvp 0 b) :=
  Dev.kvpStays_of_regs (d.sticky_regsOnly ..) (d.keepsRegs_sticky _ _ _ (by simp [kvpRegs, Page.sticky]) (by simp [kvpRegs]))

theorem Dev.kvpStays_post (d : Dev) (sub h l : Nat) (fs : List (Nat × Nat × Nat)) : d.kvpStays (d.kvpPost sub h l fs) :=
  (d.readKeeps_post ..).blk.kvpStays

theorem Dev.kvpStays_errBlk (d : Dev) : d.kvpStays (d.errBlk .kvp 0) := by
  refine Dev.kvpStays.trans (b := { d with fresh := d.fresh + 1 }) ⟨rfl, Dev.keepsRegs_of_rg rfl _⟩ ?_
  exact (Dev.readKeeps_err _ _ _ (by simp [busRegs]) (by simp [busRegs])).blk.kvpStays

theorem Dev.kvpStays_kvpFree (lk : Locked) (d : Dev) (pg : Nat) : d.kvpStays (d.kvpFree lk pg) := by
  unfold Dev.kvpFree
  dsimp only
  split
  · exact d.kvpStays_errBlk
  · exact (d.blkKeeps_kvpWrite ..).kvpStays.trans (Dev.kvpStays_setReg _ _ (by simp [kvpRegs]))

/-! ### Host commands (R262, R266) -/

theorem Dev.kvpStays_foldl {α : Type} (f : Dev → α → Dev) (hf : ∀ d x, Dev.kvpStays d (f d x)) (l : List α) (d : Dev) :
    d.kvpStays (l.foldl f d) :=
  List.foldlRecOn (motive := fun e => d.kvpStays e) _ _ (.refl d) fun _ h x _ => h.trans (hf _ x)

theorem Dev.kvpCreate_spec (lk : Locked) (d : Dev) (h : Nat) :
    let r := (d.histRec lk h false).1
    ∃ e, d.kvpStays e ∧
      d.kvpCreate lk h = e.setReg .kvp 0 0x13C (if r.valid then 2 else if !r.shapeOk || r.reservedSet then 1 else 0) := by
  have hr := (d.readKeeps_histRec lk h false).blk
  unfold Dev.kvpCreate
  generalize d.histRec lk h false = x at *
  obtain ⟨r, e⟩ := x
  dsimp only at hr ⊢
  by_cases hv : r.valid = true
  · rw [if_pos hv, if_pos hv]
    exact ⟨e, hr.kvpStays, rfl⟩
  · rw [if_neg hv, if_neg hv]
    by_cases hs : (!r.shapeOk || r.reservedSet) = true
    · rw [if_pos hs, if_pos hs]
      exact ⟨e, hr.kvpStays, rfl⟩
    · rw [if_neg hs, if_neg hs]
      refine ⟨_, Dev.blkKeeps.kvpStays ?_, rfl⟩
      exact ((hr.trans (Dev.blkKeeps_foldl _ (fun e l => e.blkKeeps_kvpWrite ..) _ _)).trans
        (Dev.blkKeeps_foldl _ (fun e l => e.blkKeeps_setNextLow ..) _ _)).trans (Dev.blkKeeps_kvpWrite ..)

theorem Dev.kvpDelete_spec (lk : Locked) (d : Dev) (h : Nat) :
    let r := (d.histRec lk h false).1
    ∃ e, d.kvpStays e ∧ d.kvpDelete lk h = e.setReg .kvp 0 0x13C (if !r.valid then 3 else 0) := by
  have hr := (d.readKeeps_histRec lk h false).blk
  unfold Dev.kvpDelete
  generalize d.histRec lk h false = x at *
  obtain ⟨r, e⟩ := x
  dsimp only at hr ⊢
  by_cases hv : (!r.valid) = true
  · rw [if_pos hv, if_pos hv]
    exact ⟨e, hr.kvpStays, rfl⟩
  · rw [if_neg hv, if_neg hv]
    refine ⟨_, ?_, rfl⟩
    refine (hr.kvpStays.trans (Dev.kvpStays_foldl _ (fun e l => ?_) _ _)).trans (Dev.blkKeeps_kvpWrite ..).kvpStays
    refine (Dev.kvpStays_foldl _ (fun e i => ?_) _ _).trans (Dev.blkKeeps_kvpWrite ..).kvpStays
    have hw := (e.readKeeps_kvpWord lk (e.listAddr h l + 4 * i) false).blk.kvpStays
    split
    · exact hw
    · split
      · exact hw.trans (Dev.kvpStays_errBlk _)
      · exact hw.trans (Dev.kvpStays_kvpFree ..)

theorem effKvpEnable_spec {lk : Locked} {d : Dev} (h : d.flag .kvp 0 0x100 0 = false) :
    ∃ e, d.blkKeeps e ∧
      effKvpEnable lk d = (({ e with kvp := { e.kvp with head := 0 } } : Dev).setReg .kvp 0 0x130 (d.reg .kvp 0 0x12C)).setReg .kvp 0 0x100 1 := by
  unfold effKvpEnable
  rw [if_neg (by rw [h]; decide)]
  exact ⟨_, Dev.blkKeeps_foldl _ (fun e i => e.blkKeeps_kvpWrite ..) _ _, rfl⟩

/-! ### A command that finds the queue empty -/

/-- The manager with queue `q`. -/
def Dev.kvpQueue (d : Dev) (q : List KvpCmd) : Dev := { d with kvp := { d.kvp with queue := q } }

theorem Dev.kvpQueue_of_kvp {d e : Dev} (h : e.kvp = d.kvp) (q : List KvpCmd) :
    e.kvpQueue q = { e with kvp := { d.kvp with queue := q } } := by
  rw [Dev.kvpQueue, h]

theorem Dev.kvp_setFld (d : Dev) (o hi lo v : Nat) : (d.setFld .kvp 0 o hi lo v).kvp = d.kvp := by
  rw [d.setFld_regsOnly .kvp 0 o hi lo v]

/-- KVP_HCMD takes the command that its word says. -/
def kvpCmdOf (op h : Nat) : Option KvpCmd := match op with | 1 => some (.create h) | 2 => some (.delete h) | _ => none

theorem Dev.kvpHcmd_joins {d : Dev} {op h : Nat} {c : KvpCmd} (hc : kvpCmdOf op h = some c) (he : d.flag .kvp 0 0x100 0 = true)
    (hb : d.flag .kvp 0 0x13C 31 = false) :
    d.kvpHcmd op h = (d.setFld .kvp 0 0x13C 31 31 1).kvpQueue (d.kvp.queue ++ [c]) := by
  rw [Dev.kvpQueue_of_kvp (d.kvp_setFld ..)]
  unfold Dev.kvpHcmd
  rw [if_neg (by simp [he, hb])]
  unfold kvpCmdOf at hc
  generalize d.setFld .kvp 0 0x13C 31 31 1 = e
  dsimp only
  split at hc
  · obtain rfl := Option.some.inj hc
    rfl
  · obtain rfl := Option.some.inj hc
    rfl
  · cases hc

theorem kvpWord_bits {op h : Nat} (hop : op < 16) (hh : h < 16384) :
    bits (op * 2 ^ 28 + h) 31 28 = op ∧ bits (op * 2 ^ 28 + h) 13 0 = h ∧ op * 2 ^ 28 + h < 2 ^ 32 := by
  simp only [bits, Nat.shiftRight_eq_div_pow]
  norm_num
  omega

/-- A command in the queue, with BUSY set. -/
theorem Dev.blockWrite_kvpHcmd {d : Dev} {op h v : Nat} {c : KvpCmd} (lk : Locked) (hc : kvpCmdOf op h = some c)
    (hv : bits v 31 28 = op ∧ bits v 13 0 = h) (he : d.flag .kvp 0 0x100 0 = true) (hb : d.flag .kvp 0 0x13C 31 = false)
    (hq : d.kvp.queue = []) : d.blockWrite lk .kvp 0 0x138 v = (d.setFld .kvp 0 0x13C 31 31 1).kvpQueue [c] := by
  have hw : d.blockWrite lk .kvp 0 0x138 v = d.kvpHcmd op h := by
    rw [← hv.1, ← hv.2]
    simp only [Dev.blockWrite]
    rfl
  rw [hw, Dev.kvpHcmd_joins hc he hb, hq, List.nil_append]

/-- A host command that finds the manager enabled, not busy and with an empty queue is carried out at once (R266). -/
theorem effHistCmd_eq {w : World} {op h : Nat} {c : KvpCmd} {lk : Locked} {d : Dev} (hc : kvpCmdOf op h = some c) (hop : op < 16)
    (hh : h < 16384) (ht : d.takesWrite lk w .kvp 0) (he : d.flag .kvp 0 0x100 0 = true) (hb : d.flag .kvp 0 0x13C 31 = false)
    (hq : d.kvp.queue = []) :
    effHistCmd w op h c lk d = (lk, ((d.setFld .kvp 0 0x13C 31 31 1).kvpQueue [c]).kvpNext lk) := by
  obtain ⟨b1, b2, b3⟩ := kvpWord_bits hop hh
  have hno : d.kvp.queue.contains c = false := by rw [hq]; rfl
  unfold effHistCmd
  rw [hno]
  generalize op * 2 ^ 28 + h = v at *
  have hw : writeReg w .kvp 0 0x138 v lk d = (lk, (d.setFld .kvp 0 0x13C 31 31 1).kvpQueue [c]) := by
    rw [writeReg_block (by simp [Page.hasInst]) (by decide) (by decide) ht b3 (fun _ => by decide) (by simp) (by simp),
      Dev.blockWrite_kvpHcmd lk hc ⟨b1, b2⟩ he hb hq]
  rw [if_neg (by decide), hw]
  generalize d.setFld .kvp 0 0x13C 31 31 1 = e
  have hfind : (e.kvpQueue [c]).kvp.queue.findIdx? (· == c) = some 0 := by
    simp [Dev.kvpQueue, List.findIdx?_cons]
  dsimp only
  rw [hfind]
  rfl

theorem Dev.queue_kvpQueue (d : Dev) (q : List KvpCmd) : (d.kvpQueue q).kvp.queue = q := rfl

theorem Dev.kvpQueue_kvpQueue (d : Dev) (q r : List KvpCmd) : (d.kvpQueue q).kvpQueue r = d.kvpQueue r := rfl

theorem Dev.rg_kvpQueue (d : Dev) (q : List KvpCmd) : (d.kvpQueue q).rg = d.rg := rfl

theorem Dev.memWaits_setFld_kvp (d : Dev) (q : List KvpCmd) : ((d.setFld .kvp 0 0x13C 31 31 1).kvpQueue q).memWaits = d.memWaits := by
  have hr (o : Nat) (ho : o < 0x1000) : (d.setFld .kvp 0 0x13C 31 31 1).reg .mem 0 o = d.reg .mem 0 o :=
    Dev.reg_setFld_ne d 31 31 1 (by simp; omega)
  unfold Dev.memWaits
  rw [Dev.flag_congr (Dev.rg_kvpQueue ..), Dev.flag_congr (Dev.rg_kvpQueue ..), Dev.flag, Dev.flag, hr 0x100 (by decide),
    hr 0x104 (by decide)]
  rfl

theorem Dev.kvpNext_create {lk : Locked} {d : Dev} {h : Nat} {cs : List KvpCmd} (hq : d.kvp.queue = .create h :: cs)
    (hm : d.memWaits = false) : d.kvpNext lk = (d.kvpQueue cs).kvpCreate lk h := by
  simp only [Dev.kvpNext, hq, hm, Bool.false_eq_true, if_false]
  rfl

theorem Dev.kvpNext_delete {lk : Locked} {d : Dev} {h : Nat} {cs : List KvpCmd} (hq : d.kvp.queue = .delete h :: cs)
    (hm : d.memWaits = false) : d.kvpNext lk = (d.kvpQueue cs).kvpDelete lk h := by
  simp only [Dev.kvpNext, hq, hm, Bool.false_eq_true, if_false]
  rfl

theorem Dev.kvpNext_commit {lk : Locked} {d : Dev} {core : Nat} {hdr : List Byte} {pois : Bool} {cs : List KvpCmd}
    (hq : d.kvp.queue = .commit core hdr pois :: cs) (hm : d.memWaits = false) :
    d.kvpNext lk = (d.kvpQueue cs).kvpCommit lk core hdr pois := by
  simp only [Dev.kvpNext, hq, hm, Bool.false_eq_true, if_false]
  rfl

/-- What a host command leaves: its RESULT, and the manager as it was. -/
theorem Dev.kvpStays.result {d e : Dev} (h : d.kvpStays e) {v : Nat} (hv : v < 2 ^ 32) :
    (e.setReg .kvp 0 0x13C v).kvp = d.kvp ∧ (e.setReg .kvp 0 0x13C v).reg .kvp 0 0x13C = v := by
  refine ⟨h.kvp, ?_⟩
  rw [Dev.reg_setReg_self, Nat.mod_eq_of_lt hv]

end Sys2Proof.Machine

open Sys2Proof Sys2Proof.Machine

/-- Settles O16: the command is the only one in the queue, so it is carried out at once, and its RESULT is written last. -/
theorem historyHostCommands : Obligations.HistoryHostCommands := by
  unfold Obligations.HistoryHostCommands
  refine ⟨fun s w h => ?cmds, ?enable⟩
  case cmds =>
    intro d r ht hm he hb hq
    have hd (c : KvpCmd) : ((s.d.setFld .kvp 0 0x13C 31 31 1).kvpQueue [c]).kvpQueue [] = d :=
      (Dev.kvpQueue_kvpQueue ..).trans (Dev.kvpQueue_of_kvp (s.d.kvp_setFld ..) [])
    have hdk : d.kvp = s.d.kvp := (show d.kvp = { s.d.kvp with queue := [] } from rfl).trans (by rw [← hq])
    clear_value d
    refine ⟨?_, ?_⟩
    · have hx : exec (.create w h) s = .next (s.onAll (effHistCmd w 1 h.val (.create h.val))) := rfl
      obtain ⟨e, hk, hres⟩ := Dev.kvpCreate_spec s.lk d h
      have heff := (effHistCmd_eq (op := 1) (c := .create h.val) rfl (by decide) h.isLt ht he hb hq).trans
        (congrArg (Prod.mk s.lk) (Dev.kvpNext_create (Dev.queue_kvpQueue ..) ((s.d.memWaits_setFld_kvp _).trans hm)))
      rw [hd, hres] at heff
      obtain ⟨r1, r2⟩ := hk.result (v := if r.valid then 2 else if !r.shapeOk || r.reservedSet then 1 else 0) (by split_ifs <;> decide)
      exact ⟨_, exec_onAll hx heff, rfl, rfl, r1.trans hdk, r2⟩
    · have hx : exec (.delete w h) s = .next (s.onAll (effHistCmd w 2 h.val (.delete h.val))) := rfl
      obtain ⟨e, hk, hres⟩ := Dev.kvpDelete_spec s.lk d h
      have heff := (effHistCmd_eq (op := 2) (c := .delete h.val) rfl (by decide) h.isLt ht he hb hq).trans
        (congrArg (Prod.mk s.lk) (Dev.kvpNext_delete (Dev.queue_kvpQueue ..) ((s.d.memWaits_setFld_kvp _).trans hm)))
      rw [hd, hres] at heff
      obtain ⟨r1, r2⟩ := hk.result (v := if !r.valid then 3 else 0) (by split_ifs <;> decide)
      exact ⟨_, exec_onAll hx heff, rfl, rfl, r1.trans hdk, r2⟩
  case enable =>
    intro s w v ht hen hv
    obtain ⟨e, hk, heff⟩ := effKvpEnable_spec (lk := s.lk) hen
    have hw : s.d.blockWrite s.lk .kvp 0 0x100 v.toNat = effKvpEnable s.lk s.d := by
      simp only [Dev.blockWrite]
      exact if_pos hv
    have hx := exec_blockWrite (s := s) (i := .kvpEnable w v) rfl ht (by simp [Page.hasInst]) v.isLt (by decide) (fun _ => by decide)
      (by simp) (by simp)
    rw [hw, heff] at hx
    refine ⟨_, hx, rfl, rfl, ?_, ?_, ?_⟩
    · simp [Dev.flag, bit]
    · dsimp only
      rw [Dev.reg_setReg_ne _ _ (by simp), Dev.reg_setReg_self]
      exact Nat.mod_eq_of_lt (Dev.reg_lt ..)
    · have hek : e.kvp = s.d.kvp := by rw [hk.shape]
      change ({ e.kvp with head := 0 } : KvpSt) = _
      rw [hek]

end

section
/-! SUPPORT. The commits of the cache page manager (O17). -/

namespace Sys2Proof.Machine

/-- What a commit leaves alone: all but the registers, the memory behind the device map and the head of the free list. -/
structure Dev.commitKeeps (d e : Dev) : Prop where
  cores : e.cores = d.cores
  kvp : e.kvp = { d.kvp with head := e.kvp.head }

theorem Dev.commitKeeps.trans {a b c : Dev} (h : a.commitKeeps b) (k : b.commitKeeps c) : a.commitKeeps c :=
  ⟨k.cores.trans h.cores, by rw [k.kvp, h.kvp]⟩

theorem Dev.kvpStays.commit {d e : Dev} (h : d.kvpStays e) : d.commitKeeps e := by
  refine ⟨by rw [h.shape], ?_⟩
  rw [h.kvp]

theorem Dev.commitKeeps_of_regs {d e : Dev} (h : d.regsOnly e) : d.commitKeeps e := by
  refine ⟨by rw [h], ?_⟩
  rw [h]

/-! ### Rows, scales and pages (R257, R260, R263, R264) -/

theorem Dev.kvpStays_rescaleBlock (lk : Locked) (d : Dev) (r : HistRec) (hdr side : List Byte) (pg b q : Nat) :
    d.kvpStays (d.rescaleBlock lk r hdr side pg b q) := by
  unfold Dev.rescaleBlock
  refine (Dev.kvpStays_foldl _ (fun e i => ?_) _ d).trans (Dev.kvpStays_bump _ _ (by simp [kvpRegs]))
  split
  · exact .refl e
  · exact Dev.kvpStays_foldl _ (fun e row => (e.readKeeps_kvpRead lk _ 64 true).blk.kvpStays.trans (Dev.blkKeeps_kvpWrite ..).kvpStays) _ e

/-- An accepted commit whose page exists counts itself last. -/
theorem Dev.commitOn_spec (lk : Locked) (d : Dev) (r : HistRec) (hdr : List Byte) (stg : Mem) (pg : Nat) (side : List Byte) (sbad : Bool) :
    ∃ e, d.kvpStays e ∧ d.commitOn lk r hdr stg pg side sbad = e.bump .kvp 0 0x140 1 := by
  have hw (e : Dev) (a : Nat) (bs : List Byte) (p : Bool) : e.kvpStays (e.kvpWrite lk a bs p true) := (e.blkKeeps_kvpWrite ..).kvpStays
  unfold Dev.commitOn
  extract_lets h l p q b d1 d2 d3 d4 low cand d5
  have h1 : d.kvpStays d1 := d.kvpStays_rescaleBlock ..
  have h2 : d1.kvpStays d2 :=
    Dev.kvpStays_foldl _ (fun e kv => Dev.kvpStays_foldl _ (fun e g => hw e _ _ false) _ e) _ d1
  have h3 : d2.kvpStays d3 := by
    unfold d3
    split
    · exact hw ..
    · exact .refl d2
  have h4 : d3.kvpStays d4 := d3.kvpStays_bump _ (by simp [kvpRegs])
  have h5 : d4.kvpStays d5 := (d4.blkKeeps_setNextLow ..).kvpStays
  exact ⟨d5, (((h1.trans h2).trans h3).trans h4).trans h5, rfl⟩

theorem Dev.commitKeeps_commitOn (lk : Locked) (d : Dev) (r : HistRec) (hdr : List Byte) (stg : Mem) (pg : Nat) (side : List Byte)
    (sbad : Bool) : d.commitKeeps (d.commitOn lk r hdr stg pg side sbad) := by
  obtain ⟨e, h, he⟩ := d.commitOn_spec lk r hdr stg pg side sbad
  rw [he]
  exact h.commit.trans (Dev.commitKeeps_of_regs (e.bump_regsOnly ..))

theorem Dev.commitKeeps_kvpAlloc (lk : Locked) (d : Dev) (r : HistRec) (h l e : Nat) : d.commitKeeps (d.kvpAlloc lk r h l e).2.2 := by
  have hw (e : Dev) (a : Nat) (bs : List Byte) : e.kvpStays (e.kvpWrite lk a bs false true) := (e.blkKeeps_kvpWrite ..).kvpStays
  have hp (e : Dev) (b sub : Nat) (fs : List (Nat × Nat × Nat)) : e.kvpStays ((e.sticky .kvp 0 b).kvpPost sub h l fs) :=
    (e.kvpStays_sticky b).trans (Dev.kvpStays_post ..)
  have hb (e : Dev) (n : Nat) {o : Nat} (ho : (.kvp, 0, o) ∈ kvpRegs) : e.kvpStays (e.bump .kvp 0 o n) := e.kvpStays_bump n ho
  unfold Dev.kvpAlloc
  extract_lets np free lst
  split
  · have hr := (d.readKeeps_kvpWord lk (d.kvpBase 0x124 + 4 * d.kvp.head) true).blk.kvpStays
    generalize d.kvpWord lk (d.kvpBase 0x124 + 4 * d.kvp.head) = x at *
    obtain ⟨pg, d1⟩ := x
    dsimp only at hr ⊢
    refine hr.commit.trans (Dev.commitKeeps.trans (b := { d1 with kvp := { d1.kvp with head := (d1.kvp.head + 1) % np } }) ⟨rfl, rfl⟩
      (Dev.kvpStays.commit ?_))
    generalize ({ d1 with kvp := { d1.kvp with head := (d1.kvp.head + 1) % np } } : Dev) = d2
    have h3 := (((d2.kvpStays_setReg (o := 0x130) (free - 1) (by simp [kvpRegs])).trans (Dev.blkKeeps_zeroPage lk _ pg).kvpStays).trans
      (hw _ (lst + 4 * e) (leBytes 4 (2 ^ 31 + pg % 2 ^ 24)))).trans (hb _ 1 (o := 0x158) (by simp [kvpRegs]))
    split
    · exact h3.trans (hp ..)
    · exact h3
  · split
    · have hr := (d.readKeeps_kvpWord lk (lst + 4 * (r.low l % r.window / r.perPage)) true).blk.kvpStays
      generalize d.kvpWord lk (lst + 4 * (r.low l % r.window / r.perPage)) = x at *
      obtain ⟨w, d1⟩ := x
      dsimp only at hr ⊢
      have h2 := hr.trans ((Dev.blkKeeps_zeroPage lk d1 (w % 2 ^ 24)).kvpStays.trans (hw _ (lst + 4 * e) (leBytes 4 (2 ^ 31 + w % 2 ^ 24))))
      refine Dev.kvpStays.commit (Dev.kvpStays.trans ?_ (((Dev.blkKeeps_setNextLow ..).kvpStays.trans
        (hb _ 1 (o := 0x14C) (by simp [kvpRegs]))).trans (hp ..)))
      split
      · exact h2
      · exact h2.trans (hw ..)
    · exact ((hb d 1 (o := 0x148) (by simp [kvpRegs])).trans (hp ..)).commit

/-! ### A commit (R256, R257, R276) -/

/-- What a commit reads before it is checked: the record, the list entry, and the sidecar where it is used. -/
structure CommitReads where
  r : HistRec
  ent : Nat
  side : List Byte × Bool × Dev

/-- The reads of commit `hdr`. -/
def Dev.commitReads (lk : Locked) (d : Dev) (hdr : List Byte) : CommitReads :=
  let a := d.histRec lk (hdrHist hdr)
  let e := if a.1.window = 0 then 0 else hdrExpect hdr % a.1.window / a.1.perPage
  let b := a.2.kvpWord lk (a.2.listAddr (hdrHist hdr) (hdrLayer hdr) + 4 * e)
  { r := a.1, ent := b.1
    side := if bit b.1 31 && sideUsed a.1 hdr then b.2.kvpRead lk (b.2.sidecarAddr (b.1 % 2 ^ 24)) 64 else ([], false, b.2) }

theorem Dev.kvpStays_commitReads (lk : Locked) (d : Dev) (hdr : List Byte) : d.kvpStays (d.commitReads lk hdr).side.2.2 := by
  unfold Dev.commitReads
  extract_lets a e b
  have h := ((d.readKeeps_histRec lk (hdrHist hdr) true).trans
    (a.2.readKeeps_kvpWord lk (a.2.listAddr (hdrHist hdr) (hdrLayer hdr) + 4 * e) true)).blk.kvpStays
  dsimp only
  split
  · exact h.trans (Dev.readKeeps_kvpRead ..).blk.kvpStays
  · exact h

/-- The reason why commit `hdr` is refused. -/
def Dev.commitWhy (lk : Locked) (d : Dev) (core : Nat) (hdr : List Byte) (pois : Bool) : Option Nat :=
  commitReason (d.commitReads lk hdr).r hdr (d.commitReads lk hdr).side.1
    (pois || stagedPoison (d.kvp.staging.toList.getD core {}) (d.commitReads lk hdr).r.posBytes)

/-- A refused commit: counted, flagged, and captured when no capture is held (R256, R276). -/
def Dev.commitRefused (d : Dev) (why l h : Nat) : Dev :=
  let d := (d.bump .kvp 0 0x144 1).sticky .kvp 0 3
  if d.flag .kvp 0 0x160 31 then d else d.setReg .kvp 0 0x160 (2 ^ 31 + why * 2 ^ 24 + l * 2 ^ 17 + h)

theorem Dev.kvpCommit_refused {lk : Locked} {d : Dev} {core k : Nat} {hdr : List Byte} {pois : Bool}
    (h : d.commitWhy lk core hdr pois = some k) :
    d.kvpCommit lk core hdr pois = ((d.commitReads lk hdr).side.2.2.commitRefused k (hdrLayer hdr) (hdrHist hdr)).kvpPost 4 (hdrHist hdr)
      (hdrLayer hdr) [(3, 1, k), (4, 4, hdrExpect hdr)] := by
  have hk : (d.histRec lk (hdrHist hdr)).2.kvp = d.kvp := (d.readKeeps_histRec lk (hdrHist hdr) true).blk.kvpStays.kvp
  unfold Dev.commitWhy Dev.commitReads at h
  unfold Dev.kvpCommit
  rw [← hk] at h
  simp only [h]
  rfl

theorem Dev.kvpCommit_accepted {lk : Locked} {d : Dev} {core : Nat} {hdr : List Byte} {pois : Bool}
    (h : d.commitWhy lk core hdr pois = none) (hb : bit (d.commitReads lk hdr).ent 31 = true) :
    ∃ stg, d.kvpCommit lk core hdr pois = (d.commitReads lk hdr).side.2.2.commitOn lk (d.commitReads lk hdr).r hdr stg
      ((d.commitReads lk hdr).ent % 2 ^ 24) (d.commitReads lk hdr).side.1 (d.commitReads lk hdr).side.2.1 := by
  have hk : (d.histRec lk (hdrHist hdr)).2.kvp = d.kvp := (d.readKeeps_histRec lk (hdrHist hdr) true).blk.kvpStays.kvp
  refine ⟨(d.histRec lk (hdrHist hdr)).2.kvp.staging.toList.getD core {}, ?_⟩
  unfold Dev.commitWhy at h
  rw [← hk] at h
  unfold Dev.commitReads at h hb ⊢
  dsimp only at h hb ⊢
  unfold Dev.kvpCommit
  simp only [h, if_pos hb]

/-- The step of an accepted commit after the allocation of its page (R257, R263, R264). -/
def Dev.commitNew (lk : Locked) (x : Option Nat × HistRec × Dev) (hdr : List Byte) (stg : Mem) : Dev :=
  match x.1 with
  | none => x.2.2
  | some pg =>
    let y : List Byte × Bool × Dev := if sideUsed x.2.1 hdr then x.2.2.kvpRead lk (x.2.2.sidecarAddr pg) 64 else ([], false, x.2.2)
    y.2.2.commitOn lk x.2.1 hdr stg pg y.1 y.2.1

theorem Dev.commitKeeps_commitNew (lk : Locked) (x : Option Nat × HistRec × Dev) (hdr : List Byte) (stg : Mem) :
    x.2.2.commitKeeps (Dev.commitNew lk x hdr stg) := by
  obtain ⟨p, r, d⟩ := x
  cases p with
  | none => exact (Dev.kvpStays.refl d).commit
  | some pg =>
    unfold Dev.commitNew
    dsimp only
    refine Dev.commitKeeps.trans ?_ (Dev.commitKeeps_commitOn ..)
    split
    · exact (d.readKeeps_kvpRead ..).blk.kvpStays.commit
    · exact (Dev.kvpStays.refl d).commit

theorem Dev.kvpCommit_new {lk : Locked} {d : Dev} {core : Nat} {hdr : List Byte} {pois : Bool}
    (h : d.commitWhy lk core hdr pois = none) (hb : ¬bit (d.commitReads lk hdr).ent 31 = true) :
    ∃ stg e, d.kvpCommit lk core hdr pois = Dev.commitNew lk
      ((d.commitReads lk hdr).side.2.2.kvpAlloc lk (d.commitReads lk hdr).r (hdrHist hdr) (hdrLayer hdr) e) hdr stg := by
  have hk : (d.histRec lk (hdrHist hdr)).2.kvp = d.kvp := (d.readKeeps_histRec lk (hdrHist hdr) true).blk.kvpStays.kvp
  refine ⟨(d.histRec lk (hdrHist hdr)).2.kvp.staging.toList.getD core {},
    if (d.histRec lk (hdrHist hdr)).1.window = 0 then 0
    else hdrExpect hdr % (d.histRec lk (hdrHist hdr)).1.window / (d.histRec lk (hdrHist hdr)).1.perPage, ?_⟩
  unfold Dev.commitWhy at h
  rw [← hk] at h
  unfold Dev.commitReads at h hb ⊢
  dsimp only at h hb ⊢
  unfold Dev.kvpCommit
  simp only [h, if_neg hb]
  unfold Dev.commitNew
  split
  next he => rw [he]
  next he => rw [he]

theorem Dev.commitRefused_regsOnly (d : Dev) (why l h : Nat) : d.regsOnly (d.commitRefused why l h) := by
  have h0 := (d.bump_regsOnly .kvp 0 0x144 1).trans (Dev.sticky_regsOnly _ .kvp 0 3)
  unfold Dev.commitRefused
  dsimp only
  split
  · exact h0
  · exact h0.trans (Dev.setReg_regsOnly ..)

theorem Dev.commitKeeps_kvpCommit (lk : Locked) (d : Dev) (core : Nat) (hdr : List Byte) (pois : Bool) :
    d.commitKeeps (d.kvpCommit lk core hdr pois) := by
  have hr := (d.kvpStays_commitReads lk hdr).commit
  cases hw : d.commitWhy lk core hdr pois with
  | some k =>
    rw [Dev.kvpCommit_refused hw]
    exact (hr.trans (Dev.commitKeeps_of_regs (Dev.commitRefused_regsOnly ..))).trans (Dev.kvpStays_post ..).commit
  | none =>
    by_cases hb : bit (d.commitReads lk hdr).ent 31 = true
    · obtain ⟨stg, he⟩ := Dev.kvpCommit_accepted hw hb
      rw [he]
      exact hr.trans (Dev.commitKeeps_commitOn ..)
    · obtain ⟨stg, e, he⟩ := Dev.kvpCommit_new hw hb
      rw [he]
      exact (hr.trans (Dev.commitKeeps_kvpAlloc ..)).trans (Dev.commitKeeps_commitNew ..)

/-- What a refusal shows in the registers of the manager. -/
theorem Dev.commitRefused_spec (d : Dev) {why l h : Nat} (hy : why < 64) (hl : l < 64) (hh : h < 2 ^ 17) :
    (d.commitRefused why l h).reg .kvp 0 0x144 = satAdd (d.reg .kvp 0 0x144) 1 ∧
    (d.commitRefused why l h).flag .kvp 0 0x15C 3 = true ∧
    (d.commitRefused why l h).reg .kvp 0 0x140 = d.reg .kvp 0 0x140 ∧
    (d.flag .kvp 0 0x160 31 = false → (d.commitRefused why l h).reg .kvp 0 0x160 = 2 ^ 31 + why * 2 ^ 24 + l * 2 ^ 17 + h) := by
  have h1 := (d.bump .kvp 0 0x144 1).flag_sticky_self .kvp 0 (b := 3) (by decide) 3
  have h2 : ∀ o ∈ [0x140, 0x160], ((d.bump .kvp 0 0x144 1).sticky .kvp 0 3).reg .kvp 0 o = d.reg .kvp 0 o := by
    intro o ho
    rw [Dev.reg_sticky_ne _ _ (by simp [Page.sticky] at ho ⊢; omega) (by simp at ho ⊢; omega), Dev.reg_bump_ne _ _ (by simp at ho ⊢; omega)]
  have h3 : ((d.bump .kvp 0 0x144 1).sticky .kvp 0 3).reg .kvp 0 0x144 = satAdd (d.reg .kvp 0 0x144) 1 := by
    rw [Dev.reg_sticky_ne _ _ (by simp [Page.sticky]) (by simp), Dev.reg_bump_self]
  have h140 := h2 0x140 (by simp)
  have h160 := h2 0x160 (by simp)
  unfold Dev.commitRefused
  generalize (d.bump .kvp 0 0x144 1).sticky .kvp 0 3 = e at *
  have hf : e.flag .kvp 0 0x15C 3 = true := h1.trans (by simp)
  have h31 : e.flag .kvp 0 0x160 31 = d.flag .kvp 0 0x160 31 := congrArg (fun v => bit v 31) h160
  have hne (o : Nat) (ho : o ≠ 0x160) (v : Nat) : (e.setReg .kvp 0 0x160 v).reg .kvp 0 o = e.reg .kvp 0 o :=
    Dev.reg_setReg_off _ _ _ _ ho
  dsimp only
  split
  next hc => exact ⟨h3, hf, h140, fun hn => by rw [h31, hn] at hc; cases hc⟩
  next hc =>
    refine ⟨(hne _ (by decide) _).trans h3, ?_, (hne _ (by decide) _).trans h140, fun _ => ?_⟩
    · exact (congrArg (fun v => bit v 3) (hne 0x15C (by decide) _)).trans hf
    · rw [Dev.reg_setReg_self, Nat.mod_eq_of_lt (by omega)]

theorem hdrLayer_lt (h : List Byte) : hdrLayer h < 8 := Nat.mod_lt _ (by decide)

theorem hdrHist_lt (h : List Byte) : hdrHist h < 16384 := Nat.mod_lt _ (by decide)

theorem commitReason_lt {r : HistRec} {hdr side : List Byte} {p : Bool} {k : Nat} (h : commitReason r hdr side p = some k) : k < 6 := by
  unfold commitReason at h
  split_ifs at h <;> · obtain rfl := Option.some.inj h; decide

/-- An append stream that holds nothing is drained of nothing (R254). -/
theorem Dev.drainAppend_empty {d : Dev} {c : Nat} (hc : c < 8) (h : d.streams.toList.getD c [] = []) : d.drainAppend c = d := by
  have hs : d.streams.setIfInBounds c [] = d.streams := by
    have hc' : c < 32 := by omega
    rw [Vector.setIfInBounds_eq_set _ hc']
    refine Vector.ext fun i hi => ?_
    rw [Vector.getElem_set]
    split
    next hci =>
      subst hci
      simpa [List.getD_eq_getElem?_getD, hc'] using h.symm
    next => rfl
  unfold Dev.drainAppend
  dsimp only
  rw [h, hs]
  rfl

theorem effCommitNext_eq {lk : Locked} {d : Dev} {core : Nat} {hdr : List Byte} {pois : Bool} {cs : List KvpCmd}
    (hq : d.kvp.queue = .commit core hdr pois :: cs) (hm : d.memWaits = false)
    (hs : ∀ c, c < 8 → d.streams.toList.getD c [] = []) :
    effCommitNext lk d = (d.kvpQueue cs).kvpCommit lk core hdr pois := by
  have hd : (List.range 8).foldl (fun d c => d.drainAppend c) d = d :=
    List.foldlRecOn (motive := fun e => e = d) _ _ rfl fun e he c hc => by
      rw [he]
      exact Dev.drainAppend_empty (List.mem_range.1 hc) (hs c (List.mem_range.1 hc))
  unfold effCommitNext effCommit
  rw [hd]
  simp only [hq]
  exact Dev.kvpNext_commit hq hm

end Sys2Proof.Machine

open Sys2Proof Sys2Proof.Machine

/-- Settles O17: what a commit reads before its checks leaves the counts alone; a refusal is then counted, and an accepted
commit on a page that exists counts itself last. -/
theorem commitDecides : Obligations.CommitDecides := by
  unfold Obligations.CommitDecides
  intro s core hdr pois cs hq hm hs d0 h l r d1 e ent d2 side why
  have hx : exec .commit s = .next (s.onLk effCommitNext) := rfl
  have heff : effCommitNext s.lk s.d = d0.kvpCommit s.lk core hdr pois := effCommitNext_eq hq hm hs
  have hk := d0.commitKeeps_kvpCommit s.lk core hdr pois
  have hst := d0.kvpStays_commitReads s.lk hdr
  have hside : (d0.commitReads s.lk hdr).side.1 = side := by
    unfold Dev.commitReads
    exact apply_ite Prod.fst ..
  have hwhy : d0.commitWhy s.lk core hdr pois = why := by
    unfold Dev.commitWhy
    rw [hside]
    rfl
  have hent : (d0.commitReads s.lk hdr).ent = ent := rfl
  have hreg0 (o : Nat) (ho : (Page.base .kvp 0 + o) ∉ kvpRegs.map RegAt.addr) :
      (d0.commitReads s.lk hdr).side.2.2.reg .kvp 0 o = s.d.reg .kvp 0 o := hst.regs _ _ _ ho
  have hpost (e : Dev) (sub h l : Nat) (fs : List (Nat × Nat × Nat)) (o : Nat) (ho : (Page.base .kvp 0 + o) ∉ evtRegs.map RegAt.addr) :
      (e.kvpPost sub h l fs).reg .kvp 0 o = e.reg .kvp 0 o := e.keepsRegs_post _ _ _ _ _ _ (List.Subset.refl _) _ _ _ ho
  refine ⟨_, exec_onLk hx heff, rfl, rfl, ?_, hk.cores, fun k hy => ?_, fun hn hb => ?_⟩
  · exact congrArg KvpSt.queue hk.kvp
  · rw [hy] at hwhy
    have hk6 := commitReason_lt (show commitReason _ _ _ _ = some k from hwhy)
    obtain ⟨c1, c2, c3, c4⟩ := (d0.commitReads s.lk hdr).side.2.2.commitRefused_spec (why := k) (l := hdrLayer hdr) (h := hdrHist hdr)
      (by omega) (by have := hdrLayer_lt hdr; omega) (by have := hdrHist_lt hdr; omega)
    have h160 := hreg0 0x160 (by decide +kernel)
    rw [hreg0 0x144 (by decide +kernel)] at c1
    rw [hreg0 0x140 (by decide +kernel)] at c3
    have h31 : (d0.commitReads s.lk hdr).side.2.2.flag .kvp 0 0x160 31 = s.d.flag .kvp 0 0x160 31 := congrArg (fun v => bit v 31) h160
    rw [h31] at c4
    rw [Dev.kvpCommit_refused hwhy]
    generalize (d0.commitReads s.lk hdr).side.2.2.commitRefused k (hdrLayer hdr) (hdrHist hdr) = e at *
    refine ⟨?_, ?_, ?_, fun hno => ?_⟩
    · exact (hpost _ _ _ _ _ _ (by decide +kernel)).trans c1
    · exact (congrArg (fun v => bit v 3) (hpost _ _ _ _ _ 0x15C (by decide +kernel))).trans c2
    · exact (hpost _ _ _ _ _ _ (by decide +kernel)).trans c3
    · exact (hpost _ _ _ _ _ _ (by decide +kernel)).trans (c4 hno)
  · rw [hn] at hwhy
    obtain ⟨stg, he⟩ := Dev.kvpCommit_accepted hwhy (hent ▸ hb)
    obtain ⟨e', he1, he2⟩ := Dev.commitOn_spec s.lk (d0.commitReads s.lk hdr).side.2.2 (d0.commitReads s.lk hdr).r hdr stg
      ((d0.commitReads s.lk hdr).ent % 2 ^ 24) (d0.commitReads s.lk hdr).side.1 (d0.commitReads s.lk hdr).side.2.1
    have hr (o : Nat) (ho : (Page.base .kvp 0 + o) ∉ kvpRegs.map RegAt.addr) : e'.reg .kvp 0 o = s.d.reg .kvp 0 o :=
      (he1.regs _ _ _ ho).trans (hreg0 o ho)
    have h140 := hr 0x140 (by decide +kernel)
    have h144 := hr 0x144 (by decide +kernel)
    dsimp only
    rw [he, he2, Dev.reg_bump_self, Dev.reg_bump_ne _ _ (by simp), h140, h144]
    exact ⟨rfl, rfl⟩

end

section
/-! SUPPORT. Builds and swaps of the banks of both chains (O18). -/

namespace Sys2Proof.Machine

/-! ### What the slot grid and the banks are read from -/

theorem Dev.slotNow_congr {d e : Dev} (ht : e.tim = d.tim) (h110 : e.reg .tim 0 0x110 = d.reg .tim 0 0x110)
    (h120 : e.reg .tim 0 0x120 = d.reg .tim 0 0x120) (mu : Nat) : e.slotNow mu = d.slotNow mu := by
  have hsym (mu s n : Nat) : e.symStart mu s n = d.symStart mu s n := by simp only [Dev.symStart, h120]
  have hns : e.ns = d.ns := by simp only [Dev.ns, ht]
  have hgrid : e.gridOn = d.gridOn := by simp only [Dev.gridOn, Dev.flag, h110]
  simp only [Dev.slotNow, hgrid, hns, hsym, ht]

/-- The slot of a swap is read from the counter, the grid and the active bank (R283). -/
theorem Dev.swapSlot_congr {d e : Dev} {tx : Bool} {c : Nat} (ht : e.tim = d.tim) (hb : e.tbl = d.tbl)
    (h110 : e.reg .tim 0 0x110 = d.reg .tim 0 0x110) (h120 : e.reg .tim 0 0x120 = d.reg .tim 0 0x120)
    (ha : e.flag (chainPage tx) 0 0x110 c = d.flag (chainPage tx) 0 0x110 c) (target : Nat) :
    e.swapSlot tx c target = d.swapSlot tx c target := by
  have hmu : e.swapMu tx c = d.swapMu tx c := by
    have hcell (k : Nat) : e.cellBank tx c k = d.cellBank tx c k := by simp only [Dev.cellBank, hb]
    have hact : e.activeBank tx c = d.activeBank tx c := by simp only [Dev.activeBank, ha]
    unfold Dev.swapMu Dev.activeCell
    rw [hact, hcell, hcell]
  have hn := Dev.slotNow_congr ht h110 h120 (d.swapMu tx c)
  have htick (t : Nat) : e.inTick t = d.inTick t := by simp only [Dev.inTick, Dev.ns, ht]
  have hsym (mu s n : Nat) : e.symStart mu s n = d.symStart mu s n := by simp only [Dev.symStart, h120]
  have habs : e.absSlot (d.swapMu tx c) target = d.absSlot (d.swapMu tx c) target := by
    unfold Dev.absSlot
    rw [hn]
  unfold Dev.swapSlot
  dsimp only
  rw [hmu, hn, habs]
  simp only [htick, hsym]

theorem chainPage_base (tx : Bool) : (chainPage tx).base 0 = if tx then 0x40000 else 0x30000 := by cases tx <;> rfl

theorem Dev.swapSlot_setReg (d : Dev) (tx : Bool) (c target v : Nat) :
    (d.setReg (chainPage tx) 0 0x10C v).swapSlot tx c target = d.swapSlot tx c target := by
  have hpage := chainPage_base tx
  have ht (o : Nat) (ho : o < 0x1000) : (d.setReg (chainPage tx) 0 0x10C v).reg .tim 0 o = d.reg .tim 0 o :=
    Dev.reg_setReg_ne d v (by rw [hpage]; split <;> simp <;> omega)
  have ha : (d.setReg (chainPage tx) 0 0x10C v).flag (chainPage tx) 0 0x110 c = d.flag (chainPage tx) 0 0x110 c :=
    congrArg (fun w => bit w c) (Dev.reg_setReg_off d (chainPage tx) 0 v (by decide))
  exact Dev.swapSlot_congr (d := d) (e := d.setReg (chainPage tx) 0 0x10C v) rfl rfl (ht _ (by decide)) (ht _ (by decide)) ha target

/-! ### The swap state of a chain -/

@[simp] theorem Dev.sw_setSw_self (d : Dev) (tx : Bool) (x : SwapSt) : (d.setSw tx x).sw tx = x := by cases tx <;> rfl

@[simp] theorem Dev.sw_setSw_other (d : Dev) (tx : Bool) (x : SwapSt) : (d.setSw tx x).sw (!tx) = d.sw (!tx) := by cases tx <;> rfl

@[simp] theorem Dev.cores_setSw (d : Dev) (tx : Bool) (x : SwapSt) : (d.setSw tx x).cores = d.cores := by cases tx <;> rfl

@[simp] theorem Dev.tbl_setSw (d : Dev) (tx : Bool) (x : SwapSt) : (d.setSw tx x).tbl = d.tbl := by cases tx <;> rfl

@[simp] theorem Dev.rg_setSw (d : Dev) (tx : Bool) (x : SwapSt) : (d.setSw tx x).rg = d.rg := by cases tx <;> rfl

/-- What the swaps of a chain leave alone besides the registers: the cores, the tables and the swap state of both chains. -/
structure Dev.swapKeeps (d e : Dev) : Prop where
  cores : e.cores = d.cores
  tbl : e.tbl = d.tbl
  sw : ∀ tx, e.sw tx = d.sw tx

theorem Dev.swapKeeps.refl (d : Dev) : d.swapKeeps d := ⟨rfl, rfl, fun _ => rfl⟩

theorem Dev.swapKeeps.trans {a b c : Dev} (h : a.swapKeeps b) (k : b.swapKeeps c) : a.swapKeeps c :=
  ⟨k.cores.trans h.cores, k.tbl.trans h.tbl, fun tx => (k.sw tx).trans (h.sw tx)⟩

theorem Dev.swapKeeps_of_regs {d e : Dev} (h : d.regsOnly e) : d.swapKeeps e := by
  unfold Dev.regsOnly at h
  generalize e.rg = r at h
  subst h
  exact ⟨rfl, rfl, fun tx => by cases tx <;> rfl⟩

theorem Dev.swapKeeps_post (d : Dev) (p : Page) (n src sub inst : Nat) (bs : List Byte) : d.swapKeeps (d.post p n src sub inst bs) := by
  have h := d.post_shape p n src sub inst bs
  generalize d.post p n src sub inst bs = e at *
  generalize e.rg = r at h
  generalize e.pci = p at h
  subst h
  exact ⟨rfl, rfl, fun tx => by cases tx <;> rfl⟩

theorem Dev.swapKeeps_startCell (d : Dev) (tx : Bool) (c now : Nat) : d.swapKeeps (Dev.startCell tx c now d) := by
  cases tx
  · exact ⟨rfl, rfl, fun tx => by cases tx <;> rfl⟩
  · exact ⟨rfl, rfl, fun tx => by cases tx <;> rfl⟩

theorem Dev.rg_startCell (d : Dev) (tx : Bool) (c now : Nat) : (Dev.startCell tx c now d).rg = d.rg := by cases tx <;> rfl

/-! ### GO, the end of a build, and the swap (R281, R282, R283) -/

theorem Dev.blockWrite_rxcSwap {d : Dev} (lk : Locked) {v : Nat} (h : bit v 31 = true) :
    d.blockWrite lk .rxc 0 0x104 v = effSwapGo false (v % 32) d := by
  simp only [Dev.blockWrite]
  exact if_pos h

theorem buildResult_lt (d : Dev) (tx : Bool) (c : Nat) : d.buildResult tx c < 5 := by
  unfold Dev.buildResult
  dsimp only
  split_ifs <;> decide

theorem evtRegs_high : ∀ a ∈ evtRegs.map RegAt.addr, 0xC0000 ≤ a := by decide +kernel

/-- An event touches no register of a chain. -/
theorem Dev.chainReg_post (d : Dev) (tx : Bool) {o : Nat} (ho : o < 0x1000) (p : Page) (n src sub inst : Nat) (bs : List Byte) :
    (d.post p n src sub inst bs).reg (chainPage tx) 0 o = d.reg (chainPage tx) 0 o :=
  d.keepsRegs_post _ _ _ _ _ _ (List.Subset.refl _) _ _ _ fun hm => by
    have := evtRegs_high _ hm
    rw [chainPage_base] at this
    split at this <;> omega

/-- The intake deadlines of a transmit cell count from slot `first` on (R324). -/
def Dev.setIntake (d : Dev) (c first : Nat) : Dev :=
  { d with txc := { d.txc with nextIntake := (d.txc.nextIntake.filter (·.1 != c)) ++ [(c, first)] } }

theorem Dev.swapKeeps_setIntake (d : Dev) (c first : Nat) : d.swapKeeps (d.setIntake c first) := ⟨rfl, rfl, fun tx => by cases tx <;> rfl⟩

/-- The device once the build of cell `c` has ended with result `r`, and the swaps `ready` are pending. -/
def Dev.built (d : Dev) (tx : Bool) (c r : Nat) (ready : List (Nat × Nat)) : Dev :=
  (d.setReg (chainPage tx) 0 0x10C (r * 2 ^ 24 + c)).setSw tx { d.sw tx with build := none, ready := ready }

theorem effBuildDone_ready {d : Dev} {tx : Bool} {c g : Nat} (h : (d.sw tx).build = some (c, g)) (hr : d.buildResult tx c = 0) :
    ∃ (b : Bool) (n : Nat), effBuildDone tx d =
      (if b then (d.built tx c 0 ((d.sw tx).ready.filter (·.1 != c) ++ [(c, d.swapSlot tx c g)])).setIntake c n
       else d.built tx c 0 ((d.sw tx).ready.filter (·.1 != c) ++ [(c, d.swapSlot tx c g)])).setFld (chainPage tx) 0 0x118 c c 1 := by
  have hslot := d.swapSlot_setReg tx c g (0 * 2 ^ 24 + c)
  unfold effBuildDone
  simp only [h, hr, if_true, hslot]
  exact ⟨_, _, rfl⟩

theorem effBuildDone_cancelled {d : Dev} {tx : Bool} {c g : Nat} (h : (d.sw tx).build = some (c, g)) (hr : d.buildResult tx c ≠ 0) :
    effBuildDone tx d = ((d.built tx c (d.buildResult tx c) ((d.sw tx).ready.filter (·.1 != c))).setFld (chainPage tx) 0 0x118 c c 0).post
      (chainPage tx) 0 (chainSrc tx) 3 0 (layout 20 [(0, 1, c), (1, 1, d.buildResult tx c)]) := by
  unfold effBuildDone
  simp only [h, hr, if_false]
  rfl

theorem Dev.built_spec (d : Dev) (tx : Bool) {c r : Nat} (hc : c < 32) (hr : r < 5) (ready : List (Nat × Nat)) :
    (d.built tx c r ready).cores = d.cores ∧ (d.built tx c r ready).sw (!tx) = d.sw (!tx) ∧
    (d.built tx c r ready).sw tx = { d.sw tx with build := none, ready := ready } ∧
    (d.built tx c r ready).reg (chainPage tx) 0 0x10C = r * 2 ^ 24 + c := by
  have hk := Dev.swapKeeps_of_regs (d.setReg_regsOnly (chainPage tx) 0 0x10C (r * 2 ^ 24 + c))
  have hreg := d.reg_setReg_self (chainPage tx) 0 0x10C (r * 2 ^ 24 + c)
  unfold Dev.built
  generalize d.setReg (chainPage tx) 0 0x10C (r * 2 ^ 24 + c) = e at *
  refine ⟨by rw [Dev.cores_setSw, hk.cores], by rw [Dev.sw_setSw_other, hk.sw], by rw [Dev.sw_setSw_self], ?_⟩
  rw [Dev.reg_congr (Dev.rg_setSw e tx _), hreg, Nat.mod_eq_of_lt (by omega)]

/-- What SWAP_READY and the swap state show after it is set, whatever follows that touches no register of a chain. -/
theorem Dev.setReady_spec (d : Dev) (tx : Bool) {c : Nat} (hc : c < 32) (v : Nat) :
    d.swapKeeps (d.setFld (chainPage tx) 0 0x118 c c v) ∧
    (d.setFld (chainPage tx) 0 0x118 c c v).flag (chainPage tx) 0 0x118 c = v.testBit 0 ∧
    (d.setFld (chainPage tx) 0 0x118 c c v).reg (chainPage tx) 0 0x10C = d.reg (chainPage tx) 0 0x10C := by
  refine ⟨Dev.swapKeeps_of_regs (d.setFld_regsOnly ..), ?_, Dev.reg_setReg_off _ _ _ _ (by decide)⟩
  rw [Dev.flag_setFld_self _ _ _ _ _ _ _ _ (by omega) hc, if_pos ⟨le_refl _, le_refl _⟩, Nat.sub_self]

/-- What the end of a build leaves (R282). -/
theorem effBuildDone_spec {d : Dev} {tx : Bool} {c g : Nat} (h : (d.sw tx).build = some (c, g)) (hc : c < 32) :
    (effBuildDone tx d).cores = d.cores ∧ (effBuildDone tx d).sw (!tx) = d.sw (!tx) ∧
    (effBuildDone tx d).sw tx = { d.sw tx with
      build := none
      ready := (d.sw tx).ready.filter (·.1 != c) ++ if d.buildResult tx c = 0 then [(c, d.swapSlot tx c g)] else [] } ∧
    (effBuildDone tx d).reg (chainPage tx) 0 0x10C = d.buildResult tx c * 2 ^ 24 + c ∧
    (effBuildDone tx d).flag (chainPage tx) 0 0x118 c = (d.buildResult tx c == 0) := by
  by_cases hr : d.buildResult tx c = 0
  · obtain ⟨b, n, he⟩ := effBuildDone_ready h hr
    obtain ⟨b1, b2, b3, b4⟩ := d.built_spec tx hc (r := 0) (by decide) ((d.sw tx).ready.filter (·.1 != c) ++ [(c, d.swapSlot tx c g)])
    rw [he, hr]
    generalize d.built tx c 0 ((d.sw tx).ready.filter (·.1 != c) ++ [(c, d.swapSlot tx c g)]) = e at *
    have hi : e.swapKeeps (if b then e.setIntake c n else e) ∧ (if b then e.setIntake c n else e).rg = e.rg := by
      cases b
      · exact ⟨.refl e, rfl⟩
      · exact ⟨e.swapKeeps_setIntake c n, rfl⟩
    generalize (if b then e.setIntake c n else e) = f at *
    obtain ⟨s1, s2, s3⟩ := f.setReady_spec tx hc 1
    have hk := hi.1.trans s1
    exact ⟨hk.cores.trans b1, (hk.sw _).trans b2, (hk.sw _).trans b3, (s3.trans (Dev.reg_congr hi.2 ..)).trans b4, s2⟩
  · obtain ⟨b1, b2, b3, b4⟩ := d.built_spec tx hc (buildResult_lt d tx c) ((d.sw tx).ready.filter (·.1 != c))
    rw [effBuildDone_cancelled h hr, if_neg hr]
    generalize d.built tx c (d.buildResult tx c) ((d.sw tx).ready.filter (·.1 != c)) = e at *
    obtain ⟨s1, s2, s3⟩ := e.setReady_spec tx hc 0
    generalize e.setFld (chainPage tx) 0 0x118 c c 0 = f at *
    have hk := s1.trans (f.swapKeeps_post (chainPage tx) 0 (chainSrc tx) 3 0 (layout 20 [(0, 1, c), (1, 1, d.buildResult tx c)]))
    refine ⟨hk.cores.trans b1, (hk.sw _).trans b2, ?_, ((f.chainReg_post tx (by decide) ..).trans s3).trans b4, ?_⟩
    · rw [hk.sw, b3, List.append_nil]
    · refine (congrArg (fun v => bit v c) (f.chainReg_post tx (o := 0x118) (by decide) ..)).trans (s2.trans ?_)
      simp [hr]

/-! ### SWAP_DONE -/

/-- The swap state of a chain once cell `c` has swapped at slot `t`. -/
def Dev.swapped (d : Dev) (tx : Bool) (c t : Nat) : SwapSt :=
  { d.sw tx with
    ready := (d.sw tx).ready.filter (·.1 != c)
    streamBank := (d.cellStreams tx c).foldl (fun m i => m ^^^ 2 ^ i) (d.sw tx).streamBank
    since := ((d.sw tx).since.filter fun x => x.1 != c || decide (t < x.2.2.1 + 64)) ++ [(c, t, d.newSlot tx c t, d.cellStreams tx c)]
    passed := (d.sw tx).passed.filter (·.1 != c) }

theorem effSwapDone_eq {d : Dev} {tx : Bool} {c now t : Nat} (hn : d.slotNow (d.swapMu tx c) = some now)
    (hr : (d.sw tx).ready.find? (·.1 == c) = some (c, t)) (ht : t ≤ now) :
    ∃ (w b : Bool) (sub : Nat) (bs : List Byte), effSwapDone tx c d =
      (let e := ((d.setSw tx (d.swapped tx c t)).setFld (chainPage tx) 0 0x110 c c (1 - d.activeBank tx c)).setFld (chainPage tx) 0 0x118 c c 0
       let f := if w then e.setFld (chainPage tx) 0 0x114 c c 0 else e
       if b then Dev.startCell tx c (d.newSlot tx c t) f else f).post (chainPage tx) 0 (chainSrc tx) sub 0 bs := by
  unfold effSwapDone
  simp only [hn, hr, if_neg (Nat.not_lt.2 ht)]
  exact ⟨_, _, _, _, rfl⟩

/-- What a swap leaves (R283). -/
theorem effSwapDone_spec {d : Dev} {tx : Bool} {c now t : Nat} (hc : c < 32) (hn : d.slotNow (d.swapMu tx c) = some now)
    (hr : (d.sw tx).ready.find? (·.1 == c) = some (c, t)) (ht : t ≤ now) :
    (d.setSw tx (d.swapped tx c t)).swapKeeps (effSwapDone tx c d) ∧
    (effSwapDone tx c d).flag (chainPage tx) 0 0x110 c = !d.flag (chainPage tx) 0 0x110 c ∧
    (effSwapDone tx c d).flag (chainPage tx) 0 0x118 c = false := by
  obtain ⟨w, b, sub, bs, he⟩ := effSwapDone_eq hn hr ht
  have hact : (1 - d.activeBank tx c).testBit 0 = !d.flag (chainPage tx) 0 0x110 c := by
    unfold Dev.activeBank
    cases d.flag (chainPage tx) 0 0x110 c <;> rfl
  have hset (e : Dev) {o p : Nat} (hop : o ≠ p) (v : Nat) : (e.setFld (chainPage tx) 0 p c c v).flag (chainPage tx) 0 o c =
      e.flag (chainPage tx) 0 o c := congrArg (fun v => bit v c) (Dev.reg_setReg_off _ _ _ _ hop)
  have hself (e : Dev) (o v : Nat) : (e.setFld (chainPage tx) 0 o c c v).flag (chainPage tx) 0 o c = v.testBit 0 := by
    rw [Dev.flag_setFld_self _ _ _ _ _ _ _ _ (by omega) hc, if_pos ⟨le_refl _, le_refl _⟩, Nat.sub_self]
  have hfld (e : Dev) (o v : Nat) : e.swapKeeps (e.setFld (chainPage tx) 0 o c c v) := Dev.swapKeeps_of_regs (Dev.setFld_regsOnly ..)
  rw [he]
  generalize d.setSw tx (d.swapped tx c t) = e0
  have k1 := (hfld e0 0x110 (1 - d.activeBank tx c)).trans (hfld _ 0x118 0)
  have f1 := ((hset (e0.setFld (chainPage tx) 0 0x110 c c (1 - d.activeBank tx c)) (o := 0x110) (p := 0x118) (by decide) 0).trans
    (hself e0 0x110 _)).trans hact
  have g1 := hself (e0.setFld (chainPage tx) 0 0x110 c c (1 - d.activeBank tx c)) 0x118 0
  generalize (e0.setFld (chainPage tx) 0 0x110 c c (1 - d.activeBank tx c)).setFld (chainPage tx) 0 0x118 c c 0 = e1 at *
  dsimp only
  have hw : e1.swapKeeps (if w then e1.setFld (chainPage tx) 0 0x114 c c 0 else e1) ∧ ∀ o, o ≠ 0x114 →
      (if w then e1.setFld (chainPage tx) 0 0x114 c c 0 else e1).flag (chainPage tx) 0 o c = e1.flag (chainPage tx) 0 o c := by
    cases w
    · exact ⟨.refl e1, fun _ _ => rfl⟩
    · exact ⟨hfld .., fun o ho => hset e1 ho 0⟩
  generalize (if w then e1.setFld (chainPage tx) 0 0x114 c c 0 else e1) = e2 at *
  have hs : e2.swapKeeps (if b then Dev.startCell tx c (d.newSlot tx c t) e2 else e2) ∧
      (if b then Dev.startCell tx c (d.newSlot tx c t) e2 else e2).rg = e2.rg := by
    cases b
    · exact ⟨.refl e2, rfl⟩
    · exact ⟨e2.swapKeeps_startCell .., e2.rg_startCell ..⟩
  generalize (if b then Dev.startCell tx c (d.newSlot tx c t) e2 else e2) = e3 at *
  have hpost (o : Nat) (ho : o < 0x1000) : (e3.post (chainPage tx) 0 (chainSrc tx) sub 0 bs).flag (chainPage tx) 0 o c =
      e2.flag (chainPage tx) 0 o c :=
    (congrArg (fun v => bit v c) (e3.chainReg_post tx ho ..)).trans (Dev.flag_congr hs.2 ..)
  exact ⟨((k1.trans hw.1).trans hs.1).trans (e3.swapKeeps_post ..), ((hpost _ (by decide)).trans (hw.2 _ (by decide))).trans f1,
    ((hpost _ (by decide)).trans (hw.2 _ (by decide))).trans (g1.trans (by decide))⟩

end Sys2Proof.Machine

open Sys2Proof Sys2Proof.Machine

/-- Settles O18: the end of a build and a swap are the changes of the swap state and of three registers of their chain, and
what follows them, an event or a cell that starts, touches neither. -/
theorem bankSwaps : Obligations.BankSwaps := by
  unfold Obligations.BankSwaps
  refine ⟨fun s w v ht hv => ?go, fun s tx c g h hc => ?build, fun s tx c now g hn hr hg => ?swap⟩
  case go =>
    have hx := exec_blockWrite (s := s) (i := .rxcSwap w v) rfl ht (by simp [Page.hasInst]) v.isLt (by decide) (fun _ => by decide)
      (by simp) (by simp)
    rw [Dev.blockWrite_rxcSwap _ hv] at hx
    by_cases hb : s.d.rxc.sw.build = none
    · have he : effSwapGo false (v.toNat % 32) s.d =
          (s.d.setSw false { s.d.rxc.sw with build := some (v.toNat % 32, s.d.reg .rxc 0 0x108) }).setReg .rxc 0 0x10C
            (2 ^ 31 + s.d.fld .rxc 0 0x10C 27 24 * 2 ^ 24 + v.toNat % 32) := by
        have hno : (s.d.sw false).build.isSome = false := by
          change s.d.rxc.sw.build.isSome = false
          rw [hb]
          rfl
        unfold effSwapGo
        simp only [hno, Bool.false_eq_true, if_false]
        rfl
      rw [he] at hx
      have h4 : s.d.fld .rxc 0 0x10C 27 24 < 2 ^ 4 := Nat.mod_lt _ (by decide)
      have hreg := (s.d.setSw false { s.d.rxc.sw with build := some (v.toNat % 32, s.d.reg .rxc 0 0x108) }).reg_setReg_self .rxc 0 0x10C
        (2 ^ 31 + s.d.fld .rxc 0 0x10C 27 24 * 2 ^ 24 + v.toNat % 32)
      have hlt : 2 ^ 31 + s.d.fld .rxc 0 0x10C 27 24 * 2 ^ 24 + v.toNat % 32 < 2 ^ 32 := by omega
      rw [Nat.mod_eq_of_lt hlt] at hreg
      refine ⟨_, hx, rfl, fun _ => ⟨rfl, ?_, ?_, ?_⟩, fun h => absurd hb h⟩
      · refine (congrArg (fun v => bit v 31) hreg).trans ?_
        simp only [bit, Nat.testBit_eq_decide_div_mod_eq, decide_eq_true_eq]
        omega
      · refine (congrArg (fun v => bits v 4 0) hreg).trans ?_
        simp only [bits, Nat.shiftRight_zero]
        omega
      · exact Dev.keepsRegs.trans (Dev.keepsRegs_of_rg (Dev.rg_setSw ..) _) (Dev.keepsRegs_setReg _ _ _ _ _ (by simp))
    · have he : effSwapGo false (v.toNat % 32) s.d = s.d.err .rxc 0 errState 0x104 := by
        have hyes : (s.d.sw false).build.isSome = true := Option.isSome_iff_ne_none.2 hb
        unfold effSwapGo
        simp only [hyes, if_true]
        rfl
      rw [he] at hx
      have hro := s.d.err_regsOnly .rxc 0 errState 0x104
      have h2c := s.d.reg_err_2C .rxc 0 errState 0x104
      have hkeep := s.d.keepsRegs_err .rxc 0 errState 0x104 (l := [(.rxc, 0, 0x02C), (.rxc, 0, 0x028)]) (by simp) (by simp)
      generalize s.d.err .rxc 0 errState 0x104 = e at *
      obtain ⟨r, rfl⟩ : ∃ r, e = { s.d with rg := r } := ⟨_, hro⟩
      exact ⟨_, hx, rfl, fun h => absurd h hb, fun _ => ⟨rfl, h2c, hkeep⟩⟩
  case build =>
    intro r
    obtain ⟨b1, b2, b3, b4, b5⟩ := effBuildDone_spec h hc
    refine ⟨_, exec_onDev (s := s) (i := .buildDone tx) (f := effBuildDone tx) rfl rfl, rfl, rfl, b1, ?_, b2, b4, b5, fun h0 => ?_,
      fun h0 x hx => ?_⟩
    · exact congrArg SwapSt.build b3
    · rw [if_pos h0] at b3
      rw [b3]
      exact List.mem_append_right _ (List.mem_singleton.2 rfl)
    · rw [if_neg h0, List.append_nil] at b3
      have hx' : x ∈ (s.d.sw tx).ready.filter (·.1 != c) := by
        rw [b3] at hx
        exact hx
      simpa using (List.mem_filter.1 hx').2
  case swap =>
    obtain ⟨hk, f1, f2⟩ := effSwapDone_spec c.isLt hn hr hg
    refine ⟨_, exec_onDev (s := s) (i := .swapDone tx c) (f := effSwapDone tx c.val) rfl rfl, rfl, rfl,
      hk.cores.trans (Dev.cores_setSw ..), hk.tbl.trans (Dev.tbl_setSw ..), f1, f2, ?_, ?_⟩
    · dsimp only
      rw [hk.sw, Dev.sw_setSw_self]
      refine List.find?_eq_none.2 fun x hx => ?_
      simpa using (List.mem_filter.1 hx).2
    · dsimp only
      rw [hk.sw, Dev.sw_setSw_other]

end

section
/-! SUPPORT. Code blocks through the queues, the engines and the staging of the decoder farm (O19). -/

namespace Sys2Proof.Machine

/-! ### Engines -/

theorem Dev.engine_set (d : Dev) {n : Nat} (hn : n < 12) (l : List Blk) (m : Nat) :
    (d.setEngine n l).engine m = if m = n then l else d.engine m := by
  unfold Dev.setEngine Dev.engine
  dsimp only
  split
  next h =>
    subst h
    exact getD_setIfInBounds_self _ _ _ hn
  next h => simp [Vector.toList_setIfInBounds, List.getD_eq_getElem?_getD, Ne.symm h]

theorem Dev.engine_of_fec {d e : Dev} (h : e.fec = d.fec) (n : Nat) : e.engine n = d.engine n := by
  unfold Dev.engine
  rw [h]

theorem Dev.engine_high {d : Dev} {n : Nat} (hn : 12 ≤ n) : d.engine n = [] := by
  unfold Dev.engine
  simp [List.getD_eq_getElem?_getD, hn]

/-! ### The queue of a code (R308, R344) -/

/-- The farm with a block behind the queue of its code. -/
def FecSt.queued (f : FecSt) (b : Blk) : FecSt :=
  if gCode b.entry = 2 then { f with qT := f.qT ++ [b] } else { f with qL := f.qL ++ [b] }

theorem effCodeBlockQueued_eq {d : Dev} {c s g r : Nat} {rest : List (Nat × Nat × Nat × Nat)} {gr : GrantSt}
    (h : d.rxc.complete = (c, s, g, r) :: rest) (hg : (d.rxSlot c s).grants.find? (·.num == g) = some gr)
    (hq : (if gCode gr.bytes = 2 then d.fec.qT else d.fec.qL).length < 4096) :
    ∃ x : RxcSt, x.complete = rest ∧ effCodeBlockQueued d =
      ({ d with rxc := x, fec := d.fec.queued { cell := c, slot := s, grant := g, cb := r, entry := gr.bytes } } : Dev).bump .hq 0 0x100 1 := by
  unfold effCodeBlockQueued
  rw [h]
  dsimp only
  rw [hg]
  dsimp only
  by_cases hc : gCode gr.bytes = 2
  · rw [if_pos hc] at hq
    simp only [hc, decide_true, if_true, if_neg (Nat.not_le.2 hq), FecSt.queued]
    exact ⟨_, rfl, rfl⟩
  · rw [if_neg hc] at hq
    simp only [hc, decide_false, Bool.false_eq_true, if_false, if_neg (Nat.not_le.2 hq), FecSt.queued]
    exact ⟨_, rfl, rfl⟩

/-! ### Assignment (R345) -/

theorem foldl_min_eq {l : List Nat} {k : Nat} : ∀ a, (∀ x ∈ l, k ≤ x) → k ≤ a → (k ∈ l ∨ k = a) → l.foldl min a = k := by
  induction l with
  | nil => 
    intro a _ _ h
    rcases h with h | h
    · cases h
    · exact h.symm
  | cons y l ih =>
    intro a hl ha h
    rw [List.foldl_cons]
    have hy := hl y List.mem_cons_self
    refine ih _ (fun x hx => hl x (List.mem_cons_of_mem _ hx)) (le_min ha hy) ?_
    rcases h with h | h
    · rcases List.mem_cons.1 h with rfl | h
      · exact .inr (by omega)
      · exact .inl h
    · exact .inr (by omega)

/-- The first of a list of numbers with the least value. -/
theorem find?_least {es : List Nat} {f : Nat → Nat} {n : Nat} (hn : n ∈ es) (hs : es.Pairwise (· < ·))
    (hmin : ∀ m ∈ es, m < n → f n < f m) : (es.find? fun m => f m == f n) = some n := by
  induction es with
  | nil => cases hn
  | cons e es ih =>
    rw [List.pairwise_cons] at hs
    rw [List.find?_cons]
    rcases List.mem_cons.1 hn with rfl | hn'
    · simp
    · have hlt := hmin e List.mem_cons_self (hs.1 n hn')
      rw [show (f e == f n) = false by simp; omega]
      exact ih hn' hs.2 fun m hm => hmin m (List.mem_cons_of_mem _ hm)

/-- The engines of a code. -/
def enginesOf (turbo : Bool) : List Nat := if turbo then rangeFrom 8 4 else List.range 8

theorem enginesOf_rising (turbo : Bool) : (enginesOf turbo).Pairwise (· < ·) := by cases turbo <;> decide

theorem enginesOf_lt {turbo : Bool} {n : Nat} (h : n ∈ enginesOf turbo) : n < 12 := by
  have : ∀ m ∈ enginesOf turbo, m < 12 := by cases turbo <;> decide
  exact this n h

/-- The farm with the head of a queue taken, as the next block in the order of assignment. -/
def FecSt.taken (f : FecSt) (turbo : Bool) (rest : List Blk) : FecSt :=
  { (if turbo then { f with qT := rest } else { f with qL := rest }) with asg := f.asg + 1 }

theorem effCodeBlockAssign_eq {d : Dev} {turbo : Bool} {b : Blk} {rest : List Blk} {n : Nat}
    (hq : (if turbo then d.fec.qT else d.fec.qL) = b :: rest) (hon : d.fecOn = true) (hn : n ∈ enginesOf turbo)
    (h3 : (d.engine n).length < 3)
    (hmin : ∀ m ∈ enginesOf turbo, (d.engine n).length ≤ (d.engine m).length ∧ (m < n → (d.engine n).length < (d.engine m).length)) :
    effCodeBlockAssign turbo d =
      ({ d with fec := d.fec.taken turbo rest } : Dev).setEngine n (d.engine n ++ [{ b with asg := d.fec.asg + 1 }]) := by
  have hleast : ((enginesOf turbo).map fun m => (d.engine m).length).foldl min 3 = (d.engine n).length := by
    refine foldl_min_eq 3 (fun x hx => ?_) (by omega) (.inl (List.mem_map.2 ⟨n, hn, rfl⟩))
    obtain ⟨m, hm, rfl⟩ := List.mem_map.1 hx
    exact (hmin m hm).1
  have hfind : ((enginesOf turbo).find? fun m => (d.engine m).length == (d.engine n).length) = some n :=
    find?_least (f := fun m => (d.engine m).length) hn (enginesOf_rising turbo) fun m hm => (hmin m hm).2
  have heng : ({ d with fec := d.fec.taken turbo rest } : Dev).engine n = d.engine n := by
    unfold Dev.engine FecSt.taken
    cases turbo <;> rfl
  have hasg : (d.fec.taken turbo rest).asg = d.fec.asg + 1 := by cases turbo <;> rfl
  unfold enginesOf at hleast hfind
  unfold effCodeBlockAssign
  dsimp only
  rw [hleast, hq, hfind]
  dsimp only
  rw [if_neg (by simp [hon]; omega)]
  rw [← heng]
  rfl

/-! ### Staging, the start and the stop of a decoding (R346, R348, R352) -/

/-- The assigned blocks without a span: order of assignment, engine and block. -/
def Dev.unstaged (d : Dev) : List (Nat × Nat × Blk) :=
  (List.range 12).flatMap fun n => (d.engine n).filterMap fun b => if b.span.isNone then some (b.asg, n, b) else none

theorem Dev.mem_unstaged {d : Dev} {x : Nat × Nat × Blk} :
    x ∈ d.unstaged ↔ x.2.1 < 12 ∧ x.2.2 ∈ d.engine x.2.1 ∧ x.2.2.span = none ∧ x.1 = x.2.2.asg := by
  unfold Dev.unstaged
  rw [List.mem_flatMap]
  constructor
  · rintro ⟨n, hn, hx⟩
    obtain ⟨b, hb, he⟩ := List.mem_filterMap.1 hx
    split at he
    next hs =>
      obtain rfl := Option.some.inj he
      exact ⟨List.mem_range.1 hn, hb, by simpa using hs, rfl⟩
    next => cases he
  · obtain ⟨a, n, b⟩ := x
    rintro ⟨hn, hb, hs, ha⟩
    dsimp only at hn hb hs ha
    subst ha
    exact ⟨n, List.mem_range.2 hn, List.mem_filterMap.2 ⟨b, hb, by simp [hs]⟩⟩

/-- The earliest of them. -/
theorem Dev.unstaged_first {d : Dev} {n : Nat} {b : Blk} (hn : n < 12) (hb : b ∈ d.engine n) (hs : b.span = none)
    (hmin : ∀ m y, y ∈ d.engine m → y.span = none → (b.asg ≤ y.asg ∧ (y.asg = b.asg → m = n))) :
    ∃ b', (d.unstaged.find? fun x => d.unstaged.all fun y => decide (x.1 ≤ y.1)) = some (b.asg, n, b') := by
  have hmem : (b.asg, n, b) ∈ d.unstaged := Dev.mem_unstaged.2 ⟨hn, hb, hs, rfl⟩
  have hall : (d.unstaged.all fun y => decide (b.asg ≤ y.1)) = true := List.all_eq_true.2 fun y hy => by
    obtain ⟨-, h2, h3, h4⟩ := Dev.mem_unstaged.1 hy
    rw [h4]
    exact decide_eq_true (hmin _ _ h2 h3).1
  cases hf : d.unstaged.find? fun x => d.unstaged.all fun y => decide (x.1 ≤ y.1) with
  | none => exact absurd hall (by simpa using List.find?_eq_none.1 hf _ hmem)
  | some x =>
    obtain ⟨-, h2, h3, h4⟩ := Dev.mem_unstaged.1 (List.mem_of_find?_eq_some hf)
    have hfirst : (d.unstaged.all fun y => decide (x.1 ≤ y.1)) = true :=
      List.find?_some (p := fun x : Nat × Nat × Blk => d.unstaged.all fun y => decide (x.1 ≤ y.1)) hf
    have hle := of_decide_eq_true (List.all_eq_true.1 hfirst _ hmem)
    have hge := (hmin _ _ h2 h3).1
    have ha : x.1 = b.asg := by
      dsimp only at hle
      omega
    refine ⟨x.2.2, ?_⟩
    rw [← ha, ← (hmin _ _ h2 h3).2 (by omega)]

theorem effSpanFetched_eq {lk : Locked} {d : Dev} {a n : Nat} {b : Blk} (hon : d.fecOn = true) (hm : d.memWaits = false)
    (h : (d.unstaged.find? fun x => d.unstaged.all fun y => decide (x.1 ≤ y.1)) = some (a, n, b)) :
    ∃ (e : Dev) (sp : List Byte × List Bool), d.arrives e ∧
      effSpanFetched lk d = e.setEngine n ((e.engine n).map fun x => if x.asg == a then { x with span := some sp } else x) := by
  have hr := d.readKeeps_busRead lk .fec 0 (gSbuf b.entry + b.cb * (gSeg b.entry).cbp (gLbrm b.entry) (gNref b.entry))
    (readSpan b.entry b.cb) false
  unfold Dev.unstaged at h
  unfold effSpanFetched
  dsimp only
  rw [h]
  dsimp only
  rw [if_neg (by simp [hon, hm])]
  generalize d.busRead lk .fec 0 (gSbuf b.entry + b.cb * (gSeg b.entry).cbp (gLbrm b.entry) (gNref b.entry)) (readSpan b.entry b.cb) = r at *
  obtain ⟨bs, ps, o, e⟩ := r
  refine ⟨_, (bs, ps), ?_, rfl⟩
  dsimp only at hr ⊢
  split
  · exact hr.arrives.trans (Dev.arrives_of_regs ((e.bump_regsOnly ..).trans (Dev.sticky_regsOnly ..)))
  · exact hr.arrives

theorem effDecodeStart_eq {d : Dev} {n : Nat} {b : Blk} {rest : List Blk} (h : d.engine n = b :: rest) (hon : d.fecOn = true)
    (hs : b.span.isSome = true) (hr : b.running = false) :
    effDecodeStart n d = d.setEngine n ({ b with running := true } :: rest) := by
  unfold effDecodeStart
  rw [h]
  dsimp only
  rw [if_pos (by simp [hon, hs, hr])]

theorem Req.fec_isBlock : Req.isBlock .fec := ⟨rfl, fun _ h => by cases h⟩

/-- The registers in which a result is counted and traced. -/
def traceRegs : List RegAt := (.fec, 0, 0x118) :: busRegs

theorem Dev.keepsRegs_trace (lk : Locked) (d : Dev) (n : Nat) (b : Blk) (st : Nat) (p : Bool) (o : Decoded) :
    d.keepsRegs (d.trace lk n b st p o) traceRegs := by
  unfold Dev.trace
  split
  · exact .refl d _
  · exact ((d.blkKeeps_busStore lk Req.fec_isBlock ..).bus.regs.mono (List.subset_cons_self ..)).trans
      (Dev.keepsRegs_setReg _ _ _ _ _ List.mem_cons_self)

theorem Dev.trace_shape (lk : Locked) (d : Dev) (n : Nat) (b : Blk) (st : Nat) (p : Bool) (o : Decoded) :
    ∃ e, d.blkKeeps e ∧ e.regsOnly (d.trace lk n b st p o) := by
  unfold Dev.trace
  split
  · exact ⟨d, .refl d, .refl d⟩
  · exact ⟨_, d.blkKeeps_busStore lk Req.fec_isBlock .., Dev.setReg_regsOnly ..⟩

/-- A withdrawn block is counted, and the farm stays as it is. -/
theorem Dev.withdrawn_spec (lk : Locked) (d : Dev) (n : Nat) (b : Blk) :
    (d.withdrawn lk n b).cores = d.cores ∧ (d.withdrawn lk n b).fec = d.fec ∧
    (d.withdrawn lk n b).reg .fec 0 0x130 = satAdd (d.reg .fec 0 0x130) 1 := by
  unfold Dev.withdrawn
  extract_lets s rows
  have hb := d.bump_regsOnly .fec 0 0x130 1
  have hs := d.reg_bump_self .fec 0 0x130 1
  generalize d.bump .fec 0 0x130 1 = e at *
  obtain ⟨f, h1, h2⟩ := e.trace_shape lk n b 3 (b.span.any fun x => x.2.any id) { rows := rows }
  have hk := e.keepsRegs_trace lk n b 3 (b.span.any fun x => x.2.any id) { rows := rows }
  refine ⟨?_, ?_, ?_⟩
  · rw [h2, h1.shape, hb]
  · rw [h2, h1.shape, hb]
  · rw [hk _ _ _ (by decide +kernel), hs]

end Sys2Proof.Machine
open Sys2Proof Sys2Proof.Machine

/-- Settles O19: each event changes the queues, one engine, or the blocks of one engine, as the equations of the five events
say. -/
theorem decoderQueue : Obligations.DecoderQueue := by
  unfold Obligations.DecoderQueue
  refine ⟨?queued, ?assign, ?fetched, ?start, ?stop⟩
  case queued =>
    intro s c sl g r rest gr h hg hq b
    obtain ⟨x, hx, he⟩ := effCodeBlockQueued_eq h hg hq
    have hx' := exec_onDev (s := s) (i := .codeBlockQueued) (f := effCodeBlockQueued) rfl he
    have hf : s.d.fec.queued b = (if gCode gr.bytes = 2 then { s.d.fec with qT := s.d.fec.qT ++ [b] }
        else { s.d.fec with qL := s.d.fec.qL ++ [b] }) := rfl
    change exec .codeBlockQueued s = .next { s with d := ({ s.d with rxc := x, fec := s.d.fec.queued b } : Dev).bump .hq 0 0x100 1 } at hx'
    generalize s.d.fec.queued b = f at *
    have hb := ({ s.d with rxc := x, fec := f } : Dev).bump_regsOnly .hq 0 0x100 1
    have hs := ({ s.d with rxc := x, fec := f } : Dev).reg_bump_self .hq 0 0x100 1
    have hk := ({ s.d with rxc := x, fec := f } : Dev).keepsRegs_bump .hq 0 0x100 1 (l := [(.hq, 0, 0x100)]) (by simp)
    generalize ({ s.d with rxc := x, fec := f } : Dev).bump .hq 0 0x100 1 = e at *
    obtain ⟨rg, rfl⟩ : ∃ rg, e = { s.d with rxc := x, fec := f, rg := rg } := ⟨_, hb⟩
    exact ⟨_, hx', rfl, hx, hf, hs, hk⟩
  case assign =>
    intro s turbo b rest n es hq hon hn h3 hmin
    have he := effCodeBlockAssign_eq hq hon hn h3 hmin
    have hset := ({ s.d with fec := s.d.fec.taken turbo rest } : Dev).engine_set (enginesOf_lt hn)
      (s.d.engine n ++ [{ b with asg := s.d.fec.asg + 1 }])
    have heng (m : Nat) : ({ s.d with fec := s.d.fec.taken turbo rest } : Dev).engine m = s.d.engine m := by
      unfold Dev.engine FecSt.taken
      cases turbo <;> rfl
    refine ⟨_, exec_onDev (s := s) (i := .codeBlockAssign turbo) (f := effCodeBlockAssign turbo) rfl he, rfl, ?_, fun m hm => ?_, ?_, ?_⟩
    · exact (hset n).trans (if_pos rfl)
    · exact (hset m).trans ((if_neg hm).trans (heng m))
    · cases turbo <;> rfl
    · cases turbo <;> rfl
  case fetched =>
    intro s n b hb hs hon hm hmin
    obtain ⟨b', hfirst⟩ := Dev.unstaged_first n.isLt hb hs hmin
    obtain ⟨e, sp, ha, he⟩ := effSpanFetched_eq (lk := s.lk) hon hm hfirst
    have heng (m : Nat) : e.engine m = s.d.engine m := Dev.engine_of_fec (by rw [ha]) m
    have hset := e.engine_set n.isLt ((e.engine n).map fun x => if x.asg == b.asg then { x with span := some sp } else x)
    rw [heng] at hset he
    refine ⟨_, exec_onLk (s := s) (i := .spanFetched) (f := effSpanFetched) rfl he, ?_, fun m hm => ?_, ?_, fun x hx hxa => ?_⟩
    · obtain ⟨rg, ms, pci, wtn, rfl⟩ : ∃ rg ms pci wtn, e = { s.d with rg := rg, ms := ms, pci := pci, wtn := wtn } := ⟨_, _, _, _, ha⟩
      rfl
    · exact (hset m).trans ((if_neg hm).trans (heng m))
    · dsimp only
      rw [hset, if_pos rfl, List.map_map]
      refine List.map_congr_left fun x _ => ?_
      dsimp only [Function.comp]
      split <;> rfl
    · dsimp only at hx
      rw [hset, if_pos rfl] at hx
      obtain ⟨y, -, rfl⟩ := List.mem_map.1 hx
      by_cases hy : (y.asg == b.asg) = true
      · rw [if_pos hy]
        rfl
      · rw [if_neg hy] at hxa
        exact absurd (beq_iff_eq.2 hxa) hy
  case start =>
    intro s n b rest h hon hs hr
    have he := effDecodeStart_eq h hon hs hr
    refine ⟨_, exec_onDev (s := s) (i := .decodeStart n) (f := effDecodeStart n.val) rfl he, ?_⟩
    unfold Dev.setEngine
    rw [Vector.setIfInBounds_eq_set _ n.isLt]
  case stop =>
    intro s n b rest h hst
    have he : effDecodeStop n.val s.lk s.d = (s.d.setEngine n rest).withdrawn s.lk n b := by
      unfold effDecodeStop
      rw [h]
      exact if_pos hst
    obtain ⟨w1, w2, w3⟩ := (s.d.setEngine n rest).withdrawn_spec s.lk n b
    refine ⟨_, exec_onLk (s := s) (i := .decodeStop n) (f := effDecodeStop n.val) rfl he, rfl, rfl, w1, ?_, w3⟩
    refine w2.trans ?_
    unfold Dev.setEngine
    rw [Vector.setIfInBounds_eq_set _ n.isLt]

end

section
/-! SUPPORT. What the receive chain does between the farm and the records leaves alone; results, contributions, deadlines and
polar requests (O20). -/

namespace Sys2Proof.Machine

/-! ### The work of the receive chain leaves the cores, the streams and the farm alone -/

/-- What fixing records, closing grants and combining LLRs leave alone. -/
structure Dev.chainKeeps (d e : Dev) : Prop where
  cores : e.cores = d.cores
  streams : e.streams = d.streams
  fec : e.fec = d.fec
  regs : ∀ o < 0x1000, o ≠ 0x028 → o ≠ 0x02C → e.reg .fec 0 o = d.reg .fec 0 o

theorem Dev.chainKeeps.refl (d : Dev) : d.chainKeeps d := ⟨rfl, rfl, rfl, fun _ _ _ _ => rfl⟩

theorem Dev.chainKeeps.trans {a b c : Dev} (h : a.chainKeeps b) (k : b.chainKeeps c) : a.chainKeeps c :=
  ⟨k.cores.trans h.cores, k.streams.trans h.streams, k.fec.trans h.fec, fun o h1 h2 h3 => (k.regs o h1 h2 h3).trans (h.regs o h1 h2 h3)⟩

theorem Dev.chainKeeps_foldl {α : Type} (f : Dev → α → Dev) (hf : ∀ d x, Dev.chainKeeps d (f d x)) (l : List α) (d : Dev) :
    d.chainKeeps (l.foldl f d) :=
  List.foldlRecOn (motive := fun e => d.chainKeeps e) _ _ (.refl d) fun _ h x _ => h.trans (hf _ x)

theorem Dev.chainKeeps_of_regs {d e : Dev} (h : d.regsOnly e) {l : List RegAt} (hk : d.keepsRegs e l)
    (hl : ∀ a ∈ l.map RegAt.addr, a < 0x50000 ∨ 0x51000 ≤ a ∨ a = 0x50028 ∨ a = 0x5002C) : d.chainKeeps e := by
  refine ⟨by rw [h], by rw [h], by rw [h], fun o h1 h2 h3 => hk _ _ _ fun hm => ?_⟩
  have := hl _ hm
  simp at this
  omega

theorem Dev.chainKeeps_setReg (d : Dev) {p : Page} {n o : Nat} (v : Nat) (h : p.base n + o < 0x50000 ∨ 0x51000 ≤ p.base n + o) :
    d.chainKeeps (d.setReg p n o v) :=
  Dev.chainKeeps_of_regs (d.setReg_regsOnly ..) (d.keepsRegs_setReg p n o v (l := [(p, n, o)]) (by simp)) (by simp [RegAt.addr]; omega)

theorem Dev.chainKeeps_bump (d : Dev) {p : Page} {n o : Nat} (k : Nat) (h : p.base n + o < 0x50000 ∨ 0x51000 ≤ p.base n + o) :
    d.chainKeeps (d.bump p n o k) :=
  Dev.chainKeeps_of_regs (d.bump_regsOnly ..) (d.keepsRegs_bump p n o k (l := [(p, n, o)]) (by simp)) (by simp [RegAt.addr]; omega)

theorem Dev.chainKeeps_sticky (d : Dev) {p : Page} {n : Nat} (b : Nat)
    (h : p.base n + 0x1000 ≤ 0x50000 ∨ 0x51000 ≤ p.base n) (hs : p.sticky.1 < 0x1000) : d.chainKeeps (d.sticky p n b) :=
  Dev.chainKeeps_of_regs (d.sticky_regsOnly ..)
    (d.keepsRegs_sticky p n b (l := [(p, n, p.sticky.1), (p, n, 0x020)]) (by simp) (by simp)) (by simp [RegAt.addr]; omega)

theorem Dev.chainKeeps_rxSticky (d : Dev) (b : Nat) : d.chainKeeps (d.sticky .rxc 0 b) :=
  d.chainKeeps_sticky b (by simp) (by decide)

theorem Dev.chainKeeps_post (d : Dev) (p : Page) (n src sub inst : Nat) (bs : List Byte) :
    d.chainKeeps (d.post p n src sub inst bs) := by
  have hs := d.post_shape p n src sub inst bs
  refine ⟨by rw [hs], by rw [hs], by rw [hs], fun o h1 h2 h3 => ?_⟩
  refine d.keepsRegs_post _ _ _ _ _ _ (List.Subset.refl _) _ _ _ fun hm => ?_
  have := evtRegs_high _ hm
  simp at this
  omega

theorem busRegs_fec : ∀ a ∈ busRegs.map RegAt.addr, a < 0x50000 ∨ 0x51000 ≤ a ∨ a = 0x50028 ∨ a = 0x5002C := by decide +kernel

theorem Dev.blkKeeps.chain {d e : Dev} (h : d.blkKeeps e) : d.chainKeeps e := by
  refine ⟨h.cores, h.streams, by rw [h.shape], fun o h1 h2 h3 => h.bus.regs _ _ _ fun hm => ?_⟩
  have := busRegs_fec _ hm
  simp at this
  omega

/-- A change of the receive chain, the supervisor, the memory or the host interface alone. -/
theorem Dev.chainKeeps_blocks (d : Dev) {x : RxcSt} {r : RsvSt} {p : PciSt} {m : MemSys} :
    d.chainKeeps { d with rxc := x, rsv := r, pci := p, ms := m } := ⟨rfl, rfl, rfl, fun _ _ _ _ => rfl⟩

/-! ### Records (R309 to R313) -/

theorem Dev.chainKeeps_tsig (d : Dev) (n : Nat) : d.chainKeeps (d.tsig n) := by
  unfold Dev.tsig
  split
  · exact d.chainKeeps_setReg _ (by simp)
  · exact .refl d

theorem Dev.chainKeeps_postRecord (d : Dev) (tail payload : List Byte) (beats : Nat) : d.chainKeeps (d.postRecord tail payload beats) := by
  unfold Dev.postRecord
  extract_lets seq r c d1 room p2 d2 first a p3 d3 d4
  have h1 : d.chainKeeps d1 := by
    unfold d1
    split
    · exact (d.chainKeeps_setReg _ (by simp)).trans (Dev.chainKeeps_tsig ..)
    · exact .refl d
  have h2 : d1.chainKeeps d2 := d1.chainKeeps_blocks
  have h3 : d2.chainKeeps d3 := by
    unfold d3
    split
    · exact .refl d2
    · exact d2.chainKeeps_blocks
  have h4 : d3.chainKeeps d4 := (d3.chainKeeps_bump 1 (by simp)).trans (Dev.chainKeeps_sticky _ _ (by simp) (by decide))
  have h := (h1.trans h2)
  split
  · split
    · exact ((h.trans h3).trans h4).trans (d4.chainKeeps_post ..)
    · exact (h.trans h3).trans h4
  · exact h.trans d2.chainKeeps_blocks

theorem Dev.chainKeeps_countStatus (d : Dev) (st : Nat) : d.chainKeeps (d.countStatus st) := by
  unfold Dev.countStatus
  split
  · exact d.chainKeeps_bump 1 (by simp)
  · exact d.chainKeeps_bump 1 (by simp)
  · exact (d.chainKeeps_bump 1 (by simp)).trans (Dev.chainKeeps_rxSticky ..)
  · exact (d.chainKeeps_bump 1 (by simp)).trans (Dev.chainKeeps_rxSticky ..)
  · exact .refl d

theorem Dev.chainKeeps_handOutcome (d : Dev) (c s g : Nat) (o : Outcome) : d.chainKeeps (d.handOutcome c s g o) := d.chainKeeps_blocks

theorem Dev.chainKeeps_fixRecord (d : Dev) (c s : Nat) (r : RecIn) (payload : List Byte) : d.chainKeeps (d.fixRecord c s r payload) := by
  unfold Dev.fixRecord
  have h1 : d.chainKeeps (if r.status = 0 then { d with pci := { d.pci with buffers := d.pci.buffers.drop 1 } } else d) := by
    split
    · exact d.chainKeeps_blocks
    · exact .refl d
  exact ((h1.trans (Dev.chainKeeps_postRecord ..)).trans (Dev.chainKeeps_countStatus ..)).trans (Dev.chainKeeps_handOutcome ..)

theorem Dev.chainKeeps_dropRxSlot (d : Dev) (c s : Nat) : d.chainKeeps (d.dropRxSlot c s) := by
  unfold Dev.dropRxSlot
  dsimp only
  split
  · exact d.chainKeeps_blocks
  · exact .refl d

theorem Dev.chainKeeps_setRxSlot (d : Dev) (x : RxSlot) : d.chainKeeps (d.setRxSlot x) := d.chainKeeps_blocks

theorem Dev.chainKeeps_closeGrant (d : Dev) (c s g st : Nat) (payload : List Byte) : d.chainKeeps (d.closeGrant c s g st payload) := by
  unfold Dev.closeGrant
  dsimp only
  split
  · exact .refl d
  next gr _ =>
    have h1 := d.chainKeeps_setRxSlot ((d.rxSlot c s).modGrant g fun y => { y with phase := 2 })
    generalize d.setRxSlot ((d.rxSlot c s).modGrant g fun y => { y with phase := 2 }) = e at *
    exact ((h1.trans e.chainKeeps_blocks).trans (Dev.chainKeeps_fixRecord ..)).trans (Dev.chainKeeps_dropRxSlot ..)

/-! ### The result of a block (R351, R354, R357) -/

theorem Dev.chainKeeps_deliver (d : Dev) (c s g : Nat) (gr : GrantSt) : d.chainKeeps (d.deliver c s g gr) := by
  unfold Dev.deliver
  dsimp only
  split
  · exact d.chainKeeps_closeGrant ..
  · split
    · exact d.chainKeeps_closeGrant ..
    · split
      · exact d.chainKeeps_closeGrant ..
      · exact d.chainKeeps_closeGrant ..

/-- What the result `r` of a block does to its grant (R301, R357). -/
def Dev.resultToGrant (d : Dev) (b : Blk) (r : Nat × Nat × Bool × Nat × List Bool) : Dev :=
  let x := d.rxSlot b.cell b.slot
  match x.grants.find? (·.num == b.grant) with
  | none => d
  | some gr =>
    if gr.phase = 2 then d
    else
      let gr' := { gr with results := gr.results ++ [r] }
      let d := d.setRxSlot (x.modGrant b.grant fun _ => gr')
      match gr'.closing with
      | some st => if gr'.results.length = gr'.queued then d.closeGrant b.cell b.slot b.grant st [] else d
      | none => if gr'.results.length = (gSeg gr'.bytes).c then d.deliver b.cell b.slot b.grant gr' else d

theorem Dev.chainKeeps_resultToGrant (d : Dev) (b : Blk) (r : Nat × Nat × Bool × Nat × List Bool) : d.chainKeeps (d.resultToGrant b r) := by
  unfold Dev.resultToGrant
  dsimp only
  split
  · exact .refl d
  · split
    · exact .refl d
    next gr _ _ =>
      have h1 := d.chainKeeps_setRxSlot ((d.rxSlot b.cell b.slot).modGrant b.grant fun _ => { gr with results := gr.results ++ [r] })
      generalize d.setRxSlot ((d.rxSlot b.cell b.slot).modGrant b.grant fun _ => { gr with results := gr.results ++ [r] }) = e at *
      split
      · split
        · exact h1.trans (e.chainKeeps_closeGrant ..)
        · exact h1
      · split
        · exact h1.trans (e.chainKeeps_deliver ..)
        · exact h1

/-- A result of STATUS `st` counted; `ue` says that its poison is counted here (R351, R368). -/
def Dev.countResult (d : Dev) (st : Nat) (ue : Bool) : Dev :=
  let d := d.bump .fec 0 0x120 1
  let d := if st = 2 then d.bump .fec 0 0x124 1 else if st = 1 then d.bump .fec 0 0x128 1 else d
  if ue then d.markPoison else d

theorem effCodeBlockResult_eq {lk : Locked} {d : Dev} {n : Nat} {ue : Bool} {b : Blk} {rest : List Blk} (h : d.engine n = b :: rest)
    (hr : b.running = true) (hs : b.stop = false) :
    ∃ p r, effCodeBlockResult n ue lk d =
      (((d.setEngine n rest).countResult (decodeBlk d b).1.status (ue && !(decodeBlk d b).2)).trace lk n b (decodeBlk d b).1.status p
        (decodeBlk d b).1).resultToGrant b r := by
  refine ⟨(decodeBlk d b).2 || ue,
    (b.cb, (decodeBlk d b).1.status, (decodeBlk d b).2 || ue, (decodeBlk d b).1.iter, (decodeBlk d b).1.bits), ?_⟩
  unfold effCodeBlockResult
  rw [h]
  dsimp only
  rw [if_neg (by simp [hr, hs])]
  rfl

theorem Dev.countResult_spec (d : Dev) (st : Nat) (ue : Bool) :
    d.regsOnly (d.countResult st ue) ∧
    (d.countResult st ue).reg .fec 0 0x120 = satAdd (d.reg .fec 0 0x120) 1 ∧
    (d.countResult st ue).reg .fec 0 0x124 = satAdd (d.reg .fec 0 0x124) (if st = 2 then 1 else 0) ∧
    (d.countResult st ue).reg .fec 0 0x128 = satAdd (d.reg .fec 0 0x128) (if st = 1 then 1 else 0) ∧
    (d.countResult st ue).reg .fec 0 0x12C = satAdd (d.reg .fec 0 0x12C) (if ue then 1 else 0) := by
  have hz (o : Nat) : satAdd (d.reg .fec 0 o) 0 = d.reg .fec 0 o := satAdd_zero (d.reg_lt ..)
  have hm (e : Dev) : e.regsOnly (if ue then e.markPoison else e) ∧
      (∀ o ∈ [0x120, 0x124, 0x128], (if ue then e.markPoison else e).reg .fec 0 o = e.reg .fec 0 o) ∧
      (if ue then e.markPoison else e).reg .fec 0 0x12C = satAdd (e.reg .fec 0 0x12C) (if ue then 1 else 0) := by
    cases ue
    · exact ⟨.refl e, fun _ _ => rfl, (satAdd_zero (e.reg_lt ..)).symm⟩
    · refine ⟨Dev.regsOnly.trans (e.bump_regsOnly .fec 0 0x12C 1) (Dev.sticky_regsOnly _ .fec 0 0), fun o ho => ?_, ?_⟩
      · have : o < 0x12C := by simp at ho; omega
        unfold Dev.markPoison
        rw [if_pos rfl, Dev.reg_sticky_ne _ _ (by simp [Page.sticky]; omega) (by simp at ho ⊢; omega), Dev.reg_bump_ne _ _ (by simp; omega)]
      · unfold Dev.markPoison
        rw [if_pos rfl, Dev.reg_sticky_ne _ _ (by simp [Page.sticky]) (by simp), Dev.reg_bump_self]
        rfl
  have hs : d.regsOnly (if st = 2 then (d.bump .fec 0 0x120 1).bump .fec 0 0x124 1
        else if st = 1 then (d.bump .fec 0 0x120 1).bump .fec 0 0x128 1 else d.bump .fec 0 0x120 1) := by
    split
    · exact (d.bump_regsOnly ..).trans (Dev.bump_regsOnly ..)
    · split
      · exact (d.bump_regsOnly ..).trans (Dev.bump_regsOnly ..)
      · exact d.bump_regsOnly ..
  obtain ⟨m1, m2, m3⟩ := hm (if st = 2 then (d.bump .fec 0 0x120 1).bump .fec 0 0x124 1
    else if st = 1 then (d.bump .fec 0 0x120 1).bump .fec 0 0x128 1 else d.bump .fec 0 0x120 1)
  refine ⟨hs.trans m1, (m2 0x120 (by simp)).trans ?_, (m2 0x124 (by simp)).trans ?_, (m2 0x128 (by simp)).trans ?_, m3.trans ?_⟩
  · split_ifs <;> simp
  · split_ifs <;> simp [hz]
  · by_cases h2 : st = 2
    · simp [h2, hz]
    · by_cases h1 : st = 1
      · simp [h1]
      · simp [h2, h1, hz]
  · congr 1
    split_ifs <;> simp

theorem traceRegs_skip : ∀ o ∈ [0x120, 0x124, 0x128, 0x12C], RegAt.addr (.fec, 0, o) ∉ traceRegs.map RegAt.addr := by
  decide +kernel

/-- A result is counted, traced and handed to its grant (R351, R354, R356, R357). -/
theorem Dev.blockResult_spec (lk : Locked) (d : Dev) (n : Nat) (b : Blk) (o : Decoded) (p : Bool)
    (r : Nat × Nat × Bool × Nat × List Bool) (ue : Bool) :
    let t := ((d.countResult o.status ue).trace lk n b o.status p o).resultToGrant b r
    t.cores = d.cores ∧ t.fec = d.fec ∧
    t.reg .fec 0 0x120 = satAdd (d.reg .fec 0 0x120) 1 ∧
    t.reg .fec 0 0x124 = satAdd (d.reg .fec 0 0x124) (if o.status = 2 then 1 else 0) ∧
    t.reg .fec 0 0x128 = satAdd (d.reg .fec 0 0x128) (if o.status = 1 then 1 else 0) ∧
    t.reg .fec 0 0x12C = satAdd (d.reg .fec 0 0x12C) (if ue then 1 else 0) := by
  intro t
  obtain ⟨c0, c1, c2, c3, c4⟩ := d.countResult_spec o.status ue
  have hk := (d.countResult o.status ue).keepsRegs_trace lk n b o.status p o
  obtain ⟨e, h1, h2⟩ := (d.countResult o.status ue).trace_shape lk n b o.status p o
  have ht := ((d.countResult o.status ue).trace lk n b o.status p o).chainKeeps_resultToGrant b r
  have hreg (k : Nat) (hm : k ∈ [0x120, 0x124, 0x128, 0x12C]) : t.reg .fec 0 k = (d.countResult o.status ue).reg .fec 0 k :=
    (ht.regs k (by simp at hm; omega) (by simp at hm; omega) (by simp at hm; omega)).trans (hk _ _ _ (traceRegs_skip k hm))
  refine ⟨ht.cores.trans ?_, ht.fec.trans ?_, (hreg _ (by simp)).trans c1, (hreg _ (by simp)).trans c2, (hreg _ (by simp)).trans c3,
    (hreg _ (by simp)).trans c4⟩
  · rw [h2, h1.shape, c0]
  · rw [h2, h1.shape, c0]

/-! ### Contributions (R299 to R308) -/

theorem Req.hq_isBlock : Req.isBlock .hq := ⟨rfl, fun _ h => by cases h⟩

theorem Dev.chainKeeps_num (d : Dev) (e : NumEv) : d.chainKeeps (d.num .rxc 0 e) := by
  unfold Dev.num
  split
  · exact .refl d
  · extract_lets d1 f
    have h1 : d.chainKeeps d1 :=
      ((d.chainKeeps_bump _ (by simp)).trans (Dev.chainKeeps_bump _ _ (by simp))).trans (Dev.chainKeeps_bump _ _ (by simp))
    split
    · exact h1
    · exact h1.trans (d1.chainKeeps_setReg _ (by simp))

theorem Dev.chainKeeps_store (lk : Locked) (d : Dev) (a : Nat) (bs : List Byte) (p direct : Bool) :
    d.chainKeeps (d.busStore lk .hq a bs p direct) := (d.blkKeeps_busStore lk Req.hq_isBlock ..).chain

theorem Dev.chainKeeps_uncharged (d : Dev) {f : Dev → Dev} (h : d.chainKeeps (f d)) : d.chainKeeps (d.uncharged f) := by
  unfold Dev.uncharged
  generalize f d = e at *
  exact h.trans e.chainKeeps_blocks

theorem Dev.chainKeeps_foldl_snd {α β γ : Type} (f : α × β × Dev → γ → α × β × Dev)
    (hf : ∀ a x, Dev.chainKeeps a.2.2 (f a x).2.2) (l : List γ) (a : α × β × Dev) : a.2.2.chainKeeps (l.foldl f a).2.2 :=
  List.foldlRecOn (motive := fun e : α × β × Dev => a.2.2.chainKeeps e.2.2) _ _ (.refl a.2.2) fun _ h x _ => h.trans (hf _ x)

theorem Dev.chainKeeps_combine (lk : Locked) (d : Dev) (g : List Byte) (r : Nat) (ts : List (Nat × Int × Bool)) :
    d.chainKeeps (d.combine lk g r ts).2.2 := by
  have hcount (e : Dev) (o b n : Nat) (ho : Page.base .hq 0 + o < 0x50000 ∨ 0x51000 ≤ Page.base .hq 0 + o) :
      e.chainKeeps (if n = 0 then e else (e.bump .hq 0 o n).sticky .hq 0 b) := by
    split
    · exact .refl e
    · exact (e.chainKeeps_bump n ho).trans (Dev.chainKeeps_sticky _ _ (by simp) (by decide))
  unfold Dev.combine
  extract_lets s ncb cbp e lap m base fresh newtx first d1 once posOf beats untouched
  have h1 : d.chainKeeps d1 := by
    unfold d1
    split
    · exact d.chainKeeps_uncharged (d.chainKeeps_store ..)
    · exact .refl d
  clear_value d1
  split
  · exact h1
  · split
    next x buf er d2 h =>
      have h2 : d1.chainKeeps d2 := by
        have hd := congrArg (fun a : List (Nat × List Byte) × Nat × Dev => a.2.2) h
        dsimp only at hd
        rw [← hd]
        refine Dev.chainKeeps_foldl_snd _ (fun acc k => ?_) beats (([] : List (Nat × List Byte)), 0, d1)
        have hr : acc.2.2.chainKeeps (acc.2.2.busBytes lk .hq (base + 64 * k) 64 true).2.2 :=
          (Dev.readKeeps_busBytes ..).blk.chain
        split
        · exact .refl acc.2.2
        · split
          · exact hr.trans (hcount _ 0x108 1 1 (by simp))
          · exact hr
      split
      next x buf er' sat inE h =>
        extract_lets d3 d4 d5 d6
        have h3 : d2.chainKeeps d3 := Dev.chainKeeps_foldl _ (fun e q => by
          dsimp only
          split
          · split
            · exact e.chainKeeps_store ..
            · exact e.chainKeeps_uncharged (e.chainKeeps_store ..)
          · exact e.chainKeeps_store ..) _ d2
        have h4 : d3.chainKeeps d4 := Dev.chainKeeps_foldl _ (fun e k => e.chainKeeps_blocks) _ d3
        exact (((((h1.trans h2).trans h3).trans h4).trans (hcount _ 0x104 0 inE (by simp))).trans (hcount _ 0x10C 2 sat (by simp)))

theorem Dev.chainKeeps_acceptLlrs (lk : Locked) (d : Dev) (c s g : Nat) (gr : GrantSt) (ls : List (Byte × Bool)) :
    d.chainKeeps (d.acceptLlrs lk c s g gr ls) := by
  unfold Dev.acceptLlrs
  extract_lets gb seg
  split
  next vals ev _ =>
    extract_lets d1 bitsIn
    have h1 : d.chainKeeps d1 := d.chainKeeps_num ev
    clear_value d1
    split
    next er sat d2 h =>
      have h2 : d1.chainKeeps d2 := by
        have hd := congrArg (fun a : Nat × Nat × Dev => a.2.2) h
        dsimp only at hd
        rw [← hd]
        refine Dev.chainKeeps_foldl_snd _ (fun acc r => ?_) _ ((0 : Nat), (0 : Nat), d1)
        split
        · exact .refl _
        · exact Dev.chainKeeps_combine ..
      exact ((h1.trans h2).trans (Dev.chainKeeps_setRxSlot ..)).trans (Dev.chainKeeps_blocks _)

theorem Dev.chainKeeps_inputError (d : Dev) (c s g : Nat) : d.chainKeeps (d.inputError c s g) := by
  have h1 : d.chainKeeps ((d.bump .rxc 0 0x130 1).sticky .rxc 0 4) := (d.chainKeeps_bump 1 (by simp)).trans (Dev.chainKeeps_rxSticky ..)
  unfold Dev.inputError
  dsimp only
  generalize (d.bump .rxc 0 0x130 1).sticky .rxc 0 4 = e at *
  split
  · exact h1
  · split
    · exact h1.trans (e.chainKeeps_closeGrant ..)
    · exact h1.trans e.chainKeeps_blocks

theorem Dev.chainKeeps_contribute (lk : Locked) (d : Dev) (h : List Byte) (ls : List (Byte × Bool)) :
    d.chainKeeps (d.contribute lk h ls) := by
  have hst : d.chainKeeps (d.bump .rxc 0 0x134 1) := d.chainKeeps_bump 1 (by simp)
  unfold Dev.contribute
  extract_lets c g sym last absent count s stale
  split
  · exact hst
  · split
    · exact hst
    · extract_lets reserved symBad total
      split_ifs
      · exact hst
      · exact d.chainKeeps_inputError ..
      · exact d.chainKeeps_closeGrant ..
      · exact d.chainKeeps_inputError ..
      · have h1 : d.chainKeeps (d.touchPlan c s g) := d.chainKeeps_blocks
        exact (h1.trans (Dev.chainKeeps_setRxSlot ..)).trans (Dev.chainKeeps_acceptLlrs ..)

/-- Stream `i` of the cores with `rest` left to take. -/
def Dev.streamTaken (d : Dev) (i : Nat) (rest : List (Nat × List Byte × List Bool)) : Dev :=
  { d with streams := d.streams.setIfInBounds i rest }

theorem effContribution_eq {d : Dev} {c : Nat} (lk : Locked) (hon : d.flag .rxc 0 0x100 0 = true)
    (hlen : 64 + ceilDiv (leAt ((((flatStream (d.streams.toList.getD (8 + c) []))).take 64).map (·.1)) 8 3) 64 * 64 ≤
      (flatStream (d.streams.toList.getD (8 + c) [])).length)
    (hheld : d.cellHeld (bits (leAt (((flatStream (d.streams.toList.getD (8 + c) [])).take 64).map (·.1)) 0 1) 4 0) = false)
    (hwait : d.memWaits = false) :
    let st := flatStream (d.streams.toList.getD (8 + c) [])
    let h := (st.take 64).map (·.1)
    let n := ceilDiv (leAt h 8 3) 64 * 64
    effContribution c lk d = (d.streamTaken (8 + c) (chunkStream (st.drop (64 + n)))).contribute lk h ((st.drop 64).take n) := by
  unfold effContribution
  dsimp only
  rw [if_neg (by simpa only [hon, hheld, hwait, Bool.not_true, Bool.false_or, Bool.or_false, decide_eq_true_eq, not_lt] using hlen)]
  rfl

/-- A contribution of a slot without an accepted list (R301). -/
theorem Dev.contribute_stale (lk : Locked) (d : Dev) (h : List Byte) (ls : List (Byte × Bool))
    (hs : ∀ x ∈ d.rxc.slots, x.cell = bits (leAt h 0 1) 4 0 → x.list ≠ 1) : d.contribute lk h ls = d.bump .rxc 0 0x134 1 := by
  unfold Dev.contribute
  extract_lets c g sym last absent count s stale
  have hn : (d.rxc.slots.find? fun x => x.cell == c && x.seq == s && x.list == 1) = none := by
    rw [List.find?_eq_none]
    intro x hx
    have := hs x hx
    simp
    exact fun hc _ => this hc
  rw [hn]

/-! ### The slot deadline (R310, R348) -/

/-- The grants of a slot are the grants `l` of before, or fewer, each as it was or fixed, and number `g` is fixed. -/
def Dev.closes (g : Nat) (l m : List GrantSt) : Prop :=
  ∀ y ∈ m, y.phase = 2 ∨ y ∈ l ∧ y.num ≠ g

theorem Dev.rxSlot_of_rxc {d e : Dev} (h : e.rxc = d.rxc) (c s : Nat) : e.rxSlot c s = d.rxSlot c s := by
  unfold Dev.rxSlot
  rw [h]

theorem Dev.rxSlot_setRxSlot (d : Dev) (x : RxSlot) : (d.setRxSlot x).rxSlot x.cell x.seq = x := by
  unfold Dev.rxSlot Dev.setRxSlot
  dsimp only
  rw [List.find?_append, List.find?_eq_none.2 fun y hy => ?_]
  · simp
  · have := (List.mem_filter.1 hy).2
    simpa [imp_iff_not_or] using this

theorem Dev.rxSlot_id (d : Dev) (c s : Nat) : (d.rxSlot c s).cell = c ∧ (d.rxSlot c s).seq = s := by
  unfold Dev.rxSlot
  cases h : d.rxc.slots.find? fun x => x.cell == c && x.seq == s with
  | none => exact ⟨rfl, rfl⟩
  | some x => simpa using List.find?_some h

theorem Dev.dropRxSlot_grants (d : Dev) (c s : Nat) : ∀ y ∈ ((d.dropRxSlot c s).rxSlot c s).grants, y ∈ (d.rxSlot c s).grants := by
  intro y hy
  unfold Dev.dropRxSlot at hy
  dsimp only at hy
  split at hy
  · have hn : (({ d with rxc := { d.rxc with slots := d.rxc.slots.filter fun y => !(y.cell == c && y.seq == s) } } : Dev).rxSlot c s)
        = { cell := c, seq := s } := by
      unfold Dev.rxSlot
      rw [List.find?_eq_none.2 fun z hz => ?_]
      · rfl
      · have := (List.mem_filter.1 hz).2
        simpa [imp_iff_not_or] using this
    rw [hn] at hy
    exact absurd hy (List.not_mem_nil)
  · exact hy

theorem Dev.rxc_tsig (d : Dev) (n : Nat) : (d.tsig n).rxc = d.rxc := by
  unfold Dev.tsig
  split
  · rfl
  · rfl

theorem Dev.rxc_postRecord (d : Dev) (tail payload : List Byte) (beats : Nat) : (d.postRecord tail payload beats).rxc = d.rxc := by
  unfold Dev.postRecord
  extract_lets seq r c d1 room p2 d2 first a p3 d3 d4
  have h1 : d1.rxc = d.rxc := by
    unfold d1
    split
    · exact Dev.rxc_tsig ..
    · rfl
  have h2 : d2.rxc = d.rxc := h1
  have h3 : d3.rxc = d.rxc := by
    unfold d3
    split
    · exact h2
    · exact h2
  have h4 : d4.rxc = d.rxc := by
    have hb : d3.regsOnly d4 := (d3.bump_regsOnly .pci 0 0x180 1).trans (Dev.sticky_regsOnly _ .pci 0 0)
    clear_value d4 d3
    rw [hb]
    exact h3
  clear_value d4
  split
  · split
    · rw [Dev.post_shape]
      exact h4
    · exact h4
  · exact h2

theorem Dev.rxc_countStatus (d : Dev) (st : Nat) : (d.countStatus st).rxc = d.rxc := by
  have h : d.regsOnly (d.countStatus st) := by
    unfold Dev.countStatus
    split
    · exact d.bump_regsOnly ..
    · exact d.bump_regsOnly ..
    · exact (d.bump_regsOnly ..).trans (Dev.sticky_regsOnly ..)
    · exact (d.bump_regsOnly ..).trans (Dev.sticky_regsOnly ..)
    · exact .refl d
  rw [h]

theorem Dev.rxc_fixRecord (d : Dev) (c s : Nat) (r : RecIn) (payload : List Byte) : (d.fixRecord c s r payload).rxc = d.rxc := by
  unfold Dev.fixRecord
  refine ((Dev.rxc_countStatus ..).trans (Dev.rxc_postRecord ..)).trans ?_
  split
  · rfl
  · rfl

/-- A closed grant is fixed, and the others of its slot stay (R309, R310). -/
theorem Dev.closes_closeGrant (d : Dev) (c s g st : Nat) (payload : List Byte) :
    Dev.closes g (d.rxSlot c s).grants ((d.closeGrant c s g st payload).rxSlot c s).grants := by
  unfold Dev.closeGrant
  dsimp only
  split
  next hn =>
    intro y hy
    exact .inr ⟨hy, fun he => by simpa [he] using List.find?_eq_none.1 hn y hy⟩
  next gr _ =>
    intro y hy
    obtain ⟨hc, hs⟩ := d.rxSlot_id c s
    have hx := d.rxSlot_setRxSlot ((d.rxSlot c s).modGrant g fun y => { y with phase := 2 })
    have hcell : ((d.rxSlot c s).modGrant g fun y => { y with phase := 2 }).cell = c := hc
    have hseq : ((d.rxSlot c s).modGrant g fun y => { y with phase := 2 }).seq = s := hs
    rw [hcell, hseq] at hx
    have hy := Dev.dropRxSlot_grants _ c s y hy
    rw [Dev.rxSlot_of_rxc (Dev.rxc_fixRecord ..)] at hy
    have hy : y ∈ ((d.setRxSlot ((d.rxSlot c s).modGrant g fun y => { y with phase := 2 })).rxSlot c s).grants := hy
    rw [hx] at hy
    obtain ⟨z, hz, rfl⟩ := List.mem_map.1 hy
    by_cases hg : (z.num == g) = true
    · rw [if_pos hg]
      exact .inl rfl
    · rw [if_neg hg]
      exact .inr ⟨hz, fun he => hg (beq_iff_eq.2 he)⟩

/-- Once every grant of `gs` is closed, each of the slot's grants is fixed or of another number (R310). -/
theorem Dev.closeGrants_phase (gs : List Nat) (d : Dev) (c s st : Nat) :
    ∀ y ∈ ((gs.foldl (fun d g => d.closeGrant c s g st []) d).rxSlot c s).grants,
      y.phase = 2 ∨ y ∈ (d.rxSlot c s).grants ∧ y.num ∉ gs := by
  induction gs generalizing d with
  | nil => exact fun y hy => .inr ⟨hy, List.not_mem_nil⟩
  | cons g gs ih =>
    intro y hy
    obtain h | ⟨h, hn⟩ := ih (d.closeGrant c s g st []) y hy
    · exact .inl h
    · obtain h | ⟨h, hg⟩ := d.closes_closeGrant c s g st [] y h
      · exact .inl h
      · exact .inr ⟨h, by simp [hg, hn]⟩

/-- What taking blocks out of the farm leaves alone. -/
structure Dev.farmKeeps (d e : Dev) : Prop where
  cores : e.cores = d.cores
  rxc : e.rxc = d.rxc

theorem Dev.farmKeeps.refl (d : Dev) : d.farmKeeps d := ⟨rfl, rfl⟩

theorem Dev.farmKeeps.trans {a b c : Dev} (h : a.farmKeeps b) (k : b.farmKeeps c) : a.farmKeeps c :=
  ⟨k.cores.trans h.cores, k.rxc.trans h.rxc⟩

theorem Dev.farmKeeps_foldl {α : Type} (f : Dev → α → Dev) (hf : ∀ d x, Dev.farmKeeps d (f d x)) (l : List α) (d : Dev) :
    d.farmKeeps (l.foldl f d) :=
  List.foldlRecOn (motive := fun e => d.farmKeeps e) _ _ (.refl d) fun _ h x _ => h.trans (hf _ x)

theorem Dev.farmKeeps_withdrawn (lk : Locked) (d : Dev) (n : Nat) (b : Blk) : d.farmKeeps (d.withdrawn lk n b) := by
  refine ⟨(d.withdrawn_spec lk n b).1, ?_⟩
  unfold Dev.withdrawn
  extract_lets s rows
  have hb := d.bump_regsOnly .fec 0 0x130 1
  generalize d.bump .fec 0 0x130 1 = e at *
  obtain ⟨f, h1, h2⟩ := e.trace_shape lk n b 3 (b.span.any fun x => x.2.any id) { rows := rows }
  rw [h2, h1.shape, hb]

theorem Dev.farmKeeps_withdraw (lk : Locked) (d : Dev) (c s : Nat) (gs : List Nat) : d.farmKeeps (d.withdraw lk c s gs) := by
  have hw (l : List Blk) (n : Nat) (e : Dev) : e.farmKeeps (l.foldl (fun (d : Dev) b => Dev.withdrawn lk d n b) e) :=
    Dev.farmKeeps_foldl _ (fun e b => e.farmKeeps_withdrawn lk n b) l e
  unfold Dev.withdraw
  extract_lets mine fromEngines goneL goneT f1 d1 d2
  have hf (l : List Nat) (e : Dev) : e.farmKeeps (fromEngines l e) := Dev.farmKeeps_foldl _ (fun e n => by
    have h1 : e.farmKeeps (e.setEngine n ((e.engine n).filterMap fun b =>
        if !mine b then some b else if b.running then some { b with stop := true } else none)) := ⟨rfl, rfl⟩
    exact h1.trans (hw ..)) l e
  have h1 : d.farmKeeps d1 := ⟨rfl, rfl⟩
  exact (((h1.trans (hw ..)).trans (hf ..)).trans (hw ..)).trans (hf ..)

/-- Open grants of a slot at its deadline. -/
def RxSlot.openNums (x : RxSlot) : List Nat := (x.grants.filter fun g => g.phase != 2).map (·.num)

/-- The deadline of slot `s` of cell `c`, which `x` holds (R310). -/
def Dev.passDeadline (lk : Locked) (d : Dev) (c s : Nat) (x : RxSlot) : Dev :=
  let d := x.openNums.foldl (fun d g => d.closeGrant c s g 2 []) (d.withdraw lk c s x.openNums)
  let d := if x.openNums.isEmpty then d
    else d.post .rxc 0 0x04 5 0 (layout 20 [(0, 1, c), (4, 4, s), (8, 2, x.openNums.length)])
  let d := d.setRxSlot { d.rxSlot c s with deadline := true }
  (d.bankFree false c s).dropRxSlot c s

theorem effDeadline_eq {lk : Locked} {d : Dev} {c v n : Nat} {x : RxSlot} (hn : d.absSlot (ceMu (d.activeCell false c)) v = n)
    (hf : (d.rxc.slots.find? fun x => x.cell == c && x.seq == n) = some x) (hx : x.deadline = false) (hon : d.gridOn = true)
    (hr : reached d.ns (d.deadlineOf (d.cellFor false c n) n) = true) :
    effDeadline c v lk d = d.passDeadline lk c n x := by
  unfold effDeadline
  unfold Dev.passDeadline RxSlot.openNums
  dsimp only
  rw [hn, hf]
  dsimp only
  rw [if_neg (by simp [hx, hon, hr])]

theorem Dev.bankFree_regsOnly (d : Dev) (tx : Bool) (c s : Nat) : d.regsOnly (d.bankFree tx c s) := by
  unfold Dev.bankFree
  split
  · exact d.setFld_regsOnly ..
  · exact .refl d

theorem Dev.dropRxSlot_cores (d : Dev) (c s : Nat) : (d.dropRxSlot c s).cores = d.cores := (d.chainKeeps_dropRxSlot c s).cores

theorem Dev.mem_dropRxSlot {d : Dev} {c s : Nat} {y : RxSlot} (h : y ∈ (d.dropRxSlot c s).rxc.slots) : y ∈ d.rxc.slots := by
  unfold Dev.dropRxSlot at h
  dsimp only at h
  split at h
  · exact List.mem_of_mem_filter h
  · exact h

theorem Dev.mem_setRxSlot {d : Dev} {x y : RxSlot} (h : y ∈ (d.setRxSlot x).rxc.slots) (hc : y.cell = x.cell) (hs : y.seq = x.seq) :
    y = x := by
  obtain h | h := List.mem_append.1 h
  · have := (List.mem_filter.1 h).2
    simp [hc, hs] at this
  · exact List.mem_singleton.1 h

theorem Dev.passDeadline_spec (lk : Locked) (d : Dev) (c s : Nat) (x : RxSlot)
    (hf : (d.rxc.slots.find? fun x => x.cell == c && x.seq == s) = some x) :
    (d.passDeadline lk c s x).cores = d.cores ∧
    ∀ y ∈ (d.passDeadline lk c s x).rxc.slots, y.cell = c → y.seq = s → y.deadline = true ∧ ∀ g ∈ y.grants, g.phase = 2 := by
  have hw := d.farmKeeps_withdraw lk c s x.openNums
  have hx : (d.withdraw lk c s x.openNums).rxSlot c s = x := by
    rw [Dev.rxSlot_of_rxc hw.rxc]
    unfold Dev.rxSlot
    rw [hf]
    rfl
  have hc := Dev.chainKeeps_foldl (fun d g => d.closeGrant c s g 2 []) (fun e g => e.chainKeeps_closeGrant c s g 2 [])
    x.openNums (d.withdraw lk c s x.openNums)
  have hp := (d.withdraw lk c s x.openNums).closeGrants_phase x.openNums c s 2
  unfold Dev.passDeadline
  extract_lets d1 d2 rec d3
  have h1c : d1.cores = d.cores := hc.cores.trans hw.cores
  have h1 : ∀ y ∈ (d1.rxSlot c s).grants, y.phase = 2 := by
    intro y hy
    obtain h | ⟨h, hn⟩ := hp y hy
    · exact h
    · rw [hx] at h
      by_contra hph
      exact hn (List.mem_map.2 ⟨y, List.mem_filter.2 ⟨h, by simpa using hph⟩, rfl⟩)
  clear_value d1
  have h2 : d2.cores = d1.cores ∧ d2.rxc = d1.rxc := by
    unfold d2
    split
    · exact ⟨rfl, rfl⟩
    · rw [Dev.post_shape]
      exact ⟨rfl, rfl⟩
  clear_value d2
  have hb := d3.bankFree_regsOnly false c s
  refine ⟨?_, fun y hy hyc hys => ?_⟩
  · rw [Dev.dropRxSlot_cores, hb]
    exact h2.1.trans h1c
  · have hy := Dev.mem_dropRxSlot hy
    rw [hb] at hy
    obtain ⟨i1, i2⟩ := d2.rxSlot_id c s
    have hy := Dev.mem_setRxSlot hy (hyc.trans i1.symm) (hys.trans i2.symm)
    subst hy
    refine ⟨rfl, fun g hg => h1 g ?_⟩
    rw [← Dev.rxSlot_of_rxc h2.2]
    exact hg

/-! ### Polar requests (R361 to R365) -/

/-- What taking polar requests leaves alone: all but the registers and the farm. -/
def Dev.polarOnly (d e : Dev) : Prop := e = { d with rg := e.rg, fec := e.fec }

theorem Dev.polarOnly.trans {a b c : Dev} (h : a.polarOnly b) (k : b.polarOnly c) : a.polarOnly c := by
  unfold Dev.polarOnly at *
  rw [k, h]

theorem Dev.regsOnly.polar {d e : Dev} (h : d.regsOnly e) : d.polarOnly e := by
  unfold Dev.polarOnly
  rw [h]

theorem Dev.polarOnly_fec (d : Dev) (f : FecSt) : d.polarOnly { d with fec := f } := rfl

theorem Dev.polarStart_polarOnly (d : Dev) : d.polarOnly d.polarStart :=
  List.foldlRecOn (motive := fun e => d.polarOnly e) _ _ rfl fun e h n _ => h.trans (by
    split
    · exact e.polarOnly_fec _
    · exact rfl)

theorem Dev.polarQueue_polarOnly (d : Dev) (r : PolarReq) : d.polarOnly (d.polarQueue r) :=
  (d.polarOnly_fec _).trans (Dev.polarStart_polarOnly _)

theorem Dev.polarErr_regsOnly (d : Dev) : d.regsOnly d.polarErr := (d.bump_regsOnly ..).trans (Dev.sticky_regsOnly ..)

theorem Dev.polarFill_polarOnly (d : Dev) (c : Nat) (r : PolarReq) (ls : List (Byte × Bool)) : d.polarOnly (d.polarFill c r ls).2 := by
  unfold Dev.polarFill
  dsimp only
  split
  · exact (d.polarOnly_fec _).trans (Dev.polarQueue_polarOnly ..)
  · exact d.polarOnly_fec _

theorem Dev.polarTake_polarOnly (c : Nat) (h : Bool) (f : Nat) (ls : List (Byte × Bool)) (d : Dev) :
    d.polarOnly (Dev.polarTake c h f ls d) := by
  induction f generalizing h ls d with
  | zero => exact rfl
  | succ f ih =>
    unfold Dev.polarTake
    split
    · exact rfl
    · split
      · exact (d.polarFill_polarOnly ..).trans (ih ..)
      · split
        · exact d.polarErr_regsOnly.polar
        · extract_lets d1
          have h1 : d.polarOnly d1 := by
            unfold d1
            split
            · exact d.polarQueue_polarOnly _
            · exact rfl
          exact (h1.trans (Dev.polarFill_polarOnly ..)).trans (ih ..)

theorem Dev.polarStart_rg (d : Dev) : d.polarStart.rg = d.rg :=
  List.foldlRecOn (motive := fun e : Dev => e.rg = d.rg) _ _ rfl fun e h n _ => by
    split
    · exact h
    · exact h

theorem effPolarRequest_eq {d : Dev} {c : Nat} {hd : Bool} {w : Nat × List Byte × List Bool} {rest : List (Nat × List Byte × List Bool)}
    (h : d.streams.toList.getD (16 + c) [] = w :: rest) (hon : d.fecOn = true) :
    effPolarRequest c hd d = Dev.polarTake c hd (flatStream [w]).length (flatStream [w]) (d.streamTaken (16 + c) rest) := by
  unfold effPolarRequest
  rw [h]
  dsimp only
  rw [if_neg (by simp [hon])]
  rfl

theorem Dev.polarStart_of_empty {d : Dev} (h : d.fec.polQ = []) : d.polarStart = d := by
  refine List.foldlRecOn (motive := fun e => e = d) _ _ rfl fun e he n _ => ?_
  subst he
  rw [h]
  split
  next heq => exact absurd heq (by simp)
  · rfl

/-- The result of request `r` written where it asks, and its errors counted (R364, R365). -/
def Dev.polarAnswer (lk : Locked) (d : Dev) (r : PolarReq) : Dev :=
  let res := leAt r.hdr 16 5
  let bs := polarResult r
  let d := d.bump .fec 0 0x138 1
  let noRes := decide (res % 64 ≠ 0) || decide (d.target lk .fec res = .outside)
  let d := if polarInvalid r || noRes then d.polarErr else d
  let d := if r.poison then d.sticky .fec 0 0 else d
  if noRes then d else (d.busStore lk .fec (res + 64) (bs.drop 64)).busStore lk .fec res (bs.take 64)

theorem effPolarResult_eq {d : Dev} {n : Nat} {r : PolarReq} (lk : Locked) (h : d.fec.polRun.toList.getD n none = some r) :
    effPolarResult n lk d =
      (({ d with fec := { d.fec with polRun := d.fec.polRun.setIfInBounds n none } } : Dev).polarAnswer lk r).polarStart := by
  unfold effPolarResult
  rw [h]
  rfl

theorem Dev.polarAnswer_spec (lk : Locked) (d : Dev) (r : PolarReq) :
    (d.polarAnswer lk r).cores = d.cores ∧ (d.polarAnswer lk r).fec = d.fec ∧
    (d.polarAnswer lk r).reg .fec 0 0x138 = satAdd (d.reg .fec 0 0x138) 1 := by
  have hs := d.reg_bump_self .fec 0 0x138 1
  have h1 := d.bump_regsOnly .fec 0 0x138 1
  unfold Dev.polarAnswer
  extract_lets res bs d1 noRes d2 d3
  replace hs : d1.reg .fec 0 0x138 = satAdd (d.reg .fec 0 0x138) 1 := hs
  replace h1 : d.regsOnly d1 := h1
  clear_value d1
  have h2 : d1.regsOnly d2 ∧ d2.reg .fec 0 0x138 = d1.reg .fec 0 0x138 := by
    unfold d2
    split
    · refine ⟨d1.polarErr_regsOnly, ?_⟩
      unfold Dev.polarErr
      rw [Dev.reg_sticky_ne _ _ (by simp [Page.sticky]) (by simp), Dev.reg_bump_ne _ _ (by simp)]
    · exact ⟨.refl d1, rfl⟩
  clear_value d2
  have h3 : d2.regsOnly d3 ∧ d3.reg .fec 0 0x138 = d2.reg .fec 0 0x138 := by
    unfold d3
    split
    · exact ⟨d2.sticky_regsOnly .fec 0 0, Dev.reg_sticky_ne _ _ (by simp [Page.sticky]) (by simp)⟩
    · exact ⟨.refl d2, rfl⟩
  clear_value d3
  have hd : d.regsOnly d3 := (h1.trans h2.1).trans h3.1
  have hr := h3.2.trans (h2.2.trans hs)
  split
  · rw [hd] at hr ⊢
    exact ⟨rfl, rfl, hr⟩
  · have hb := (d3.blkKeeps_busStore lk Req.fec_isBlock (res + 64) (bs.drop 64) false false).trans
      (Dev.blkKeeps_busStore lk _ Req.fec_isBlock res (bs.take 64) false false)
    refine ⟨hb.cores.trans (by rw [hd]), ?_, (hb.bus.regs _ _ _ (by decide +kernel)).trans hr⟩
    rw [hb.shape, hd]

end Sys2Proof.Machine

/-! ## The obligation -/

open Sys2Proof Sys2Proof.Machine

/-- Settles O20: a result, a contribution and a closed grant leave the cores alone, a deadline closes each open grant of its slot,
and the polar requests stay between the registers and the farm. -/
theorem decoderResults : Obligations.DecoderResults := by
  unfold Obligations.DecoderResults
  refine ⟨?result, ?contribution, ?deadline, ?request, ?polar⟩
  case result =>
    intro s n ue b rest h hr hs o
    obtain ⟨p, r, he⟩ := effCodeBlockResult_eq (lk := s.lk) (ue := ue) h hr hs
    refine ⟨_, exec_onLk (s := s) (i := .codeBlockResult n ue) (f := effCodeBlockResult n.val ue) rfl he, rfl, rfl, ?_⟩
    have hset : (s.d.setEngine n.val rest).fec = { s.d.fec with eng := s.d.fec.eng.set n.val rest } := by
      unfold Dev.setEngine
      rw [Vector.setIfInBounds_eq_set _ n.isLt]
    rw [← hset]
    exact (s.d.setEngine n.val rest).blockResult_spec s.lk n.val b o p r (ue && !(decodeBlk s.d b).2)
  case contribution =>
    intro s c st h n cell hon hlen hheld hwait
    have he : effContribution c.val s.lk s.d = (s.d.streamTaken (8 + c.val) (chunkStream (st.drop (64 + n)))).contribute s.lk h
        ((st.drop 64).take n) := effContribution_eq s.lk hon hlen hheld hwait
    refine ⟨_, exec_onLk (s := s) (i := .contribution c) (f := effContribution c.val) rfl he, rfl, rfl, ?_⟩
    have hk := (s.d.streamTaken (8 + c.val) (chunkStream (st.drop (64 + n)))).chainKeeps_contribute s.lk h ((st.drop 64).take n)
    refine ⟨hk.cores, hk.streams, fun hs => ?_⟩
    dsimp only
    rw [Dev.contribute_stale s.lk (s.d.streamTaken (8 + c.val) (chunkStream (st.drop (64 + n)))) h _ hs]
    have hreg := (s.d.streamTaken (8 + c.val) (chunkStream (st.drop (64 + n)))).bump_regsOnly .rxc 0 0x134 1
    refine ⟨?_, Dev.reg_bump_self .., Dev.keepsRegs_bump _ _ _ _ _ (by simp)⟩
    conv_lhs => rw [hreg]
    rfl
  case deadline =>
    intro s c v x n hf hx hon hr
    obtain ⟨h1, h2⟩ := s.d.passDeadline_spec s.lk c.val n x hf
    exact ⟨_, exec_onLk (s := s) (i := .deadline c v) (f := effDeadline c.val v.toNat) rfl (effDeadline_eq rfl hf hx hon hr),
      rfl, rfl, h1, h2⟩
  case request =>
    intro s c hd w rest hst hon
    have ht := Dev.polarTake_polarOnly c.val hd (flatStream [w]).length (flatStream [w]) (s.d.streamTaken (16 + c.val) rest)
    refine ⟨_, exec_onDev (s := s) (i := .polarRequest c hd) (f := effPolarRequest c.val hd) rfl (effPolarRequest_eq hst hon), ?_, ?_⟩
    · dsimp only
      rw [ht]
      rfl
    · dsimp only
      rw [ht]
      rfl
  case polar =>
    intro s n r hrun
    have hrun : s.d.fec.polRun.toList.getD n.val none = some r := by
      rw [List.getD_eq_getElem?_getD, List.getElem?_eq_getElem (by simp; omega), Vector.getElem_toList]
      exact hrun
    obtain ⟨a1, a2, a3⟩ :=
      ({ s.d with fec := { s.d.fec with polRun := s.d.fec.polRun.setIfInBounds n.val none } } : Dev).polarAnswer_spec s.lk r
    have he := effPolarResult_eq s.lk hrun
    generalize ({ s.d with fec := { s.d.fec with polRun := s.d.fec.polRun.setIfInBounds n.val none } } : Dev).polarAnswer s.lk r = e at *
    refine ⟨_, exec_onLk (s := s) (i := .polarResult n) (f := effPolarResult n.val) rfl he, rfl, rfl, ?_, ?_, fun hq => ?_⟩
    · dsimp only
      rw [e.polarStart_polarOnly]
      exact a1
    · exact (Dev.reg_congr e.polarStart_rg ..).trans a3
    · dsimp only
      rw [Dev.polarStart_of_empty (by rw [a2]; exact hq), a2, Vector.setIfInBounds_eq_set _ n.isLt]

end

section
/-! SUPPORT. The staged transport block and the encoded code block (O21). -/

namespace Sys2Proof.Machine

/-! ### Staging (R324, R326, R549) -/

theorem Req.txc_isBlock : Req.isBlock .txc := ⟨rfl, fun _ h => by cases h⟩

theorem Dev.blkKeeps_draw (d : Dev) : d.blkKeeps d.draw.2 :=
  ⟨⟨rfl, .refl d _, Dev.keepsPci_of_pci rfl, rfl, rfl, fun _ => rfl⟩, rfl, rfl⟩

theorem Dev.blkKeeps_copyList (d : Dev) (n : Nat) : d.blkKeeps (d.copyList n) :=
  Dev.blkKeeps_foldl _ (fun e _ => e.blkKeeps_draw.trans (Dev.readKeeps_owe _ true 2 _).blk) _ d

/-- The list and the blocks of the intake entry copied to the staging area (R324, R326). -/
def Dev.stageCopy (lk : Locked) (d : Dev) (list : List Byte) (blocks : List (List Byte)) (base : Nat) : Dev :=
  ((listEntries list).zip (stageOffsets (listEntries list))).zipIdx.foldl (fun d p =>
    let (g, o) := p.1
    if stageFits g o then d.busStore lk .txc (base + o) (slice (blocks.getD p.2 []) 0 (tbBytes g)) else d)
    (d.copyList (64 + 64 * (listEntries list).length))

theorem Dev.blkKeeps_stageCopy (lk : Locked) (d : Dev) (list : List Byte) (blocks : List (List Byte)) (base : Nat) :
    d.blkKeeps (d.stageCopy lk list blocks base) := by
  refine (d.blkKeeps_copyList _).trans (Dev.blkKeeps_foldl _ (fun e p => ?_) _ _)
  dsimp only
  split
  · exact e.blkKeeps_busStore lk Req.txc_isBlock ..
  · exact .refl e

/-- Slot `x` joins the slots that wait for their acceptance, in place of one of the same name. -/
def Dev.stageSlot (d : Dev) (x : TxSlot) : Dev :=
  { d with txc := { d.txc with slots := (d.txc.slots.filter fun (y : TxSlot) =>
      !(y.cell == x.cell && y.slot == x.slot && y.state == 0)) ++ [x] } }

theorem effTbCopyDone_eq {list : List Byte} {blocks : List (List Byte)} {lk : Locked} {d : Dev} {it : InEntry} {rest : List InEntry}
    (h : d.pci.intake = it :: rest) (hw : d.memWaits = false) :
    let c := bits (leAt it.bytes 0 1) 4 0
    let n := d.absSlot (ceMu (d.activeCell true c)) (leAt it.bytes 4 4)
    let base := txStage (d.cellFor true c n) + n % 2 * 0x200000
    let e := (({ d with pci := { d.pci with intake := rest } } : Dev).stageCopy lk list blocks base).stageSlot
      { cell := c, slot := n, tick := (({ d with pci := { d.pci with intake := rest } } : Dev).stageCopy lk list blocks base).tim.tick,
        list := list, base := base, tbs := stageOffsets (listEntries list) }
    effTbCopyDone list blocks lk d = (e.consume 1).dropBad e.pci.intake.length := by
  unfold effTbCopyDone
  rw [h]
  dsimp only
  rw [if_neg (by simp [hw])]
  rfl

theorem Dev.stageSlot_shape (d : Dev) (x : TxSlot) : d.stageSlot x = { d with txc := (d.stageSlot x).txc } := rfl

/-- An intake entry is staged and consumed (R324, R326, R549). -/
theorem Dev.staged_spec (lk : Locked) (d : Dev) (list : List Byte) (blocks : List (List Byte)) (base : Nat) (x : TxSlot)
    (hb : ∀ y, d.pci.intake.head? = some y → y.bad = false) (k : Nat) :
    let e := (((d.stageCopy lk list blocks base).stageSlot x).consume 1).dropBad k
    e.cores = d.cores ∧ e.pci.intake = d.pci.intake ∧ e.reg .pci 0 0x230 = (d.reg .pci 0 0x230 + 1) % 2 ^ 32 ∧
      e.txc = ((d.stageSlot x).txc) := by
  have hk := d.blkKeeps_stageCopy lk list blocks base
  have hs := hk.shape
  have hp := hk.bus.pci.1
  have hr : (d.stageCopy lk list blocks base).reg .pci 0 0x230 = d.reg .pci 0 0x230 := hk.bus.regs _ _ _ (by decide +kernel)
  generalize d.stageCopy lk list blocks base = f at *
  have hc := ((f.stageSlot x).consume_shape 1).1
  have hreg := (f.stageSlot x).reg_consume 1 .pci 0 0x230
  have hin : ((f.stageSlot x).consume 1).pci.intake = d.pci.intake := by
    rw [hc]
    have h := congrArg PciSt.intake hp
    exact h
  have htx : (f.stageSlot x).txc = (d.stageSlot x).txc := by
    unfold Dev.stageSlot
    rw [hs]
  rw [Dev.dropBad_keeps (by rw [hin]; exact hb)]
  refine ⟨?_, hin, ?_, ?_⟩
  · rw [hc]
    have h := congrArg Dev.cores hs
    exact h
  · rw [hreg, Dev.reg_setReg_self, Nat.mod_mod]
    have h : (f.stageSlot x).reg .pci 0 0x230 = d.reg .pci 0 0x230 := hr
    exact congrArg (fun v => (v + 1) % 2 ^ 32) h
  · rw [hc]
    exact htx

/-! ### Encoding (R327, R359) -/

/-- Grant `g` with block `b` coded and rate-matched (R327). -/
def encodeGrant (turbo : Bool) (nprb : Nat) (b : EncBlk) (g : TxGrant) : TxGrant :=
  let s := gSeg g.bytes
  let gg := txG nprb g.bytes
  let e := s.e b.cb gg (gNl g.bytes) (gQm g.bytes)
  let cw := if turbo then turboEncode (s.k b.cb) b.sys else ldpcEncode b.code s.zc b.sys
  let cwA := cw.toArray
  let lap := (s.lap b.cb (gRv g.bytes) (s.ncb b.cb (gLbrm g.bytes) (gNref g.bytes))).toArray
  let out := (List.range e).map fun t =>
    if lap.size = 0 then false else cwA.getD (lap.getD (deinter s.code e (gQm g.bytes) t % lap.size) 0) false
  { g with coded := g.coded ++ [(b.cb, out)] }

/-- Slot `x` with block `b` coded in its grant. -/
def encodeSlot (turbo : Bool) (nprb : Nat) (b : EncBlk) (x : TxSlot) : TxSlot :=
  if x.cell == b.cell && x.slot == b.slot then
    { x with grants := x.grants.map fun g => if g.num == b.grant then encodeGrant turbo nprb b g else g } else x

/-- Encoder `n` has finished block `b` (R359). -/
def Dev.encodeDone (d : Dev) (turbo : Bool) (n : Nat) (b : EncBlk) : Dev :=
  { d with fec := { d.fec with enc := d.fec.enc.filter (·.1 != n) }
           txc := { d.txc with slots := d.txc.slots.map (encodeSlot turbo (ceNprb (d.cellFor true b.cell b.slot)) b) } }

theorem effEncode_eq {d : Dev} {turbo : Bool} {n : Nat} {b : EncBlk}
    (h : (d.fec.enc.find? fun x => (x.2.code == 2) == turbo) = some (n, b)) (hon : d.fecOn = true) :
    effEncode turbo d = ((d.encodeDone turbo n b).bump .fec 0 0x134 1).encAssign := by
  unfold effEncode
  rw [h]
  dsimp only
  rw [if_neg (by simp [hon])]
  rfl

theorem encodeSlot_coded {turbo : Bool} {nprb : Nat} {b : EncBlk} {x : TxSlot} (hc : (encodeSlot turbo nprb b x).cell = b.cell)
    (hs : (encodeSlot turbo nprb b x).slot = b.slot) :
    ∀ g ∈ (encodeSlot turbo nprb b x).grants, g.num = b.grant → (g.coded.getLast?).map (·.1) = some b.cb := by
  unfold encodeSlot at *
  split at hc
  next hx =>
    rw [if_pos hx]
    intro g hg hn
    obtain ⟨y, -, rfl⟩ := List.mem_map.1 hg
    by_cases hy : (y.num == b.grant) = true
    · rw [if_pos hy]
      simp [encodeGrant]
    · rw [if_neg hy] at hn
      exact absurd (beq_iff_eq.2 hn) hy
  next hx =>
    rw [if_neg hx] at hs
    simp [hc, hs] at hx

/-- What the blocks that go to free encoders change: those of the queue that go, and the encoders that take them (R359). -/
structure Dev.encTakes (d e : Dev) : Prop where
  shape : e = { d with fec := { d.fec with enc := e.fec.enc }, txc := { d.txc with enc := e.txc.enc } }
  queue : ∀ x ∈ e.txc.enc, x ∈ d.txc.enc
  held : ∀ x ∈ d.fec.enc, x ∈ e.fec.enc
  taken : ∀ x ∈ e.fec.enc, x ∈ d.fec.enc ∨ x.2 ∈ d.txc.enc

theorem Dev.encTakes.refl (d : Dev) : d.encTakes d := ⟨rfl, fun _ h => h, fun _ h => h, fun _ h => .inl h⟩

theorem Dev.encTakes_take {d e : Dev} (h : d.encTakes e) (n : Nat) {b : EncBlk} (hb : b ∈ e.txc.enc) :
    d.encTakes { e with fec := { e.fec with enc := e.fec.enc ++ [(n, b)] }, txc := { e.txc with enc := e.txc.enc.erase b } } := by
  obtain ⟨hs, hq, hh, ht⟩ := h
  refine ⟨?_, fun x hx => hq x (List.mem_of_mem_erase hx), fun x hx => List.mem_append_left _ (hh x hx), fun x hx => ?_⟩
  · generalize e.fec.enc ++ [(n, b)] = l at *
    generalize e.txc.enc.erase b = m at *
    rw [hs]
  · obtain hx | hx := List.mem_append.1 hx
    · exact ht x hx
    · rw [List.mem_singleton.1 hx]
      exact .inr (hq b hb)

theorem Dev.encTakes_encAssign (d : Dev) : d.encTakes d.encAssign := by
  unfold Dev.encAssign
  split
  · exact .refl d
  · refine List.foldlRecOn (motive := fun e => d.encTakes e) _ _ (.refl d) fun e h n _ => ?_
    dsimp only
    split
    next hf => exact Dev.encTakes_take h n (List.mem_of_find?_eq_some hf)
    · exact h

end Sys2Proof.Machine

/-! ## The obligation -/

open Sys2Proof Sys2Proof.Machine

/-- Settles O21: the copy changes memory alone before the slot joins the chain, and a coded block leaves its encoder to one that
waits. -/
theorem transmitIntake : Obligations.TransmitIntake := by
  unfold Obligations.TransmitIntake
  refine ⟨?stage, ?encode⟩
  case stage =>
    intro s list blocks it rest h hb hw c n
    have he := effTbCopyDone_eq (list := list) (blocks := blocks) (lk := s.lk) h hw
    dsimp only at he
    have htim := (Dev.blkKeeps_stageCopy s.lk { s.d with pci := { s.d.pci with intake := rest } } list blocks
      (txStage (s.d.cellFor true c n) + n % 2 * 0x200000)).shape
    replace htim := congrArg (fun d : Dev => d.tim.tick) htim
    rw [htim] at he
    obtain ⟨h1, h2, h3, h4⟩ := Dev.staged_spec s.lk { s.d with pci := { s.d.pci with intake := rest } } list blocks
      (txStage (s.d.cellFor true c n) + n % 2 * 0x200000)
      { cell := c, slot := n, tick := s.d.tim.tick, list := list, base := txStage (s.d.cellFor true c n) + n % 2 * 0x200000,
        tbs := stageOffsets (listEntries list) } hb _
    exact ⟨_, exec_onLk (s := s) (i := .tbCopyDone list blocks) (f := effTbCopyDone list blocks) rfl he, rfl, rfl, h1, h2, h3, h4⟩
  case encode =>
    intro s turbo n b h hon
    have he := Dev.encTakes_encAssign ((s.d.encodeDone turbo n b).bump .fec 0 0x134 1)
    have h0 := effEncode_eq h hon
    have hreg := (s.d.encodeDone turbo n b).reg_bump_self .fec 0 0x134 1
    have hk := (s.d.encodeDone turbo n b).keepsRegs_bump .fec 0 0x134 1 (l := [(.fec, 0, 0x134)]) (by simp)
    have hr := (s.d.encodeDone turbo n b).bump_regsOnly .fec 0 0x134 1
    generalize (s.d.encodeDone turbo n b).bump .fec 0 0x134 1 = e at *
    obtain ⟨g, rfl⟩ : ∃ g, e = { s.d.encodeDone turbo n b with rg := g } := ⟨_, hr⟩
    obtain ⟨hs, hq, hh, ht⟩ := he
    generalize Dev.encAssign { s.d.encodeDone turbo n b with rg := g } = f at *
    obtain ⟨l, m, rfl⟩ : ∃ l m, f = { s.d.encodeDone turbo n b with
      rg := g, fec := { (s.d.encodeDone turbo n b).fec with enc := l }, txc := { (s.d.encodeDone turbo n b).txc with enc := m } } :=
      ⟨_, _, hs⟩
    refine ⟨_, exec_onDev (s := s) (i := .encode turbo) (f := effEncode turbo) rfl h0, rfl, rfl, hq, fun x hx hn => hh x ?_, ?_, ?_,
      hreg, hk⟩
    · exact List.mem_filter.2 ⟨hx, by simpa using hn⟩
    · intro x hx hn
      obtain h | h := ht x hx
      · have := (List.mem_filter.1 h).2
        simp [hn] at this
      · exact h
    · intro x hx hc hs
      obtain ⟨y, -, rfl⟩ := List.mem_map.1 hx
      exact encodeSlot_coded hc hs

end

section
/-! SUPPORT. Frames that a fold puts behind those that wait, and the windows of a symbol (O22). -/

namespace Sys2Proof.Machine

/-! ### Sorting -/

theorem insertBy_pairwise {α : Type} (k : α → Nat) (a : α) (l : List α) (h : l.Pairwise fun x y => k x ≤ k y) :
    (insertBy (fun x y => decide (k x ≤ k y)) a l).Pairwise fun x y => k x ≤ k y := by
  induction l with
  | nil => exact List.pairwise_singleton ..
  | cons b l ih =>
    obtain ⟨hb, hl⟩ := List.pairwise_cons.1 h
    unfold insertBy
    split
    next hle =>
      refine List.pairwise_cons.2 ⟨fun x hx => ?_, ih hl⟩
      obtain rfl | hx := mem_insertBy.1 hx
      · exact of_decide_eq_true hle
      · exact hb x hx
    next hle =>
      have hab : k a ≤ k b := by
        simp at hle
        omega
      refine List.pairwise_cons.2 ⟨fun x hx => ?_, h⟩
      obtain rfl | hx := List.mem_cons.1 hx
      · exact hab
      · exact hab.trans (hb x hx)

theorem sortBy_pairwise {α : Type} (k : α → Nat) (l : List α) :
    (sortBy (fun x y => decide (k x ≤ k y)) l).Pairwise fun x y => k x ≤ k y :=
  List.foldlRecOn (motive := fun acc : List α => acc.Pairwise fun x y => k x ≤ k y) _ _ .nil fun _ h a _ => insertBy_pairwise k a _ h

/-! ### Folds that append -/

/-- A fold of which each step appends to a list that the state holds appends the lists of its steps, in order. -/
theorem foldl_appends {α β σ : Type} (f : σ → α → σ) (R : σ → List β → Prop) (P : α → List β → Prop) (l : List α)
    (hf : ∀ e new, ∀ x ∈ l, R e new → ∃ m, R (f e x) (new ++ m) ∧ P x m) (e : σ) (new : List β) (h : R e new) :
    ∃ ms, R (l.foldl f e) (new ++ ms.flatten) ∧ List.Forall₂ P l ms := by
  induction l generalizing e new with
  | nil => exact ⟨[], by simpa using h, .nil⟩
  | cons x l ih =>
    obtain ⟨m, hm, hp⟩ := hf e new x List.mem_cons_self h
    obtain ⟨ms, hms, hps⟩ := ih (fun e new x hx => hf e new x (List.mem_cons_of_mem _ hx)) _ _ hm
    exact ⟨m :: ms, by simpa using hms, .cons hp hps⟩

/-- A fold of which each step appends one element. -/
theorem foldl_appends_one {α β σ : Type} (f : σ → α → σ) (R : σ → List β → Prop) (P : α → β → Prop) (l : List α)
    (hf : ∀ e new, ∀ x ∈ l, R e new → ∃ b, R (f e x) (new ++ [b]) ∧ P x b) (e : σ) (new : List β) (h : R e new) :
    ∃ m, R (l.foldl f e) (new ++ m) ∧ List.Forall₂ P l m := by
  induction l generalizing e new with
  | nil => exact ⟨[], by simpa using h, .nil⟩
  | cons x l ih =>
    obtain ⟨b, hb, hp⟩ := hf e new x List.mem_cons_self h
    obtain ⟨m, hm, hps⟩ := ih (fun e new x hx => hf e new x (List.mem_cons_of_mem _ hx)) _ _ hb
    exact ⟨b :: m, by simpa using hm, .cons hp hps⟩

theorem exists_left_of_forall₂ {α β : Type} {P : α → β → Prop} {l : List α} {m : List β} (h : List.Forall₂ P l m) :
    ∀ b ∈ m, ∃ a ∈ l, P a b := by
  induction h with
  | nil => simp
  | cons h _ ih =>
    intro b hb
    obtain rfl | hb := List.mem_cons.1 hb
    · exact ⟨_, List.mem_cons_self, h⟩
    · obtain ⟨a, ha, hp⟩ := ih b hb
      exact ⟨a, List.mem_cons_of_mem _ ha, hp⟩

theorem exists_right_of_forall₂ {α β : Type} {P : α → β → Prop} {l : List α} {m : List β} (h : List.Forall₂ P l m) :
    ∀ a ∈ l, ∃ b ∈ m, P a b := by
  induction h with
  | nil => simp
  | cons h _ ih =>
    intro a ha
    obtain rfl | ha := List.mem_cons.1 ha
    · exact ⟨_, List.mem_cons_self, h⟩
    · obtain ⟨b, hb, hp⟩ := ih a ha
      exact ⟨b, List.mem_cons_of_mem _ hb, hp⟩

/-! ### Frames put before the ports (R333, R334, R337) -/

/-- `e` is `d` with the frames `new` behind those that wait, and the sequence numbers that they took. -/
def Dev.queues (d e : Dev) (new : List TxFrame) : Prop :=
  ∃ q, e = { d with txc := { d.txc with frames := d.txc.frames ++ new, seqIds := q } }

theorem Dev.queues.nil (d : Dev) : d.queues d [] := ⟨d.txc.seqIds, by simp⟩

/-- Frame `fr` put behind those that wait. -/
def Dev.putFrame (d : Dev) (fr : TxFrame) : Dev := { d with txc := { d.txc with frames := d.txc.frames ++ [fr] } }

theorem Dev.queues.put {d e : Dev} {new : List TxFrame} (h : d.queues e new) (kind st : Nat) (fr : TxFrame) :
    d.queues ((e.nextSeq kind st).2.putFrame fr) (new ++ [fr]) := by
  refine ⟨(e.nextSeq kind st).2.txc.seqIds, ?_⟩
  obtain ⟨q, rfl⟩ := h
  unfold Dev.nextSeq Dev.putFrame
  dsimp only
  rw [List.append_assoc]

theorem Dev.queues.same {d e : Dev} {new : List TxFrame} (h : d.queues e new) :
    (∀ c s, e.cellFor true c s = d.cellFor true c s) ∧ (∀ c s, e.streamsOf true c s = d.streamsOf true c s) ∧
    (∀ a s n, e.txWindow a s n = d.txWindow a s n) := by
  obtain ⟨q, rfl⟩ := h
  exact ⟨fun _ _ => rfl, fun _ _ => rfl, fun _ _ _ => rfl⟩

/-- A frame of symbol `y` at port `p`, bounded by the close `w` of its window. -/
def TxSym.frameOf (y : TxSym) (w p : Nat) (f : TxFrame) : Prop :=
  f.prec = 1 ∧ f.cell = y.cell ∧ f.slot = y.slot ∧ f.sym = y.sym ∧ f.row = y.row ∧ f.close = some w ∧ f.port = p

theorem bfpBytes_seM_le (e : List Byte) : bfpBytes (seM e) ≤ 70 := by
  have h : bits (leAt e 2 1) 3 0 < 16 := Nat.mod_lt _ (by decide)
  unfold bfpBytes seM
  omega

/-- A grid with a resource block has a U-plane section (R334). -/
theorem uSections_ne_nil {nprb : Nat} (e row : List Byte) (h : nprb ≠ 0) : uSections nprb (seM e) row ≠ [] := by
  have hm := bfpBytes_seM_le e
  have h1 : 1 ≤ bfpBytes (seM e) := by
    unfold bfpBytes
    omega
  have hper : 0 < 8000 / bfpBytes (seM e) := Nat.div_pos (by omega) h1
  unfold uSections
  dsimp only
  rw [Ne, List.map_eq_nil_iff, List.range_eq_nil]
  unfold ceilDiv
  exact (Nat.div_pos (by omega) hper).ne'

theorem ceilDiv_pos {a b : Nat} (ha : a ≠ 0) (hb : 0 < b) : 0 < ceilDiv a b := by
  unfold ceilDiv
  exact Nat.div_pos (by omega) hb

/-- Has symbol `y` samples or resource blocks to send? -/
def TxSym.sends (e : List Byte) (y : TxSym) : Prop := if txEgress e then y.samples ≠ [] else ceNprb e ≠ 0

/-- The frames of a symbol are its own, within its window, and a symbol with something to send has one at each of its ports. -/
def TxSym.framed (d : Dev) (y : TxSym) (new : List TxFrame) : Prop :=
  (∀ f ∈ new, ∃ p, y.frameOf (d.txWindow (d.cellFor true y.cell y.slot) y.slot y.sym).2 p f) ∧
  (y.sends (d.cellFor true y.cell y.slot) → ∀ p ∈ d.streamsOf true y.cell y.slot, seRow p.2 = y.row → ∃ f ∈ new, f.port = sePort p.2)

/-- The frame of a payload of symbol `y` for stream `p`, whose window closes at `w` (R334, R337). -/
def Dev.symFrame (d : Dev) (y : TxSym) (w : Nat) (p : Nat × List Byte) (ready : Nat) (payload : List Byte) : TxFrame :=
  { port := sePort p.2, prec := 1, cell := y.cell, slot := y.slot, sym := y.sym, row := y.row, ready := ready
    close := some w, bytes := d.ethFrame y.cell (sePort p.2) 0xAEFE payload }

/-- The frames of symbol `y`, of a cell of entry `e`, for stream `p` put before its port (R334, R337). -/
def Dev.queueStream (d : Dev) (y : TxSym) (e : List Byte) (w : Nat) (p : Nat × List Byte) : Dev :=
  if txEgress e then
    let spf := max 1 (txSpf e)
    let mu := ceMu e
    let before := ((List.range y.sym).map fun l =>
      cpLen (2 ^ txNfftl e) mu (y.slot % 2 ^ mu * 14 + l) + 2 ^ txNfftl e).foldl (· + ·) 0
    (List.range (ceilDiv y.samples.length spf)).foldl (fun d i =>
      (d.nextSeq 0 p.1).2.putFrame ((d.nextSeq 0 p.1).2.symFrame y w p y.tick
        (ecpri 0 (seEaxc p.2) (d.nextSeq 0 p.1).1 (leBytes 4 (before + i * spf) ++
          ((y.samples.drop (i * spf)).take spf).flatMap cs16)))) d
  else
    (uSections (ceNprb e) (seM p.2) y.grid).foldl (fun d' x =>
      (d'.nextSeq 0 p.1).2.putFrame ((d'.nextSeq 0 p.1).2.symFrame y w p (d'.nextSeq 0 p.1).2.tim.tick
        (ecpri 0 (seEaxc p.2) (d'.nextSeq 0 p.1).1 (oranApp 0x90 (d.oranIds (ceMu e) y.slot).1 (d.oranIds (ceMu e) y.slot).2.1
          (d.oranIds (ceMu e) y.slot).2.2 y.sym ++
          beBytes 4 (x.1 * 256 + if x.2.1 = ceNprb e ∧ 255 < ceNprb e then 0 else x.2.1) ++
          (if seHdr p.2 then [BitVec.ofNat 8 (seM p.2 % 16 * 16 + 1), 0] else []) ++ x.2.2)))) d

theorem Dev.queueSym_eq (d : Dev) (y : TxSym) : d.queueSym y =
    ((d.streamsOf true y.cell y.slot).filter fun p => seRow p.2 == y.row).foldl (fun e p => e.queueStream y
      (d.cellFor true y.cell y.slot) (d.txWindow (d.cellFor true y.cell y.slot) y.slot y.sym).2 p) d := rfl

theorem TxSym.frameOf_symFrame (d : Dev) (y : TxSym) (w : Nat) (p : Nat × List Byte) (ready : Nat) (payload : List Byte) :
    y.frameOf w (sePort p.2) (d.symFrame y w p ready payload) := ⟨rfl, rfl, rfl, rfl, rfl, rfl, rfl⟩

/-- A fold that puts one frame of symbol `y` for each element. -/
theorem Dev.queues_frames {α : Type} {d e : Dev} {new : List TxFrame} (h : d.queues e new) (y : TxSym) (w : Nat) (p : Nat × List Byte)
    (ready : Dev → Nat) (payload : Dev → α → List Byte) (l : List α) :
    ∃ m, d.queues (l.foldl (fun e x => (e.nextSeq 0 p.1).2.putFrame
        ((e.nextSeq 0 p.1).2.symFrame y w p (ready (e.nextSeq 0 p.1).2) (payload e x))) e) (new ++ m) ∧
      (∀ f ∈ m, y.frameOf w (sePort p.2) f) ∧ (l ≠ [] → m ≠ []) := by
  obtain ⟨m, hq, hm⟩ := foldl_appends_one (fun e x => (e.nextSeq 0 p.1).2.putFrame
      ((e.nextSeq 0 p.1).2.symFrame y w p (ready (e.nextSeq 0 p.1).2) (payload e x))) d.queues
    (fun _ f => y.frameOf w (sePort p.2) f) l (fun e new i _ h => ⟨_, h.put 0 p.1 _, TxSym.frameOf_symFrame ..⟩) e new h
  refine ⟨m, hq, fun f hf => ?_, fun hl hn => hl ?_⟩
  · obtain ⟨-, -, hf⟩ := exists_left_of_forall₂ hm f hf
    exact hf
  · rw [hn] at hm
    exact List.forall₂_nil_right_iff.1 hm

/-- A stream of a symbol gets frames of the symbol alone, and one at least when there is something to send. -/
theorem Dev.queues_queueStream {d e : Dev} {new : List TxFrame} (h : d.queues e new) (y : TxSym) (a : List Byte) (w : Nat)
    (p : Nat × List Byte) :
    ∃ m, d.queues (e.queueStream y a w p) (new ++ m) ∧ (∀ f ∈ m, y.frameOf w (sePort p.2) f) ∧ (y.sends a → m ≠ []) := by
  unfold Dev.queueStream TxSym.sends
  split
  next heg =>
    obtain ⟨m, hq, hm, hne⟩ := Dev.queues_frames h y w p (fun _ => y.tick) _ (List.range (ceilDiv y.samples.length (max 1 (txSpf a))))
    refine ⟨m, hq, hm, fun hs => hne ?_⟩
    rw [Ne, List.range_eq_nil]
    exact (ceilDiv_pos (by simpa using hs) (by omega)).ne'
  next heg =>
    obtain ⟨m, hq, hm, hne⟩ := Dev.queues_frames h y w p (fun d => d.tim.tick) _ (uSections (ceNprb a) (seM p.2) y.grid)
    exact ⟨m, hq, hm, fun hs => hne (uSections_ne_nil _ _ hs)⟩

theorem Dev.queues_queueSym {d e : Dev} {new : List TxFrame} (h : d.queues e new) (y : TxSym) :
    ∃ m, d.queues (e.queueSym y) (new ++ m) ∧ y.framed d m := by
  obtain ⟨hc, hs, hw⟩ := h.same
  rw [Dev.queueSym_eq, hc, hs, hw]
  obtain ⟨ms, hq, hf⟩ := foldl_appends _ d.queues (fun p m => (∀ f ∈ m, y.frameOf
      (d.txWindow (d.cellFor true y.cell y.slot) y.slot y.sym).2 (sePort p.2) f) ∧ (y.sends (d.cellFor true y.cell y.slot) → m ≠ []))
    ((d.streamsOf true y.cell y.slot).filter fun p => seRow p.2 == y.row)
    (fun e new p _ h => Dev.queues_queueStream h y _ _ p) e new h
  refine ⟨ms.flatten, hq, fun f hfm => ?_, fun hsend p hp hr => ?_⟩
  · obtain ⟨m, hm, hfm⟩ := List.mem_flatten.1 hfm
    obtain ⟨p, -, hp, -⟩ := exists_left_of_forall₂ hf m hm
    exact ⟨_, hp f hfm⟩
  · obtain ⟨m, hm, hp, hne⟩ := exists_right_of_forall₂ hf p (List.mem_filter.2 ⟨hp, by simpa using hr⟩)
    obtain ⟨f, hfm⟩ := List.exists_mem_of_ne_nil _ (hne hsend)
    obtain ⟨-, -, -, -, -, -, hport⟩ := hp f hfm
    exact ⟨f, List.mem_flatten.2 ⟨m, hm, hfm⟩, hport⟩

/-- Frames of symbols by ascending row are by ascending row (R333). -/
theorem framed_pairwise {d : Dev} {ys : List TxSym} {ms : List (List TxFrame)} (h : List.Forall₂ (fun y m => y.framed d m) ys ms)
    (hy : ys.Pairwise fun x y => x.row ≤ y.row) : ms.flatten.Pairwise fun a b => a.row ≤ b.row := by
  have hrow {y : TxSym} {m : List TxFrame} (h : y.framed d m) : ∀ f ∈ m, f.row = y.row := fun f hf => by
    obtain ⟨p, -, -, -, -, hr, -⟩ := h.1 f hf
    exact hr
  induction h with
  | nil => exact .nil
  | cons hym htail ih =>
    obtain ⟨hle, hy⟩ := List.pairwise_cons.1 hy
    rw [List.flatten_cons, List.pairwise_append]
    refine ⟨List.pairwise_iff_forall_sublist.2 fun {a b} hab => by
      rw [hrow hym a (hab.subset (by simp)), hrow hym b (hab.subset (by simp))], ih hy, fun a ha b hb => ?_⟩
    obtain ⟨m, hm, hb⟩ := List.mem_flatten.1 hb
    obtain ⟨z, hz, hzm⟩ := exists_left_of_forall₂ htail m hm
    rw [hrow hym a ha, hrow hzm b hb]
    exact hle z hz

/-- The complete streams of a symbol, by ascending row (R333). -/
def Dev.symsOf (d : Dev) (c s n : Nat) : List TxSym :=
  sortBy (fun (a b : TxSym) => decide (a.row ≤ b.row)) (d.txc.syms.filter fun y => y.cell == c && y.slot == s && y.sym == n)

theorem Dev.mem_symsOf {d : Dev} {c s n : Nat} {y : TxSym} :
    y ∈ d.symsOf c s n ↔ y ∈ d.txc.syms ∧ y.cell = c ∧ y.slot = s ∧ y.sym = n := by
  unfold Dev.symsOf
  rw [mem_sortBy, List.mem_filter]
  simp [and_assoc]

/-- A window that opens (R333). -/
def Dev.openWindow (d : Dev) (c s n : Nat) : Dev := { d with txc := { d.txc with opened := d.txc.opened ++ [(c, s, n)] } }

theorem effTxWindowOpen_eq {d : Dev} {c v k : Nat} (hk : k < 14) :
    let n := d.absSlot (ceMu (d.activeCell true c)) v
    let e := d.cellFor true c n
    d.gridOn = true → d.flag .txc 0 0x100 0 = true → ceEnable e = true → reached d.ns (d.txWindow e n k).1 = true →
    (c, n, k) ∉ d.txc.opened → d.txClosed c n k = false →
    effTxWindowOpen c v k d = ((d.openWindow c n k).symsOf c n k).foldl (fun d y => d.queueSym y) (d.openWindow c n k) := by
  intro n e hg ht he hr ho hc
  unfold effTxWindowOpen
  dsimp only
  rw [if_neg (by simp [hg, ht, he, hr, ho, hc, n, e, hk])]
  rfl

/-! ### Closing a window (R21, R333, R337) -/

/-- Is frame `f` one of the window of symbol `n` of slot `s` of cell `c`? -/
def TxFrame.ofWindow (c s n : Nat) (f : TxFrame) : Bool := f.prec == 1 && f.cell == c && f.slot == s && f.sym == n

/-- Rows of the enabled streams of slot `s` of cell `c`. -/
def Dev.winRows (d : Dev) (c s : Nat) : List Nat := (d.streamsOf true c s).map fun p => seRow p.2

/-- Rows of symbol `n` that are not complete. -/
def Dev.winLate (d : Dev) (c s n : Nat) : List Nat :=
  (d.winRows c s).filter fun a => !(d.txc.syms.any fun y =>
    y.cell == c && y.slot == s && y.sym == n && y.row == a && decide (y.tick ≤ d.tim.tick))

/-- The window of symbol `n` closed, without its frames; `e` is the entry of the cell. -/
def Dev.shutWindow (d : Dev) (c s n : Nat) (e : List Byte) : Dev :=
  { d with txc := { d.txc with
      frames := d.txc.frames.filter fun f => !f.ofWindow c s n
      opened := d.txc.opened.filter (· != (c, s, n))
      closed := (d.txc.closed.filter fun (x : Nat × Nat × Nat) => !(x.1 == c && decide (x.2.1 + 1 < s))) ++ [(c, s, n)]
      td := d.txc.td.filter fun h => !(h.cell == c && h.last == 14 * s + n && (d.winLate c s n).contains h.row)
      syms := d.txc.syms.filter fun (y : TxSym) => !(y.cell == c && decide (y.slot + 1 < s))
      slots := d.txc.slots.filter fun (y : TxSlot) => !(y.cell == c && decide (y.slot + 1 < s))
      markers := if n = 13 && txOvl e then d.txc.markers ++ [(c, s)] else d.txc.markers } }

/-- The streams `sent` and `late` and the frames dropped at a close counted, and its event (R333, R337). -/
def Dev.countWindow (d : Dev) (c s n sent : Nat) (late : List Nat) (dropped : Nat) : Dev :=
  let d := d.bump .txc 0 0x13C sent
  let d := if n = 13 then d.bankFree true c s else d
  if late.isEmpty && dropped = 0 then d
  else
    let d := ((d.bump .txc 0 0x12C late.length).bump .txc 0 0x130 dropped).sticky .txc 0 3
    d.post .txc 0 0x05 6 0 (layout 20 [(0, 1, c), (4, 4, s), (8, 1, n), (10, 2, late.length), (12, 4, dropped)])

theorem effTxWindowClose_eq {d : Dev} {c v k : Nat} (hk : k < 14) :
    let n := d.absSlot (ceMu (d.activeCell true c)) v
    let e := d.cellFor true c n
    d.gridOn = true → d.flag .txc 0 0x100 0 = true → ceEnable e = true → reached d.ns (d.txWindow e n k).2 = true →
    d.txClosed c n k = false →
    effTxWindowClose c v k d = (d.shutWindow c n k e).countWindow c n k ((d.winRows c n).length - (d.winLate c n k).length)
      (d.winLate c n k) (d.txc.frames.filter fun f => f.ofWindow c n k && !(d.winLate c n k).contains f.row).length := by
  intro n e hg ht he hr hc
  unfold effTxWindowClose
  dsimp only
  rw [if_neg (by simp [hg, ht, he, hr, hc, n, e, hk])]
  rfl

theorem Dev.countWindow_spec (d : Dev) (c s n sent : Nat) (late : List Nat) (dropped : Nat) :
    let e := d.countWindow c s n sent late dropped
    e = { d with rg := e.rg, pci := e.pci } ∧ d.keepsPci e ∧ e.reg .txc 0 0x13C = satAdd (d.reg .txc 0 0x13C) sent ∧
      e.reg .txc 0 0x12C = satAdd (d.reg .txc 0 0x12C) late.length ∧ e.reg .txc 0 0x130 = satAdd (d.reg .txc 0 0x130) dropped := by
  have h1 := d.bump_regsOnly .txc 0 0x13C sent
  have hs := d.reg_bump_self .txc 0 0x13C sent
  have hk := d.keepsRegs_bump .txc 0 0x13C sent (l := [(.txc, 0, 0x13C)]) (by simp)
  unfold Dev.countWindow
  extract_lets d1 d2 d3 e
  change d.regsOnly d1 at h1
  change d1.reg .txc 0 0x13C = _ at hs
  change d.keepsRegs d1 _ at hk
  clear_value d1
  have h2 : d1.regsOnly d2 ∧ d1.keepsRegs d2 [(.txc, 0, 0x114)] := by
    unfold d2
    split
    · refine ⟨Dev.bankFree_regsOnly .., ?_⟩
      unfold Dev.bankFree
      split
      · exact Dev.keepsRegs_setFld _ _ _ _ _ _ _ (by simp [chainPage])
      · exact .refl d1 _
    · exact ⟨.refl d1, .refl d1 _⟩
  clear_value d2
  have hd : d.regsOnly d2 := h1.trans h2.1
  have r1 : d2.reg .txc 0 0x13C = satAdd (d.reg .txc 0 0x13C) sent := (h2.2 _ _ _ (by decide +kernel)).trans hs
  have r2 (o : Nat) (h : o ∈ [0x12C, 0x130]) : d2.reg .txc 0 o = d.reg .txc 0 o := by
    refine (h2.2 _ _ _ ?_).trans (hk _ _ _ ?_)
    · simp at h
      simp [RegAt.addr]
      omega
    · simp at h
      simp [RegAt.addr]
      omega
  by_cases hz : (late.isEmpty && decide (dropped = 0)) = true
  · have he : e = d2 := if_pos hz
    rw [he]
    simp only [Bool.and_eq_true, List.isEmpty_iff, decide_eq_true_eq] at hz
    refine ⟨?_, Dev.keepsPci_of_pci (by rw [hd]), r1, ?_, ?_⟩
    · rw [hd]
    · rw [r2 _ (by simp), hz.1]
      exact (satAdd_zero (d.reg_lt ..)).symm
    · rw [r2 _ (by simp), hz.2]
      exact (satAdd_zero (d.reg_lt ..)).symm
  · have he : e = d3.post .txc 0 0x05 6 0
        (layout 20 [(0, 1, c), (4, 4, s), (8, 1, n), (10, 2, late.length), (12, 4, dropped)]) := if_neg hz
    rw [he]
    have h3 : d2.regsOnly d3 := ((d2.bump_regsOnly ..).trans (Dev.bump_regsOnly ..)).trans (Dev.sticky_regsOnly ..)
    have hp := d3.post_shape .txc 0 0x05 6 0 (layout 20 [(0, 1, c), (4, 4, s), (8, 1, n), (10, 2, late.length), (12, 4, dropped)])
    have hpk := d3.keepsPci_post .txc 0 0x05 6 0 (layout 20 [(0, 1, c), (4, 4, s), (8, 1, n), (10, 2, late.length), (12, 4, dropped)])
    have hpr := d3.keepsRegs_post .txc 0 0x05 6 0
      (layout 20 [(0, 1, c), (4, 4, s), (8, 1, n), (10, 2, late.length), (12, 4, dropped)]) (List.Subset.refl evtRegs)
    have h0 : d.regsOnly d3 := hd.trans h3
    have q1 : d3.reg .txc 0 0x13C = d2.reg .txc 0 0x13C := by
      unfold d3
      rw [Dev.reg_sticky_ne _ _ (by simp [Page.sticky]) (by simp), Dev.reg_bump_ne _ _ (by simp), Dev.reg_bump_ne _ _ (by simp)]
    have q2 : d3.reg .txc 0 0x12C = satAdd (d2.reg .txc 0 0x12C) late.length := by
      unfold d3
      rw [Dev.reg_sticky_ne _ _ (by simp [Page.sticky]) (by simp), Dev.reg_bump_ne _ _ (by simp), Dev.reg_bump_self]
    have q3 : d3.reg .txc 0 0x130 = satAdd (d2.reg .txc 0 0x130) dropped := by
      unfold d3
      rw [Dev.reg_sticky_ne _ _ (by simp [Page.sticky]) (by simp), Dev.reg_bump_self, Dev.reg_bump_ne _ _ (by simp)]
    clear_value d3
    refine ⟨?_, (Dev.keepsPci_of_pci (by rw [h0])).trans hpk, (hpr _ _ _ (by decide +kernel)).trans (q1.trans r1),
      (hpr _ _ _ (by decide +kernel)).trans (q2.trans ?_), (hpr _ _ _ (by decide +kernel)).trans (q3.trans ?_)⟩
    · rw [hp, h0]
    · rw [r2 _ (by simp)]
    · rw [r2 _ (by simp)]

end Sys2Proof.Machine

/-! ## The obligation -/

open Sys2Proof Sys2Proof.Machine

/-- Settles O22: the frames of the complete streams, row after row, and the counts of a close. -/
theorem transmitWindows : Obligations.TransmitWindows := by
  unfold Obligations.TransmitWindows
  refine ⟨?opens, ?closes⟩
  case opens =>
    intro s c v k n e hg ht he hr ho hc
    obtain ⟨ms, ⟨q, hq⟩, hf⟩ := foldl_appends (fun d y => d.queueSym y) (s.d.openWindow c n k).queues
      (fun y m => y.framed (s.d.openWindow c n k) m) ((s.d.openWindow c n k).symsOf c n k)
      (fun e new y _ h => Dev.queues_queueSym h y) _ [] (Dev.queues.nil _)
    have h0 := (effTxWindowOpen_eq k.isLt hg ht he hr ho hc).trans hq
    refine ⟨_, ms.flatten, exec_onDev (s := s) (i := .txWindowOpen c v k) (f := effTxWindowOpen c.val v.toNat k.val) rfl h0,
      rfl, rfl, fun f hfm => ?_, framed_pairwise hf (sortBy_pairwise ..), fun f hfm => ?_, fun y hy hyc hys hyk hsend p hp hpr => ?_⟩
    · obtain ⟨m, hm, hfm⟩ := List.mem_flatten.1 hfm
      obtain ⟨y, hy, hframed, -⟩ := exists_left_of_forall₂ hf m hm
      obtain ⟨-, hyc, hys, hyk⟩ := Dev.mem_symsOf.1 hy
      obtain ⟨p, f1, f2, f3, f4, -, f5, -⟩ := hframed f hfm
      rw [hyc, hys, hyk] at f5
      exact ⟨f1, f2.trans hyc, f3.trans hys, f4.trans hyk, f5⟩
    · obtain ⟨m, hm, hfm⟩ := List.mem_flatten.1 hfm
      obtain ⟨y, hy, hframed, -⟩ := exists_left_of_forall₂ hf m hm
      obtain ⟨hmem, hyc, hys, hyk⟩ := Dev.mem_symsOf.1 hy
      obtain ⟨p, -, -, -, -, hrow, -⟩ := hframed f hfm
      exact ⟨y, hmem, hyc, hys, hyk, hrow.symm⟩
    · obtain ⟨m, hm, hframed, hsends⟩ := exists_right_of_forall₂ hf y (Dev.mem_symsOf.2 ⟨hy, hyc, hys, hyk⟩)
      rw [hyc, hys] at hsends
      obtain ⟨f, hfm, hport⟩ := hsends hsend p hp hpr
      obtain ⟨q, -, -, -, -, hrow, -⟩ := hframed f hfm
      exact ⟨f, List.mem_flatten.2 ⟨m, hm, hfm⟩, hrow, hport⟩
  case closes =>
    intro s c v k n e rows mine late hg ht he hr hc
    obtain ⟨h1, h2, h3, h4, h5⟩ := (s.d.shutWindow c n k e).countWindow_spec c n k ((s.d.winRows c n).length - (s.d.winLate c n k).length)
      (s.d.winLate c n k) (s.d.txc.frames.filter fun f => f.ofWindow c n k && !(s.d.winLate c n k).contains f.row).length
    have h0 := effTxWindowClose_eq k.isLt hg ht he hr hc
    generalize (s.d.shutWindow c n k e).countWindow c n k _ _ _ = x at *
    obtain ⟨r, p, rfl⟩ : ∃ r p, x = { s.d.shutWindow c n k e with rg := r, pci := p } := ⟨_, _, h1⟩
    refine ⟨_, exec_onDev (s := s) (i := .txWindowClose c v k) (f := effTxWindowClose c.val v.toNat k.val) rfl h0, rfl, h2, ?_, ?_, rfl,
      h3, h4, h5⟩
    · exact List.mem_append_right _ (List.mem_singleton.2 rfl)
    · exact fun h => by simpa using (List.mem_filter.1 h).2

end

section
/-! SUPPORT. The C-plane messages of a slot (O23). -/

namespace Sys2Proof.Machine

theorem getElem?_of_forall₂ {α β : Type} {P : α → β → Prop} {l : List α} {m : List β} (h : List.Forall₂ P l m) {i : Nat} {a : α} {b : β}
    (ha : l[i]? = some a) (hb : m[i]? = some b) : P a b := by
  induction h generalizing i with
  | nil => simp at ha
  | cons hab _ ih =>
    cases i with
    | zero =>
      simp at ha hb
      exact ha ▸ hb ▸ hab
    | succ i => exact ih (by simpa using ha) (by simpa using hb)

/-- Body of the C-plane message of a stream entry, and the device after what it reads (R335, R454). -/
def Dev.cplaneBody (lk : Locked) (d : Dev) (up : Bool) (te : List Byte) (ids : Nat × Nat × Nat) (num : Nat) (se : List Byte) :
    List Byte × Dev :=
  if up && seKind se = 1 then
    let (t, _, d) := d.busBytes lk .txc (txTd te + 0x800) 256
    let m := slice t 4 (min (leAt t 0 4) 252)
    (oranApp (0x10 + leAt m 0 1 % 16) ids.1 ids.2.1 ids.2.2 0 ++ m.drop 4, d)
  else
    (oranApp (if up then 0x10 else 0x90) ids.1 ids.2.1 ids.2.2 0 ++ [1, 1, BitVec.ofNat 8 (seM se % 16 * 16 + 1), 0] ++
      beBytes 4 num ++ beBytes 2 (0xFFF * 16 + 14) ++ beBytes 2 0, d)

/-- Destination entry of a C-plane message (R457). -/
def cplaneDst (up : Bool) (c : Nat) : Nat := if up then 32 + c else c

/-- Port of the C-plane message of a stream entry (R456). -/
def Dev.cplanePort (d : Dev) (up : Bool) (c : Nat) (se : List Byte) : Nat :=
  if up then bits (d.reg .eth 0 (0x408 + 16 * cplaneDst up c)) 3 1 else sePort se

/-- Frame of the C-plane message with sequence number `q` and body `b` (R335, R454). -/
def Dev.cplaneFrame (d : Dev) (up : Bool) (c s : Nat) (se : List Byte) (q : Nat) (b : List Byte) : TxFrame :=
  { port := d.cplanePort up c se, prec := 0, cell := c, slot := s, sym := 0, row := 0, ready := d.tim.tick
    bytes := d.ethFrame (cplaneDst up c) (d.cplanePort up c se) 0xAEFE (ecpri 2 (seEaxc se) q b) }

/-- The C-plane message of stream `p` put before its port (R335). -/
def Dev.cplaneStream (lk : Locked) (c s : Nat) (up : Bool) (te : List Byte) (ids : Nat × Nat × Nat) (num : Nat) (d : Dev)
    (p : Nat × List Byte) : Dev :=
  let d1 := (d.nextSeq (if up then 2 else 1) p.1).2
  let b := d1.cplaneBody lk up te ids num p.2
  b.2.putFrame (b.2.cplaneFrame up c s p.2 (d.nextSeq (if up then 2 else 1) p.1).1 b.1)

/-- The C-plane of slot `s` of cell `c` is done (R335). -/
def Dev.cplaneDone (d : Dev) (c s : Nat) (up : Bool) : Dev :=
  { d with txc := { d.txc with cplane :=
      (d.txc.cplane.filter fun (x : Nat × Bool × Nat) => !(x.1 == c && x.2.1 == up)) ++ [(c, up, s)] } }

theorem effCplaneSend_eq {lk : Locked} {d : Dev} {c v : Nat} {up : Bool} :
    let n := d.absSlot (ceMu (d.activeCell (!up) c)) v
    let e := d.cellFor (!up) c n
    let te := if up then d.activeCell true c else e
    d.gridOn = true → d.flag .txc 0 0x100 0 = true → ceEnable e = true → (up = false → txEgress e = false) →
    reached d.ns ((d.symStart (ceMu e) n 0 + 2 ^ 32 - (if up then leAt te 20 4 else leAt e 4 4)) % 2 ^ 32) = true →
    (∀ x ∈ d.txc.cplane, x.1 = c → x.2.1 = up → x.2.2 < n) →
    effCplaneSend c up v lk d = (d.streamsOf (!up) c n).foldl
      (Dev.cplaneStream lk c n up te (d.oranIds (ceMu e) n) (if 255 < ceNprb e then 0 else ceNprb e)) (d.cplaneDone c n up) := by
  intro n e te hg ht he hx hr hp
  unfold effCplaneSend
  dsimp only
  have hpast : (d.txc.cplane.any fun x => x.1 == c && x.2.1 == up && decide (n ≤ x.2.2)) = false := by
    rw [List.any_eq_false]
    intro x hm
    have h := hp x hm
    simp only [Bool.and_eq_true, beq_iff_eq, decide_eq_true_eq, not_and, not_le, and_imp]
    exact h
  have heg : (!up && txEgress e) = false := by
    cases up with
    | false => exact hx rfl
    | true => rfl
  rw [if_neg ?_]
  · rfl
  · dsimp only [n, e, te] at he hpast heg hr ⊢
    rw [hg, ht, he, heg, hr, hpast]
    decide

/-! ### The frames that the fold puts -/

theorem busRegs_eth : ∀ a ∈ busRegs.map RegAt.addr, a < 0x10000 ∨ 0x18000 ≤ a := by decide +kernel

/-- Reads through the device map leave the registers of the ports alone. -/
theorem Dev.readKeeps.reg_eth {d e : Dev} (h : d.readKeeps e) {n o : Nat} (hn : n < 8) (ho : o < 0x1000) :
    e.reg .eth n o = d.reg .eth n o := by
  refine h.regs _ _ _ fun hm => ?_
  have := busRegs_eth _ hm
  simp at this
  omega

/-- A frame takes its addresses from the registers of the ports (R457, R471). -/
theorem Dev.ethFrame_congr {d e : Dev} (h : ∀ n o, n < 8 → o < 0x1000 → e.reg .eth n o = d.reg .eth n o) {t port : Nat} (ht : t < 64)
    (hp : port < 8) (typ : Nat) (b : List Byte) : e.ethFrame t port typ b = d.ethFrame t port typ b := by
  unfold Dev.ethFrame Dev.macOf Dev.flag Dev.fld
  dsimp only
  rw [h 0 (0x400 + 16 * t + 4) (by omega) (by omega), h 0 (0x400 + 16 * t) (by omega) (by omega),
    h 0 (0x400 + 16 * t + 8) (by omega) (by omega), h port 0x10C hp (by omega), h port 0x108 hp (by omega)]

theorem ecpri_mod (typ pcid q : Nat) (b : List Byte) : ecpri typ pcid q b = ecpri typ pcid (q % 256) b := by
  have h : leBytes 1 q = leBytes 1 (q % 256) :=
    congrArg (· :: []) (BitVec.eq_of_toNat_eq (by simp))
  unfold ecpri
  rw [h]

theorem cplaneDst_lt {up : Bool} {c : Nat} (hc : c < 32) : cplaneDst up c < 64 := by
  unfold cplaneDst
  split
  · omega
  · omega

theorem Dev.cplanePort_lt (d : Dev) (up : Bool) (c : Nat) (se : List Byte) : d.cplanePort up c se < 8 := by
  unfold Dev.cplanePort
  split
  · exact Nat.mod_lt _ (by decide)
  · exact Nat.mod_lt _ (by decide)

/-- `e` is `d` with the frames `new` of C-plane messages behind those that wait. -/
structure Dev.cplanes (d e : Dev) (new : List TxFrame) : Prop where
  cores : e.cores = d.cores
  frames : e.txc.frames = d.txc.frames ++ new
  cplane : e.txc.cplane = d.txc.cplane
  eth : ∀ n o, n < 8 → o < 0x1000 → e.reg .eth n o = d.reg .eth n o

theorem Dev.cplanes.nextSeq {d e : Dev} {new : List TxFrame} (h : d.cplanes e new) (kind st : Nat) :
    d.cplanes (e.nextSeq kind st).2 new := ⟨h.cores, h.frames, h.cplane, h.eth⟩

theorem Dev.cplanes.reads {d e f : Dev} {new : List TxFrame} (h : d.cplanes e new) (k : e.readKeeps f) : d.cplanes f new := by
  have hs := k.shape
  exact ⟨k.cores.trans h.cores, (by rw [hs]; exact h.frames), (by rw [hs]; exact h.cplane),
    fun n o hn ho => (k.reg_eth hn ho).trans (h.eth n o hn ho)⟩

theorem Dev.cplanes.put {d e : Dev} {new : List TxFrame} (h : d.cplanes e new) (fr : TxFrame) :
    d.cplanes (e.putFrame fr) (new ++ [fr]) := by
  refine ⟨h.cores, ?_, h.cplane, h.eth⟩
  unfold Dev.putFrame
  dsimp only
  rw [h.frames, List.append_assoc]

theorem Dev.cplanes.body {d e : Dev} {new : List TxFrame} (h : d.cplanes e new) (lk : Locked) (up : Bool) (te : List Byte)
    (ids : Nat × Nat × Nat) (num : Nat) (se : List Byte) : d.cplanes (e.cplaneBody lk up te ids num se).2 new := by
  unfold Dev.cplaneBody
  split
  · exact h.reads (e.readKeeps_busBytes ..)
  · exact h

/-- The section type 1 body of R454. -/
def section1 (up : Bool) (ids : Nat × Nat × Nat) (num : Nat) (se : List Byte) : List Byte :=
  oranApp (if up then 0x10 else 0x90) ids.1 ids.2.1 ids.2.2 0 ++ [1, 1, BitVec.ofNat 8 (seM se % 16 * 16 + 1), 0] ++
    beBytes 4 num ++ beBytes 2 0xFFFE ++ beBytes 2 0

theorem Dev.cplaneBody_section1 (lk : Locked) (d : Dev) {up : Bool} (te : List Byte) (ids : Nat × Nat × Nat) (num : Nat) {se : List Byte}
    (h : up = false ∨ seKind se ≠ 1) : (d.cplaneBody lk up te ids num se).1 = section1 up ids num se := by
  unfold Dev.cplaneBody
  rw [if_neg (by obtain h | h := h <;> simp [h])]
  rfl

/-- The frame `f` is the C-plane message of stream `p` (R335, R454, R456). -/
def Dev.cplaneOf (d : Dev) (c s : Nat) (up : Bool) (ids : Nat × Nat × Nat) (num : Nat) (p : Nat × List Byte) (f : TxFrame) : Prop :=
  f.prec = 0 ∧ f.cell = c ∧ f.slot = s ∧ f.sym = 0 ∧ f.close = none ∧ f.port = d.cplanePort up c p.2 ∧
  ((up = false ∨ seKind p.2 ≠ 1) → ∃ q < 256, f.bytes = d.ethFrame (cplaneDst up c) f.port 0xAEFE
    (ecpri 2 (seEaxc p.2) q (section1 up ids num p.2)))

theorem Dev.cplanes.stream {d e : Dev} {new : List TxFrame} (h : d.cplanes e new) (lk : Locked) {c : Nat} (hc : c < 32) (s : Nat)
    (up : Bool) (te : List Byte) (ids : Nat × Nat × Nat) (num : Nat) (p : Nat × List Byte) :
    ∃ f, d.cplanes (Dev.cplaneStream lk c s up te ids num e p) (new ++ [f]) ∧ d.cplaneOf c s up ids num p f := by
  have hb := (h.nextSeq (if up then 2 else 1) p.1).body lk up te ids num p.2
  unfold Dev.cplaneStream
  extract_lets d1 b
  have hport : b.2.cplanePort up c p.2 = d.cplanePort up c p.2 := by
    unfold Dev.cplanePort
    rw [hb.eth 0 _ (by decide) (by have := cplaneDst_lt (up := up) hc; omega)]
  refine ⟨_, hb.put _, rfl, rfl, rfl, rfl, rfl, hport, fun hk => ⟨(e.nextSeq (if up then 2 else 1) p.1).1 % 256,
    Nat.mod_lt _ (by decide), ?_⟩⟩
  unfold Dev.cplaneFrame
  dsimp only
  rw [hport, Dev.ethFrame_congr hb.eth (cplaneDst_lt hc) (d.cplanePort_lt ..), ecpri_mod]
  unfold b
  rw [Dev.cplaneBody_section1 lk _ te ids num hk]

end Sys2Proof.Machine

/-! ## The obligation -/

open Sys2Proof Sys2Proof.Machine

/-- Settles O23: each stream puts one frame, whose addresses and port nothing before it changes. -/
theorem cplaneMessages : Obligations.CplaneMessages := by
  unfold Obligations.CplaneMessages
  intro s c up v n e te ids dst hg ht he hx hr hp
  have h0 := effCplaneSend_eq (lk := s.lk) hg ht he hx hr hp
  obtain ⟨m, hm, hf⟩ := foldl_appends_one (Dev.cplaneStream s.lk c n up te ids (if 255 < ceNprb e then 0 else ceNprb e))
    (s.d.cplaneDone c n up).cplanes
    ((s.d.cplaneDone c n up).cplaneOf c n up ids (if 255 < ceNprb e then 0 else ceNprb e)) (s.d.streamsOf (!up) c n)
    (fun _ _ p _ h => h.stream s.lk c.isLt n up te ids _ p) _ [] ⟨rfl, by simp, rfl, fun _ _ _ _ => rfl⟩
  refine ⟨_, m, exec_onLk (s := s) (i := .cplaneSend c up v) (f := effCplaneSend c.val up v.toNat) rfl h0, rfl, rfl, hm.cores, ?_,
    hm.frames, hf.length_eq.symm, fun i p f hp hfi => getElem?_of_forall₂ hf hp hfi⟩
  rw [hm.cplane]
  exact List.mem_append_right _ (List.mem_singleton.2 rfl)

end

section
/-! SUPPORT. A precoded symbol joins those of its stream row (O25). -/

namespace Sys2Proof.Machine

/-! ### When a symbol can be precoded (R329 to R332, R336) -/

/-- Is symbol `m` of slot `t` of row `a` of cell `c` precoded? -/
def Dev.haveSym (d : Dev) (c a t m : Nat) : Bool :=
  d.txc.syms.any fun y => y.cell == c && y.slot == t && y.sym == m && y.row == a

/-- Is the window of symbol `m` over? -/
def Dev.symShut (d : Dev) (e : List Byte) (c s m : Nat) : Bool :=
  d.txc.closed.contains (c, s, m) || reached d.ns (d.txWindow e s m).2

/-- The conditions of R329 to R332 and R336 for symbol `n` of row `a` of slot `x`, where reads of the status words of its buffer
answer `r1` and `r2`. -/
structure Dev.symFree (lk : Locked) (d : Dev) (x : TxSlot) (e : List Byte) (n a : Nat) (r1 r2 : List Byte × Bool × Dev) : Prop where
  word1 : d.busBytes lk .txc (txWbase e + 4 * (x.slot % 2)) 4 = r1
  word2 : d.busBytes lk .txc (txWbase e + 8 + 4 * (x.slot % 2)) 4 = r2
  on : d.flag .txc 0 0x100 0 = true
  enabled : ceEnable e = true
  stream : ((d.streamsOf true x.cell x.slot).any fun p => seRow p.2 == a) = true
  weights : x.state = 2 ∨ leNat r1.1 = x.slot % 2 ^ 32
  overlay : txOvl e = true → leNat r2.1 = x.slot % 2 ^ 32
  coded : ∀ g ∈ x.grants, g.coded.length = (gSeg g.bytes).c
  isOpen : d.symShut e x.cell x.slot n = false
  new : d.haveSym x.cell a x.slot n = false
  before : 0 < n → d.haveSym x.cell a x.slot (n - 1) = true ∨ d.symShut e x.cell x.slot (n - 1) = true
  last : txEgress e = true → n = 0 → (∀ y ∈ d.txc.slots, y.cell = x.cell → y.slot + 1 = x.slot → y.state = 0) ∨
    (x.cell, x.slot - 1, 13) ∈ d.txc.closed ∨ ∃ y ∈ d.txc.syms, y.cell = x.cell ∧ y.slot = x.slot - 1 ∧ y.sym = 13 ∧ y.row = a

theorem Dev.symFree.ready {lk : Locked} {d : Dev} {x : TxSlot} {n a : Nat} {r1 r2 : List Byte × Bool × Dev}
    (h : d.symFree lk x (d.cellFor true x.cell x.slot) n a r1 r2)
    (hn : n < 14) : d.symReady lk x n a = true := by
  obtain ⟨hr1, hr2, h1, h2, h3, h4, h5, h6, h7, h8, h9, h10⟩ := h
  rw [← hr1] at h4
  rw [← hr2] at h5
  unfold Dev.symReady
  extract_lets c s e b streamHere word named isClosed haveIn have' waits coded
  have hnamed : named = true := by
    have h4' : (x.state == 2 || word 0 == s % 2 ^ 32) = true := by
      obtain h | h := h4
      · rw [h]
        rfl
      · exact Bool.or_eq_true_iff.2 (.inr (beq_iff_eq.2 h))
    have h5' : (!txOvl e || word 8 == s % 2 ^ 32) = true := by
      by_cases ho : txOvl e = true
      · exact Bool.or_eq_true_iff.2 (.inr (beq_iff_eq.2 (h5 ho)))
      · simp [ho]
    exact Bool.and_eq_true_iff.2 ⟨h4', h5'⟩
  have hcoded : coded = true := List.all_eq_true.2 fun g hg => beq_iff_eq.2 (h6 g hg)
  have hwaits : waits = false := by
    by_contra hw
    simp only [waits, Bool.not_eq_false, Bool.and_eq_true, beq_iff_eq, Bool.not_eq_true', List.any_eq_true, bne_iff_ne] at hw
    obtain ⟨⟨⟨⟨heg, hn0⟩, y, hy, ⟨hyc, hys⟩, hyst⟩, hno⟩, hncl⟩ := hw
    obtain h | h | ⟨z, hz, hzc, hzs, hzk, hzr⟩ := h10 heg hn0
    · exact hyst (h y hy hyc hys)
    · simp [c, s, h] at hncl
    · have := List.any_eq_false.1 hno z hz
      simp [hzc, hzs, hzk, hzr, c, s] at this
  have hbefore : (decide (0 < n) && !have' (n - 1) && !isClosed (n - 1)) = false := by
    by_cases hn0 : 0 < n
    · obtain h | h := h9 hn0
      · change have' (n - 1) = true at h
        rw [h]
        simp
      · change isClosed (n - 1) = true at h
        rw [h]
        simp
    · simp [hn0]
  change streamHere = true at h3
  change isClosed n = false at h7
  change have' n = false at h8
  rw [h1, h2, h3, h7, h8, hnamed, hcoded, hwaits, hbefore]
  simp [hn]

/-! ### What precoding leaves alone -/

/-- What the reads and counts of a precoding leave alone. -/
structure Dev.txKeeps (d e : Dev) : Prop where
  cores : e.cores = d.cores
  syms : e.txc.syms = d.txc.syms
  slots : e.txc.slots = d.txc.slots
  closed : e.txc.closed = d.txc.closed

theorem Dev.txKeeps.refl (d : Dev) : d.txKeeps d := ⟨rfl, rfl, rfl, rfl⟩

theorem Dev.txKeeps.trans {a b c : Dev} (h : a.txKeeps b) (k : b.txKeeps c) : a.txKeeps c :=
  ⟨k.cores.trans h.cores, k.syms.trans h.syms, k.slots.trans h.slots, k.closed.trans h.closed⟩

theorem Dev.readKeeps.tx {d e : Dev} (h : d.readKeeps e) : d.txKeeps e := by
  have hs := h.shape
  exact ⟨h.cores, by rw [hs], by rw [hs], by rw [hs]⟩

theorem Dev.regsOnly.tx {d e : Dev} (h : d.regsOnly e) : d.txKeeps e := ⟨by rw [h], by rw [h], by rw [h], by rw [h]⟩

theorem Dev.txKeeps_foldl_snd {α β : Type} (f : α × Dev → β → α × Dev) (hf : ∀ a x, Dev.txKeeps a.2 (f a x).2) (l : List β)
    (a : α × Dev) : a.2.txKeeps (l.foldl f a).2 :=
  List.foldlRecOn (motive := fun e : α × Dev => a.2.txKeeps e.2) _ _ (.refl a.2) fun _ h x _ => h.trans (hf _ x)

theorem Dev.queueSym_txKeeps (d : Dev) (y : TxSym) : d.txKeeps (d.queueSym y) := by
  obtain ⟨m, ⟨q, hq⟩, -⟩ := Dev.queues_queueSym (Dev.queues.nil d) y
  rw [hq]
  exact ⟨rfl, rfl, rfl, rfl⟩

/-- Symbol `y` joins those of its stream row, with its frames where its window is open (R332, R333). -/
def Dev.joinSym (d : Dev) (c s n : Nat) (y : TxSym) : Dev :=
  let d := { d with txc := { d.txc with syms := d.txc.syms ++ [y] } }
  if d.txc.opened.contains (c, s, n) then d.queueSym y else d

theorem Dev.joinSym_spec (d : Dev) (c s n : Nat) (y : TxSym) :
    (d.joinSym c s n y).cores = d.cores ∧ (d.joinSym c s n y).txc.syms = d.txc.syms ++ [y] ∧
    (d.joinSym c s n y).txc.slots = d.txc.slots ∧ (d.joinSym c s n y).txc.closed = d.txc.closed := by
  unfold Dev.joinSym
  dsimp only
  split
  · obtain ⟨h1, h2, h3, h4⟩ := Dev.queueSym_txKeeps { d with txc := { d.txc with syms := d.txc.syms ++ [y] } } y
    exact ⟨h1, h2, h3, h4⟩
  · exact ⟨rfl, rfl, rfl, rfl⟩

/-- Precoding reads, counts, and joins one symbol (R329 to R332, R336). -/
theorem effSymbolPrecoded_eq {lk : Locked} {d : Dev} {c v k a n : Nat} {x : TxSlot} (hn : d.absSlot (ceMu (d.activeCell true c)) v = n)
    (hf : (d.txc.slots.find? fun x => x.cell == c && x.slot == n && x.state != 0) = some x)
    (hr : d.symReady lk x k a = true) (hb : d.precodeBefore lk x = false) :
    ∃ e y, d.txKeeps e ∧ y.cell = c ∧ y.slot = n ∧ y.sym = k ∧ y.row = a ∧ effSymbolPrecoded c v k a lk d = e.joinSym c n k y := by
  unfold effSymbolPrecoded
  extract_lets +onlyGivenNames s e b
  have hs : s = n := hn
  clear_value b e s
  subst hs
  split
  next h => cases hf.symm.trans h
  next x' h =>
    obtain rfl := Option.some.inj (hf.symm.trans h)
    split
    next hc => simp [hr, hb] at hc
    next hc =>
      clear hc h hf hr hb
      -- the reads and the time domain are kept opaque: only what they leave alone matters
      obtain ⟨B, hB⟩ : ∃ B, B = @Dev.busBytes lk := ⟨_, rfl⟩
      obtain ⟨T, hT⟩ : ∃ T, T = timeDomain := ⟨_, rfl⟩
      rw [← hB, ← hT]
      have hk (d : Dev) (q : Req) (a n : Nat) (w : Bool) : d.txKeeps (B d q a n w).2.2 := by
        rw [hB]
        exact (d.readKeeps_busBytes lk q a n w).tx
      clear hB hT
      split
      next b1 p1 d1 h1 =>
        have k1 : d.txKeeps d1 := by
          have := hk d .txc (txWbase e + 4 * b) 4 false
          rw [h1] at this
          exact this
        split
        next b2 p2 d2 h2 =>
          have k2 : d1.txKeeps d2 := by
            have := hk d1 .txc (txWbase e + 8 + 4 * b) 4 false
            rw [h2] at this
            exact this
          extract_lets +onlyGivenNames nprb nst inFrame wset cover
          split
          next ws d3 h3 =>
            have k3 : d2.txKeeps d3 := by
              have hd : _ = d3 := congrArg (fun a : List (Nat × List Byte) × Dev => a.2) h3
              rw [← hd]
              refine Dev.txKeeps_foldl_snd _ (fun acc g => ?_) cover (([] : List (Nat × List Byte)), d2)
              exact hk ..
            extract_lets +onlyGivenNames w vals grid sat
            split
            next g d4 h4 =>
              have k4 : d3.txKeeps d4 := by
                have hd : _ = d4 := congrArg (fun a : List Byte × Dev => a.2) h4
                rw [← hd]
                split
                · exact .refl d3
                · exact hk ..
              extract_lets +onlyGivenNames y
              split
              next z sat2 d5 h5 =>
                have k5 : d4.txKeeps d5 ∧ z.cell = c ∧ z.slot = s ∧ z.sym = k ∧ z.row = a := by
                  have hd : _ = d5 := congrArg (fun a : TxSym × Nat × Dev => a.2.2) h5
                  have hz : _ = z := congrArg (fun a : TxSym × Nat × Dev => a.1) h5
                  rw [← hd, ← hz]
                  clear h5 hd hz
                  split
                  · exact ⟨.refl d4, rfl, rfl, rfl, rfl⟩
                  · obtain ⟨j1, j2, j3, j4⟩ := hk d4 .txc (txTd e) 128 false
                    exact ⟨⟨j1, j2, j3, j4⟩, rfl, rfl, rfl, rfl⟩
                obtain ⟨k5, z1, z2, z3, z4⟩ := k5
                exact ⟨_, z, ((((k1.trans k2).trans k3).trans k4).trans k5).trans (Dev.num_regsOnly ..).tx, z1, z2, z3, z4, rfl⟩

end Sys2Proof.Machine

/-! ## The obligation -/

open Sys2Proof Sys2Proof.Machine

/-- Settles O25: the hypotheses are the conditions of R329 to R332, and precoding reads and counts before the symbol joins. -/
theorem symbolPrecoded : Obligations.SymbolPrecoded := by
  unfold Obligations.SymbolPrecoded
  intro s c v k a x n e r1 r2 have' shut hf hon hen hst hw ho hcod hshut hnew hbefore hlast hprec
  have hx := List.find?_some hf
  simp only [Bool.and_eq_true, beq_iff_eq] at hx
  obtain ⟨⟨hxc, hxs⟩, -⟩ := hx
  have hr : s.d.symReady s.lk x k a = true := by
    refine Dev.symFree.ready (r1 := r1) (r2 := r2) ?_ k.isLt
    rw [hxc, hxs]
    refine ⟨by rw [hxs], by rw [hxs], hon, hen, ?_, ?_, ?_, hcod, ?_, ?_, ?_, ?_⟩
    · rw [hxc, hxs]
      exact hst
    · rw [hxs]
      exact hw
    · rw [hxs]
      exact ho
    · rw [hxc, hxs]
      exact hshut
    · rw [hxc, hxs]
      exact hnew
    · rw [hxc, hxs]
      exact hbefore
    · rw [hxc, hxs]
      exact hlast
  obtain ⟨e', y, hk, hyc, hys, hyk, hya, h0⟩ := effSymbolPrecoded_eq (lk := s.lk) (v := v.toNat) rfl hf hr hprec
  obtain ⟨j1, j2, j3, j4⟩ := e'.joinSym_spec c n k y
  exact ⟨_, exec_onLk (s := s) (i := .symbolPrecoded c v k a) (f := effSymbolPrecoded c.val v.toNat k.val a) rfl h0, rfl, rfl,
    j1.trans hk.cores, ⟨y, j2.trans (by rw [hk.syms]), hyc, hys, hyk, hya⟩, j3.trans hk.slots, j4.trans hk.closed⟩

end

section
/-! SUPPORT. The overlay marker and the spectral mask monitor (O24). What the device map answers does not depend on the transmit
chain, so a check reads what it would have read before it was noted. -/

namespace Sys2Proof.Machine

/-! ### The device map does not look at the transmit chain -/

/-- The device with another transmit chain. -/
def Dev.setTxc (d : Dev) (x : TxcSt) : Dev := { d with txc := x }

theorem setTxc_ite {x : TxcSt} {c : Prop} [Decidable c] {a b a' b' : Dev} (ha : a' = a.setTxc x) (hb : b' = b.setTxc x) :
    (if c then a' else b') = (if c then a else b).setTxc x := by
  split
  · exact ha
  · exact hb

theorem Dev.setReg_setTxc (d : Dev) (x : TxcSt) (p : Page) (n o v : Nat) :
    (d.setTxc x).setReg p n o v = (d.setReg p n o v).setTxc x := rfl

theorem Dev.bump_setTxc (d : Dev) (x : TxcSt) (p : Page) (n o k : Nat) : (d.setTxc x).bump p n o k = (d.bump p n o k).setTxc x :=
  setTxc_ite rfl rfl

theorem Dev.sticky_setTxc (d : Dev) (x : TxcSt) (p : Page) (n b : Nat) : (d.setTxc x).sticky p n b = (d.sticky p n b).setTxc x := by
  unfold Dev.sticky
  dsimp only
  split
  · rfl
  · rfl

theorem Dev.count_setTxc (d : Dev) (x : TxcSt) (p : Page) (n o k b : Nat) :
    ((d.setTxc x).bump p n o k).sticky p n b = ((d.bump p n o k).sticky p n b).setTxc x := by
  rw [Dev.bump_setTxc, Dev.sticky_setTxc]

theorem Dev.post_setTxc (d : Dev) (x : TxcSt) (p : Page) (n src sub inst : Nat) (bs : List Byte) :
    (d.setTxc x).post p n src sub inst bs = (d.post p n src sub inst bs).setTxc x :=
  setTxc_ite rfl (setTxc_ite
    (Dev.count_setTxc { d with pci := { d.pci with evSeq := (d.pci.evSeq + 1) % 2 ^ 32 } } x .pci 0 0x184 1 1) rfl)

theorem Dev.err_setTxc (d : Dev) (x : TxcSt) (p : Page) (n code off : Nat) :
    (d.setTxc x).err p n code off = (d.err p n code off).setTxc x := by
  unfold Dev.err
  rw [Dev.bump_setTxc]
  exact setTxc_ite rfl rfl

theorem Dev.flag_setTxc (d : Dev) (x : TxcSt) (p : Page) (n o i : Nat) : (d.setTxc x).flag p n o i = d.flag p n o i := rfl

theorem Dev.cross_setTxc (d : Dev) (x : TxcSt) (q : Req) (wr bar0 : Bool) (a : Nat) :
    (d.setTxc x).cross q wr bar0 a = (d.cross q wr bar0 a).setTxc x := by
  unfold Dev.cross
  simp only [Dev.bump_setTxc, Dev.sticky_setTxc, Dev.setReg_setTxc, Dev.post_setTxc, Dev.flag_setTxc]
  exact setTxc_ite rfl rfl

theorem Dev.channel_setTxc (d : Dev) (x : TxcSt) (a : Nat) : (d.setTxc x).channel a = d.channel a := rfl

theorem Dev.memUe_setTxc (d : Dev) (x : TxcSt) (k : Nat) : (d.setTxc x).memUe k = (d.memUe k).setTxc x := by
  unfold Dev.memUe
  simp only [Dev.bump_setTxc, Dev.sticky_setTxc, Dev.setReg_setTxc, Dev.post_setTxc, Dev.flag_setTxc, Dev.channel_setTxc]
  exact setTxc_ite rfl rfl

theorem Dev.memCe_setTxc (d : Dev) (x : TxcSt) (k : Nat) : (d.setTxc x).memCe k = (d.memCe k).setTxc x := by
  unfold Dev.memCe
  simp only [Dev.bump_setTxc, Dev.sticky_setTxc, Dev.channel_setTxc]

theorem Dev.memEcc_setTxc (d : Dev) (x : TxcSt) (k : Nat) : (d.setTxc x).memEcc k = (d.memEcc k).setTxc x :=
  setTxc_ite (Dev.memUe_setTxc ..) (setTxc_ite (Dev.memCe_setTxc ..) rfl)

theorem Dev.owe_setTxc (d : Dev) (x : TxcSt) (wr : Bool) (cls k : Nat) : (d.setTxc x).owe wr cls k = (d.owe wr cls k).setTxc x := rfl

theorem Dev.arrRead_setTxc (d : Dev) (x : TxcSt) (cls k : Nat) :
    (d.setTxc x).arrRead cls k = ((d.arrRead cls k).1, (d.arrRead cls k).2.1, (d.arrRead cls k).2.2.setTxc x) := by
  unfold Dev.arrRead
  dsimp only
  rw [Dev.owe_setTxc, Dev.memEcc_setTxc]
  rfl

theorem Dev.cmnErr_setTxc (d : Dev) (x : TxcSt) (ue ce : Nat) : (d.setTxc x).cmnErr ue ce = (d.cmnErr ue ce).setTxc x :=
  setTxc_ite (Dev.count_setTxc ..) (setTxc_ite (Dev.count_setTxc ..) rfl)

theorem Dev.mirror_setTxc (d : Dev) (x : TxcSt) (k : Nat) : (d.setTxc x).mirror k = (d.mirror k).setTxc x :=
  setTxc_ite rfl (setTxc_ite rfl rfl)

theorem Dev.arrFound_setTxc (d : Dev) (x : TxcSt) (cls a n : Nat) (pois : Bool) :
    (d.setTxc x).arrFound cls a n pois = (d.arrFound cls a n pois).setTxc x := by
  unfold Dev.arrFound
  dsimp only
  rw [Dev.owe_setTxc, Dev.memEcc_setTxc]
  generalize d.owe true cls (a / 64) = e
  have h : (if ((e.setTxc x).ms.lp.mergeUe 64 a n).contains (a / 64) || ((e.setTxc x).ms.lp.mergeCe 64 a n).contains (a / 64)
      then (e.memEcc (a / 64)).setTxc x else e.setTxc x) =
      (if (e.ms.lp.mergeUe 64 a n).contains (a / 64) || (e.ms.lp.mergeCe 64 a n).contains (a / 64)
      then e.memEcc (a / 64) else e).setTxc x := setTxc_ite rfl rfl
  rw [h, Dev.bump_setTxc]
  exact setTxc_ite rfl rfl

theorem Dev.arrWrite_setTxc (d : Dev) (x : TxcSt) (cls a : Nat) (bs : List Byte) (pois : Bool) :
    (d.setTxc x).arrWrite cls a bs pois = (d.arrWrite cls a bs pois).setTxc x := by
  rw [Dev.arrWrite_eq, Dev.arrWrite_eq, Dev.arrFound_setTxc]
  generalize d.arrFound cls a bs.length pois = e
  exact Dev.mirror_setTxc { e with ms := { e.ms with lp := e.ms.lp.storeBeat a bs pois } } x (a / 64)

theorem setTxc_foldl {α : Type} (f : Dev → α → Dev) (x : TxcSt) (hf : ∀ d a, f (d.setTxc x) a = (f d a).setTxc x) (l : List α) (d : Dev) :
    l.foldl f (d.setTxc x) = (l.foldl f d).setTxc x := by
  induction l generalizing d with
  | nil => rfl
  | cons a l ih => rw [List.foldl_cons, hf, ih, List.foldl_cons]

theorem Dev.cmnRead_setTxc (d : Dev) (x : TxcSt) (m : Mem) (k : Nat) : (d.setTxc x).cmnRead m k = (d.cmnRead m k).setTxc x :=
  Dev.cmnErr_setTxc ..

/-- The write-back of a dirty line (R424). -/
def Dev.writeBack (d : Dev) (l : CLine) : Dev :=
  [2 * l.line, 2 * l.line + 1].foldl (fun d k =>
    (d.cmnRead d.ms.cm k).arrWrite 1 (64 * k) (d.ms.cm.read (64 * k) 64) (d.ms.cm.bad k)) d.newWrite

theorem Dev.writeBack_setTxc (d : Dev) (x : TxcSt) (l : CLine) : (d.setTxc x).writeBack l = (d.writeBack l).setTxc x := by
  refine setTxc_foldl _ x (fun e k => ?_) _ d.newWrite
  rw [Dev.cmnRead_setTxc, Dev.arrWrite_setTxc]
  rfl

/-- A line dropped from the Commons, its bytes cleared (R424). -/
def Dev.dropLine (d : Dev) (l : CLine) : Dev :=
  { d with ms := { d.ms with cm := [2 * l.line, 2 * l.line + 1].foldl (fun m k =>
    (m.clearBeat k).write (64 * k) (List.replicate 64 0)) d.ms.cm } }

/-- The lines without line `l`. -/
def Dev.unlist (d : Dev) (l : CLine) : Dev := { d with ms := { d.ms with lines := d.ms.lines.filter (·.line != l.line) } }

theorem Dev.evict_eq (d : Dev) (l : CLine) :
    d.evict l = (if !l.dirty then d.unlist l else (d.unlist l).writeBack l).dropLine l := rfl

theorem Dev.evict_setTxc (d : Dev) (x : TxcSt) (l : CLine) : (d.setTxc x).evict l = (d.evict l).setTxc x := by
  have h : (if !l.dirty then (d.setTxc x).unlist l else ((d.setTxc x).unlist l).writeBack l) =
      (if !l.dirty then d.unlist l else (d.unlist l).writeBack l).setTxc x :=
    setTxc_ite rfl ((d.unlist l).writeBack_setTxc x l)
  rw [Dev.evict_eq, Dev.evict_eq, h]
  rfl

theorem Dev.makeRoom_setTxc (d : Dev) (x : TxcSt) (n ln : Nat) :
    (d.setTxc x).makeRoom n ln = (d.makeRoom n ln).map fun p => (p.1, p.2.setTxc x) := by
  have hw : (d.setTxc x).partWays n = d.partWays n := rfl
  have hl : (d.setTxc x).ms = d.ms := rfl
  unfold Dev.makeRoom
  dsimp only
  rw [hw, hl]
  split
  · rfl
  · rw [Option.map_map]
    refine congrFun (congrArg _ (funext fun l => ?_)) _
    exact congrArg (Prod.mk l.way) (Dev.evict_setTxc ..)

theorem Dev.touch_setTxc (d : Dev) (x : TxcSt) (ln : Nat) (b : Bool) : (d.setTxc x).touch ln b = (d.touch ln b).setTxc x := by
  have hl : (d.setTxc x).ms = d.ms := rfl
  unfold Dev.touch
  rw [hl]
  split
  · rfl
  · rfl

/-- The line `ln` that a miss has made room for in way `w` (R424). -/
def Dev.fillLine (d : Dev) (w cls ln : Nat) (whole : Bool) : Bool × Dev :=
  let d := { d with ms := { d.ms with lines := { line := ln, way := w, dirty := false } :: d.ms.lines } }
  if whole then (true, d)
  else
    (true, [2 * ln, 2 * ln + 1].foldl (fun d b =>
      let (bs, bad, d) := d.arrRead cls b
      let cm := (d.ms.cm.write (64 * b) bs)
      { d with ms := { d.ms with cm := if bad then cm.setPoison b else cm.clearBeat b } }) d)

theorem Dev.fillLine_setTxc (d : Dev) (x : TxcSt) (w cls ln : Nat) (whole : Bool) :
    (d.setTxc x).fillLine w cls ln whole = ((d.fillLine w cls ln whole).1, (d.fillLine w cls ln whole).2.setTxc x) := by
  unfold Dev.fillLine
  cases whole with
  | true => rfl
  | false =>
    refine congrArg (Prod.mk true) (setTxc_foldl _ x (fun e b => ?_) _
      ({ d with ms := { d.ms with lines := { line := ln, way := w, dirty := false } :: d.ms.lines } } : Dev))
    dsimp only
    rw [Dev.arrRead_setTxc]
    rfl

/-- The way that a miss on line `ln` may take, with the device that made room in it (R424, R425). -/
def Dev.roomFor (d : Dev) (q : Req) (part k : Nat) : Option (Nat × Dev) :=
  (if (d.region .cmn 8 (64 * k)).elim false (bit · 1) then none else d.allocPart q part).bind (d.makeRoom · (k / 2))

theorem Dev.roomFor_setTxc (d : Dev) (x : TxcSt) (q : Req) (part k : Nat) :
    (d.setTxc x).roomFor q part k = (d.roomFor q part k).map fun p => (p.1, p.2.setTxc x) := by
  have ha : (d.setTxc x).allocPart q part = d.allocPart q part := by cases q <;> rfl
  have hr : (d.setTxc x).region .cmn 8 (64 * k) = d.region .cmn 8 (64 * k) := rfl
  unfold Dev.roomFor
  rw [ha, hr]
  cases (if (d.region .cmn 8 (64 * k)).elim false (bit · 1) then none else d.allocPart q part) with
  | none => rfl
  | some n => exact Dev.makeRoom_setTxc ..

theorem Dev.lookup_off {d : Dev} (h : d.flag .cmn 0 0x100 0 = false) (q : Req) (part cls k : Nat) (whole : Bool) :
    d.lookup q part cls k whole = (false, d) := by
  unfold Dev.lookup
  dsimp only
  rw [if_pos (by rw [h]; rfl)]

theorem Dev.lookup_hit {d : Dev} (h : d.flag .cmn 0 0x100 0 = true) {k : Nat} (hl : (d.ms.lines.any (·.line == k / 2)) = true)
    (q : Req) (part cls : Nat) (whole : Bool) :
    d.lookup q part cls k whole = (true, (d.bump .cmn 0 0x110 1).touch (k / 2) false) := by
  unfold Dev.lookup
  dsimp only
  rw [if_neg (by rw [h]; decide), if_pos hl]

theorem Dev.lookup_full {d : Dev} (h : d.flag .cmn 0 0x100 0 = true) {k : Nat} (hl : (d.ms.lines.any (·.line == k / 2)) = false)
    {q : Req} {part : Nat} (hr : (d.bump .cmn 0 0x114 1).roomFor q part k = none) (cls : Nat) (whole : Bool) :
    d.lookup q part cls k whole = (false, d.bump .cmn 0 0x114 1) := by
  unfold Dev.roomFor at hr
  unfold Dev.lookup
  dsimp only
  rw [if_neg (by rw [h]; decide), if_neg (by rw [hl]; decide), hr]

theorem Dev.lookup_miss {d e : Dev} (h : d.flag .cmn 0 0x100 0 = true) {k : Nat} (hl : (d.ms.lines.any (·.line == k / 2)) = false)
    {q : Req} {part w : Nat} (hr : (d.bump .cmn 0 0x114 1).roomFor q part k = some (w, e)) (cls : Nat) (whole : Bool) :
    d.lookup q part cls k whole = e.fillLine w cls (k / 2) whole := by
  unfold Dev.roomFor at hr
  unfold Dev.lookup
  dsimp only
  rw [if_neg (by rw [h]; decide), if_neg (by rw [hl]; decide), hr]
  rfl

theorem Dev.lookup_setTxc (d : Dev) (x : TxcSt) (q : Req) (part cls k : Nat) (whole : Bool) :
    (d.setTxc x).lookup q part cls k whole = ((d.lookup q part cls k whole).1, (d.lookup q part cls k whole).2.setTxc x) := by
  have hf (b : Bool) (h : d.flag .cmn 0 0x100 0 = b) : (d.setTxc x).flag .cmn 0 0x100 0 = b := h
  have hb := d.bump_setTxc x .cmn 0 0x114 1
  cases h : d.flag .cmn 0 0x100 0 with
  | false => rw [Dev.lookup_off h, Dev.lookup_off (hf _ h)]
  | true =>
    cases hl : d.ms.lines.any (·.line == k / 2) with
    | true =>
      rw [Dev.lookup_hit h hl, Dev.lookup_hit (d := d.setTxc x) (hf _ h) hl, Dev.bump_setTxc, Dev.touch_setTxc]
    | false =>
      cases hr : (d.bump .cmn 0 0x114 1).roomFor q part k with
      | none =>
        rw [Dev.lookup_full h hl hr, Dev.lookup_full (d := d.setTxc x) (hf _ h) hl (by rw [hb, Dev.roomFor_setTxc, hr]; rfl), hb]
      | some p =>
        rw [Dev.lookup_miss h hl hr, Dev.lookup_miss (d := d.setTxc x) (e := p.2.setTxc x) (w := p.1) (hf _ h) hl
          (by rw [hb, Dev.roomFor_setTxc, hr]; rfl), Dev.fillLine_setTxc]

theorem Dev.spdUe_setTxc (d : Dev) (x : TxcSt) (c : Nat) (as : List Nat) : (d.setTxc x).spdUe c as = (d.spdUe c as).setTxc x := by
  cases as with
  | nil => rfl
  | cons a as =>
    unfold Dev.spdUe
    dsimp only
    rw [Dev.bump_setTxc]
    generalize d.bump .spd c 0x104 (a :: as).length = e
    have h : (if (e.setTxc x).flag .spd c 0x10C 1 then e.setTxc x else (e.setTxc x).setReg .spd c 0x108 a) =
        (if e.flag .spd c 0x10C 1 then e else e.setReg .spd c 0x108 a).setTxc x := setTxc_ite rfl rfl
    rw [h, Dev.sticky_setTxc]

/-- An access to LPDDR5X that finds its line, or does not (R424). -/
def Dev.lpRead (d : Dev) (q : Req) (part a n : Nat) (direct : Bool) : List Byte × Bool × Bool × Dev :=
  let (hit, d) := if direct || d.isDirect a then (false, d) else d.lookup q part (q.cls false) (a / 64) false
  if hit then
    let d := d.cmnRead d.ms.cm (a / 64)
    (d.ms.cm.read a n, d.ms.cm.bad (a / 64), false, d)
  else
    let (_, bad, d) := d.arrRead (q.cls false) (a / 64)
    (d.ms.lp.read a n, bad, false, d)

/-- The answer `r` on a device with the transmit chain `x`. -/
def answerWith (x : TxcSt) (r : List Byte × Bool × Bool × Dev) : List Byte × Bool × Bool × Dev :=
  (r.1, r.2.1, r.2.2.1, r.2.2.2.setTxc x)

theorem Dev.lpRead_setTxc (d : Dev) (x : TxcSt) (q : Req) (part a n : Nat) (direct : Bool) :
    (d.setTxc x).lpRead q part a n direct = answerWith x (d.lpRead q part a n direct) := by
  have hd : (d.setTxc x).isDirect a = d.isDirect a := rfl
  have hif : (if direct || d.isDirect a then (false, d.setTxc x) else (d.setTxc x).lookup q part (q.cls false) (a / 64) false) =
      ((if direct || d.isDirect a then (false, d) else d.lookup q part (q.cls false) (a / 64) false).1,
        (if direct || d.isDirect a then (false, d) else d.lookup q part (q.cls false) (a / 64) false).2.setTxc x) := by
    split
    · rfl
    · exact Dev.lookup_setTxc ..
  unfold Dev.lpRead
  rw [hd, hif]
  generalize (if direct || d.isDirect a then (false, d) else d.lookup q part (q.cls false) (a / 64) false) = r
  obtain ⟨hit, e⟩ := r
  cases hit with
  | true =>
    dsimp only [if_true]
    rw [Dev.cmnRead_setTxc]
    rfl
  | false =>
    dsimp only
    rw [Dev.arrRead_setTxc]
    rfl

theorem Dev.beatRead_setTxc (lk : Locked) (d : Dev) (x : TxcSt) (q : Req) (part a n : Nat) (direct : Bool) :
    (d.setTxc x).beatRead lk q part a n direct = answerWith x (d.beatRead lk q part a n direct) := by
  have ht : (d.setTxc x).target lk q a = d.target lk q a := rfl
  have hs (t : Target) : (d.setTxc x).secureAddr t = d.secureAddr t := by cases t <;> rfl
  have hw : (d.setTxc x).worldOf q = d.worldOf q := by cases q <;> rfl
  have htbl (pg : Page) (o : Nat) : (if (d.setTxc x).tbl.hit (o / 64 * 64) 64 then (d.setTxc x).err pg 0 errEcc 0 else d.setTxc x) =
      (if d.tbl.hit (o / 64 * 64) 64 then d.err pg 0 errEcc 0 else d).setTxc x := setTxc_ite (Dev.err_setTxc ..) rfl
  unfold Dev.beatRead
  dsimp only
  rw [ht, hs, hw]
  split
  · rw [Dev.cross_setTxc]
    rfl
  · cases d.target lk q a with
    | outside => rfl
    | lp a => exact Dev.lpRead_setTxc ..
    | win o => exact congrArg (fun e => (_, _, false, e)) (Dev.cmnRead_setTxc ..)
    | cellTbl o => exact congrArg (fun e => (_, _, false, e)) (htbl ..)
    | streamTbl o => exact congrArg (fun e => (_, _, false, e)) (htbl ..)
    | txCellTbl o => exact congrArg (fun e => (_, _, false, e)) (htbl ..)
    | txStreamTbl o => exact congrArg (fun e => (_, _, false, e)) (htbl ..)
    | append o => rfl
    | llr o => rfl
    | polar o => rfl
    | conf o => rfl
    | spad c o => exact congrArg (fun e => (_, _, false, e)) (Dev.spdUe_setTxc ..)
    | accm c o => exact congrArg (fun e => (_, _, false, e)) (Dev.spdUe_setTxc ..)

/-- What a read has gathered, and the device after it. -/
abbrev ReadAcc := List Byte × List Bool × Nat × Dev

/-- One beat part `y` of a read. -/
def readStep (lk : Locked) (q : Req) (part : Nat) (direct : Bool) (r : ReadAcc) (y : Nat × Nat) : ReadAcc :=
  let b := r.2.2.2.beatRead lk q part y.1 y.2 direct
  (r.1 ++ b.1, r.2.1 ++ [b.2.1], r.2.2.1 + b2n b.2.2.1, b.2.2.2)

theorem Dev.busRead_eq (lk : Locked) (d : Dev) (q : Req) (part a n : Nat) (direct : Bool) :
    d.busRead lk q part a n direct = (beatParts a n).foldl (readStep lk q part direct) ([], [], 0, d) := rfl

/-- What a read has gathered, on a device with the transmit chain `x`. -/
def ReadAcc.with (x : TxcSt) (r : ReadAcc) : ReadAcc := (r.1, r.2.1, r.2.2.1, r.2.2.2.setTxc x)

theorem readStep_with (lk : Locked) (q : Req) (part : Nat) (direct : Bool) (x : TxcSt) (r : ReadAcc) (y : Nat × Nat) :
    readStep lk q part direct (ReadAcc.with x r) y = ReadAcc.with x (readStep lk q part direct r y) := by
  unfold readStep ReadAcc.with
  dsimp only
  rw [Dev.beatRead_setTxc]
  rfl

theorem Dev.busRead_setTxc (lk : Locked) (d : Dev) (x : TxcSt) (q : Req) (part a n : Nat) (direct : Bool) :
    (d.setTxc x).busRead lk q part a n direct = ReadAcc.with x (d.busRead lk q part a n direct) := by
  have hfold (l : List (Nat × Nat)) (r : ReadAcc) :
      l.foldl (readStep lk q part direct) (ReadAcc.with x r) = ReadAcc.with x (l.foldl (readStep lk q part direct) r) := by
    induction l generalizing r with
    | nil => rfl
    | cons y l ih => rw [List.foldl_cons, readStep_with, ih, List.foldl_cons]
  exact hfold (beatParts a n) ([], [], 0, d)

theorem Dev.busBytes_setTxc (lk : Locked) (d : Dev) (x : TxcSt) (q : Req) (a n : Nat) (direct : Bool) :
    ((d.setTxc x).busBytes lk q a n direct).1 = (d.busBytes lk q a n direct).1 := by
  unfold Dev.busBytes
  rw [Dev.busRead_setTxc]
  rfl

/-! ### The mask check (R339, R340) -/

/-- The smallest margin is negative when one is (R339). -/
theorem best_lt_zero (ms : List Int) :
    decide ((ms.zipIdx.foldl (fun (b : Int × Nat) p => if p.1 < b.1 then p else b) (ms.headD 32767, 0)).1 < 0) =
      ms.any fun g => decide (g < 0) := by
  have hfold (l : List (Int × Nat)) (b : Int × Nat) :
      (l.foldl (fun (b : Int × Nat) p => if p.1 < b.1 then p else b) b).1 < 0 ↔ b.1 < 0 ∨ ∃ p ∈ l, p.1 < 0 := by
    induction l generalizing b with
    | nil => simp
    | cons p l ih =>
      rw [List.foldl_cons, ih]
      simp only [List.mem_cons, exists_eq_or_imp]
      split
      · constructor
        · tauto
        · rintro (h | h | h)
          · exact .inl (by omega)
          · exact .inl h
          · exact .inr h
      · constructor
        · tauto
        · rintro (h | h | h)
          · exact .inl h
          · exact .inl (by omega)
          · exact .inr h
  have hz : (∃ p ∈ ms.zipIdx, p.1 < 0) ↔ ∃ g ∈ ms, g < 0 := by
    constructor
    · rintro ⟨p, hp, h⟩
      exact ⟨p.1, (List.mem_zipIdx' hp).2 ▸ List.getElem_mem _, h⟩
    · rintro ⟨g, hg, h⟩
      obtain ⟨i, hi⟩ := mem_zipIdx_of_mem hg
      exact ⟨_, hi, h⟩
  have hh : ms.headD 32767 < 0 → ∃ g ∈ ms, g < 0 := by
    cases ms with
    | nil => simp
    | cons m l => exact fun h => ⟨m, List.mem_cons_self, h⟩
  rw [Bool.eq_iff_iff, decide_eq_true_eq, hfold, hz, List.any_eq_true]
  simp only [decide_eq_true_eq]
  exact ⟨fun h => h.elim hh id, .inr⟩

/-- A report of 16 bytes to the ring at `a`, and a violation counted (R339). -/
def Dev.writeReport (lk : Locked) (d : Dev) (a : Nat) (rep : List Byte) (viol : Bool) (payload : List Byte) : Dev :=
  let wr := d.reg .txc 0 0x144
  let d := d.busStore lk .txc (a + 16 * (wr % 256)) rep
  let d := d.setReg .txc 0 0x144 ((wr + 1) % 2 ^ 32)
  if viol then ((d.bump .txc 0 0x134 1).sticky .txc 0 4).post .txc 0 0x05 7 0 payload else d

theorem Dev.writeReport_spec (lk : Locked) (d : Dev) (a : Nat) (rep : List Byte) (viol : Bool) (payload : List Byte) :
    let e := d.writeReport lk a rep viol payload
    e.cores = d.cores ∧ e.txc = d.txc ∧ e.reg .txc 0 0x138 = d.reg .txc 0 0x138 ∧
      e.reg .txc 0 0x144 = (d.reg .txc 0 0x144 + 1) % 2 ^ 32 ∧
      e.reg .txc 0 0x134 = satAdd (d.reg .txc 0 0x134) (if viol then 1 else 0) := by
  have hb := d.blkKeeps_busStore lk Req.txc_isBlock (a + 16 * (d.reg .txc 0 0x144 % 256)) rep false false
  have hreg (o : Nat) (h : o ∈ [0x134, 0x138]) :
      (d.busStore lk .txc (a + 16 * (d.reg .txc 0 0x144 % 256)) rep).reg .txc 0 o = d.reg .txc 0 o := by
    refine hb.bus.regs _ _ _ ?_
    simp only [List.mem_cons, List.not_mem_nil, or_false] at h
    obtain rfl | rfl := h
    · decide +kernel
    · decide +kernel
  have hc := hb.cores
  have ht : (d.busStore lk .txc (a + 16 * (d.reg .txc 0 0x144 % 256)) rep).txc = d.txc := by rw [hb.shape]
  unfold Dev.writeReport
  extract_lets wr d1 d2 e
  change d1.cores = _ at hc
  change d1.txc = _ at ht
  change ∀ o ∈ [0x134, 0x138], d1.reg .txc 0 o = _ at hreg
  clear_value d1
  have h2 : d1.regsOnly d2 := d1.setReg_regsOnly ..
  have r1 : d2.reg .txc 0 0x138 = d1.reg .txc 0 0x138 := Dev.reg_setReg_off _ _ _ _ (by decide)
  have r2 : d2.reg .txc 0 0x134 = d1.reg .txc 0 0x134 := Dev.reg_setReg_off _ _ _ _ (by decide)
  have r3 : d2.reg .txc 0 0x144 = (wr + 1) % 2 ^ 32 := by
    unfold d2
    rw [Dev.reg_setReg_self, Nat.mod_mod]
  clear_value d2
  cases viol with
  | false =>
    have he : e = d2 := rfl
    rw [he, h2]
    rw [h2] at r1 r2 r3
    exact ⟨hc, ht, r1.trans (hreg _ (by simp)), r3, r2.trans ((hreg _ (by simp)).trans (satAdd_zero (d.reg_lt ..)).symm)⟩
  | true =>
    have he : e = ((d2.bump .txc 0 0x134 1).sticky .txc 0 4).post .txc 0 0x05 7 0 payload := rfl
    have h3 := (d2.bump_regsOnly .txc 0 0x134 1).trans (Dev.sticky_regsOnly _ .txc 0 4)
    have q1 : ((d2.bump .txc 0 0x134 1).sticky .txc 0 4).reg .txc 0 0x138 = d2.reg .txc 0 0x138 := by
      rw [Dev.reg_sticky_ne _ _ (by simp [Page.sticky]) (by simp), Dev.reg_bump_ne _ _ (by simp)]
    have q2 : ((d2.bump .txc 0 0x134 1).sticky .txc 0 4).reg .txc 0 0x144 = d2.reg .txc 0 0x144 := by
      rw [Dev.reg_sticky_ne _ _ (by simp [Page.sticky]) (by simp), Dev.reg_bump_ne _ _ (by simp)]
    have q3 : ((d2.bump .txc 0 0x134 1).sticky .txc 0 4).reg .txc 0 0x134 = satAdd (d2.reg .txc 0 0x134) 1 := by
      rw [Dev.reg_sticky_ne _ _ (by simp [Page.sticky]) (by simp), Dev.reg_bump_self]
    rw [he]
    generalize (d2.bump .txc 0 0x134 1).sticky .txc 0 4 = f at *
    have hpr := f.keepsRegs_post .txc 0 0x05 7 0 payload (List.Subset.refl evtRegs)
    have hd : d1.regsOnly f := h2.trans h3
    refine ⟨?_, ?_, (hpr _ _ _ (by decide +kernel)).trans (q1.trans (r1.trans (hreg _ (by simp)))),
      (hpr _ _ _ (by decide +kernel)).trans (q2.trans r3),
      (hpr _ _ _ (by decide +kernel)).trans (q3.trans (by rw [r2, hreg _ (by simp)]; rfl))⟩
    · rw [Dev.post_cores, hd]
      exact hc
    · rw [Dev.post_shape, hd]
      exact ht

/-- The samples of symbol `y` behind its cyclic prefix. -/
def TxSym.body (y : TxSym) (e : List Byte) : List (Int × Int) := y.samples.drop (y.samples.length - 2 ^ txNfftl e)

/-- Mean power of the occupied bins (R339). -/
def maskPref (e : List Byte) (x : List (Int × Int)) : Ex :=
  ((((List.range (12 * ceNprb e)).map fun i : Nat => (i : Int) - 6 * ceNprb e).map (binPower x)).foldl Ex.add (Ex.ofInt 0)).div
    (Ex.ofInt (12 * ceNprb e))

theorem maskPref_eq (e : List Byte) (x : List (Int × Int)) : maskPref e x =
    (((List.range (12 * ceNprb e)).map fun i : Nat => binPower x ((i : Int) - 6 * ceNprb e)).foldl Ex.add (Ex.ofInt 0)).div
      (Ex.ofInt (12 * ceNprb e)) := by
  unfold maskPref
  rw [List.map_map]
  rfl

/-- The segments of the mask in the bytes `m` (R339). -/
def maskSegs (e m : List Byte) : List (Int × Int × Int) :=
  (List.range (txMaskN e)).map fun j =>
    (toS 16 (leAt m (8 * j) 2), toS 16 (leAt m (8 * j + 2) 2), toS 16 (leAt m (8 * j + 4) 2))

/-- Checks begun within the pace of R340. -/
def Dev.recentChecks (d : Dev) : List Nat := d.txc.monTicks.filter fun i => !d.elapsed i 35677

/-- A check of symbol `k` of row `a` of slot `n` of an egress cell of entry `e` is due, and finds the symbol `y` (R339). -/
structure Dev.maskDue (d : Dev) (c n k a : Nat) (e : List Byte) (y : TxSym) : Prop where
  sym : (d.txc.syms.find? fun y => y.cell == c && y.slot == n && y.sym == k && y.row == a) = some y
  egress : txEgress e = true
  decim : txDecim e ≠ 0
  turn : (14 * (n - ((d.txc.started.find? (·.1 == c)).map (·.2)).getD 0) + k) % txDecim e = 0

theorem effMaskCheck_skip {lk : Locked} {d : Dev} {c v k a : Nat} {y : TxSym} :
    let n := d.absSlot (ceMu (d.activeCell true c)) v
    d.maskDue c n k a (d.cellFor true c n) y → 8 ≤ d.recentChecks.length →
    effMaskCheck c v k a lk d = (d.setTxc { d.txc with monTicks := d.recentChecks }).bump .txc 0 0x138 1 := by
  intro n hdue hfull
  obtain ⟨h1, h2, h3, h4⟩ := hdue
  unfold effMaskCheck
  extract_lets +onlyGivenNames s e start
  split
  next h => cases h1.symm.trans h
  next z h =>
    extract_lets +onlyGivenNames dec
    rw [if_neg (by simp only [e, s, start, h2, h3, h4]; simp)]
    exact if_pos hfull

/-- A check that is noted: of a symbol with power, the mask is read and a report written (R339). -/
theorem effMaskCheck_report {lk : Locked} {d : Dev} {c v k a n : Nat} {e : List Byte} {y : TxSym}
    (hn : d.absSlot (ceMu (d.activeCell true c)) v = n) (he : d.cellFor true c n = e) (hdue : d.maskDue c n k a e y)
    (hroom : d.recentChecks.length < 8) :
    effMaskCheck c v k a lk d = d.setTxc { d.txc with monTicks := d.recentChecks ++ [d.tim.tick] } ∧ (maskPref e (y.body e)).num = 0 ∨
    (maskPref e (y.body e)).num ≠ 0 ∧ ∃ d1 m rep pay,
      (d.setTxc { d.txc with monTicks := d.recentChecks ++ [d.tim.tick] }).readKeeps d1 ∧
      m = ((d.setTxc { d.txc with monTicks := d.recentChecks ++ [d.tim.tick] }).busBytes lk .txc (txTd e + 0x400) 256).1 ∧
      effMaskCheck c v k a lk d = d1.writeReport lk (txTd e + 0x1000) rep
        ((maskMargins (y.body e) (maskPref e (y.body e)) (maskSegs e m)).any fun g => decide (g < 0)) pay := by
  subst hn he
  obtain ⟨h1, h2, h3, h4⟩ := hdue
  obtain ⟨t, ht⟩ : ∃ t, t = effMaskCheck c v k a lk d := ⟨_, rfl⟩
  rw [← ht]
  unfold effMaskCheck at ht
  extract_lets +onlyGivenNames s e' start at ht
  split at ht
  next h => cases h1.symm.trans h
  next z h =>
    obtain rfl := Option.some.inj (h1.symm.trans h)
    extract_lets +onlyGivenNames dec recent at ht
    rw [if_neg (by simp only [e', s, start, dec, h2, h3, h4]; simp), if_neg (show ¬ 8 ≤ recent.length from not_le.2 hroom)] at ht
    clear h h1 h2 h3 h4
    extract_lets +onlyGivenNames src d0 nn x nprb occ pref at ht
    change t = d0 ∧ pref.num = 0 ∨ pref.num ≠ 0 ∧ ∃ d1 m rep pay, d0.readKeeps d1 ∧
      m = (Dev.busBytes lk d0 .txc (txTd e' + 0x400) 256).1 ∧
      t = Dev.writeReport lk d1 (txTd e' + 0x1000) rep ((maskMargins x pref (maskSegs e' m)).any fun g => decide (g < 0)) pay
    have hk := d0.readKeeps_busBytes lk .txc (txTd e' + 0x400) 256 false
    obtain ⟨r, hr⟩ : ∃ r, r = Dev.busBytes lk d0 .txc (txTd e' + 0x400) 256 := ⟨_, rfl⟩
    rw [← hr] at ht hk ⊢
    obtain ⟨mb, p, d1⟩ := r
    by_cases hp : pref.num = 0
    · rw [if_pos hp] at ht
      exact .inl ⟨ht, hp⟩
    · rw [if_neg hp] at ht
      have key : t = Dev.writeReport lk d1 (txTd e' + 0x1000) _ _ _ := ht
      rw [best_lt_zero] at key
      exact .inr ⟨hp, d1, mb, _, _, hk, rfl, key⟩

/-! ### The overlay marker (R331) -/

/-- A row of the overlay buffer: the word that takes precoding, for each subcarrier. -/
def overlayRow (e : List Byte) : List Byte := (List.range (12 * ceNprb e)).flatMap fun _ => leBytes 4 0x80008000

/-- The marker of slot `s` of cell `c` taken. -/
def Dev.takeMarker (d : Dev) (c s : Nat) : Dev := { d with txc := { d.txc with markers := d.txc.markers.filter (· != (c, s)) } }

/-- Rows of bytes `w` stored from `base` on, `rp` bytes apart. -/
def Dev.overlayRows (lk : Locked) (d : Dev) (base rp rows : Nat) (w : List Byte) : Dev :=
  (List.range rows).foldl (fun d i => d.busStore lk .txc (base + i * rp) w) d

theorem effOverlayMarker_eq {d : Dev} {c n : Nat} (lk : Locked) (hf : d.txc.markers.find? (·.1 == c) = some (c, n)) :
    effOverlayMarker c lk d = (d.takeMarker c n).overlayRows lk
      (txOvlBase (d.cellFor true c n) + n % 2 * (14 * ceNstream (d.cellFor true c n) * rowP (ceNprb (d.cellFor true c n))))
      (rowP (ceNprb (d.cellFor true c n))) (14 * ceNstream (d.cellFor true c n)) (overlayRow (d.cellFor true c n)) := by
  unfold effOverlayMarker
  rw [hf]
  rfl

theorem rowP_ge (n : Nat) : 48 * n ≤ rowP n := by
  unfold rowP ceilDiv
  omega

theorem Dev.blkKeeps_overlayRows (lk : Locked) (d : Dev) (base rp rows : Nat) (w : List Byte) :
    d.blkKeeps (d.overlayRows lk base rp rows w) :=
  Dev.blkKeeps_foldl _ (fun e _ => e.blkKeeps_busStore lk Req.txc_isBlock ..) _ d

theorem length_overlayRow (e : List Byte) : (overlayRow e).length = 48 * ceNprb e := by
  have h (n : Nat) : ((List.range n).flatMap fun _ => leBytes 4 0x80008000).length = 4 * n := by
    simp [leBytes]
    omega
  unfold overlayRow
  rw [h]
  omega

theorem overlayRow_getD (e : List Byte) {j m : Nat} (hj : j < 12 * ceNprb e) (hm : m < 4) (h : m < (leBytes 4 0x80008000).length) :
    (overlayRow e).getD (4 * j + m) 0 = (leBytes 4 0x80008000)[m] := by
  have hall (n : Nat) (j : Nat) (hj : j < n) :
      ((List.replicate n (leBytes 4 0x80008000)).flatten).getD (4 * j + m) 0 = (leBytes 4 0x80008000).getD m 0 := by
    induction n generalizing j with
    | zero => exact absurd hj (Nat.not_lt_zero j)
    | succ n ih =>
      rw [List.replicate_succ, List.flatten_cons]
      cases j with
      | zero => rw [Nat.mul_zero, Nat.zero_add, List.getD_append _ _ _ _ h]
      | succ j =>
        have hlen : (leBytes 4 0x80008000).length = 4 := rfl
        rw [List.getD_append_right _ _ _ _ (by omega), hlen]
        have : 4 * (j + 1) + m - 4 = 4 * j + m := by omega
        rw [this]
        exact ih j (by omega)
  have hrow : overlayRow e = (List.replicate (12 * ceNprb e) (leBytes 4 0x80008000)).flatten := by
    unfold overlayRow
    rw [List.flatMap_def, List.map_const', List.length_range]
  rw [hrow, hall _ j hj, List.getD_eq_getElem _ _ h]

/-- Rows stored in LPDDR5X that is open to the chain stand there (R331). -/
theorem Dev.overlayRows_byte {lk : Locked} {d : Dev} {base rp : Nat} {w : List Byte} (h : d.lpOpen .txc) (hw : w.length ≤ rp)
    (rows : Nat) (hend : base + rows * rp ≤ 2 ^ 36) :
    ∀ i < rows, ∀ m < w.length, (d.overlayRows lk base rp rows w).ms.lp.byte (base + i * rp + m) = w.getD m 0 := by
  induction rows with
  | zero => exact fun i hi => absurd hi (Nat.not_lt_zero i)
  | succ r ih =>
    intro i hi m hm
    have hs : (r + 1) * rp = r * rp + rp := Nat.succ_mul r rp
    have hopen : (d.overlayRows lk base rp r w).lpOpen .txc := h.keeps (d.blkKeeps_overlayRows lk base rp r w).bus
    have hstep : d.overlayRows lk base rp (r + 1) w = (d.overlayRows lk base rp r w).busStore lk .txc (base + r * rp) w := by
      unfold Dev.overlayRows
      rw [List.range_succ, List.foldl_append]
      rfl
    have hb := Dev.busWrite_lp (lk := lk) hopen (a := base + r * rp) (bs := w) (by omega)
      (List.replicate (w.length / 64 + 2) false) false (base + i * rp + m)
    rw [hstep]
    refine hb.trans ?_
    obtain hir | rfl := Nat.lt_succ_iff_lt_or_eq.1 hi
    · have hle : i * rp + rp ≤ r * rp := by
        have := Nat.mul_le_mul_right rp hir
        rw [Nat.succ_mul] at this
        exact this
      rw [if_neg (by omega)]
      exact ih (by omega) i hir m hm
    · rw [if_pos (by omega)]
      congr 1
      omega

end Sys2Proof.Machine

/-! ## The obligation -/

open Sys2Proof Sys2Proof.Machine

/-- Settles O24: the rows of the overlay buffer are stored one behind the other, and a check that is not skipped reports a symbol
with power. -/
theorem overlayAndMask : Obligations.OverlayAndMask := by
  unfold Obligations.OverlayAndMask
  refine ⟨?overlay, ?mask⟩
  case overlay =>
    intro s c n hf e rp rows base
    have h0 := effOverlayMarker_eq s.lk hf
    have hk := Dev.blkKeeps_overlayRows s.lk (s.d.takeMarker c n) base rp rows (overlayRow e)
    refine ⟨_, exec_onLk (s := s) (i := .overlayMarker c) (f := effOverlayMarker c.val) rfl h0, rfl, rfl, hk.cores,
      by have h := congrArg Dev.txc hk.shape; exact h, fun hmem hcmn hend hw i j hi hj => ?_⟩
    have hrp : 48 * ceNprb e ≤ rp := rowP_ge ..
    have hopen : (s.d.takeMarker c n).lpOpen .txc := ⟨hmem, hcmn, hw⟩
    have hbyte := Dev.overlayRows_byte (lk := s.lk) (w := overlayRow e) hopen (by rw [length_overlayRow]; exact hrp) rows hend i hi
    rw [length_overlayRow] at hbyte
    refine List.ext_getElem (by simp [leBytes]) fun m h1 h2 => ?_
    have hm : m < 4 := by simpa [leBytes] using h2
    have := hbyte (4 * j + m) (by omega)
    simp only [Mem.read, List.getElem_map, List.getElem_range]
    rw [Nat.add_assoc (base + i * rp)]
    exact this.trans (overlayRow_getD e hj hm h2)
  case mask =>
    intro s c v k a y n e start recent x pref m margins hsym heg hdec hturn
    have hdue : s.d.maskDue c n k a e y := ⟨hsym, heg, hdec, hturn⟩
    have hpref : maskPref e x = pref := maskPref_eq ..
    by_cases hfull : 8 ≤ recent.length
    · have h0 := effMaskCheck_skip (lk := s.lk) hdue hfull
      have hreg := (s.d.setTxc { s.d.txc with monTicks := s.d.recentChecks }).bump_regsOnly .txc 0 0x138 1
      have hself := (s.d.setTxc { s.d.txc with monTicks := s.d.recentChecks }).reg_bump_self .txc 0 0x138 1
      have hkeep := (s.d.setTxc { s.d.txc with monTicks := s.d.recentChecks }).keepsRegs_bump .txc 0 0x138 1 (l := [(.txc, 0, 0x138)]) (by simp)
      generalize (s.d.setTxc { s.d.txc with monTicks := s.d.recentChecks }).bump .txc 0 0x138 1 = f at *
      obtain ⟨g, rfl⟩ : ∃ g, f = { s.d.setTxc { s.d.txc with monTicks := s.d.recentChecks } with rg := g } := ⟨_, hreg⟩
      exact ⟨_, exec_onLk (s := s) (i := .maskCheck c v k a) (f := effMaskCheck c.val v.toNat k.val a) rfl h0, rfl, rfl, rfl,
        fun _ => ⟨rfl, hself, hkeep⟩, fun h => absurd hfull (not_le.2 h)⟩
    · have hlt := not_le.1 hfull
      obtain ⟨h0, hz⟩ | ⟨hz, d1, mb, rep, pay, hk, rfl, h0⟩ := effMaskCheck_report (lk := s.lk) (v := v.toNat) rfl rfl hdue hlt
      · have hz : pref.num = 0 := hpref ▸ (show (maskPref e x).num = 0 from hz)
        refine ⟨_, exec_onLk (s := s) (i := .maskCheck c v k a) (f := effMaskCheck c.val v.toNat k.val a) rfl h0, rfl, rfl, rfl,
          fun h => absurd h hfull, fun _ => ⟨rfl, rfl, ?_, ?_⟩⟩
        · rw [if_pos hz]
          rfl
        · rw [if_neg fun h => h.1 hz]
          exact (satAdd_zero (s.d.reg_lt ..)).symm
      · have hz : pref.num ≠ 0 := hpref ▸ (show (maskPref e x).num ≠ 0 from hz)
        have hm := Dev.busBytes_setTxc s.lk s.d { s.d.txc with monTicks := s.d.recentChecks ++ [s.d.tim.tick] } .txc (txTd e + 0x400)
          256 false
        have hv : maskMargins (y.body e) (maskPref e (y.body e)) (maskSegs e ((s.d.setTxc { s.d.txc with
            monTicks := s.d.recentChecks ++ [s.d.tim.tick] }).busBytes s.lk .txc (txTd e + 0x400) 256).1) = margins := by
          rw [hm]
          exact congrArg (fun p => maskMargins x p (maskSegs e m)) hpref
        obtain ⟨w1, w2, w3, w4, w5⟩ := d1.writeReport_spec s.lk (txTd e + 0x1000) rep (margins.any fun g => decide (g < 0)) pay
        have h0 : effMaskCheck c v.toNat k a s.lk s.d = d1.writeReport s.lk (txTd e + 0x1000) rep
            (margins.any fun g => decide (g < 0)) pay := by
          rw [← hv]
          exact h0
        have hreg (o : Nat) (ho : RegAt.addr (.txc, 0, o) ∉ busRegs.map RegAt.addr) : d1.reg .txc 0 o = s.d.reg .txc 0 o := hk.regs _ _ _ ho
        refine ⟨_, exec_onLk (s := s) (i := .maskCheck c v k a) (f := effMaskCheck c.val v.toNat k.val a) rfl h0, rfl, rfl,
          w1.trans hk.cores, fun h => absurd h hfull, fun _ => ⟨w2.trans ?_, w3.trans (hreg _ (by decide +kernel)), w4.trans ?_,
            w5.trans ?_⟩⟩
        · rw [hk.shape]
          rfl
        · rw [if_neg hz, hreg _ (by decide +kernel)]
        · rw [hreg _ (by decide +kernel)]
          simp only [hz, ne_eq, not_false_eq_true, true_and]

end

section
/-! SUPPORT. The counterexample to O48. -/

namespace Sys2Proof.Machine

/-- The firmware runs, and the memory controller is enabled and not yet trained: every access to LPDDR5X waits. -/
def trainingState : State := { d := { rg := [(0x100 + Page.base .sec 0, 2), (0x100 + Page.base .mem 0, 1)] } }

/-- An access of no bytes at address 0 that names a length of 1 waits with that length, also where it is a write. -/
theorem bar2Access_trainingState : ∀ t, exec (.bar2Access true 0 1 [] false) trainingState = .next t →
    t.d.pci.bar2.map (·.len) = [1] := by
  have h : (match exec (.bar2Access true 0 1 [] false) trainingState with
      | .next t => t.d.pci.bar2.map (·.len) | _ => []) = [1] := by
    decide +kernel
  intro t ht
  rw [ht] at h
  exact h

end Sys2Proof.Machine

open Sys2Proof Sys2Proof.Machine

/-- Refutes O48: BAR2_ACCESS keeps its length operand with a write that has to wait, and not the number of the bytes that
the write carries; the statement's fifth part says the latter. -/
theorem not_hostWrites : ¬ Obligations.HostWrites := by
  unfold Obligations.HostWrites
  rintro ⟨-, -, -, -, h, -⟩
  have hx := h trainingState 0 1 true [] false (by decide +kernel) (by decide +kernel)
  exact absurd (bar2Access_trainingState _ hx) (by decide +kernel)

end

section
/-! SUPPORT. Waten links, credits, beacons, addresses and received messages (O41). -/

namespace Sys2Proof.Machine

/-! ## LINK_WRITE (R483, R486, R498) -/

/-- First register of a link entry. -/
def linkOff (i : Nat) : Nat := 0x400 + 16 * i

theorem Page.isRws_link : ∀ (i : Fin 64) (k : Fin 2), Page.isRws .wtn 0 (0x400 + 16 * i.val + 4 * k.val) = false := by
  decide +kernel

theorem Dev.blockWrite_link (d : Dev) (lk : Locked) {i k : Nat} (hi : i < 64) (hk : k < 2) (v : Nat) :
    d.blockWrite lk .wtn 0 (0x400 + 16 * i + 4 * k) v = effLinkWrite i k v lk d := by
  have hf : wtnFrozen (0x400 + 16 * i + 4 * k) = false := by
    simp [wtnFrozen]
    omega
  have h1 : (0x400 + 16 * i + 4 * k - 0x400) / 16 = i := by omega
  have h2 : (0x400 + 16 * i + 4 * k) % 16 / 4 = k := by omega
  simp only [Dev.blockWrite]
  rw [if_neg (by omega), if_neg (by omega), if_neg (by omega), hf, if_neg (by decide), if_pos (by omega), if_pos (by omega),
    h1, h2]

/-- A write of a link entry reaches the engine. -/
theorem exec_linkWrite {s : State} {w : World} (h : s.d.takesWrite s.lk w .wtn 0) (i : Fin 64) (k : Fin 2) (v : W32) :
    exec (.linkWrite w i k v) s = .next { s with d := effLinkWrite i.val k.val v.toNat s.lk s.d } := by
  rw [exec_blockWrite rfl h rfl v.isLt (by omega) (fun _ => Page.isRws_link i k) (by simp) (by simp),
    Dev.blockWrite_link _ _ i.isLt k.isLt]

/-- A write that changes a VALID link is counted. -/
theorem effLinkWrite_valid {d : Dev} {i k v : Nat} (lk : Locked) (h : d.linkValid i = true) (hk : k = 1 ∨ bit v 31 = true) :
    ∃ o, effLinkWrite i k v lk d = d.err .wtn 0 errState o := by
  unfold effLinkWrite
  by_cases hk0 : k = 0
  · have hb : bit v 31 = true := hk.resolve_left (by omega)
    exact ⟨_, (if_pos hk0).trans ((if_pos h).trans (if_pos hb))⟩
  · exact ⟨_, (if_neg hk0).trans (if_pos h)⟩

/-- The credits of a link that is not VALID are written. -/
theorem effLinkWrite_credits {d : Dev} {i : Nat} (v : Nat) (lk : Locked) (h : d.linkValid i = false) :
    effLinkWrite i 1 v lk d = d.setReg .wtn 0 (0x400 + 16 * i + 4) v := by
  unfold effLinkWrite
  rw [if_neg (by decide), if_neg (by rw [h]; decide)]

/-- A link that stays not VALID takes its peer. -/
theorem effLinkWrite_peer {d : Dev} {i v : Nat} (lk : Locked) (h : d.linkValid i = false) (hv : bit v 31 = false) :
    effLinkWrite i 0 v lk d = d.setReg .wtn 0 (0x400 + 16 * i) (v &&& 0x80003FFF) := by
  unfold effLinkWrite
  dsimp only
  rw [if_pos rfl, if_neg (by rw [h]; decide), hv, if_pos (by decide)]

/-- The device after a link has taken its route and its credits. -/
def Dev.linkMade (d : Dev) (i : Nat) (route : List Byte) : Dev :=
  Dev.setReg { d with wtn := { d.wtn with
      links := d.wtn.links.setIfInBounds i { route := route }, cut := removeAll i d.wtn.cut } } .wtn 0 (0x400 + 16 * i + 8)
    (d.reg .wtn 0 (0x400 + 16 * i + 4) % 65536)

/-- Address of the route of peer `a` (R485). -/
def Dev.routeAt (d : Dev) (a : Nat) : Nat := d.reg .wtn 0 0x134 + 2 ^ 32 * d.reg .wtn 0 0x138 + 32 * a

theorem effLinkWrite_make {d : Dev} {i v : Nat} (lk : Locked) (h : d.linkValid i = false) (hv : bit v 31 = true) :
    effLinkWrite i 0 v lk d =
      let e := d.setReg .wtn 0 (0x400 + 16 * i) (v &&& 0x80003FFF)
      let r := e.busBytes lk .wtn (e.routeAt (v % 16384)) 32
      r.2.2.linkMade i r.1 := by
  unfold effLinkWrite
  obtain ⟨B, hB⟩ : ∃ B, B = @Dev.busBytes lk := ⟨_, rfl⟩
  rw [← hB]
  exact (if_pos rfl).trans ((if_neg (by rw [h]; decide)).trans (if_neg (by rw [hv]; decide)))

/-- The device after a link was cleared, up to the requests whose messages it drops. -/
def Dev.linkCleared (d : Dev) (i v : Nat) : Dev :=
  (Dev.setReg { d with wtn := { d.wtn with
      tx := d.wtn.tx.filter fun m => m.link != i
      mirq := if d.wtn.pair.any (fun (p : Nat × Nat) => p.1 == i) then [] else d.wtn.mirq
      wait := d.wtn.wait.filter fun (m : WtnRx) => !(m.slot.any fun (s : Nat × Bool × Nat) => s.1 == i)
      links := d.wtn.links.setIfInBounds i {} } } .wtn 0 (0x400 + 16 * i) (v &&& 0x3FFF)).setReg .wtn 0 (0x400 + 16 * i + 8) 0

theorem effLinkWrite_clear {d : Dev} {i v : Nat} (lk : Locked) (h : d.linkValid i = true) (hv : bit v 31 = false) :
    effLinkWrite i 0 v lk d =
      ((d.wtn.tx.filter fun m => m.link == i).map (·.req)).foldl (fun d r => d.reqStep r) (d.linkCleared i v) := by
  unfold effLinkWrite
  dsimp only
  rw [if_pos rfl, if_pos h, hv, if_neg (by decide)]
  rfl

/-- The registers of the links are none of those in which the device map counts. -/
theorem busRegs_wtn : ∀ a ∈ busRegs.map RegAt.addr, a < Page.base .wtn 0 + 0x100 ∨ Page.base .wtn 0 + 0x1000 ≤ a := by
  decide +kernel

/-- Accesses through the device map leave the registers of the Waten engine alone, its header apart. -/
theorem Dev.blkKeeps.reg_wtn {d e : Dev} (h : d.blkKeeps e) {o : Nat} (h1 : 0x100 ≤ o) (h2 : o < 0x1000) :
    e.reg .wtn 0 o = d.reg .wtn 0 o := by
  refine h.bus.regs _ _ _ fun hm => ?_
  have := busRegs_wtn _ hm
  omega

theorem Dev.linkMade_spec {d e : Dev} (h : d.blkKeeps e) {i : Nat} (hi : i < 64) (route : List Byte) :
    (e.linkMade i route).cores = d.cores ∧
    (e.linkMade i route).reg .wtn 0 (0x400 + 16 * i) = d.reg .wtn 0 (0x400 + 16 * i) ∧
    (e.linkMade i route).reg .wtn 0 (0x400 + 16 * i + 8) = d.reg .wtn 0 (0x400 + 16 * i + 4) % 65536 ∧
    (e.linkMade i route).wtn.links = d.wtn.links.setIfInBounds i { route := route } := by
  have hw : e.wtn.links = d.wtn.links := by rw [h.bus.wtn]
  unfold Dev.linkMade
  refine ⟨h.cores, ?_, ?_, ?_⟩
  · rw [Dev.reg_setReg_off _ _ _ _ (by omega), ← h.reg_wtn (by omega) (by omega)]
    rfl
  · rw [Dev.reg_setReg_self, h.reg_wtn (by omega) (by omega)]
    exact Nat.mod_eq_of_lt (by omega)
  · exact congrArg (fun l : Vector WtnLink 64 => l.setIfInBounds i { route := route }) hw

theorem Dev.linkCleared_spec (d : Dev) (i v : Nat) :
    (d.linkCleared i v).cores = d.cores ∧ (d.linkCleared i v).reg .wtn 0 (0x400 + 16 * i) = v &&& 0x3FFF ∧
    (d.linkCleared i v).reg .wtn 0 (0x400 + 16 * i + 8) = 0 ∧
    (d.linkCleared i v).wtn.links = d.wtn.links.setIfInBounds i {} ∧
    (d.linkCleared i v).wtn.tx = d.wtn.tx.filter (·.link != i) ∧
    d.keepsRegs (d.linkCleared i v) [(.wtn, 0, 0x400 + 16 * i), (.wtn, 0, 0x400 + 16 * i + 8)] := by
  have hm : (v &&& 0x3FFF) % 2 ^ 32 = v &&& 0x3FFF :=
    Nat.mod_eq_of_lt (lt_of_le_of_lt Nat.and_le_right (by decide))
  unfold Dev.linkCleared
  refine ⟨rfl, ?_, ?_, rfl, rfl, ?_⟩
  · rw [Dev.reg_setReg_off _ _ _ _ (by omega), Dev.reg_setReg_self, hm]
  · rw [Dev.reg_setReg_self]
    rfl
  · exact ((Dev.keepsRegs_of_rg rfl _).trans (Dev.keepsRegs_setReg _ _ _ _ _ (by simp))).trans
      (Dev.keepsRegs_setReg _ _ _ _ _ (by simp))

/-- Requests whose messages are dropped change themselves and the credits that they hold. -/
theorem Dev.reqSteps_shape (d : Dev) (l : List (Option Nat)) : ∃ q c, l.foldl (fun d r => d.reqStep r) d =
    { d with wtn := { d.wtn with reqs := q }, sch := { d.sch with credits := c } } :=
  ⟨_, _, (Dev.settles_foldl _ (fun d r => d.settles_reqStep r) l d).shape⟩

/-- Where the engine reads the route of a peer does not depend on the entry that is written. -/
theorem Dev.routeAt_setReg_link (d : Dev) (i v a : Nat) : (d.setReg .wtn 0 (0x400 + 16 * i) v).routeAt a = d.routeAt a := by
  unfold Dev.routeAt
  rw [Dev.reg_setReg_off _ _ _ _ (by omega), Dev.reg_setReg_off _ _ _ _ (by omega)]

theorem Req.wtn_isBlock : Req.wtn.isBlock := ⟨rfl, by simp⟩

theorem effLinkWrite_make_spec {d : Dev} {i v : Nat} (lk : Locked) (hi : i < 64) (h : d.linkValid i = false)
    (hv : bit v 31 = true) : ∃ e, effLinkWrite i 0 v lk d = e ∧ e.cores = d.cores ∧
      e.reg .wtn 0 (0x400 + 16 * i) = v &&& 0x80003FFF ∧
      e.reg .wtn 0 (0x400 + 16 * i + 8) = d.reg .wtn 0 (0x400 + 16 * i + 4) % 65536 ∧
      e.wtn.links = d.wtn.links.setIfInBounds i { route :=
        ((d.setReg .wtn 0 (0x400 + 16 * i) (v &&& 0x80003FFF)).busBytes lk .wtn (d.routeAt (v % 16384)) 32).1 } := by
  have hx := effLinkWrite_make lk h hv
  have hm : (v &&& 0x80003FFF) % 2 ^ 32 = v &&& 0x80003FFF :=
    Nat.mod_eq_of_lt (lt_of_le_of_lt Nat.and_le_right (by decide))
  dsimp only at hx
  rw [Dev.routeAt_setReg_link] at hx
  have hk := ((d.setReg .wtn 0 (0x400 + 16 * i) (v &&& 0x80003FFF)).readKeeps_busBytes lk .wtn (d.routeAt (v % 16384)) 32
    false).blk
  obtain ⟨h1, h2, h3, h4⟩ := Dev.linkMade_spec hk hi
    ((d.setReg .wtn 0 (0x400 + 16 * i) (v &&& 0x80003FFF)).busBytes lk .wtn (d.routeAt (v % 16384)) 32).1
  refine ⟨_, hx, h1, ?_, ?_, h4⟩
  · rw [h2, Dev.reg_setReg_self, hm]
  · rw [h3, Dev.reg_setReg_off _ _ _ _ (by omega)]

theorem effLinkWrite_clear_spec {d : Dev} {i v : Nat} (lk : Locked) (h : d.linkValid i = true) (hv : bit v 31 = false) :
    ∃ e, effLinkWrite i 0 v lk d = e ∧ e.cores = d.cores ∧
      e.reg .wtn 0 (0x400 + 16 * i) = v &&& 0x3FFF ∧ e.reg .wtn 0 (0x400 + 16 * i + 8) = 0 ∧
      e.wtn.links = d.wtn.links.setIfInBounds i {} ∧ e.wtn.tx = d.wtn.tx.filter (·.link != i) ∧
      d.keepsRegs e [(.wtn, 0, 0x400 + 16 * i), (.wtn, 0, 0x400 + 16 * i + 8)] := by
  have hx := effLinkWrite_clear lk h hv
  obtain ⟨h1, h2, h3, h4, h5, h6⟩ := d.linkCleared_spec i v
  generalize d.linkCleared i v = c at *
  obtain ⟨q, k, hq⟩ := c.reqSteps_shape ((d.wtn.tx.filter fun m => m.link == i).map (·.req))
  rw [hq] at hx
  exact ⟨_, hx, h1, h2, h3, h4, h5, h6.rg_right rfl⟩

/-! ## CREDIT, BEACON, ADDR_HELD (R480, R481, R487) -/

theorem effCredit_eq {d : Dev} {i : Nat} (hon : d.wtnOn = true) (hv : d.linkValid i = true)
    (hdue : 8 ≤ (d.link i).owedG ∨ (0 < (d.link i).owedM ∧ d.elapsed (d.link i).sinceM 2000 = true))
    (hn : ∀ m ∈ d.wtn.tx, m.link = i → m.cls ≠ 1) : effCredit i d = d.wtnQueue { link := i, cls := 1 } := by
  have hq : (d.wtn.tx.any fun m => m.link == i && m.cls == 1) = false := by simpa using hn
  unfold effCredit
  dsimp only
  refine if_pos ?_
  rw [hon, hv, hq]
  obtain h | ⟨h1, h2⟩ := hdue
  · simp [h]
  · simp [h1, h2]

/-- Queueing a message leaves the links alone. -/
theorem Dev.wtnQueue_links (d : Dev) (m : WtnTx) : (d.wtnQueue m).wtn.links = d.wtn.links := by
  unfold Dev.wtnQueue
  rw [Dev.wtnSweep_shape]

/-- The tick at which the last beacon interval ended. -/
def Dev.beatNow (d : Dev) : Nat := d.wtn.beat + (d.tim.tick - d.wtn.beat) / 78125000 * 78125000

/-- The ports on which a beacon begins to wait. -/
def Dev.beaconPorts (d : Dev) : List Nat :=
  (List.range 8).filter fun p => bit (d.reg .wtn 0 0x110) p && d.linkOn p && !d.wtn.beacons.contains p

theorem effBeacon_eq {d : Dev} (hon : d.wtnOn = true) (h : d.elapsed d.wtn.beat 100000000 = true) : effBeacon d =
    { d with wtn := { d.wtn with beacons := d.wtn.beacons ++ d.beaconPorts, beat := d.beatNow } } := by
  unfold effBeacon
  rw [if_neg (by rw [hon, h]; decide)]
  rfl

theorem Dev.beatNow_spec {d : Dev} (h : d.elapsed d.wtn.beat 100000000 = true) : d.wtn.beat < d.beatNow ∧
    (d.beatNow - d.wtn.beat) % 78125000 = 0 ∧ d.tim.tick - d.beatNow < 78125000 := by
  have he : 100 * 100000000 ≤ 128 * (d.tim.tick - d.wtn.beat) := of_decide_eq_true h
  unfold Dev.beatNow
  omega

/-- Every port that may send beacons has one waiting. -/
theorem Dev.mem_beacons {d : Dev} {p : Nat} (hp : p < 8) (hm : bit (d.reg .wtn 0 0x110) p = true) (hl : d.linkOn p = true) :
    p ∈ d.wtn.beacons ++ d.beaconPorts := by
  by_cases hb : p ∈ d.wtn.beacons
  · exact List.mem_append_left _ hb
  · exact List.mem_append_right _ (List.mem_filter.2 ⟨List.mem_range.2 hp, by simp [hm, hl, hb]⟩)

theorem effAddrHeld_eq {d : Dev} (hon : d.wtnOn = true) (ha : d.flag .wtn 0 0x100 1 = true) (hs : d.wtnState = 0)
    (he : d.elapsed d.wtn.since 300000000 = true) : effAddrHeld d =
      (d.setReg .wtn 0 0x104 (2 ^ 16 + d.wtn.cand)).post .wtn 0 0x09 1 0 (layout 20 [(0, 2, d.wtn.cand)]) := by
  unfold effAddrHeld
  rw [hon, ha, hs, he]
  rfl

/-- The address register shows a held address. -/
theorem bits_held {a : Nat} (h : a < 16384) : bits (2 ^ 16 + a) 17 16 = 1 ∧ bits (2 ^ 16 + a) 13 0 = a := by
  simp only [bits, Nat.shiftRight_eq_div_pow]
  norm_num
  omega

theorem effAddrHeld_spec {d : Dev} (hon : d.wtnOn = true) (ha : d.flag .wtn 0 0x100 1 = true) (hs : d.wtnState = 0)
    (hc : d.wtn.cand < 16384) (he : d.elapsed d.wtn.since 300000000 = true) :
    effAddrHeld d = { d with rg := (effAddrHeld d).rg, pci := (effAddrHeld d).pci } ∧ d.keepsPci (effAddrHeld d) ∧
    (effAddrHeld d).wtnState = 1 ∧ (effAddrHeld d).wtnAddr = d.wtn.cand ∧
    d.keepsRegs (effAddrHeld d) (evtRegs ++ [(.wtn, 0, 0x104)]) := by
  rw [effAddrHeld_eq hon ha hs he]
  obtain ⟨h1, h2⟩ := bits_held hc
  have hm : (2 ^ 16 + d.wtn.cand) % 2 ^ 32 = 2 ^ 16 + d.wtn.cand := Nat.mod_eq_of_lt (by omega)
  have hr := d.reg_setReg_self .wtn 0 0x104 (2 ^ 16 + d.wtn.cand)
  have hg := d.setReg_regsOnly .wtn 0 0x104 (2 ^ 16 + d.wtn.cand)
  have hk := d.keepsRegs_setReg .wtn 0 0x104 (2 ^ 16 + d.wtn.cand) (l := evtRegs ++ [(.wtn, 0, 0x104)]) (by simp)
  generalize d.setReg .wtn 0 0x104 (2 ^ 16 + d.wtn.cand) = e at *
  generalize layout 20 [(0, 2, d.wtn.cand)] = bs
  have hp := e.keepsRegs_post .wtn 0 9 1 0 bs (l := evtRegs) (List.Subset.refl _)
  have hq : (e.post .wtn 0 9 1 0 bs).reg .wtn 0 0x104 = 2 ^ 16 + d.wtn.cand := by
    rw [hp _ _ _ (by decide +kernel), hr, hm]
  refine ⟨?_, (Dev.keepsPci_of_pci (congrArg Dev.pci hg)).trans (e.keepsPci_post ..), ?_, ?_,
    hk.trans (hp.mono (List.subset_append_left ..))⟩
  · rw [Dev.post_shape, hg]
  · rw [Dev.wtnState, Dev.fld, hq, h1]
  · rw [Dev.wtnAddr, Dev.fld, hq, h2]

/-! ## MESSAGE_RECEIVE (R476, R479, R486) -/

/-- Does the engine discard the message `m`: its version, length, pool, address or sender is wrong? -/
def Dev.wtnDiscards (d : Dev) (m : List Byte) : Bool :=
  decide (m.length < 32) || leAt m 0 1 / 16 != 1 || leAt m 6 2 != d.reg .wtn 0 0x108 || m.length != 32 + leAt m 14 2 ||
    decide (8192 < leAt m 14 2) ||
    (leAt m 0 1 % 16 != 0 && (d.wtnState == 0 || leAt m 4 2 != d.wtnAddr || (d.linkTo (leAt m 2 2)).isNone))

theorem Dev.wtnDiscards_iff (d : Dev) (m : List Byte) : d.wtnDiscards m = false ↔
    32 ≤ m.length ∧ leAt m 0 1 / 16 = 1 ∧ leAt m 6 2 = d.reg .wtn 0 0x108 ∧ m.length = 32 + leAt m 14 2 ∧ leAt m 14 2 ≤ 8192 ∧
      (leAt m 0 1 % 16 ≠ 0 → d.wtnState ≠ 0 ∧ leAt m 4 2 = d.wtnAddr ∧ (d.linkTo (leAt m 2 2)).isSome = true) := by
  unfold Dev.wtnDiscards
  simp only [Bool.or_eq_false_iff, bne_eq_false_iff_eq, decide_eq_false_iff_not, not_lt, Bool.and_eq_false_iff,
    beq_eq_false_iff_ne, ne_eq, and_assoc, or_iff_not_imp_left, Option.isNone_eq_false_iff]

/-- A message of a link is stored in slot `k` and waits for an admission point. -/
def Dev.wtnStored (lk : Locked) (d : Dev) (x : WtnRx) (i : Nat) (isM : Bool) (k : Nat) : Dev :=
  let d := d.busStore lk .wtn (d.slotAddr i isM k) x.msg
  let d := d.modLink i fun l => { l with used := l.used ++ [(isM, k)] }
  { d with wtn := { d.wtn with wait := d.wtn.wait ++ [{ x with slot := some (i, isM, k) }] } }

/-- The lowest free slot of the link `i` for messages of one kind. -/
def Dev.wtnFree (d : Dev) (i : Nat) (isM : Bool) : Option Nat :=
  (List.range (if isM then d.fld .wtn 0 (0x404 + 16 * i) 23 16 else d.fld .wtn 0 (0x404 + 16 * i) 31 24)).find? fun k =>
    !(d.link i).used.contains (isM, k)

/-- A sound message of a class that takes a slot. -/
def Dev.wtnSlotted (lk : Locked) (d : Dev) (x : WtnRx) (i : Nat) (isM : Bool) : Dev :=
  if isM && d.wtn.cut.contains i then d
  else ((d.wtnFree i isM).map fun k => d.wtnStored lk x i isM k).getD (d.bump .wtn 0 0x158 1)

/-- A sound message of a class that takes none. -/
def Dev.wtnLoose (d : Dev) (x : WtnRx) : Dev :=
  if 16 ≤ (d.wtn.wait.filter fun y => y.slot.isNone).length then d.bump .wtn 0 0x158 1
  else { d with wtn := { d.wtn with wait := d.wtn.wait ++ [x] } }

/-- What the engine does with the message `x`. -/
def Dev.wtnTake (lk : Locked) (d : Dev) (x : WtnRx) : Dev :=
  let cls := leAt x.msg 0 1 % 16
  if d.wtnDiscards x.msg then d.bump .wtn 0 0x158 1
  else if 4 < cls then d
  else if cls = 2 || cls = 3 then d.wtnSlotted lk x ((d.linkTo (leAt x.msg 2 2)).getD 0) (cls == 3)
  else d.wtnLoose x

/-- The message of a datagram of the engine. -/
def wtnMessage (f : WtnFrame) (u : Udp) : WtnRx :=
  { port := f.port, tick := f.tick, ts := f.ts, smac := (ethParse f.bytes).src, sip := u.sip, tci := (ethParse f.bytes).tci
    msg := u.body }

theorem effMessageReceive_eq {d : Dev} {f : WtnFrame} {rest : List WtnFrame} {u : Udp} (lk : Locked)
    (hf : d.wtn.frames = f :: rest) (hu : udpParse (ethParse f.bytes) = some u) (hok : u.ok = true) (hon : d.wtnOn = true) :
    effMessageReceive lk d = Dev.wtnTake lk { d with wtn := { d.wtn with frames := rest } } (wtnMessage f u) := by
  have hon' : ¬((!u.ok || !Dev.wtnOn { d with wtn := { d.wtn with frames := rest } }) = true) := by
    rw [hok, show Dev.wtnOn { d with wtn := { d.wtn with frames := rest } } = d.wtnOn from rfl, hon]
    decide
  have hm : (wtnMessage f u).msg = u.body := rfl
  obtain ⟨B, hB⟩ : ∃ B, B = @Dev.busStore lk := ⟨_, rfl⟩
  unfold effMessageReceive Dev.wtnTake Dev.wtnSlotted Dev.wtnStored
  rw [← hB, hf]
  dsimp only
  rw [hu]
  refine (if_neg hon').trans (if_congr Iff.rfl rfl (if_congr Iff.rfl rfl (if_congr Iff.rfl (if_congr Iff.rfl rfl ?_) rfl)))
  unfold Dev.wtnFree
  rw [hm]
  split <;> rename_i hk <;> rw [hk] <;> rfl

theorem Dev.link_modLink_self (d : Dev) {i : Nat} (hi : i < 64) (f : WtnLink → WtnLink) :
    (d.modLink i f).link i = f (d.link i) := getD_setIfInBounds_self _ _ _ hi

theorem Dev.wtnStored_spec (lk : Locked) (d : Dev) (x : WtnRx) {i : Nat} (hi : i < 64) (isM : Bool) (k : Nat) :
    (d.wtnStored lk x i isM k).cores = d.cores ∧ (d.wtnStored lk x i isM k).wtn.frames = d.wtn.frames ∧
    (d.wtnStored lk x i isM k).wtn.wait = d.wtn.wait ++ [{ x with slot := some (i, isM, k) }] ∧
    ((d.wtnStored lk x i isM k).link i).used = (d.link i).used ++ [(isM, k)] := by
  have hb := d.blkKeeps_busStore lk Req.wtn_isBlock (d.slotAddr i isM k) x.msg false false
  unfold Dev.wtnStored
  dsimp only
  generalize d.busStore lk .wtn (d.slotAddr i isM k) x.msg false false = e at *
  have hw := hb.bus.wtn
  have hl : e.link i = d.link i := by rw [Dev.link, hw, Dev.link]
  refine ⟨hb.cores, ?_, ?_, ?_⟩
  · show e.wtn.frames = d.wtn.frames
    rw [hw]
  · show e.wtn.wait ++ _ = d.wtn.wait ++ _
    rw [hw]
  · show ((e.modLink i fun l => { l with used := l.used ++ [(isM, k)] }).link i).used = _
    rw [Dev.link_modLink_self _ hi, hl]

theorem Dev.linkTo_lt {d : Dev} {a i : Nat} (h : d.linkTo a = some i) : i < 64 :=
  List.mem_range.1 (List.mem_of_find?_eq_some h)

theorem Dev.wtnLoose_room {d : Dev} (x : WtnRx) (h : (d.wtn.wait.filter (·.slot.isNone)).length < 16) :
    d.wtnLoose x = { d with wtn := { d.wtn with wait := d.wtn.wait ++ [x] } } := if_neg (by omega)

/-- What the engine does with a message leaves the cores and the datagrams behind it alone. -/
theorem Dev.wtnTake_keeps (lk : Locked) (d : Dev) (x : WtnRx) :
    (d.wtnTake lk x).cores = d.cores ∧ (d.wtnTake lk x).wtn.frames = d.wtn.frames := by
  have hd : (d.bump .wtn 0 0x158 1).cores = d.cores ∧ (d.bump .wtn 0 0x158 1).wtn.frames = d.wtn.frames := by simp
  unfold Dev.wtnTake
  dsimp only
  by_cases hs : d.wtnDiscards x.msg = true
  · rw [if_pos hs]
    exact hd
  rw [if_neg hs]
  by_cases h4 : 4 < leAt x.msg 0 1 % 16
  · rw [if_pos h4]
    exact ⟨rfl, rfl⟩
  rw [if_neg h4]
  split
  · next hc =>
    have hi : (d.linkTo (leAt x.msg 2 2)).getD 0 < 64 := by
      cases hl : d.linkTo (leAt x.msg 2 2) with
      | none => simp
      | some i => simpa using Dev.linkTo_lt hl
    generalize (d.linkTo (leAt x.msg 2 2)).getD 0 = i at *
    unfold Dev.wtnSlotted
    split
    · exact ⟨rfl, rfl⟩
    · cases d.wtnFree i (leAt x.msg 0 1 % 16 == 3) with
      | none => exact hd
      | some k =>
        obtain ⟨h1, h2, -⟩ := d.wtnStored_spec lk x hi (leAt x.msg 0 1 % 16 == 3) k
        exact ⟨h1, h2⟩
  · unfold Dev.wtnLoose
    split
    · exact hd
    · exact ⟨rfl, rfl⟩

/-- A GATHER message of link `i` takes the lowest free slot of the link. -/
theorem Dev.wtnTake_gather {d : Dev} {x : WtnRx} {i k : Nat} (lk : Locked) (hs : d.wtnDiscards x.msg = false)
    (hc : leAt x.msg 0 1 % 16 = 2) (hl : d.linkTo (leAt x.msg 2 2) = some i) (hk : k < d.fld .wtn 0 (0x404 + 16 * i) 31 24)
    (hf : (d.link i).used.contains (false, k) = false) (hj : ∀ j, j < k → (d.link i).used.contains (false, j) = true) :
    d.wtnTake lk x = d.wtnStored lk x i false k := by
  have hfree : d.wtnFree i false = some k := by
    unfold Dev.wtnFree
    rw [List.find?_range_eq_some]
    exact ⟨by rw [hf]; rfl, List.mem_range.2 hk, fun j h => by rw [hj j h]; rfl⟩
  unfold Dev.wtnTake Dev.wtnSlotted
  dsimp only
  rw [hs, hc, hl]
  simp only [Bool.false_eq_true, if_false, decide_true, Bool.true_or, if_true, Option.getD_some]
  rw [if_neg (by omega)]
  rw [show ((2 : Nat) == 3) = false from rfl, hfree]
  rfl

theorem Dev.wtnTake_other {d : Dev} {x : WtnRx} (lk : Locked) (hs : d.wtnDiscards x.msg = false)
    (hc : leAt x.msg 0 1 % 16 = 0 ∨ leAt x.msg 0 1 % 16 = 1 ∨ leAt x.msg 0 1 % 16 = 4) :
    d.wtnTake lk x = d.wtnLoose x := by
  unfold Dev.wtnTake
  dsimp only
  rw [hs, if_neg (by decide), if_neg (by omega), if_neg (by simp; omega)]

theorem Dev.wtnTake_unnamed {d : Dev} {x : WtnRx} (lk : Locked) (hs : d.wtnDiscards x.msg = false)
    (hc : 4 < leAt x.msg 0 1 % 16) : d.wtnTake lk x = d := by
  unfold Dev.wtnTake
  dsimp only
  rw [hs, if_neg (by decide), if_pos hc]

theorem Dev.wtnTake_unsound {d : Dev} {x : WtnRx} (lk : Locked) (hs : d.wtnDiscards x.msg = true) :
    d.wtnTake lk x = d.bump .wtn 0 0x158 1 := if_pos hs

end Sys2Proof.Machine

/-! ## The obligation -/

open Sys2Proof Sys2Proof.Machine

/-- LINK_WRITE (R483, R486, R498). -/
theorem linkWrites (s : State) (w : World) (i : Fin 64) (k : Fin 2) (v : W32) (hw : s.d.takesWrite s.lk w .wtn 0) :
    let o := 0x400 + 16 * i.val
    let r := (s.d.setReg .wtn 0 o (v.toNat &&& 0x80003FFF)).busBytes s.lk .wtn
      (s.d.reg .wtn 0 0x134 + 2 ^ 32 * s.d.reg .wtn 0 0x138 + 32 * (v.toNat % 16384)) 32
    ∃ t, exec (.linkWrite w i k v) s = .next t ∧ t.pending = s.pending ∧ t.lk = s.lk ∧ t.d.cores = s.d.cores ∧
      (s.d.linkValid i = true → (k = 1 ∨ bit v.toNat 31 = true) → t = { s with d := { s.d with rg := t.d.rg } } ∧
        t.d.reg .wtn 0 0x02C = satAdd (s.d.reg .wtn 0 0x02C) 1 ∧ s.d.keepsRegs t.d [(.wtn, 0, 0x028), (.wtn, 0, 0x02C)]) ∧
      (s.d.linkValid i = false → k = 1 → t = { s with d := { s.d with rg := t.d.rg } } ∧
        t.d.reg .wtn 0 (o + 4) = v.toNat ∧ s.d.keepsRegs t.d [(.wtn, 0, o + 4)]) ∧
      (s.d.linkValid i = false → k = 0 → bit v.toNat 31 = true →
        t.d.reg .wtn 0 o = v.toNat &&& 0x80003FFF ∧ t.d.reg .wtn 0 (o + 8) = s.d.reg .wtn 0 (o + 4) % 65536 ∧
        t.d.wtn.links = s.d.wtn.links.set i.val { route := r.1 }) ∧
      (s.d.linkValid i = true → k = 0 → bit v.toNat 31 = false →
        t.d.reg .wtn 0 o = v.toNat &&& 0x3FFF ∧ t.d.reg .wtn 0 (o + 8) = 0 ∧
        t.d.wtn.links = s.d.wtn.links.set i.val {} ∧ t.d.wtn.tx = s.d.wtn.tx.filter (·.link != i.val) ∧
        s.d.keepsRegs t.d [(.wtn, 0, o), (.wtn, 0, o + 8)]) := by
  intro o r
  have hx := exec_linkWrite hw i k v
  have hset (x : WtnLink) : s.d.wtn.links.setIfInBounds i.val x = s.d.wtn.links.set i.val x :=
    Vector.setIfInBounds_eq_set _ i.isLt x
  have hk : k = 0 ∨ k = 1 := by omega
  cases hv : s.d.linkValid i with
  | true =>
    by_cases hb : k = 1 ∨ bit v.toNat 31 = true
    · obtain ⟨p, hp⟩ := effLinkWrite_valid (k := k.val) s.lk hv (hb.imp_left (congrArg Fin.val))
      rw [hp] at hx
      refine ⟨_, hx, rfl, rfl, by simp, fun _ _ => ⟨?_, Dev.reg_err_count .., Dev.keepsRegs_err _ _ _ _ _ (by simp) (by simp)⟩,
        nofun, nofun, fun _ h0 hb0 => ?_⟩
      · exact congrArg (fun d : Dev => { s with d := d }) (Dev.err_regs ..)
      · simp [h0, hb0] at hb
    · obtain ⟨h1, hb0⟩ := not_or.1 hb
      obtain rfl := hk.resolve_right h1
      obtain ⟨e, he, hc, hr1, hr2, hl, ht, hkeep⟩ :=
        effLinkWrite_clear_spec (v := v.toNat) s.lk hv (by simpa using hb0)
      rw [Fin.val_zero, he] at hx
      exact ⟨_, hx, rfl, rfl, hc, fun _ h => absurd h hb, nofun, nofun, fun _ _ _ =>
        ⟨hr1, hr2, hl.trans (hset _), ht, hkeep⟩⟩
  | false =>
    obtain rfl | rfl := hk
    · cases hb : bit v.toNat 31 with
      | false =>
        rw [Fin.val_zero, effLinkWrite_peer s.lk hv hb] at hx
        exact ⟨_, hx, rfl, rfl, rfl, nofun, nofun, nofun, nofun⟩
      | true =>
        obtain ⟨e, he, hc, hr1, hr2, hl⟩ := effLinkWrite_make_spec (v := v.toNat) s.lk i.isLt hv hb
        rw [Fin.val_zero, he] at hx
        exact ⟨_, hx, rfl, rfl, hc, nofun, nofun, fun _ _ _ => ⟨hr1, hr2, hl.trans (hset _)⟩, nofun⟩
    · rw [Fin.val_one, effLinkWrite_credits _ s.lk hv] at hx
      refine ⟨_, hx, rfl, rfl, rfl, nofun, fun _ _ => ⟨rfl, ?_, Dev.keepsRegs_setReg _ _ _ _ _ (by simp [o])⟩, nofun, nofun⟩
      rw [Dev.reg_setReg_self, W32.toNat_mod]

/-- Settles O41: what a write of a link entry does depends on VALID and the word; a queued CREDIT survives the sweep because
its link has a usable port; the beat advances by whole intervals; and a sound message is stored, kept or dropped by its
class, a GATHER in the lowest free slot. -/
theorem watenLinks : Obligations.WatenLinks := by
  unfold Obligations.WatenLinks
  refine ⟨linkWrites, fun s i hon hv hu hdue hn => ?_, fun s hon he => ?_, fun s hon ha hs hc he => ?_,
    fun s f rest u => ?_⟩
  · have hx := exec_onDev (s := s) (i := .credit i) (f := effCredit i.val) rfl (effCredit_eq hon hv hdue hn)
    obtain ⟨hq, hm⟩ := s.d.wtnQueue_spec { link := i.val, cls := 1 }
    exact ⟨_, hx, rfl, rfl, (congrArg Dev.cores hq :), (congrArg Dev.rg hq :), hm hu, Dev.wtnQueue_links ..⟩
  · have hx := exec_onDev (s := s) (i := .beacon) (f := effBeacon) rfl (effBeacon_eq hon he)
    obtain ⟨h1, h2, h3⟩ := Dev.beatNow_spec he
    exact ⟨_, hx, rfl, h1, h2, h3, List.prefix_append .., fun p => Dev.mem_beacons⟩
  · have hx := exec_onDev (s := s) (i := .addrHeld) (f := effAddrHeld) rfl rfl
    obtain ⟨h1, h2, h3, h4, h5⟩ := effAddrHeld_spec hon ha hs hc he
    exact ⟨_, hx, congrArg (fun d : Dev => { s with d := d }) h1, h2, h3, h4, h5⟩
  · intro e m cls sound x hf hu hok hon
    have hx := exec_onLk (s := s) (i := .messageReceive) (f := effMessageReceive) rfl
      (effMessageReceive_eq s.lk hf hu hok hon)
    have hs : Dev.wtnDiscards { s.d with wtn := { s.d.wtn with frames := rest } } m = false ↔ sound :=
      Dev.wtnDiscards_iff { s.d with wtn := { s.d.wtn with frames := rest } } m
    obtain ⟨hc, hr⟩ := Dev.wtnTake_keeps s.lk { s.d with wtn := { s.d.wtn with frames := rest } } x
    refine ⟨_, hx, rfl, rfl, hc, hr, fun h => ?_, fun h h4 => ?_, fun h hc hw => ?_, fun i k h hc hl hk hn hj => ?_⟩
    · have hd : Dev.wtnDiscards { s.d with wtn := { s.d.wtn with frames := rest } } m = true := by
        simpa using mt hs.1 h
      have ht := Dev.wtnTake_unsound (x := x) s.lk hd
      show (Dev.wtnTake s.lk _ x).wtn = _ ∧ (Dev.wtnTake s.lk _ x).reg .wtn 0 0x158 = _ ∧ s.d.keepsRegs (Dev.wtnTake s.lk _ x) _
      rw [ht]
      exact ⟨by simp, Dev.reg_bump_self .., (Dev.keepsRegs_of_rg rfl _).trans (Dev.keepsRegs_bump _ _ _ _ _ (by simp))⟩
    · exact congrArg (fun d : Dev => { s with d := d }) (Dev.wtnTake_unnamed (x := x) s.lk (hs.2 h) h4)
    · exact congrArg (fun d : Dev => { s with d := d })
        ((Dev.wtnTake_other (x := x) s.lk (hs.2 h) hc).trans (Dev.wtnLoose_room x hw))
    · have ht := Dev.wtnTake_gather (x := x) s.lk (hs.2 h) hc hl hk hn hj
      obtain ⟨-, -, h1, h2⟩ := Dev.wtnStored_spec s.lk { s.d with wtn := { s.d.wtn with frames := rest } } x (Dev.linkTo_lt hl)
        false k
      rw [← ht] at h1 h2
      exact ⟨h1, h2⟩

end

section
/-! SUPPORT. Frames at the Ethernet ports (O37). -/

namespace Sys2Proof.Machine

/-! ## What a count of a received frame leaves alone -/

theorem Dev.ecpriCheck_congr {d e : Dev} (ht : e.tbl = d.tbl) (hx : e.rxc = d.rxc)
    (ha : e.reg .rxc 0 0x110 = d.reg .rxc 0 0x110) (b : List Byte) (min : Bool) : e.ecpriCheck b min = d.ecpriCheck b min := by
  have hs (i : Nat) : e.activeStream false i = d.activeStream false i := by
    simp [Dev.activeStream, Dev.streamBank, Dev.streamAct, Dev.sw, ht, hx]
  have hr (i : Nat) : e.rxStream i = d.rxStream i := by simp only [Dev.rxStream, hs]
  have hc (i : Nat) : e.activeCell false i = d.activeCell false i := by
    simp only [Dev.activeCell, Dev.cellBank, Dev.activeBank, chainPage, Dev.flag, ht]
    rw [if_neg (by decide), ha]
  unfold Dev.ecpriCheck
  rw [hr]
  simp only [hc]

/-- A frame for the port was counted. -/
structure Dev.counted (d e : Dev) (n : Nat) : Prop where
  shape : d.regsOnly e
  count : e.reg .eth n 0x120 = satAdd (d.reg .eth n 0x120) 1
  regs : d.keepsRegs e [(.eth, n, 0x120)]
  near : n < 8

theorem Dev.counted_bump (d : Dev) {n : Nat} (hn : n < 8) : d.counted (d.bump .eth n 0x120 1) n :=
  ⟨d.bump_regsOnly .., d.reg_bump_self .., d.keepsRegs_bump _ _ _ _ (by simp), hn⟩

/-- A register of a page of its own outside the ports. -/
theorem Dev.counted.far {d e : Dev} {n : Nat} (h : d.counted e n) {p : Page} {o : Nat}
    (ho : p.base 0 + o < 0x10000 ∨ 0x18000 ≤ p.base 0 + o) : e.reg p 0 o = d.reg p 0 o :=
  h.regs _ _ _ (by have := h.near; simp [RegAt.addr, Page.base] at ho ⊢; omega)

theorem Dev.counted.eth {d e : Dev} {n : Nat} (h : d.counted e n) {m o : Nat} (ho : o < 0x1000) (hn : o ≠ 0x120) :
    e.reg .eth m o = d.reg .eth m o := h.regs _ _ _ (by simp [RegAt.addr]; omega)

theorem Dev.counted.ethMode {d e : Dev} {n : Nat} (h : d.counted e n) : e.ethMode = d.ethMode := by
  unfold Dev.ethMode Dev.fld
  rw [h.eth (by decide) (by decide)]

theorem Dev.counted.ecpriCheck {d e : Dev} {n : Nat} (h : d.counted e n) (b : List Byte) (min : Bool) :
    e.ecpriCheck b min = d.ecpriCheck b min := by
  have ht : e.tbl = d.tbl := (congrArg Dev.tbl h.shape :)
  have hx : e.rxc = d.rxc := (congrArg Dev.rxc h.shape :)
  exact Dev.ecpriCheck_congr ht hx (h.far (by decide)) b min

theorem Dev.counted.ingressRoom {d e : Dev} {n : Nat} (h : d.counted e n) (m : Nat) : e.ingressRoom m = d.ingressRoom m := by
  have hx : e.rxc = d.rxc := (congrArg Dev.rxc h.shape :)
  unfold Dev.ingressRoom
  rw [h.ethMode, hx]

theorem Dev.counted.stampIn {d e : Dev} {n : Nat} (h : d.counted e n) (m age : Nat) : e.stampIn m age = d.stampIn m age := by
  have ht : e.tim = d.tim := (congrArg Dev.tim h.shape :)
  have hr (o : Nat) (ho : o < 0x1000) : e.reg .tim 0 o = d.reg .tim 0 o :=
    h.far (by simp [Page.base]; omega)
  have hc : e.ethCorr = d.ethCorr := by
    unfold Dev.ethCorr Dev.fld
    rw [h.ethMode, h.eth (by decide) (by decide)]
  unfold Dev.stampIn Dev.incr Dev.corr Dev.fld Dev.flag
  rw [hc, ht, hr _ (by decide), hr _ (by decide), hr _ (by decide), h.eth (by decide) (by decide)]

/-! ## FRAME_RECEIVE (R445 to R449) -/

/-- Is the received frame of a right length and FCS (R445)? -/
def frameSound (bs : List Byte) : Prop :=
  64 ≤ bs.length ∧ bs.length ≤ 9216 ∧ leAt bs (bs.length - 4) 4 = crc32 (bs.take (bs.length - 4))

/-- Is the frame one for the port (R445)? -/
def Dev.frameMine (d : Dev) (n : Nat) (f : EthFrame) : Prop :=
  d.ethMine n f.dst = true ∧ ¬ (f.tci.isSome = true ∧ f.typ = 0x8100)

theorem frameSound_iff (bs : List Byte) : frameSound bs ↔ ¬((decide (bs.length < 64) || decide (9216 < bs.length) ||
    leAt bs (bs.length - 4) 4 != crc32 (bs.take (bs.length - 4))) = true) := by
  simp [frameSound, and_assoc]

theorem Dev.frameMine_iff (d : Dev) (n : Nat) (f : EthFrame) :
    d.frameMine n f ↔ ¬((!d.ethMine n f.dst || (f.tci.isSome && f.typ == 0x8100)) = true) := by
  simp [Dev.frameMine]

theorem effFrameReceive_bad {d : Dev} {n age : Nat} {bs : List Byte} (lk : Locked) (hl : d.linkOn n = true)
    (hs : ¬ frameSound bs) : effFrameReceive n age bs lk d = d.ethCount n 0x124 1 :=
  (if_neg (by rw [hl]; decide)).trans (if_pos (not_not.1 (mt (frameSound_iff bs).2 hs)))

theorem effFrameReceive_other {d : Dev} {n age : Nat} {bs : List Byte} (lk : Locked) (hl : d.linkOn n = true)
    (hs : frameSound bs) (hm : ¬ d.frameMine n (ethParse (bs.take (bs.length - 4)))) :
    effFrameReceive n age bs lk d = d.bump .eth n 0x130 1 :=
  (if_neg (by rw [hl]; decide)).trans ((if_neg ((frameSound_iff bs).1 hs)).trans
    (if_pos (not_not.1 (mt (d.frameMine_iff n _).2 hm))))

/-- An eCPRI message that passes its checks and fits the ingress buffer goes there whole (R447, R448). -/
theorem effFrameReceive_ecpri {d : Dev} {n age : Nat} {bs m : List Byte} (lk : Locked) (hn : n < 8) (hl : d.linkOn n = true)
    (hs : frameSound bs) (hm : d.frameMine n (ethParse (bs.take (bs.length - 4))))
    (ht : (ethParse (bs.take (bs.length - 4))).typ = 0xAEFE)
    (h5 : leAt (ethParse (bs.take (bs.length - 4))).body 1 1 ≠ 5)
    (hc : d.ecpriCheck (ethParse (bs.take (bs.length - 4))).body (bs.length == 64) = some m)
    (hf : d.flag .fhc 0 0x100 0 = true) (hr : m.length ≤ d.ingressRoom n) :
    effFrameReceive n age bs lk d = { d.bump .eth n 0x120 1 with rxc := { d.rxc with ingress := d.rxc.ingress ++
      [{ port := n, tick := d.tim.tick, ts := d.stampIn n age / 2 ^ 32, bytes := m }] } } := by
  have hk := d.counted_bump hn
  refine (if_neg (by rw [hl]; decide)).trans ((if_neg ((frameSound_iff bs).1 hs)).trans
    ((if_neg ((d.frameMine_iff n _).1 hm)).trans ((if_pos ht).trans ((if_neg h5).trans ?_))))
  dsimp only
  rw [hk.ecpriCheck, hc]
  have hf' : (d.bump .eth n 0x120 1).flag .fhc 0 0x100 0 = true := by
    rw [Dev.flag, hk.far (by decide), ← hf, Dev.flag]
  refine (if_neg (by rw [hf']; decide)).trans ((if_neg (by rw [hk.ingressRoom]; omega)).trans ?_)
  rw [hk.stampIn]
  simp

/-- What a received frame that the classifier does not take leaves alone. -/
structure Dev.frameKeeps (d e : Dev) (n : Nat) : Prop where
  cores : e.cores = d.cores
  out : e.out = d.out
  rxc : e.rxc = d.rxc
  count : e.reg .eth n 0x120 = d.reg .eth n 0x120

theorem Dev.frameKeeps.refl (d : Dev) (n : Nat) : d.frameKeeps d n := ⟨rfl, rfl, rfl, rfl⟩

theorem Dev.frameKeeps.trans {a b c : Dev} {n : Nat} (h : a.frameKeeps b n) (k : b.frameKeeps c n) : a.frameKeeps c n :=
  ⟨k.cores.trans h.cores, k.out.trans h.out, k.rxc.trans h.rxc, k.count.trans h.count⟩

theorem Dev.frameKeeps_bump (d : Dev) (n : Nat) {o : Nat} (ho : o ≠ 0x120) : d.frameKeeps (d.bump .eth n o 1) n :=
  ⟨by simp, by simp, by simp, Dev.reg_bump_ne _ _ (by omega)⟩

theorem Dev.frameKeeps_ethCount (d : Dev) (n : Nat) {o st : Nat} (ho : o ≠ 0x120) : d.frameKeeps (d.ethCount n o st) n := by
  unfold Dev.ethCount
  exact (d.frameKeeps_bump n ho).trans
    ⟨by simp, by simp, by simp, Dev.reg_sticky_ne _ _ (by simp) (by simp)⟩

theorem Req.eth_isBlock (n : Nat) : (Req.eth n).isBlock := ⟨rfl, by simp⟩

/-- Accesses of a block through the device map leave the registers of the ports alone. -/
theorem Dev.blkKeeps.reg_eth {d e : Dev} (h : d.blkKeeps e) {n o : Nat} (hn : n < 8) (ho : o < 0x1000) :
    e.reg .eth n o = d.reg .eth n o := by
  refine h.bus.regs _ _ _ fun hm => ?_
  have := busRegs_eth _ hm
  simp at this
  omega

theorem Dev.blkKeeps.frame {d e : Dev} (h : d.blkKeeps e) {n : Nat} (hn : n < 8) : d.frameKeeps e n :=
  ⟨h.cores, (congrArg Dev.out h.shape :), (congrArg Dev.rxc h.shape :), h.reg_eth hn (by decide)⟩

theorem Dev.frameKeeps_slowPath (lk : Locked) (d : Dev) {n : Nat} (hn : n < 8) (ts : Nat) (bs : List Byte) :
    d.frameKeeps (d.slowPath lk n ts bs) n := by
  unfold Dev.slowPath
  split
  · exact d.frameKeeps_bump n (by decide)
  · extract_lets wr a d1 d2
    split
    · exact d.frameKeeps_ethCount n (by decide)
    · have h1 : d.frameKeeps d1 n := (d.blkKeeps_busStore lk (Req.eth_isBlock n) ..).frame hn
      have h2 : d1.frameKeeps d2 n := (d1.blkKeeps_busStore lk (Req.eth_isBlock n) ..).frame hn
      exact (h1.trans h2).trans ⟨rfl, rfl, rfl, Dev.reg_setReg_off _ _ _ _ (by decide)⟩

/-- A frame for the port is counted, and then either goes to the ingress buffer, with the classifier on, or leaves the
receive chain alone. -/
theorem effFrameReceive_mine {d : Dev} {n age : Nat} {bs : List Byte} (lk : Locked) (hn : n < 8) (hl : d.linkOn n = true)
    (hs : frameSound bs) (hm : d.frameMine n (ethParse (bs.take (bs.length - 4)))) :
    (d.bump .eth n 0x120 1).frameKeeps (effFrameReceive n age bs lk d) n ∨
    (d.flag .fhc 0 0x100 0 = true ∧ ∃ x, effFrameReceive n age bs lk d = { d.bump .eth n 0x120 1 with rxc := x }) := by
  have hk := d.counted_bump hn
  obtain ⟨t, ht⟩ : ∃ t, t = effFrameReceive n age bs lk d := ⟨_, rfl⟩
  rw [← ht]
  unfold effFrameReceive at ht
  rw [if_neg (by rw [hl]; decide), if_neg ((frameSound_iff bs).1 hs), if_neg ((d.frameMine_iff n _).1 hm)] at ht
  have hf : (d.bump .eth n 0x120 1).flag .fhc 0 0x100 0 = d.flag .fhc 0 0x100 0 := by
    rw [Dev.flag, hk.far (by decide), Dev.flag]
  rw [← hf]
  generalize d.bump .eth n 0x120 1 = e at *
  have hslow (ts : Nat) (b : List Byte) := e.frameKeeps_slowPath lk hn ts b
  have hother : e.frameKeeps (e.bump .eth n 0x130 1) n := e.frameKeeps_bump n (by decide)
  dsimp only at ht
  split at ht
  · split at ht
    · exact .inl (ht ▸ hslow ..)
    · split at ht
      · exact .inl (ht ▸ e.frameKeeps_ethCount n (by decide))
      · split at ht
        · exact .inl (ht ▸ .refl ..)
        · next hon =>
          split at ht
          · exact .inl (ht ▸ e.frameKeeps_ethCount n (by decide))
          · exact .inr ⟨by simpa using hon, _, ht⟩
  left
  split at ht
  · exact ht ▸ hother
  · split at ht
    · exact ht ▸ hslow ..
    · split at ht
      · split at ht
        · exact ht ▸ .refl ..
        · exact ht ▸ ⟨rfl, rfl, rfl, rfl⟩
      · split at ht
        · exact ht ▸ hslow ..
        · exact ht ▸ hother

/-! ## FRAME_TRANSMIT and SLOW_PATH_TX (R452, R458, R459) -/

/-- The chosen frame of the chains goes out. -/
theorem effFrameTransmit_eq {d : Dev} {n i : Nat} {f : TxFrame} (hl : d.linkOn n = true) (hi : d.nextFrame n = some i)
    (hf : d.txc.frames[i]? = some f) : effFrameTransmit n d =
      (({ d with txc := { d.txc with frames := d.txc.frames.eraseIdx i } } : Dev).bump .eth n 0x134 1).emit
        (.frame n f.bytes (d.stampOut n)) := by
  unfold effFrameTransmit
  rw [if_pos hl]
  unfold Dev.arbiter
  rw [hi]
  dsimp only
  rw [hf]
  rfl

/-- Reads through the device map leave what makes the time-stamp of a sent frame alone. -/
theorem Dev.readKeeps.stampOut {d e : Dev} (h : d.readKeeps e) {n : Nat} (hn : n < 8) : e.stampOut n = d.stampOut n := by
  have ht : e.tim = d.tim := (congrArg Dev.tim h.shape :)
  have hc : e.ethCorr = d.ethCorr := by
    unfold Dev.ethCorr Dev.ethMode Dev.fld
    rw [h.reg_eth (by decide) (by decide)]
  unfold Dev.stampOut Dev.fld
  rw [hc, ht, h.reg_eth hn (by decide)]

/-- The device after a slot of the transmit ring was read and its frame sent. -/
def Dev.slotSent (d : Dev) (n : Nat) (bs : List Byte) (ts : Nat) : Dev :=
  (d.bump .eth n 0x134 1).emit (.frame n (bs ++ leBytes 4 (crc32 bs)) ts)

/-- SLOW_PATH_TX reads the descriptor `h` of the next slot, sends its frame where its length is in range, writes the
descriptor back and moves on. -/
theorem effSlowPathTx_shape {d : Dev} {n a : Nat} (lk : Locked) (hl : d.linkOn n = true) (he : d.flag .eth n 0x100 1 = true)
    (hr : d.reg .eth n 0x164 ≠ d.reg .eth n 0x160) (ha : d.arbiter n = none) (hw : d.lpWaits (d.spBase n) = false)
    (hd : a = d.spBase n + 0x80000 + d.reg .eth n 0x164 % 256 * 2048) (h b : List Byte × Bool × Dev)
    (hh : d.busBytes lk (.eth n) a 32 = h) (hb : h.2.2.busBytes lk (.eth n) (a + 32) (leAt h.1 0 2) = b) :
    ∃ e, effSlowPathTx n lk d = e.setReg .eth n 0x164 ((d.reg .eth n 0x164 + 1) % 2 ^ 32) ∧
      ((60 ≤ leAt h.1 0 2 ∧ leAt h.1 0 2 ≤ 2016) → (b.2.2.slotSent n b.1 (h.2.2.stampOut n)).blkKeeps e) ∧
      (¬ (60 ≤ leAt h.1 0 2 ∧ leAt h.1 0 2 ≤ 2016) → h.2.2.blkKeeps e) := by
  have hcond : ¬ ((!d.linkOn n || !d.flag .eth n 0x100 1 || decide (d.reg .eth n 0x164 = d.reg .eth n 0x160) ||
      (d.arbiter n).isSome || d.lpWaits (d.spBase n)) = true) := by
    simp [hl, he, hr, ha, hw]
  subst hd
  obtain ⟨t, ht⟩ : ∃ t, t = effSlowPathTx n lk d := ⟨_, rfl⟩
  rw [← ht]
  unfold effSlowPathTx at ht
  obtain ⟨B, hB⟩ : ∃ B, B = @Dev.busBytes lk := ⟨_, rfl⟩
  rw [← hB] at ht hh hb
  extract_lets +onlyGivenNames rd at ht
  replace ht := ht.trans (if_neg hcond)
  extract_lets +onlyGivenNames a at ht
  rw [hh] at ht
  obtain ⟨h, u, d1⟩ := h
  obtain ⟨b, v, d2⟩ := b
  dsimp only at hb ht ⊢
  rw [hb] at ht
  generalize leAt h 0 2 = len at *
  have hbad : (decide (len < 60) || decide (2016 < len)) = true ↔ ¬ (60 ≤ len ∧ len ≤ 2016) := by
    simp
    omega
  have hk (e : Dev) (bs : List Byte) : e.blkKeeps (e.busStore lk (.eth n) a bs) := e.blkKeeps_busStore lk (Req.eth_isBlock n) ..
  by_cases hin : 60 ≤ len ∧ len ≤ 2016
  · have hn := mt hbad.1 (not_not.2 hin)
    rw [if_neg hn, if_neg hn] at ht
    refine ⟨_, ht, fun _ => ?_, fun h' => absurd hin h'⟩
    split
    · exact hk ..
    · exact .refl _
  · have hn := hbad.2 hin
    rw [if_pos hn, if_pos hn] at ht
    exact ⟨_, ht, fun h' => absurd h' hin, fun _ => hk ..⟩

/-- What a read of the device map and the sending of a slow-path frame leave alone. -/
structure Dev.portKeeps (d e : Dev) (n : Nat) : Prop where
  cores : e.cores = d.cores
  out : e.out = d.out
  sent : e.reg .eth n 0x134 = d.reg .eth n 0x134

theorem Dev.blkKeeps.port {d e : Dev} (h : d.blkKeeps e) {n : Nat} (hn : n < 8) : d.portKeeps e n :=
  ⟨h.cores, (congrArg Dev.out h.shape :), h.reg_eth hn (by decide)⟩

theorem Dev.portKeeps.trans {a b c : Dev} {n : Nat} (h : a.portKeeps b n) (k : b.portKeeps c n) : a.portKeeps c n :=
  ⟨k.cores.trans h.cores, k.out.trans h.out, k.sent.trans h.sent⟩

theorem Dev.slotSent_spec {d e : Dev} {n : Nat} (h : d.portKeeps e n) (bs : List Byte) (ts : Nat) :
    (e.slotSent n bs ts).cores = d.cores ∧
    (e.slotSent n bs ts).out = d.out ++ [.frame n (bs ++ leBytes 4 (crc32 bs)) ts] ∧
    (e.slotSent n bs ts).reg .eth n 0x134 = satAdd (d.reg .eth n 0x134) 1 := by
  unfold Dev.slotSent
  refine ⟨by simpa using h.cores, by simp [Dev.emit, h.out], ?_⟩
  rw [← h.sent]
  exact Dev.reg_bump_self ..

/-- SLOW_PATH_TX moves on, and the frame of a length in range goes out with its FCS and time-stamp. -/
theorem effSlowPathTx_spec {d : Dev} {n : Nat} (lk : Locked) (hn : n < 8) (hl : d.linkOn n = true)
    (he : d.flag .eth n 0x100 1 = true) (hr : d.reg .eth n 0x164 ≠ d.reg .eth n 0x160) (ha : d.arbiter n = none)
    (hw : d.lpWaits (d.spBase n) = false) (h b : List Byte × Bool × Dev)
    (hh : d.busBytes lk (.eth n) (d.spBase n + 0x80000 + d.reg .eth n 0x164 % 256 * 2048) 32 = h)
    (hb : h.2.2.busBytes lk (.eth n) (d.spBase n + 0x80000 + d.reg .eth n 0x164 % 256 * 2048 + 32) (leAt h.1 0 2) = b) :
    ∃ t, effSlowPathTx n lk d = t ∧ t.cores = d.cores ∧ t.reg .eth n 0x164 = (d.reg .eth n 0x164 + 1) % 2 ^ 32 ∧
      (60 ≤ leAt h.1 0 2 ∧ leAt h.1 0 2 ≤ 2016 →
        t.out = d.out ++ [.frame n (b.1 ++ leBytes 4 (crc32 b.1)) (d.stampOut n)] ∧
        t.reg .eth n 0x134 = satAdd (d.reg .eth n 0x134) 1) ∧
      (¬ (60 ≤ leAt h.1 0 2 ∧ leAt h.1 0 2 ≤ 2016) → t.out = d.out ∧ t.reg .eth n 0x134 = d.reg .eth n 0x134) := by
  obtain ⟨e, heq, hgood, hbad⟩ := effSlowPathTx_shape lk hl he hr ha hw rfl h b hh hb
  have hrd := d.readKeeps_busBytes lk (.eth n) (d.spBase n + 0x80000 + d.reg .eth n 0x164 % 256 * 2048) 32 false
  rw [hh] at hrd
  have hrb := h.2.2.readKeeps_busBytes lk (.eth n) (d.spBase n + 0x80000 + d.reg .eth n 0x164 % 256 * 2048 + 32)
    (leAt h.1 0 2) false
  rw [hb] at hrb
  have hread : (e.setReg .eth n 0x164 ((d.reg .eth n 0x164 + 1) % 2 ^ 32)).reg .eth n 0x164 =
      (d.reg .eth n 0x164 + 1) % 2 ^ 32 := by
    rw [Dev.reg_setReg_self]
    exact Nat.mod_eq_of_lt (Nat.mod_lt _ (by decide))
  have hcount : (e.setReg .eth n 0x164 ((d.reg .eth n 0x164 + 1) % 2 ^ 32)).reg .eth n 0x134 = e.reg .eth n 0x134 :=
    Dev.reg_setReg_off _ _ _ _ (by decide)
  obtain ⟨s1, s2, s3⟩ := Dev.slotSent_spec ((hrd.blk.port hn).trans (hrb.blk.port hn)) b.1 (d.stampOut n)
  rw [hrd.stampOut hn] at hgood
  by_cases hin : 60 ≤ leAt h.1 0 2 ∧ leAt h.1 0 2 ≤ 2016
  · have hk := (hgood hin).port hn
    exact ⟨_, heq, hk.cores.trans s1, hread, fun _ => ⟨hk.out.trans s2, hcount.trans (hk.sent.trans s3)⟩,
      fun h' => absurd hin h'⟩
  · have hk := (hrd.blk.port hn).trans ((hbad hin).port hn)
    exact ⟨_, heq, hk.cores, hread, fun h' => absurd h' hin, fun _ => ⟨hk.out, hcount.trans hk.sent⟩⟩

end Sys2Proof.Machine

/-! ## The obligation -/

open Sys2Proof Sys2Proof.Machine

/-- FRAME_RECEIVE (R314, R445 to R449). -/
theorem frameReceives (s : State) (n : Fin 8) (age : Nat) (bs : List Byte) (hl : s.d.linkOn n = true) :
    let fr := bs.take (bs.length - 4)
    let f := ethParse fr
    let sound := 64 ≤ bs.length ∧ bs.length ≤ 9216 ∧ leAt bs (bs.length - 4) 4 = crc32 fr
    let mine := s.d.ethMine n f.dst = true ∧ ¬ (f.tci.isSome = true ∧ f.typ = 0x8100)
    ∃ t, exec (.frameReceive n age bs) s = .next t ∧ t.pending = s.pending ∧ t.lk = s.lk ∧ t.d.cores = s.d.cores ∧
      t.d.out = s.d.out ∧
      (¬ sound → t = { s with d := { s.d with rg := t.d.rg } } ∧ t.d.reg .eth n 0x124 = satAdd (s.d.reg .eth n 0x124) 1 ∧
        t.d.flag .eth n 0x13C 1 = true ∧
        s.d.keepsRegs t.d [(.eth, n.val, 0x124), (.eth, n.val, 0x13C), (.eth, n.val, 0x020)]) ∧
      (sound → ¬ mine → t = { s with d := { s.d with rg := t.d.rg } } ∧
        t.d.reg .eth n 0x130 = satAdd (s.d.reg .eth n 0x130) 1 ∧ s.d.keepsRegs t.d [(.eth, n.val, 0x130)]) ∧
      (sound → mine → t.d.reg .eth n 0x120 = satAdd (s.d.reg .eth n 0x120) 1) ∧
      (∀ m, sound → mine → f.typ = 0xAEFE → leAt f.body 1 1 ≠ 5 → s.d.ecpriCheck f.body (bs.length == 64) = some m →
        s.d.flag .fhc 0 0x100 0 = true → m.length ≤ s.d.ingressRoom n →
        t = { s with d := { s.d with rg := t.d.rg, rxc := t.d.rxc } } ∧ s.d.keepsRegs t.d [(.eth, n.val, 0x120)] ∧
        t.d.rxc = { s.d.rxc with ingress := s.d.rxc.ingress ++
          [{ port := n, tick := s.d.tim.tick, ts := s.d.stampIn n age / 2 ^ 32, bytes := m }] }) ∧
      (s.d.flag .fhc 0 0x100 0 = false → t.d.rxc = s.d.rxc) := by
  intro fr f sound mine
  by_cases hs : frameSound bs
  · by_cases hm : s.d.frameMine n f
    · have hx := exec_onLk (s := s) (i := .frameReceive n age bs) (f := effFrameReceive n.val age bs) rfl rfl
      have hk := s.d.counted_bump n.isLt
      have hb : (s.d.bump .eth n 0x120 1).cores = s.d.cores ∧ (s.d.bump .eth n 0x120 1).out = s.d.out ∧
        (s.d.bump .eth n 0x120 1).rxc = s.d.rxc := by simp
      have hmine := effFrameReceive_mine (age := age) s.lk n.isLt hl hs hm
      have hacc (m : List Byte) (ht h5 hc hf hr) := effFrameReceive_ecpri (age := age) (m := m) s.lk n.isLt hl hs hm ht h5 hc hf hr
      generalize s.d.bump .eth n.val 0x120 1 = c at *
      generalize effFrameReceive n.val age bs s.lk s.d = e at *
      obtain ⟨hb1, hb2, hb3⟩ := hb
      have hall : e.cores = s.d.cores ∧ e.out = s.d.out ∧ e.reg .eth n 0x120 = satAdd (s.d.reg .eth n 0x120) 1 ∧
          (s.d.flag .fhc 0 0x100 0 = false → e.rxc = s.d.rxc) := by
        obtain h | ⟨hon, y, rfl⟩ := hmine
        · exact ⟨h.cores.trans hb1, h.out.trans hb2, h.count.trans hk.count, fun _ => h.rxc.trans hb3⟩
        · exact ⟨hb1, hb2, hk.count, fun h => absurd (h.symm.trans hon) (by decide)⟩
      obtain ⟨h1, h2, h3, h4⟩ := hall
      refine ⟨_, hx, rfl, rfl, h1, h2, fun h => absurd hs h, fun _ h => absurd hm h, fun _ _ => h3, ?_, h4⟩
      intro m _ _ ht h5 hc hf hr
      obtain rfl := hacc m ht h5 hc hf hr
      refine ⟨congrArg (fun d : Dev => { s with d := d }) ?_, hk.regs.rg_right rfl, rfl⟩
      obtain ⟨g, hg⟩ : ∃ g, c = { s.d with rg := g } := ⟨_, hk.shape⟩
      rw [hg]
    · have hx := exec_onLk (s := s) (i := .frameReceive n age bs) (f := effFrameReceive n.val age bs) rfl
        (effFrameReceive_other s.lk hl hs hm)
      exact ⟨_, hx, rfl, rfl, by simp, by simp, fun h => absurd hs h,
        fun _ _ => ⟨congrArg (fun d : Dev => { s with d := d }) (Dev.bump_regs ..), Dev.reg_bump_self ..,
          Dev.keepsRegs_bump _ _ _ _ _ (by simp)⟩,
        fun _ h => absurd h hm, fun _ _ h => absurd h hm, fun _ => by simp⟩
  · have hx := exec_onLk (s := s) (i := .frameReceive n age bs) (f := effFrameReceive n.val age bs) rfl
      (effFrameReceive_bad s.lk hl hs)
    unfold Dev.ethCount at hx
    have hr : s.d.regsOnly ((s.d.bump .eth n 0x124 1).sticky .eth n 1) := (Dev.bump_regsOnly ..).trans (Dev.sticky_regsOnly ..)
    refine ⟨_, hx, rfl, rfl, by simp, by simp, fun _ => ⟨congrArg (fun d : Dev => { s with d := d }) hr, ?_, ?_, ?_⟩,
      fun h => absurd h hs, fun h => absurd h hs, fun _ h => absurd h hs, fun _ => by simp⟩
    · show ((s.d.bump .eth n 0x124 1).sticky .eth n 1).reg .eth n 0x124 = _
      rw [Dev.reg_sticky_ne _ _ (by simp) (by simp), Dev.reg_bump_self]
    · show ((s.d.bump .eth n 0x124 1).sticky .eth n 1).flag .eth n 0x13C 1 = true
      exact (Dev.flag_sticky_self _ .eth n (by decide) 1).trans (by simp)
    · exact (Dev.keepsRegs_bump _ _ _ _ _ (by simp)).trans (Dev.keepsRegs_sticky _ _ _ _ (by simp) (by simp))

/-- Settles O37: a received frame is an error, for another address, or counted and delivered, and only an eCPRI message
with the classifier on changes the receive chain; a sent frame takes its time-stamp, which reads through the device map do
not change. -/
theorem ethFrames : Obligations.EthFrames := by
  unfold Obligations.EthFrames
  refine ⟨frameReceives, fun s n i f hl hi hf => ?_, ?_⟩
  · have hx := exec_onDev (s := s) (i := .frameTransmit n) (f := effFrameTransmit n.val) rfl (effFrameTransmit_eq hl hi hf)
    refine ⟨_, hx, ?_, ?_, ?_⟩
    · have hb := Dev.bump_regs { s.d with txc := { s.d.txc with frames := s.d.txc.frames.eraseIdx i } } .eth n 0x134 1
      show ({ s with d := Dev.emit (Dev.bump _ _ _ _ _) _ } : State) = _
      rw [hb]
      rfl
    · exact Dev.reg_bump_self ..
    · exact (Dev.keepsRegs_of_rg rfl _).trans (Dev.keepsRegs_bump _ _ _ _ _ (by simp))
  · intro s n rd a h len b hl he hr ha hw
    obtain ⟨t, ht, hspec⟩ := effSlowPathTx_spec s.lk n.isLt hl he hr ha hw h b rfl rfl
    exact ⟨_, exec_onLk (s := s) (i := .slowPathTx n) (f := effSlowPathTx n.val) rfl ht, rfl, rfl, hspec⟩

end

section
/-! SUPPORT. What the receive chain leaves alone at an admission point (O40). -/

namespace Sys2Proof.Machine

/-! ## What an admission point leaves alone -/

/-- What the work of an admission point leaves alone: the time, the determinism unit with its mode and its counts, and
what waits in the crossing buffers for a later point; the signatures too where recording is off (R510, R511, R513). -/
structure Dev.admKeeps (d e : Dev) : Prop where
  tim : e.tim = d.tim
  det : e.det = d.det
  fetched : e.pci.fetched = d.pci.fetched
  wait : e.wtn.wait = d.wtn.wait
  ingress : e.rxc.ingress = d.rxc.ingress
  mode : e.reg .det 0 0x100 = d.reg .det 0 0x100
  points : e.reg .det 0 0x110 = d.reg .det 0 0x110
  sigs : d.flag .det 0 0x100 1 = false →
    e.reg .det 0 0x118 = d.reg .det 0 0x118 ∧ e.reg .det 0 0x11C = d.reg .det 0 0x11C

theorem Dev.admKeeps.refl (d : Dev) : d.admKeeps d := ⟨rfl, rfl, rfl, rfl, rfl, rfl, rfl, fun _ => ⟨rfl, rfl⟩⟩

theorem Dev.admKeeps.trans {a b c : Dev} (h : a.admKeeps b) (k : b.admKeeps c) : a.admKeeps c := by
  refine ⟨k.tim.trans h.tim, k.det.trans h.det, k.fetched.trans h.fetched, k.wait.trans h.wait, k.ingress.trans h.ingress,
    k.mode.trans h.mode, k.points.trans h.points, fun hf => ?_⟩
  obtain ⟨h1, h2⟩ := h.sigs hf
  obtain ⟨k1, k2⟩ := k.sigs (by rw [Dev.flag, h.mode, ← hf, Dev.flag])
  exact ⟨k1.trans h1, k2.trans h2⟩

/-- Nothing of the registers of the determinism unit changes. -/
theorem Dev.admKeeps_of {d e : Dev} (htim : e.tim = d.tim) (hdet : e.det = d.det) (hf : e.pci.fetched = d.pci.fetched)
    (hw : e.wtn.wait = d.wtn.wait) (hi : e.rxc.ingress = d.rxc.ingress)
    (hr : ∀ o, 0x100 ≤ o → o < 0x120 → e.reg .det 0 o = d.reg .det 0 o) : d.admKeeps e :=
  ⟨htim, hdet, hf, hw, hi, hr _ (by decide) (by decide), hr _ (by decide) (by decide),
    fun _ => ⟨hr _ (by decide) (by decide), hr _ (by decide) (by decide)⟩⟩

/-- Nothing of the registers changes. -/
theorem Dev.admKeeps_same {d e : Dev} (hrg : e.rg = d.rg) (htim : e.tim = d.tim) (hdet : e.det = d.det)
    (hf : e.pci.fetched = d.pci.fetched) (hw : e.wtn.wait = d.wtn.wait) (hi : e.rxc.ingress = d.rxc.ingress) : d.admKeeps e :=
  Dev.admKeeps_of htim hdet hf hw hi fun _ _ _ => Dev.reg_congr hrg _ _ _

theorem Dev.admKeeps_of_regs {d e : Dev} (h : d.regsOnly e)
    (hr : ∀ o, 0x100 ≤ o → o < 0x120 → e.reg .det 0 o = d.reg .det 0 o) : d.admKeeps e :=
  Dev.admKeeps_of (congrArg Dev.tim h :) (congrArg Dev.det h :) (congrArg (fun d : Dev => d.pci.fetched) h :)
    (congrArg (fun d : Dev => d.wtn.wait) h :) (congrArg (fun d : Dev => d.rxc.ingress) h :) hr

/-- An address outside the registers of the determinism unit. -/
abbrev offDet (a : Nat) : Prop := a < 0x8100 ∨ 0x8120 ≤ a

theorem Dev.admKeeps_setReg (d : Dev) {p : Page} {n o : Nat} (v : Nat) (h : offDet (p.base n + o)) : d.admKeeps (d.setReg p n o v) :=
  Dev.admKeeps_of_regs (d.setReg_regsOnly ..) fun i h1 h2 => Dev.reg_setReg_ne _ _ (by simp [offDet] at h ⊢; omega)

/-- The registers that have changed are none of the determinism unit. -/
theorem Dev.admKeeps_of_list {d e : Dev} (h : d.regsOnly e) {l : List RegAt} (hk : d.keepsRegs e l)
    (hl : ∀ a ∈ l.map RegAt.addr, offDet a) : d.admKeeps e :=
  Dev.admKeeps_of_regs h fun o h1 h2 => hk _ _ _ fun hm => by
    have := hl _ hm
    simp [offDet] at this
    omega

theorem Dev.admKeeps_setFld (d : Dev) {p : Page} {n o : Nat} (hi lo v : Nat) (h : offDet (p.base n + o)) :
    d.admKeeps (d.setFld p n o hi lo v) := d.admKeeps_setReg _ h

theorem Dev.admKeeps_bump (d : Dev) {p : Page} {n o : Nat} (k : Nat) (h : offDet (p.base n + o)) : d.admKeeps (d.bump p n o k) :=
  Dev.admKeeps_of_list (d.bump_regsOnly ..) (d.keepsRegs_bump p n o k (l := [(p, n, o)]) (by simp)) (by simpa [RegAt.addr] using h)

theorem Dev.admKeeps_sticky (d : Dev) {p : Page} {n : Nat} (b : Nat) (h : offDet (p.base n + p.sticky.1))
    (h' : offDet (p.base n + 0x020)) : d.admKeeps (d.sticky p n b) :=
  Dev.admKeeps_of_list (d.sticky_regsOnly ..)
    (d.keepsRegs_sticky p n b (l := [(p, n, p.sticky.1), (p, n, 0x020)]) (by simp) (by simp))
    (by simpa [RegAt.addr] using ⟨h, h'⟩)

theorem Dev.admKeeps_err (d : Dev) {p : Page} {n : Nat} (c o : Nat) (h : offDet (p.base n + 0x028))
    (h' : offDet (p.base n + 0x02C)) : d.admKeeps (d.err p n c o) :=
  Dev.admKeeps_of_list (d.err_regsOnly ..) (d.keepsRegs_err p n c o (l := [(p, n, 0x028), (p, n, 0x02C)]) (by simp) (by simp))
    (by simpa [RegAt.addr] using ⟨h, h'⟩)

theorem evtRegs_offDet : ∀ a ∈ evtRegs.map RegAt.addr, offDet a := by decide +kernel

theorem busRegs_offDet : ∀ a ∈ busRegs.map RegAt.addr, offDet a := by decide +kernel

theorem Dev.keepsPci.fetched {d e : Dev} (h : d.keepsPci e) : e.pci.fetched = d.pci.fetched := by
  obtain ⟨h, -⟩ := h
  rw [h]

theorem Dev.admKeeps_post (d : Dev) (p : Page) (n src sub inst : Nat) (bs : List Byte) :
    d.admKeeps (d.post p n src sub inst bs) := by
  refine Dev.admKeeps_of (by simp) (by simp) (d.keepsPci_post ..).fetched (by simp) (by simp) fun o h1 h2 => ?_
  refine d.keepsRegs_post _ _ _ _ _ _ (List.Subset.refl _) _ _ _ fun hm => ?_
  have := evtRegs_offDet _ hm
  simp [offDet] at this
  omega

theorem Dev.busKeeps.adm {d e : Dev} (h : d.busKeeps e) : d.admKeeps e := by
  have hs := h.shape
  refine Dev.admKeeps_of (congrArg Dev.tim hs :) (congrArg Dev.det hs :) h.pci.fetched (by rw [h.wtn])
    (congrArg (fun d : Dev => d.rxc.ingress) hs :) fun o h1 h2 => h.regs _ _ _ fun hm => ?_
  have := busRegs_offDet _ hm
  simp [offDet] at this
  omega

/-- What a read through the device map returns and leaves. -/
theorem Dev.admKeeps_of_busBytes {lk : Locked} {d e : Dev} {q : Req} {a n : Nat} {bs : List Byte} {p : Bool}
    (h : d.busBytes lk q a n = (bs, p, e)) : d.admKeeps e := by
  have hk := d.readKeeps_busBytes lk q a n false
  rw [h] at hk
  exact hk.bus.adm

theorem Dev.admKeeps_busWrite (lk : Locked) (d : Dev) (q : Req) (part a : Nat) (bs : List Byte) (ps : List Bool)
    (direct : Bool := false) : d.admKeeps (d.busWrite lk q part a bs ps direct).2 := (d.busKeeps_busWrite lk q ..).adm

theorem Dev.admKeeps_busStore (lk : Locked) (d : Dev) (q : Req) (a : Nat) (bs : List Byte) (p : Bool := false)
    (direct : Bool := false) : d.admKeeps (d.busStore lk q a bs p direct) := (d.busKeeps_busWrite lk q ..).adm

theorem Dev.admKeeps_foldl {α : Type} (f : Dev → α → Dev) (hf : ∀ d x, Dev.admKeeps d (f d x)) (l : List α) (d : Dev) :
    d.admKeeps (l.foldl f d) :=
  List.foldlRecOn (motive := fun e : Dev => d.admKeeps e) _ _ (.refl d) fun _ h x _ => h.trans (hf _ x)

theorem Dev.admKeeps_foldl_snd {α β : Type} (f : α × Dev → β → α × Dev) (hf : ∀ a x, Dev.admKeeps a.2 (f a x).2) (l : List β)
    (x : α) (d : Dev) : d.admKeeps (l.foldl f (x, d)).2 :=
  List.foldlRecOn (motive := fun e : α × Dev => d.admKeeps e.2) _ _ (.refl d) fun _ h x _ => h.trans (hf _ x)

theorem Dev.admKeeps_num (d : Dev) (e : NumEv) : d.admKeeps (d.num .rxc 0 e) :=
  Dev.admKeeps_of_list (d.num_regsOnly ..) (d.keepsRegs_num _ _ _) (by decide)

theorem Dev.admKeeps_errFree (d : Dev) {p : Page} {n : Nat} (code : Nat) (h : offDet (p.base n + 0x028))
    (h' : offDet (p.base n + 0x02C)) : d.admKeeps (d.errFree p n code) :=
  Dev.admKeeps.trans (b := d.draw.2) (Dev.admKeeps_same rfl rfl rfl rfl rfl rfl) (Dev.admKeeps_err _ _ _ h h')

/-- A choice between two courses. -/
theorem Dev.admKeeps_ite {d a b : Dev} {c : Prop} [Decidable c] (ha : d.admKeeps a) (hb : d.admKeeps b) :
    d.admKeeps (if c then a else b) := by
  split
  · exact ha
  · exact hb

/-- A count with its sticky bit. -/
theorem Dev.admKeeps_count (d : Dev) {p : Page} {o : Nat} (k b : Nat) (h : offDet (p.base 0 + o))
    (h1 : offDet (p.base 0 + p.sticky.1)) (h2 : offDet (p.base 0 + 0x020)) : d.admKeeps ((d.bump p 0 o k).sticky p 0 b) :=
  (d.admKeeps_bump k h).trans (Dev.admKeeps_sticky _ _ h1 h2)

/-! ## The classifier (R285 to R290) -/

theorem Dev.admKeeps_setRxSlot (d : Dev) (x : RxSlot) : d.admKeeps (d.setRxSlot x) :=
  Dev.admKeeps_same rfl rfl rfl rfl rfl rfl

theorem Dev.admKeeps_dropRxSlot (d : Dev) (c s : Nat) : d.admKeeps (d.dropRxSlot c s) :=
  Dev.admKeeps_ite (Dev.admKeeps_same rfl rfl rfl rfl rfl rfl) (.refl d)

theorem Dev.admKeeps_statusLine (lk : Locked) (d : Dev) (e : List Byte) (s : Nat) (f : Nat → Nat) :
    d.admKeeps (d.statusLine lk e s f) := by
  unfold Dev.statusLine
  extract_lets b
  split
  next ln p d1 h => exact (Dev.admKeeps_of_busBytes h).trans (Dev.admKeeps_busStore ..)

theorem Dev.admKeeps_openSlot (lk : Locked) (d : Dev) (c s : Nat) : d.admKeeps (d.openSlot lk c s) := by
  unfold Dev.openSlot
  extract_lets x e b d1
  split
  · exact .refl d
  · split
    next ln p d2 h =>
      exact ((d.admKeeps_setRxSlot _).trans (Dev.admKeeps_of_busBytes h)).trans (Dev.admKeeps_busStore ..)

theorem Dev.admKeeps_fhcFmt (d : Dev) : d.admKeeps d.fhcFmt := d.admKeeps_count _ _ (by decide) (by decide) (by decide)

theorem Dev.admKeeps_section (lk : Locked) (d : Dev) (c s n : Nat) (se : List Byte) (start num : Nat) (blocks : List Byte)
    (bad : List Bool) : d.admKeeps (d.section lk c s n se start num blocks bad) := by
  have ho := d.admKeeps_openSlot lk c s
  unfold Dev.section
  extract_lets +onlyGivenNames e m nprb num' row prach
  split
  · exact d.admKeeps_fhcFmt
  · generalize d.openSlot lk c s = d1 at *
    extract_lets x mask key x1 x2 addr
    refine Dev.admKeeps_ite (ho.trans (d1.admKeeps_count _ _ (by decide) (by decide) (by decide))) ?_
    split
    exact (ho.trans (Dev.admKeeps_setRxSlot ..)).trans (Dev.admKeeps_num ..)

theorem Dev.admKeeps_sections (lk : Locked) (c s n : Nat) (se bs : List Byte) (bad : List Nat) (f o : Nat) (d : Dev) :
    d.admKeeps (Dev.sections lk c s n se bs bad f o d) := by
  induction f generalizing o d with
  | zero => exact .refl d
  | succ f ih =>
    unfold Dev.sections
    split
    · exact .refl d
    · extract_lets h start num m hdr comp o' nprb cnt w len d1
      split
      · exact d.admKeeps_fhcFmt
      · have h1 : d.admKeeps d1 := Dev.admKeeps_ite d.admKeeps_fhcFmt (d.admKeeps_section ..)
        exact h1.trans (ih ..)

theorem Dev.admKeeps_classify (lk : Locked) (d : Dev) (fr : Ingress) : d.admKeeps (d.classify lk fr) := by
  have h0 : d.admKeeps (if fr.bad.isEmpty then d else d.errFree .fhc 0 errEcc) :=
    Dev.admKeeps_ite (.refl d) (d.admKeeps_errFree _ (by decide) (by decide))
  unfold Dev.classify
  generalize (if fr.bad.isEmpty then d else d.errFree .fhc 0 errEcc) = e at *
  dsimp only
  refine h0.trans ?_
  have hun : e.admKeeps ((e.bump .fhc 0 0x110 1).sticky .fhc 0 2) := e.admKeeps_count _ _ (by decide) (by decide) (by decide)
  refine Dev.admKeeps_ite (.refl e) (Dev.admKeeps_ite (e.admKeeps_bump _ (by decide)) (Dev.admKeeps_ite (.refl e) ?_))
  split
  · exact hun
  · refine Dev.admKeeps_ite e.admKeeps_fhcFmt (Dev.admKeeps_ite hun
      (Dev.admKeeps_ite (e.admKeeps_count _ _ (by decide) (by decide) (by decide)) (Dev.admKeeps_ite ?_
        (Dev.admKeeps_ite (Dev.admKeeps_sections ..) (.refl e)))))
    have hl := e.admKeeps_count (p := .fhc) (o := 0x108) 1 0 (by decide) (by decide) (by decide)
    exact Dev.admKeeps_ite hl (hl.trans (Dev.admKeeps_setReg _ _ (by decide)))

/-! ## The supervisor (R371 to R390) -/

theorem Dev.admKeeps_writeDec (lk : Locked) (d : Dev) (c s : Nat) (e : DecEntry) : d.admKeeps (d.writeDec lk c s e) := by
  have h0 : d.admKeeps (if d.decHolds c s then d.busStore lk .rsv (d.decAddr c s e.grant) e.bytes else d) :=
    Dev.admKeeps_ite (d.admKeeps_busStore ..) (.refl d)
  have hcount (b : Dev) : b.admKeeps (b.countFinal e.path) := by
    unfold Dev.countFinal
    refine b.admKeeps_bump _ (.inr ?_)
    simp only [Page.base]
    omega
  exact Dev.admKeeps_ite (h0.trans (hcount _)) h0

theorem Dev.admKeeps_finalise (lk : Locked) (d : Dev) (c s : Nat) (e : DecEntry) (path reason alpha conf : Nat) :
    d.admKeeps (d.finalise lk c s e path reason alpha conf) := by
  have hset (x : DecEntry) : d.admKeeps (d.setDec c s x) := Dev.admKeeps_same rfl rfl rfl rfl rfl rfl
  unfold Dev.finalise
  exact (hset _).trans (Dev.admKeeps_writeDec ..)

theorem Dev.admKeeps_submitTemplate (lk : Locked) (d : Dev) (q : Req) (src a cell slot ref : Nat) :
    d.admKeeps (d.submitTemplate lk q src a cell slot ref) := by
  unfold Dev.submitTemplate
  refine Dev.admKeeps_ite (.refl d) ?_
  split
  next ds p e h => exact (Dev.admKeeps_of_busBytes h).trans (Dev.admKeeps_same rfl rfl rfl rfl rfl rfl)

/-- A count, a sticky bit and an event of the supervisor. -/
theorem Dev.admKeeps_rsvNote (d : Dev) {o : Nat} (k b sub inst n : Nat) (bs : List Byte) :
    d.admKeeps (((d.bump .rsv 0 o k).sticky .rsv 0 b).post .rsv n 0x06 sub inst bs) :=
  (d.admKeeps_count _ _ (.inr (by simp [Page.base]; omega)) (by decide) (by decide)).trans (Dev.admKeeps_post ..)

theorem Dev.admKeeps_jobNotice (lk : Locked) (d : Dev) (n : Nat × Nat × Bool) : d.admKeeps (d.jobNotice lk n) := by
  unfold Dev.jobNotice
  extract_lets c member fb
  split
  · exact Dev.admKeeps_ite (.refl d) (Dev.admKeeps_rsvNote ..)
  next p hp =>
    extract_lets e es d1 es' d2 d3
    have h1 : d.admKeeps d1 := Dev.admKeeps_foldl _ (fun d x => d.admKeeps_finalise ..) es d
    have h2 : d.admKeeps d2 := Dev.admKeeps_foldl _ (fun d x => d.admKeeps_finalise ..) es' d
    have h3 : d2.admKeeps d3 := Dev.admKeeps_ite (.refl d2) (Dev.admKeeps_submitTemplate ..)
    exact Dev.admKeeps_ite (Dev.admKeeps_ite h1 (h1.trans (Dev.admKeeps_rsvNote ..)))
      ((h2.trans h3).trans (Dev.admKeeps_rsvNote ..))

theorem Dev.admKeeps_takeNotices (lk : Locked) (d : Dev) : d.admKeeps (d.takeNotices lk) :=
  Dev.admKeeps.trans (b := { d with sch := { d.sch with notices := [] } }) (Dev.admKeeps_same rfl rfl rfl rfl rfl rfl)
    (Dev.admKeeps_foldl _ (fun d n => d.admKeeps_jobNotice lk n) _ _)

theorem Dev.admKeeps_stateEntry (lk : Locked) (d : Dev) (h : Nat) : d.admKeeps (d.stateEntry lk h).2 := by
  unfold Dev.stateEntry
  split
  next bs p e he => exact Dev.admKeeps_of_busBytes he

theorem Dev.admKeeps_histValid (lk : Locked) (d : Dev) (h : Nat) : d.admKeeps (d.histValid lk h).2 := by
  unfold Dev.histValid
  split
  next bs p e he => exact Dev.admKeeps_of_busBytes he

theorem Dev.admKeeps_rsvCommand (lk : Locked) (d : Dev) : d.admKeeps (d.rsvCommand lk) := by
  unfold Dev.rsvCommand
  split
  · exact .refl d
  · extract_lets r d1 d2
    have h1 : d.admKeeps d1 := Dev.admKeeps_same rfl rfl rfl rfl rfl rfl
    have h2 : d1.admKeeps d2 := Dev.admKeeps_ite (Dev.admKeeps_busStore ..)
      ((Dev.admKeeps_busStore ..).trans (Dev.admKeeps_busStore ..))
    exact (h1.trans h2).trans (Dev.admKeeps_setReg _ _ (by decide))

theorem Dev.admKeeps_applyOutcome (lk : Locked) (d : Dev) (o : Outcome) : d.admKeeps (d.applyOutcome lk o) := by
  have h0 := d.admKeeps_stateEntry lk o.hist
  unfold Dev.applyOutcome
  split
  next ofs policy al nout nfail e h =>
    rw [h] at h0
    extract_lets up dn rec' mx put
    have hput (b : Dev) (x : Int) (m n : Nat) : b.admKeeps (put b x m n) :=
      (Dev.admKeeps_busStore ..).trans (Dev.admKeeps_busStore ..)
    refine h0.trans (Dev.admKeeps_ite (.refl e) (Dev.admKeeps_ite (Dev.admKeeps_ite (hput ..)
      (Dev.admKeeps_ite (hput ..) (.refl e))) (Dev.admKeeps_ite (hput ..) (.refl e))))

theorem Dev.admKeeps_applyLag (lk : Locked) (d : Dev) (c s : Nat) : d.admKeeps (d.applyLag lk c s) := by
  unfold Dev.applyLag
  extract_lets lag
  split
  · exact .refl d
  next p hp =>
    extract_lets d1 d2 missed
    have h1 : d.admKeeps d1 := Dev.admKeeps_same rfl rfl rfl rfl rfl rfl
    have h2 : d1.admKeeps d2 := Dev.admKeeps_foldl _ (fun d o => d.admKeeps_applyOutcome lk o) _ _
    exact Dev.admKeeps_ite (.refl d) (Dev.admKeeps_ite (h1.trans h2) ((h1.trans h2).trans (Dev.admKeeps_rsvNote ..)))

theorem Dev.admKeeps_projectionFails (lk : Locked) (d : Dev) (c s : Nat) (e : List Byte) :
    d.admKeeps (d.projectionFails lk c s e).2.2 := by
  unfold Dev.projectionFails
  extract_lets a
  split
  next b d1 h =>
    have hd : d.admKeeps d1 := by
      split at h
      · obtain ⟨-, rfl⟩ := Prod.mk.inj h
        exact .refl d
      · split at h
        next ds p d2 h2 =>
          obtain ⟨-, rfl⟩ := Prod.mk.inj h
          exact Dev.admKeeps_of_busBytes h2
    exact hd

theorem Dev.admKeeps_projectionPoint (lk : Locked) (d : Dev) (c s : Nat) (accepted : Bool) (grants : List GrantInfo) :
    d.admKeeps (d.projectionPoint lk c s accepted grants) := by
  have hl : d.admKeeps (d.rsvLatch c) := Dev.admKeeps_same rfl rfl rfl rfl rfl rfl
  have h0 : d.admKeeps (((d.rsvLatch c).rsvCommand lk).applyLag lk c s) :=
    (hl.trans (Dev.admKeeps_rsvCommand ..)).trans (Dev.admKeeps_applyLag ..)
  unfold Dev.projectionPoint
  generalize ((d.rsvLatch c).rsvCommand lk).applyLag lk c s = d1 at *
  extract_lets +onlyGivenNames d2
  refine Dev.admKeeps_ite h0 ?_
  extract_lets +onlyGivenNames e on split
  clear_value e on split
  have hp := d1.admKeeps_projectionFails lk c s e
  generalize d1.projectionFails lk c s e = P at *
  split
  next fails x d3 h3 =>
    have k3 : d1.admKeeps d3 := by
      split at h3
      · rw [h3] at hp
        exact hp
      · simp only [Prod.mk.injEq] at h3
        obtain ⟨-, -, rfl⟩ := h3
        exact .refl d1
    extract_lets +onlyGivenNames d4 force
    have k4 : d3.admKeeps d4 := Dev.admKeeps_ite (Dev.admKeeps_rsvNote ..) (.refl d3)
    clear_value d4
    split
    next es d5 h5 =>
      have k5 : d4.admKeeps d5 := by
        have hd : _ = d5 := congrArg (fun a : List DecEntry × Dev => a.2) h5
        rw [← hd]
        refine Dev.admKeeps_foldl_snd _ (fun acc g => ?_) grants _ _
        obtain ⟨es, b⟩ := acc
        have ha := b.admKeeps_stateEntry lk g.hist
        dsimp only
        generalize b.stateEntry lk g.hist = r at *
        obtain ⟨st, b1⟩ := r
        have hb := b1.admKeeps_histValid lk g.hist
        dsimp only
        generalize b1.histValid lk g.hist = r at *
        obtain ⟨v, b2⟩ := r
        exact ha.trans hb
      extract_lets lag keep misses r d6
      have k6 : d5.admKeeps d6 := Dev.admKeeps_same rfl rfl rfl rfl rfl rfl
      exact ((((h0.trans k3).trans k4).trans k5).trans k6).trans (Dev.admKeeps_foldl _ (fun d e => d.admKeeps_writeDec ..) _ _)

/-! ## Publication (R287, R291, R293 to R295) -/

theorem Dev.admKeeps_refCopy (lk : Locked) (d : Dev) (e : List Byte) (s n : Nat) : d.admKeeps (d.refCopy lk e s n) := by
  have hr := (d.readKeeps_busRead lk .rxc 0 (rxRow e s n 0) (symP e) false).bus.adm
  unfold Dev.refCopy
  extract_lets both nref idx
  clear_value idx nref
  split
  next bs ps o e1 h =>
    rw [h] at hr
    exact hr.trans (Dev.admKeeps_busWrite ..)

theorem Dev.admKeeps_showHeld (lk : Locked) (d : Dev) (c s n : Nat) : d.admKeeps (d.showHeld lk c s n) := by
  unfold Dev.showHeld
  refine (d.admKeeps_setRxSlot _).trans (Dev.admKeeps_foldl _ (fun b h => ?_) _ _)
  obtain ⟨m, a, bs, bad⟩ := h
  dsimp only
  split
  · exact b.admKeeps_busStore lk .rxc a bs
  · exact Dev.admKeeps_foldl (fun d i => d.busStore lk .rxc (a + 48 * i) (slice bs (48 * i) 48) (bad.getD i false))
      (fun d i => d.admKeeps_busStore lk .rxc (a + 48 * i) (slice bs (48 * i) 48) (bad.getD i false)) _ b

theorem Dev.admKeeps_publish (lk : Locked) (d : Dev) (c s n : Nat) : d.admKeeps (d.publish lk c s n) := by
  have h0 : d.admKeeps ((d.openSlot lk c s).showHeld lk c s n) := (d.admKeeps_openSlot ..).trans (Dev.admKeeps_showHeld ..)
  unfold Dev.publish
  extract_lets +onlyGivenNames e
  generalize (d.openSlot lk c s).showHeld lk c s n = d1 at *
  extract_lets +onlyGivenNames d0 x nprb rows
  split
  next gap d2 h2 =>
    have k2 : d1.admKeeps d2 := by
      have hd : _ = d2 := congrArg (fun a : Nat × Dev => a.2) h2
      rw [← hd]
      exact Dev.admKeeps_foldl_snd _ (fun acc r => Dev.admKeeps_foldl _ (fun d k => d.admKeeps_busStore ..) _ _) rows _ _
    extract_lets +onlyGivenNames d3 d4 x1 d5 d6 ref srs d7 dl a1 a2 d8 a3 d9
    have k3 : d2.admKeeps d3 := d2.admKeeps_busStore ..
    have k4 : d3.admKeeps d4 := Dev.admKeeps_ite (.refl d3) (d3.admKeeps_count _ _ (by decide) (by decide) (by decide))
    have k5 : d4.admKeeps d5 := d4.admKeeps_setRxSlot _
    have k6 : d5.admKeeps d6 := d5.admKeeps_statusLine ..
    have k7 : d6.admKeeps d7 := Dev.admKeeps_ite (d6.admKeeps_refCopy ..) (.refl d6)
    have k8 : d7.admKeeps d8 := Dev.admKeeps_ite (((d7.admKeeps_statusLine ..).trans (a1.admKeeps_projectionPoint ..)).trans
      (a2.admKeeps_submitTemplate ..)) (.refl d7)
    have k9 : d8.admKeeps d9 := Dev.admKeeps_ite ((d8.admKeeps_statusLine ..).trans (a3.admKeeps_submitTemplate ..)) (.refl d8)
    have hall := (((((((h0.trans k2).trans k3).trans k4).trans k5).trans k6).trans k7).trans k8).trans k9
    exact Dev.admKeeps_ite (hall.trans (d9.admKeeps_submitTemplate ..)) hall

theorem Dev.admKeeps_publishDue (lk : Locked) (c f : Nat) (d : Dev) : d.admKeeps (Dev.publishDue lk c f d) := by
  induction f generalizing d with
  | zero => exact .refl d
  | succ f ih =>
    unfold Dev.publishDue
    split
    · exact .refl d
    next cell s n hp =>
      extract_lets +onlyGivenNames e drop
      refine Dev.admKeeps_ite (Dev.admKeeps_same rfl rfl rfl rfl rfl rfl) (Dev.admKeeps_ite ?_ (.refl d))
      have hpub := d.admKeeps_publish lk c s n
      extract_lets +onlyGivenNames p nxt
      change d.admKeeps p at hpub
      clear_value p nxt drop e
      have hnext : p.admKeeps { p with rxc := { p.rxc with nextPub := drop ++ [nxt] } } :=
        Dev.admKeeps_same rfl rfl rfl rfl rfl rfl
      refine Dev.admKeeps.trans ?_ (ih _)
      exact Dev.admKeeps.trans (hpub.trans hnext) (Dev.admKeeps_dropRxSlot ..)

/-! ## Records and grant lists (R296 to R298, R309 to R313) -/

theorem Dev.admKeeps_tsig (d : Dev) (v : Nat) : d.admKeeps (d.tsig v) := by
  unfold Dev.tsig
  split
  next hf =>
    exact ⟨rfl, rfl, rfl, rfl, rfl, Dev.reg_setReg_off _ _ _ _ (by decide), Dev.reg_setReg_off _ _ _ _ (by decide),
      fun h => absurd (h.symm.trans hf) (by decide)⟩
  · exact .refl d

theorem Dev.admKeeps_postRecord (d : Dev) (tail payload : List Byte) (beats : Nat) :
    d.admKeeps (d.postRecord tail payload beats) := by
  unfold Dev.postRecord
  extract_lets seq r c d1 room p2 d2 first a p3 d3 d4
  have h1 : d.admKeeps d1 := by
    unfold d1
    split
    next hf =>
      refine Dev.admKeeps.trans (b := d.setReg .det 0 0x118 ((d.reg .det 0 0x118 + c) % 2 ^ 32)) ?_ (Dev.admKeeps_tsig ..)
      exact ⟨rfl, rfl, rfl, rfl, rfl, Dev.reg_setReg_off _ _ _ _ (by decide), Dev.reg_setReg_off _ _ _ _ (by decide),
        fun h => absurd (h.symm.trans hf) (by decide)⟩
    · exact .refl d
  have h2 : d1.admKeeps d2 := Dev.admKeeps_same rfl rfl rfl rfl rfl rfl
  have h3 : d2.admKeeps d3 := Dev.admKeeps_ite (.refl d2) (Dev.admKeeps_same rfl rfl rfl rfl rfl rfl)
  have h4 : d3.admKeeps d4 := d3.admKeeps_count _ _ (by decide) (by decide) (by decide)
  have h5 := ((h1.trans h2).trans h3).trans h4
  exact Dev.admKeeps_ite (Dev.admKeeps_ite (h5.trans (d4.admKeeps_post ..)) h5)
    ((h1.trans h2).trans (Dev.admKeeps_same rfl rfl rfl rfl rfl rfl))

theorem Dev.admKeeps_countStatus (d : Dev) (st : Nat) : d.admKeeps (d.countStatus st) := by
  unfold Dev.countStatus
  split
  · exact d.admKeeps_bump 1 (by decide)
  · exact d.admKeeps_bump 1 (by decide)
  · exact d.admKeeps_count _ _ (by decide) (by decide) (by decide)
  · exact d.admKeeps_count _ _ (by decide) (by decide) (by decide)
  · exact .refl d

theorem Dev.admKeeps_fixRecord (d : Dev) (c s : Nat) (r : RecIn) (payload : List Byte) :
    d.admKeeps (d.fixRecord c s r payload) := by
  have h1 : d.admKeeps (if r.status = 0 then { d with pci := { d.pci with buffers := d.pci.buffers.drop 1 } } else d) :=
    Dev.admKeeps_ite (Dev.admKeeps_same rfl rfl rfl rfl rfl rfl) (.refl d)
  have h2 (b : Dev) (o : Outcome) : b.admKeeps (b.handOutcome c s r.grant o) := Dev.admKeeps_same rfl rfl rfl rfl rfl rfl
  unfold Dev.fixRecord
  exact ((h1.trans (Dev.admKeeps_postRecord ..)).trans (Dev.admKeeps_countStatus ..)).trans (h2 _ _)

theorem Dev.admKeeps_fixAll (d : Dev) (c : Nat) (l : List DueRec) : d.admKeeps (d.fixAll c l) :=
  Dev.admKeeps_foldl _ (fun d _ => d.admKeeps_fixRecord ..) _ _

theorem Dev.admKeeps_readGrants (lk : Locked) (d : Dev) (e : List Byte) (s : Nat) : d.admKeeps (d.readGrants lk e s).2 := by
  unfold Dev.readGrants
  split
  next h p d1 h1 =>
    have k1 := Dev.admKeeps_of_busBytes h1
    split
    · exact k1
    · extract_lets n
      split
      next bs p' d2 h2 => exact k1.trans (Dev.admKeeps_of_busBytes h2)

theorem Dev.admKeeps_acceptList (lk : Locked) (d : Dev) (c s : Nat) (gs : List (List Byte)) :
    d.admKeeps (d.acceptList lk c s gs).2 := by
  unfold Dev.acceptList
  extract_lets e d1 d2 x states d3 invalid
  have h1 : d.admKeeps d1 := d.admKeeps_openSlot ..
  have h2 : d1.admKeeps d2 := d1.admKeeps_statusLine ..
  have h3 : d2.admKeeps d3 := d2.admKeeps_setRxSlot _
  have h := (h1.trans h2).trans h3
  exact Dev.admKeeps_ite h (h.trans (d3.admKeeps_count _ _ (by decide) (by decide) (by decide)))

/-- A list that is late or lost is counted, with its event. -/
theorem Dev.admKeeps_listEvent (d : Dev) (x : RxSlot) (bs : List Byte) :
    d.admKeeps ((((d.setRxSlot x).bump .rxc 0 0x128 1).sticky .rxc 0 2).post .rxc 0 0x04 4 0 bs) :=
  ((d.admKeeps_setRxSlot x).trans (Dev.admKeeps_count _ _ _ (by decide) (by decide) (by decide))).trans (Dev.admKeeps_post ..)

theorem Dev.admKeeps_lateList (d : Dev) (c s : Nat) (gs : List (List Byte)) : d.admKeeps (d.lateList c s gs).2 :=
  d.admKeeps_listEvent ..

theorem Dev.admKeeps_lostList (d : Dev) (c s : Nat) : d.admKeeps (d.lostList c s).2 := d.admKeeps_listEvent ..

theorem Dev.admKeeps_listsDue (lk : Locked) (c f : Nat) (x : List DueRec × Dev) : x.2.admKeeps (Dev.listsDue lk c f x).2 := by
  induction f generalizing x with
  | zero => exact .refl _
  | succ f ih =>
    obtain ⟨rs, d⟩ := x
    unfold Dev.listsDue
    split
    · exact .refl d
    next cell s hl =>
      extract_lets +onlyGivenNames e drop
      clear_value e drop
      split
      · exact Dev.admKeeps_same rfl rfl rfl rfl rfl rfl
      · split
        · extract_lets +onlyGivenNames r d1
          have h1 : d.admKeeps d1 := Dev.admKeeps_same rfl rfl rfl rfl rfl rfl
          clear_value d1
          have h2 := d1.admKeeps_readGrants lk e s
          generalize d1.readGrants lk e s = r at *
          obtain ⟨gs, d2⟩ := r
          cases gs with
          | none =>
            have h3 : d2.admKeeps { d2 with rxc := { d2.rxc with waiting := d2.rxc.waiting ++ [(c, s)] } } :=
              Dev.admKeeps_same rfl rfl rfl rfl rfl rfl
            exact ((h1.trans h2).trans (h3.trans (Dev.admKeeps_setRxSlot ..))).trans (ih (rs, _))
          | some gs =>
            have h3 := d2.admKeeps_acceptList lk c s gs
            dsimp only at h2 ⊢
            generalize d2.acceptList lk c s gs = r at *
            obtain ⟨new, d3⟩ := r
            exact ((h1.trans h2).trans h3).trans (ih (rs ++ new, d3))
        · exact .refl d

/-- What happens at an admission point to a list that has not matched: it is lost, read late, or goes on waiting (R296). -/
def Dev.listAgain (lk : Locked) (c : Nat) : List DueRec × Dev → Nat × Nat → List DueRec × Dev := fun (rs, d) x =>
  let s := x.2
  let e := d.cellFor false c s
  let settle (d : Dev) : Dev := { d with rxc := { d.rxc with waiting := d.rxc.waiting.filter (· != (c, s)) } }
  if reached d.ns ((d.symStart (ceMu e) (s + 4) 0 + d.fld .det 0 0x108 9 0) % 2 ^ 32) then
    let (new, d) := (settle d).lostList c s
    (rs ++ new, d)
  else
    let (gs, d) := d.readGrants lk e s
    match gs with
    | some gs =>
      let (new, d) := (settle d).lateList c s gs
      (rs ++ new, d)
    | none => (rs, d)

theorem Dev.listsAgain_eq (lk : Locked) (d : Dev) (c : Nat) :
    d.listsAgain lk c = (d.rxc.waiting.filter (·.1 == c)).foldl (Dev.listAgain lk c) ([], d) := rfl

theorem Dev.admKeeps_listAgain (lk : Locked) (c : Nat) (a : List DueRec × Dev) (x : Nat × Nat) :
    a.2.admKeeps (Dev.listAgain lk c a x).2 := by
  obtain ⟨rs, b⟩ := a
  have hsettle (b : Dev) : b.admKeeps { b with rxc := { b.rxc with waiting := b.rxc.waiting.filter (· != (c, x.2)) } } :=
    Dev.admKeeps_same rfl rfl rfl rfl rfl rfl
  have h2 := b.admKeeps_readGrants lk (b.cellFor false c x.2) x.2
  unfold Dev.listAgain
  dsimp only
  generalize b.readGrants lk (b.cellFor false c x.2) x.2 = r at *
  obtain ⟨gs, d2⟩ := r
  split
  · exact (hsettle b).trans (Dev.admKeeps_lostList ..)
  · cases gs with
    | none => exact h2
    | some gs => exact (h2.trans (hsettle d2)).trans (Dev.admKeeps_lateList ..)

theorem Dev.admKeeps_listsAgain (lk : Locked) (d : Dev) (c : Nat) : d.admKeeps (d.listsAgain lk c).2 := by
  rw [Dev.listsAgain_eq]
  exact Dev.admKeeps_foldl_snd _ (Dev.admKeeps_listAgain lk c) _ _ _

theorem Dev.admKeeps_cellAdmit (lk : Locked) (d : Dev) (c : Nat) : d.admKeeps (d.cellAdmit lk c) := by
  have h1 := d.admKeeps_listsAgain lk c
  have h2 := Dev.admKeeps_listsDue lk c 64 (d.listsAgain lk c)
  unfold Dev.cellAdmit
  generalize Dev.listsDue lk c 64 (d.listsAgain lk c) = r at *
  obtain ⟨rs, d1⟩ := r
  dsimp only
  exact (((h1.trans h2).trans (d1.admKeeps_fixAll c rs)).trans
    (Dev.admKeeps_foldl _ (fun d s => d.admKeeps_dropRxSlot c s) _ _)).trans (Dev.admKeeps_publishDue ..)

/-- The receive chain at an admission point: of the frames that wait only those stamped early enough go. -/
theorem Dev.rxcAdmit_spec (lk : Locked) (d : Dev) :
    Dev.admKeeps { d with rxc := { d.rxc with ingress := (d.rxcAdmit lk).rxc.ingress } } (d.rxcAdmit lk) ∧
    (d.flag .fhc 0 0x100 0 = true → ∀ f ∈ d.rxc.ingress, d.tim.tick < f.tick + 8 → f ∈ (d.rxcAdmit lk).rxc.ingress) := by
  have hset (i : List Ingress) (e : Dev) (h : Dev.admKeeps { d with rxc := { d.rxc with ingress := i } } e) :
      Dev.admKeeps { d with rxc := { d.rxc with ingress := e.rxc.ingress } } e := by
    have hi : e.rxc.ingress = i := h.ingress
    rw [hi]
    exact h
  have hcells (e : Dev) : e.admKeeps (if !e.flag .rxc 0 0x100 0 then e else
      (List.range 32).foldl (fun d c => d.cellAdmit lk c) e) :=
    Dev.admKeeps_ite (.refl e) (Dev.admKeeps_foldl _ (fun d c => d.admKeeps_cellAdmit lk c) _ _)
  unfold Dev.rxcAdmit
  by_cases hf : d.flag .fhc 0 0x100 0 = true
  · rw [if_pos hf]
    have htake : Dev.admKeeps { d with rxc := { d.rxc with
        ingress := d.rxc.ingress.filter fun f => !decide (f.tick + 8 ≤ d.tim.tick) } } (d.takeIngress lk) :=
      Dev.admKeeps_foldl _ (fun d f => d.admKeeps_classify lk f) _ _
    have hall := htake.trans (hcells (d.takeIngress lk))
    refine ⟨hset _ _ hall, fun _ f hm ht => ?_⟩
    have hi := hall.ingress
    dsimp only at hi ⊢
    rw [hi]
    exact List.mem_filter.2 ⟨hm, by simp; omega⟩
  · rw [if_neg hf]
    exact ⟨hset [] _ (hcells _), fun h => absurd h hf⟩

end Sys2Proof.Machine
end

section
/-! SUPPORT. What the transmit chain, the Waten engine and the host interface leave alone at an admission point (O40). -/

namespace Sys2Proof.Machine

/-! ## The transmit chain (R324, R326, R359) -/

theorem Dev.admKeeps_encAssign (d : Dev) : d.admKeeps d.encAssign := by
  unfold Dev.encAssign
  refine Dev.admKeeps_ite (.refl d) (Dev.admKeeps_foldl _ (fun b n => ?_) _ _)
  split
  · exact Dev.admKeeps_same rfl rfl rfl rfl rfl rfl
  · exact .refl b

/-- One grant of an accepted list: it is refused, or its blocks are handed to the encoders (R326, R327). -/
def Dev.acceptGrant (lk : Locked) (c s : Nat) (x : TxSlot) (e : List Byte) (acc : List TxGrant × Dev) (p : List Byte × Nat) :
    List TxGrant × Dev :=
  let off := x.tbs.getD p.2 0
  if txGrantBad (ceNprb e) p.1 || !stageFits p.1 off then
    let d := (acc.2.bump .txc 0 0x128 1).sticky .txc 0 2
    (acc.1, d.post .txc 0 0x05 5 0 (layout 20 [(0, 1, c), (4, 4, s), (8, 1, p.2), (12, 4, gTag p.1)]))
  else
    let (tb, _, d) := acc.2.busBytes lk .txc (x.base + off) (tbBytes p.1)
    let bl := (txBlocks p.1 tb).zipIdx.map fun q =>
      ({ cell := c, slot := s, grant := p.2, cb := q.2, code := gCode p.1, sys := q.1 } : EncBlk)
    (acc.1 ++ [{ num := p.2, bytes := p.1 }], { d with txc := { d.txc with enc := d.txc.enc ++ bl } })

theorem Dev.admKeeps_acceptGrant (lk : Locked) (c s : Nat) (x : TxSlot) (e : List Byte) (acc : List TxGrant × Dev)
    (p : List Byte × Nat) : acc.2.admKeeps (Dev.acceptGrant lk c s x e acc p).2 := by
  unfold Dev.acceptGrant
  extract_lets +onlyGivenNames off
  split
  · exact (acc.2.admKeeps_count _ _ (by decide) (by decide) (by decide)).trans (Dev.admKeeps_post ..)
  · split
    next tb q d h => exact (Dev.admKeeps_of_busBytes h).trans (Dev.admKeeps_same rfl rfl rfl rfl rfl rfl)

theorem Dev.acceptTx_eq (lk : Locked) (d : Dev) (c s : Nat) (x : TxSlot) : ∃ y : TxSlot, ∃ ref, d.acceptTx lk c s x =
    let d1 := ((listEntries x.list).zipIdx.foldl (Dev.acceptGrant lk c s x (d.cellFor true c s)) ([], d)).2
    let d2 := ({ d1 with txc := { d1.txc with slots :=
      (d1.txc.slots.filter fun (y : TxSlot) => !(y.cell == c && y.slot == s)) ++ [y] } } : Dev).encAssign
    d2.submitTemplate lk .txc 1 (leAt (d.cellFor true c s) 48 5) c s ref := ⟨_, _, rfl⟩

theorem Dev.admKeeps_acceptTx (lk : Locked) (d : Dev) (c s : Nat) (x : TxSlot) : d.admKeeps (d.acceptTx lk c s x) := by
  obtain ⟨y, ref, h⟩ := d.acceptTx_eq lk c s x
  have h1 : d.admKeeps ((listEntries x.list).zipIdx.foldl (Dev.acceptGrant lk c s x (d.cellFor true c s)) ([], d)).2 :=
    Dev.admKeeps_foldl_snd _ (Dev.admKeeps_acceptGrant lk c s x _) _ _ _
  rw [h]
  generalize ((listEntries x.list).zipIdx.foldl (Dev.acceptGrant lk c s x (d.cellFor true c s)) ([], d)).2 = d1 at *
  have h2 : d1.admKeeps { d1 with txc := { d1.txc with slots :=
      (d1.txc.slots.filter fun (y : TxSlot) => !(y.cell == c && y.slot == s)) ++ [y] } } :=
    Dev.admKeeps_same rfl rfl rfl rfl rfl rfl
  exact ((h1.trans h2).trans (Dev.admKeeps_encAssign _)).trans (Dev.admKeeps_submitTemplate ..)

theorem Dev.admKeeps_intakeDue (lk : Locked) (c f : Nat) (d : Dev) : d.admKeeps (Dev.intakeDue lk c f d) := by
  induction f generalizing d with
  | zero => exact .refl d
  | succ f ih =>
    unfold Dev.intakeDue
    split
    · exact .refl d
    next cell s hn =>
      extract_lets +onlyGivenNames e drop due
      clear_value e drop due
      refine Dev.admKeeps_ite (Dev.admKeeps_same rfl rfl rfl rfl rfl rfl) (Dev.admKeeps_ite ?_ (.refl d))
      extract_lets +onlyGivenNames r d1
      have h1 : d.admKeeps d1 := Dev.admKeeps_same rfl rfl rfl rfl rfl rfl
      clear_value d1
      refine (h1.trans ?_).trans (ih _)
      split
      · exact d1.admKeeps_acceptTx ..
      · extract_lets late t d2
        have h2 : d1.admKeeps d2 := Dev.admKeeps_same rfl rfl rfl rfl rfl rfl
        clear_value d2
        exact (h2.trans (d2.admKeeps_count _ _ (by decide) (by decide) (by decide))).trans (Dev.admKeeps_post ..)

theorem Dev.admKeeps_txcAdmit (lk : Locked) (d : Dev) : d.admKeeps (d.txcAdmit lk) :=
  Dev.admKeeps_ite (.refl d) (Dev.admKeeps_foldl _ (fun d c => Dev.admKeeps_intakeDue lk c 64 d) _ _)

/-! ## The Waten engine (R479 to R495) -/

theorem Dev.admKeeps_modLink (d : Dev) (i : Nat) (f : WtnLink → WtnLink) : d.admKeeps (d.modLink i f) :=
  Dev.admKeeps_same rfl rfl rfl rfl rfl rfl

theorem Dev.admKeeps_nextCand (d : Dev) (a : Nat) : d.admKeeps (d.nextCand a) := Dev.admKeeps_same rfl rfl rfl rfl rfl rfl

theorem Dev.admKeeps_learn (lk : Locked) (d : Dev) (m : WtnRx) (a : Nat) : d.admKeeps (d.learn lk m a) := by
  unfold Dev.learn
  extract_lets +onlyGivenNames at'
  split
  next e p d1 h =>
    have h1 := Dev.admKeeps_of_busBytes h
    extract_lets +onlyGivenNames w
    split
    · extract_lets +onlyGivenNames w'
      refine h1.trans ?_
      have h2 : d1.admKeeps { d1 with wtn := { d1.wtn with learned := insertSorted a d1.wtn.learned } } :=
        Dev.admKeeps_same rfl rfl rfl rfl rfl rfl
      exact h2.trans (Dev.admKeeps_busStore ..)
    · exact Dev.admKeeps_ite (h1.trans (Dev.admKeeps_busStore ..)) h1

theorem Dev.admKeeps_wtnSticky (d : Dev) (b : Nat) : d.admKeeps (d.sticky .wtn 0 b) := d.admKeeps_sticky b (by decide) (by decide)

theorem Dev.admKeeps_hearBeacon (lk : Locked) (d : Dev) (m : WtnRx) : d.admKeeps (d.hearBeacon lk m) := by
  unfold Dev.hearBeacon
  extract_lets +onlyGivenNames a st dg d1
  have h1 : d.admKeeps d1 := Dev.admKeeps_ite (d.admKeeps_learn ..) (.refl d)
  clear_value d1
  refine h1.trans (Dev.admKeeps_ite (Dev.admKeeps_ite (d1.admKeeps_nextCand a) (.refl d1)) (Dev.admKeeps_ite (.refl d1)
    (Dev.admKeeps_ite (Dev.admKeeps_ite ?_ (.refl d1)) (Dev.admKeeps_ite
      ((d1.admKeeps_wtnSticky 4).trans (Dev.admKeeps_post ..)) (.refl d1)))))
  exact (((d1.admKeeps_setFld _ _ _ (by decide)).trans (Dev.admKeeps_nextCand ..)).trans (Dev.admKeeps_wtnSticky ..)).trans
    (Dev.admKeeps_post ..)

theorem Dev.admKeeps_hearGather (lk : Locked) (d : Dev) (i : Nat) (m : List Byte) : d.admKeeps (d.hearGather lk i m) := by
  have hlate : d.admKeeps (d.bump .wtn 0 0x15C 1) := d.admKeeps_bump _ (by decide)
  unfold Dev.hearGather
  extract_lets +onlyGivenNames late l k
  split
  · exact hlate
  next c hc =>
    extract_lets +onlyGivenNames s
    refine Dev.admKeeps_ite hlate ?_
    extract_lets +onlyGivenNames lh o data total g d1 w b
    have h1 : d.admKeeps d1 := Dev.admKeeps_same rfl rfl rfl rfl rfl rfl
    clear_value b w o data lh d1
    refine h1.trans (Dev.admKeeps_ite (.refl d1) (Dev.admKeeps_foldl _ (fun d r => ?_) _ _))
    extract_lets row lo hi
    split
    · exact .refl d
    · exact d.admKeeps_busStore ..

theorem Dev.admKeeps_hearMirror (lk : Locked) (d : Dev) (i : Nat) (m : List Byte) : d.admKeeps (d.hearMirror lk i m) := by
  unfold Dev.hearMirror
  extract_lets +onlyGivenNames l q d1 d2 off
  have h1 : d.admKeeps d1 := Dev.admKeeps_ite (.refl d)
    (((d.admKeeps_bump _ (by decide)).trans (Dev.admKeeps_wtnSticky ..)).trans (Dev.admKeeps_post ..))
  have h2 : d1.admKeeps d2 := d1.admKeeps_modLink ..
  clear_value off d2
  refine (h1.trans h2).trans (Dev.admKeeps_foldl _ (fun d j => ?_) _ _)
  extract_lets a
  exact Dev.admKeeps_ite (d.admKeeps_busStore lk .wtn a (slice m (32 + 64 * j) 64) (bit (leAt m 1 1) 0))
    (d.admKeeps_bump _ (by decide))

theorem Dev.admKeeps_takeCredits (d : Dev) (i : Nat) (m : List Byte) : d.admKeeps (d.takeCredits i m) := by
  have ho : offDet (Page.base .wtn 0 + (0x408 + 16 * i)) := .inr (by simp only [Page.base]; omega)
  exact (d.admKeeps_setFld _ _ _ ho).trans (Dev.admKeeps_setFld _ _ _ _ ho)

theorem Dev.admKeeps_unpair (d : Dev) : d.admKeeps d.unpair := by
  have h1 : d.admKeeps { d with wtn := { d.wtn with pair := none, copy := none, mirq := [], full := false } } :=
    Dev.admKeeps_same rfl rfl rfl rfl rfl rfl
  exact h1.trans (Dev.admKeeps_setFld _ _ _ _ (by decide))

/-- What an admitted message of class `cls` of link `i` does (R492, R495, R497). -/
def Dev.wtnHear (lk : Locked) (d : Dev) (cls i : Nat) (m : List Byte) : Dev :=
  match cls with
  | 2 => d.hearGather lk i m
  | 3 => d.hearMirror lk i m
  | 4 =>
    if d.wtn.pair.any fun p => p.1 == i then
      d.unpair.post .wtn 0 0x09 9 0 (layout 20 [(0, 2, d.linkPeer i)])
    else d
  | _ => d

theorem Dev.admKeeps_wtnHear (lk : Locked) (d : Dev) (cls i : Nat) (m : List Byte) : d.admKeeps (d.wtnHear lk cls i m) := by
  unfold Dev.wtnHear
  split
  · exact d.admKeeps_hearGather ..
  · exact d.admKeeps_hearMirror ..
  · exact Dev.admKeeps_ite (d.admKeeps_unpair.trans (Dev.admKeeps_post ..)) (.refl d)
  · exact .refl d

theorem Dev.admKeeps_wtnAct (lk : Locked) (d : Dev) (x : WtnRx) : d.admKeeps (d.wtnAct lk x) := by
  unfold Dev.wtnAct
  extract_lets +onlyGivenNames m cls d1
  have h1 : d.admKeeps d1 := d.admKeeps_bump _ (by decide)
  clear_value d1
  refine h1.trans (Dev.admKeeps_ite (d1.admKeeps_hearBeacon ..) ?_)
  split
  · exact .refl d1
  next i hi =>
    extract_lets +onlyGivenNames d2 d3
    have h2 : d1.admKeeps d2 := d1.admKeeps_takeCredits ..
    have h3 : d2.admKeeps d3 := d2.admKeeps_wtnHear lk cls i m
    clear_value d3
    split
    · exact h2.trans h3
    · exact (h2.trans h3).trans (d3.admKeeps_modLink ..)

/-- The Waten engine at an admission point: of the messages that wait only those stamped early enough go. -/
theorem Dev.wtnAdmit_spec (lk : Locked) (d : Dev) :
    Dev.admKeeps { d with wtn := { d.wtn with wait := (d.wtnAdmit lk).wtn.wait } } (d.wtnAdmit lk) ∧
    (∀ m ∈ d.wtn.wait, d.tim.tick < m.tick + 8 → m ∈ (d.wtnAdmit lk).wtn.wait) := by
  have hall : Dev.admKeeps { d with wtn := { d.wtn with
      wait := d.wtn.wait.filter fun f => !decide (f.tick + 8 ≤ d.tim.tick) } } (d.wtnAdmit lk) :=
    Dev.admKeeps_foldl _ (fun d m => d.admKeeps_wtnAct lk m) _ _
  have hw := hall.wait
  dsimp only at hw
  rw [hw]
  exact ⟨hall, fun m hm ht => List.mem_filter.2 ⟨hm, by simp; omega⟩⟩

/-! ## The scheduler (R397 to R408) -/

theorem Dev.admKeeps_modJob (d : Dev) (j : Nat) (f : Job → Job) : d.admKeeps (d.modJob j f) :=
  Dev.admKeeps_same rfl rfl rfl rfl rfl rfl

theorem Dev.admKeeps_askPreempt (d : Dev) (j sem : Nat) (w : Bool) : d.admKeeps (d.askPreempt j sem w) := d.admKeeps_modJob ..

theorem Dev.admKeeps_schedule (lk : Locked) (d : Dev) : d.admKeeps (d.schedule lk) := by
  unfold Dev.schedule
  split
  · exact .refl d
  · exact Dev.admKeeps_foldl _ (fun d v => d.admKeeps_askPreempt ..) _ _

theorem Dev.admKeeps_freeCore (d : Dev) (c : Nat) : d.admKeeps (d.freeCore c) :=
  Dev.admKeeps_ite (Dev.admKeeps_same rfl rfl rfl rfl rfl rfl) (.refl d)

theorem Dev.admKeeps_modCore (d : Dev) (c : Nat) (f : CoreSt → CoreSt) : d.admKeeps (d.modCore c f) :=
  Dev.admKeeps_same rfl rfl rfl rfl rfl rfl

theorem Dev.admKeeps_leaveCore (num status : Nat) (d : Dev) (c : Nat) : d.admKeeps (Dev.leaveCore num status d c) :=
  Dev.admKeeps_ite (.refl d) (Dev.admKeeps_ite ((d.admKeeps_modCore ..).trans (Dev.admKeeps_freeCore ..))
    (Dev.admKeeps_ite ((d.admKeeps_modCore ..).trans (Dev.admKeeps_freeCore ..))
      ((d.admKeeps_modCore ..).trans (Dev.admKeeps_freeCore ..))))

theorem Dev.admKeeps_semBrokenRegs (d : Dev) {k : Nat} (hk : k < 64) : d.admKeeps (d.semBrokenRegs k) := by
  unfold Dev.semBrokenRegs
  extract_lets off d1
  have h1 : d.admKeeps d1 := d.admKeeps_setReg _ (.inl (by simp only [Page.base, off]; omega))
  exact (h1.trans (Dev.admKeeps_setReg _ _ (by decide))).trans (Dev.admKeeps_bump _ _ (by decide))

theorem Dev.admKeeps_breakSem (d : Dev) {k : Nat} (hk : k < 64) : d.admKeeps (d.breakSem k) := by
  cases hh : (d.sems.toList.getD k {}).holder with
  | none =>
    have he : d.breakSem k = d := by simp only [Dev.breakSem, hh]
    rw [he]
    exact .refl d
  | some h =>
    rw [Dev.breakSem_eq hh]
    have h1 : d.admKeeps { d with sems := d.sems.setIfInBounds k { d.sems.toList.getD k {} with holder := none } } :=
      Dev.admKeeps_same rfl rfl rfl rfl rfl rfl
    exact (h1.trans (Dev.admKeeps_semBrokenRegs _ hk)).trans (Dev.admKeeps_post ..)

theorem Dev.admKeeps_quitSems (d : Dev) (num status : Nat) : d.admKeeps (d.quitSems num status) := by
  unfold Dev.quitSems
  extract_lets quit d1 d2
  have h1 : d.admKeeps d1 := Dev.admKeeps_same rfl rfl rfl rfl rfl rfl
  have h2 : d1.admKeeps d2 := by
    refine Dev.admKeeps_ite (.refl d1) (List.foldlRecOn (motive := fun e : Dev => d1.admKeeps e) _ _ (.refl d1) ?_)
    intro e he k hk
    refine he.trans ?_
    split
    · exact Dev.admKeeps_ite (e.admKeeps_breakSem (List.mem_range.1 hk)) (.refl e)
    · exact .refl e
  exact (h1.trans h2).trans (Dev.admKeeps_same rfl rfl rfl rfl rfl rfl)

theorem Dev.admKeeps_schSticky (d : Dev) (b : Nat) : d.admKeeps (d.sticky .sch 0 b) := d.admKeeps_sticky b (by decide) (by decide)

theorem Dev.admKeeps_countEnd (d : Dev) (status reason : Nat) (late abortLate : Bool) :
    d.admKeeps (d.countEnd status reason late abortLate) := by
  have h1 : d.admKeeps (d.countVerdict status late abortLate) := by
    unfold Dev.countVerdict
    split
    · exact ((d.admKeeps_bump _ (by decide)).trans (Dev.admKeeps_bump _ _ (by decide))).trans (Dev.admKeeps_bump _ _ (by decide))
    · exact d.admKeeps_bump _ (by decide)
    · exact (d.admKeeps_bump _ (by decide)).trans (Dev.admKeeps_schSticky ..)
  have hb (e : Dev) (c : Bool) (b : Nat) : e.admKeeps (if c then e.sticky .sch 0 b else e) :=
    Dev.admKeeps_ite (e.admKeeps_schSticky b) (.refl e)
  exact ((h1.trans (hb _ _ _)).trans (hb _ _ _)).trans (hb _ _ _)

theorem Dev.admKeeps_leftBy (d : Dev) (num : Nat) (j : Job) : d.admKeeps (d.leftBy num j) := by
  have h3 (e : Dev) (done : Bool) : e.admKeeps (e.dropJob num j done) := Dev.admKeeps_same rfl rfl rfl rfl rfl rfl
  exact (((d.admKeeps_countEnd ..).trans (Dev.admKeeps_quitSems ..)).trans
    (Dev.admKeeps_foldl _ (fun d c => Dev.admKeeps_leaveCore ..) _ _)).trans (h3 _ _)

theorem Dev.admKeeps_jobEnd (num : Nat) (lk : Locked) (d : Dev) : d.admKeeps (effJobEnd num lk d) := by
  cases hj : d.job? num with
  | none =>
    have he : effJobEnd num lk d = d := by simp only [effJobEnd, hj]
    rw [he]
    exact .refl d
  | some j =>
    by_cases he : j.ends = []
    · have he : effJobEnd num lk d = d := by simp [effJobEnd, hj, he]
      rw [he]
      exact .refl d
    · rw [effJobEnd_eq hj he]
      exact (((d.admKeeps_leftBy num j).trans (Dev.admKeeps_post ..)).trans (Dev.admKeeps_tsig ..)).trans
        (Dev.admKeeps_schedule ..)

theorem Dev.admKeeps_takeAborts (lk : Locked) (d : Dev) : d.admKeeps (d.takeAborts lk) := by
  have h1 : d.admKeeps { d with sch := { d.sch with aborts := [] } } := Dev.admKeeps_same rfl rfl rfl rfl rfl rfl
  exact h1.trans (Dev.admKeeps_foldl _ (fun d j => (d.admKeeps_modJob ..).trans (Dev.admKeeps_jobEnd ..)) _ _)

theorem Dev.admKeeps_submit (lk : Locked) (d : Dev) (src : Nat) (ds : List Byte) : d.admKeeps (d.submit lk src ds) := by
  unfold Dev.submit
  split
  · extract_lets d1 d2 d3
    have h1 : d.admKeeps d1 := d.admKeeps_count _ _ (by decide) (by decide) (by decide)
    have h2 : d1.admKeeps d2 := d1.admKeeps_post ..
    have h3 : d2.admKeeps d3 := d2.admKeeps_tsig _
    have h := (h1.trans h2).trans h3
    exact Dev.admKeeps_ite (h.trans (Dev.admKeeps_same rfl rfl rfl rfl rfl rfl)) h
  · extract_lets +onlyGivenNames d1 j
    have h1 : d.admKeeps d1 := d.admKeeps_bump _ (by decide)
    clear_value j d1
    refine h1.trans (Dev.admKeeps_ite (Dev.admKeeps_same rfl rfl rfl rfl rfl rfl) ?_)
    extract_lets +onlyGivenNames p ramp set victims
    clear_value victims ramp p
    extract_lets q d2 d3
    have h2 : d1.admKeeps d2 := Dev.admKeeps_same rfl rfl rfl rfl rfl rfl
    have h3 : d2.admKeeps d3 := d2.admKeeps_setReg _ (by decide)
    clear_value d3 d2
    exact (h2.trans h3).trans (Dev.admKeeps_foldl _ (fun d v => d.admKeeps_askPreempt ..) _ _)

theorem Dev.admKeeps_admitJobs (lk : Locked) (d : Dev) (l : List (List Byte)) : d.admKeeps (d.admitJobs lk l) := by
  have h0 := d.admKeeps_takeAborts lk
  unfold Dev.admitJobs
  generalize d.takeAborts lk = d1 at *
  dsimp only
  refine h0.trans (Dev.admKeeps_ite (.refl d1) ?_)
  have h1 : d1.admKeeps { d1 with sch := { d1.sch with subs := [] } } := Dev.admKeeps_same rfl rfl rfl rfl rfl rfl
  exact ((h1.trans (Dev.admKeeps_foldl _ (fun d s => d.admKeeps_submit ..) _ _)).trans
    (Dev.admKeeps_foldl _ (fun d ds => d.admKeeps_submit ..) _ _)).trans (Dev.admKeeps_schedule ..)

/-! ## Ring entries (R549 to R551) -/

theorem Dev.admKeeps_consume (d : Dev) (r : Nat) : d.admKeeps (d.consume r) := by
  obtain ⟨hs, -⟩ := d.consume_shape r
  refine Dev.admKeeps_of (congrArg Dev.tim hs :) (congrArg Dev.det hs :) (congrArg (fun d : Dev => d.pci.fetched) hs :)
    (congrArg (fun d : Dev => d.wtn.wait) hs :) (congrArg (fun d : Dev => d.rxc.ingress) hs :) fun o h1 h2 => ?_
  have hg : (d.consume r).rg = (d.setReg .pci 0 (0x210 + 32 * r) ((d.reg .pci 0 (0x210 + 32 * r) + 1) % 2 ^ 32)).rg :=
    (congrArg Dev.rg hs :)
  rw [Dev.reg_congr hg, Dev.reg_setReg_ne _ _ (by simp; omega)]

theorem Dev.admKeeps_dropBad (d : Dev) (n : Nat) : d.admKeeps (d.dropBad n) := by
  induction n generalizing d with
  | zero => exact .refl d
  | succ n ih =>
    unfold Dev.dropBad
    split
    next x l hl =>
      have h1 : d.admKeeps { d with pci := { d.pci with intake := l } } := Dev.admKeeps_same rfl rfl rfl rfl rfl rfl
      exact Dev.admKeeps_ite ((h1.trans (Dev.admKeeps_consume ..)).trans (ih _)) (.refl d)
    · exact .refl d

end Sys2Proof.Machine
end

section
/-! SUPPORT. The alignment reset and the admission points (O40). -/

namespace Sys2Proof.Machine

/-! ## Entries at an admission point (R549, R551) -/

/-- An entry stamped too late for this point is not admitted. -/
theorem Dev.mem_admitted_rest {d : Dev} {x : InEntry} (hx : x ∈ d.pci.fetched) (ht : d.tim.tick < x.stamp + 8) :
    x ∈ (d.admitted x.ring).2 := by
  have hm : x ∈ d.pci.fetched.filter (·.ring == x.ring) := List.mem_filter.2 ⟨hx, by simp⟩
  have hl : (d.admitted x.ring).1 ++ (d.admitted x.ring).2 = d.pci.fetched.filter (·.ring == x.ring) :=
    List.takeWhile_append_dropWhile
  rw [← hl] at hm
  refine (List.mem_append.1 hm).resolve_left fun h => ?_
  have := List.mem_takeWhile_imp (p := fun e : InEntry => decide (e.stamp + 8 ≤ d.tim.tick)) h
  simp at this
  omega

/-- What an admission point does to what waits for it: what is stamped too late goes on waiting. `on` says that the
classifier is enabled (R511). -/
structure Dev.admits (on : Prop) (d e : Dev) : Prop where
  tim : e.tim = d.tim
  det : e.det = d.det
  fetched : ∀ x ∈ d.pci.fetched, x.ring < 3 → d.tim.tick < x.stamp + 8 → x ∈ e.pci.fetched
  wait : ∀ m ∈ d.wtn.wait, d.tim.tick < m.tick + 8 → m ∈ e.wtn.wait
  ingress : on → ∀ f ∈ d.rxc.ingress, d.tim.tick < f.tick + 8 → f ∈ e.rxc.ingress
  mode : e.reg .det 0 0x100 = d.reg .det 0 0x100
  points : e.reg .det 0 0x110 = d.reg .det 0 0x110
  sigs : d.flag .det 0 0x100 1 = false →
    e.reg .det 0 0x118 = d.reg .det 0 0x118 ∧ e.reg .det 0 0x11C = d.reg .det 0 0x11C

theorem Dev.admits.trans {on : Prop} {a b c : Dev} (h : a.admits on b) (k : b.admits on c) : a.admits on c := by
  refine ⟨k.tim.trans h.tim, k.det.trans h.det, fun x hx hr ht => k.fetched x (h.fetched x hx hr ht) hr (by rw [h.tim]; exact ht),
    fun m hm ht => k.wait m (h.wait m hm ht) (by rw [h.tim]; exact ht),
    fun ho f hf ht => k.ingress ho f (h.ingress ho f hf ht) (by rw [h.tim]; exact ht), k.mode.trans h.mode,
    k.points.trans h.points, fun hf => ?_⟩
  obtain ⟨h1, h2⟩ := h.sigs hf
  obtain ⟨k1, k2⟩ := k.sigs (by rw [Dev.flag, h.mode, ← hf, Dev.flag])
  exact ⟨k1.trans h1, k2.trans h2⟩

theorem Dev.admKeeps.admits {d e : Dev} (h : d.admKeeps e) (on : Prop) : d.admits on e :=
  ⟨h.tim, h.det, fun _ hx _ _ => by rw [h.fetched]; exact hx, fun _ hm _ => by rw [h.wait]; exact hm,
    fun _ _ hf _ => by rw [h.ingress]; exact hf, h.mode, h.points, h.sigs⟩

theorem Dev.admits.refl (on : Prop) (d : Dev) : d.admits on d := (Dev.admKeeps.refl d).admits on

/-- A change of the entries that keeps those stamped too late. -/
theorem Dev.admits_fetched {on : Prop} {d : Dev} {l : List InEntry}
    (h : ∀ x ∈ d.pci.fetched, x.ring < 3 → d.tim.tick < x.stamp + 8 → x ∈ l) (m : List InEntry) (b : List Nat) :
    d.admits on { d with pci := { d.pci with fetched := l, intake := m, buffers := b } } :=
  ⟨rfl, rfl, h, fun _ hm _ => hm, fun _ _ hf _ => hf, rfl, rfl, fun _ => ⟨rfl, rfl⟩⟩

theorem Dev.admits_admitEntries (on : Prop) (d : Dev) : d.admits on d.admitEntries := by
  have hstay : ∀ x ∈ d.pci.fetched, x.ring < 3 → d.tim.tick < x.stamp + 8 →
      x ∈ d.pci.fetched.filter (·.ring == 0) ++ (d.admitted 1).2 ++ (d.admitted 2).2 := by
    intro x hx hr ht
    have hm := Dev.mem_admitted_rest hx ht
    obtain h | h | h : x.ring = 0 ∨ x.ring = 1 ∨ x.ring = 2 := by omega
    · exact List.mem_append_left _ (List.mem_append_left _ (List.mem_filter.2 ⟨hx, by simp [h]⟩))
    · rw [h] at hm
      exact List.mem_append_left _ (List.mem_append_right _ hm)
    · rw [h] at hm
      exact List.mem_append_right _ hm
  unfold Dev.admitEntries
  refine (Dev.admits_fetched hstay (d.pci.intake ++ (d.admitted 1).1) (d.pci.buffers ++
    ((d.admitted 2).1.filter (!·.bad)).map fun e => leNat e.bytes)).trans (Dev.admKeeps.admits ?_ on)
  exact (Dev.admKeeps_foldl _ (fun d _ => d.admKeeps_consume 2) _ _).trans (Dev.admKeeps_dropBad ..)

theorem Dev.admits_takeJobEntries (on : Prop) (d : Dev) : d.admits on d.takeJobEntries.2 := by
  unfold Dev.takeJobEntries
  split
  · exact .refl on d
  · have hstay : ∀ x ∈ d.pci.fetched, x.ring < 3 → d.tim.tick < x.stamp + 8 →
        x ∈ (d.admitted 0).1.drop 32 ++ (d.admitted 0).2 ++ d.pci.fetched.filter (·.ring != 0) := by
      intro x hx hr ht
      by_cases h0 : x.ring = 0
      · have hm := Dev.mem_admitted_rest hx ht
        rw [h0] at hm
        exact List.mem_append_left _ (List.mem_append_right _ hm)
      · exact List.mem_append_right _ (List.mem_filter.2 ⟨hx, by simp [h0]⟩)
    exact (Dev.admits_fetched hstay d.pci.intake d.pci.buffers).trans
      ((Dev.admKeeps_foldl _ (fun d _ => d.admKeeps_consume 0) _ _).admits on)

/-- The chains and the Waten engine at an admission point. -/
theorem Dev.admits_chains (lk : Locked) (d : Dev) :
    d.admits (d.flag .fhc 0 0x100 0 = true) (((d.rxcAdmit lk).txcAdmit lk).wtnAdmit lk) := by
  obtain ⟨h1, hf⟩ := d.rxcAdmit_spec lk
  have hr : d.admits (d.flag .fhc 0 0x100 0 = true) (d.rxcAdmit lk) :=
    ⟨h1.tim, h1.det, fun x hx _ _ => by rw [h1.fetched]; exact hx, fun m hm _ => by rw [h1.wait]; exact hm, hf, h1.mode,
      h1.points, h1.sigs⟩
  generalize d.rxcAdmit lk = e at *
  have ht := (e.admKeeps_txcAdmit lk).admits (d.flag .fhc 0 0x100 0 = true)
  generalize e.txcAdmit lk = g at *
  obtain ⟨h3, hw⟩ := g.wtnAdmit_spec lk
  exact (hr.trans ht).trans ⟨h3.tim, h3.det, fun x hx _ _ => by rw [h3.fetched]; exact hx, hw,
    fun _ f hf _ => by rw [h3.ingress]; exact hf, h3.mode, h3.points, h3.sigs⟩

end Sys2Proof.Machine
end

section
/-! SUPPORT. The alignment reset and the admission points (O40). -/

namespace Sys2Proof.Machine

/-! ## The alignment reset (R508, R509) and DET_CTRL (R513, R514) -/

theorem Dev.blockWrite_detCtrl (d : Dev) (lk : Locked) (v : Nat) : d.blockWrite lk .det 0 0x100 v = d.detCtrl v := by
  simp only [Dev.blockWrite]

theorem Dev.alignReady_iff (d : Dev) : d.alignReady = true ↔ d.gridOn = true ∧
    ∀ p ∈ [Page.sch, .rxc, .txc, .fec, .kvp, .rsv, .wtn], d.flag p 0 0x100 0 = false := by
  simp [Dev.alignReady, and_assoc]

/-- The mode bit of DET_CTRL alone. -/
def Dev.detMode (d : Dev) (v : Nat) : Dev := d.setFld .det 0 0x100 1 1 (v / 2)

theorem Dev.alignReady_detMode (d : Dev) (v : Nat) : (d.detMode v).alignReady = d.alignReady := by
  simp [Dev.alignReady, Dev.gridOn, Dev.flag, Dev.detMode]

theorem Dev.next125_detMode (d : Dev) (v : Nat) : (d.detMode v).next125 = d.next125 := by
  have hg : (d.detMode v).gridOn = d.gridOn := by simp [Dev.gridOn, Dev.flag, Dev.detMode]
  have ha : (d.detMode v).reg .tim 0 0x120 = d.reg .tim 0 0x120 := by simp [Dev.detMode]
  have hs : (d.detMode v).sinceSub = d.sinceSub := by
    unfold Dev.sinceSub
    rw [hg, ha]
    rfl
  unfold Dev.next125
  rw [hs, ha]
  rfl

/-- A write of DET_CTRL that asks for an alignment that may start. -/
theorem Dev.detCtrl_asks {d : Dev} {v : Nat} (h0 : bit v 0 = true) (h2 : bit v 2 = false) (hr : d.alignReady = true) :
    d.detCtrl v = { (d.detMode v).setFld .det 0 0x104 1 1 1 with
      det := { d.det with asked := some (d.det.asked.getD d.next125) } } := by
  have hm : (d.detMode v).alignReady = true := by rw [d.alignReady_detMode, hr]
  have hg : effAlignGo (d.detMode v) = { (d.detMode v).setFld .det 0 0x104 1 1 1 with
      det := { (d.detMode v).det with asked := some ((d.detMode v).det.asked.getD (d.detMode v).next125) } } := by
    rw [effAlignGo, if_pos hm]
  rw [d.next125_detMode] at hg
  have hc : d.detCtrl v = effAlignGo (d.detMode v) := by
    simp only [Dev.detCtrl, h0, h2, hr, Bool.not_true, Bool.and_false, Bool.false_eq_true, if_false, if_true]
    rfl
  exact hc.trans hg

/-- One that asks for an alignment that may not start is ignored whole. -/
theorem Dev.detCtrl_refused {d : Dev} {v : Nat} (h0 : bit v 0 = true) (hr : ¬ d.alignReady = true) :
    d.detCtrl v = d.err .det 0 errState 0x100 := by
  rw [Dev.detCtrl, if_pos (by simp [h0, hr]), effAlignGo, if_neg hr]

/-- One that asks for new signatures. -/
theorem Dev.detCtrl_clears {d : Dev} {v : Nat} (h0 : bit v 0 = false) (h2 : bit v 2 = true) :
    d.detCtrl v = effSigClr (d.detMode v) := by
  simp only [Dev.detCtrl, h0, h2, Bool.false_and, Bool.false_eq_true, if_false, if_true]
  rfl

/-! ## The admission point (R510, R511, R513) -/

/-- The state in which an admission point looks at the crossing buffers: the point counted, the signatures reset. -/
def Dev.pointOpened (d : Dev) : Dev := (d.bump .det 0 0x110 1).clearSigs

theorem Dev.reg_admitEntries_fhc (d : Dev) : d.admitEntries.reg .fhc 0 0x100 = d.reg .fhc 0 0x100 := by
  have hc (d : Dev) (r : Nat) : (d.consume r).reg .fhc 0 0x100 = d.reg .fhc 0 0x100 := by
    rw [Dev.reg_consume, Dev.reg_setReg_ne _ _ (by simp; omega)]
  have hb (n : Nat) (d : Dev) : (d.dropBad n).reg .fhc 0 0x100 = d.reg .fhc 0 0x100 := by
    induction n generalizing d with
    | zero => rfl
    | succ n ih =>
      unfold Dev.dropBad
      split
      · split
        · rw [ih, hc]
          rfl
        · rfl
      · rfl
  unfold Dev.admitEntries
  exact (hb _ _).trans (List.foldlRecOn (motive := fun e : Dev => e.reg .fhc 0 0x100 = d.reg .fhc 0 0x100) _ _ rfl
    fun e he _ _ => (hc e 2).trans he)

theorem Dev.pointOpened_spec (d : Dev) :
    d.pointOpened = { d with rg := d.pointOpened.rg, det := { d.det with sigClr := false } } ∧
    d.pointOpened.reg .det 0 0x110 = satAdd (d.reg .det 0 0x110) 1 ∧
    d.pointOpened.reg .det 0 0x100 = d.reg .det 0 0x100 ∧ d.pointOpened.reg .fhc 0 0x100 = d.reg .fhc 0 0x100 ∧
    (d.det.sigClr = true → d.pointOpened.reg .det 0 0x118 = 0 ∧ d.pointOpened.reg .det 0 0x11C = 0xFFFFFFFF) := by
  have h0 := d.bump_regsOnly .det 0 0x110 1
  have h1 : (d.bump .det 0 0x110 1).reg .det 0 0x110 = satAdd (d.reg .det 0 0x110) 1 := by simp
  have h2 : (d.bump .det 0 0x110 1).reg .det 0 0x100 = d.reg .det 0 0x100 := by simp
  have h3 : (d.bump .det 0 0x110 1).reg .fhc 0 0x100 = d.reg .fhc 0 0x100 := by simp
  unfold Dev.pointOpened
  generalize d.bump .det 0 0x110 1 = e at *
  obtain ⟨r, rfl⟩ : ∃ r, e = { d with rg := r } := ⟨_, h0⟩
  unfold Dev.clearSigs
  cases hs : d.det.sigClr
  · simp only [Bool.not_false, if_true]
    exact ⟨by rw [← hs], h1, h2, h3, by simp⟩
  · simp only [Bool.not_true, Bool.false_eq_true, if_false]
    have hc (f : Dev) {p : Page} {o : Nat} (h : p.base 0 + o ≠ 0x8118 ∧ p.base 0 + o ≠ 0x811C) :
        ((f.setReg .det 0 0x118 0).setReg .det 0 0x11C 0xFFFFFFFF).reg p 0 o = f.reg p 0 o := by
      rw [Dev.reg_setReg_ne _ _ h.2, Dev.reg_setReg_ne _ _ h.1]
    refine ⟨rfl, (hc _ (by decide)).trans h1, (hc _ (by decide)).trans h2, (hc _ (by decide)).trans h3, fun _ => ⟨?_, ?_⟩⟩
    · simp
    · simp

/-- An admission point after it has opened, up to the job entries. -/
def Dev.pointEntered (lk : Locked) (d : Dev) : Dev :=
  let e := d.pointOpened.admitEntries
  if e.gridOn then ((e.rxcAdmit lk).txcAdmit lk).wtnAdmit lk else e

/-- An admission point that is passed. -/
def Dev.pointPassed (lk : Locked) (d : Dev) : Dev :=
  { d.pointEntered lk with det := { (d.pointEntered lk).det with lastAdm := some ((d.pointEntered lk).tim.tick, (d.pointEntered lk).tim.ns) } }

theorem effAdmissionPoint_due {d : Dev} (lk : Locked) (hh : d.pwr.held = false) (hd : d.pointDue = true)
    (hl : d.det.lastAdm.map (·.1) ≠ some d.tim.tick) :
    effAdmissionPoint lk d =
      ((d.pointPassed lk).takeJobEntries.2.admitJobs lk (d.pointPassed lk).takeJobEntries.1).takeNotices lk := by
  have hany : (d.det.lastAdm.any (·.1 == d.tim.tick)) = false := by
    cases h : d.det.lastAdm with
    | none => rfl
    | some x => simpa [h] using hl
  rw [effAdmissionPoint, hh, hd, hany]
  rfl

theorem effAdmissionPoint_idle {d : Dev} (lk : Locked)
    (h : d.pwr.held = true ∨ d.pointDue = false ∨ d.det.lastAdm.map (·.1) = some d.tim.tick) : effAdmissionPoint lk d = d := by
  refine if_pos ?_
  obtain h | h | h := h
  · simp [h]
  · simp [h]
  · obtain ⟨x, hx, he⟩ := Option.map_eq_some_iff.1 h
    simp [hx, he]

theorem Dev.admits_pointEntered (lk : Locked) (d : Dev) :
    d.pointOpened.admits (d.flag .fhc 0 0x100 0 = true) (d.pointEntered lk) := by
  obtain ⟨-, -, -, hf, -⟩ := d.pointOpened_spec
  have he : d.pointOpened.admitEntries.flag .fhc 0 0x100 0 = d.flag .fhc 0 0x100 0 := by
    rw [Dev.flag, Dev.reg_admitEntries_fhc, hf, Dev.flag]
  have h1 := Dev.admits_admitEntries (d.flag .fhc 0 0x100 0 = true) d.pointOpened
  have h2 := Dev.admits_chains lk d.pointOpened.admitEntries
  rw [he] at h2
  unfold Dev.pointEntered
  dsimp only
  split
  · exact h1.trans h2
  · exact h1

/-- What an admission point leaves (R510, R511, R513). -/
structure Dev.passesPoint (d e : Dev) : Prop where
  det : e.det = { d.det with sigClr := false, lastAdm := some (d.tim.tick, d.tim.ns) }
  points : e.reg .det 0 0x110 = satAdd (d.reg .det 0 0x110) 1
  sigs : d.det.sigClr = true → d.flag .det 0 0x100 1 = false → e.reg .det 0 0x118 = 0 ∧ e.reg .det 0 0x11C = 0xFFFFFFFF
  fetched : ∀ x ∈ d.pci.fetched, x.ring < 3 → d.tim.tick < x.stamp + 8 → x ∈ e.pci.fetched
  wait : ∀ m ∈ d.wtn.wait, d.tim.tick < m.tick + 8 → m ∈ e.wtn.wait
  ingress : d.flag .fhc 0 0x100 0 = true → ∀ f ∈ d.rxc.ingress, d.tim.tick < f.tick + 8 → f ∈ e.rxc.ingress

/-- What has been passed stays so through work that admits no later entry. -/
theorem Dev.passesPoint_of {lk : Locked} {d e : Dev} (h : (d.pointPassed lk).admits (d.flag .fhc 0 0x100 0 = true) e) :
    d.passesPoint e := by
  obtain ⟨ho, hp, hm, -, hs⟩ := d.pointOpened_spec
  have htim : d.pointOpened.tim = d.tim := (congrArg Dev.tim ho :)
  have hdet : d.pointOpened.det = { d.det with sigClr := false } := (congrArg Dev.det ho :)
  have hfe : d.pointOpened.pci.fetched = d.pci.fetched := (congrArg (fun d : Dev => d.pci.fetched) ho :)
  have hwa : d.pointOpened.wtn.wait = d.wtn.wait := (congrArg (fun d : Dev => d.wtn.wait) ho :)
  have hin : d.pointOpened.rxc.ingress = d.rxc.ingress := (congrArg (fun d : Dev => d.rxc.ingress) ho :)
  have hn := d.admits_pointEntered lk
  have hr (o : Nat) : (d.pointPassed lk).reg .det 0 o = (d.pointEntered lk).reg .det 0 o := rfl
  have ht : (d.pointPassed lk).tim = d.tim := hn.tim.trans htim
  have hmode : (d.pointPassed lk).flag .det 0 0x100 1 = d.flag .det 0 0x100 1 := by
    rw [Dev.flag, hr, hn.mode, hm, Dev.flag]
  refine ⟨?_, ?_, fun hc hf => ?_, fun x hx hg hl => ?_, fun m hx hl => ?_, fun hf f hx hl => ?_⟩
  · rw [h.det, Dev.pointPassed, hn.tim, hn.det, htim, hdet]
  · rw [h.points, hr, hn.points, hp]
  · obtain ⟨h1, h2⟩ := h.sigs (hmode.trans hf)
    obtain ⟨n1, n2⟩ := hn.sigs (by rw [Dev.flag, hm, ← hf, Dev.flag])
    obtain ⟨s1, s2⟩ := hs hc
    rw [h1, h2, hr, hr, n1, n2, s1, s2]
    exact ⟨rfl, rfl⟩
  · exact h.fetched x (hn.fetched x (by rw [hfe]; exact hx) hg (by rw [htim]; exact hl)) hg (by rw [ht]; exact hl)
  · exact h.wait m (hn.wait m (by rw [hwa]; exact hx) (by rw [htim]; exact hl)) (by rw [ht]; exact hl)
  · exact h.ingress hf f (hn.ingress hf f (by rw [hin]; exact hx) (by rw [htim]; exact hl)) (by rw [ht]; exact hl)

theorem passesPoint_effAdmissionPoint {d : Dev} (lk : Locked) (hh : d.pwr.held = false) (hd : d.pointDue = true)
    (hl : d.det.lastAdm.map (·.1) ≠ some d.tim.tick) : d.passesPoint (effAdmissionPoint lk d) := by
  rw [effAdmissionPoint_due lk hh hd hl]
  refine Dev.passesPoint_of (((Dev.admits_takeJobEntries _ (d.pointPassed lk)).trans (Dev.admKeeps.admits ?_ _)))
  exact (Dev.admKeeps_admitJobs ..).trans (Dev.admKeeps_takeNotices ..)

end Sys2Proof.Machine

/-! ## The obligation -/

open Sys2Proof Sys2Proof.Machine

/-- Settles O40: DET_CTRL and the alignment commands change the determinism unit alone, and an admission point takes from
the crossing buffers only what is stamped early enough. -/
theorem alignmentAndAdmission : Obligations.AlignmentAndAdmission := by
  unfold Obligations.AlignmentAndAdmission
  have hwrite {s : State} {i : Instr} {w : World} {v : W32} (hw : s.d.takesWrite s.lk w .det 0)
      (hx : exec i s = .next (s.onAll (writeReg w .det 0 0x100 v.toNat))) :
      exec i s = .next { s with d := s.d.detCtrl v.toNat } := by
    rw [← s.d.blockWrite_detCtrl s.lk]
    exact exec_blockWrite hx hw rfl v.isLt (by decide) (fun _ => by decide) (by simp) (by simp)
  refine ⟨?align, ?strobe, ?restart, ?lost, ?clear, ?idle, ?point⟩
  case align =>
    intro s w v ready hw h0 h2
    have hx := hwrite (i := .alignGo w v) hw rfl
    refine ⟨_, hx, ?_⟩
    by_cases hr : s.d.alignReady = true
    · rw [Dev.detCtrl_asks h0 h2 hr]
      refine ⟨rfl, fun _ => ⟨?_, ?_, rfl⟩, fun hn => absurd (s.d.alignReady_iff.1 hr) hn⟩
      · change ((s.d.detMode v.toNat).setFld .det 0 0x104 1 1 1).flag .det 0 0x104 1 = true
        simp [Dev.flag]
      · have h : s.d.keepsRegs ((s.d.detMode v.toNat).setFld .det 0 0x104 1 1 1) [(.det, 0, 0x100), (.det, 0, 0x104)] :=
          (s.d.keepsRegs_setFld .det 0 0x100 1 1 _ (by simp)).trans (Dev.keepsRegs_setFld _ .det 0 0x104 1 1 1 (by simp))
        exact h.rg_right rfl
    · rw [Dev.detCtrl_refused h0 hr]
      have hs := s.d.err_regsOnly .det 0 errState 0x100
      have hc := s.d.reg_err_count .det 0 errState 0x100
      have hk : s.d.keepsRegs (s.d.err .det 0 errState 0x100) [(.det, 0, 0x028), (.det, 0, 0x02C)] :=
        s.d.keepsRegs_err _ _ _ _ (by simp) (by simp)
      generalize s.d.err .det 0 errState 0x100 = e at *
      obtain ⟨r, rfl⟩ : ∃ r, e = { s.d with rg := r } := ⟨_, hs⟩
      exact ⟨rfl, fun h => absurd (s.d.alignReady_iff.2 h) hr, fun _ => ⟨rfl, hc, hk⟩⟩
  case strobe =>
    intro s k ha hn hon hr
    have he : effAlignmentStrobe s.d = { s.d with det := { s.d.det with strobe := some s.d.tim.tick } } := by
      simp only [effAlignmentStrobe, ha, hn, hon, hr, Bool.and_self, if_true]
    exact ⟨_, exec_onDev (f := effAlignmentStrobe) rfl he, rfl⟩
  case restart =>
    intro s k hs hp h4
    have hno : effQueueRestart false s.d = s.d := by simp [effQueueRestart, hs]
    have he : effQueueRestart true s.d =
        (Dev.setReg { s.d with det := { s.d.det with asked := none, strobe := none } } .det 0 0x104 1).bump .det 0 0x10C 1 := by
      simp only [effQueueRestart, hs, hp, h4, decide_true, Bool.and_self, if_true]
    refine ⟨exec_onDev (f := effQueueRestart false) rfl hno, _, exec_onDev (f := effQueueRestart true) rfl he, ?_⟩
    generalize hd : ({ s.d with det := { s.d.det with asked := none, strobe := none } } : Dev) = d
    have h0 := (d.setReg_regsOnly .det 0 0x104 1).trans (Dev.bump_regsOnly _ .det 0 0x10C 1)
    have h104 : ((d.setReg .det 0 0x104 1).bump .det 0 0x10C 1).reg .det 0 0x104 = 1 := by simp
    have h10C : ((d.setReg .det 0 0x104 1).bump .det 0 0x10C 1).reg .det 0 0x10C = satAdd (d.reg .det 0 0x10C) 1 := by simp
    have hk : d.keepsRegs ((d.setReg .det 0 0x104 1).bump .det 0 0x10C 1) [(.det, 0, 0x104), (.det, 0, 0x10C)] :=
      (d.keepsRegs_setReg _ _ _ _ (by simp)).trans (Dev.keepsRegs_bump _ _ _ _ _ (by simp))
    generalize (d.setReg .det 0 0x104 1).bump .det 0 0x10C 1 = e at *
    obtain ⟨r, rfl⟩ : ∃ r, e = { d with rg := r } := ⟨_, h0⟩
    subst hd
    exact ⟨rfl, h104, h10C, hk⟩
  case lost =>
    intro s
    refine ⟨_, exec_onDev (f := effAlignLost) rfl rfl, ?_⟩
    have h0 := (s.d.setFld_regsOnly .det 0 0x104 0 0 0).trans (Dev.sticky_regsOnly _ .det 0 0)
    have h104 : (effAlignLost s.d).flag .det 0 0x104 0 = false := by simp [effAlignLost, Dev.flag]
    have h120 : (effAlignLost s.d).flag .det 0 0x120 0 = true := by
      have := (s.d.setFld .det 0 0x104 0 0 0).flag_sticky_self .det 0 (b := 0) (by decide) 0
      exact this.trans (by simp)
    have hk : s.d.keepsRegs (effAlignLost s.d) [(.det, 0, 0x104), (.det, 0, 0x120), (.det, 0, 0x020)] :=
      (s.d.keepsRegs_setFld _ _ _ _ _ _ (by simp)).trans (Dev.keepsRegs_sticky _ _ _ _ (by simp) (by simp))
    change s.d.regsOnly (effAlignLost s.d) at h0
    generalize effAlignLost s.d = e at *
    obtain ⟨r, rfl⟩ : ∃ r, e = { s.d with rg := r } := ⟨_, h0⟩
    exact ⟨rfl, h104, h120, hk⟩
  case clear =>
    intro s w v hw h0 h2
    have hx := hwrite (i := .sigClr w v) hw rfl
    rw [Dev.detCtrl_clears h0 h2] at hx
    have hk : s.d.keepsRegs (s.d.detMode v.toNat) [(.det, 0, 0x100)] := s.d.keepsRegs_setFld _ _ _ _ _ _ (by simp)
    exact ⟨_, hx, rfl, hk.rg_right rfl⟩
  case idle =>
    intro s h
    exact exec_onLk (f := effAdmissionPoint) rfl (effAdmissionPoint_idle s.lk h)
  case point =>
    intro s hh hd hl
    have hp := passesPoint_effAdmissionPoint s.lk hh hd hl
    exact ⟨_, exec_onLk (f := effAdmissionPoint) rfl rfl, rfl, rfl, hp.det, hp.points, hp.sigs, hp.fetched, hp.wait, hp.ingress⟩

end
